-- ==== Sys2Proof/Word.lean ====
section
/-! DEFINITION. The widths of the Garvas architecture: a byte, a 32-bit instruction word or
memory word, a 64-bit scalar, and a 64-byte row, the unit of single-copy atomic access (R232). -/

namespace Sys2Proof

/-- One byte of memory. -/
abbrev Byte := BitVec 8
/-- One instruction word (R62), or one word of the SEC-DED memories (R421). -/
abbrev W32 := BitVec 32
/-- A scalar register, an address, a 64-bit operand (R88). -/
abbrev Word := BitVec 64
/-- A row of 64 bytes; byte q lies at bits [8q+7:8q] (R3, R232). -/
abbrev Row := BitVec 512

end Sys2Proof
end

