-- ==== Sys2Proof/Syntax.lean ====
section
/-! DEFINITION. What a program writes: one constructor of Instr per row of the opcode table (R73 to
R79, and the steps of 95_what_each_step_holds.md), with the fields of its encoding (R62, R64) and
the IMM and MOD words of its group (R67, R68). Arguments of a word carry the letters the opcode
table gives its fields. -/

namespace Sys2Proof

/-- The four clusters of a context (R14). -/
inductive Clu where | c | a | v | m
  deriving DecidableEq, Repr

/-- A cluster of a context of a core; `core` is logical die x 16 + logical core (R10, R25). -/
structure Who where
  core : Nat
  ctx : Nat
  clu : Clu
  deriving DecidableEq, Repr

/-- The header fields SYNC, WAIT, SIG and ISS of a word (R62, Table 3.1). -/
structure Hdr where
  sync : BitVec 1
  wait : BitVec 2
  sig : BitVec 2
  iss : BitVec 2
  deriving DecidableEq, Repr

/-- The MOD word's fields (R68, Table 3.5). -/
structure ModF where
  km : BitVec 3
  z : BitVec 1
  sat : BitVec 1
  ro : BitVec 2
  rm : BitVec 2
  deriving DecidableEq, Repr

/-- The 28 high bits an IMM word supplies (R67). -/
abbrev ImmF := BitVec 28

/-- Where the dispatcher puts a task: a core, a context number and a frame origin (R18, R131). -/
structure Place where
  core : Nat
  ctx : Nat
  fo : Nat
  deriving DecidableEq, Repr

/-- One device's contribution to a collective (R313). -/
structure Contribution where
  dev : Nat
  group : Nat
  tag : Nat
  control : Word
  isCast : Bool
  op : Nat
  bytes : List Byte
  hasRoute : Bool
  deriving DecidableEq, Repr

/-- What a fabric packet asks of its destination (R303, R308, R309, R220). -/
inductive PacketOp where
  /-- write these bytes from this system address on, in address order -/
  | write (addr : Nat) (bytes : List Byte)
  /-- write the bytes of a row that a mask selects, with a poison mark for each word (R209) -/
  | put (row mask data pois : Nat)
  /-- read this many bytes -/
  | read (addr len : Nat)
  /-- RATOM: operation, 64-bit size or not, operand, and the new value of CAS -/
  | atom (op : Nat) (wide : Bool) (addr : Nat) (v new : Word)
  /-- take the sender's contribution to a collective (R313) -/
  | coll (c : Contribution)
  deriving DecidableEq, Repr

/-- A packet of the Etteoc fabric: its triple, its number, whether every flit passed its check
(R303, R419). -/
structure Packet where
  src : Nat
  dst : Nat
  cls : Nat
  seq : Nat
  op : PacketOp
  port : Nat
  ok : Bool
  deriving DecidableEq, Repr

/-- An acknowledgement reaching this device: triple, number, the old value or the bytes read, and a
failure status of the far end (R304, R308, R420). -/
structure Ack where
  dst : Nat
  cls : Nat
  seq : Nat
  old : Word
  bytes : List Byte
  status : Nat
  deriving DecidableEq, Repr

/-- A unit with a suspicion score: a physical die, or a core of one (R353). -/
inductive ScoreUnit where
  | die (p : Nat)
  | core (p q : Nat)
  deriving DecidableEq, Repr

/-- A copy of the configuration record (R403): whether its signature verifies, its update count, the bindings of the
spare map that differ from the identity (number of the unit as in State.spare, physical unit), the retired units (kind,
physical number), the erasure seeds and the island trims. -/
structure ConfigRecord where
  valid : Bool
  count : BitVec 32
  spares : List (Nat × Nat)
  retired : List (Nat × Nat)
  erasures : List (Nat × Nat × Nat × BitVec 8)
  trims : List Nat
  deriving DecidableEq, Repr

/-- The management registers a write can name beside those with steps of their own (R398, R407). -/
inductive MgmtReg where
  /-- members, root, ROOTN and kernel-table base of a partition (R12, R318, R334) -/
  | partition (p : Nat) (dies : List Nat) (root rootn ktab : Nat)
  | poolRange (p base size : Nat)
  | launchQueue (p q base size : Nat)
  | completionRing (p q base entries : Nat)
  | taskQueue (q p ringBase rs : Nat)
  | debugEnable (p : Nat) (on : Bool)
  | stopArea (p base : Nat)
  | traceSetup (p : Nat) (kinds : Nat) (period : Nat)
  | traceRing (die base size : Nat)
  | thresholds (dth cth : Nat)
  | perfCounter (core n : Nat) (v : Nat)
  | perfOverflowClear (core n : Nat)
  | erasure (stack pc i : Nat) (v : BitVec 8)
  | extWindow (base size : Nat)
  | group (g : Nat) (devs : List Nat)
  | route (i dst port : Nat) (up : Bool)
  | routeTimeout (us : Nat)
  | maskVector (v : Nat)
  | swapThreshold (bank n : Nat)
  /-- width of the activation counters (R347, R365) -/
  | activationWidth (bits : Nat)
  /-- watchdog limit of a task queue (R355, R398) -/
  | watchdogLimit (q wl : Nat)
  /-- a spare map change: unit descriptor and spare, as in SPARE (R394, R398) -/
  | spareUnit (unit spare : Word)
  /-- a new window of a bank's activation counts begins (R365) -/
  | swapWindow (bank : Nat)
  | hold (q : Nat) (on : Bool)
  /-- power budget of an island, in watts (R407) -/
  | powerBudget (island watts : Nat)
  | scrubRate (n : Nat)
  /-- writes the copy of the configuration record that is not in force, and makes it valid (R403) -/
  | configWrite (r : ConfigRecord)
  | configCommit
  deriving DecidableEq, Repr

/-- A request of the host through the BAR4 mailbox (R397, R398, R405). -/
inductive MailboxReq where
  | kernelEntry (p k : Nat) (image control size : Word)
  | loadImage (addr : Nat) (bytes : List Byte)
  | policy (r : MgmtReg)
  /-- an RDMA queue pair of an Ethernet port (R401) -/
  | queuePair (port qp : Nat)
  /-- a firmware image, and whether its signature verifies (R402, R404) -/
  | firmware (ok : Bool)
  deriving DecidableEq, Repr

/-- A request of the host in a slot of the mailbox (R397, R399). -/
structure MailboxMsg where
  slot : Nat
  req : MailboxReq
  deriving DecidableEq, Repr

/-- What Stage 1 finds and sets: whether the flash's firmware verifies, and the suspicion thresholds (R402, R404). -/
structure FirmwareStart where
  verifies : Bool
  dth : Nat
  cth : Nat
  deriving DecidableEq, Repr

/-- Every row of the opcode table. -/
inductive Instr where
  /-- NOP (R111). -/
  | nop (h : Hdr)
  /-- ADD (R105). -/
  | add (h : Hdr) (d : BitVec 5) (a : BitVec 5) (b : BitVec 5)
  /-- SUB (R105). -/
  | sub (h : Hdr) (d : BitVec 5) (a : BitVec 5) (b : BitVec 5)
  /-- MUL (R105). -/
  | mul (h : Hdr) (d : BitVec 5) (a : BitVec 5) (b : BitVec 5)
  /-- MULHS (R105). -/
  | mulhs (h : Hdr) (d : BitVec 5) (a : BitVec 5) (b : BitVec 5)
  /-- MULHN (R105). -/
  | mulhn (h : Hdr) (d : BitVec 5) (a : BitVec 5) (b : BitVec 5)
  /-- DIVS (R106). -/
  | divs (h : Hdr) (d : BitVec 5) (a : BitVec 5) (b : BitVec 5)
  /-- DIVN (R106). -/
  | divn (h : Hdr) (d : BitVec 5) (a : BitVec 5) (b : BitVec 5)
  /-- REMS (R106). -/
  | rems (h : Hdr) (d : BitVec 5) (a : BitVec 5) (b : BitVec 5)
  /-- REMN (R106). -/
  | remn (h : Hdr) (d : BitVec 5) (a : BitVec 5) (b : BitVec 5)
  /-- AND (R105). -/
  | and (h : Hdr) (d : BitVec 5) (a : BitVec 5) (b : BitVec 5)
  /-- OR (R105). -/
  | or (h : Hdr) (d : BitVec 5) (a : BitVec 5) (b : BitVec 5)
  /-- XOR (R105). -/
  | xor (h : Hdr) (d : BitVec 5) (a : BitVec 5) (b : BitVec 5)
  /-- ANDN (R105). -/
  | andn (h : Hdr) (d : BitVec 5) (a : BitVec 5) (b : BitVec 5)
  /-- SHL (R105). -/
  | shl (h : Hdr) (d : BitVec 5) (a : BitVec 5) (b : BitVec 5)
  /-- SHR (R105). -/
  | shr (h : Hdr) (d : BitVec 5) (a : BitVec 5) (b : BitVec 5)
  /-- SHA (R105). -/
  | sha (h : Hdr) (d : BitVec 5) (a : BitVec 5) (b : BitVec 5)
  /-- ROL (R105). -/
  | rol (h : Hdr) (d : BitVec 5) (a : BitVec 5) (b : BitVec 5)
  /-- MIN (R105). -/
  | min (h : Hdr) (d : BitVec 5) (a : BitVec 5) (b : BitVec 5)
  /-- MAX (R105). -/
  | max (h : Hdr) (d : BitVec 5) (a : BitVec 5) (b : BitVec 5)
  /-- MINN (R105). -/
  | minn (h : Hdr) (d : BitVec 5) (a : BitVec 5) (b : BitVec 5)
  /-- MAXN (R105). -/
  | maxn (h : Hdr) (d : BitVec 5) (a : BitVec 5) (b : BitVec 5)
  /-- CLZ (R107). -/
  | clz (h : Hdr) (d : BitVec 5) (a : BitVec 5)
  /-- POPC (R107). -/
  | popc (h : Hdr) (d : BitVec 5) (a : BitVec 5)
  /-- BFX (R108). -/
  | bfx (h : Hdr) (d : BitVec 5) (a : BitVec 5) (b : BitVec 5)
  /-- BFI (R108). -/
  | bfi (h : Hdr) (d : BitVec 5) (a : BitVec 5) (b : BitVec 5)
  /-- ADDI (R109). -/
  | addi (h : Hdr) (x : Option ImmF) (d : BitVec 5) (a : BitVec 5) (m : BitVec 5)
  /-- SHLI (R109). -/
  | shli (h : Hdr) (x : Option ImmF) (d : BitVec 5) (a : BitVec 5) (m : BitVec 5)
  /-- SHRI (R109). -/
  | shri (h : Hdr) (x : Option ImmF) (d : BitVec 5) (a : BitVec 5) (m : BitVec 5)
  /-- SHAI (R109). -/
  | shai (h : Hdr) (x : Option ImmF) (d : BitVec 5) (a : BitVec 5) (m : BitVec 5)
  /-- ANDI (R109). -/
  | andi (h : Hdr) (x : Option ImmF) (d : BitVec 5) (a : BitVec 5) (m : BitVec 5)
  /-- LI (R110). -/
  | li (h : Hdr) (x : Option ImmF) (d : BitVec 5) (m : BitVec 10)
  /-- LIH (R110). -/
  | lih (h : Hdr) (x : Option ImmF) (d : BitVec 5)
  /-- MOV (R111). -/
  | mov (h : Hdr) (d : BitVec 5) (a : BitVec 5)
  /-- CMOV (R111). -/
  | cmov (h : Hdr) (d : BitVec 5) (a : BitVec 5) (p : BitVec 3)
  /-- CMPEQ (R112). -/
  | cmpeq (h : Hdr) (p : BitVec 3) (a : BitVec 5) (b : BitVec 5)
  /-- CMPNE (R112). -/
  | cmpne (h : Hdr) (p : BitVec 3) (a : BitVec 5) (b : BitVec 5)
  /-- CMPLT (R112). -/
  | cmplt (h : Hdr) (p : BitVec 3) (a : BitVec 5) (b : BitVec 5)
  /-- CMPLE (R112). -/
  | cmple (h : Hdr) (p : BitVec 3) (a : BitVec 5) (b : BitVec 5)
  /-- CMPLTN (R112). -/
  | cmpltn (h : Hdr) (p : BitVec 3) (a : BitVec 5) (b : BitVec 5)
  /-- CMPLEN (R112). -/
  | cmplen (h : Hdr) (p : BitVec 3) (a : BitVec 5) (b : BitVec 5)
  /-- PAND (R113). -/
  | pand (h : Hdr) (d : BitVec 3) (a : BitVec 3) (b : BitVec 3)
  /-- POR (R113). -/
  | por (h : Hdr) (d : BitVec 3) (a : BitVec 3) (b : BitVec 3)
  /-- PXOR (R113). -/
  | pxor (h : Hdr) (d : BitVec 3) (a : BitVec 3) (b : BitVec 3)
  /-- BR (R114). -/
  | br (h : Hdr) (x : Option ImmF) (p : BitVec 3) (n : BitVec 1) (o : BitVec 11)
  /-- JMP (R114). -/
  | jmp (h : Hdr) (x : Option ImmF) (o : BitVec 11)
  /-- JMPR (R114). -/
  | jmpr (h : Hdr) (a : BitVec 5)
  /-- CALL (R114). -/
  | call (h : Hdr) (x : Option ImmF) (o : BitVec 11)
  /-- RET (R114). -/
  | ret (h : Hdr)
  /-- LOOP (R115). -/
  | loop (h : Hdr) (d : BitVec 5) (l : BitVec 10)
  /-- LOOPI (R116). -/
  | loopi (h : Hdr) (x : Option ImmF) (c : BitVec 5) (l : BitVec 10)
  /-- LOOPP (R117). -/
  | loopp (h : Hdr) (d : BitVec 5) (s : BitVec 3) (k : BitVec 7)
  /-- BRKL (R118). -/
  | brkl (h : Hdr) (p : BitVec 3) (n : BitVec 1)
  /-- END (R119). -/
  | endStream (h : Hdr)
  /-- TAIL (R120). -/
  | tail (h : Hdr)
  /-- POST (R121). -/
  | post (h : Hdr) (f : BitVec 5)
  /-- AWAIT (R121). -/
  | await (h : Hdr) (f : BitVec 5)
  /-- POSTG (R122). -/
  | postg (h : Hdr) (f : BitVec 5) (a : BitVec 5)
  /-- BAR (R123). -/
  | bar (h : Hdr) (n : BitVec 4)
  /-- FENCE (R124). -/
  | fence (h : Hdr) (c : BitVec 2) (o : BitVec 2)
  /-- RDS (R125). -/
  | rds (h : Hdr) (d : BitVec 5) (r : BitVec 10)
  /-- WRS (R125). -/
  | wrs (h : Hdr) (d : BitVec 5) (r : BitVec 10)
  /-- SETRM (R126). -/
  | setrm (h : Hdr) (r : BitVec 2)
  /-- SEED (R127). -/
  | seed (h : Hdr) (a : BitVec 5) (b : BitVec 5)
  /-- VIEW (R128). -/
  | view (h : Hdr) (v : BitVec 2) (a : BitVec 5) (b : BitVec 5)
  /-- MARK (R129). -/
  | mark (h : Hdr) (n : BitVec 10)
  /-- MARKQ (R129). -/
  | markq (h : Hdr) (p : BitVec 3) (n : BitVec 10)
  /-- TRAP (R130). -/
  | trap (h : Hdr) (c : BitVec 10)
  /-- BKPT (R130). -/
  | bkpt (h : Hdr)
  /-- AADD (R224). -/
  | aadd (h : Hdr) (d : BitVec 5) (a : BitVec 5) (b : BitVec 5)
  /-- AADDI (R224). -/
  | aaddi (h : Hdr) (x : Option ImmF) (d : BitVec 5) (a : BitVec 5) (m : BitVec 5)
  /-- ASUB (R224). -/
  | asub (h : Hdr) (d : BitVec 5) (a : BitVec 5) (b : BitVec 5)
  /-- AMOV (R224). -/
  | amov (h : Hdr) (d : BitVec 5) (a : BitVec 5)
  /-- ALI (R224). -/
  | ali (h : Hdr) (x : Option ImmF) (d : BitVec 5) (m : BitVec 10)
  /-- AMODE (R222). -/
  | amode (h : Hdr) (d : BitVec 5) (a : BitVec 5)
  /-- ABASE (R224). -/
  | abase (h : Hdr) (d : BitVec 5) (a : BitVec 5)
  /-- AINC (R224). -/
  | ainc (h : Hdr) (d : BitVec 5) (a : BitVec 5)
  /-- LDQ (R225). -/
  | ldq (h : Hdr) (q : BitVec 2) (a : BitVec 5) (b : BitVec 5)
  /-- LDQX (R226). -/
  | ldqx (h : Hdr) (md : Option ModF) (c : BitVec 3) (q : BitVec 2) (a : BitVec 5) (b : BitVec 5)
  /-- LDS (R225). -/
  | lds (h : Hdr) (d : BitVec 5) (a : BitVec 5) (b : BitVec 5)
  /-- LDB (R225). -/
  | ldb (h : Hdr) (q : BitVec 2) (a : BitVec 5) (b : BitVec 5)
  /-- STQ (R225). -/
  | stq (h : Hdr) (q : BitVec 2) (a : BitVec 5) (b : BitVec 5)
  /-- STQX (R226). -/
  | stqx (h : Hdr) (md : Option ModF) (r : BitVec 2) (c : BitVec 3) (q : BitVec 2) (a : BitVec 5) (p : BitVec 1) (e : BitVec 1) (hist : BitVec 3)
  /-- LDM (R227). -/
  | ldm (h : Hdr) (m : BitVec 1) (a : BitVec 5) (b : BitVec 5)
  /-- STM (R227). -/
  | stm (h : Hdr) (m : BitVec 1) (a : BitVec 5) (b : BitVec 5)
  /-- RMERGE (R227). -/
  | rmerge (h : Hdr) (q : BitVec 2) (a : BitVec 5)
  /-- MBPUT (R227). -/
  | mbput (h : Hdr) (m : BitVec 1) (a : BitVec 5) (b : BitVec 5)
  /-- MBGET (R227). -/
  | mbget (h : Hdr) (d : BitVec 5) (m : BitVec 1) (b : BitVec 5)
  /-- LDG (R228). -/
  | ldg (h : Hdr) (q : BitVec 2) (a : BitVec 5) (b : BitVec 5)
  /-- STG (R228). -/
  | stg (h : Hdr) (q : BitVec 2) (a : BitVec 5) (b : BitVec 5)
  /-- LDGX (R228). -/
  | ldgx (h : Hdr) (md : Option ModF) (c : BitVec 3) (q : BitVec 2) (a : BitVec 5) (b : BitVec 5)
  /-- STGX (R228). -/
  | stgx (h : Hdr) (md : Option ModF) (c : BitVec 3) (q : BitVec 2) (a : BitVec 5) (b : BitVec 5)
  /-- PFG (R228). -/
  | pfg (h : Hdr) (a : BitVec 5) (b : BitVec 5)
  /-- LDL (R210). -/
  | ldl (h : Hdr) (q : BitVec 2) (a : BitVec 5) (b : BitVec 5)
  /-- STU (R210). -/
  | stu (h : Hdr) (q : BitVec 2) (a : BitVec 5) (b : BitVec 5)
  /-- ATOMG (R229). -/
  | atomg (h : Hdr) (o : BitVec 3) (z : BitVec 1) (r : BitVec 2) (c : BitVec 2) (s : BitVec 4) (x : BitVec 3)
  /-- CASG (R229). -/
  | casg (h : Hdr) (z : BitVec 1) (r : BitVec 2) (c : BitVec 2) (s : BitVec 4) (x : BitVec 3)
  /-- FADD (R153). -/
  | fadd (h : Hdr) (md : Option ModF) (r : BitVec 2) (d : BitVec 5) (a : BitVec 5) (b : BitVec 5)
  /-- FSUB (R153). -/
  | fsub (h : Hdr) (md : Option ModF) (r : BitVec 2) (d : BitVec 5) (a : BitVec 5) (b : BitVec 5)
  /-- FMUL (R153). -/
  | fmul (h : Hdr) (md : Option ModF) (r : BitVec 2) (d : BitVec 5) (a : BitVec 5) (b : BitVec 5)
  /-- FMA (R153). -/
  | fma (h : Hdr) (md : Option ModF) (r : BitVec 2) (d : BitVec 5) (a : BitVec 5) (b : BitVec 5)
  /-- FMS (R153). -/
  | fms (h : Hdr) (md : Option ModF) (r : BitVec 2) (d : BitVec 5) (a : BitVec 5) (b : BitVec 5)
  /-- FNMA (R153). -/
  | fnma (h : Hdr) (md : Option ModF) (r : BitVec 2) (d : BitVec 5) (a : BitVec 5) (b : BitVec 5)
  /-- FDIV (R153). -/
  | fdiv (h : Hdr) (md : Option ModF) (r : BitVec 2) (d : BitVec 5) (a : BitVec 5) (b : BitVec 5)
  /-- FSQRT (R153). -/
  | fsqrt (h : Hdr) (md : Option ModF) (r : BitVec 2) (d : BitVec 5) (a : BitVec 5)
  /-- FCVT (R154). -/
  | fcvt (h : Hdr) (md : Option ModF) (r : BitVec 2) (d : BitVec 5) (a : BitVec 5)
  /-- FMIN (R155). -/
  | fmin (h : Hdr) (md : Option ModF) (d : BitVec 5) (a : BitVec 5) (b : BitVec 5)
  /-- FMAX (R155). -/
  | fmax (h : Hdr) (md : Option ModF) (d : BitVec 5) (a : BitVec 5) (b : BitVec 5)
  /-- FABS (R156). -/
  | fabs (h : Hdr) (md : Option ModF) (d : BitVec 5) (a : BitVec 5)
  /-- FNEG (R156). -/
  | fneg (h : Hdr) (md : Option ModF) (d : BitVec 5) (a : BitVec 5)
  /-- FCMPEQ (R157). -/
  | fcmpeq (h : Hdr) (md : Option ModF) (k : BitVec 3) (a : BitVec 5) (b : BitVec 5)
  /-- FCMPLT (R157). -/
  | fcmplt (h : Hdr) (md : Option ModF) (k : BitVec 3) (a : BitVec 5) (b : BitVec 5)
  /-- FCMPLE (R157). -/
  | fcmple (h : Hdr) (md : Option ModF) (k : BitVec 3) (a : BitVec 5) (b : BitVec 5)
  /-- FCLASS (R158). -/
  | fclass (h : Hdr) (md : Option ModF) (d : BitVec 5) (a : BitVec 5)
  /-- FRCP (R159). -/
  | frcp (h : Hdr) (md : Option ModF) (d : BitVec 5) (a : BitVec 5)
  /-- FRSQ (R159). -/
  | frsq (h : Hdr) (md : Option ModF) (d : BitVec 5) (a : BitVec 5)
  /-- FEXP2 (R159). -/
  | fexp2 (h : Hdr) (md : Option ModF) (d : BitVec 5) (a : BitVec 5)
  /-- FLOG2 (R159). -/
  | flog2 (h : Hdr) (md : Option ModF) (d : BitVec 5) (a : BitVec 5)
  /-- FTANH (R159). -/
  | ftanh (h : Hdr) (md : Option ModF) (d : BitVec 5) (a : BitVec 5)
  /-- FSIGM (R159). -/
  | fsigm (h : Hdr) (md : Option ModF) (d : BitVec 5) (a : BitVec 5)
  /-- FSIN (R159). -/
  | fsin (h : Hdr) (md : Option ModF) (d : BitVec 5) (a : BitVec 5)
  /-- FCOS (R159). -/
  | fcos (h : Hdr) (md : Option ModF) (d : BitVec 5) (a : BitVec 5)
  /-- IADD (R160). -/
  | iadd (h : Hdr) (md : Option ModF) (d : BitVec 5) (a : BitVec 5) (b : BitVec 5)
  /-- ISUB (R160). -/
  | isub (h : Hdr) (md : Option ModF) (d : BitVec 5) (a : BitVec 5) (b : BitVec 5)
  /-- IMUL (R160). -/
  | imul (h : Hdr) (md : Option ModF) (d : BitVec 5) (a : BitVec 5) (b : BitVec 5)
  /-- IMULH (R160). -/
  | imulh (h : Hdr) (md : Option ModF) (d : BitVec 5) (a : BitVec 5) (b : BitVec 5)
  /-- IMAD (R160). -/
  | imad (h : Hdr) (md : Option ModF) (d : BitVec 5) (a : BitVec 5) (b : BitVec 5)
  /-- IMIN (R160). -/
  | imin (h : Hdr) (md : Option ModF) (d : BitVec 5) (a : BitVec 5) (b : BitVec 5)
  /-- IMAX (R160). -/
  | imax (h : Hdr) (md : Option ModF) (d : BitVec 5) (a : BitVec 5) (b : BitVec 5)
  /-- IAND (R160). -/
  | iand (h : Hdr) (md : Option ModF) (d : BitVec 5) (a : BitVec 5) (b : BitVec 5)
  /-- IOR (R160). -/
  | ior (h : Hdr) (md : Option ModF) (d : BitVec 5) (a : BitVec 5) (b : BitVec 5)
  /-- IXOR (R160). -/
  | ixor (h : Hdr) (md : Option ModF) (d : BitVec 5) (a : BitVec 5) (b : BitVec 5)
  /-- ISHL (R160). -/
  | ishl (h : Hdr) (md : Option ModF) (d : BitVec 5) (a : BitVec 5) (b : BitVec 5)
  /-- ISHR (R160). -/
  | ishr (h : Hdr) (md : Option ModF) (d : BitVec 5) (a : BitVec 5) (b : BitVec 5)
  /-- ISHA (R160). -/
  | isha (h : Hdr) (md : Option ModF) (d : BitVec 5) (a : BitVec 5) (b : BitVec 5)
  /-- ICMPEQ (R162). -/
  | icmpeq (h : Hdr) (md : Option ModF) (k : BitVec 3) (a : BitVec 5) (b : BitVec 5)
  /-- ICMPLT (R162). -/
  | icmplt (h : Hdr) (md : Option ModF) (k : BitVec 3) (a : BitVec 5) (b : BitVec 5)
  /-- ICMPLTN (R162). -/
  | icmpltn (h : Hdr) (md : Option ModF) (k : BitVec 3) (a : BitVec 5) (b : BitVec 5)
  /-- IADDS (R160). -/
  | iadds (h : Hdr) (md : Option ModF) (d : BitVec 5) (a : BitVec 5) (b : BitVec 5)
  /-- IDOT4 (R161). -/
  | idot4 (h : Hdr) (md : Option ModF) (d : BitVec 5) (a : BitVec 5) (b : BitVec 5)
  /-- TCMPLT (R162). -/
  | tcmplt (h : Hdr) (md : Option ModF) (k : BitVec 3) (a : BitVec 5) (b : BitVec 5)
  /-- VMOV (R163). -/
  | vmov (h : Hdr) (md : Option ModF) (d : BitVec 5) (a : BitVec 5)
  /-- VBCAST (R163). -/
  | vbcast (h : Hdr) (md : Option ModF) (d : BitVec 5) (a : BitVec 5)
  /-- VPERM (R164). -/
  | vperm (h : Hdr) (md : Option ModF) (d : BitVec 5) (a : BitVec 5) (b : BitVec 5)
  /-- VSHUF (R164). -/
  | vshuf (h : Hdr) (md : Option ModF) (d : BitVec 5) (a : BitVec 5) (b : BitVec 5)
  /-- VSEL (R164). -/
  | vsel (h : Hdr) (md : Option ModF) (d : BitVec 5) (a : BitVec 5) (b : BitVec 5)
  /-- VEXT (R165). -/
  | vext (h : Hdr) (md : Option ModF) (d : BitVec 5) (a : BitVec 5) (b : BitVec 5)
  /-- VINS (R165). -/
  | vins (h : Hdr) (md : Option ModF) (d : BitVec 5) (a : BitVec 5) (b : BitVec 5)
  /-- VLI (R163). -/
  | vli (h : Hdr) (x : Option ImmF) (md : Option ModF) (d : BitVec 5) (m : BitVec 10)
  /-- VRSUM (R166). -/
  | vrsum (h : Hdr) (md : Option ModF) (d : BitVec 5) (a : BitVec 5)
  /-- VRMAX (R166). -/
  | vrmax (h : Hdr) (md : Option ModF) (d : BitVec 5) (a : BitVec 5)
  /-- VRMIN (R166). -/
  | vrmin (h : Hdr) (md : Option ModF) (d : BitVec 5) (a : BitVec 5)
  /-- VROWSUM (R167). -/
  | vrowsum (h : Hdr) (md : Option ModF) (d : BitVec 5)
  /-- VCOLSUM (R167). -/
  | vcolsum (h : Hdr) (md : Option ModF) (d : BitVec 5)
  /-- VTRANS (R168). -/
  | vtrans (h : Hdr) (md : Option ModF)
  /-- KAND (R169). -/
  | kand (h : Hdr) (md : Option ModF) (d : BitVec 3) (a : BitVec 3) (b : BitVec 3)
  /-- KOR (R169). -/
  | kor (h : Hdr) (md : Option ModF) (d : BitVec 3) (a : BitVec 3) (b : BitVec 3)
  /-- KXOR (R169). -/
  | kxor (h : Hdr) (md : Option ModF) (d : BitVec 3) (a : BitVec 3) (b : BitVec 3)
  /-- KNOT (R169). -/
  | knot (h : Hdr) (md : Option ModF) (d : BitVec 3) (a : BitVec 3)
  /-- KPOPC (R169). -/
  | kpopc (h : Hdr) (md : Option ModF) (d : BitVec 5) (a : BitVec 3)
  /-- COMMIT (R171). -/
  | commit (h : Hdr) (t : BitVec 5)
  /-- VWIN (R170). -/
  | vwin (h : Hdr) (t : BitVec 4) (x : BitVec 1) (b : BitVec 7)
  /-- MMA (R278). -/
  | mma (h : Hdr) (c : BitVec 3) (t : BitVec 4) (u : BitVec 4) (e : BitVec 1) (f : BitVec 1) (r : BitVec 1)
  /-- MMAS (R278). -/
  | mmas (h : Hdr) (c : BitVec 3) (t : BitVec 4) (u : BitVec 4) (f : BitVec 1) (r : BitVec 1)
  /-- MZERO (R279). -/
  | mzero (h : Hdr) (c : BitVec 3)
  /-- MLDACC (R280). -/
  | mldacc (h : Hdr) (c : BitVec 3) (t : BitVec 4) (r : BitVec 1)
  /-- MSTACC (R281). -/
  | mstacc (h : Hdr) (c : BitVec 3) (t : BitVec 4)
  /-- MCKRD (R282). -/
  | mckrd (h : Hdr) (c : BitVec 3) (t : BitVec 4)
  /-- MDRAIN (R283). -/
  | mdrain (h : Hdr)
  /-- FMTPUSH (R284). -/
  | fmtpush (h : Hdr) (a : BitVec 5) (b : BitVec 5)
  /-- CPY (R300). -/
  | cpy (h : Hdr) (t : BitVec 5) (a : BitVec 5) (b : BitVec 5)
  /-- CPYL (R300). -/
  | cpyl (h : Hdr) (t : BitVec 5) (a : BitVec 5) (b : BitVec 5)
  /-- CPYW (R301). -/
  | cpyw (h : Hdr) (t : BitVec 5)
  /-- CPYQ (R302). -/
  | cpyq (h : Hdr) (p : BitVec 3) (t : BitVec 5)
  /-- RPUT (R308). -/
  | rput (h : Hdr) (d : BitVec 5) (a : BitVec 5) (b : BitVec 5)
  /-- RGET (R308). -/
  | rget (h : Hdr) (d : BitVec 5) (a : BitVec 5) (b : BitVec 5)
  /-- RATOM (R309). -/
  | ratom (h : Hdr) (z : BitVec 1) (o : BitVec 3) (a : BitVec 5) (b : BitVec 5)
  /-- RFENCE (R310). -/
  | rfence (h : Hdr)
  /-- CRED (R313). -/
  | cred (h : Hdr) (o : BitVec 2) (a : BitVec 5)
  /-- CBCAST (R313). -/
  | cbcast (h : Hdr) (a : BitVec 5)
  /-- TASKQ (R315). -/
  | taskq (h : Hdr) (a : BitVec 5) (b : BitVec 5)
  /-- LAUNCH (R341). -/
  | launch (h : Hdr) (a : BitVec 5)
  /-- ALMLD (R340). -/
  | almld (h : Hdr) (a : BitVec 5) (b : BitVec 5)
  /-- ALMCLR (R340). -/
  | almclr (h : Hdr)
  /-- ERES (R311). -/
  | eres (h : Hdr) (d : BitVec 5) (f : BitVec 2)
  /-- CBLD (R343). -/
  | cbld (h : Hdr) (a : BitVec 5)
  /-- SIGCLR (R188). -/
  | sigclr (h : Hdr) (n : BitVec 2)
  /-- SIGFOLD (R189). -/
  | sigfold (h : Hdr) (n : BitVec 2) (a : BitVec 5)
  /-- CSACC (R190). -/
  | csacc (h : Hdr) (n : BitVec 3) (a : BitVec 5)
  /-- CSCHK (R191). -/
  | cschk (h : Hdr) (n : BitVec 3) (a : BitVec 5)
  /-- CHKERR (R192). -/
  | chkerr (h : Hdr)
  /-- PROVRD (R193). -/
  | provrd (h : Hdr) (d : BitVec 5) (n : BitVec 2) (b : BitVec 5)
  /-- PROVCLR (R194). -/
  | provclr (h : Hdr) (n : BitVec 2)
  /-- SLOTW (R333). -/
  | slotw (h : Hdr) (d : BitVec 5) (a : BitVec 5)
  /-- TLBINV (R335). -/
  | tlbinv (h : Hdr) (a : BitVec 5) (b : BitVec 5)
  /-- CTXSAVE (R390). -/
  | ctxsave (h : Hdr) (d : BitVec 5) (a : BitVec 5) (b : BitVec 5)
  /-- CTXLOAD (R390). -/
  | ctxload (h : Hdr) (d : BitVec 5) (a : BitVec 5) (b : BitVec 5)
  /-- STOPRD (R391). -/
  | stoprd (h : Hdr) (d : BitVec 5) (a : BitVec 5) (b : BitVec 5)
  /-- INJECT (R391). -/
  | inject (h : Hdr) (d : BitVec 5) (a : BitVec 5)
  /-- HALTP (R392). -/
  | haltp (h : Hdr) (d : BitVec 5) (a : BitVec 5)
  /-- RESUMEP (R392). -/
  | resumep (h : Hdr) (d : BitVec 5) (a : BitVec 5)
  /-- GATE (R393). -/
  | gate (h : Hdr) (d : BitVec 5) (a : BitVec 5)
  /-- WAKE (R393). -/
  | wake (h : Hdr) (a : BitVec 5)
  /-- RETIRE (R394). -/
  | retire (h : Hdr) (d : BitVec 5) (a : BitVec 5)
  /-- SPARE (R394). -/
  | spare (h : Hdr) (d : BitVec 5) (a : BitVec 5) (b : BitVec 5)
  /-- WDSET (R356). -/
  | wdset (h : Hdr) (a : BitVec 5) (b : BitVec 5)
  /-- ERRINJ (R395). -/
  | errinj (h : Hdr) (a : BitVec 5) (b : BitVec 5)
  /-- POSTG_DELIVERY (R122). -/
  | postgDelivery (i : Nat)
  /-- RESULT_VISIBLE (R26). -/
  | resultVisible (k : Who)
  /-- HELD_TOKEN_PUSH (R23). -/
  | heldTokenPush (k : Who)
  /-- INSTRUCTION_FETCH (R92). -/
  | instructionFetch (k : Who)
  /-- PAGE_WALK (R199). -/
  | pageWalk (core va : Nat)
  /-- DIRECT_PATH_SERVE (R217). -/
  | directPathServe (i : Nat)
  /-- LOAD_ROW_FILL (R228). -/
  | loadRowFill (i : Nat)
  /-- GLOBAL_STORE_PERFORM (R233). -/
  | globalStorePerform (i : Nat)
  /-- DIE_WINDOW_STORE_PERFORM (R208). -/
  | dieWindowStorePerform (i : Nat)
  /-- ATOMIC_PERFORM (R229). -/
  | atomicPerform (i : Nat)
  /-- COPY_START (R296). -/
  | copyStart (core : Nat)
  /-- COPY_ROW_GROUP (R298). -/
  | copyRowGroup (core run : Nat)
  /-- COPY_COMPLETE (R300). -/
  | copyComplete (core run : Nat)
  /-- MATRIX_COMMAND_START (R272). -/
  | matrixCommandStart (core : Nat)
  /-- RING_STAGE_RELEASE (R273). -/
  | ringStageRelease (core : Nat)
  /-- MATRIX_COMMAND_COMPLETE (R272). -/
  | matrixCommandComplete (core : Nat)
  /-- REMOTE_COMMAND_START (R288). -/
  | remoteCommandStart (core : Nat)
  /-- PACKET_SEND (R304). -/
  | packetSend (core : Nat)
  /-- PACKET_RECEIVE (R306). -/
  | packetReceive (pk : Packet)
  /-- ACKNOWLEDGEMENT (R420). -/
  | acknowledgement (ak : Ack)
  /-- ROUTE_TIMEOUT (R305). -/
  | routeTimeout (route : Nat)
  /-- ROUTE_FAILURE (R305). -/
  | routeFailure (route : Nat)
  /-- LANE_LOSS (R400). -/
  | laneLoss (port lane : Nat)
  /-- COLLECTIVE_CONTRIBUTION (R313). -/
  | collectiveContribution (pk : Packet)
  /-- COLLECTIVE_COMPLETE (R313). -/
  | collectiveComplete (core : Nat)
  /-- WALKER_TASK_CREATE (R322). -/
  | walkerTaskCreate (launch : Nat)
  /-- TASK_ENQUEUE (R314). -/
  | taskEnqueue (q : Nat)
  /-- TASK_ENTRY (R328). -/
  | taskEntry (part q : Nat)
  /-- DISPATCH (R18). -/
  | dispatch (tid : Word) (places : List Place)
  /-- CONTEXT_FREE (R120). -/
  | contextFree (core ctx : Nat)
  /-- TASK_RETIREMENT (R21). -/
  | taskRetirement (core ctx : Nat)
  /-- VIGIL_DECISION (R186). -/
  | vigilDecision (tid : Word) (place : Option Place)
  /-- OVERLAY_FOLD (R331). -/
  | overlayFold (part i : Nat)
  /-- FETCH (R338). -/
  | fetch (launch entry : Nat)
  /-- EVICT (R338). -/
  | evict (launch entry : Nat)
  /-- PIN (R338). -/
  | pin (launch entry : Nat)
  /-- DROP (R338). -/
  | drop (launch entry : Nat)
  /-- ALMANAC_ACTION_FINISH (R411). -/
  | almanacActionFinish (launch entry : Nat)
  /-- ALMANAC_RELEASE (R339). -/
  | almanacRelease (launch : Nat)
  /-- LAUNCH_COMPLETION (R324). -/
  | launchCompletion (launch : Nat)
  /-- LAUNCH_QUEUE_DOORBELL (R376). -/
  | launchQueueDoorbell (part lq tail : Nat)
  /-- LAUNCH_ACCEPTANCE (R321). -/
  | launchAcceptance (part lq : Nat)
  /-- LAUNCH_QUEUE_HEAD_WRITE (R376). -/
  | launchQueueHeadWrite (part lq head : Nat)
  /-- COMPLETION_HEAD_WRITE (R377). -/
  | completionHeadWrite (part lq ch : Nat)
  /-- FAULT_LOG_TAIL_WRITE (R351). -/
  | faultLogTailWrite (log n : Nat)
  /-- HISTOGRAM_CLEAR (R359). -/
  | histogramClear (core : Nat)
  /-- TRACE_RING_READ_INDEX (R360). -/
  | traceRingReadIndex (die index : Nat)
  /-- HOLD_WRITE (R413). -/
  | holdWrite (q : Nat) (hold : Bool)
  /-- PCSEL_WRITE (R357). -/
  | pcselWrite (core n : Nat) (v : Word)
  /-- SCORE_WRITE (R353). -/
  | scoreWrite (u : ScoreUnit) (v : Nat)
  /-- VECTOR_UNMASK (R399). -/
  | vectorUnmask (v : Nat)
  /-- MANAGEMENT_WRITE (R398). -/
  | managementWrite (host : Bool) (r : MgmtReg)
  /-- WATCHDOG_EXPIRY (R355). -/
  | watchdogExpiry (core ctx : Nat)
  /-- HALT_LINE_ARRIVAL (R368). -/
  | haltLineArrival (part : Nat) (die : Option Nat)
  /-- ENGINE_STOP (R369). -/
  | engineStop (core unit : Nat)
  /-- CONTEXT_REMOVAL (R373). -/
  | contextRemoval (core ctx : Nat)
  /-- PREEMPTION_TRAP (R381). -/
  | preemptionTrap (k : Who)
  /-- SAVED_IMAGE_WRITE (R382). -/
  | savedImageWrite (core ctx : Nat)
  /-- STOP_AREA_WRITE (R385). -/
  | stopAreaWrite (core ctx : Nat)
  /-- POWER_GATE_COMMIT (R388). -/
  | powerGateCommit (core : Nat)
  /-- POWER_UP (R388). -/
  | powerUp (core : Nat)
  /-- CLOCK_SKIP (R408). -/
  | clockSkip (die : Nat)
  /-- THERMAL_TRIP (R408). -/
  | thermalTrip (island : Nat)
  /-- HUB_TAKEOVER (R406). -/
  | hubTakeover
  /-- POWER_ON_RESET (R402). -/
  | powerOnReset (form : BitVec 2) (boot dbg : Bool)
  /-- STAGE_0 (R405). -/
  | stage0
  /-- STAGE_1 (R404). -/
  | stage1 (fw : FirmwareStart)
  /-- STAGE_2 (R404). -/
  | stage2
  /-- STAGE_3 (R404). -/
  | stage3 (dev : Nat) (links : Bool)
  /-- ROW_SWAP (R215). -/
  | rowSwap (bank a b : Nat)
  /-- SCRUB (R212). -/
  | scrub (word : Nat)
  /-- CORRECTED_LINE_REWRITE (R213). -/
  | correctedLineRewrite (line : Nat)
  /-- TRACE_DRAIN (R360). -/
  | traceDrain (die : Nat)
  /-- RDMA_WRITE (R401). -/
  | rdmaWrite (addr : Nat) (bytes : List Byte)
  /-- RDMA_READ (R401). -/
  | rdmaRead (addr len : Nat)
  /-- MAILBOX_REQUEST (R405). -/
  | mailboxRequest (m : MailboxMsg)
  /-- FRAME_CHECK_FAILURE (R348). -/
  | frameCheckFailure (port : Nat)
  deriving DecidableEq, Repr

end Sys2Proof
end

