-- ==== Sys2Proof/Decode.lean ====
section
/-! DEFINITION. The decoder and the encoder of instruction groups: up to two leading IMM and MOD
words and the word they modify (R62 to R79, Tables 3.1 to 3.15). Decoding checks the opcode, every
bit a word does not use, and which leading words it accepts (Table 3.7 rows 3, 4, 5); reserved
values of used fields are checked when the word executes (reservedOk). -/

namespace Sys2Proof

/-- Why a group of words is no instruction (Table 3.7). -/
inductive DecErr where
  /-- no word where one is needed: the group runs past what was fetched -/
  | truncated
  /-- an opcode the unit's table does not list (row 3) -/
  | unassigned
  /-- a nonzero bit that the opcode does not use (row 4) -/
  | unusedBits
  /-- three leading words, two of one kind, or one the word does not accept (row 5, R69) -/
  | leadWords
  deriving DecidableEq, Repr

/-- Bits [lo+n-1:lo] of a word. -/
abbrev W32.fld (w : W32) (lo n : Nat) : BitVec n := w.extractLsb' lo n

/-- The header of a word (Table 3.1). -/
def decodeHdr (w : W32) : Hdr :=
  ⟨w.fld 28 1, w.fld 26 2, w.fld 24 2, w.fld 22 2⟩

/-- Refuses a word with a nonzero bit under the mask of bits its opcode does not use. -/
def needZero (w mask : W32) (i : Instr) : Except DecErr Instr :=
  if w &&& mask = 0#32 then .ok i else .error .unusedBits

/-- A word that accepts neither IMM nor MOD (R69). -/
def bare (x : Option ImmF) (md : Option ModF) (r : Except DecErr Instr) : Except DecErr Instr :=
  if x.isSome || md.isSome then .error .leadWords else r

/-- A word that accepts IMM but not MOD (R69). -/
def noMod (md : Option ModF) (r : Except DecErr Instr) : Except DecErr Instr :=
  if md.isSome then .error .leadWords else r

/-- A word that accepts MOD but not IMM (R69). -/
def noImm (x : Option ImmF) (r : Except DecErr Instr) : Except DecErr Instr :=
  if x.isSome then .error .leadWords else r

/-- The words of unit SC, by OP at [21:15]. -/
def decodeSC (h : Hdr) (x : Option ImmF) (md : Option ModF) (w : W32) : Except DecErr Instr :=
  match (w.fld 15 7).toNat with
  | 0x00 => bare x md (needZero w 0x7FFF (.nop h))
  | 0x01 => bare x md (needZero w 0x0000 (.add h (w.fld 10 5) (w.fld 5 5) (w.fld 0 5)))
  | 0x02 => bare x md (needZero w 0x0000 (.sub h (w.fld 10 5) (w.fld 5 5) (w.fld 0 5)))
  | 0x03 => bare x md (needZero w 0x0000 (.mul h (w.fld 10 5) (w.fld 5 5) (w.fld 0 5)))
  | 0x04 => bare x md (needZero w 0x0000 (.mulhs h (w.fld 10 5) (w.fld 5 5) (w.fld 0 5)))
  | 0x05 => bare x md (needZero w 0x0000 (.mulhn h (w.fld 10 5) (w.fld 5 5) (w.fld 0 5)))
  | 0x06 => bare x md (needZero w 0x0000 (.divs h (w.fld 10 5) (w.fld 5 5) (w.fld 0 5)))
  | 0x07 => bare x md (needZero w 0x0000 (.divn h (w.fld 10 5) (w.fld 5 5) (w.fld 0 5)))
  | 0x08 => bare x md (needZero w 0x0000 (.rems h (w.fld 10 5) (w.fld 5 5) (w.fld 0 5)))
  | 0x09 => bare x md (needZero w 0x0000 (.remn h (w.fld 10 5) (w.fld 5 5) (w.fld 0 5)))
  | 0x0A => bare x md (needZero w 0x0000 (.and h (w.fld 10 5) (w.fld 5 5) (w.fld 0 5)))
  | 0x0B => bare x md (needZero w 0x0000 (.or h (w.fld 10 5) (w.fld 5 5) (w.fld 0 5)))
  | 0x0C => bare x md (needZero w 0x0000 (.xor h (w.fld 10 5) (w.fld 5 5) (w.fld 0 5)))
  | 0x0D => bare x md (needZero w 0x0000 (.andn h (w.fld 10 5) (w.fld 5 5) (w.fld 0 5)))
  | 0x0E => bare x md (needZero w 0x0000 (.shl h (w.fld 10 5) (w.fld 5 5) (w.fld 0 5)))
  | 0x0F => bare x md (needZero w 0x0000 (.shr h (w.fld 10 5) (w.fld 5 5) (w.fld 0 5)))
  | 0x10 => bare x md (needZero w 0x0000 (.sha h (w.fld 10 5) (w.fld 5 5) (w.fld 0 5)))
  | 0x11 => bare x md (needZero w 0x0000 (.rol h (w.fld 10 5) (w.fld 5 5) (w.fld 0 5)))
  | 0x12 => bare x md (needZero w 0x0000 (.min h (w.fld 10 5) (w.fld 5 5) (w.fld 0 5)))
  | 0x13 => bare x md (needZero w 0x0000 (.max h (w.fld 10 5) (w.fld 5 5) (w.fld 0 5)))
  | 0x14 => bare x md (needZero w 0x0000 (.minn h (w.fld 10 5) (w.fld 5 5) (w.fld 0 5)))
  | 0x15 => bare x md (needZero w 0x0000 (.maxn h (w.fld 10 5) (w.fld 5 5) (w.fld 0 5)))
  | 0x16 => bare x md (needZero w 0x001F (.clz h (w.fld 10 5) (w.fld 5 5)))
  | 0x17 => bare x md (needZero w 0x001F (.popc h (w.fld 10 5) (w.fld 5 5)))
  | 0x18 => bare x md (needZero w 0x0000 (.bfx h (w.fld 10 5) (w.fld 5 5) (w.fld 0 5)))
  | 0x19 => bare x md (needZero w 0x0000 (.bfi h (w.fld 10 5) (w.fld 5 5) (w.fld 0 5)))
  | 0x1A => noMod md (needZero w 0x0000 (.addi h x (w.fld 10 5) (w.fld 5 5) (w.fld 0 5)))
  | 0x1B => noMod md (needZero w 0x0000 (.shli h x (w.fld 10 5) (w.fld 5 5) (w.fld 0 5)))
  | 0x1C => noMod md (needZero w 0x0000 (.shri h x (w.fld 10 5) (w.fld 5 5) (w.fld 0 5)))
  | 0x1D => noMod md (needZero w 0x0000 (.shai h x (w.fld 10 5) (w.fld 5 5) (w.fld 0 5)))
  | 0x1E => noMod md (needZero w 0x0000 (.andi h x (w.fld 10 5) (w.fld 5 5) (w.fld 0 5)))
  | 0x1F => noMod md (needZero w 0x0000 (.li h x (w.fld 10 5) (w.fld 0 10)))
  | 0x20 => noMod md (needZero w 0x03FF (.lih h x (w.fld 10 5)))
  | 0x21 => bare x md (needZero w 0x001F (.mov h (w.fld 10 5) (w.fld 5 5)))
  | 0x22 => bare x md (needZero w 0x0018 (.cmov h (w.fld 10 5) (w.fld 5 5) (w.fld 0 3)))
  | 0x23 => bare x md (needZero w 0x6000 (.cmpeq h (w.fld 10 3) (w.fld 5 5) (w.fld 0 5)))
  | 0x24 => bare x md (needZero w 0x6000 (.cmpne h (w.fld 10 3) (w.fld 5 5) (w.fld 0 5)))
  | 0x25 => bare x md (needZero w 0x6000 (.cmplt h (w.fld 10 3) (w.fld 5 5) (w.fld 0 5)))
  | 0x26 => bare x md (needZero w 0x6000 (.cmple h (w.fld 10 3) (w.fld 5 5) (w.fld 0 5)))
  | 0x27 => bare x md (needZero w 0x6000 (.cmpltn h (w.fld 10 3) (w.fld 5 5) (w.fld 0 5)))
  | 0x28 => bare x md (needZero w 0x6000 (.cmplen h (w.fld 10 3) (w.fld 5 5) (w.fld 0 5)))
  | 0x2A => bare x md (needZero w 0x6318 (.pand h (w.fld 10 3) (w.fld 5 3) (w.fld 0 3)))
  | 0x2B => bare x md (needZero w 0x6318 (.por h (w.fld 10 3) (w.fld 5 3) (w.fld 0 3)))
  | 0x2C => bare x md (needZero w 0x6318 (.pxor h (w.fld 10 3) (w.fld 5 3) (w.fld 0 3)))
  | 0x30 => noMod md (needZero w 0x0000 (.br h x (w.fld 12 3) (w.fld 11 1) (w.fld 0 11)))
  | 0x31 => noMod md (needZero w 0x7800 (.jmp h x (w.fld 0 11)))
  | 0x32 => bare x md (needZero w 0x7C1F (.jmpr h (w.fld 5 5)))
  | 0x33 => noMod md (needZero w 0x7800 (.call h x (w.fld 0 11)))
  | 0x34 => bare x md (needZero w 0x7FFF (.ret h))
  | 0x35 => bare x md (needZero w 0x0000 (.loop h (w.fld 10 5) (w.fld 0 10)))
  | 0x36 => noMod md (needZero w 0x0000 (.loopi h x (w.fld 10 5) (w.fld 0 10)))
  | 0x37 => bare x md (needZero w 0x0000 (.loopp h (w.fld 10 5) (w.fld 7 3) (w.fld 0 7)))
  | 0x38 => bare x md (needZero w 0x07FF (.brkl h (w.fld 12 3) (w.fld 11 1)))
  | 0x39 => bare x md (needZero w 0x7FFF (.endStream h))
  | 0x3A => bare x md (needZero w 0x7FFF (.tail h))
  | 0x40 => bare x md (needZero w 0x7FE0 (.post h (w.fld 0 5)))
  | 0x41 => bare x md (needZero w 0x7FE0 (.await h (w.fld 0 5)))
  | 0x42 => bare x md (needZero w 0x001F (.postg h (w.fld 10 5) (w.fld 5 5)))
  | 0x43 => bare x md (needZero w 0x7FF0 (.bar h (w.fld 0 4)))
  | 0x44 => bare x md (needZero w 0x7FF0 (.fence h (w.fld 2 2) (w.fld 0 2)))
  | 0x48 => bare x md (needZero w 0x0000 (.rds h (w.fld 10 5) (w.fld 0 10)))
  | 0x49 => bare x md (needZero w 0x0000 (.wrs h (w.fld 10 5) (w.fld 0 10)))
  | 0x4A => bare x md (needZero w 0x7FFC (.setrm h (w.fld 0 2)))
  | 0x4B => bare x md (needZero w 0x7C00 (.seed h (w.fld 5 5) (w.fld 0 5)))
  | 0x4C => bare x md (needZero w 0x7000 (.view h (w.fld 10 2) (w.fld 5 5) (w.fld 0 5)))
  | 0x4D => bare x md (needZero w 0x7C00 (.mark h (w.fld 0 10)))
  | 0x4E => bare x md (needZero w 0x6000 (.markq h (w.fld 10 3) (w.fld 0 10)))
  | 0x4F => bare x md (needZero w 0x7C00 (.trap h (w.fld 0 10)))
  | 0x50 => bare x md (needZero w 0x7FFF (.bkpt h))
  | _ => .error .unassigned

/-- The words of unit AC, by OP at [21:15]. -/
def decodeAC (h : Hdr) (x : Option ImmF) (md : Option ModF) (w : W32) : Except DecErr Instr :=
  match (w.fld 15 7).toNat with
  | 0x00 => bare x md (needZero w 0x0000 (.aadd h (w.fld 10 5) (w.fld 5 5) (w.fld 0 5)))
  | 0x01 => noMod md (needZero w 0x0000 (.aaddi h x (w.fld 10 5) (w.fld 5 5) (w.fld 0 5)))
  | 0x02 => bare x md (needZero w 0x0000 (.asub h (w.fld 10 5) (w.fld 5 5) (w.fld 0 5)))
  | 0x03 => bare x md (needZero w 0x001F (.amov h (w.fld 10 5) (w.fld 5 5)))
  | 0x04 => noMod md (needZero w 0x0000 (.ali h x (w.fld 10 5) (w.fld 0 10)))
  | 0x05 => bare x md (needZero w 0x001F (.amode h (w.fld 10 5) (w.fld 5 5)))
  | 0x06 => bare x md (needZero w 0x001F (.abase h (w.fld 10 5) (w.fld 5 5)))
  | 0x07 => bare x md (needZero w 0x001F (.ainc h (w.fld 10 5) (w.fld 5 5)))
  | 0x10 => bare x md (needZero w 0x7000 (.ldq h (w.fld 10 2) (w.fld 5 5) (w.fld 0 5)))
  | 0x11 => noImm x (needZero w 0x0000 (.ldqx h md (w.fld 12 3) (w.fld 10 2) (w.fld 5 5) (w.fld 0 5)))
  | 0x12 => bare x md (needZero w 0x0000 (.lds h (w.fld 10 5) (w.fld 5 5) (w.fld 0 5)))
  | 0x13 => bare x md (needZero w 0x7000 (.ldb h (w.fld 10 2) (w.fld 5 5) (w.fld 0 5)))
  | 0x18 => bare x md (needZero w 0x7000 (.stq h (w.fld 10 2) (w.fld 5 5) (w.fld 0 5)))
  | 0x1C | 0x1D | 0x1E | 0x1F => noImm x (needZero w 0x0000 (.stqx h md (w.fld 15 2) (w.fld 12 3) (w.fld 10 2) (w.fld 5 5) (w.fld 4 1) (w.fld 3 1) (w.fld 0 3)))
  | 0x20 => bare x md (needZero w 0x7800 (.ldm h (w.fld 10 1) (w.fld 5 5) (w.fld 0 5)))
  | 0x21 => bare x md (needZero w 0x7800 (.stm h (w.fld 10 1) (w.fld 5 5) (w.fld 0 5)))
  | 0x22 => bare x md (needZero w 0x701F (.rmerge h (w.fld 10 2) (w.fld 5 5)))
  | 0x23 => bare x md (needZero w 0x7800 (.mbput h (w.fld 10 1) (w.fld 5 5) (w.fld 0 5)))
  | 0x24 => bare x md (needZero w 0x03C0 (.mbget h (w.fld 10 5) (w.fld 5 1) (w.fld 0 5)))
  | 0x28 => bare x md (needZero w 0x7000 (.ldg h (w.fld 10 2) (w.fld 5 5) (w.fld 0 5)))
  | 0x29 => bare x md (needZero w 0x7000 (.stg h (w.fld 10 2) (w.fld 5 5) (w.fld 0 5)))
  | 0x2A => noImm x (needZero w 0x0000 (.ldgx h md (w.fld 12 3) (w.fld 10 2) (w.fld 5 5) (w.fld 0 5)))
  | 0x2B => noImm x (needZero w 0x0000 (.stgx h md (w.fld 12 3) (w.fld 10 2) (w.fld 5 5) (w.fld 0 5)))
  | 0x2C => bare x md (needZero w 0x7C00 (.pfg h (w.fld 5 5) (w.fld 0 5)))
  | 0x30 => bare x md (needZero w 0x7000 (.ldl h (w.fld 10 2) (w.fld 5 5) (w.fld 0 5)))
  | 0x31 => bare x md (needZero w 0x7000 (.stu h (w.fld 10 2) (w.fld 5 5) (w.fld 0 5)))
  | 0x32 => bare x md (needZero w 0x0000 (.atomg h (w.fld 12 3) (w.fld 11 1) (w.fld 9 2) (w.fld 7 2) (w.fld 3 4) (w.fld 0 3)))
  | 0x33 => bare x md (needZero w 0x7000 (.casg h (w.fld 11 1) (w.fld 9 2) (w.fld 7 2) (w.fld 3 4) (w.fld 0 3)))
  | _ => .error .unassigned

/-- The words of unit VE, by OP at [21:15]. -/
def decodeVE (h : Hdr) (x : Option ImmF) (md : Option ModF) (w : W32) : Except DecErr Instr :=
  match (w.fld 15 7).toNat with
  | 0x00 | 0x01 | 0x02 | 0x03 => noImm x (needZero w 0x0000 (.fadd h md (w.fld 15 2) (w.fld 10 5) (w.fld 5 5) (w.fld 0 5)))
  | 0x04 | 0x05 | 0x06 | 0x07 => noImm x (needZero w 0x0000 (.fsub h md (w.fld 15 2) (w.fld 10 5) (w.fld 5 5) (w.fld 0 5)))
  | 0x08 | 0x09 | 0x0A | 0x0B => noImm x (needZero w 0x0000 (.fmul h md (w.fld 15 2) (w.fld 10 5) (w.fld 5 5) (w.fld 0 5)))
  | 0x0C | 0x0D | 0x0E | 0x0F => noImm x (needZero w 0x0000 (.fma h md (w.fld 15 2) (w.fld 10 5) (w.fld 5 5) (w.fld 0 5)))
  | 0x10 | 0x11 | 0x12 | 0x13 => noImm x (needZero w 0x0000 (.fms h md (w.fld 15 2) (w.fld 10 5) (w.fld 5 5) (w.fld 0 5)))
  | 0x14 | 0x15 | 0x16 | 0x17 => noImm x (needZero w 0x0000 (.fnma h md (w.fld 15 2) (w.fld 10 5) (w.fld 5 5) (w.fld 0 5)))
  | 0x18 | 0x19 | 0x1A | 0x1B => noImm x (needZero w 0x0000 (.fdiv h md (w.fld 15 2) (w.fld 10 5) (w.fld 5 5) (w.fld 0 5)))
  | 0x1C | 0x1D | 0x1E | 0x1F => noImm x (needZero w 0x001F (.fsqrt h md (w.fld 15 2) (w.fld 10 5) (w.fld 5 5)))
  | 0x20 | 0x21 | 0x22 | 0x23 => noImm x (needZero w 0x001F (.fcvt h md (w.fld 15 2) (w.fld 10 5) (w.fld 5 5)))
  | 0x24 => noImm x (needZero w 0x0000 (.fmin h md (w.fld 10 5) (w.fld 5 5) (w.fld 0 5)))
  | 0x25 => noImm x (needZero w 0x0000 (.fmax h md (w.fld 10 5) (w.fld 5 5) (w.fld 0 5)))
  | 0x26 => noImm x (needZero w 0x001F (.fabs h md (w.fld 10 5) (w.fld 5 5)))
  | 0x27 => noImm x (needZero w 0x001F (.fneg h md (w.fld 10 5) (w.fld 5 5)))
  | 0x28 => noImm x (needZero w 0x6000 (.fcmpeq h md (w.fld 10 3) (w.fld 5 5) (w.fld 0 5)))
  | 0x29 => noImm x (needZero w 0x6000 (.fcmplt h md (w.fld 10 3) (w.fld 5 5) (w.fld 0 5)))
  | 0x2A => noImm x (needZero w 0x6000 (.fcmple h md (w.fld 10 3) (w.fld 5 5) (w.fld 0 5)))
  | 0x2B => noImm x (needZero w 0x001F (.fclass h md (w.fld 10 5) (w.fld 5 5)))
  | 0x2C => noImm x (needZero w 0x001F (.frcp h md (w.fld 10 5) (w.fld 5 5)))
  | 0x2D => noImm x (needZero w 0x001F (.frsq h md (w.fld 10 5) (w.fld 5 5)))
  | 0x2E => noImm x (needZero w 0x001F (.fexp2 h md (w.fld 10 5) (w.fld 5 5)))
  | 0x2F => noImm x (needZero w 0x001F (.flog2 h md (w.fld 10 5) (w.fld 5 5)))
  | 0x30 => noImm x (needZero w 0x001F (.ftanh h md (w.fld 10 5) (w.fld 5 5)))
  | 0x31 => noImm x (needZero w 0x001F (.fsigm h md (w.fld 10 5) (w.fld 5 5)))
  | 0x32 => noImm x (needZero w 0x001F (.fsin h md (w.fld 10 5) (w.fld 5 5)))
  | 0x33 => noImm x (needZero w 0x001F (.fcos h md (w.fld 10 5) (w.fld 5 5)))
  | 0x38 => noImm x (needZero w 0x0000 (.iadd h md (w.fld 10 5) (w.fld 5 5) (w.fld 0 5)))
  | 0x39 => noImm x (needZero w 0x0000 (.isub h md (w.fld 10 5) (w.fld 5 5) (w.fld 0 5)))
  | 0x3A => noImm x (needZero w 0x0000 (.imul h md (w.fld 10 5) (w.fld 5 5) (w.fld 0 5)))
  | 0x3B => noImm x (needZero w 0x0000 (.imulh h md (w.fld 10 5) (w.fld 5 5) (w.fld 0 5)))
  | 0x3C => noImm x (needZero w 0x0000 (.imad h md (w.fld 10 5) (w.fld 5 5) (w.fld 0 5)))
  | 0x3D => noImm x (needZero w 0x0000 (.imin h md (w.fld 10 5) (w.fld 5 5) (w.fld 0 5)))
  | 0x3E => noImm x (needZero w 0x0000 (.imax h md (w.fld 10 5) (w.fld 5 5) (w.fld 0 5)))
  | 0x3F => noImm x (needZero w 0x0000 (.iand h md (w.fld 10 5) (w.fld 5 5) (w.fld 0 5)))
  | 0x40 => noImm x (needZero w 0x0000 (.ior h md (w.fld 10 5) (w.fld 5 5) (w.fld 0 5)))
  | 0x41 => noImm x (needZero w 0x0000 (.ixor h md (w.fld 10 5) (w.fld 5 5) (w.fld 0 5)))
  | 0x42 => noImm x (needZero w 0x0000 (.ishl h md (w.fld 10 5) (w.fld 5 5) (w.fld 0 5)))
  | 0x43 => noImm x (needZero w 0x0000 (.ishr h md (w.fld 10 5) (w.fld 5 5) (w.fld 0 5)))
  | 0x44 => noImm x (needZero w 0x0000 (.isha h md (w.fld 10 5) (w.fld 5 5) (w.fld 0 5)))
  | 0x45 => noImm x (needZero w 0x6000 (.icmpeq h md (w.fld 10 3) (w.fld 5 5) (w.fld 0 5)))
  | 0x46 => noImm x (needZero w 0x6000 (.icmplt h md (w.fld 10 3) (w.fld 5 5) (w.fld 0 5)))
  | 0x47 => noImm x (needZero w 0x6000 (.icmpltn h md (w.fld 10 3) (w.fld 5 5) (w.fld 0 5)))
  | 0x48 => noImm x (needZero w 0x0000 (.iadds h md (w.fld 10 5) (w.fld 5 5) (w.fld 0 5)))
  | 0x49 => noImm x (needZero w 0x0000 (.idot4 h md (w.fld 10 5) (w.fld 5 5) (w.fld 0 5)))
  | 0x4A => noImm x (needZero w 0x6000 (.tcmplt h md (w.fld 10 3) (w.fld 5 5) (w.fld 0 5)))
  | 0x50 => noImm x (needZero w 0x001F (.vmov h md (w.fld 10 5) (w.fld 5 5)))
  | 0x51 => noImm x (needZero w 0x001F (.vbcast h md (w.fld 10 5) (w.fld 5 5)))
  | 0x52 => noImm x (needZero w 0x0000 (.vperm h md (w.fld 10 5) (w.fld 5 5) (w.fld 0 5)))
  | 0x53 => noImm x (needZero w 0x0000 (.vshuf h md (w.fld 10 5) (w.fld 5 5) (w.fld 0 5)))
  | 0x54 => noImm x (needZero w 0x0000 (.vsel h md (w.fld 10 5) (w.fld 5 5) (w.fld 0 5)))
  | 0x55 => noImm x (needZero w 0x0000 (.vext h md (w.fld 10 5) (w.fld 5 5) (w.fld 0 5)))
  | 0x56 => noImm x (needZero w 0x0000 (.vins h md (w.fld 10 5) (w.fld 5 5) (w.fld 0 5)))
  | 0x57 => (needZero w 0x0000 (.vli h x md (w.fld 10 5) (w.fld 0 10)))
  | 0x58 => noImm x (needZero w 0x001F (.vrsum h md (w.fld 10 5) (w.fld 5 5)))
  | 0x59 => noImm x (needZero w 0x001F (.vrmax h md (w.fld 10 5) (w.fld 5 5)))
  | 0x5A => noImm x (needZero w 0x001F (.vrmin h md (w.fld 10 5) (w.fld 5 5)))
  | 0x5B => noImm x (needZero w 0x03FF (.vrowsum h md (w.fld 10 5)))
  | 0x5C => noImm x (needZero w 0x03FF (.vcolsum h md (w.fld 10 5)))
  | 0x5D => noImm x (needZero w 0x7FFF (.vtrans h md))
  | 0x60 => noImm x (needZero w 0x6318 (.kand h md (w.fld 10 3) (w.fld 5 3) (w.fld 0 3)))
  | 0x61 => noImm x (needZero w 0x6318 (.kor h md (w.fld 10 3) (w.fld 5 3) (w.fld 0 3)))
  | 0x62 => noImm x (needZero w 0x6318 (.kxor h md (w.fld 10 3) (w.fld 5 3) (w.fld 0 3)))
  | 0x63 => noImm x (needZero w 0x631F (.knot h md (w.fld 10 3) (w.fld 5 3)))
  | 0x64 => noImm x (needZero w 0x031F (.kpopc h md (w.fld 10 5) (w.fld 5 3)))
  | 0x68 => bare x md (needZero w 0x7FE0 (.commit h (w.fld 0 5)))
  | 0x6A => bare x md (needZero w 0x0380 (.vwin h (w.fld 11 4) (w.fld 10 1) (w.fld 0 7)))
  | _ => .error .unassigned

/-- The words of unit MX, by OP at [21:15]. DESIGN CHOICE (log 75): Table 3.13 leaves REL out of MLDACC's fields, while
R273 and R280 give MLDACC a REL bit; the decoder takes REL. -/
def decodeMX (h : Hdr) (x : Option ImmF) (md : Option ModF) (w : W32) : Except DecErr Instr :=
  match (w.fld 15 7).toNat with
  | 0x00 => bare x md (needZero w 0x0002 (.mma h (w.fld 12 3) (w.fld 8 4) (w.fld 4 4) (w.fld 3 1) (w.fld 2 1) (w.fld 0 1)))
  | 0x01 => bare x md (needZero w 0x000A (.mmas h (w.fld 12 3) (w.fld 8 4) (w.fld 4 4) (w.fld 2 1) (w.fld 0 1)))
  | 0x02 => bare x md (needZero w 0x0FFF (.mzero h (w.fld 12 3)))
  | 0x03 => bare x md (needZero w 0x00FE (.mldacc h (w.fld 12 3) (w.fld 8 4) (w.fld 0 1)))
  | 0x04 => bare x md (needZero w 0x00FF (.mstacc h (w.fld 12 3) (w.fld 8 4)))
  | 0x05 => bare x md (needZero w 0x00FF (.mckrd h (w.fld 12 3) (w.fld 8 4)))
  | 0x06 => bare x md (needZero w 0x7FFF (.mdrain h))
  | _ => .error .unassigned

/-- The words of unit EN, by OP at [21:15]. -/
def decodeEN (h : Hdr) (x : Option ImmF) (md : Option ModF) (w : W32) : Except DecErr Instr :=
  match (w.fld 15 7).toNat with
  | 0x00 => bare x md (needZero w 0x7C00 (.fmtpush h (w.fld 5 5) (w.fld 0 5)))
  | 0x08 => bare x md (needZero w 0x0000 (.cpy h (w.fld 10 5) (w.fld 5 5) (w.fld 0 5)))
  | 0x09 => bare x md (needZero w 0x0000 (.cpyl h (w.fld 10 5) (w.fld 5 5) (w.fld 0 5)))
  | 0x0A => bare x md (needZero w 0x03FF (.cpyw h (w.fld 10 5)))
  | 0x0B => bare x md (needZero w 0x601F (.cpyq h (w.fld 10 3) (w.fld 5 5)))
  | 0x10 => bare x md (needZero w 0x0000 (.rput h (w.fld 10 5) (w.fld 5 5) (w.fld 0 5)))
  | 0x11 => bare x md (needZero w 0x0000 (.rget h (w.fld 10 5) (w.fld 5 5) (w.fld 0 5)))
  | 0x12 => bare x md (needZero w 0x4000 (.ratom h (w.fld 13 1) (w.fld 10 3) (w.fld 5 5) (w.fld 0 5)))
  | 0x13 => bare x md (needZero w 0x7FFF (.rfence h))
  | 0x18 => bare x md (needZero w 0x701F (.cred h (w.fld 10 2) (w.fld 5 5)))
  | 0x19 => bare x md (needZero w 0x7C1F (.cbcast h (w.fld 5 5)))
  | 0x20 => bare x md (needZero w 0x7C00 (.taskq h (w.fld 5 5) (w.fld 0 5)))
  | 0x22 => bare x md (needZero w 0x7C1F (.launch h (w.fld 5 5)))
  | 0x28 => bare x md (needZero w 0x7C00 (.almld h (w.fld 5 5) (w.fld 0 5)))
  | 0x29 => bare x md (needZero w 0x7FFF (.almclr h))
  | 0x30 => bare x md (needZero w 0x039F (.eres h (w.fld 10 5) (w.fld 5 2)))
  | 0x31 => bare x md (needZero w 0x7C1F (.cbld h (w.fld 5 5)))
  | _ => .error .unassigned

/-- The words of unit CK, by OP at [21:15]. -/
def decodeCK (h : Hdr) (x : Option ImmF) (md : Option ModF) (w : W32) : Except DecErr Instr :=
  match (w.fld 15 7).toNat with
  | 0x00 => bare x md (needZero w 0x73FF (.sigclr h (w.fld 10 2)))
  | 0x01 => bare x md (needZero w 0x701F (.sigfold h (w.fld 10 2) (w.fld 5 5)))
  | 0x02 => bare x md (needZero w 0x601F (.csacc h (w.fld 10 3) (w.fld 5 5)))
  | 0x03 => bare x md (needZero w 0x601F (.cschk h (w.fld 10 3) (w.fld 5 5)))
  | 0x04 => bare x md (needZero w 0x7FFF (.chkerr h))
  | 0x05 => bare x md (needZero w 0x0380 (.provrd h (w.fld 10 5) (w.fld 5 2) (w.fld 0 5)))
  | 0x06 => bare x md (needZero w 0x73FF (.provclr h (w.fld 10 2)))
  | _ => .error .unassigned

/-- The words of unit SY, by OP at [21:15]. -/
def decodeSY (h : Hdr) (x : Option ImmF) (md : Option ModF) (w : W32) : Except DecErr Instr :=
  match (w.fld 15 7).toNat with
  | 0x00 => bare x md (needZero w 0x001F (.slotw h (w.fld 10 5) (w.fld 5 5)))
  | 0x01 => bare x md (needZero w 0x7C00 (.tlbinv h (w.fld 5 5) (w.fld 0 5)))
  | 0x02 => bare x md (needZero w 0x0000 (.ctxsave h (w.fld 10 5) (w.fld 5 5) (w.fld 0 5)))
  | 0x03 => bare x md (needZero w 0x0000 (.ctxload h (w.fld 10 5) (w.fld 5 5) (w.fld 0 5)))
  | 0x04 => bare x md (needZero w 0x0000 (.stoprd h (w.fld 10 5) (w.fld 5 5) (w.fld 0 5)))
  | 0x05 => bare x md (needZero w 0x001F (.inject h (w.fld 10 5) (w.fld 5 5)))
  | 0x06 => bare x md (needZero w 0x001F (.haltp h (w.fld 10 5) (w.fld 5 5)))
  | 0x07 => bare x md (needZero w 0x001F (.resumep h (w.fld 10 5) (w.fld 5 5)))
  | 0x08 => bare x md (needZero w 0x001F (.gate h (w.fld 10 5) (w.fld 5 5)))
  | 0x09 => bare x md (needZero w 0x7C1F (.wake h (w.fld 5 5)))
  | 0x0A => bare x md (needZero w 0x001F (.retire h (w.fld 10 5) (w.fld 5 5)))
  | 0x0B => bare x md (needZero w 0x0000 (.spare h (w.fld 10 5) (w.fld 5 5) (w.fld 0 5)))
  | 0x0C => bare x md (needZero w 0x7C00 (.wdset h (w.fld 5 5) (w.fld 0 5)))
  | 0x0D => bare x md (needZero w 0x7C00 (.errinj h (w.fld 5 5) (w.fld 0 5)))
  | _ => .error .unassigned

/-- The word that follows its leading words; unit 7 here is a third leading word or a second of one
kind (Table 3.7 row 5). -/
def decodeWord (x : Option ImmF) (md : Option ModF) (w : W32) : Except DecErr Instr :=
  let h := decodeHdr w
  match (w.fld 29 3).toNat with
  | 0 => decodeSC h x md w
  | 1 => decodeAC h x md w
  | 2 => decodeVE h x md w
  | 3 => decodeMX h x md w
  | 4 => decodeEN h x md w
  | 5 => decodeCK h x md w
  | 6 => decodeSY h x md w
  | _ => .error .leadWords

/-- The MOD word's fields; bits [18:0] are reserved (R68). -/
def decodeMod (w : W32) : Except DecErr ModF :=
  if w &&& 0x7FFFF = 0#32 then
    .ok ⟨w.fld 25 3, w.fld 24 1, w.fld 23 1, w.fld 21 2, w.fld 19 2⟩
  else .error .unusedBits

/-- Is the word an IMM word (Table 3.4)? -/
def W32.isImm (w : W32) : Bool := w.fld 28 4 == 0xE#4
/-- Is the word a MOD word (Table 3.5)? -/
def W32.isMod (w : W32) : Bool := w.fld 28 4 == 0xF#4

/-- The rest of a group after an IMM word: at most one MOD, then the word (R70). -/
def decodeAfterImm (x : ImmF) (w1 : W32) (rest : List W32) : Except DecErr (Instr × Nat) :=
  if w1.isMod then
    match rest with
    | [] => .error .truncated
    | w2 :: _ =>
      match decodeMod w1 with
      | .error e => .error e
      | .ok m => (decodeWord (some x) (some m) w2).map fun i => (i, 3)
  else (decodeWord (some x) none w1).map fun i => (i, 2)

/-- The rest of a group after a MOD word: at most one IMM, then the word (R70). -/
def decodeAfterMod (m : ModF) (w1 : W32) (rest : List W32) : Except DecErr (Instr × Nat) :=
  if w1.isImm then
    match rest with
    | [] => .error .truncated
    | w2 :: _ => (decodeWord (some (w1.fld 0 28)) (some m) w2).map fun i => (i, 3)
  else (decodeWord none (some m) w1).map fun i => (i, 2)

/-- One group: the instruction and how many words it takes (R70). -/
def decodeGroup : List W32 → Except DecErr (Instr × Nat)
  | [] => .error .truncated
  | w0 :: rest =>
    if w0.isImm then
      match rest with
      | [] => .error .truncated
      | w1 :: rest' => decodeAfterImm (w0.fld 0 28) w1 rest'
    else if w0.isMod then
      match decodeMod w0, rest with
      | .error e, _ => .error e
      | .ok _, [] => .error .truncated
      | .ok m, w1 :: rest' => decodeAfterMod m w1 rest'
    else (decodeWord none none w0).map fun i => (i, 1)

/-- What the decoder reads from a table row's word, any later word of its group being zero. -/
def decodeTableWord (nbits w : Nat) : Option Instr :=
  if nbits = 32 then
    match decodeGroup [BitVec.ofNat 32 w, 0#32, 0#32] with
    | .ok (i, _) => some i
    | .error _ => none
  else none

/-- The IMM word (Table 3.4). -/
def encodeImm (x : ImmF) : W32 := 0xE#4 ++ x

/-- The MOD word (Table 3.5). -/
def encodeMod (m : ModF) : W32 := 0xF#4 ++ m.km ++ m.z ++ m.sat ++ m.ro ++ m.rm ++ 0#19

/-- A word from its unit, header and payload (Table 3.1). -/
def mkWord (u : BitVec 3) (h : Hdr) (payload : BitVec 22) : W32 :=
  u ++ h.sync ++ h.wait ++ h.sig ++ h.iss ++ payload

/-- The word of an instruction without its leading words (Tables 3.8 to 3.15); none for a step that
has no encoding. -/
def encodeWord : Instr → Option W32
  | .nop h => some (mkWord 0#3 h (0x0#22))
  | .add h d a b => some (mkWord 0#3 h (0x1#7 ++ d ++ a ++ b))
  | .sub h d a b => some (mkWord 0#3 h (0x2#7 ++ d ++ a ++ b))
  | .mul h d a b => some (mkWord 0#3 h (0x3#7 ++ d ++ a ++ b))
  | .mulhs h d a b => some (mkWord 0#3 h (0x4#7 ++ d ++ a ++ b))
  | .mulhn h d a b => some (mkWord 0#3 h (0x5#7 ++ d ++ a ++ b))
  | .divs h d a b => some (mkWord 0#3 h (0x6#7 ++ d ++ a ++ b))
  | .divn h d a b => some (mkWord 0#3 h (0x7#7 ++ d ++ a ++ b))
  | .rems h d a b => some (mkWord 0#3 h (0x8#7 ++ d ++ a ++ b))
  | .remn h d a b => some (mkWord 0#3 h (0x9#7 ++ d ++ a ++ b))
  | .and h d a b => some (mkWord 0#3 h (0xA#7 ++ d ++ a ++ b))
  | .or h d a b => some (mkWord 0#3 h (0xB#7 ++ d ++ a ++ b))
  | .xor h d a b => some (mkWord 0#3 h (0xC#7 ++ d ++ a ++ b))
  | .andn h d a b => some (mkWord 0#3 h (0xD#7 ++ d ++ a ++ b))
  | .shl h d a b => some (mkWord 0#3 h (0xE#7 ++ d ++ a ++ b))
  | .shr h d a b => some (mkWord 0#3 h (0xF#7 ++ d ++ a ++ b))
  | .sha h d a b => some (mkWord 0#3 h (0x10#7 ++ d ++ a ++ b))
  | .rol h d a b => some (mkWord 0#3 h (0x11#7 ++ d ++ a ++ b))
  | .min h d a b => some (mkWord 0#3 h (0x12#7 ++ d ++ a ++ b))
  | .max h d a b => some (mkWord 0#3 h (0x13#7 ++ d ++ a ++ b))
  | .minn h d a b => some (mkWord 0#3 h (0x14#7 ++ d ++ a ++ b))
  | .maxn h d a b => some (mkWord 0#3 h (0x15#7 ++ d ++ a ++ b))
  | .clz h d a => some (mkWord 0#3 h (0x16#7 ++ d ++ a ++ 0x0#5))
  | .popc h d a => some (mkWord 0#3 h (0x17#7 ++ d ++ a ++ 0x0#5))
  | .bfx h d a b => some (mkWord 0#3 h (0x18#7 ++ d ++ a ++ b))
  | .bfi h d a b => some (mkWord 0#3 h (0x19#7 ++ d ++ a ++ b))
  | .addi h _ d a m => some (mkWord 0#3 h (0x1A#7 ++ d ++ a ++ m))
  | .shli h _ d a m => some (mkWord 0#3 h (0x1B#7 ++ d ++ a ++ m))
  | .shri h _ d a m => some (mkWord 0#3 h (0x1C#7 ++ d ++ a ++ m))
  | .shai h _ d a m => some (mkWord 0#3 h (0x1D#7 ++ d ++ a ++ m))
  | .andi h _ d a m => some (mkWord 0#3 h (0x1E#7 ++ d ++ a ++ m))
  | .li h _ d m => some (mkWord 0#3 h (0x1F#7 ++ d ++ m))
  | .lih h _ d => some (mkWord 0#3 h (0x20#7 ++ d ++ 0x0#10))
  | .mov h d a => some (mkWord 0#3 h (0x21#7 ++ d ++ a ++ 0x0#5))
  | .cmov h d a p => some (mkWord 0#3 h (0x22#7 ++ d ++ a ++ 0x0#2 ++ p))
  | .cmpeq h p a b => some (mkWord 0#3 h (0x8C#9 ++ p ++ a ++ b))
  | .cmpne h p a b => some (mkWord 0#3 h (0x90#9 ++ p ++ a ++ b))
  | .cmplt h p a b => some (mkWord 0#3 h (0x94#9 ++ p ++ a ++ b))
  | .cmple h p a b => some (mkWord 0#3 h (0x98#9 ++ p ++ a ++ b))
  | .cmpltn h p a b => some (mkWord 0#3 h (0x9C#9 ++ p ++ a ++ b))
  | .cmplen h p a b => some (mkWord 0#3 h (0xA0#9 ++ p ++ a ++ b))
  | .pand h d a b => some (mkWord 0#3 h (0xA8#9 ++ d ++ 0x0#2 ++ a ++ 0x0#2 ++ b))
  | .por h d a b => some (mkWord 0#3 h (0xAC#9 ++ d ++ 0x0#2 ++ a ++ 0x0#2 ++ b))
  | .pxor h d a b => some (mkWord 0#3 h (0xB0#9 ++ d ++ 0x0#2 ++ a ++ 0x0#2 ++ b))
  | .br h _ p n o => some (mkWord 0#3 h (0x30#7 ++ p ++ n ++ o))
  | .jmp h _ o => some (mkWord 0#3 h (0x310#11 ++ o))
  | .jmpr h a => some (mkWord 0#3 h (0x640#12 ++ a ++ 0x0#5))
  | .call h _ o => some (mkWord 0#3 h (0x330#11 ++ o))
  | .ret h => some (mkWord 0#3 h (0x1A0000#22))
  | .loop h d l => some (mkWord 0#3 h (0x35#7 ++ d ++ l))
  | .loopi h _ c l => some (mkWord 0#3 h (0x36#7 ++ c ++ l))
  | .loopp h d s k => some (mkWord 0#3 h (0x37#7 ++ d ++ s ++ k))
  | .brkl h p n => some (mkWord 0#3 h (0x38#7 ++ p ++ n ++ 0x0#11))
  | .endStream h => some (mkWord 0#3 h (0x1C8000#22))
  | .tail h => some (mkWord 0#3 h (0x1D0000#22))
  | .post h f => some (mkWord 0#3 h (0x10000#17 ++ f))
  | .await h f => some (mkWord 0#3 h (0x10400#17 ++ f))
  | .postg h f a => some (mkWord 0#3 h (0x42#7 ++ f ++ a ++ 0x0#5))
  | .bar h n => some (mkWord 0#3 h (0x21800#18 ++ n))
  | .fence h c o => some (mkWord 0#3 h (0x22000#18 ++ c ++ o))
  | .rds h d r => some (mkWord 0#3 h (0x48#7 ++ d ++ r))
  | .wrs h d r => some (mkWord 0#3 h (0x49#7 ++ d ++ r))
  | .setrm h r => some (mkWord 0#3 h (0x94000#20 ++ r))
  | .seed h a b => some (mkWord 0#3 h (0x960#12 ++ a ++ b))
  | .view h v a b => some (mkWord 0#3 h (0x260#10 ++ v ++ a ++ b))
  | .mark h n => some (mkWord 0#3 h (0x9A0#12 ++ n))
  | .markq h p n => some (mkWord 0#3 h (0x138#9 ++ p ++ n))
  | .trap h c => some (mkWord 0#3 h (0x9E0#12 ++ c))
  | .bkpt h => some (mkWord 0#3 h (0x280000#22))
  | .aadd h d a b => some (mkWord 1#3 h (0x0#7 ++ d ++ a ++ b))
  | .aaddi h _ d a m => some (mkWord 1#3 h (0x1#7 ++ d ++ a ++ m))
  | .asub h d a b => some (mkWord 1#3 h (0x2#7 ++ d ++ a ++ b))
  | .amov h d a => some (mkWord 1#3 h (0x3#7 ++ d ++ a ++ 0x0#5))
  | .ali h _ d m => some (mkWord 1#3 h (0x4#7 ++ d ++ m))
  | .amode h d a => some (mkWord 1#3 h (0x5#7 ++ d ++ a ++ 0x0#5))
  | .abase h d a => some (mkWord 1#3 h (0x6#7 ++ d ++ a ++ 0x0#5))
  | .ainc h d a => some (mkWord 1#3 h (0x7#7 ++ d ++ a ++ 0x0#5))
  | .ldq h q a b => some (mkWord 1#3 h (0x80#10 ++ q ++ a ++ b))
  | .ldqx h _ c q a b => some (mkWord 1#3 h (0x11#7 ++ c ++ q ++ a ++ b))
  | .lds h d a b => some (mkWord 1#3 h (0x12#7 ++ d ++ a ++ b))
  | .ldb h q a b => some (mkWord 1#3 h (0x98#10 ++ q ++ a ++ b))
  | .stq h q a b => some (mkWord 1#3 h (0xC0#10 ++ q ++ a ++ b))
  | .stqx h _ r c q a p e hist => some (mkWord 1#3 h (0x7#5 ++ r ++ c ++ q ++ a ++ p ++ e ++ hist))
  | .ldm h m a b => some (mkWord 1#3 h (0x200#11 ++ m ++ a ++ b))
  | .stm h m a b => some (mkWord 1#3 h (0x210#11 ++ m ++ a ++ b))
  | .rmerge h q a => some (mkWord 1#3 h (0x110#10 ++ q ++ a ++ 0x0#5))
  | .mbput h m a b => some (mkWord 1#3 h (0x230#11 ++ m ++ a ++ b))
  | .mbget h d m b => some (mkWord 1#3 h (0x24#7 ++ d ++ 0x0#4 ++ m ++ b))
  | .ldg h q a b => some (mkWord 1#3 h (0x140#10 ++ q ++ a ++ b))
  | .stg h q a b => some (mkWord 1#3 h (0x148#10 ++ q ++ a ++ b))
  | .ldgx h _ c q a b => some (mkWord 1#3 h (0x2A#7 ++ c ++ q ++ a ++ b))
  | .stgx h _ c q a b => some (mkWord 1#3 h (0x2B#7 ++ c ++ q ++ a ++ b))
  | .pfg h a b => some (mkWord 1#3 h (0x580#12 ++ a ++ b))
  | .ldl h q a b => some (mkWord 1#3 h (0x180#10 ++ q ++ a ++ b))
  | .stu h q a b => some (mkWord 1#3 h (0x188#10 ++ q ++ a ++ b))
  | .atomg h o z r c s x => some (mkWord 1#3 h (0x32#7 ++ o ++ z ++ r ++ c ++ s ++ x))
  | .casg h z r c s x => some (mkWord 1#3 h (0x198#10 ++ z ++ r ++ c ++ s ++ x))
  | .fadd h _ r d a b => some (mkWord 2#3 h (0x0#5 ++ r ++ d ++ a ++ b))
  | .fsub h _ r d a b => some (mkWord 2#3 h (0x1#5 ++ r ++ d ++ a ++ b))
  | .fmul h _ r d a b => some (mkWord 2#3 h (0x2#5 ++ r ++ d ++ a ++ b))
  | .fma h _ r d a b => some (mkWord 2#3 h (0x3#5 ++ r ++ d ++ a ++ b))
  | .fms h _ r d a b => some (mkWord 2#3 h (0x4#5 ++ r ++ d ++ a ++ b))
  | .fnma h _ r d a b => some (mkWord 2#3 h (0x5#5 ++ r ++ d ++ a ++ b))
  | .fdiv h _ r d a b => some (mkWord 2#3 h (0x6#5 ++ r ++ d ++ a ++ b))
  | .fsqrt h _ r d a => some (mkWord 2#3 h (0x7#5 ++ r ++ d ++ a ++ 0x0#5))
  | .fcvt h _ r d a => some (mkWord 2#3 h (0x8#5 ++ r ++ d ++ a ++ 0x0#5))
  | .fmin h _ d a b => some (mkWord 2#3 h (0x24#7 ++ d ++ a ++ b))
  | .fmax h _ d a b => some (mkWord 2#3 h (0x25#7 ++ d ++ a ++ b))
  | .fabs h _ d a => some (mkWord 2#3 h (0x26#7 ++ d ++ a ++ 0x0#5))
  | .fneg h _ d a => some (mkWord 2#3 h (0x27#7 ++ d ++ a ++ 0x0#5))
  | .fcmpeq h _ k a b => some (mkWord 2#3 h (0xA0#9 ++ k ++ a ++ b))
  | .fcmplt h _ k a b => some (mkWord 2#3 h (0xA4#9 ++ k ++ a ++ b))
  | .fcmple h _ k a b => some (mkWord 2#3 h (0xA8#9 ++ k ++ a ++ b))
  | .fclass h _ d a => some (mkWord 2#3 h (0x2B#7 ++ d ++ a ++ 0x0#5))
  | .frcp h _ d a => some (mkWord 2#3 h (0x2C#7 ++ d ++ a ++ 0x0#5))
  | .frsq h _ d a => some (mkWord 2#3 h (0x2D#7 ++ d ++ a ++ 0x0#5))
  | .fexp2 h _ d a => some (mkWord 2#3 h (0x2E#7 ++ d ++ a ++ 0x0#5))
  | .flog2 h _ d a => some (mkWord 2#3 h (0x2F#7 ++ d ++ a ++ 0x0#5))
  | .ftanh h _ d a => some (mkWord 2#3 h (0x30#7 ++ d ++ a ++ 0x0#5))
  | .fsigm h _ d a => some (mkWord 2#3 h (0x31#7 ++ d ++ a ++ 0x0#5))
  | .fsin h _ d a => some (mkWord 2#3 h (0x32#7 ++ d ++ a ++ 0x0#5))
  | .fcos h _ d a => some (mkWord 2#3 h (0x33#7 ++ d ++ a ++ 0x0#5))
  | .iadd h _ d a b => some (mkWord 2#3 h (0x38#7 ++ d ++ a ++ b))
  | .isub h _ d a b => some (mkWord 2#3 h (0x39#7 ++ d ++ a ++ b))
  | .imul h _ d a b => some (mkWord 2#3 h (0x3A#7 ++ d ++ a ++ b))
  | .imulh h _ d a b => some (mkWord 2#3 h (0x3B#7 ++ d ++ a ++ b))
  | .imad h _ d a b => some (mkWord 2#3 h (0x3C#7 ++ d ++ a ++ b))
  | .imin h _ d a b => some (mkWord 2#3 h (0x3D#7 ++ d ++ a ++ b))
  | .imax h _ d a b => some (mkWord 2#3 h (0x3E#7 ++ d ++ a ++ b))
  | .iand h _ d a b => some (mkWord 2#3 h (0x3F#7 ++ d ++ a ++ b))
  | .ior h _ d a b => some (mkWord 2#3 h (0x40#7 ++ d ++ a ++ b))
  | .ixor h _ d a b => some (mkWord 2#3 h (0x41#7 ++ d ++ a ++ b))
  | .ishl h _ d a b => some (mkWord 2#3 h (0x42#7 ++ d ++ a ++ b))
  | .ishr h _ d a b => some (mkWord 2#3 h (0x43#7 ++ d ++ a ++ b))
  | .isha h _ d a b => some (mkWord 2#3 h (0x44#7 ++ d ++ a ++ b))
  | .icmpeq h _ k a b => some (mkWord 2#3 h (0x114#9 ++ k ++ a ++ b))
  | .icmplt h _ k a b => some (mkWord 2#3 h (0x118#9 ++ k ++ a ++ b))
  | .icmpltn h _ k a b => some (mkWord 2#3 h (0x11C#9 ++ k ++ a ++ b))
  | .iadds h _ d a b => some (mkWord 2#3 h (0x48#7 ++ d ++ a ++ b))
  | .idot4 h _ d a b => some (mkWord 2#3 h (0x49#7 ++ d ++ a ++ b))
  | .tcmplt h _ k a b => some (mkWord 2#3 h (0x128#9 ++ k ++ a ++ b))
  | .vmov h _ d a => some (mkWord 2#3 h (0x50#7 ++ d ++ a ++ 0x0#5))
  | .vbcast h _ d a => some (mkWord 2#3 h (0x51#7 ++ d ++ a ++ 0x0#5))
  | .vperm h _ d a b => some (mkWord 2#3 h (0x52#7 ++ d ++ a ++ b))
  | .vshuf h _ d a b => some (mkWord 2#3 h (0x53#7 ++ d ++ a ++ b))
  | .vsel h _ d a b => some (mkWord 2#3 h (0x54#7 ++ d ++ a ++ b))
  | .vext h _ d a b => some (mkWord 2#3 h (0x55#7 ++ d ++ a ++ b))
  | .vins h _ d a b => some (mkWord 2#3 h (0x56#7 ++ d ++ a ++ b))
  | .vli h _ _ d m => some (mkWord 2#3 h (0x57#7 ++ d ++ m))
  | .vrsum h _ d a => some (mkWord 2#3 h (0x58#7 ++ d ++ a ++ 0x0#5))
  | .vrmax h _ d a => some (mkWord 2#3 h (0x59#7 ++ d ++ a ++ 0x0#5))
  | .vrmin h _ d a => some (mkWord 2#3 h (0x5A#7 ++ d ++ a ++ 0x0#5))
  | .vrowsum h _ d => some (mkWord 2#3 h (0x5B#7 ++ d ++ 0x0#10))
  | .vcolsum h _ d => some (mkWord 2#3 h (0x5C#7 ++ d ++ 0x0#10))
  | .vtrans h _ => some (mkWord 2#3 h (0x2E8000#22))
  | .kand h _ d a b => some (mkWord 2#3 h (0x180#9 ++ d ++ 0x0#2 ++ a ++ 0x0#2 ++ b))
  | .kor h _ d a b => some (mkWord 2#3 h (0x184#9 ++ d ++ 0x0#2 ++ a ++ 0x0#2 ++ b))
  | .kxor h _ d a b => some (mkWord 2#3 h (0x188#9 ++ d ++ 0x0#2 ++ a ++ 0x0#2 ++ b))
  | .knot h _ d a => some (mkWord 2#3 h (0x18C#9 ++ d ++ 0x0#2 ++ a ++ 0x0#5))
  | .kpopc h _ d a => some (mkWord 2#3 h (0x64#7 ++ d ++ 0x0#2 ++ a ++ 0x0#5))
  | .commit h t => some (mkWord 2#3 h (0x1A000#17 ++ t))
  | .vwin h t x b => some (mkWord 2#3 h (0x6A#7 ++ t ++ x ++ 0x0#3 ++ b))
  | .mma h c t u e f r => some (mkWord 3#3 h (0x0#7 ++ c ++ t ++ u ++ e ++ f ++ 0x0#1 ++ r))
  | .mmas h c t u f r => some (mkWord 3#3 h (0x1#7 ++ c ++ t ++ u ++ 0x0#1 ++ f ++ 0x0#1 ++ r))
  | .mzero h c => some (mkWord 3#3 h (0x2#7 ++ c ++ 0x0#12))
  | .mldacc h c t r => some (mkWord 3#3 h (0x3#7 ++ c ++ t ++ 0x0#7 ++ r))
  | .mstacc h c t => some (mkWord 3#3 h (0x4#7 ++ c ++ t ++ 0x0#8))
  | .mckrd h c t => some (mkWord 3#3 h (0x5#7 ++ c ++ t ++ 0x0#8))
  | .mdrain h => some (mkWord 3#3 h (0x30000#22))
  | .fmtpush h a b => some (mkWord 4#3 h (0x0#12 ++ a ++ b))
  | .cpy h t a b => some (mkWord 4#3 h (0x8#7 ++ t ++ a ++ b))
  | .cpyl h t a b => some (mkWord 4#3 h (0x9#7 ++ t ++ a ++ b))
  | .cpyw h t => some (mkWord 4#3 h (0xA#7 ++ t ++ 0x0#10))
  | .cpyq h p t => some (mkWord 4#3 h (0x2C#9 ++ p ++ t ++ 0x0#5))
  | .rput h d a b => some (mkWord 4#3 h (0x10#7 ++ d ++ a ++ b))
  | .rget h d a b => some (mkWord 4#3 h (0x11#7 ++ d ++ a ++ b))
  | .ratom h z o a b => some (mkWord 4#3 h (0x24#8 ++ z ++ o ++ a ++ b))
  | .rfence h => some (mkWord 4#3 h (0x98000#22))
  | .cred h o a => some (mkWord 4#3 h (0xC0#10 ++ o ++ a ++ 0x0#5))
  | .cbcast h a => some (mkWord 4#3 h (0x320#12 ++ a ++ 0x0#5))
  | .taskq h a b => some (mkWord 4#3 h (0x400#12 ++ a ++ b))
  | .launch h a => some (mkWord 4#3 h (0x440#12 ++ a ++ 0x0#5))
  | .almld h a b => some (mkWord 4#3 h (0x500#12 ++ a ++ b))
  | .almclr h => some (mkWord 4#3 h (0x148000#22))
  | .eres h d f => some (mkWord 4#3 h (0x30#7 ++ d ++ 0x0#3 ++ f ++ 0x0#5))
  | .cbld h a => some (mkWord 4#3 h (0x620#12 ++ a ++ 0x0#5))
  | .sigclr h n => some (mkWord 5#3 h (0x0#10 ++ n ++ 0x0#10))
  | .sigfold h n a => some (mkWord 5#3 h (0x8#10 ++ n ++ a ++ 0x0#5))
  | .csacc h n a => some (mkWord 5#3 h (0x8#9 ++ n ++ a ++ 0x0#5))
  | .cschk h n a => some (mkWord 5#3 h (0xC#9 ++ n ++ a ++ 0x0#5))
  | .chkerr h => some (mkWord 5#3 h (0x20000#22))
  | .provrd h d n b => some (mkWord 5#3 h (0x5#7 ++ d ++ 0x0#3 ++ n ++ b))
  | .provclr h n => some (mkWord 5#3 h (0x30#10 ++ n ++ 0x0#10))
  | .slotw h d a => some (mkWord 6#3 h (0x0#7 ++ d ++ a ++ 0x0#5))
  | .tlbinv h a b => some (mkWord 6#3 h (0x20#12 ++ a ++ b))
  | .ctxsave h d a b => some (mkWord 6#3 h (0x2#7 ++ d ++ a ++ b))
  | .ctxload h d a b => some (mkWord 6#3 h (0x3#7 ++ d ++ a ++ b))
  | .stoprd h d a b => some (mkWord 6#3 h (0x4#7 ++ d ++ a ++ b))
  | .inject h d a => some (mkWord 6#3 h (0x5#7 ++ d ++ a ++ 0x0#5))
  | .haltp h d a => some (mkWord 6#3 h (0x6#7 ++ d ++ a ++ 0x0#5))
  | .resumep h d a => some (mkWord 6#3 h (0x7#7 ++ d ++ a ++ 0x0#5))
  | .gate h d a => some (mkWord 6#3 h (0x8#7 ++ d ++ a ++ 0x0#5))
  | .wake h a => some (mkWord 6#3 h (0x120#12 ++ a ++ 0x0#5))
  | .retire h d a => some (mkWord 6#3 h (0xA#7 ++ d ++ a ++ 0x0#5))
  | .spare h d a b => some (mkWord 6#3 h (0xB#7 ++ d ++ a ++ b))
  | .wdset h a b => some (mkWord 6#3 h (0x180#12 ++ a ++ b))
  | .errinj h a b => some (mkWord 6#3 h (0x1A0#12 ++ a ++ b))
  | .postgDelivery _ => none
  | .resultVisible _ => none
  | .heldTokenPush _ => none
  | .instructionFetch _ => none
  | .pageWalk _ _ => none
  | .directPathServe _ => none
  | .loadRowFill _ => none
  | .globalStorePerform _ => none
  | .dieWindowStorePerform _ => none
  | .atomicPerform _ => none
  | .copyStart _ => none
  | .copyRowGroup _ _ => none
  | .copyComplete _ _ => none
  | .matrixCommandStart _ => none
  | .ringStageRelease _ => none
  | .matrixCommandComplete _ => none
  | .remoteCommandStart _ => none
  | .packetSend _ => none
  | .packetReceive _ => none
  | .acknowledgement _ => none
  | .routeTimeout _ => none
  | .routeFailure _ => none
  | .laneLoss _ _ => none
  | .collectiveContribution _ => none
  | .collectiveComplete _ => none
  | .walkerTaskCreate _ => none
  | .taskEnqueue _ => none
  | .taskEntry _ _ => none
  | .dispatch _ _ => none
  | .contextFree _ _ => none
  | .taskRetirement _ _ => none
  | .vigilDecision _ _ => none
  | .overlayFold _ _ => none
  | .fetch _ _ => none
  | .evict _ _ => none
  | .pin _ _ => none
  | .drop _ _ => none
  | .almanacActionFinish _ _ => none
  | .almanacRelease _ => none
  | .launchCompletion _ => none
  | .launchQueueDoorbell _ _ _ => none
  | .launchAcceptance _ _ => none
  | .launchQueueHeadWrite _ _ _ => none
  | .completionHeadWrite _ _ _ => none
  | .faultLogTailWrite _ _ => none
  | .histogramClear _ => none
  | .traceRingReadIndex _ _ => none
  | .holdWrite _ _ => none
  | .pcselWrite _ _ _ => none
  | .scoreWrite _ _ => none
  | .vectorUnmask _ => none
  | .managementWrite _ _ => none
  | .watchdogExpiry _ _ => none
  | .haltLineArrival _ _ => none
  | .engineStop _ _ => none
  | .contextRemoval _ _ => none
  | .preemptionTrap _ => none
  | .savedImageWrite _ _ => none
  | .stopAreaWrite _ _ => none
  | .powerGateCommit _ => none
  | .powerUp _ => none
  | .clockSkip _ => none
  | .thermalTrip _ => none
  | .hubTakeover => none
  | .powerOnReset _ _ _ => none
  | .stage0 => none
  | .stage1 .. => none
  | .stage2 => none
  | .stage3 _ _ => none
  | .rowSwap _ _ _ => none
  | .scrub _ => none
  | .correctedLineRewrite _ => none
  | .traceDrain _ => none
  | .rdmaWrite _ _ => none
  | .rdmaRead _ _ => none
  | .mailboxRequest .. => none
  | .frameCheckFailure _ => none

/-- The IMM field of a group, if the instruction has one. -/
def Instr.imm : Instr → Option ImmF
  | .addi _ x _ _ _ => x
  | .shli _ x _ _ _ => x
  | .shri _ x _ _ _ => x
  | .shai _ x _ _ _ => x
  | .andi _ x _ _ _ => x
  | .li _ x _ _ => x
  | .lih _ x _ => x
  | .br _ x _ _ _ => x
  | .jmp _ x _ => x
  | .call _ x _ => x
  | .loopi _ x _ _ => x
  | .aaddi _ x _ _ _ => x
  | .ali _ x _ _ => x
  | .vli _ x _ _ _ => x
  | _ => none

/-- The MOD fields of a group, if the instruction has them. -/
def Instr.modf : Instr → Option ModF
  | .ldqx _ md _ _ _ _ => md
  | .stqx _ md _ _ _ _ _ _ _ => md
  | .ldgx _ md _ _ _ _ => md
  | .stgx _ md _ _ _ _ => md
  | .fadd _ md _ _ _ _ => md
  | .fsub _ md _ _ _ _ => md
  | .fmul _ md _ _ _ _ => md
  | .fma _ md _ _ _ _ => md
  | .fms _ md _ _ _ _ => md
  | .fnma _ md _ _ _ _ => md
  | .fdiv _ md _ _ _ _ => md
  | .fsqrt _ md _ _ _ => md
  | .fcvt _ md _ _ _ => md
  | .fmin _ md _ _ _ => md
  | .fmax _ md _ _ _ => md
  | .fabs _ md _ _ => md
  | .fneg _ md _ _ => md
  | .fcmpeq _ md _ _ _ => md
  | .fcmplt _ md _ _ _ => md
  | .fcmple _ md _ _ _ => md
  | .fclass _ md _ _ => md
  | .frcp _ md _ _ => md
  | .frsq _ md _ _ => md
  | .fexp2 _ md _ _ => md
  | .flog2 _ md _ _ => md
  | .ftanh _ md _ _ => md
  | .fsigm _ md _ _ => md
  | .fsin _ md _ _ => md
  | .fcos _ md _ _ => md
  | .iadd _ md _ _ _ => md
  | .isub _ md _ _ _ => md
  | .imul _ md _ _ _ => md
  | .imulh _ md _ _ _ => md
  | .imad _ md _ _ _ => md
  | .imin _ md _ _ _ => md
  | .imax _ md _ _ _ => md
  | .iand _ md _ _ _ => md
  | .ior _ md _ _ _ => md
  | .ixor _ md _ _ _ => md
  | .ishl _ md _ _ _ => md
  | .ishr _ md _ _ _ => md
  | .isha _ md _ _ _ => md
  | .icmpeq _ md _ _ _ => md
  | .icmplt _ md _ _ _ => md
  | .icmpltn _ md _ _ _ => md
  | .iadds _ md _ _ _ => md
  | .idot4 _ md _ _ _ => md
  | .tcmplt _ md _ _ _ => md
  | .vmov _ md _ _ => md
  | .vbcast _ md _ _ => md
  | .vperm _ md _ _ _ => md
  | .vshuf _ md _ _ _ => md
  | .vsel _ md _ _ _ => md
  | .vext _ md _ _ _ => md
  | .vins _ md _ _ _ => md
  | .vli _ _ md _ _ => md
  | .vrsum _ md _ _ => md
  | .vrmax _ md _ _ => md
  | .vrmin _ md _ _ => md
  | .vrowsum _ md _ => md
  | .vcolsum _ md _ => md
  | .vtrans _ md => md
  | .kand _ md _ _ _ => md
  | .kor _ md _ _ _ => md
  | .kxor _ md _ _ _ => md
  | .knot _ md _ _ => md
  | .kpopc _ md _ _ => md
  | _ => none

/-- How many leading words the group has. -/
def Instr.lead (i : Instr) : Nat :=
  (if i.imm.isSome then 1 else 0) + (if i.modf.isSome then 1 else 0)

/-- The words of a group, IMM before MOD (R82). -/
def encode (i : Instr) : Option (List W32) :=
  (encodeWord i).map fun w =>
    (i.imm.toList.map encodeImm) ++ (i.modf.toList.map encodeMod) ++ [w]

end Sys2Proof
end

