-- ==== Sys2Proof/Config.lean ====
section
/-! DEFINITION. What the device fixes, and the values the spec leaves free. -/

namespace Sys2Proof.Config

/-- The agent that acts next where the spec fixes no time: an event of the device's own, or none to
end the cc. A FREE VALUE: no body, applied to State.free (log 5). -/
opaque freeAgent : Nat → Option Instr

/-- What MCKRD reads of the checksums of an I32 accumulator whose exact sum is no finite whole number: R282 states no
value. A FREE VALUE below 2^61 - 1: no body, applied to State.free (log 60). -/
opaque checksumRead : Nat → Nat

/-- Whether the host port cannot complete an EXT access (R219): the spec fixes no rule for it. A FREE
VALUE: no body, applied to State.free (log 6). -/
opaque hostFails : Nat → Bool

/-- Whether CXL reports poison with an EXT access that it completes (R219). A FREE VALUE: no body, applied to
State.free (log 6). -/
opaque hostPoison : Nat → Bool

/-- The cc by which a load through the die window comes late (R208): its latency is not exact. A FREE VALUE: no body,
applied to State.free (log 56). -/
opaque windowLate : Nat → Nat

/-- The ports that the die window and the copy engine of a core lose in a cc (R204, Table 12.6): the spec leaves the
times of both open. A FREE VALUE: no body, applied to State.free (log 56). -/
opaque portLosses : Nat → Nat

/-- The form that the package's assembly is fused down to (R396): the spec gives it per device. A FREE VALUE: no body
(log 67). -/
opaque fusedTo : Fin 3

/-- The strap setting of that form: FORM 00, 01 or 10 (Table 0.1). -/
def fusedForm : BitVec 2 := BitVec.ofNat 2 fusedTo.val

/-- Bank within its pseudo-channel and row of an HBM line, by its offset in the level: the spec gives no map below the
pseudo-channel (R196, R214, R215). A FREE VALUE: no body (log 16). -/
opaque bankRow : Nat → Nat × Nat

/-- Most watts of an island (R407, Table 14.9): 580 A at up to 0.85 V, 120 W, 60 W and 2 W. -/
def islandWatts : Nat := 493 + 120 + 60 + 2

/-- The D9's latency of each class (Table 3.19). -/
def latency : Nat → Nat
  | 0 => 1 | 1 => 3 | 2 => 12 | 3 => 2 | 4 => 4 | 5 => 10 | 6 => 8 | 7 => 6 | 8 => 3 | 9 => 4
  | 10 => 10 | 11 => 2 | 12 => 240 | _ => 0

/-- Class 12 on a die that has adopted its home stack (R9, R217). -/
def adoptedLatency : Nat := 272

/-- Active logical dies by strap FORM (Table 0.1, Table 14.1). -/
def dies (form : BitVec 2) : Nat := if form = 2 then 12 else 16

/-- The configuration identifier (Table 3.20). -/
def cfgid (form : BitVec 2) : Nat := if form = 2 then 0x0011100C else 0x00111010

/-- Logical dies per island (R9). -/
def perIsland (form : BitVec 2) : Nat := dies form / 4

/-- Island of logical die d under the identity map (R9). -/
def islandOf (form : BitVec 2) (d : Nat) : Nat := d / perIsland form

/-- Home stack of logical die d (R9). -/
def homeStack (form : BitVec 2) (d : Nat) : Nat :=
  4 * (d / perIsland form) + d % perIsland form

/-- Identity spare map of CX dies (R403): island x 5 + position. -/
def identityDie (form : BitVec 2) (d : Nat) : Nat :=
  5 * (d / perIsland form) + d % perIsland form

/-- Columns of the (39,32) code's data bits d0 to d31 (Table 7.10). -/
def eccColumns : List Nat :=
  [0x07, 0x0B, 0x0D, 0x0E, 0x13, 0x15, 0x16, 0x19, 0x1A, 0x1C, 0x23, 0x25, 0x26, 0x29, 0x2A, 0x2C,
   0x31, 0x32, 0x34, 0x38, 0x43, 0x45, 0x46, 0x49, 0x4A, 0x4C, 0x51, 0x52, 0x54, 0x58, 0x61, 0x62]

end Sys2Proof.Config
end

