-- ==== Sys2Proof/Machine/Bits.lean ====
section
/-! DEFINITION. Bit fields, sign extension and byte order (R3, R6, Table 0.3). -/

namespace Sys2Proof.Machine

/-- sext(x, n) of Table 0.3. -/
def sextN (x n : Nat) : Int :=
  let m := x % 2 ^ n
  if n = 0 then 0 else if m < 2 ^ (n - 1) then (m : Int) else (m : Int) - (2 ^ n : Nat)

/-- Bits [lo+n-1:lo] of a number. -/
def bitsN (x lo n : Nat) : Nat := (x >>> lo) % 2 ^ n

/-- Bit lo of a number. -/
def bitN (x lo : Nat) : Bool := x.testBit lo

/-- The low n bits of an integer in two's complement. -/
def toBits (n : Nat) (x : Int) : Nat := (x % (2 ^ n : Nat)).toNat

/-- A 64-bit word from an integer, modulo 2^64. -/
def wordOfInt (x : Int) : Word := BitVec.ofInt 64 x

/-- Element j of width w bits of a packed block (R36). -/
def elemOf (w v j : Nat) : Nat := (v >>> (j * w)) % 2 ^ w

/-- The first n elements of width w bits of a packed block (R36). -/
def elemsOf (w : Nat) : Nat → Nat → List Nat
  | 0, _ => []
  | n + 1, v => v % 2 ^ w :: elemsOf w n (v >>> w)

/-- Packs elements of width w bits, element 0 lowest (R36). -/
def packElems (w : Nat) : List Nat → Nat
  | [] => 0
  | x :: r => x % 2 ^ w + packElems w r <<< w

/-- The n bytes of a number, least significant first. -/
def bytesOfNat : Nat → Nat → List Byte
  | 0, _ => []
  | n + 1, v => BitVec.ofNat 8 v :: bytesOfNat n (v / 256)

/-- The number a list of bytes holds, least significant first. -/
def natOfBytes : List Byte → Nat
  | [] => 0
  | b :: r => b.toNat + 256 * natOfBytes r

/-- The low NB bits of v in reverse order (R223). -/
def revBits (v : Nat) : Nat → Nat
  | 0 => 0
  | n + 1 => (if bitN v 0 then 2 ^ n else 0) + revBits (v >>> 1) n

/-- Replaces bits [lo+n-1:lo] of x by the low n bits of v. -/
def setBits (x lo n v : Nat) : Nat :=
  x % 2 ^ lo + (v % 2 ^ n) <<< lo + (x >>> (lo + n)) <<< (lo + n)

/-- How many leading zeros a 64-bit word has. -/
def clzAux : Nat → Nat → Nat
  | 0, _ => 0
  | n + 1, x => if bitN x n then 0 else 1 + clzAux n x

/-- How many of the low n bits are one. -/
def popAux : Nat → Nat → Nat
  | 0, _ => 0
  | n + 1, x => (if bitN x 0 then 1 else 0) + popAux n (x >>> 1)

/-- Index of the highest one bit; 0 for 0. -/
def log2N (n : Nat) : Nat := Nat.log2 n

/-- Ceiling division. -/
def ceilDiv (a b : Nat) : Nat := (a + b - 1) / b

/-- The integer square root, bit by bit from bit k down. -/
def isqrtAux (x : Nat) : Nat → Nat → Nat
  | 0, r => if (r + 1) * (r + 1) ≤ x then r + 1 else r
  | k + 1, r =>
    let c := r + 2 ^ (k + 1)
    isqrtAux x k (if c * c ≤ x then c else r)

/-- The integer square root. -/
def isqrt (x : Nat) : Nat := isqrtAux x (Nat.log2 x / 2 + 1) 0

end Sys2Proof.Machine
end

