-- ==== Sys2Proof/Machine/Numbers.lean ====
section
/-! DEFINITION. Numbers, exact to the bit (02_numbers.md): the formats, decoding to exact values,
rounding into a format, exact sums and the stochastic-rounding bits. -/

namespace Sys2Proof.Machine

/-- Element formats: the IEEE-style ones (R33), the tapered ones (R38), and integers by signedness
and width (R36). -/
inductive Fmt where
  | fp64 | fp32 | bf16 | e5m2 | e4m3 | tf8 | tf16
  | int (signed : Bool) (bits : Nat)
  deriving DecidableEq, Repr

/-- Width of an element in bits. -/
def Fmt.width : Fmt → Nat
  | .fp64 => 64 | .fp32 => 32 | .bf16 => 16 | .e5m2 => 8 | .e4m3 => 8 | .tf8 => 8 | .tf16 => 16
  | .int _ n => n

/-- Integer format or not. -/
def Fmt.isInt : Fmt → Bool
  | .int _ _ => true
  | _ => false

/-- A real under way to a format: a NaN, an infinity, or a number of magnitude (n + t) * 2^e with
0 ≤ t < 1, where t is nonzero exactly when `sticky`. An exact value has sticky false; n = 0 without
sticky is a zero with its sign. -/
inductive Val where
  | nan
  | inf (neg : Bool)
  | num (neg : Bool) (n : Nat) (e : Int) (sticky : Bool)
  deriving DecidableEq, Repr

/-- An exact value of magnitude n * 2^e. -/
abbrev Val.fin (neg : Bool) (n : Nat) (e : Int) : Val := .num neg n e false

/-- An integer as an exact value; zero is +0. -/
def Val.ofInt (x : Int) : Val := .fin (x < 0) x.natAbs 0

/-- What a result does to CIR (R35): a NaN, NaR or infinity produced; a value clamped. -/
structure NumFlags where
  nonfinite : Bool
  clamped : Bool
  deriving DecidableEq, Repr

/-- No bit set. -/
def NumFlags.none : NumFlags := ⟨false, false⟩
/-- The bits of two results together. -/
def NumFlags.or (a b : NumFlags) : NumFlags := ⟨a.nonfinite || b.nonfinite, a.clamped || b.clamped⟩

/-- A rounding direction in force: the codes of Table 2.5 with DYN resolved by Table 2.6. -/
inductive Rnd where
  | rne | rtz | rup | rdn | rna
  | sr
  deriving DecidableEq, Repr

/-- The direction of a 2-bit rounding code under RMODE (R43, R44). -/
def rndOf (code rmode : BitVec 2) : Rnd :=
  match code.toNat with
  | 0 => .rne
  | 1 => .rtz
  | 2 => .sr
  | _ => match rmode.toNat with
    | 0 => .rup
    | 1 => .rdn
    | 2 => .rna
    | _ => .rne

/-- Exponent bits, fraction bits and bias of an IEEE-style format (Table 2.1). -/
def Fmt.ieee : Fmt → Option (Nat × Nat × Nat)
  | .fp64 => some (11, 52, 1023)
  | .fp32 => some (8, 23, 127)
  | .bf16 => some (8, 7, 127)
  | .e5m2 => some (5, 2, 15)
  | .e4m3 => some (4, 3, 7)
  | _ => none

/-- The pattern of the largest finite value (Table 2.1). -/
def Fmt.maxCode : Fmt → Nat
  | .fp64 => 0x7FEFFFFFFFFFFFFF | .fp32 => 0x7F7FFFFF | .bf16 => 0x7F7F
  | .e5m2 => 0x7B | .e4m3 => 0x7E | .tf8 => 0x7F | .tf16 => 0x7FFF
  | .int s n => if s then 2 ^ (n - 1) - 1 else 2 ^ n - 1

/-- The canonical NaN of a format, or NaR of a tapered one (R34, R38). -/
def Fmt.nanCode : Fmt → Nat
  | .fp64 => 0x7FF8000000000000 | .fp32 => 0x7FC00000 | .bf16 => 0x7FC0
  | .e5m2 => 0x7E | .e4m3 => 0x7F | .tf8 => 0x80 | .tf16 => 0x8000
  | .int _ _ => 0

/-- The pattern of +Inf; E4M3 has none and gives its NaN (Tables 2.1, 2.7). -/
def Fmt.infCode : Fmt → Nat
  | .fp64 => 0x7FF0000000000000 | .fp32 => 0x7F800000 | .bf16 => 0x7F80 | .e5m2 => 0x7C
  | f => f.nanCode

/-- Decodes an IEEE-style pattern (R33, R34). -/
def decodeIeee (f : Fmt) (eb fb bias : Nat) (w : Nat) : Val :=
  let neg := bitN w (eb + fb)
  let ex := bitsN w fb eb
  let fr := bitsN w 0 fb
  let q : Int := 1 - (bias : Int) - fb
  if f = .e4m3 then
    if ex = 15 ∧ fr = 7 then .nan
    else if ex = 0 then .fin neg fr q else .fin neg (2 ^ fb + fr) (q + ex - 1)
  else if ex = 2 ^ eb - 1 then (if fr = 0 then .inf neg else .nan)
  else if ex = 0 then .fin neg fr q
  else .fin neg (2 ^ fb + fr) (q + ex - 1)

/-- Length of the run of equal bits from bit j down, at most `max` (R37). -/
def tfRun (m : Nat) (b : Bool) : Nat → Nat → Nat
  | 0, _ => 0
  | _ + 1, 0 => 0
  | j + 1, max + 1 => if bitN m j = b then 1 + tfRun m b j max else 0

/-- Magnitude of a positive tapered pattern as (significand, exponent) (R37). -/
def tfMag (n es rmax m : Nat) : Nat × Int :=
  let b := bitN m (n - 2)
  let k := tfRun m b (n - 1) rmax
  -- bits left after the regime and its terminator
  let left := (n - 1 - k) - (if k < rmax then 1 else 0)
  let q : Int := if b then (k : Int) - 1 else -(k : Int)
  let e := if es ≤ left then bitsN m (left - es) es else bitsN m 0 left <<< (es - left)
  let f := left - es
  (2 ^ f + bitsN m 0 f, q * (2 ^ es : Nat) + e - f)

/-- es and Rmax of a tapered format (Table 2.2). -/
def tfParams (f : Fmt) : Nat × Nat × Nat := if f = .tf8 then (8, 1, 6) else (16, 2, 12)

/-- Decodes a tapered pattern; NaR acts as a NaN (R37, R40). -/
def decodeTf (f : Fmt) (w : Nat) : Val :=
  let (n, es, rmax) := tfParams f
  if w = 0 then .fin false 0 0
  else if w = 2 ^ (n - 1) then .nan
  else
    let neg := bitN w (n - 1)
    let m := if neg then 2 ^ n - w else w
    let (s, e) := tfMag n es rmax m
    .fin neg s e

/-- The exact value of a pattern. -/
def Fmt.decode (f : Fmt) (w : Nat) : Val :=
  let w := w % 2 ^ f.width
  match f with
  | .int s n => .ofInt (if s then sextN w n else (w : Int))
  | .tf8 => decodeTf f w
  | .tf16 => decodeTf f w
  | f => match f.ieee with
    | some (eb, fb, bias) => decodeIeee f eb fb bias w
    | none => .nan

/-- The sign of a value, NaN taken as positive. -/
def Val.neg? : Val → Bool
  | .nan => false
  | .inf s => s
  | .num s _ _ _ => s

/-- The value with its sign inverted. -/
def Val.negate : Val → Val
  | .nan => .nan
  | .inf s => .inf !s
  | .num s n e t => .num (!s) n e t

/-- Is it an exact zero? -/
def Val.isZero : Val → Bool
  | .num _ 0 _ false => true
  | _ => false

/-- Exact product of two exact values (R56, R57). -/
def Val.mul : Val → Val → Val
  | .nan, _ => .nan
  | _, .nan => .nan
  | .inf s, b => if b.isZero then .nan else .inf (s ^^ b.neg?)
  | a, .inf s => if a.isZero then .nan else .inf (a.neg? ^^ s)
  | .num s n e _, .num s' n' e' _ => .fin (s ^^ s') (n * n') (e + e')

/-- Does the direction raise the magnitude of (lo + (num + t)/den), with lo and lo + 1 the grid
neighbours in magnitude (R46 step 3)? `den` is even or the value is exact; under SR `sr` holds the
16 bits, and the fraction of a negative value counts from its lower neighbour. -/
def roundUpMag (rm : Rnd) (sr : Nat) (neg : Bool) (num den : Nat) (sticky loEven : Bool) : Bool :=
  let inexact := num != 0 || sticky
  let above := 2 * num > den || (2 * num == den && sticky)
  let tie := 2 * num == den && !sticky
  match rm with
  | .rne => above || (tie && !loEven)
  | .rna => above || tie
  | .rtz => false
  | .rup => inexact && !neg
  | .rdn => inexact && neg
  | .sr =>
    let scaled := num * 65536
    let fl := scaled / den
    if !inexact then false
    else if neg then
      let cl := if scaled % den != 0 || sticky then fl + 1 else fl
      (65536 - cl) + sr < 65536
    else 65536 ≤ fl + sr

/-- Rounds a magnitude to a multiple of 2^q: the multiple. -/
def roundGrid (rm : Rnd) (sr : Nat) (neg : Bool) (n : Nat) (e : Int) (sticky : Bool) (q : Int) : Nat :=
  if e ≥ q then
    let lo := n <<< (e - q).toNat
    if roundUpMag rm sr neg 0 2 sticky (lo % 2 == 0) then lo + 1 else lo
  else
    let k := (q - e).toNat
    let lo := n >>> k
    if roundUpMag rm sr neg (n % 2 ^ k) (2 ^ k) sticky (lo % 2 == 0) then lo + 1 else lo

/-- What an IEEE-style overflow delivers (R46 step 4, R49, R50). -/
def overflowCode (f : Fmt) (rm : Rnd) (neg sat : Bool) : Nat × NumFlags :=
  let sg := if neg then 2 ^ (f.width - 1) else 0
  let toMax := match rm with
    | .rtz => true
    | .rup => neg
    | .rdn => !neg
    | _ => false
  if sat then (sg + f.maxCode, ⟨false, true⟩)
  else if toMax then (sg + f.maxCode, NumFlags.none)
  else if f = .e4m3 then (f.nanCode, ⟨true, false⟩)
  else (sg + f.infCode, ⟨true, false⟩)

/-- roundTo for an IEEE-style format (R46, R49, R50). -/
def roundIeee (f : Fmt) (fb bias : Nat) (rm : Rnd) (sr : Nat) (sat : Bool) : Val → Nat × NumFlags
  | .nan => (f.nanCode, ⟨true, false⟩)
  | .inf s =>
    let sg := if s then 2 ^ (f.width - 1) else 0
    if sat then (sg + f.maxCode, ⟨false, true⟩)
    else if f = .e4m3 then (f.nanCode, ⟨true, false⟩)
    else (sg + f.infCode, ⟨true, false⟩)
  | .num s n e t =>
    let sg := if s then 2 ^ (f.width - 1) else 0
    let qmin : Int := 1 - (bias : Int) - fb
    let q : Int := if n = 0 then qmin else max qmin (Nat.log2 n + e - fb)
    let m := roundGrid rm sr s n e t q
    -- the pattern grows by one per grid step, across binades too
    let code := if m = 0 then 0 else ((q - qmin).toNat <<< fb) + m
    if code > f.maxCode then overflowCode f rm s sat else (sg + code, NumFlags.none)

/-- The greatest pattern below 2^k on top of p whose magnitude is at most n * 2^e. -/
def tfSearch (es rmax w : Nat) (n : Nat) (e : Int) : Nat → Nat → Nat
  | 0, p => p
  | k + 1, p =>
    let c := p + 2 ^ k
    let (s, x) := tfMag w es rmax c
    let le := if x ≥ e then decide (s <<< (x - e).toNat ≤ n) else decide (s ≤ n <<< (e - x).toNat)
    tfSearch es rmax w n e k (if le then c else p)

/-- roundTo for a tapered format (R47). -/
def roundTf (f : Fmt) (rm : Rnd) (sr : Nat) : Val → Nat × NumFlags
  | .nan => (f.nanCode, ⟨true, false⟩)
  | .inf _ => (f.nanCode, ⟨true, false⟩)
  | .num s n e t =>
    let (w, es, rmax) := tfParams f
    if n = 0 ∧ t = false then (0, NumFlags.none)
    else
      let sgn := fun m => if s then 2 ^ w - m else m
      let p := tfSearch es rmax w n e (w - 1) 0
      if p = 0 then (sgn 1, NumFlags.none)
      else
        let (ls, lx) := tfMag w es rmax p
        -- everything over the unit 2^u, doubled so that halves are whole
        let u : Int := min lx e - 1
        let lo := ls <<< (lx - u).toNat
        let x := n <<< (e - u).toNat
        if p = f.maxCode then
          (sgn p, ⟨false, x != lo || t⟩)
        else
          let (hs, hx) := tfMag w es rmax (p + 1)
          let u2 : Int := min u hx
          let sc := (u - u2).toNat
          let lo2 := lo <<< sc
          let x2 := x <<< sc
          let hi2 := hs <<< (hx - u2).toNat
          if roundUpMag rm sr s (x2 - lo2) (hi2 - lo2) t (p % 2 == 0) then (sgn (p + 1), NumFlags.none)
          else (sgn p, NumFlags.none)

/-- Least and greatest integer of a format (R36). -/
def intRange (signed : Bool) (n : Nat) : Int × Int :=
  if signed then (-(2 ^ (n - 1) : Nat), (2 ^ (n - 1) : Nat) - 1) else (0, (2 ^ n : Nat) - 1)

/-- An integer saturated to a format: its pattern, and whether it was clamped (R48). -/
def satInt (signed : Bool) (n : Nat) (x : Int) : Nat × Bool :=
  let (lo, hi) := intRange signed n
  if x < lo then (toBits n lo, true) else if x > hi then (toBits n hi, true) else (toBits n x, false)

/-- roundTo for an integer format (R48). -/
def roundInt (signed : Bool) (w : Nat) (rm : Rnd) (sr : Nat) : Val → Nat × NumFlags
  | .nan => (0, NumFlags.none)
  | .inf s =>
    let (lo, hi) := intRange signed w
    (toBits w (if s then lo else hi), ⟨false, true⟩)
  | .num s n e t =>
    let m := roundGrid rm sr s n e t 0
    let (b, c) := satInt signed w (if s then -(m : Int) else m)
    (b, ⟨false, c⟩)

/-- roundTo(fmt, x, rm) of Table 0.3: the pattern, and what it does to CIR. -/
def roundTo (f : Fmt) (rm : Rnd) (sr : Nat) (sat : Bool) (x : Val) : Nat × NumFlags :=
  match f with
  | .int s n => roundInt s n rm sr x
  | .tf8 => roundTf .tf8 rm sr x
  | .tf16 => roundTf .tf16 rm sr x
  | f => match f.ieee with
    | some (_, fb, bias) => roundIeee f fb bias rm sr sat x
    | none => (0, NumFlags.none)

/-- Exact sum of finite terms as an integer over 2^e, e the least exponent among them. -/
def finSum : List Val → Int × Int
  | [] => (0, 0)
  | .num s n e _ :: r =>
    let (m, x) := finSum r
    let v : Int := if s then -(n : Int) else n
    if v = 0 then (m, x)
    else if m = 0 then (v, e)
    else if e ≤ x then (v + m * (2 ^ (x - e).toNat : Nat), e)
    else (v * (2 ^ (e - x).toNat : Nat) + m, x)
  | _ :: r => finSum r

/-- Is it a NaN? -/
def Val.isNan : Val → Bool
  | .nan => true
  | _ => false
/-- Is it that infinity? -/
def Val.isInf (s : Bool) : Val → Bool
  | .inf s' => s == s'
  | _ => false

/-- The exact sum of terms before rounding, with the sign of a zero sum (exactSum, R57). -/
def exactTotal (rm : Rnd) (ts : List Val) : Val :=
  if ts.any Val.isNan || (ts.any (Val.isInf false) && ts.any (Val.isInf true)) then .nan
  else if ts.any (Val.isInf false) then .inf false
  else if ts.any (Val.isInf true) then .inf true
  else
    let (m, e) := finSum ts
    if m = 0 then
      .fin ((!ts.isEmpty && ts.all fun t => t.isZero && t.neg?) || rm == .rdn) 0 0
    else .fin (m < 0) m.natAbs e

/-- exactSum(T, fmt, rm) of R57. -/
def exactSum (f : Fmt) (rm : Rnd) (sr : Nat) (sat : Bool) (ts : List Val) : Nat × NumFlags :=
  roundTo f rm sr sat (exactTotal rm ts)

/-- Quotient of two exact values, to far more bits than any format holds (R56). -/
def Val.div : Val → Val → Val
  | .nan, _ => .nan
  | _, .nan => .nan
  | .inf _, .inf _ => .nan
  | .inf s, b => .inf (s ^^ b.neg?)
  | a, .inf s => .fin (a.neg? ^^ s) 0 0
  | .num s n e _, .num s' n' e' _ =>
    if n' = 0 then (if n = 0 then .nan else .inf (s ^^ s'))
    else
      let k := 200 + Nat.log2 n'
      .num (s ^^ s') ((n <<< k) / n') (e - e' - k) ((n <<< k) % n' != 0)

/-- A result whose exact zero takes its sign from exactSum (R56, R57). -/
def Val.zeroSign (rm : Rnd) (v : Val) : Val :=
  match v with
  | .num _ 0 _ false => exactTotal rm [v]
  | _ => v

/-- Square root of an exact value (R56). -/
def Val.sqrt : Val → Val
  | .nan => .nan
  | .inf s => if s then .nan else .inf false
  | .num s n e _ =>
    if n = 0 then .fin s 0 0
    else if s then .nan
    else
      -- an even exponent, with at least 200 bits below the radicand
      let sh := 400 + (if e % 2 = 0 then 0 else 1)
      let x := n <<< sh
      let r := isqrt x
      .num false r ((e - sh) / 2) (r * r != x)

/-- Exact order of two values that are no NaNs: negative, zero or positive, with -0 below +0. -/
def Val.cmp : Val → Val → Int
  | .inf s, .inf s' => if s = s' then 0 else if s then -1 else 1
  | .inf s, _ => if s then -1 else 1
  | _, .inf s => if s then 1 else -1
  | .num s n e _, .num s' n' e' _ =>
    let a : Int := if s then -(n : Int) else n
    let b : Int := if s' then -(n' : Int) else n'
    let d := if e ≤ e' then a - b * (2 ^ (e' - e).toNat : Nat) else a * (2 ^ (e - e').toNat : Nat) - b
    if d < 0 then -1 else if d > 0 then 1
    else if n = 0 ∧ n' = 0 then (if s = s' then 0 else if s then -1 else 1) else 0
  | _, _ => 0

/-- Comparison as exact values, where -0 equals +0; none with a NaN (R157). -/
def Val.cmpExact (a b : Val) : Option Int :=
  if a.isNan || b.isNan then none
  else if a.isZero && b.isZero then some 0
  else some (a.cmp b)

/-- The smaller or the larger of two, -0 below +0; NaN if either is (R155). -/
def Val.minmax (wantMax : Bool) (a b : Val) : Val :=
  if a.isNan || b.isNan then .nan
  else if a.cmp b ≤ 0 then (if wantMax then b else a) else (if wantMax then a else b)

/-- mix64 of R51. -/
def mix64 (z : Word) : Word :=
  let z := (z ^^^ (z >>> 30)) * 0xBF58476D1CE4E5B9#64
  let z := (z ^^^ (z >>> 27)) * 0x94D049BB133111EB#64
  z ^^^ (z >>> 31)

/-- srBits(i) of R51. -/
def srBits (seed : Word) (stream : BitVec 32) (ctr : Word) (i : Nat) : Nat :=
  let eff := mix64 (seed ^^^ (stream.zeroExtend 64 <<< 32))
  let z := mix64 (eff + 0x9E3779B97F4A7C15#64 * (ctr * 4096#64 + BitVec.ofNat 64 i))
  (z >>> 48).toNat

/-- An exact dyadic value m * 2^e, as checksums and accumulators hold it (R175, R259). -/
structure Dy where
  m : Int
  e : Int
  deriving DecidableEq, Repr

/-- Zero. -/
def Dy.zero : Dy := ⟨0, 0⟩

/-- Exact sum. -/
def Dy.add (a b : Dy) : Dy :=
  if a.m = 0 then b else if b.m = 0 then a
  else if a.e ≤ b.e then ⟨a.m + b.m * (2 ^ (b.e - a.e).toNat : Nat), a.e⟩
  else ⟨a.m * (2 ^ (a.e - b.e).toNat : Nat) + b.m, b.e⟩

/-- Exact negation. -/
def Dy.neg (a : Dy) : Dy := ⟨-a.m, a.e⟩
/-- Exact magnitude. -/
def Dy.abs (a : Dy) : Dy := ⟨a.m.natAbs, a.e⟩
/-- Exact difference compared with zero. -/
def Dy.le (a b : Dy) : Bool := (a.add b.neg).m ≤ 0
/-- A finite exact value as a dyadic; zero for the others. -/
def Val.toDy : Val → Dy
  | .num s n e _ => ⟨if s then -(n : Int) else n, e⟩
  | _ => Dy.zero
/-- A dyadic as a value. -/
def Dy.toVal (a : Dy) : Val := .fin (a.m < 0) a.m.natAbs a.e

/-- An exact running sum that also holds non-finite terms, as exactSum does (R57, R275). -/
structure XSum where
  v : Dy
  nan : Bool
  pinf : Bool
  ninf : Bool
  deriving DecidableEq, Repr

/-- The empty sum. -/
def XSum.zero : XSum := ⟨Dy.zero, false, false, false⟩

/-- Adds one exact term. -/
def XSum.add (x : XSum) : Val → XSum
  | .nan => { x with nan := true }
  | .inf false => { x with pinf := true }
  | .inf true => { x with ninf := true }
  | t => { x with v := x.v.add t.toDy }

/-- What the sum is worth. -/
def XSum.total (x : XSum) : Val :=
  if x.nan || (x.pinf && x.ninf) then .nan
  else if x.pinf then .inf false
  else if x.ninf then .inf true
  else x.v.toVal

/-- The element formats of Table 3.12, and none for a reserved code. -/
def typeFmt : Nat → Option Fmt
  | 0 => some .fp32 | 1 => some .bf16
  | 2 => some (.int true 32) | 3 => some (.int false 32)
  | 4 => some (.int true 16) | 5 => some (.int false 16)
  | 6 => some (.int true 8) | 7 => some (.int false 8)
  | 8 => some (.int true 4) | 9 => some (.int false 4)
  | _ => none

/-- FP32 and BF16 are the floating window types (R139). -/
def Fmt.isFloat (f : Fmt) : Bool := !f.isInt

/-- Elements in a 512-byte register (R139). -/
def Fmt.lanes (f : Fmt) : Nat := 4096 / f.width

end Sys2Proof.Machine
end

