-- ==== Sys2Proof/Machine/Tbl.lean ====
section
/-! DEFINITION. Finite tables by number, kept as lists in rising order of key, and the memory bytes
kept the same way in one canonical form: no entry equal to what an unlisted address reads as. -/

namespace Sys2Proof.Machine

/-- A sparse table: an unlisted key holds the value its reader names. -/
abbrev Tbl (α : Type) := List (Nat × α)

/-- The entry of key k, if listed. -/
def tblFind {α : Type} : Tbl α → Nat → Option α
  | [], _ => none
  | (k', v) :: r, k => if k = k' then some v else tblFind r k

/-- The value at key k, with d for an unlisted key. -/
def tblGet {α : Type} (d : α) (t : Tbl α) (k : Nat) : α := (tblFind t k).getD d

/-- Lists the pair at its place in the order, replacing an entry of the same key. -/
def tblPut {α : Type} : Tbl α → Nat → α → Tbl α
  | [], k, v => [(k, v)]
  | (k', v') :: r, k, v =>
    if k = k' then (k, v) :: r
    else if k < k' then (k, v) :: (k', v') :: r
    else (k', v') :: tblPut r k v

/-- Takes the entry of key k out. -/
def tblErase {α : Type} : Tbl α → Nat → Tbl α
  | [], _ => []
  | (k', v') :: r, k => if k = k' then tblErase r k else (k', v') :: tblErase r k

/-- Changes the value at key k. -/
def tblMod {α : Type} (d : α) (t : Tbl α) (k : Nat) (f : α → α) : Tbl α :=
  tblPut t k (f (tblGet d t k))

/-- What a byte of memory that nothing has written reads as (log 1, DESIGN CHOICE). -/
def unlistedByte : Byte := 0#8

/-- Bytes by address. -/
abbrev Mem := List Host.Cell

/-- The canonical form: addresses strictly rising, no entry equal to the unlisted byte. -/
def Mem.wf : Mem → Bool
  | [] => true
  | [(_, b)] => b != unlistedByte
  | (a, b) :: (a', b') :: r => b != unlistedByte && a < a' && Mem.wf ((a', b') :: r)

/-- One byte. -/
def Mem.read (m : Mem) (a : Nat) : Byte := tblGet unlistedByte m a

/-- Writes one byte; the unlisted value takes the entry out, so that equal memories are equal lists. -/
def Mem.write (m : Mem) (a : Nat) (b : Byte) : Mem :=
  if b = unlistedByte then tblErase m a else tblPut m a b

/-- The little-endian number held by n bytes from address a (R3). -/
def Mem.readN (m : Mem) (a : Nat) : Nat → Nat
  | 0 => 0
  | n + 1 => (m.read a).toNat + 256 * m.readN (a + 1) n

/-- Writes the low n bytes of v from address a, little-endian (R3). -/
def Mem.writeN (m : Mem) (a : Nat) : Nat → Nat → Mem
  | 0, _ => m
  | n + 1, v => (m.write a (BitVec.ofNat 8 v)).writeN (a + 1) n (v / 256)

/-- Writes a list of bytes from address a. -/
def Mem.writeBytes (m : Mem) (a : Nat) : List Byte → Mem
  | [] => m
  | b :: r => (m.write a b).writeBytes (a + 1) r

/-- The n bytes from address a. -/
def Mem.readBytes (m : Mem) (a : Nat) : Nat → List Byte
  | 0 => []
  | n + 1 => m.read a :: m.readBytes (a + 1) n

end Sys2Proof.Machine
end

