-- ==== Sys2Proof/Machine/State.lean ====
section
/-! DEFINITION. The state of the device as plain data: clusters (04), contexts (05 to 10), cores
(Table 1.2), dies, the memories, the hub's tables (11), the counters and records (12), the fabric
and the package (10, 14); the stop reasons of a step; and the machine right after power-on. Tables
are sparse: an unlisted key reads as the reset value its reader names. -/

namespace Sys2Proof.Machine

/-- What stops the model itself; every fault of the device is a next state (R366 to R373). -/
inductive Fault where
  /-- an instruction word was given to a cluster that is not running one: raised by every word's
  meaning when State.cur names no running cluster. Safe: the step never does that. -/
  | noCluster
  deriving DecidableEq, Repr

/-- Instructions without a meaning. -/
inductive Refusal where
  /-- the arm of Dispatch has no meaning yet. Safe: the model stops. -/
  | notModelled (mnemonic : String)
  deriving DecidableEq, Repr

/-- An invariant accumulator (R175). -/
structure Inv where
  isF : Bool
  v : Dy
  t : Dy
  nan : Bool
  pinf : Bool
  ninf : Bool
  n : Nat
  deriving DecidableEq, Repr

/-- An empty accumulator (R175). -/
def Inv.empty : Inv := ⟨false, Dy.zero, Dy.zero, false, false, false, 0⟩

/-- One effect of a word that lands when its latency ends (R26). -/
inductive Res where
  /-- scalar r of the issuing cluster -/
  | scal (r : Nat) (v : Word)
  /-- predicate p of the issuing cluster -/
  | pred (p : Nat) (v : Bool)
  /-- address register, mode, base and increment of A (R221) -/
  | areg (n : Nat) (v : Word)
  | mode (n : Nat) (v : Word)
  | base (n : Nat) (v : Word)
  | inc (n : Nat) (v : Word)
  /-- the bits m of merge buffer n (R227) -/
  | mbuf (n : Nat) (v m : Nat)
  /-- the bits m of the n frame bytes from offset off (R146) -/
  | frame (off n v m : Nat)
  /-- the bits m of mask k (R143, R144) -/
  | mask (k v m : Nat)
  /-- fills reserved row id of lq q with 64 bytes and poison marks (R286) -/
  | lrow (q id data poison : Nat)
  /-- fills reserved row id of sq q -/
  | srow (q id data : Nat)
  /-- a special register by number (Table 4.2) -/
  | spec (n : Nat) (v : Word)
  /-- view 0 to 3: VW0, VW1, TVW, AVW (R128) -/
  | view (n : Nat) (v : Word)
  /-- sets bits of CIR (R179) -/
  | cir (b : Nat)
  /-- folds values into signature n, or clears it (R174) -/
  | sig (n : Nat) (vals : Option (List Nat))
  /-- adds the terms that an accumulator has summed up to INV n, or empties it (R175 to R177) -/
  | inv (n : Nat) (add : Option Inv)
  /-- clears provenance record n (R194) -/
  | prov (n : Nat)
  deriving DecidableEq, Repr

/-- A result in flight: the sc in which it becomes visible, the sc in which the hardware has it
(later only under an interlock, R27), and what lands. -/
structure Flight where
  vis : Nat
  real : Nat
  res : List Res
  /-- the latency class of the word, 31 for none: class 10 holds the values of loads (R124) -/
  cls : Nat := 31
  deriving DecidableEq, Repr

/-- Whether a cluster issues (R119, R120, R368, R381). -/
inductive Run where
  | run | ended | tailed | trapped | stopped
  deriving DecidableEq, Repr

/-- Why a cluster's next word waits (R93, Table 12.6); cirEnd: it acts at the end of its issue cc. -/
inductive Wait where
  | token | queue | flag (f : Nat) | barrier (b : Nat) | mark | push | interlock | full | sync
  | fence | tlb | lock | atomic | landing | copyTok | fifo | tail | tracker | contain | hub | engine
  | visible | wake | cirEnd
  deriving DecidableEq, Repr

/-- A stop record (Table 13.2). -/
structure StopRec where
  code : Nat
  kind : Nat
  unit : Nat
  dump : Bool
  pc : W32
  task : Word
  addr : Word
  brpc : W32
  trap : Nat
  flag : Option Nat
  cseq : Nat
  fidx : Nat
  stat : Nat
  loc : Nat
  /-- the open row of a RACE was opened by an engine (ENG of Table 8.3; Table 13.2 gives it no bit, log 57) -/
  eng : Bool := false
  deriving DecidableEq, Repr

/-- The record of a unit that did not stop (R372). -/
def StopRec.zero : StopRec := ⟨0, 0, 0, false, 0, 0, 0, 0, 0, none, 0, 0, 0, 0, false⟩

/-- One cluster of a context (Table 4.1, Table 7.7, Table 5.1, Table 6.1). -/
structure Cluster where
  s : Tbl Word
  p : Tbl Bool
  lc : Tbl Word
  ls : Tbl W32
  le : Tbl W32
  ldepth : Nat
  stg : BitVec 8
  /-- level, stages and group size of the active LOOPP (R103) -/
  loopp : Option (Nat × Nat × Nat)
  stopping : Bool
  pc : W32
  /-- the target of the last branch does not fit the 32 bits of pc (R114) -/
  out : Bool
  rmode : BitVec 2
  seed : Word
  stream : BitVec 32
  ctr : Word
  /-- address state of A (R221) -/
  a : Tbl Word
  mode : Tbl Word
  base : Tbl Word
  inc : Tbl Word
  mb : Tbl Nat
  /-- masks of V (R143) -/
  k : Tbl Nat
  /-- signatures and accumulators of C or of V (R172) -/
  sig : Tbl Nat
  inv : Tbl Inv
  /-- sc since task start (R361) -/
  sc : Nat
  /-- empty sc still to pass: ISS gap or long loop-back (R63, R101) -/
  gap : Nat
  /-- the part of the gap that a long loop-back asks for (R101, Table 12.6) -/
  lgap : Nat
  /-- the last word had ISS 11 (R63) -/
  away : Bool
  dl : List Flight
  /-- SIG pushes still to fall due, in the order of issue: the sc at whose end they do, the field, and the sc of issue
  (R23) -/
  sigs : List (Nat × BitVec 2 × Nat)
  held : List (BitVec 2)
  run : Run
  /-- why the next word waits, the sc waited so far (R363), and a request outstanding -/
  wait : Option Wait
  waited : Nat
  /-- the answer of a blocking request: old value of an atomic, test of a MARK -/
  answer : Option Word
  /-- a blocking request is outstanding (R129, R229) -/
  asked : Bool
  /-- an atomic of this cluster has not returned: no further word issues (R229) -/
  blocked : Bool
  /-- freed arriver of a barrier, which issues its BAR (R96); freed in this cc, so from the next one on -/
  barGo : Bool
  barNext : Bool
  /-- the next word is an AWAIT whose flag was set when it became the next word (R363) -/
  hadFlag : Bool
  /-- offset of the branch whose target is next (R114) -/
  brpc : W32
  /-- a pre-emption trap point has been reached: loop-back, or exit of a drained LOOPP (R381) -/
  atBack : Bool
  /-- level, stages, group of a LOOPP that pre-emption has drained (R103, R383) -/
  drained : Option (Nat × Nat × Nat)
  /-- pre-emption keeps the active LOOPP from admitting iterations (R103, R381) -/
  draining : Bool
  stop : StopRec
  /-- results that the rest of the context sees before the cluster's next sc (R236), with the bytes they took the place
  of: a debug stop before that sc has them in flight (R386) -/
  early : List (Flight × Nat) := []
  deriving DecidableEq, Repr

/-- A row of a data queue (R286): its identity, whether it is filled, its 64 bytes and a poison
mark per 32-bit word (R209). -/
structure QRow where
  id : Nat
  filled : Bool
  data : Nat
  poison : Nat
  deriving DecidableEq, Repr

/-- A completion token (R289); addr is the failing element's address (R298). -/
structure CTok where
  pend : Nat
  stat : Nat
  fidx : Nat
  addr : Word
  /-- ENG of the open row that a RACE met (Table 8.3) -/
  eng : Bool := false
  deriving DecidableEq, Repr

def CTok.zero : CTok := { pend := 0, stat := 0, fidx := 0, addr := 0 }

/-- An element of a result FIFO (R285). -/
structure FElem where
  v : Word
  stat : Nat
  addr : Word
  /-- ENG of the open row that a RACE met (Table 8.3) -/
  eng : Bool := false
  /-- accesses in flight that happen before the command (R242, R243) -/
  past : List Nat := []
  deriving DecidableEq, Repr

/-- The checksum state of one accumulator (R275): exact row and column checksums with their
magnitude sums, VALID, the rounding count and the accumulator format code. -/
structure Cks where
  row : Tbl (XSum × Dy)
  col : Tbl (XSum × Dy)
  valid : Bool
  m : Nat
  fmt : Nat
  deriving DecidableEq, Repr

/-- At task start: all zero, M 0, VALID 1, format I32 (Table 9.1). -/
def Cks.start : Cks := ⟨[], [], true, 0, 1⟩

/-- What a kernel's image and table entry give a task (R84, R318, R319). -/
structure Snap where
  img : Nat
  size : Nat
  frame : Nat
  sys : Bool
  lats : List Nat
  shadow : Nat
  views : List Word
  share : Nat
  cls : Nat
  entry : List Nat
  codeOff : Nat
  codeSize : Nat
  almOff : Nat
  almCnt : Nat
  deriving DecidableEq, Repr

def Snap.none : Snap := ⟨0, 0, 16384, false, [], 0, [], 1, 0, [], 0, 0, 0, 0⟩

/-- The task instance a context runs. -/
structure Task where
  tid : Word
  inst : Nat
  part : Nat
  launch : Nat
  cls : Nat
  kidx : Nat
  tq : Nat
  snap : Snap
  deriving DecidableEq, Repr

/-- A context (Tables 5.1, 6.1, 9.1, 10.1). -/
structure Ctx where
  task : Option Task
  fo : Nat
  clus : Tbl Cluster
  views : Tbl Word
  flags : Tbl Bool
  scope : Tbl Bool
  setter : Tbl Nat
  /-- sets arriving in this cc: flag, scope bit, setter (R95) -/
  fsets : List (Nat × Bool × Nat)
  /-- flags whose AWAIT completed in this cc (R95) -/
  fclears : List Nat
  /-- tokens in the queue that cluster c fills towards its left (2c) or right (2c+1) (R23) -/
  tok : Tbl Nat
  lq : Tbl (List QRow)
  sq : Tbl (List QRow)
  qid : Nat
  ct : Tbl CTok
  remF : List FElem
  colF : List FElem
  cbStat : Nat
  cbIdx : Nat
  cbEng : Bool := false
  fmtq : List Word
  /-- words that enter the format queue at the end of this cc (R269) -/
  fmtIn : List Word
  /-- format words popped: the command sequence number (R181) -/
  popped : Nat
  cir : Nat
  /-- the part of CIR set in this cc (R179, R192) -/
  cirNew : Nat
  prov : Tbl (List Word)
  cks : Tbl Cks
  preempt : Bool
  /-- debug-stopped (R385): the die's DCC at the stop, and whether the stop area holds its image and dump -/
  frozen : Bool
  stopCc : Nat
  dumped : Bool
  /-- a BKPT of the context stops it at the end of this cc (R130, R385) -/
  bkpt : Bool
  /-- the four clusters issue their SYNC words in this cc (R24) -/
  syncGo : Bool
  /-- a cluster of the context waits for this line of code (R92) -/
  fetch : Option Nat
  /-- a matrix command of the context has faulted: no later one executes (R274) -/
  mxBad : Bool
  deriving DecidableEq, Repr

/-- A matrix command (R270). -/
structure MxCmd where
  ctx : Nat
  i : Instr
  ta : Word
  tb : Word
  fmt : Word
  views : Tbl Word
  rmode : BitVec 2
  seed : Word
  stream : BitVec 32
  ctr : Word
  cseq : Nat
  /-- accesses in flight that happen before the command (R242) -/
  past : List Nat := []
  deriving DecidableEq, Repr

/-- What a running command has read of the scratchpad (R264 to R268): the bytes of A, its metadata and
scales, of B and its scales, whether a word was poisoned, and the codebook as it stood. -/
structure MxIn where
  a : Nat
  meta_ : Nat
  ascale : Nat
  b : Nat
  bscale : Nat
  pois : Bool
  cbt : Tbl (BitVec 24)
  deriving DecidableEq, Repr

def MxIn.none : MxIn := ⟨0, 0, 0, 0, 0, false, []⟩

/-- The matrix engine's running command, with its operand rows, and whether its register-space writes are made and
its release flag posted (R149, R272, R273). -/
structure MxRun where
  cmd : MxCmd
  input : MxIn
  released : Bool
  deriving DecidableEq, Repr

/-- A command of the copy, remote or collective queue (R287). -/
structure EnCmd where
  ctx : Nat
  clu : Clu
  i : Instr
  d : Word
  a : Word
  b : Word
  b1 : Word
  rmode : BitVec 2
  /-- task identity of the issuer (R218, R326, R185) -/
  task : Task
  /-- accesses in flight that happen before the command (R242) -/
  past : List Nat := []
  deriving DecidableEq, Repr

/-- A shape record in use (R293): where element offset 0 lies on each side, in bits, and its fields. -/
structure Shape where
  sbit : Int
  dbit : Int
  q : Nat
  sfmt : Nat
  dfmt : Nat
  rm : Nat
  sat : Bool
  sswz : Nat
  dswz : Nat
  sspace : Nat
  dspace : Nat
  /-- extent, source stride, destination stride -/
  dims : List (Nat × Int × Int)
  deriving DecidableEq, Repr

/-- A row of another device that a copy has asked for: not answered, its data and poison marks, or a status (R294). -/
inductive PeerRow where
  | asked
  | row (data pois : Nat)
  | failed (code : Nat)
  deriving DecidableEq, Repr

/-- A running copy command (R288, R298): elements still to be moved start at next; slot and rows are the landing slot
or the load-queue rows it fills; peer and out are the rows of other devices it has asked for and the packets not yet
answered (R294). -/
structure CpRun where
  cmd : EnCmd
  shape : Option Shape
  next : Nat
  slot : Option Nat
  rows : List Nat
  cbits : Nat
  stat : Nat
  fidx : Nat
  addr : Word
  cb : List Nat
  peer : Tbl PeerRow
  out : Nat
  /-- the first element of a group whose write to another device is not answered yet (R298) -/
  put : Option Nat := none
  /-- words of scratchpad rows gathered in part: row address, bits, data, poison marks (R206) -/
  part : List (Nat × Nat × Nat × Nat) := []
  /-- ENG of the open row that a RACE met (Table 8.3) -/
  eng : Bool := false
  deriving DecidableEq, Repr

/-- A remote command in progress (R304, R420): packets not yet sent, sequence numbers whose first
acknowledgement is awaited, the bytes read by each packet in the order sent, the answer, the status, and whether
poison was met. -/
structure RmRun where
  cmd : EnCmd
  dst : Nat
  cls : Nat
  todo : List PacketOp
  wait : List Nat
  got : List (Nat × List Byte)
  val : Word
  stat : Nat
  addr : Word
  pois : Bool
  /-- ENG of the open row that a RACE met (Table 8.3) -/
  eng : Bool := false
  /-- an RGET that has completed, and the packets whose bytes have still to come: number, local address, length (R420)
  -/
  ended : Bool := false
  rest : List (Nat × Nat × Nat) := []
  deriving DecidableEq, Repr

/-- A collective command that has been handed to the hub's engine (R288, R313): the instance it belongs to, the members
its contribution has still to be sent to, or what it ends with: value, status, address. -/
structure CoRun where
  cmd : EnCmd
  coll : Nat
  todo : List Nat
  fate : Option (Word × Nat × Word)
  deriving DecidableEq, Repr

/-- A landing slot (R150). -/
structure Land where
  ctx : Nat
  tok : Nat
  off : Word
  len : Nat
  data : Nat
  poison : Nat
  done : Bool
  stat : Nat
  age : Nat
  /-- accesses in flight that happen before the command (R242) -/
  past : List Nat := []
  deriving DecidableEq, Repr

/-- A TLB entry (R199): partition, page base, page size, system address, writable. -/
structure TlbE where
  part : Nat
  va : Nat
  size : Nat
  sa : Nat
  w : Bool
  deriving DecidableEq, Repr

/-- A retirement-tracker entry (R21, R120). -/
structure Tracker where
  ctx : Nat
  task : Task
  ct : Tbl CTok
  remF : List FElem
  colF : List FElem
  cbStat : Nat
  cbIdx : Nat
  cbEng : Bool := false
  cir : Nat
  /-- SIG0-3 of C and of V as their clusters ended (R185) -/
  sigs : List Nat
  /-- the pc of C, whose stop record a fault of the task goes to (R416) -/
  pc : W32 := 0
  /-- its sc count, and the command sequence number of the context (R372) -/
  loc : Nat := 0
  cseq : Nat := 0
  deriving DecidableEq, Repr

/-- Power state of a core (R388). -/
inductive Power where
  | on | gating (force : Bool) | off
  deriving DecidableEq, Repr

/-- A scratchpad row as it was before this cc's store: its number, data, poison marks, and the errors that a read of the
cc finds there: word, syndrome, whether uncorrectable (R207, R348). -/
structure OldRow where
  row : Nat
  data : Nat
  pois : Nat
  errs : List (Nat × BitVec 7 × Bool)
  deriving DecidableEq, Repr

/-- A core (Table 1.2). -/
structure Core where
  ctxs : Tbl Ctx
  frame : Mem
  spm : Mem
  /-- syndrome of each 32-bit SPM word by word number (R421) -/
  syn : Tbl (BitVec 7)
  /-- lock bit by bank x 8 + bit: holding core and context (R210) -/
  locks : Tbl (Nat × Nat)
  land : Tbl Land
  age : Nat
  cbt : Tbl (BitVec 24)
  slots : List Nat
  /-- a table that takes effect at the start of the next cc (R332) -/
  slotNext : Option (List Nat)
  fixed : Bool
  spos : Nat
  rr : Tbl Nat
  mxq : List MxCmd
  mxRun : Option MxRun
  cpq : List EnCmd
  cpRun : Tbl CpRun
  cpNext : Nat
  rmq : List EnCmd
  rmRun : List RmRun
  coq : List EnCmd
  coRun : List CoRun
  /-- rows this core's plain stores have open, oldest first (R253): SPM rows as 16384 x core + row,
  shared-array rows from 2^32 up -/
  open_ : List Nat
  tracker : List Tracker
  tlb : List TlbE
  /-- walks that found no mapping and are still to be reported: partition, virtual row (R200) -/
  walkBad : List (Nat × Nat)
  /-- lines of code by image address, as filled (R92) -/
  icache : Tbl (List Byte)
  hist : Tbl Nat
  histOvf : Tbl Bool
  /-- what this cc has added: a clear in the same cc leaves it (R359) -/
  histNew : Tbl Nat
  pcs : Tbl Nat
  pcsel : Tbl Word
  pcovf : Nat
  power : Power
  wake : Bool
  /-- sources stopped: matrix 4, copy 5, remote 6 (R369, R372) -/
  engStop : Tbl StopRec
  /-- engines that accept nothing: partition halted or debug-stopped -/
  engHalt : Bool
  /-- direct-path occurrences used: pseudo-channel x 2^64 + first cc (R217) -/
  used : List Nat
  /-- scratchpad rows that A has stored in this cc, as they were (R207) -/
  spmWas : List OldRow
  /-- scratchpad rows that engines have touched since the last cc ended: 2 x row, + 1 if written (R204, R207) -/
  spmSeen : List Nat
  deriving DecidableEq, Repr

/-- A trace record (Table 12.7). -/
structure TraceRec where
  w0 : Word
  w1 : Word
  w2 : Word
  w3 : Word
  deriving DecidableEq, Repr

/-- A fault-log entry (Table 12.4). -/
abbrev LogEntry := TraceRec

/-- A fault log (R351). -/
structure FLog where
  entries : List LogEntry
  seq : Nat
  lost : Nat
  tail : Nat
  deriving DecidableEq, Repr

def FLog.empty : FLog := ⟨[], 0, 0, 0⟩

/-- A compute die. -/
structure Die where
  bcnt : Tbl Nat
  /-- stalled arrivers of each barrier (R96) -/
  barr : Tbl (List Who)
  dcc : Nat
  discarded : Nat
  lostRec : Nat
  trace : List TraceRec
  ringBase : Nat
  ringSize : Nat
  ringW : Nat
  ringR : Nat
  tseq : Tbl Nat
  tlb : List TlbE
  /-- partitions whose halt line this die has seen (R368) -/
  halt : List Nat
  stop : StopRec
  power : Bool
  deriving DecidableEq, Repr

/-- One contained row (R316): system row, virtual row, bytes present, data, poison marks, and the accesses numbered
when it was translated (R335). -/
structure CRow where
  sa : Nat
  va : Nat
  mask : Nat
  data : Nat
  poison : Nat
  since : Nat := 0
  deriving DecidableEq, Repr

/-- Where a load's row goes and how it is converted (R226, R228): queue, reserved rows, code of
Table 3.10 (8 for none), rounding direction, SAT, generator, and the contained entry of the row
as it stood at issue (R316). -/
structure Fill where
  q : Nat
  ids : List Nat
  code : Nat
  rm : Rnd
  sat : Bool
  seed : Word
  stream : BitVec 32
  ctr : Word
  cont : Option CRow
  deriving DecidableEq, Repr

/-- A global, die-window or atomic access issued and not yet performed (R228, R208, R229). -/
inductive AccKind where
  /-- fills reserved rows of a load queue -/
  | load (f : Fill)
  /-- direct-path load whose slot occurrence starts at cc t of the die (R217) -/
  | direct (f : Fill) (t : Nat)
  /-- a load whose value is fixed: rows (id, data, poison) and CIR bits, visible at cc t of the die,
  or at a time not exposed when t is none -/
  | served (q : Nat) (rows : List (Nat × Nat × Nat)) (cir : Nat) (t : Option Nat)
  /-- row store: 64 bytes -/
  | store (data : Nat)
  /-- die-window store into another core's SPM: address, data, frees its lock bit -/
  | win (target addr data : Nat) (unlock : Bool)
  /-- atomic: operation (7 for CASG), wide, operand, new value, destination scalar -/
  | atom (op : Nat) (wide : Bool) (v new : Word) (sd : Nat)
  /-- an atomic that is performed, and whose old value has still to return to a debug-stopped context: the value,
  whether it was poisoned, destination scalar (R385) -/
  | answered (old : Word) (pois : Bool) (sd : Nat)
  /-- a copy command's read of a row, and its write of bytes of a row, of another device (R294); the write is Vigil's
  release with no run (R247) -/
  | peerRead (run : Nat)
  | peerPut (run : Option Nat) (mask data pois : Nat)
  deriving DecidableEq, Repr

/-- An access in flight: who made it, virtual and system address, the kind, whether it has passed
its die's outbound order point (R233), the task and the SIG field still to push. -/
structure Acc where
  who : Who
  va : Nat
  sa : Nat
  kind : AccKind
  passed : Bool
  task : Task
  sig : BitVec 2
  /-- whether its answer still goes to the context (cleared when the context is freed, R120) -/
  live : Bool
  /-- its packet has left the device -/
  sent : Bool
  /-- the sc of its cluster in which it issued (R23) -/
  iss : Nat := 0
  /-- the scope at which an atomic acquires, if it does (R229, R239) -/
  acq : Option Nat := none
  /-- histogram channel and bin of each element that a window store writes (R359) -/
  bins : List (Nat × Nat) := []
  deriving DecidableEq, Repr

/-- Whoever an access in flight can be ordered before (R237 to R240): each name stands for what has happened before
it. -/
inductive Party where
  /-- the words that a cluster issues next -/
  | clu (k : Who)
  /-- the j-th token, from the head, of a token queue of a context (R236) -/
  | tok (core ctx q j : Nat)
  /-- a row of a data queue of a context, by its identity (R236) -/
  | row (core ctx id : Nat)
  /-- a flag of a context, set, or a set that arrives at the end of the cc (R95, R236) -/
  | flag (core ctx f : Nat)
  | flagIn (core ctx f : Nat)
  /-- a POSTG message in flight (R122) -/
  | post (i : Nat)
  /-- those that meet in a barrier phase or a SYNC group (R236, R237) -/
  | meet
  /-- a lock bit of a core's scratchpad, by number (R210) -/
  | lock (core key : Nat)
  /-- a completion token of a context (R289) -/
  | ctok (core ctx t : Nat)
  /-- what follows the releasing fences of a cluster at CORE 0 or GROUP 1 (R239) -/
  | fence (core ctx scope : Nat)
  /-- whoever reads the value of access i, a store or atomic after a release of that scope (R239) -/
  | acc (i scope : Nat)
  /-- whoever reads one of some bytes of a row as they stand: the row, the bytes as a mask, the scope of the release and
  the core it was made on (R239) -/
  | cell (place mask scope core : Nat)
  /-- the acquiring fences to come of a cluster that has read such a row (R239) -/
  | read (core ctx scope from_ : Nat)
  /-- the release of a task that only the retirement tracker holds (R246) -/
  | task (part : Nat) (tid : Word) (inst : Nat)
  deriving DecidableEq, Repr

/-- How an instance stands (R329). -/
inductive IState where
  | running | retired | failed
  deriving DecidableEq, Repr

/-- An instance of a task in the dependence table (R316, R329, R355). -/
structure Inst where
  no : Nat
  core : Nat
  ctx : Nat
  st : IState
  wc : Nat
  rows : List CRow
  sum : Nat
  sigv : Nat
  /-- own blocks of its write tiles: tile base, block base (R316, R330) -/
  blocks : List (Nat × Nat)
  deriving DecidableEq, Repr

/-- States of Table 11.9. -/
inductive DState where
  | waiting | ready | running | deciding | leaving
  deriving DecidableEq, Repr

/-- A task record (Table 11.7). -/
structure TRec where
  words : List Word
  tid : Word
  launch : Nat
  snap : Snap
  pin : Option (Nat × Bool × Nat × Bool)
  deriving DecidableEq, Repr

/-- A dependence-table entry (R328). -/
structure Dep where
  rcd : TRec
  part : Nat
  tq : Nat
  order : Nat
  st : DState
  /-- identifiers of the writers still to retire -/
  conf : List Word
  /-- renames: tile base, size code, block base; none if no block (R330) -/
  ren : List (Nat × Nat × Option Nat)
  insts : List Inst
  /-- almanac markers this task has counted (R184) -/
  marks : List Nat
  nextInst : Nat
  deriving DecidableEq, Repr

/-- A translation overlay (R331). -/
structure Overlay where
  tile : Nat
  size : Nat
  block : Option Nat
  owner : Word
  order : Nat
  committed : Bool
  deriving DecidableEq, Repr

/-- Status of an almanac entry (R336 to R338): fired as the n-th of its launch; started, with the record of a shape
and the next element. -/
inductive AStat where
  | idle | fired (n : Nat) | started (h : Option Shape) (next : Nat) | done | failed
  deriving DecidableEq, Repr

/-- An almanac entry (Table 11.11). -/
structure AEnt where
  control : Word
  object : Word
  dest : Word
  st : AStat
  /-- a shape record's 256 bytes as read when the entry fired; none where a row has no mapping (R338) -/
  read : Option Nat := none
  deriving DecidableEq, Repr

/-- A launch in flight (R322 to R324, R326, R337). -/
structure Launch where
  part : Nat
  /-- launch queue and record offset of a host launch -/
  lq : Option (Nat × Nat)
  words : List Word
  snap : Snap
  total : Nat
  seq : Nat
  tqCount : Nat
  /-- tasks created and not yet retired -/
  alive : Nat
  alm : List AEnt
  arr : Tbl Nat
  fireNo : Nat
  hasAlm : Bool
  released : Bool
  unresolved : Bool
  /-- code of the images that its TASKQ records run: base, size (R31, R326) -/
  codes : List (Nat × Nat) := []
  deriving DecidableEq, Repr

/-- A task queue (R314, R413 to R415). -/
structure TaskQ where
  part : Option Nat
  fifo : List TRec
  base : Nat
  rs : Nat
  rh : Nat
  rt : Nat
  hold : Bool
  wl : Nat
  /-- a limit that the hub applies at the end of this cc (R356) -/
  wlNext : Option Nat
  /-- a HOLD that takes effect from the next cc (R413) -/
  holdNext : Option Bool
  /-- what each spilled slot's identity is: the hub keeps TASKID and snapshot beside the record -/
  ring : List TRec
  /-- a record has been enqueued since the last cc ended: what leaves in that cc has left before (R314) -/
  fed : Bool := false
  deriving DecidableEq, Repr

/-- A launch queue with its completion ring (R376, R377). -/
structure LaunchQ where
  base : Nat
  sz : Nat
  h : Nat
  t : Nat
  stopped : Bool
  cbase : Nat
  cs : Nat
  ct : Nat
  ch : Nat
  reserved : Nat
  deriving DecidableEq, Repr

/-- Run state of a partition (R374, R417). -/
inductive PRun where
  | running | halting | halted | resetting
  deriving DecidableEq, Repr

/-- A partition (R12). -/
structure Part where
  dies : List Nat
  root : Nat
  rootn : Nat
  ktab : Nat
  ranges : List (Nat × Nat)
  /-- free blocks of the rename pool: base, log2 of the bytes, and the range it belongs to, 16 for pages
  returned by a fold (R330, R331) -/
  free : List (Nat × Nat × Nat)
  overlays : List Overlay
  lqs : Tbl LaunchQ
  run : PRun
  cause : Nat
  cdie : Nat
  ccore : Nat
  cctx : Nat
  cunit : Nat
  /-- faults and HALTP raised in the current cc: code, die, core, ctx, unit -/
  raised : List (Nat × Nat × Nat × Nat × Nat)
  /-- the first of those of the first cc in which one was raised, on its way to the hub (R371, R417) -/
  first : Option (Nat × Nat × Nat × Nat × Nat) := none
  hubSaw : Bool
  debug : Bool
  /-- dies that have still to see a debug stop of the partition (R385) -/
  stopDies : List Nat
  stopBase : Nat
  kinds : Nat
  period : Nat
  counts : Tbl Nat
  last : Tbl Nat
  deriving DecidableEq, Repr

/-- A packet sent and not acknowledged (R304): its core, its route, and the access in flight it carries (none for a
remote command). -/
structure Sent where
  pk : Packet
  core : Nat
  route : Nat
  acc : Option Nat
  deriving DecidableEq, Repr

/-- A route (R305). -/
structure Route where
  dst : Nat
  port : Nat
  up : Bool
  deriving DecidableEq, Repr

/-- A destination's sequence window (R306). -/
structure Window where
  b : Nat
  held : List Packet
  /-- old value and status of packets performed, where they are not both 0 -/
  old : Tbl (Word × Nat)
  deriving DecidableEq, Repr

def Window.reset : Window := ⟨0, [], []⟩

/-- An Etteoc port (R400, R304). -/
structure Port where
  spareUsed : Bool
  flits : Nat
  deriving DecidableEq, Repr

def Port.reset : Port := ⟨false, 0⟩

/-- A collective instance of this device (R313): its number, the contributions so far, members that had no route when it
failed, and whether this device's own command of it has ended. -/
structure Coll where
  no : Nat
  group : Nat
  tag : Nat
  got : List Contribution
  gone : List Nat
  closed : Bool
  deriving DecidableEq, Repr

/-- What a dump entry has no field for (R209, R386): poison marks, CIR bits and the SIG push of its row; and, of bytes
of the register space or of a mask, the bits that the result writes and the entry as it was written. -/
structure Marks where
  pois : Nat := 0
  cir : Nat := 0
  sig : BitVec 2 := 0
  part : Option (Nat × Nat) := none
  deriving DecidableEq, Repr

/-- What a saved image's state block stands for (R382, log 13). -/
structure Saved where
  ctx : Ctx
  wc : Nat
  lands : List Land
  kidx : Nat
  /-- what each dump entry has no field for -/
  marks : List Marks
  deriving DecidableEq, Repr

/-- An error event of the current cc, counted and logged at its end (R348, R352): source, address,
fault-log kind if logged, the log, tag and detail. -/
structure ErrEvt where
  src : Nat
  addr : Nat
  kind : Option Nat
  log : Nat
  tag : Nat
  detail : Nat
  deriving DecidableEq, Repr

/-- What a management interrupt names (Table 14.5, R354, R408). -/
inductive Cause where
  | score (u : Nat)
  /-- a partition, with its halt cause (R371, R374) -/
  | halted (p cause : Nat)
  | stopped (p q : Nat)
  | island (i : Nat)
  | takeover
  | stage (n : Nat)
  | straps
  deriving DecidableEq, Repr

/-- The device. -/
structure State where
  /-- which position acts next: (die x 16 + core) x 4 + position, 1,024 for the agents between two cc (log 4) -/
  scan : Nat
  /-- dies whose clock skips this cc (R408) -/
  skip : List Nat
  /-- the cluster whose word is being executed -/
  cur : Who
  /-- partitions of which a task has entered the dependence table since the last cc ended (R328) -/
  entered : List Nat
  /-- launches of which the walker has made a task since the last cc ended (R322) -/
  walked : List Nat
  /-- packets that the cores offered as the last cc ended: core, destination, class, operation, group tag (R418) -/
  offered : List (Nat × Nat × Nat × PacketOp × Nat)
  /-- agent events to come, external ones among them (log 5) -/
  agenda : List Instr
  /-- how many free values have been taken (log 6) -/
  free : Nat
  cores : Tbl Core
  dies : Tbl Die
  parts : Tbl Part
  tqs : Tbl TaskQ
  /-- HBM, shared array, EXT and peer bytes by system address -/
  mem : Mem
  /-- syndromes of shared-array words by system address div 4 (R211, R421) -/
  shaSyn : Tbl (BitVec 7)
  /-- symbols in error of an HBM line, by line address: symbol, error pattern (R213) -/
  hbmErr : Tbl (List (Nat × BitVec 8))
  hbmPois : List Nat
  /-- lines to rewrite corrected in a maintenance slot (R213) -/
  rewrite : List Nat
  /-- open SPM and shared-array rows: owner CORE and ENG (R250) -/
  rows : Tbl (Nat × Bool)
  accs : Tbl Acc
  accNext : Nat
  /-- which accesses in flight happen before what (R238 to R240): number of the access, and who has acquired it -/
  known : List (Nat × Party)
  /-- POSTG messages in flight: target core, flag, launch, setter (R122) -/
  postg : Tbl (Nat × Nat × Nat × Nat)
  postgNext : Nat
  deps : List Dep
  depNext : Nat
  launches : Tbl Launch
  launchNext : Nat
  /-- dispatch counts by level, and from 4 on the queue last served at a level; the same from 16 (p + 1) on for
  the entries of partition p (R19, R328) -/
  dcount : Tbl Nat
  colls : List Coll
  collNext : Nat
  groups : Tbl (List Nat)
  /-- pinned objects of each launch (R338) -/
  pins : List (Nat × Word)
  swaps : Tbl Nat
  /-- activations of each HBM row in the present window: bank x 2^20 + row (R215, R365), and the width of those
  counters in bits (R347) -/
  acts : Tbl Nat
  actWidth : Nat
  rowInd : Tbl (List (Nat × Nat))
  swapThr : Tbl Nat
  erase : Tbl (BitVec 8)
  /-- erasure seeds of the configuration record, for Stage 2: stack, pseudo-channel, entry, value (R345, R403) -/
  seeds : List (Nat × Nat × Nat × BitVec 8)
  /-- spare map: kind x 2^40 + logical unit → physical (R346) -/
  spare : Tbl Nat
  retired : List (Nat × Nat)
  errCnt : Tbl Nat
  flogs : Tbl FLog
  errEvts : List ErrEvt
  score : Tbl Nat
  /-- what this cc has added to each score, and what firmware has written to it (R353, R354) -/
  scoreNew : Tbl Nat
  scoreSet : Tbl Nat
  dth : Nat
  cth : Nat
  pend : Tbl Bool
  maskV : Tbl Bool
  sent : List Nat
  /-- what the management interrupts so far have named, oldest first -/
  causes : List Cause
  form : BitVec 2
  strapErr : Bool
  bootMbx : Bool
  dbg : Bool
  /-- stages of Table 14.7 completed -/
  stage : Nat
  /-- answers to mailbox requests, oldest first: the slot, and whether it was carried out (R397, R399) -/
  mailbox : List (Nat × Bool)
  /-- a verified firmware image has come through the mailbox (R402) -/
  fwLoaded : Bool
  /-- copies A and B of the configuration record in flash, and whether Stage 1 took B (R403) -/
  flashA : ConfigRecord
  flashB : ConfigRecord
  flashUse : Bool
  trims : List Nat
  /-- power budget of each island in watts, the scrub rate (R407), and the cc that each die has skipped in a row
  (R408) -/
  budget : Tbl Nat
  scrubRate : Nat
  skipRun : Tbl Nat
  /-- register writes of the management window that ended with an error status (R357) -/
  regErr : Nat
  /-- RDMA queue pairs: Ethernet port, number (R401) -/
  qpairs : List (Nat × Nat)
  devId : Nat
  /-- base and size of the host's CXL window (R196) -/
  extBase : Nat
  extSize : Nat
  fabric : Bool
  nseq : Tbl Nat
  unacked : List Sent
  routes : Tbl Route
  routeUs : Nat
  windows : Tbl Window
  ports : Tbl Port
  /-- acknowledgements sent to other devices, each with the source it goes to as its dst (R304) -/
  acksOut : List Ack
  hubActive : Nat
  /-- RDMA completions with error (R401) -/
  rdmaErr : Nat
  /-- contents of the state blocks written so far, by the handle the block holds (R382, log 13) -/
  blocks : Tbl Saved
  deriving DecidableEq, Repr

/-- A cluster at the values of Table 4.1, Table 5.1, Table 6.1 and Table 7.7, before the task's own
values are written; also what an unoccupied context's cluster holds (log 2). -/
def Cluster.start : Cluster :=
  { s := [], p := [], lc := [], ls := [], le := [], ldepth := 0, stg := 0, loopp := none,
    stopping := false, pc := 0, out := false, rmode := 3, seed := 0, stream := 0, ctr := 0, a := [], mode := [],
    base := [], inc := [], mb := [], k := [], sig := [], inv := [], sc := 0, gap := 0, lgap := 0, away := false,
    dl := [], sigs := [], held := [], run := .ended, wait := none, waited := 0, answer := none,
    asked := false, blocked := false, barGo := false, barNext := false, hadFlag := false, brpc := 0, atBack := false, drained := none,
    draining := false,
    stop := StopRec.zero }

/-- A context that no task occupies (log 2). -/
def Ctx.reset : Ctx :=
  { task := none, fo := 0, clus := [], views := [], flags := [], scope := [], setter := [],
    fsets := [], fclears := [], tok := [], lq := [], sq := [], qid := 0, ct := [], remF := [],
    colF := [], cbStat := 0, cbIdx := 0, fmtq := [], fmtIn := [], popped := 0, cir := 0, cirNew := 0, prov := [],
    cks := [], preempt := false, frozen := false, stopCc := 0, dumped := false, bkpt := false, syncGo := false, fetch := none,
    mxBad := false }

/-- A core at reset: slot table AUTO with no context, everything empty (Table 11.1, Table 12.1). -/
def Core.reset : Core :=
  { ctxs := [], frame := [], spm := [], syn := [], locks := [], land := [], age := 0, cbt := [],
    slots := [], slotNext := none, fixed := false, spos := 0, rr := [], mxq := [], mxRun := none, cpq := [], cpRun := [],
    cpNext := 0, rmq := [], rmRun := [], coq := [], coRun := [], open_ := [], tracker := [], tlb := [], walkBad := [],
    icache := [], hist := [], histOvf := [], histNew := [], pcs := [], pcsel := [], pcovf := 0, power := .on,
    wake := false, engStop := [], engHalt := false, used := [], spmWas := [], spmSeen := [] }

/-- A die at reset: BCNT reads 16 (R96), the rest empty or 0 (Table 12.1). -/
def Die.reset : Die :=
  { bcnt := [], barr := [], dcc := 0, discarded := 0, lostRec := 0, trace := [], ringBase := 0,
    ringSize := 0, ringW := 0, ringR := 0, tseq := [], tlb := [], halt := [], stop := StopRec.zero,
    power := true }

/-- An unlisted task queue: no owner, RS 4,096 (log 9), WL 0x10_0000 (R355), HOLD 0 (R413). -/
def TaskQ.reset : TaskQ :=
  { part := none, fifo := [], base := 0, rs := 4096, rh := 0, rt := 0, hold := false, wl := 0x100000, wlNext := none, holdNext := none,
    ring := [] }

/-- A launch queue before firmware sets it: SZ 0, so no record is ever present. -/
def LaunchQ.reset : LaunchQ := ⟨0, 0, 0, 0, false, 0, 256, 0, 0, 0⟩

/-- A partition not defined: no dies. -/
def Part.reset : Part :=
  { dies := [], root := 0, rootn := 0, ktab := 0, ranges := [], free := [], overlays := [],
    lqs := [], run := .running, cause := 0, cdie := 0, ccore := 0, cctx := 0, cunit := 0, raised := [],
    hubSaw := false, debug := false, stopDies := [], stopBase := 0, kinds := 0, period := 1, counts := [], last := [] }

/-- The device right after power-on reset, before Stage 0 (R402, R404): every field at the reset
value the spec gives, and the values of log 1, 2, 9 and 12 where it gives none. -/
def State.reset : State :=
  { scan := 0, skip := [], cur := ⟨0, 0, .c⟩, entered := [], walked := [], offered := [], agenda := [], free := 0, cores := [], dies := [],
    parts := [], tqs := [], mem := [], shaSyn := [], hbmErr := [], hbmPois := [], rewrite := [],
    rows := [], accs := [], accNext := 0, known := [], postg := [], postgNext := 0, deps := [], depNext := 0,
    launches := [], launchNext := 0, dcount := [], colls := [], collNext := 0, groups := [], pins := [],
    swaps := [], acts := [], actWidth := 32, rowInd := [], swapThr := [], erase := [], seeds := [], spare := [], retired := [], errCnt := [],
    flogs := [], errEvts := [], score := [], scoreNew := [], scoreSet := [], dth := 0xFFFF, cth := 0xFFFF, pend := [], maskV := [], sent := [], causes := [],
    form := 0, strapErr := false, bootMbx := false, dbg := false, stage := 0, mailbox := [],
    fwLoaded := false, flashA := ⟨true, 0, [], [], [], []⟩, flashB := ⟨false, 0, [], [], [], []⟩, flashUse := false, trims := [],
    budget := [], scrubRate := 0, skipRun := [], regErr := 0, qpairs := [], devId := 0, extBase := 0, extSize := 0, fabric := false, nseq := [], unacked := [], routes := [], routeUs := 50,
    windows := [], ports := [], acksOut := [], hubActive := 0, rdmaErr := 0, blocks := [] }

end Sys2Proof.Machine
end

