-- ==== Sys2Proof/Machine/Access.lean ====
section
/-! DEFINITION. Reading and changing one part of the state: core, context, cluster, die, partition,
launch, task; and the registers of a cluster. Every other file goes through these. -/

namespace Sys2Proof

/-- Number of a cluster: C 0, A 1, V 2, M 3 (R88). -/
def Clu.num : Clu → Nat | .c => 0 | .a => 1 | .v => 2 | .m => 3

/-- The cluster of a number modulo 4. -/
def Clu.at (n : Nat) : Clu :=
  if n % 4 = 0 then .c else if n % 4 = 1 then .a else if n % 4 = 2 then .v else .m

/-- Left and right neighbours on the ring (Table 1.3). -/
def Clu.left (k : Clu) : Clu := Clu.at (k.num + 3)
def Clu.right (k : Clu) : Clu := Clu.at (k.num + 1)

/-- The clusters of a context. -/
def Who.clusters (k : Who) : List Who := [Clu.c, .a, .v, .m].map fun u => { k with clu := u }

end Sys2Proof

namespace Sys2Proof.Machine

/-- Cluster k of a context. -/
def Ctx.clu (x : Ctx) (k : Clu) : Cluster := tblGet Cluster.start x.clus k.num
def Ctx.modClu (x : Ctx) (k : Clu) (f : Cluster → Cluster) : Ctx :=
  { x with clus := tblPut x.clus k.num (f (x.clu k)) }

/-- Context n of a core. -/
def Core.ctx (c : Core) (n : Nat) : Ctx := tblGet Ctx.reset c.ctxs n
def Core.modCtx (c : Core) (n : Nat) (f : Ctx → Ctx) : Core :=
  { c with ctxs := tblPut c.ctxs n (f (c.ctx n)) }


/-- Core number die x 16 + core. -/
def State.core (s : State) (n : Nat) : Core := tblGet Core.reset s.cores n
def State.modCore (s : State) (n : Nat) (f : Core → Core) : State :=
  { s with cores := tblPut s.cores n (f (s.core n)) }

def State.ctxOf (s : State) (k : Who) : Ctx := (s.core k.core).ctx k.ctx
def State.modCtx (s : State) (k : Who) (f : Ctx → Ctx) : State :=
  s.modCore k.core fun c => c.modCtx k.ctx f

def State.clu (s : State) (k : Who) : Cluster := (s.ctxOf k).clu k.clu
def State.modClu (s : State) (k : Who) (f : Cluster → Cluster) : State :=
  s.modCtx k fun x => x.modClu k.clu f

/-- The cluster whose word is being executed, its context and its core. -/
def State.me (s : State) : Cluster := s.clu s.cur
def State.myCtx (s : State) : Ctx := s.ctxOf s.cur
def State.myCore (s : State) : Core := s.core s.cur.core
def State.modMe (s : State) (f : Cluster → Cluster) : State := s.modClu s.cur f
def State.modMyCtx (s : State) (f : Ctx → Ctx) : State := s.modCtx s.cur f
def State.modMyCore (s : State) (f : Core → Core) : State := s.modCore s.cur.core f

def State.die (s : State) (d : Nat) : Die := tblGet Die.reset s.dies d
def State.modDie (s : State) (d : Nat) (f : Die → Die) : State :=
  { s with dies := tblPut s.dies d (f (s.die d)) }

/-- Partition p (R12). -/
def State.part (s : State) (p : Nat) : Part := tblGet Part.reset s.parts p
def State.modPart (s : State) (p : Nat) (f : Part → Part) : State :=
  { s with parts := tblPut s.parts p (f (s.part p)) }

/-- Task queue q (R314). -/
def State.tq (s : State) (q : Nat) : TaskQ := tblGet TaskQ.reset s.tqs q
def State.modTq (s : State) (q : Nat) (f : TaskQ → TaskQ) : State :=
  { s with tqs := tblPut s.tqs q (f (s.tq q)) }

/-- Launch l in flight. -/
def State.launch? (s : State) (l : Nat) : Option Launch := tblFind s.launches l
def State.modLaunch (s : State) (l : Nat) (f : Launch → Launch) : State :=
  match s.launch? l with
  | none => s
  | some x => { s with launches := tblPut s.launches l (f x) }

/-- The dependence-table entry of a task (R328). -/
def State.dep? (s : State) (p : Nat) (tid : Word) : Option Dep :=
  s.deps.find? fun e => e.part = p && e.rcd.tid = tid
def State.modDep (s : State) (p : Nat) (tid : Word) (f : Dep → Dep) : State :=
  { s with deps := s.deps.map fun e => if e.part = p && e.rcd.tid = tid then f e else e }

/-- The instance record of a task instance. -/
def State.inst? (s : State) (t : Task) : Option Inst :=
  match s.dep? t.part t.tid with
  | none => none
  | some e => e.insts.find? fun x => x.no = t.inst
def State.modInst (s : State) (t : Task) (f : Inst → Inst) : State :=
  s.modDep t.part t.tid fun e =>
    { e with insts := e.insts.map fun x => if x.no = t.inst then f x else x }

/-- Whether two are the same task instance. -/
def Task.same (a b : Task) : Bool := a.part = b.part && a.tid = b.tid && a.inst = b.inst

/-- Whether a context runs a task instance. -/
def Ctx.runs (x : Ctx) (t : Task) : Bool := match x.task with | some u => u.same t | none => false

/-- The task of the current context; an unoccupied context has an all-zero one. -/
def State.taskOf (s : State) (k : Who) : Task :=
  ((s.ctxOf k).task).getD ⟨0, 0, 0, 0, 0, 0, 0, Snap.none⟩
def State.myTask (s : State) : Task := s.taskOf s.cur


/-- Scalar r: s0 reads 0 (Table 4.1). -/
def Cluster.sreg (c : Cluster) (r : Nat) : Word := if r = 0 then 0 else tblGet 0 c.s r

/-- Predicate p: p0 reads 1 (Table 4.1). -/
def Cluster.preg (c : Cluster) (p : Nat) : Bool := if p = 0 then true else tblGet false c.p p

/-- Address state of A (Table 7.7). -/
def Cluster.areg (c : Cluster) (n : Nat) : Word := tblGet 0 c.a n
def Cluster.incr (c : Cluster) (n : Nat) : Word := tblGet 64 c.inc n
def Cluster.modeOf (c : Cluster) (n : Nat) : Word := tblGet 0 c.mode n
def Cluster.baseOf (c : Cluster) (n : Nat) : Word := tblGet 0 c.base n

/-- A field x of an AC word: 0 to 15 name a0 to a15, 16 to 31 name s0 to s15 (R65). -/
def Cluster.xreg (c : Cluster) (n : Nat) : Word := if n < 16 then c.areg n else c.sreg (n - 16)

/-- Scalar, predicate and mask writes: s0 and p0 discard them (Table 4.1). -/
def Cluster.setS (c : Cluster) (r : Nat) (v : Word) : Cluster :=
  if r = 0 then c else { c with s := tblPut c.s r v }
def Cluster.setP (c : Cluster) (p : Nat) (v : Bool) : Cluster :=
  if p = 0 then c else { c with p := tblPut c.p p v }
def Cluster.mask (c : Cluster) (k : Nat) : Nat := tblGet 0 c.k k
def Cluster.mbuf (c : Cluster) (n : Nat) : Nat := tblGet 0 c.mb n
def Cluster.invOf (c : Cluster) (n : Nat) : Inv := tblGet Inv.empty c.inv n
/-- Adds what another accumulator has summed (R176). -/
def Inv.merge (a b : Inv) : Inv :=
  ⟨a.isF || b.isF, a.v.add b.v, a.t.add b.t, a.nan || b.nan, a.pinf || b.pinf, a.ninf || b.ninf, a.n + b.n⟩
def Cluster.lcOf (c : Cluster) (n : Nat) : Word := tblGet 0 c.lc n
def Cluster.lsOf (c : Cluster) (n : Nat) : W32 := tblGet 0 c.ls n
def Cluster.leOf (c : Cluster) (n : Nat) : W32 := tblGet 0 c.le n

/-- Views by number: VW0, VW1, TVW, AVW. -/
def Ctx.view (x : Ctx) (n : Nat) : Word := tblGet 0 x.views n
def Ctx.tokens (x : Ctx) (q : Nat) : Nat := tblGet 0 x.tok q
/-- Sets bits of CIR (R179). -/
def Ctx.setCir (x : Ctx) (b : Nat) : Ctx :=
  if b = 0 then x else { x with cir := x.cir ||| b, cirNew := x.cirNew ||| b }
/-- A field of four bits from bit 4 goes up by one, saturating (Table 6.2). -/
def plostUp (c : Nat) : Nat := setBits c 4 4 (Nat.min (bitsN c 4 4 + 1) 15)
def Ctx.lostProv (x : Ctx) : Ctx := { x with cir := plostUp x.cir, cirNew := plostUp x.cirNew }
def Ctx.flag (x : Ctx) (f : Nat) : Bool := tblGet false x.flags f
def Ctx.lrows (x : Ctx) (q : Nat) : List QRow := tblGet [] x.lq q
def Ctx.srows (x : Ctx) (q : Nat) : List QRow := tblGet [] x.sq q
def Ctx.ctok (x : Ctx) (t : Nat) : CTok := tblGet CTok.zero x.ct t
def Ctx.provOf (x : Ctx) (n : Nat) : List Word := tblGet [0, 0, 0, 0] x.prov n
def Ctx.cksOf (x : Ctx) (n : Nat) : Cks := tblGet Cks.start x.cks n
def Die.barCount (d : Die) (b : Nat) : Nat := tblGet 16 d.bcnt b
def Die.arrivers (d : Die) (b : Nat) : List Who := tblGet [] d.barr b

/-- Logical die and core of a core number. -/
def dieOf (core : Nat) : Nat := core / 16


/-- Physical die of a logical one (R346, R403): the spare map's binding, else the identity. Kinds in
the map: 0 die, 1 core, 2 pseudo-channel, 3 shared-array row, 4 lane. -/
def State.physDie (s : State) (d : Nat) : Nat := tblGet (Config.identityDie s.form d) s.spare d

/-- Physical core, 0 to 16, of a logical core on its physical die. -/
def State.physCore (s : State) (n : Nat) : Nat := tblGet (n % 16) s.spare (2 ^ 40 + n)

/-- Whether a die reaches its home stack through the crossbar (R9, Table 11.13). -/
def State.adopted (s : State) (d : Nat) : Bool :=
  let ph := s.physDie d
  !(ph % 5 < 4 && 4 * (ph / 5) + ph % 5 = Config.homeStack s.form d)

/-- The die's own latency of a class (Table 3.19, R217). -/
def State.ownLatency (s : State) (d cls : Nat) : Nat :=
  if cls = 12 && s.adopted d then Config.adoptedLatency else Config.latency cls

/-- The latency the image states for a class (R26). -/
def State.lat (s : State) (cls : Nat) : Nat :=
  match s.myTask.snap.lats[cls]? with
  | some n => n
  | none => Config.latency cls

/-- The active cores of the device. -/
def State.coreCount (s : State) : Nat := 16 * Config.dies s.form

/-- Adds events of a kind to the core's performance counters that select it (R357, R358). cw:
core-wide, with no context or cluster field. -/
def State.perf (s : State) (n ev ctx : Nat) (clu : Option Clu) (by_ : Nat) : State :=
  if (s.core n).pcsel.isEmpty then s
  else s.modCore n fun c =>
    c.pcsel.foldl (fun c (i, sel) =>
      let v := sel.toNat
      let on := bitN v 16 && v % 256 = ev && (ev = 0 || ev = 12 || ev = 18 || bitN v (8 + ctx)) &&
        (match clu with | none => true | some k => bitN v (12 + k.num))
      if on then
        let x := tblGet 0 c.pcs i + by_
        let c := { c with pcs := tblPut c.pcs i (x % 2 ^ 48) }
        if 2 ^ 48 ≤ x then { c with pcovf := setBits c.pcovf i 1 1 } else c
      else c) c

/-- A cluster event of the current cluster. -/
def State.perfMe (s : State) (ev : Nat) : State := s.perf s.cur.core ev s.cur.ctx (some s.cur.clu) 1

/-- A context event of the current context. -/
def State.perfCtx (s : State) (ev : Nat) : State := s.perf s.cur.core ev s.cur.ctx none 1

/-- Makes a trace record (R360 to R362): source is unit + 8 x (core of die) + 128 x ctx, or 7 for
Vigil. The sequence number goes up whether the record is kept or not. -/
def State.traceRec (s : State) (k : Who) (unit : Nat) (kind : Nat) (loc : Nat) (task data : Word) : State :=
  let d := dieOf k.core
  let src := unit + 8 * (k.core % 16) + 128 * k.ctx
  let die := s.die d
  let n := tblGet 0 die.tseq src
  let w0 := n % 2 ^ 32 + kind * 2 ^ 32 + d % 16 * 2 ^ 40 + k.core % 16 * 2 ^ 44 + k.ctx % 4 * 2 ^ 48 + unit * 2 ^ 50
  s.modDie d fun die =>
    let die := { die with tseq := tblPut die.tseq src ((n + 1) % 2 ^ 32) }
    if die.trace.length < 8192 then
      { die with trace := die.trace ++ [⟨BitVec.ofNat 64 w0, BitVec.ofNat 64 loc, task, data⟩] }
    else { die with lostRec := (die.lostRec + 1) % 2 ^ 64 }

/-- Whether firmware enabled a kind of trace record for a partition; waits and faults always are
made (R361). -/
def State.traceOn (s : State) (p kind : Nat) : Bool := kind = 4 || kind = 6 || bitN (s.part p).kinds kind

/-- A record of a cluster. -/
def State.traceClu (s : State) (k : Who) (kind : Nat) (data : Word) : State :=
  let t := s.taskOf k
  if s.traceOn t.part kind then s.traceRec k k.clu.num kind (s.clu k).sc t.tid data else s

/-- A condition of an interrupt vector occurs (R399): sent, or pending while masked. -/
def State.interrupt (s : State) (v : Nat) : State :=
  if tblGet false s.maskV v then { s with pend := tblPut s.pend v true } else { s with sent := s.sent ++ [v] }

/-- The management interrupt, with what it names (Table 14.5). -/
def State.manageInt (s : State) (c : Cause) : State := { s with causes := s.causes ++ [c] }.interrupt 0

/-- Whether a die's clock stands in this cc: it is skipped, or the die has no power (R408). -/
def State.still (s : State) (d : Nat) : Bool := s.skip.contains d || !(s.die d).power

/-- An error event, counted and logged at the end of the cc (R348, R352). -/
def State.errEvent (s : State) (e : ErrEvt) : State := { s with errEvts := s.errEvts ++ [e] }

/-- Whether an access in flight writes memory. -/
def Acc.stores (a : Acc) : Bool :=
  match a.kind with
  | .peerPut .. => true | .store _ => true | .win .. => true | .atom .. => true
  | _ => false

/-- Whether an access in flight still reads. -/
def Acc.reads (a : Acc) : Bool :=
  match a.kind with
  | .peerRead .. => true | .load .. => true | .direct .. => true | .atom .. => true
  | _ => false

/-- Whether an access in flight has still to return a value, if only one that is fixed already. -/
def Acc.loads (a : Acc) : Bool :=
  a.reads || match a.kind with | .served .. => true | .answered .. => true | _ => false

/-- Whether an access in flight is a word's of cluster k, not an engine's (R235). -/
def Acc.ownOf (a : Acc) (k : Who) (t : Task) : Bool :=
  a.who = k && a.task.same t && match a.kind with | .peerPut .. => false | .peerRead .. => false | _ => true

/-- The accesses in flight that happen before what p does next (R240): those it has acquired, and a cluster's own. -/
def State.past (s : State) (p : Party) : List Nat :=
  (s.accs.filter fun e => (e.2.stores || e.2.reads) && (s.known.contains (e.1, p) ||
    match p with | .clu k => e.2.ownOf k (s.taskOf k) | _ => false)).map Prod.fst

/-- The stores and atomics among them. -/
def State.pastStores (s : State) (p : Party) : List Nat :=
  (s.past p).filter fun i => match tblFind s.accs i with | some a => a.stores | none => false

/-- Accesses, as far as they are in flight, happen before what p does next. -/
def State.teach (s : State) (l : List Nat) (p : Party) : State :=
  let new := l.filter fun i => (tblFind s.accs i).isSome && !s.known.contains (i, p)
  if new.isEmpty then s else { s with known := s.known ++ new.map fun i => (i, p) }

/-- p synchronises with q (R239): what happens before p's next action happens before q's. -/
def State.hand (s : State) (p q : Party) : State := s.teach (s.past p) q

/-- Some accesses in flight end with no effect. -/
def State.keepAccs (s : State) (keep : Nat × Acc → Bool) : State :=
  let l := s.accs.filter keep
  if l.length = s.accs.length then s else { s with accs := l, known := s.known.filter fun e => (tblFind l e.1).isSome }

/-- What a party stands for is over. -/
def State.forget (s : State) (f : Party → Bool) : State :=
  if s.known.any fun e => f e.2 then { s with known := s.known.filter fun e => !f e.2 } else s

/-- The clusters of a list meet (R236, R239): what each of them has done happens before what all of them do next. -/
def State.meetAll (s : State) (l : List Who) : State :=
  let s := l.foldl (fun s k => s.hand (.clu k) .meet) s
  (l.foldl (fun s k => s.hand .meet (.clu k)) s).forget (· = .meet)

/-- Fields of a task record (Table 11.7). -/
def TRec.word (r : TRec) (i : Nat) : Nat := (r.words.getD i 0).toNat
def TRec.kidx (r : TRec) : Nat := bitsN (r.word 0) 0 12
def TRec.cls (r : TRec) : Nat := bitsN (r.word 0) 12 2
def TRec.pri (r : TRec) : Nat := bitsN (r.word 0) 14 2
/-- Read and write tiles: base and size code. -/
def TRec.tile (r : TRec) (i : Nat) : Nat × Nat := (bitsN (r.word i) 0 41 * 65536, bitsN (r.word i) 41 5)
def TRec.reads (r : TRec) : List (Nat × Nat) := (List.range (bitsN (r.word 0) 16 2)).map fun i => r.tile (1 + i)
def TRec.writes (r : TRec) : List (Nat × Nat) := (List.range (bitsN (r.word 0) 18 2)).map fun i => r.tile (4 + i)
/-- The task of an instance of a dependence-table entry. -/
def Dep.task (e : Dep) (i : Inst) : Task :=
  ⟨e.rcd.tid, i.no, e.part, e.rcd.launch, e.rcd.cls, e.rcd.kidx, e.tq, e.rcd.snap⟩

end Sys2Proof.Machine
end

