-- ==== Sys2Proof/Machine/Code.lean ====
section
/-! DEFINITION. The fault codes (Table 13.1), and how a cluster finds its next word: lines of code in the instruction
cache (R92, log 12) and prefix groups as the device reads them (R70, R71). -/

namespace Sys2Proof.Machine

/-- Names of the fault codes (Table 13.1). -/
def fIllegalWord : Nat := 0x01
def fIllegalUnit : Nat := 0x02
def fPrivilege : Nat := 0x03
def fBankRule : Nat := 0x04
def fFormatUnderflow : Nat := 0x05
def fViewRange : Nat := 0x06
def fLanding : Nat := 0x07
def fTranslation : Nat := 0x08
def fProtection : Nat := 0x09
def fRace : Nat := 0x0A
def fScheduleMiss : Nat := 0x0B
def fCheckFail : Nat := 0x0C
def fPoison : Nat := 0x0D
def fShapeRecord : Nat := 0x0E
def fContainFull : Nat := 0x0F
def fWatchdog : Nat := 0x10
def fRemoteFail : Nat := 0x11
def fLaunchFormat : Nat := 0x12
def fConfigMismatch : Nat := 0x13
def fUnresolved : Nat := 0x14
def fBreakpoint : Nat := 0x15
def fSoftwareTrap : Nat := 0x16
def fHalted : Nat := 0x17

/-- Key of a line of code: launch and virtual line. -/
def lineKey (t : Task) (va : Nat) : Nat := t.launch * 2 ^ 64 + va / 64

/-- One word at an image offset: outside the code section, in a line not cached, or the word. -/
inductive CodeWord where
  | outside
  | miss (va : Nat)
  | word (w : W32)
  deriving DecidableEq, Repr

def State.codeWord (s : State) (k : Who) (pc : Nat) : CodeWord :=
  let t := s.taskOf k
  if pc % 4 ≠ 0 || pc < t.snap.codeOff || t.snap.codeOff + t.snap.codeSize < pc + 4 then .outside
  else
    let va := t.snap.img + pc
    match tblFind (s.core k.core).icache (lineKey t va) with
    | none => .miss va
    | some l => .word (BitVec.ofNat 32 (natOfBytes ((l.drop (va % 64)).take 4)))

/-- What a cluster finds as its next group: its line is missing, it is no instruction (the fault, the
words of the group, the header of its last word), or an instruction. -/
inductive Fetched where
  | miss (va : Nat)
  | bad (code len : Nat) (h : Hdr)
  | ok (i : Instr)
  deriving DecidableEq, Repr

/-- Whether a cluster accepts a unit field (Table 3.3). -/
def unitFieldOk (k : Clu) (u : Nat) : Bool :=
  u = 0 || u = 4 || u = 7 || (u = 1 && k = .a) || (u = 2 && k = .v) || (u = 3 && k = .m) ||
  (u = 5 && (k = .c || k = .v)) || (u = 6 && k = .c)

/-- Whether a word has FMTPUSH's unit and opcode, which only C may issue (R66). -/
def isFmtpush (w : W32) : Bool := w.fld 29 3 = 4 && w.fld 15 7 = 0

/-- A whole group: row 2 of Table 3.7 goes before the rows the decoder finds. -/
def readGroup (k : Clu) (ws : List W32) (last : W32) : Fetched :=
  match decodeGroup ws with
  | .ok (i, _) => .ok i
  | .error _ =>
    .bad (if unitFieldOk k (last.fld 29 3).toNat && !(isFmtpush last && k ≠ .c) then fIllegalWord else fIllegalUnit)
      ws.length (decodeHdr last)

def noHdr : Hdr := ⟨0, 0, 0, 0⟩

/-- The group at the cluster's pc (R70): up to two prefix words, each of its own kind, and a word. DESIGN CHOICE
(log 54): the word behind a prefix is read also where the prefix ends a loop body, so that row 1 or 2 of Table 3.7 can
come before row 6. -/
def State.nextGroup (s : State) (k : Who) : Fetched :=
  let pc := (s.clu k).pc.toNat
  match (if (s.clu k).out then .outside else s.codeWord k pc) with
  | .outside => .bad fIllegalWord 1 noHdr
  | .miss va => .miss va
  | .word w0 =>
    if !(w0.isImm || w0.isMod) then readGroup k.clu [w0] w0
    else match s.codeWord k (pc + 4) with
      | .outside => .bad fIllegalWord 1 noHdr
      | .miss va => .miss va
      | .word w1 =>
        if (w1.isImm && w0.isImm) || (w1.isMod && w0.isMod) then .bad fIllegalWord 2 noHdr
        else if !(w1.isImm || w1.isMod) then readGroup k.clu [w0, w1] w1
        else match s.codeWord k (pc + 8) with
          | .outside => .bad fIllegalWord 2 noHdr
          | .miss va => .miss va
          | .word w2 =>
            if w2.isImm || w2.isMod then .bad fIllegalWord 3 noHdr
            else readGroup k.clu [w0, w1, w2] w2

end Sys2Proof.Machine
end

