-- ==== Sys2Proof/Machine/Reserved.lean ====
section
/-! DEFINITION. Facts that each instruction word carries statically: its header, its unit
(Table 3.1), its latency class (Table 3.19), and whether the values in its used fields are permitted
ones (Table 3.7 rows 4 and 7, Tables 3.6, 3.8 to 3.15 and 5.6). -/

namespace Sys2Proof

/-- The unit field of a word (Table 3.1). -/
inductive UnitId where | sc | ac | ve | mx | en | ck | sy
  deriving DecidableEq, Repr

/-- The header of a word; none for a step without an encoding. -/
def Instr.hdr? : Instr → Option Hdr
  | .nop h => some h
  | .add h _ _ _ => some h
  | .sub h _ _ _ => some h
  | .mul h _ _ _ => some h
  | .mulhs h _ _ _ => some h
  | .mulhn h _ _ _ => some h
  | .divs h _ _ _ => some h
  | .divn h _ _ _ => some h
  | .rems h _ _ _ => some h
  | .remn h _ _ _ => some h
  | .and h _ _ _ => some h
  | .or h _ _ _ => some h
  | .xor h _ _ _ => some h
  | .andn h _ _ _ => some h
  | .shl h _ _ _ => some h
  | .shr h _ _ _ => some h
  | .sha h _ _ _ => some h
  | .rol h _ _ _ => some h
  | .min h _ _ _ => some h
  | .max h _ _ _ => some h
  | .minn h _ _ _ => some h
  | .maxn h _ _ _ => some h
  | .clz h _ _ => some h
  | .popc h _ _ => some h
  | .bfx h _ _ _ => some h
  | .bfi h _ _ _ => some h
  | .addi h _ _ _ _ => some h
  | .shli h _ _ _ _ => some h
  | .shri h _ _ _ _ => some h
  | .shai h _ _ _ _ => some h
  | .andi h _ _ _ _ => some h
  | .li h _ _ _ => some h
  | .lih h _ _ => some h
  | .mov h _ _ => some h
  | .cmov h _ _ _ => some h
  | .cmpeq h _ _ _ => some h
  | .cmpne h _ _ _ => some h
  | .cmplt h _ _ _ => some h
  | .cmple h _ _ _ => some h
  | .cmpltn h _ _ _ => some h
  | .cmplen h _ _ _ => some h
  | .pand h _ _ _ => some h
  | .por h _ _ _ => some h
  | .pxor h _ _ _ => some h
  | .br h _ _ _ _ => some h
  | .jmp h _ _ => some h
  | .jmpr h _ => some h
  | .call h _ _ => some h
  | .ret h => some h
  | .loop h _ _ => some h
  | .loopi h _ _ _ => some h
  | .loopp h _ _ _ => some h
  | .brkl h _ _ => some h
  | .endStream h => some h
  | .tail h => some h
  | .post h _ => some h
  | .await h _ => some h
  | .postg h _ _ => some h
  | .bar h _ => some h
  | .fence h _ _ => some h
  | .rds h _ _ => some h
  | .wrs h _ _ => some h
  | .setrm h _ => some h
  | .seed h _ _ => some h
  | .view h _ _ _ => some h
  | .mark h _ => some h
  | .markq h _ _ => some h
  | .trap h _ => some h
  | .bkpt h => some h
  | .aadd h _ _ _ => some h
  | .aaddi h _ _ _ _ => some h
  | .asub h _ _ _ => some h
  | .amov h _ _ => some h
  | .ali h _ _ _ => some h
  | .amode h _ _ => some h
  | .abase h _ _ => some h
  | .ainc h _ _ => some h
  | .ldq h _ _ _ => some h
  | .ldqx h _ _ _ _ _ => some h
  | .lds h _ _ _ => some h
  | .ldb h _ _ _ => some h
  | .stq h _ _ _ => some h
  | .stqx h _ _ _ _ _ _ _ _ => some h
  | .ldm h _ _ _ => some h
  | .stm h _ _ _ => some h
  | .rmerge h _ _ => some h
  | .mbput h _ _ _ => some h
  | .mbget h _ _ _ => some h
  | .ldg h _ _ _ => some h
  | .stg h _ _ _ => some h
  | .ldgx h _ _ _ _ _ => some h
  | .stgx h _ _ _ _ _ => some h
  | .pfg h _ _ => some h
  | .ldl h _ _ _ => some h
  | .stu h _ _ _ => some h
  | .atomg h _ _ _ _ _ _ => some h
  | .casg h _ _ _ _ _ => some h
  | .fadd h _ _ _ _ _ => some h
  | .fsub h _ _ _ _ _ => some h
  | .fmul h _ _ _ _ _ => some h
  | .fma h _ _ _ _ _ => some h
  | .fms h _ _ _ _ _ => some h
  | .fnma h _ _ _ _ _ => some h
  | .fdiv h _ _ _ _ _ => some h
  | .fsqrt h _ _ _ _ => some h
  | .fcvt h _ _ _ _ => some h
  | .fmin h _ _ _ _ => some h
  | .fmax h _ _ _ _ => some h
  | .fabs h _ _ _ => some h
  | .fneg h _ _ _ => some h
  | .fcmpeq h _ _ _ _ => some h
  | .fcmplt h _ _ _ _ => some h
  | .fcmple h _ _ _ _ => some h
  | .fclass h _ _ _ => some h
  | .frcp h _ _ _ => some h
  | .frsq h _ _ _ => some h
  | .fexp2 h _ _ _ => some h
  | .flog2 h _ _ _ => some h
  | .ftanh h _ _ _ => some h
  | .fsigm h _ _ _ => some h
  | .fsin h _ _ _ => some h
  | .fcos h _ _ _ => some h
  | .iadd h _ _ _ _ => some h
  | .isub h _ _ _ _ => some h
  | .imul h _ _ _ _ => some h
  | .imulh h _ _ _ _ => some h
  | .imad h _ _ _ _ => some h
  | .imin h _ _ _ _ => some h
  | .imax h _ _ _ _ => some h
  | .iand h _ _ _ _ => some h
  | .ior h _ _ _ _ => some h
  | .ixor h _ _ _ _ => some h
  | .ishl h _ _ _ _ => some h
  | .ishr h _ _ _ _ => some h
  | .isha h _ _ _ _ => some h
  | .icmpeq h _ _ _ _ => some h
  | .icmplt h _ _ _ _ => some h
  | .icmpltn h _ _ _ _ => some h
  | .iadds h _ _ _ _ => some h
  | .idot4 h _ _ _ _ => some h
  | .tcmplt h _ _ _ _ => some h
  | .vmov h _ _ _ => some h
  | .vbcast h _ _ _ => some h
  | .vperm h _ _ _ _ => some h
  | .vshuf h _ _ _ _ => some h
  | .vsel h _ _ _ _ => some h
  | .vext h _ _ _ _ => some h
  | .vins h _ _ _ _ => some h
  | .vli h _ _ _ _ => some h
  | .vrsum h _ _ _ => some h
  | .vrmax h _ _ _ => some h
  | .vrmin h _ _ _ => some h
  | .vrowsum h _ _ => some h
  | .vcolsum h _ _ => some h
  | .vtrans h _ => some h
  | .kand h _ _ _ _ => some h
  | .kor h _ _ _ _ => some h
  | .kxor h _ _ _ _ => some h
  | .knot h _ _ _ => some h
  | .kpopc h _ _ _ => some h
  | .commit h _ => some h
  | .vwin h _ _ _ => some h
  | .mma h _ _ _ _ _ _ => some h
  | .mmas h _ _ _ _ _ => some h
  | .mzero h _ => some h
  | .mldacc h _ _ _ => some h
  | .mstacc h _ _ => some h
  | .mckrd h _ _ => some h
  | .mdrain h => some h
  | .fmtpush h _ _ => some h
  | .cpy h _ _ _ => some h
  | .cpyl h _ _ _ => some h
  | .cpyw h _ => some h
  | .cpyq h _ _ => some h
  | .rput h _ _ _ => some h
  | .rget h _ _ _ => some h
  | .ratom h _ _ _ _ => some h
  | .rfence h => some h
  | .cred h _ _ => some h
  | .cbcast h _ => some h
  | .taskq h _ _ => some h
  | .launch h _ => some h
  | .almld h _ _ => some h
  | .almclr h => some h
  | .eres h _ _ => some h
  | .cbld h _ => some h
  | .sigclr h _ => some h
  | .sigfold h _ _ => some h
  | .csacc h _ _ => some h
  | .cschk h _ _ => some h
  | .chkerr h => some h
  | .provrd h _ _ _ => some h
  | .provclr h _ => some h
  | .slotw h _ _ => some h
  | .tlbinv h _ _ => some h
  | .ctxsave h _ _ _ => some h
  | .ctxload h _ _ _ => some h
  | .stoprd h _ _ _ => some h
  | .inject h _ _ => some h
  | .haltp h _ _ => some h
  | .resumep h _ _ => some h
  | .gate h _ _ => some h
  | .wake h _ => some h
  | .retire h _ _ => some h
  | .spare h _ _ _ => some h
  | .wdset h _ _ => some h
  | .errinj h _ _ => some h
  | _ => none

/-- The unit of a word (R62, R73 to R79). -/
def Instr.unit? : Instr → Option UnitId
  | .nop _ => some .sc
  | .add _ _ _ _ => some .sc
  | .sub _ _ _ _ => some .sc
  | .mul _ _ _ _ => some .sc
  | .mulhs _ _ _ _ => some .sc
  | .mulhn _ _ _ _ => some .sc
  | .divs _ _ _ _ => some .sc
  | .divn _ _ _ _ => some .sc
  | .rems _ _ _ _ => some .sc
  | .remn _ _ _ _ => some .sc
  | .and _ _ _ _ => some .sc
  | .or _ _ _ _ => some .sc
  | .xor _ _ _ _ => some .sc
  | .andn _ _ _ _ => some .sc
  | .shl _ _ _ _ => some .sc
  | .shr _ _ _ _ => some .sc
  | .sha _ _ _ _ => some .sc
  | .rol _ _ _ _ => some .sc
  | .min _ _ _ _ => some .sc
  | .max _ _ _ _ => some .sc
  | .minn _ _ _ _ => some .sc
  | .maxn _ _ _ _ => some .sc
  | .clz _ _ _ => some .sc
  | .popc _ _ _ => some .sc
  | .bfx _ _ _ _ => some .sc
  | .bfi _ _ _ _ => some .sc
  | .addi _ _ _ _ _ => some .sc
  | .shli _ _ _ _ _ => some .sc
  | .shri _ _ _ _ _ => some .sc
  | .shai _ _ _ _ _ => some .sc
  | .andi _ _ _ _ _ => some .sc
  | .li _ _ _ _ => some .sc
  | .lih _ _ _ => some .sc
  | .mov _ _ _ => some .sc
  | .cmov _ _ _ _ => some .sc
  | .cmpeq _ _ _ _ => some .sc
  | .cmpne _ _ _ _ => some .sc
  | .cmplt _ _ _ _ => some .sc
  | .cmple _ _ _ _ => some .sc
  | .cmpltn _ _ _ _ => some .sc
  | .cmplen _ _ _ _ => some .sc
  | .pand _ _ _ _ => some .sc
  | .por _ _ _ _ => some .sc
  | .pxor _ _ _ _ => some .sc
  | .br _ _ _ _ _ => some .sc
  | .jmp _ _ _ => some .sc
  | .jmpr _ _ => some .sc
  | .call _ _ _ => some .sc
  | .ret _ => some .sc
  | .loop _ _ _ => some .sc
  | .loopi _ _ _ _ => some .sc
  | .loopp _ _ _ _ => some .sc
  | .brkl _ _ _ => some .sc
  | .endStream _ => some .sc
  | .tail _ => some .sc
  | .post _ _ => some .sc
  | .await _ _ => some .sc
  | .postg _ _ _ => some .sc
  | .bar _ _ => some .sc
  | .fence _ _ _ => some .sc
  | .rds _ _ _ => some .sc
  | .wrs _ _ _ => some .sc
  | .setrm _ _ => some .sc
  | .seed _ _ _ => some .sc
  | .view _ _ _ _ => some .sc
  | .mark _ _ => some .sc
  | .markq _ _ _ => some .sc
  | .trap _ _ => some .sc
  | .bkpt _ => some .sc
  | .aadd _ _ _ _ => some .ac
  | .aaddi _ _ _ _ _ => some .ac
  | .asub _ _ _ _ => some .ac
  | .amov _ _ _ => some .ac
  | .ali _ _ _ _ => some .ac
  | .amode _ _ _ => some .ac
  | .abase _ _ _ => some .ac
  | .ainc _ _ _ => some .ac
  | .ldq _ _ _ _ => some .ac
  | .ldqx _ _ _ _ _ _ => some .ac
  | .lds _ _ _ _ => some .ac
  | .ldb _ _ _ _ => some .ac
  | .stq _ _ _ _ => some .ac
  | .stqx _ _ _ _ _ _ _ _ _ => some .ac
  | .ldm _ _ _ _ => some .ac
  | .stm _ _ _ _ => some .ac
  | .rmerge _ _ _ => some .ac
  | .mbput _ _ _ _ => some .ac
  | .mbget _ _ _ _ => some .ac
  | .ldg _ _ _ _ => some .ac
  | .stg _ _ _ _ => some .ac
  | .ldgx _ _ _ _ _ _ => some .ac
  | .stgx _ _ _ _ _ _ => some .ac
  | .pfg _ _ _ => some .ac
  | .ldl _ _ _ _ => some .ac
  | .stu _ _ _ _ => some .ac
  | .atomg _ _ _ _ _ _ _ => some .ac
  | .casg _ _ _ _ _ _ => some .ac
  | .fadd _ _ _ _ _ _ => some .ve
  | .fsub _ _ _ _ _ _ => some .ve
  | .fmul _ _ _ _ _ _ => some .ve
  | .fma _ _ _ _ _ _ => some .ve
  | .fms _ _ _ _ _ _ => some .ve
  | .fnma _ _ _ _ _ _ => some .ve
  | .fdiv _ _ _ _ _ _ => some .ve
  | .fsqrt _ _ _ _ _ => some .ve
  | .fcvt _ _ _ _ _ => some .ve
  | .fmin _ _ _ _ _ => some .ve
  | .fmax _ _ _ _ _ => some .ve
  | .fabs _ _ _ _ => some .ve
  | .fneg _ _ _ _ => some .ve
  | .fcmpeq _ _ _ _ _ => some .ve
  | .fcmplt _ _ _ _ _ => some .ve
  | .fcmple _ _ _ _ _ => some .ve
  | .fclass _ _ _ _ => some .ve
  | .frcp _ _ _ _ => some .ve
  | .frsq _ _ _ _ => some .ve
  | .fexp2 _ _ _ _ => some .ve
  | .flog2 _ _ _ _ => some .ve
  | .ftanh _ _ _ _ => some .ve
  | .fsigm _ _ _ _ => some .ve
  | .fsin _ _ _ _ => some .ve
  | .fcos _ _ _ _ => some .ve
  | .iadd _ _ _ _ _ => some .ve
  | .isub _ _ _ _ _ => some .ve
  | .imul _ _ _ _ _ => some .ve
  | .imulh _ _ _ _ _ => some .ve
  | .imad _ _ _ _ _ => some .ve
  | .imin _ _ _ _ _ => some .ve
  | .imax _ _ _ _ _ => some .ve
  | .iand _ _ _ _ _ => some .ve
  | .ior _ _ _ _ _ => some .ve
  | .ixor _ _ _ _ _ => some .ve
  | .ishl _ _ _ _ _ => some .ve
  | .ishr _ _ _ _ _ => some .ve
  | .isha _ _ _ _ _ => some .ve
  | .icmpeq _ _ _ _ _ => some .ve
  | .icmplt _ _ _ _ _ => some .ve
  | .icmpltn _ _ _ _ _ => some .ve
  | .iadds _ _ _ _ _ => some .ve
  | .idot4 _ _ _ _ _ => some .ve
  | .tcmplt _ _ _ _ _ => some .ve
  | .vmov _ _ _ _ => some .ve
  | .vbcast _ _ _ _ => some .ve
  | .vperm _ _ _ _ _ => some .ve
  | .vshuf _ _ _ _ _ => some .ve
  | .vsel _ _ _ _ _ => some .ve
  | .vext _ _ _ _ _ => some .ve
  | .vins _ _ _ _ _ => some .ve
  | .vli _ _ _ _ _ => some .ve
  | .vrsum _ _ _ _ => some .ve
  | .vrmax _ _ _ _ => some .ve
  | .vrmin _ _ _ _ => some .ve
  | .vrowsum _ _ _ => some .ve
  | .vcolsum _ _ _ => some .ve
  | .vtrans _ _ => some .ve
  | .kand _ _ _ _ _ => some .ve
  | .kor _ _ _ _ _ => some .ve
  | .kxor _ _ _ _ _ => some .ve
  | .knot _ _ _ _ => some .ve
  | .kpopc _ _ _ _ => some .ve
  | .commit _ _ => some .ve
  | .vwin _ _ _ _ => some .ve
  | .mma _ _ _ _ _ _ _ => some .mx
  | .mmas _ _ _ _ _ _ => some .mx
  | .mzero _ _ => some .mx
  | .mldacc _ _ _ _ => some .mx
  | .mstacc _ _ _ => some .mx
  | .mckrd _ _ _ => some .mx
  | .mdrain _ => some .mx
  | .fmtpush _ _ _ => some .en
  | .cpy _ _ _ _ => some .en
  | .cpyl _ _ _ _ => some .en
  | .cpyw _ _ => some .en
  | .cpyq _ _ _ => some .en
  | .rput _ _ _ _ => some .en
  | .rget _ _ _ _ => some .en
  | .ratom _ _ _ _ _ => some .en
  | .rfence _ => some .en
  | .cred _ _ _ => some .en
  | .cbcast _ _ => some .en
  | .taskq _ _ _ => some .en
  | .launch _ _ => some .en
  | .almld _ _ _ => some .en
  | .almclr _ => some .en
  | .eres _ _ _ => some .en
  | .cbld _ _ => some .en
  | .sigclr _ _ => some .ck
  | .sigfold _ _ _ => some .ck
  | .csacc _ _ _ => some .ck
  | .cschk _ _ _ => some .ck
  | .chkerr _ => some .ck
  | .provrd _ _ _ _ => some .ck
  | .provclr _ _ => some .ck
  | .slotw _ _ _ => some .sy
  | .tlbinv _ _ _ => some .sy
  | .ctxsave _ _ _ _ => some .sy
  | .ctxload _ _ _ _ => some .sy
  | .stoprd _ _ _ _ => some .sy
  | .inject _ _ _ => some .sy
  | .haltp _ _ _ => some .sy
  | .resumep _ _ _ => some .sy
  | .gate _ _ _ => some .sy
  | .wake _ _ => some .sy
  | .retire _ _ _ => some .sy
  | .spare _ _ _ _ => some .sy
  | .wdset _ _ _ => some .sy
  | .errinj _ _ _ => some .sy
  | _ => none

/-- The latency class of a word (R85, Table 3.19); none for a word that belongs to no class. LDG and
LDGX belong to class 12 only on the direct path, and their timing is computed there (R217). -/
def Instr.latClass : Instr → Option Nat
  | .add _ _ _ _ => some 0
  | .sub _ _ _ _ => some 0
  | .mul _ _ _ _ => some 1
  | .mulhs _ _ _ _ => some 1
  | .mulhn _ _ _ _ => some 1
  | .divs _ _ _ _ => some 2
  | .divn _ _ _ _ => some 2
  | .rems _ _ _ _ => some 2
  | .remn _ _ _ _ => some 2
  | .and _ _ _ _ => some 0
  | .or _ _ _ _ => some 0
  | .xor _ _ _ _ => some 0
  | .andn _ _ _ _ => some 0
  | .shl _ _ _ _ => some 0
  | .shr _ _ _ _ => some 0
  | .sha _ _ _ _ => some 0
  | .rol _ _ _ _ => some 0
  | .min _ _ _ _ => some 0
  | .max _ _ _ _ => some 0
  | .minn _ _ _ _ => some 0
  | .maxn _ _ _ _ => some 0
  | .clz _ _ _ => some 0
  | .popc _ _ _ => some 0
  | .bfx _ _ _ _ => some 0
  | .bfi _ _ _ _ => some 0
  | .addi _ _ _ _ _ => some 0
  | .shli _ _ _ _ _ => some 0
  | .shri _ _ _ _ _ => some 0
  | .shai _ _ _ _ _ => some 0
  | .andi _ _ _ _ _ => some 0
  | .li _ _ _ _ => some 0
  | .lih _ _ _ => some 0
  | .mov _ _ _ => some 0
  | .cmov _ _ _ _ => some 0
  | .cmpeq _ _ _ _ => some 0
  | .cmpne _ _ _ _ => some 0
  | .cmplt _ _ _ _ => some 0
  | .cmple _ _ _ _ => some 0
  | .cmpltn _ _ _ _ => some 0
  | .cmplen _ _ _ _ => some 0
  | .pand _ _ _ _ => some 0
  | .por _ _ _ _ => some 0
  | .pxor _ _ _ _ => some 0
  | .call _ _ _ => some 0
  | .rds _ _ _ => some 0
  | .markq _ _ _ => some 0
  | .aadd _ _ _ _ => some 0
  | .aaddi _ _ _ _ _ => some 0
  | .asub _ _ _ _ => some 0
  | .amov _ _ _ => some 0
  | .ali _ _ _ _ => some 0
  | .amode _ _ _ => some 0
  | .abase _ _ _ => some 0
  | .ainc _ _ _ => some 0
  | .ldq _ _ _ _ => some 10
  | .ldqx _ _ _ _ _ _ => some 10
  | .lds _ _ _ _ => some 10
  | .ldb _ _ _ _ => some 10
  | .ldm _ _ _ _ => some 10
  | .rmerge _ _ _ => some 11
  | .mbput _ _ _ _ => some 11
  | .mbget _ _ _ _ => some 11
  | .ldl _ _ _ _ => some 10
  | .fadd _ _ _ _ _ _ => some 4
  | .fsub _ _ _ _ _ _ => some 4
  | .fmul _ _ _ _ _ _ => some 4
  | .fma _ _ _ _ _ _ => some 4
  | .fms _ _ _ _ _ _ => some 4
  | .fnma _ _ _ _ _ _ => some 4
  | .fdiv _ _ _ _ _ _ => some 5
  | .fsqrt _ _ _ _ _ => some 5
  | .fcvt _ _ _ _ _ => some 9
  | .fmin _ _ _ _ _ => some 4
  | .fmax _ _ _ _ _ => some 4
  | .fabs _ _ _ _ => some 4
  | .fneg _ _ _ _ => some 4
  | .fcmpeq _ _ _ _ _ => some 4
  | .fcmplt _ _ _ _ _ => some 4
  | .fcmple _ _ _ _ _ => some 4
  | .fclass _ _ _ _ => some 4
  | .frcp _ _ _ _ => some 6
  | .frsq _ _ _ _ => some 6
  | .fexp2 _ _ _ _ => some 6
  | .flog2 _ _ _ _ => some 6
  | .ftanh _ _ _ _ => some 6
  | .fsigm _ _ _ _ => some 6
  | .fsin _ _ _ _ => some 6
  | .fcos _ _ _ _ => some 6
  | .iadd _ _ _ _ _ => some 3
  | .isub _ _ _ _ _ => some 3
  | .imul _ _ _ _ _ => some 3
  | .imulh _ _ _ _ _ => some 3
  | .imad _ _ _ _ _ => some 3
  | .imin _ _ _ _ _ => some 3
  | .imax _ _ _ _ _ => some 3
  | .iand _ _ _ _ _ => some 3
  | .ior _ _ _ _ _ => some 3
  | .ixor _ _ _ _ _ => some 3
  | .ishl _ _ _ _ _ => some 3
  | .ishr _ _ _ _ _ => some 3
  | .isha _ _ _ _ _ => some 3
  | .icmpeq _ _ _ _ _ => some 3
  | .icmplt _ _ _ _ _ => some 3
  | .icmpltn _ _ _ _ _ => some 3
  | .iadds _ _ _ _ _ => some 3
  | .idot4 _ _ _ _ _ => some 3
  | .tcmplt _ _ _ _ _ => some 3
  | .vmov _ _ _ _ => some 3
  | .vbcast _ _ _ _ => some 8
  | .vperm _ _ _ _ _ => some 8
  | .vshuf _ _ _ _ _ => some 8
  | .vsel _ _ _ _ _ => some 3
  | .vext _ _ _ _ _ => some 8
  | .vins _ _ _ _ _ => some 8
  | .vli _ _ _ _ _ => some 3
  | .vrsum _ _ _ _ => some 7
  | .vrmax _ _ _ _ => some 7
  | .vrmin _ _ _ _ => some 7
  | .vrowsum _ _ _ => some 7
  | .vcolsum _ _ _ => some 7
  | .vtrans _ _ => some 8
  | .kand _ _ _ _ _ => some 3
  | .kor _ _ _ _ _ => some 3
  | .kxor _ _ _ _ _ => some 3
  | .knot _ _ _ _ => some 3
  | .kpopc _ _ _ _ => some 3
  | .cpyq _ _ _ => some 0
  | .eres _ _ _ => some 0
  | .sigclr _ _ => some 0
  | .sigfold _ _ _ => some 0
  | .csacc _ _ _ => some 0
  | .cschk _ _ _ => some 0
  | .provrd _ _ _ _ => some 0
  | .provclr _ _ => some 0
  | _ => none
/-- A post-update code: 0 none, 1 by the mode's increment, 16 to 31 by a scalar (R74). -/
def postOk (b : BitVec 5) : Bool := b.toNat < 2 || 16 ≤ b.toNat
/-- The A field of a load or store names an address register (R74). -/
def isAddr (a : BitVec 5) : Bool := a.toNat < 16
/-- An AC field that must name a scalar (R224, R227). -/
def isScal (a : BitVec 5) : Bool := 16 ≤ a.toNat
/-- A V destination that is also read is no queue (R142). -/
def notQueue (d : BitVec 5) : Bool := d.toNat < 28

/-- A MOD word before a word that allows the given of its fields (R68, R69, Table 5.6): RO is 00 or
01, RM is zero under RO 00, and a field without use is zero. -/
def modOk (kmz sat ro : Bool) : Option ModF → Bool
  | none => true
  | some m =>
    (m.ro.toNat < 2) && (m.ro != 0#2 || m.rm == 0#2) &&
    (kmz || (m.km == 0#3 && m.z == 0#1)) && (sat || m.sat == 0#1) && (ro || m.ro == 0#2)

/-- MOD before a reduction: KM selects sources and Z is zero (Table 5.6). -/
def modOkSelect (ro : Bool) (md : Option ModF) : Bool :=
  modOk true false ro md && (match md with | none => true | some m => m.z == 0#1)

/-- VSEL needs a MOD word with KM and without Z (R151). -/
def modOkVsel : Option ModF → Bool
  | none => false
  | some m => modOk true false false (some m) && m.km != 0#3 && m.z == 0#1

/-- Is the special register listed (Table 4.2)? -/
def specialListed (r : BitVec 10) : Bool :=
  let n := r.toNat
  n ≤ 9 || (0x10 ≤ n && n ≤ 0x12) || (0x14 ≤ n && n ≤ 0x16) || (0x18 ≤ n && n ≤ 0x1A) ||
  (0x100 ≤ n && n ≤ 0x10F)

/-- Is the special register listed as writable (Table 4.2)? -/
def specialWritable (r : BitVec 10) : Bool :=
  let n := r.toNat
  (1 ≤ n && n ≤ 4) || (0x10 ≤ n && n ≤ 0x12) || (0x100 ≤ n && n ≤ 0x10F)

/-- The used fields of a word hold permitted values (Table 3.7 rows 4, 5 and 7). A step without an
encoding is no word and has none. -/
def reservedOk : Instr → Bool
  | .lih _ x _ => match x with
    | none => false
    | some v => v.extractLsb' 26 2 == 0#2
  | .loop _ _ l => l != 0#10
  | .loopi _ _ _ l => l != 0#10
  | .loopp _ _ s k => s != 0#3 && k != 0#7
  | .fence _ _ o => o != 0#2
  | .rds _ _ r => specialListed r
  | .wrs _ _ r => specialWritable r
  | .aadd _ d _ _ => isAddr d
  | .asub _ d _ _ => isAddr d
  | .aaddi _ _ d _ _ => isAddr d
  | .ali _ _ d _ => isAddr d
  | .amode _ d a => isAddr d && isScal a
  | .abase _ d a => isAddr d && isScal a
  | .ainc _ d a => isAddr d && isScal a
  | .ldq _ _ a b => isAddr a && postOk b
  | .ldb _ _ a b => isAddr a && postOk b
  | .ldg _ _ a b => isAddr a && postOk b
  | .ldl _ _ a b => isAddr a && postOk b
  | .stq _ _ a b => isAddr a && postOk b
  | .stg _ _ a b => isAddr a && postOk b
  | .stu _ _ a b => isAddr a && postOk b
  | .pfg _ a b => isAddr a && postOk b
  | .ldm _ _ a b => isAddr a && postOk b
  | .stm _ _ a b => isAddr a && postOk b
  | .lds _ d a b => isScal d && isAddr a && postOk b
  | .ldqx _ md _ _ a b => isAddr a && postOk b && modOk false true true md
  | .ldgx _ md _ _ a b => isAddr a && postOk b && modOk false true true md
  | .stgx _ md _ _ a b => isAddr a && postOk b && modOk false true true md
  | .stqx _ md _ _ _ a _ _ _ => isAddr a && modOk false true true md
  | .rmerge _ _ a => isScal a
  | .mbput _ _ a b => isScal a && isScal b
  | .mbget _ d _ b => isScal d && isScal b
  | .atomg _ o _ _ _ _ _ => o != 7#3
  | .casg _ _ _ _ s _ => s != 15#4
  | .fadd _ md _ _ _ _ => modOk true true true md
  | .fsub _ md _ _ _ _ => modOk true true true md
  | .fmul _ md _ _ _ _ => modOk true true true md
  | .fdiv _ md _ _ _ _ => modOk true true true md
  | .fma _ md _ d _ _ => notQueue d && modOk true true true md
  | .fms _ md _ d _ _ => notQueue d && modOk true true true md
  | .fnma _ md _ d _ _ => notQueue d && modOk true true true md
  | .fsqrt _ md _ _ _ => modOk true true true md
  | .fcvt _ md _ _ _ => modOk true true true md
  | .fmin _ md _ _ _ => modOk true true true md
  | .fmax _ md _ _ _ => modOk true true true md
  | .frcp _ md _ _ => modOk true true true md
  | .frsq _ md _ _ => modOk true true true md
  | .fexp2 _ md _ _ => modOk true true true md
  | .flog2 _ md _ _ => modOk true true true md
  | .ftanh _ md _ _ => modOk true true true md
  | .fsigm _ md _ _ => modOk true true true md
  | .fsin _ md _ _ => modOk true true true md
  | .fcos _ md _ _ => modOk true true true md
  | .fabs _ md _ _ => modOk true false false md
  | .fneg _ md _ _ => modOk true false false md
  | .fcmpeq _ md _ _ _ => modOk true false false md
  | .fcmplt _ md _ _ _ => modOk true false false md
  | .fcmple _ md _ _ _ => modOk true false false md
  | .fclass _ md _ _ => modOk true false false md
  | .iadd _ md _ _ _ => modOk true true false md
  | .isub _ md _ _ _ => modOk true true false md
  | .imul _ md _ _ _ => modOk true true false md
  | .imad _ md d _ _ => notQueue d && modOk true true false md
  | .imulh _ md _ _ _ => modOk true false false md
  | .imin _ md _ _ _ => modOk true false false md
  | .imax _ md _ _ _ => modOk true false false md
  | .iand _ md _ _ _ => modOk true false false md
  | .ior _ md _ _ _ => modOk true false false md
  | .ixor _ md _ _ _ => modOk true false false md
  | .ishl _ md _ _ _ => modOk true false false md
  | .ishr _ md _ _ _ => modOk true false false md
  | .isha _ md _ _ _ => modOk true false false md
  | .iadds _ md _ _ _ => modOk true false false md
  | .idot4 _ md d _ _ => notQueue d && modOk true false false md
  | .icmpeq _ md _ _ _ => modOk true false false md
  | .icmplt _ md _ _ _ => modOk true false false md
  | .icmpltn _ md _ _ _ => modOk true false false md
  | .tcmplt _ md _ _ _ => modOk true false false md
  | .vmov _ md _ _ => modOk true false false md
  | .vbcast _ md _ _ => modOk true false false md
  | .vperm _ md _ _ _ => modOk true false false md
  | .vshuf _ md _ _ _ => modOk true false false md
  | .vli _ _ md _ _ => modOk true false false md
  | .vsel _ md _ _ _ => modOkVsel md
  | .vrsum _ md _ _ => modOkSelect true md
  | .vrmax _ md _ _ => modOkSelect true md
  | .vrmin _ md _ _ => modOkSelect true md
  | .vrowsum _ md _ => modOk true false true md
  | .vcolsum _ md _ => modOk true false true md
  | .vext _ md _ _ _ => modOk false false false md
  | .vins _ md _ _ _ => modOk false false false md
  | .vtrans _ md => modOk false false false md
  | .kand _ md _ _ _ => modOk false false false md
  | .kor _ md _ _ _ => modOk false false false md
  | .kxor _ md _ _ _ => modOk false false false md
  | .knot _ md _ _ => modOk false false false md
  | .kpopc _ md _ _ => modOk false false false md
  | .vwin _ t _ _ => t.toNat < 10
  | .ratom _ _ o _ b => o.toNat ≤ 4 && (o != 4#3 || b != 31#5)
  | .cred _ o _ => o != 3#2
  | .eres _ _ f => f.toNat < 2
  | .slotw _ d _ => d.toNat ≤ 28
  | i => i.hdr?.isSome

end Sys2Proof
end

