-- ==== Sys2Proof/Machine/Storage.lean ====
section
/-! DEFINITION. The memories below every access: check codes and poison (R209, R211, R213, R421),
system addresses (R196), rows of SPM, shared array, HBM and EXT, race detection (R250 to R253), page
walks and TLBs (R199, R334), rename overlays (R331) and containment (R316). A row is a number of 512
bits, a byte mask one of 64 bits, poison marks one of 16 bits. -/

namespace Sys2Proof.Machine

/-- What a syndrome says (R421). -/
inductive Ecc where
  | clean
  | poison
  /-- a single-bit error, at a data bit or at a check bit -/
  | fix (bit : Option Nat)
  | bad
  deriving DecidableEq, Repr

/-- Position of a column in a list. -/
def colIndex : List Nat → Nat → Nat → Option Nat
  | [], _, _ => none
  | c :: r, x, i => if c = x then some i else colIndex r x (i + 1)

/-- Decodes a syndrome (R421). -/
def eccDecode (x : BitVec 7) : Ecc :=
  if x = 0 then .clean
  else if x = 0x7F#7 then .poison
  else match colIndex Config.eccColumns x.toNat 0 with
    | some i => .fix (some i)
    | none => if (List.range 7).any (fun k => x.toNat = 2 ^ k) then .fix none else .bad

/-- Bits of a byte mask: each set byte becomes 0xFF. -/
def maskBits : Nat → Nat → Nat
  | 0, _ => 0
  | n + 1, m => (if m % 2 = 1 then 255 else 0) + 256 * maskBits n (m / 2)

/-- Puts the bytes that the mask selects of b over those of a. -/
def mergeBytes (m a b : Nat) : Nat :=
  let k := maskBits 64 m
  (a &&& (2 ^ 512 - 1 - k)) ||| (b &&& k)

def fullMask : Nat := 2 ^ 64 - 1

/-- Poison marks of all 16 words. -/
def allPoison : Nat := 2 ^ 16 - 1

/-- Words of SEC-DED memory (R209): reads the words of a row from word w on; gives the delivered
data, the poison marks, the bytes and syndromes as rewritten, and what was found: word, syndrome, and
whether it is uncorrectable. -/
def eccRead : Nat → Mem → Tbl (BitVec 7) → Nat → Nat × Nat × Mem × Tbl (BitVec 7) × List (Nat × BitVec 7 × Bool)
  | 0, m, y, _ => (0, 0, m, y, [])
  | n + 1, m, y, a =>
    let raw := m.readN a 4
    let x := tblGet 0 y (a / 4)
    let (v, p, m', y', ev) := match eccDecode x with
      | .clean => (raw, 0, m, y, [])
      | .poison => (raw, 1, m, y, [])
      | .fix b =>
        let v := match b with | some i => raw ^^^ 2 ^ i | none => raw
        (v, 0, m.writeN a 4 v, tblErase y (a / 4), [(a, x, false)])
      | .bad => (raw, 1, m, tblPut y (a / 4) 0x7F#7, [(a, x, true)])
    let (d, ps, m'', y'', evs) := eccRead n m' y' (a + 4)
    (v + 2 ^ 32 * d, p + 2 * ps, m'', y'', ev ++ evs)

/-- Writes words under a byte mask (Table 7.5): a fully covered word gets a fresh code, or the poison
syndrome where marked; a partly covered one is read, merged and written back. -/
def eccWrite : Nat → Mem → Tbl (BitVec 7) → Nat → Nat → Nat → Nat → Mem × Tbl (BitVec 7) × List (Nat × BitVec 7 × Bool)
  | 0, m, y, _, _, _, _ => (m, y, [])
  | n + 1, m, y, a, mask, data, pois =>
    let k := mask % 16
    let v := data % 2 ^ 32
    let code (m : Mem) (y : Tbl (BitVec 7)) (bad : Bool) : Mem × Tbl (BitVec 7) :=
      (m, if bad then tblPut y (a / 4) 0x7F#7 else tblErase y (a / 4))
    let (m', y', ev) :=
      if k = 0 then (m, y, [])
      else if k = 15 then
        let (m, y) := code (m.writeN a 4 v) y (pois % 2 = 1)
        (m, y, [])
      else
        let raw := m.readN a 4
        let x := tblGet 0 y (a / 4)
        let (old, bad, ev) := match eccDecode x with
          | .clean => (raw, false, [])
          | .poison => (raw, true, [])
          | .fix b => ((match b with | some i => raw ^^^ 2 ^ i | none => raw), false, [(a, x, false)])
          | .bad => (raw, true, [(a, x, true)])
        let kb := maskBits 4 k
        let (m, y) := code (m.writeN a 4 ((old &&& (2 ^ 32 - 1 - kb)) ||| (v &&& kb))) y (bad || pois % 2 = 1)
        (m, y, ev)
    let (m'', y'', evs) := eccWrite n m' y' (a + 4) (mask / 16) (data / 2 ^ 32) (pois / 2)
    (m'', y'', ev ++ evs)


/-- Events of an SPM row: source 17 p + q, the die's log, SPM address (Table 12.2, R350). -/
def State.spmEvents (s : State) (n tag : Nat) (evs : List (Nat × BitVec 7 × Bool)) : State :=
  let p := s.physDie (dieOf n)
  evs.foldl (fun s (a, x, bad) =>
    s.errEvent ⟨17 * p + s.physCore n, a, if bad then some 1 else none, p, tag, x.toNat⟩) s

/-- Reads the SPM row that holds address a (R205, R209): data and poison marks. -/
def State.spmRead (s : State) (n a tag : Nat) : State × Nat × Nat :=
  let row := a % 2 ^ 20 / 64 * 64
  let c := s.core n
  if c.syn.isEmpty then (s, c.spm.readN row 64, 0)
  else
    let (d, p, m, y, ev) := eccRead 16 c.spm c.syn row
    ((s.modCore n fun c => { c with spm := m, syn := y }).spmEvents n tag ev, d, p)

/-- An SPM row as it stands, with nothing rewritten or counted: data, poison marks, and the errors found. -/
def Core.spmRaw (c : Core) (a : Nat) : Nat × Nat × List (Nat × BitVec 7 × Bool) :=
  let row := a % 2 ^ 20 / 64 * 64
  if c.syn.isEmpty then (c.spm.readN row 64, 0, [])
  else let (d, p, _, _, ev) := eccRead 16 c.spm c.syn row; (d, p, ev)

/-- Writes whole words of an SPM row (R205, R206). -/
def State.spmWrite (s : State) (n a mask data pois : Nat) : State :=
  let row := a % 2 ^ 20 / 64 * 64
  s.modCore n fun c =>
    let (m, y, _) := eccWrite 16 c.spm c.syn row mask data pois
    { c with spm := m, syn := y }

/-- Fields of a system address (Table 7.2). -/
def saDev (sa : Nat) : Nat := bitsN sa 53 10
def saLevel (sa : Nat) : Nat := bitsN sa 50 3
def saOff (sa : Nat) : Nat := sa % 2 ^ 50

/-- Whether len bytes from a system address keep the limits of R196, and of the stage reached
(R405); a peer's EXT window is the peer's to check. -/
def State.saOk (s : State) (sa len : Nat) : Bool :=
  let o := saOff sa
  let last := o + len - 1
  let local_ := saDev sa = s.devId
  sa < 2 ^ 63 &&
  (if saLevel sa = 0 then
      last < 2 ^ 40 && bitsN o 36 4 = bitsN last 36 4 && last % 2 ^ 36 < 0xC00000000 &&
      (!local_ || 3 ≤ s.stage || last < 2 ^ 32)
   else if saLevel sa = 1 then last < 2 ^ 31 && (!local_ || 3 ≤ s.stage)
   else if saLevel sa = 2 then (!local_ || last < s.extSize)
   else false)

/-- Where a row of a level lies in the model's memory: an EXT row at its place in the host's memory, behind every system
address (R196). -/
def State.memKey (s : State) (sa : Nat) : Nat := if saLevel sa = 2 then 2 ^ 64 + s.extBase + saOff sa else sa

/-- Physical pseudo-channel of a line of a stack (R214, R346). -/
def State.physChannel (s : State) (o : Nat) : Nat :=
  let st := bitsN o 36 4
  let p := bitsN o 6 6
  tblGet p s.spare (2 * 2 ^ 40 + 64 * st + p)

/-- Erased symbol positions of a line's pseudo-channel (R213, R345). -/
def State.erasedOf (s : State) (o : Nat) : List Nat :=
  let ch := 66 * bitsN o 36 4 + s.physChannel o
  (List.range 4).filterMap fun i =>
    let v := tblGet 0 s.erase (4 * ch + i)
    if v.toNat ≥ 128 && v.toNat % 128 < 72 then some (v.toNat % 128) else none

/-- An event of an HBM line (Table 12.2). -/
def State.hbmEvent (s : State) (sa kind tag detail : Nat) : State :=
  let o := saOff sa
  let st := bitsN o 36 4
  s.errEvent ⟨0x200 + 66 * st + s.physChannel o, sa, if kind = 0 then none else some kind,
    5 * (st / 4) + st % 4, tag, detail⟩

/-- Bytes of a line as its symbols in error deliver them raw: symbol i below 64 is byte i (log 8). -/
def rawLine (data : Nat) (errs : List (Nat × BitVec 8)) : Nat :=
  errs.foldl (fun d (i, x) => if i < 64 then d ^^^ (x.toNat <<< (8 * i)) else d) data

/-- How the decoder leaves a line (R213): none when it has no error, true when corrected. -/
def State.lineState (s : State) (sa : Nat) : Option Bool :=
  let errs := tblGet [] s.hbmErr sa
  if errs.isEmpty then none
  else
    let er := s.erasedOf (saOff sa)
    some (er.length + 2 * (errs.filter fun (i, _) => !er.contains i).length ≤ 8)

/-- Gives up a line as uncorrectable: raw and poisoned (R213). -/
def State.spoilLine (s : State) (sa : Nat) : State :=
  let errs := tblGet [] s.hbmErr sa
  { s with mem := s.mem.writeN sa 64 (rawLine (s.mem.readN sa 64) errs),
           hbmErr := tblErase s.hbmErr sa,
           hbmPois := sa :: s.hbmPois.filter (· ≠ sa) }

/-- The physical row of a bank to which an access to a logical row goes (R344). -/
def State.physRow (s : State) (bank row : Nat) : Nat := tblGet row (tblGet [] s.rowInd bank) row

/-- The number of the bank that holds an HBM line, 64 x (66 x stack + pseudo-channel) + bank, and the physical row by
the bank's row indirection table (R196, R214, R215, R344). Bank and logical row within the pseudo-channel are free
(log 16). -/
def State.bankOf (s : State) (o : Nat) : Nat × Nat :=
  let (b, r) := Config.bankRow o
  let bank := 64 * (66 * bitsN o 36 4 + s.physChannel o) + b % 64
  (bank, s.physRow bank (r % 2 ^ 20))

/-- The access goes to its physical row, and counts as an activation of it (R215, R344, R365), once firmware has set a
threshold; a counter stays at its greatest value (R347, log 16). -/
def State.activate (s : State) (sa : Nat) : State :=
  if s.swapThr.isEmpty then s
  else
    let (b, r) := s.bankOf (saOff sa)
    let k := b * 2 ^ 20 + r
    { s with acts := tblPut s.acts k (Nat.min (tblGet 0 s.acts k + 1) (2 ^ s.actWidth - 1)) }

/-- Reads an HBM line (R213). A swap takes the bytes of both rows along (R215): they stay listed by logical address. -/
def State.hbmRead (s0 : State) (sa tag : Nat) : State × Nat × Nat :=
  let s := s0.activate sa
  match s.lineState sa with
  | none => (s, s.mem.readN sa 64, if s.hbmPois.contains sa then allPoison else 0)
  | some true =>
    let s' := s.hbmEvent sa 0 tag 0
    ({ s' with rewrite := sa :: s'.rewrite.filter (· ≠ sa) }, s.mem.readN sa 64,
      if s.hbmPois.contains sa then allPoison else 0)
  | some false =>
    let s' := (s.hbmEvent sa 1 tag (tblGet [] s.hbmErr sa).length).spoilLine sa
    (s', s'.mem.readN sa 64, allPoison)

/-- Writes bytes of an HBM line (R213): all 64 bytes clear error and poison; a part is a
read-modify-write by Table 7.5, line for word. -/
def State.hbmWrite (s0 : State) (sa mask data pois tag : Nat) : State :=
  let s := s0.activate sa
  let put (s : State) : State := { s with mem := s.mem.writeN sa 64 (mergeBytes mask (s.mem.readN sa 64) data) }
  let s :=
    if mask % 2 ^ 64 = fullMask then
      put { s with hbmErr := tblErase s.hbmErr sa, hbmPois := s.hbmPois.filter (· ≠ sa) }
    else match s.lineState sa with
      | none => put s
      | some true => put { s.hbmEvent sa 0 tag 0 with hbmErr := tblErase s.hbmErr sa }
      | some false => put ((s.hbmEvent sa 2 tag (tblGet [] s.hbmErr sa).length).spoilLine sa)
  if pois = 0 then s else { s with hbmPois := sa :: s.hbmPois.filter (· ≠ sa) }

/-- Events of shared-array words. -/
def State.shaEvents (s : State) (kind tag : Nat) (evs : List (Nat × BitVec 7 × Bool)) : State :=
  evs.foldl (fun s (a, x, bad) =>
    let d := bitsN a 29 2
    s.errEvent ⟨0x180 + d, a, if bad then some kind else none, 32 + d, tag, x.toNat⟩) s

/-- Reads the row of the device's own memory, or of EXT, at a system address (R209, R213, R219). The kinds of the host
port are port kinds, whose entries have neither address nor tag (R350, log 65). -/
def State.sysRead (s : State) (sa0 tag : Nat) : State × Nat × Nat :=
  let sa := sa0 / 64 * 64
  if saLevel sa = 0 then s.hbmRead sa tag
  else if saLevel sa = 1 then
    if s.shaSyn.isEmpty then (s, s.mem.readN sa 64, 0)
    else
      let (d, p, m, y, ev) := eccRead 16 s.mem s.shaSyn sa
      ({ s with mem := m, shaSyn := y }.shaEvents 1 tag ev, d, p)
  else
    let s' := { s with free := s.free + 1 }
    let row := s.mem.readN (s.memKey sa) 64
    if Config.hostFails s.free then (s'.errEvent ⟨0x740, 0, some 4, 64, 0, 0⟩, row, allPoison)
    else (s', row, if Config.hostPoison s.free then allPoison else 0)

/-- Writes bytes of a row (R211, R213, R219). -/
def State.sysWrite (s : State) (sa0 mask data pois tag : Nat) : State :=
  let sa := sa0 / 64 * 64
  if saLevel sa = 0 then s.hbmWrite sa mask data pois tag
  else if saLevel sa = 1 then
    let (m, y, ev) := eccWrite 16 s.mem s.shaSyn sa mask data pois
    { s with mem := m, shaSyn := y }.shaEvents 2 tag ev
  else
    let s' := { s with free := s.free + 1 }
    if Config.hostFails s.free then s'.errEvent ⟨0x740, 0, some 5, 64, 0, 0⟩
    else
      let k := s.memKey sa
      { s' with mem := s.mem.writeN k 64 (mergeBytes mask (s.mem.readN k 64) data) }

/-- Reads n / 4 words of the device's shared array, and no other word of the row (R229). -/
def State.shaWords (s : State) (sa n tag : Nat) : State × Nat × Nat :=
  let (d, p, m, y, ev) := eccRead (n / 4) s.mem s.shaSyn sa
  ({ s with mem := m, shaSyn := y }.shaEvents 1 tag ev, d, p)

/-- Reads n bytes at a system address, within one row, as a number. -/
def State.sysReadN (s : State) (sa n tag : Nat) : State × Nat × Bool :=
  let (s, d, p) := s.sysRead sa tag
  (s, (d >>> (8 * (sa % 64))) % 2 ^ (8 * n),
    ((List.range 16).any fun w => bitN p w && (4 * w < sa % 64 + n && sa % 64 < 4 * w + 4)))

/-- Writes n bytes at a system address, within one row, fresh. -/
def State.sysWriteN (s : State) (sa n v tag : Nat) : State :=
  s.sysWrite sa ((2 ^ n - 1) <<< (sa % 64)) (v <<< (8 * (sa % 64))) 0 tag

/-- Key of an SPM row and of a shared-array row in the race tables (R250). -/
def spmKey (n a : Nat) : Nat := 16384 * n + a % 2 ^ 20 / 64
def shaKey (sa : Nat) : Nat := 2 ^ 32 + saOff sa / 64

/-- Closes one row (R253). -/
def State.closeRow (s : State) (key : Nat) : State := { s with rows := tblErase s.rows key }

/-- Whether the open row was opened by an engine (ENG of Table 8.3). -/
def State.rowEng (s : State) (key : Nat) : Bool := match tblFind s.rows key with | some (_, e) => e | none => false

/-- Whether a row is open for another core (R252). -/
def State.openFor (s : State) (n key : Nat) : Bool :=
  match tblFind s.rows key with
  | some (o, _) => o ≠ n
  | none => false

/-- A release at GROUP scope or wider by core n closes every row of its list (R253). -/
def State.closeRows (s : State) (n : Nat) : State :=
  let s' := (s.core n).open_.foldl closeRow s
  if (s.core n).open_.isEmpty then s else s'.modCore n fun c => { c with open_ := [] }

/-- A plain access of core n to a row (R252): none is RACE. A store opens the row; a full list closes
its oldest entry first (R253). -/
def State.plain (s : State) (n key : Nat) (store eng : Bool) : Option State :=
  match tblFind s.rows key with
  | some (o, _) => if o = n then some s else none
  | none =>
    if !store then some s
    else
      let (s, l) := match (s.core n).open_ with
        | [] => (s, [])
        | k :: r => if 1024 ≤ r.length + 1 then (s.closeRow k, r) else (s, k :: r)
      some ({ s with rows := tblPut s.rows key (n, eng) }.modCore n fun c => { c with open_ := l ++ [key] })

/-- The leaf that maps a virtual address, by walking the tables from level l (R334, Table 11.10):
address of its entry, page base, page size, system address and W. Level sizes are 32 GiB, 1 GiB, 2 MiB, 64 KiB. -/
def State.walkFrom (va : Nat) : Nat → State → Nat → Nat → Nat → Nat → State × Option (Nat × Nat × Nat × Nat × Bool)
  | 0, s, _, _, _, _ => (s, none)
  | n + 1, s, table, idx, shift, _ =>
    let ea := table + 8 * idx
    if !s.saOk ea 8 || saDev ea ≠ s.devId || saLevel ea ≥ 2 then (s, none)
    else
      let (s, e, _) := s.sysReadN ea 8 0
      if !bitN e 0 then (s, none)
      else if bitN e 1 || n = 0 then
        let sa := e / 2 ^ 16 * 2 ^ 16
        if !bitN e 1 || bitsN e 3 13 ≠ 0 || sa % 2 ^ shift ≠ 0 || !s.saOk sa (2 ^ shift) then (s, none)
        else (s, some (ea, va / 2 ^ shift * 2 ^ shift, 2 ^ shift, sa, bitN e 2))
      else
        let nt := e / 2 ^ 8 * 2 ^ 8
        let (ns, entries) := if shift = 35 then (30, 32) else if shift = 30 then (21, 512) else (16, 32)
        if bitsN e 3 5 ≠ 0 || nt % (8 * entries) ≠ 0 then (s, none)
        else walkFrom va n s nt (va / 2 ^ ns % entries) ns entries

/-- A page walk of partition p (R198, R334), with the leaf's own address. -/
def State.walkLeaf (s : State) (p va : Nat) : State × Option (Nat × Nat × Nat × Nat × Bool) :=
  let x := s.part p
  if va ≥ 2 ^ 57 || va / 2 ^ 35 ≥ x.rootn || x.root % (8 * x.rootn) ≠ 0 then (s, none)
  else walkFrom va 4 s x.root (va / 2 ^ 35) 35 0

/-- A page walk: page base, page size, system address and W. -/
def State.walk (s : State) (p va : Nat) : State × Option (Nat × Nat × Nat × Bool) :=
  let (s, r) := s.walkLeaf p va
  (s, r.map Prod.snd)

/-- A TLB entry that maps va for partition p. -/
def tlbFind (l : List TlbE) (p va : Nat) : Option TlbE :=
  l.find? fun e => e.part = p && e.va ≤ va && va < e.va + e.size

/-- Keeps the newest n entries: R199 names no entry that a full TLB drops. DESIGN CHOICE (log 58). -/
def tlbAdd (n : Nat) (l : List TlbE) (e : TlbE) : List TlbE := (e :: l).take n

/-- A walk for context x of a core: fills the core's and the die's TLB (R199). -/
def State.walkFill (s : State) (n x p va : Nat) : State × Option TlbE :=
  match tlbFind (s.die (dieOf n)).tlb p va with
  | some e => (s.modCore n fun c => { c with tlb := tlbAdd 256 c.tlb e }, some e)
  | none =>
    let s := s.perf n 20 x none 1
    match s.walk p va with
    | (s, none) => (s, none)
    | (s, some (b, z, sa, w)) =>
      let e : TlbE := ⟨p, b, z, sa, w⟩
      ((s.modDie (dieOf n) fun d => { d with tlb := tlbAdd 16384 d.tlb e }).modCore n
        fun c => { c with tlb := tlbAdd 256 c.tlb e }, some e)

/-- Tile base and size in bytes of a tile descriptor (Table 11.8). -/
def tileBase (w : Word) : Nat := bitsN w.toNat 0 41 * 65536
def tileSize (w : Word) : Nat := 2 ^ (16 + bitsN w.toNat 41 5)

/-- Whether an address lies in the write tile of an entry that begins at base. -/
def Dep.inWrites (e : Dep) (base va : Nat) : Bool :=
  e.rcd.writes.any fun (b, z) => b = base && b ≤ va && va < b + 2 ^ (16 + z)

/-- The overlay that a task sees for a virtual address (R199, R331): its own instance's block first,
else the newest overlay that entered no later than it. none: base mapping. -/
def State.overlayOf (s : State) (t : Task) (va : Nat) : Option Nat :=
  match s.dep? t.part t.tid with
  | none => none
  | some e =>
    let own := (e.insts.find? fun i => i.no = t.inst).bind fun i =>
      i.blocks.find? fun (b, _) => e.inWrites b va
    match own with
    | some (b, blk) => some (blk + (va - b))
    | none =>
      let seen := (s.part t.part).overlays.filter fun o =>
        o.order ≤ e.order && o.tile ≤ va && va < o.tile + o.size && o.owner ≠ t.tid
      match seen.foldl (fun (m : Option Overlay) o =>
          match m with | none => some o | some x => if x.order ≤ o.order then some o else m) none with
      | some o => o.block.map fun b => b + (va - o.tile)
      | none => none

/-- System address and W of va under a base leaf, for a task (R199). -/
def State.leafAddr (s : State) (t : Task) (e : TlbE) (va : Nat) : Nat × Bool :=
  ((s.overlayOf t va).getD (e.sa + (va - e.va)), e.w)

/-- The context number under which a core works for a task: that of its context, or of its tracker entry. -/
def Core.ctxNo (c : Core) (t : Task) : Nat :=
  match (List.range 4).find? fun x => (c.ctx x).runs t with
  | some x => x
  | none => match c.tracker.find? fun e => e.task.same t with | some e => e.ctx | none => 0

/-- Translation by an engine or the hub: TLB or walk (R198, R199). none is TRANSLATION. -/
def State.translate (s : State) (n : Nat) (t : Task) (va : Nat) : State × Option (Nat × Bool) :=
  if va ≥ 2 ^ 57 then (s, none)
  else match tlbFind (s.core n).tlb t.part va with
    | some e => (s, some (s.leafAddr t e va))
    | none =>
      let x := (s.core n).ctxNo t
      match (s.perf n 19 x none 1).walkFill n x t.part va with
      | (s, none) => (s, none)
      | (s, some e) => (s, some (s.leafAddr t e va))

/-- Whether bytes lie in the code range of an image. -/
def Snap.code (x : Snap) (va len : Nat) : Bool :=
  let b := x.img + x.codeOff
  va < b + x.codeSize && b < va + len

/-- Whether bytes lie in the code range of an image that a launch runs: the launch record's, or that of a TASKQ record
of the launch (R31, R326). -/
def Launch.inCode (l : Launch) (va len : Nat) : Bool :=
  l.snap.code va len || l.codes.any fun (b, n) => va < b + n && b < va + len

/-- Whether bytes lie in the code range of an image that the task's launch runs, or of its own kernel's (R31). -/
def State.inCode (s : State) (t : Task) (va len : Nat) : Bool :=
  t.snap.code va len || match s.launch? t.launch with | some l => l.inCode va len | none => false

/-- Whether a virtual address lies in a write tile that the instance has renamed (R316). -/
def State.inRenamed (s : State) (t : Task) (va : Nat) : Bool :=
  match s.dep? t.part t.tid with
  | none => false
  | some e =>
    match e.insts.find? fun i => i.no = t.inst with
    | none => false
    | some i => i.blocks.any fun (b, _) => e.inWrites b va

/-- Folds of R173. -/
def sigP : Nat := 2 ^ 61 - 1
def sigFold (x v : Nat) : Nat := (x * (2 ^ 31 + 11) + v % 2 ^ 64 % sigP) % sigP

/-- One contained store's term of the task signature (R185): w.vaddr, w.bytes, the data in chunks. -/
def storeTerm (va len data : Nat) : Nat :=
  (List.range (ceilDiv len 8)).foldl
    (fun t c => sigFold t ((data % 2 ^ (8 * len) >>> (64 * c)) % 2 ^ 64)) (sigFold (sigFold 0 va) len)

/-- A store of a protected instance enters its signature (R185). -/
def State.signStore (s : State) (t : Task) (va len data : Nat) : State :=
  if t.cls = 0 then s else s.modInst t fun i => { i with sum := (i.sum + storeTerm va len data) % sigP }

/-- Bytes contained by an instance outside its write set (R316). -/
def Inst.held (i : Inst) : Nat := 64 * i.rows.length

/-- Bytes contained on a die (R316). -/
def State.dieHeld (s : State) (d : Nat) : Nat :=
  s.deps.foldl (fun n e => e.insts.foldl (fun n i => if dieOf i.core = d then n + i.held else n) n) 0

/-- Contained entry of a row, merged over memory for the instance's own reads (R316). -/
def State.overContained (s : State) (t : Task) (sa data pois : Nat) : Nat × Nat :=
  match (s.inst? t).bind fun i => i.rows.find? fun r => r.sa = sa / 64 * 64 with
  | none => (data, pois)
  | some r =>
    let covered := (List.range 16).foldl (fun m w => if bitsN r.mask (4 * w) 4 = 15 then m ||| 2 ^ w else m) 0
    (mergeBytes r.mask data r.data, (pois &&& (allPoison - covered)) ||| r.poison)

/-- Outcome of a contained store (R316). -/
inductive Contain where
  | ok (s : State)
  | full
  | shortage
  deriving DecidableEq, Repr

/-- Sets bits in the CIR of a task, in its context or, once TAIL has freed that, in its tracker entry (R120, R179). -/
def State.taskCir (s : State) (n x : Nat) (t : Task) (b : Nat) : State :=
  if ((s.core n).ctx x).runs t then s.modCtx ⟨n, x, .c⟩ fun y => y.setCir b
  else s.modCore n fun c =>
    { c with tracker := c.tracker.map fun e => if e.ctx = x && e.task.same t then { e with cir := e.cir ||| b } else e }

/-- A contained store of a protected instance outside its renamed tiles: one entry a row (R316), CPRESS above 448 KiB,
CONTAIN_FULL above 512 KiB, a stall when the die's 8 MiB are gone. DESIGN CHOICE (log 92): a CHKERR between two rows
that are both above the limit leaves the second to set CPRESS again. -/
def State.contain (s : State) (t : Task) (sa va mask data pois : Nat) : Contain :=
  match s.inst? t with
  | none => .full
  | some i =>
    let row := sa / 64 * 64
    let fresh := !(i.rows.any fun r => r.sa = row)
    if fresh && i.held + 64 > 524288 then .full
    else if fresh && s.dieHeld (dieOf i.core) + 64 > 8388608 then .shortage
    else
      let e : CRow := (i.rows.find? fun r => r.sa = row).getD ⟨row, va / 64 * 64, 0, 0, 0, s.accNext⟩
      let cov := (List.range 16).foldl (fun m w => if bitsN mask (4 * w) 4 = 15 then m ||| 2 ^ w else m) 0
      let e := { e with mask := e.mask ||| mask, data := mergeBytes mask e.data data,
                        poison := (e.poison &&& (allPoison - cov)) ||| pois }
      let s := s.modInst t fun i => { i with rows := e :: i.rows.filter (fun r => r.sa ≠ row) }
      let s := if fresh then s.perf i.core 22 i.ctx none 1 else s
      .ok (if fresh && i.held + 64 > 458752 then
            s.taskCir i.core i.ctx t 8 else s)

end Sys2Proof.Machine
end

