-- ==== Sys2Proof/Machine/Ops.lean ====
section
/-! DEFINITION. The named operations every meaning uses: results in flight and their landing (R26),
tokens (R23), hardware-loop ends (R100 to R103), taking a fault (R71, R366 to R372) and how one word
issues: checks, stalls, effect, spacing (R63, R71, R93, R104). -/

namespace Sys2Proof.Machine

/-- A register a word reads, for the interlock of R27. -/
inductive Loc where
  | s (n : Nat) | p (n : Nat) | a (n : Nat) | mode (n : Nat) | mb (n : Nat) | k (n : Nat)
  | fr (off len : Nat) | sp (n : Nat)
  deriving DecidableEq, Repr

/-- Whether a result in flight lands in a register read. -/
def Res.hits : Res → Loc → Bool
  | .scal r _, .s n => r = n
  | .pred p _, .p n => p = n
  | .areg r _, .a n => r = n
  | .mode r _, .mode n => r = n
  | .base r _, .mode n => r = n
  | .inc r _, .mode n => r = n
  | .mbuf r _ _, .mb n => r = n
  | .mask r _ _, .k n => r = n
  | .frame o n _ _, .fr off len => o < off + len && off < o + n
  | .spec r _, .sp n => r = n
  | _, _ => false

/-- Changes the row with an identity of a queue. -/
def fillRow (l : List QRow) (id data poison : Nat) : List QRow :=
  l.map fun r => if r.id = id then { r with filled := true, data := data, poison := poison } else r

/-- Completes a barrier phase when its arrivals reach the count (R96): every arriver is freed, and issues its BAR
in a later cc that it owns; the phase synchronises each with all (R239). -/
def State.barrierCheck (s : State) (d b : Nat) : State :=
  let die := s.die d
  let l := die.arrivers b
  if l.isEmpty || l.length < die.barCount b then s
  else
    l.foldl (fun s k => s.modClu k fun c => { c with barNext := true })
      ((s.meetAll l).modDie d fun x => { x with barr := tblErase x.barr b })

/-- Writes a special register by number (Table 4.2): RMODE, the generator, loop counters, BCNT. -/
def State.setSpecial (s : State) (k : Who) (n : Nat) (v : Word) : State :=
  if n = 1 then s.modClu k fun c => { c with rmode := v.truncate 2 }
  else if n = 2 then s.modClu k fun c => { c with seed := v }
  else if n = 3 then s.modClu k fun c => { c with stream := v.truncate 32 }
  else if n = 4 then s.modClu k fun c => { c with ctr := v }
  else if 0x10 ≤ n && n < 0x13 then s.modClu k fun c => { c with lc := tblPut c.lc (n - 0x10) v }
  else if 0x100 ≤ n && n < 0x110 then
    (s.modDie (dieOf k.core) fun d => { d with bcnt := tblPut d.bcnt (n - 0x100) v.toNat }).barrierCheck
      (dieOf k.core) (n - 0x100)
  else s

/-- Lands one result of cluster k (R26, R146, R179). A row pushed into a data queue releases what the cluster has done
to the word that pops it (R236). -/
def State.land (k : Who) (s : State) : Res → State
  | .scal r v => s.modClu k fun c => c.setS r v
  | .pred p v => s.modClu k fun c => c.setP p v
  | .areg n v => s.modClu k fun c => { c with a := tblPut c.a n v }
  | .mode n v => s.modClu k fun c => { c with mode := tblPut c.mode n v }
  | .base n v => s.modClu k fun c => { c with base := tblPut c.base n v }
  | .inc n v => s.modClu k fun c => { c with inc := tblPut c.inc n v }
  | .mbuf n v m => s.modClu k fun c =>
      { c with mb := tblPut c.mb n ((c.mbuf n &&& (2 ^ 512 - 1 - m)) ||| (v &&& m)) }
  | .frame off n v m => s.modCore k.core fun c =>
      let a := (c.ctx k.ctx).fo + off
      { c with frame := c.frame.writeN a n ((c.frame.readN a n &&& (2 ^ (8 * n) - 1 - m)) ||| (v &&& m)) }
  | .mask n v m => s.modClu k fun c =>
      { c with k := tblPut c.k n ((c.mask n &&& (2 ^ 1024 - 1 - m)) ||| (v &&& m)) }
  | .lrow q id d p => (s.hand (.clu k) (.row k.core k.ctx id)).modCtx k fun x =>
      { x.setCir (if p = 0 then 0 else 1) with lq := tblPut x.lq q (fillRow (x.lrows q) id d p) }
  | .srow q id d => (s.hand (.clu k) (.row k.core k.ctx id)).modCtx k fun x => { x with sq := tblPut x.sq q (fillRow (x.srows q) id d 0) }
  | .spec n v => s.setSpecial k n v
  | .view n v => s.modCtx k fun x => { x with views := tblPut x.views n v }
  | .cir b => s.modCtx k fun x => x.setCir b
  | .sig n v => s.modClu k fun c =>
      { c with sig := tblPut c.sig n (match v with | none => 0 | some l => l.foldl sigFold (tblGet 0 c.sig n)) }
  | .inv n v => s.modClu k fun c =>
      { c with inv := tblPut c.inv n (match v with | none => Inv.empty | some d => (c.invOf n).merge d) }
  | .prov n => s.modCtx k fun x => { x with prov := tblErase x.prov n }

/-- Whether a flight has arrived by sc n. -/
def Flight.due (n : Nat) (f : Flight) : Bool := f.vis ≤ n && f.real ≤ n

/-- The place of a flight among flights in the order in which they become visible; of one sc, in issue order (R26). -/
def Flight.among (f : Flight) : List Flight → List Flight
  | [] => [f]
  | g :: r => if f.vis < g.vis then f :: g :: r else g :: f.among r
def byVis (l : List Flight) : List Flight := l.foldl (fun l f => f.among l) []

/-- What is left of a late result once one that is visible after it has landed (R26, R27): the same register keeps the
later value. -/
def Res.under (r : Res) (g : Res) : Option Res :=
  let rest (f : Nat → Res) (m x : Nat) : Option Res := let l := m - (m &&& x); if l = 0 then none else some (f l)
  match r, g with
  | .scal a _, .scal b _ => if a = b then none else some r
  | .pred a _, .pred b _ => if a = b then none else some r
  | .areg a _, .areg b _ => if a = b then none else some r
  | .mode a _, .mode b _ => if a = b then none else some r
  | .base a _, .base b _ => if a = b then none else some r
  | .inc a _, .inc b _ => if a = b then none else some r
  | .spec a _, .spec b _ => if a = b then none else some r
  | .view a _, .view b _ => if a = b then none else some r
  | .mbuf a v m, .mbuf b _ x => if a = b then rest (.mbuf a v) m x else some r
  | .mask a v m, .mask b _ x => if a = b then rest (.mask a v) m x else some r
  | .frame o n v m, .frame p _ _ x => rest (.frame o n v) m ((x <<< (8 * p)) >>> (8 * o))
  | _, _ => some r

/-- A late flight f of a delay line behind those results of flight g that p names, if g becomes visible after it
(R26). -/
def Flight.under (p : Res → Bool) (dl : List Flight) (f g : Flight) : Flight :=
  if f.vis < g.vis || (f.vis = g.vis && (dl.dropWhile (· ≠ f)).contains g) then
    { f with res := (g.res.filter p).foldl (fun l y => l.filterMap fun r => r.under y) f.res }
  else f

/-- What stays in a delay line when the results due in sc n have landed. -/
def linesLeft (dl : List Flight) (n : Nat) : List Flight :=
  let due := dl.filter (Flight.due n)
  (dl.filter fun f => !Flight.due n f).map fun f => if f.vis ≤ n then due.foldl (Flight.under (fun _ => true) dl) f else f

/-- Lands what is due in sc n of cluster k, in the order in which it becomes visible (R26, R27). -/
def State.landBy (s : State) (k : Who) (n : Nat) : State :=
  let due := (s.clu k).dl.filter (Flight.due n)
  if due.isEmpty then s
  else
    (byVis due).foldl (fun s f => f.res.foldl (State.land k) s) (s.modClu k fun c => { c with dl := linesLeft c.dl n })

/-- Lands what is due in the present sc of cluster k (R26). -/
def State.landDue (s : State) (k : Who) : State := s.landBy k (s.clu k).sc

/-- Whether more than its cluster reads a result. -/
def Res.shared : Res → Bool
  | .frame .. => true | .lrow .. => true | .srow .. => true | .view .. => true | .cir .. => true | .prov .. => true
  | .spec n _ => 0x100 ≤ n
  | _ => false

/-- Frame bytes that a result takes the place of. -/
def State.frameUnder (s : State) (k : Who) : Res → Nat
  | .frame off n _ _ => (s.core k.core).frame.readN ((s.ctxOf k).fo + off) n
  | _ => 0

/-- A shared result lands before its cluster's next sc. -/
def State.landEarly (k : Who) (f : Flight) (s : State) (r : Res) : State :=
  (State.land k s r).modClu k fun c => { c with early := c.early ++ [({ f with res := [r] }, s.frameUnder k r)] }

/-- At the start of a cc, the shared results that are visible from the cluster's next sc on land (R26): from this cc on
another cluster that a token, flag or SYNC group orders after them sees them too (R128, R149, R236). -/
def State.landNext (s : State) (k : Who) : State :=
  let dl := (s.clu k).dl
  let n := (s.clu k).sc + 1
  let due := dl.filter fun f => Flight.due n f && f.res.any Res.shared
  if due.isEmpty then s
  else
    let rest (f : Flight) : Flight :=
      if Flight.due n f then { f with res := f.res.filter fun r => !r.shared }
      else if f.vis ≤ n then due.foldl (Flight.under Res.shared dl) f else f
    (byVis due).foldl (fun s f => (f.res.filter Res.shared).foldl (State.landEarly k f) s)
      (s.modClu k fun c => { c with dl := (dl.map rest).filter fun f => !f.res.isEmpty })

/-- Puts results of the word now issuing into the delay line, visible after the latency the image
states for the class, and delivered after the die's own, or extra sc later (R26, R27, R208). -/
def State.laterBy (s : State) (extra cls : Nat) (res : List Res) : State :=
  if res.isEmpty then s
  else
    let n := s.lat cls
    let own := s.ownLatency (dieOf s.cur.core) cls
    s.modMe fun c => { c with dl := c.dl ++ [⟨c.sc + n, c.sc + Nat.max n own + extra, res, cls⟩] }

/-- Results at the latency of the class. -/
def State.later (s : State) (cls : Nat) (res : List Res) : State := s.laterBy 0 cls res

/-- Results visible n sc after issue whatever the image states (words of no class: R125 to R128). -/
def State.laterN (s : State) (n : Nat) (res : List Res) : State :=
  if res.isEmpty then s
  else s.modMe fun c => { c with dl := c.dl ++ [⟨c.sc + n, c.sc + n, res, 31⟩] }

/-- Queue that cluster k fills towards its left or right neighbour. -/
def outQueue (k : Clu) (right : Bool) : Nat := 2 * k.num + (if right then 1 else 0)

/-- Queues that WAIT pops for cluster k: the neighbour's queue towards it (R23). -/
def waitQueues (k : Clu) (w : BitVec 2) : List Nat :=
  (if w.getLsbD 0 then [outQueue k.left true] else []) ++
  (if w.getLsbD 1 then [outQueue k.right false] else [])

/-- Queues that SIG pushes for cluster k. -/
def sigQueues (k : Clu) (w : BitVec 2) : List Nat :=
  (if w.getLsbD 0 then [outQueue k false] else []) ++ (if w.getLsbD 1 then [outQueue k true] else [])

def Ctx.popTok (x : Ctx) (q : Nat) : Ctx := { x with tok := tblPut x.tok q (x.tokens q - 1) }
def Ctx.pushTok (x : Ctx) (q : Nat) : Ctx := { x with tok := tblPut x.tok q (x.tokens q + 1) }

/-- Whether every named queue holds a token; whether every one has room. -/
def Ctx.hasTok (x : Ctx) (qs : List Nat) : Bool := qs.all fun q => 0 < x.tokens q
def Ctx.roomTok (x : Ctx) (qs : List Nat) : Bool := qs.all fun q => x.tokens q < 15

/-- Makes held pushes of a cluster in the order they fell due, as far as there is room (R23). -/
def makePushes (k : Clu) : List (BitVec 2) → Ctx → Ctx × List (BitVec 2)
  | [], x => (x, [])
  | w :: r, x =>
    let go (x : Ctx) (w : BitVec 2) (bit : Nat) : Ctx × BitVec 2 :=
      if w.getLsbD bit && x.tokens (outQueue k (bit = 1)) < 15 then
        (x.pushTok (outQueue k (bit = 1)), w &&& ~~~(1#2 <<< bit))
      else (x, w)
    let (x, w) := go x w 0
    let (x, w) := go x w 1
    if w = 0 then makePushes k r x else (x, w :: r)

/-- The tokens from the a-th up to the b-th of a queue come from cluster k (R236). -/
def State.handToks (s : State) (k : Who) (q a b : Nat) : State :=
  (List.range (b - a)).foldl (fun s j => s.hand (.clu k) (.tok k.core k.ctx q (a + j))) s

/-- A cluster makes its pushes that are due, and keeps those that find no room (R23); a push releases (R236). -/
def State.pushTokens (s : State) (k : Who) (due : List (BitVec 2)) : State :=
  let x := s.ctxOf k
  let t := s.modCtx k fun x =>
    let (x, left) := makePushes k.clu due x
    x.modClu k.clu fun c => { c with held := left }
  (sigQueues k.clu 3#2).foldl (fun t q => t.handToks k q (x.tokens q) ((t.ctxOf k).tokens q)) t

/-- At the end of a cc, pushes whose word's latency has ended fall due and are made (R23). -/
def State.pushDue (s : State) (k : Who) : State :=
  let c := s.clu k
  let due := c.sigs.filter fun e => e.1 ≤ c.sc
  if due.isEmpty && c.held.isEmpty then s
  else
    (s.modClu k fun c => { c with sigs := c.sigs.filter fun e => !(e.1 ≤ c.sc) }).pushTokens k
      (c.held ++ due.map fun e => e.2.1)

/-- Whether a dump entry can hold a result (Table 13.5). -/
def Res.dumps : Res → Bool
  | .scal .. => true | .pred .. => true | .frame .. => true | .lrow .. => true | .srow .. => true | .areg .. => true
  | .spec n _ => n < 0x100 | .mask .. => true
  | _ => false

/-- What a fault reports beside its code (Table 13.2). -/
structure FaultInfo where
  code : Nat
  addr : Word := 0
  trap : Nat := 0
  stat : Nat := 0
  fidx : Nat := 0
  cseq : Nat := 0
  brpc : W32 := 0
  /-- ENG of the open row that a RACE met (Table 8.3) -/
  eng : Bool := false
  deriving DecidableEq, Repr

/-- Whether a flag is set, and no AWAIT has taken it in this cc (R95). -/
def Ctx.flagFree (x : Ctx) (f : Nat) : Bool := x.flag f && !x.fclears.contains f

/-- The flag that a cluster's next word, an AWAIT, still waits for (R363). -/
def State.awaited (s : State) (k : Who) : Option Nat :=
  match s.nextGroup k with
  | .ok (.await _ f) => if (s.ctxOf k).flagFree f.toNat then none else some f.toNat
  | _ => none

/-- Stops one cluster of a context and writes its stop record (R368, R372, R416). An ended cluster
records KIND 7; one that already stopped keeps its record. -/
def State.stopCluster (s : State) (k : Who) (code kind : Nat) (f : FaultInfo) : State :=
  let c := s.clu k
  let x := s.ctxOf k
  if c.run = .stopped then s
  else
    let gone := c.run = .ended || c.run = .tailed
    let kind := if gone && code = 0 then 7 else kind
    let r : StopRec :=
      { code := code, kind := kind, unit := k.clu.num, dump := false, pc := c.pc,
        task := (s.taskOf k).tid, addr := f.addr, brpc := f.brpc, trap := f.trap,
        flag := if c.run = .run then s.awaited k else none, cseq := f.cseq % 2 ^ 48, fidx := f.fidx, stat := f.stat, loc := c.sc,
        eng := f.eng }
    let s := s.modClu k fun c => { c with run := .stopped, stop := { r with cseq := x.popped % 2 ^ 48 } }
    if code = 0 then s else s.traceClu k 6 (BitVec.ofNat 64 (code + c.pc.toNat * 2 ^ 32))

/-- Whether the halt line of a partition is raised (R368), whoever has seen it. -/
def Part.line (p : Part) : Bool := p.run = .halting || !p.raised.isEmpty || p.first.isSome

/-- Raises the halt line of a partition with a fault of a unit (R368, R371). -/
def State.raiseLine (s : State) (p code : Nat) (k : Who) (unit : Nat) : State :=
  s.modPart p fun x =>
    if x.run = .halted || x.run = .resetting then x
    else { x with raised := x.raised ++ [(code, dieOf k.core, k.core % 16, k.ctx, unit)] }

/-- The halt line, or Vigil, stops a cluster (R368, R370, R372): one that a debug stop or a trap has stopped keeps its
record. -/
def State.haltCluster (s : State) (k : Who) : State :=
  if (s.clu k).stop.kind = 5 || (s.clu k).run = .trapped then s.modClu k fun c => { c with run := .stopped }
  else s.stopCluster k 0 4 { code := 0 }

/-- The other clusters of an instance whose fault Vigil absorbs stop (R370); the instance has not
passed (R186). -/
def State.absorb (s : State) (k : Who) : State :=
  let s := k.clusters.foldl haltCluster s
  match (s.ctxOf k).task with
  | none => s
  | some t => s.modInst t fun i => { i with st := .failed }

/-- What follows a fault of a task (R367): Vigil absorbs CHECK_FAIL in SIG and DUP; every other one
raises the halt line. -/
def State.taskFault (s : State) (k : Who) (unit code : Nat) : State :=
  let t := s.taskOf k
  if code = fCheckFail && t.cls ≠ 0 then s.absorb k else s.raiseLine t.part code k unit

/-- TAKING A PRECISE FAULT (R71, R367, R368): the faulting group has no effect, the cluster stops at
its first word with its stop record, and the line is raised or Vigil absorbs. A failed walk that is
reported is no longer owed (R200). -/
def State.precise (s : State) (f : FaultInfo) : State :=
  let s := if f.code = fTranslation then
      s.modMyCore fun x => { x with walkBad := x.walkBad.filter (· ≠ (s.myTask.part, f.addr.toNat / 65536)) } else s
  (s.stopCluster s.cur f.code 1 f).taskFault s.cur s.cur.clu.num f.code

/-- A fault reported for the task: recorded in its C cluster with KIND 3 (R416). -/
def State.faultTask (s : State) (k : Who) (f : FaultInfo) : State :=
  let kc : Who := { k with clu := .c }
  let c := s.clu kc
  let s := if c.run = .ended || c.run = .tailed then s.modClu kc fun c => { c with run := .run } else s
  (s.stopCluster kc f.code 3 f).taskFault k 0 f.code

/-- A fault for a task whose context has been freed: the stop record of the C cluster that it had, if no other task has
the context and the cluster holds none yet; a trace record; and the line (R361, R367, R412, R416). DESIGN CHOICE
(log 76). -/
def State.faultGone (s : State) (k : Who) (t : Task) (f : FaultInfo) : State :=
  let kc : Who := { k with clu := .c }
  let e := (s.core k.core).tracker.find? fun e => e.ctx = k.ctx && e.task.same t
  let pc := (e.map fun e => e.pc).getD 0
  let loc := (e.map fun e => e.loc).getD 0
  let r : StopRec :=
    { code := f.code, kind := 3, unit := 0, dump := false, pc := pc, task := t.tid, addr := f.addr, brpc := 0, trap := 0,
      flag := none, cseq := (e.map fun e => e.cseq).getD 0 % 2 ^ 48, fidx := f.fidx, stat := f.stat, loc := loc, eng := f.eng }
  let s := if (s.ctxOf k).task.isNone && (s.clu kc).stop = StopRec.zero then s.modClu kc fun c => { c with stop := r } else s
  (s.traceRec kc 0 6 loc t.tid (BitVec.ofNat 64 (f.code + pc.toNat * 2 ^ 32))).raiseLine t.part f.code k 0

/-- A fault of an access that is performed after its word: it stops the task that made it (R252, R416, log 57). -/
def State.faultLate (s : State) (k : Who) (t : Task) (f : FaultInfo) : State :=
  if (s.ctxOf k).runs t then s.faultTask k f else s.faultGone k t f

/-- The effect of a word that issues: a fault, a stall before issue (with what a request changes), or
the state it leaves and where control goes. -/
inductive Next where
  | seq
  /-- to an offset, which may lie outside any code section; ends: loops that do not hold the target end (R102) -/
  | jump (t : Int) (ends : Bool)
  /-- to an offset without a branch: a skipped loop, BRKL (R98, R118) -/
  | goto (t : W32)
  /-- the stream ends (R119, R120) -/
  | ended (r : Run)
  deriving DecidableEq, Repr

inductive Act where
  | fault (f : FaultInfo)
  /-- a fault whose entry lets one effect of the word stand (R171) -/
  | faultIn (s : State) (f : FaultInfo)
  | stall (w : Wait) (s : State)
  | done (s : State) (n : Next)

/-- What a word does beside, if it issues. -/
def Act.also (f : State → State) : Act → Act
  | .done s n => .done (f s) n
  | a => a

/-- How a word's SIG field acts (R23): at the end of its latency, at an engine's completion or by the
word's own rule (nothing here), or after a number of sc. -/
inductive SigBy where
  | latency
  | own
  deriving DecidableEq, Repr

/-- One word's meaning: registers it reads, how it signals, its effect. -/
structure Meaning where
  reads : List Loc
  sig : SigBy
  act : State → Act

/-- A plain word: reads, effect; signals by latency. -/
def meaning (reads : List Loc) (act : State → Act) : Meaning := ⟨reads, .latency, act⟩

/-- A word that computes results of a class and goes on. -/
def compute (reads : List Loc) (cls : Nat) (f : State → List Res) : Meaning :=
  meaning reads fun s => .done (s.later cls (f s)) .seq

/-- Ends loops whose body does not contain a branch target (R102). DESIGN CHOICE (log 90): from the innermost
outwards, as far as the first that contains it; a loop around that one goes on. -/
def Cluster.leaveLoops : Nat → Cluster → Int → Cluster
  | 0, c, _ => c
  | n + 1, c, t =>
    if c.ldepth = 0 then c
    else
      let l := c.ldepth - 1
      if ((c.lsOf l).toNat : Int) ≤ t && t ≤ (c.leOf l).toNat then c
      else
        let own : Bool := match c.loopp with | some (lv, _, _) => lv = l | none => false
        let c' : Cluster :=
          if own then { c with ldepth := l, loopp := none, stg := 0, stopping := false }
          else { c with ldepth := l }
        Cluster.leaveLoops n c' t

/-- Words of a body, and whether its loop-back costs two empty sc (R101). -/
def Cluster.longBody (c : Cluster) (l : Nat) : Bool := (c.leOf l).toNat + 4 - (c.lsOf l).toNat > 1024

/-- What follows the word at offset w in sequence (R100, R103): the next word, a loop-back, a pass
end, or exits of loops that end here. -/
def Cluster.afterWord : Nat → Cluster → Nat → Cluster
  | 0, c, w => { c with pc := BitVec.ofNat 32 (w + 4) }
  | n + 1, c, w =>
    if c.ldepth = 0 || (c.leOf (c.ldepth - 1)).toNat ≠ w then { c with pc := BitVec.ofNat 32 (w + 4) }
    else
      let l := c.ldepth - 1
      let lc := c.lcOf l
      let back (c : Cluster) : Cluster :=
        if c.longBody l then { c with pc := c.lsOf l, gap := c.gap + 2, lgap := 2 } else { c with pc := c.lsOf l }
      match (match c.loopp with | some (lv, st, g) => if lv = l then some (st, g) else none | none => none) with
      | some (st, g) =>
        let goOn := lc ≠ 0 && !c.stopping && !c.draining
        let stg : Nat := (2 * c.stg.toNat + (if goOn then 1 else 0)) % 2 ^ st
        let c := if goOn then { c with lc := tblPut c.lc l (lc - 1) } else c
        if stg ≠ 0 then back { c with stg := BitVec.ofNat 8 stg }
        else
          let broken := c.stopping
          let c := { c with stg := 0, ldepth := l, loopp := none, stopping := false, draining := false }
          if c.lcOf l ≠ 0 && !broken then
            { c with pc := BitVec.ofNat 32 (w + 4), atBack := true, drained := some (l, st, g) }
          else { Cluster.afterWord n c w with atBack := true }
      | none =>
        if lc.toNat ≤ 1 then Cluster.afterWord n { c with lc := tblPut c.lc l 0, ldepth := l } w
        else back { c with lc := tblPut c.lc l (lc - 1), atBack := true }

/-- Words of prefix before the instruction word. -/
def leadOf (i : Instr) : Nat := (if i.imm.isSome then 1 else 0) + (if i.modf.isSome then 1 else 0)

/-- Offset of the instruction word itself (R114, R91). -/
def State.wordPc (s : State) (i : Instr) : Nat := s.me.pc.toNat + 4 * leadOf i

/-- Whether the word at offset w lies in a stage group of the active LOOPP whose STG bit is 0
(R104). -/
def Cluster.idleStage (c : Cluster) (w : Nat) : Bool :=
  match c.loopp with
  | none => false
  | some (l, _, g) =>
    let ls := (c.lsOf l).toNat
    if ls ≤ w && w ≤ (c.leOf l).toNat then !(c.stg.getLsbD ((w - ls) / 4 / g)) else false

/-- Empty sc that the ISS field asks for (R63). -/
def issGap (h : Hdr) : Nat := if h.iss = 1 then 1 else if h.iss = 2 then 3 else 0

/-- The latency that times a word's SIG push: its class's, or 1 sc (R23, R63). -/
def State.sigLatency (s : State) (i : Instr) : Nat :=
  match i.latClass with
  | some c => s.lat c
  | none => 1

/-- The word at offset w has issued: spacing, loop ends, next offset (R63, R97 to R103). -/
def State.retireAt (s : State) (w : Nat) (h : Hdr) (n : Next) : State :=
  let c := s.me
  let c := { c with wait := none, waited := 0, asked := false, answer := none, barGo := false,
                    hadFlag := false, gap := issGap h, lgap := 0, away := h.iss = 3, brpc := 0, atBack := false }
  let c := match n with
    | .seq => c.afterWord 4 w
    | .jump t ends =>
      let c := if ends then c.leaveLoops 3 t else c
      { c with pc := BitVec.ofInt 32 t, out := t < 0 || 2 ^ 32 ≤ t, brpc := BitVec.ofNat 32 w }
    | .goto t => { c with pc := t }
    | .ended r => { c with run := r, ldepth := 0, loopp := none, stg := 0, stopping := false }
  (if issGap h < c.gap then s.perfMe 9 else s).modMe fun _ => c

/-- The instruction word of a group has issued. -/
def State.retire (s : State) (i : Instr) (h : Hdr) (n : Next) : State := s.retireAt (s.wordPc i) h n

/-- The performance event that a stall counts (Table 12.6). -/
def Wait.event : Wait → Option Nat
  | .token => some 3 | .push => some 3 | .queue => some 4 | .flag _ => some 5 | .barrier _ => some 5
  | .mark => some 5 | .interlock => some 6 | .full => some 10
  | _ => none

/-- A stall before issue (R93); the sc that it takes is counted where the schedule cycle is made. -/
def State.stallOn (s : State) (w : Wait) : State := s.modMe fun c => { c with wait := some w }

/-- Units a cluster accepts (Table 3.3); FMTPUSH only in C (R66). -/
def unitOk (k : Clu) (i : Instr) : Bool :=
  match i.unit? with
  | none => false
  | some .sc => true
  | some .en => match i with | .fmtpush .. => k = .c | _ => true
  | some .ac => k = .a
  | some .ve => k = .v
  | some .mx => k = .m
  | some .ck => k = .c || k = .v
  | some .sy => k = .c

/-- Whether the word at offset w is the last of a stage group of the active LOOPP (R103). -/
def Cluster.endsStage (c : Cluster) (w : Nat) : Bool :=
  match c.loopp with
  | none => false
  | some (l, _, g) =>
    let ls := (c.lsOf l).toNat
    ls ≤ w && w ≤ (c.leOf l).toNat && ((w - ls) / 4) % g = g - 1

/-- A prefix word as the last word of an active loop body or of a valid stage group (R71 row 6,
R104). -/
def Cluster.prefixAtEnd (c : Cluster) (lead : Nat) : Bool :=
  (List.range lead).any fun j =>
    let w := c.pc.toNat + 4 * j
    (List.range c.ldepth).any (fun l => (c.leOf l).toNat = w) || c.endsStage w

/-- The first of the prefix words at the pc that is the last word of a stage group, if that group's STG bit is 0:
nothing of it happens but its sc, and the word behind it is read afresh (R104, log 19). -/
def Cluster.idlePrefix (c : Cluster) (lead : Nat) : Option Nat :=
  match ((List.range lead).map fun j => c.pc.toNat + 4 * j).find? fun w => c.endsStage w with
  | none => none
  | some w => if c.idleStage w then some w else none

/-- Whether a group with a number of prefix words lies in a stage that is off: none of its words acts (R104). A group
whose prefix ends a valid stage does not. -/
def Cluster.idleGroup (c : Cluster) (lead w : Nat) : Bool :=
  c.idleStage w && !((List.range lead).any fun j => c.endsStage (c.pc.toNat + 4 * j))

/-- The checks of Table 3.7 that the decoder leaves, in its order. -/
def State.wordFault (s : State) (i : Instr) : Option Nat :=
  if !unitOk s.cur.clu i then some fIllegalUnit
  else if !reservedOk i then some fIllegalWord
  else if s.me.prefixAtEnd (leadOf i) then some fIllegalWord
  else if i.unit? = some .sy && !s.myTask.snap.sys then some fPrivilege
  else none

/-- A register read inside the interlocked part of a writer's latency stalls (R27). -/
def Cluster.interlocked (c : Cluster) (reads : List Loc) : Bool :=
  c.dl.any fun f => f.vis ≤ c.sc && c.sc < f.real && f.res.any fun r => reads.any fun l => r.hits l

/-- The state a word acts on: the tokens that its WAIT field names are popped (R23), which acquires (R236). -/
def State.taken (s : State) (h : Hdr) : State :=
  let qs := waitQueues s.cur.clu h.wait
  qs.foldl (fun t q => t.hand (.tok s.cur.core s.cur.ctx q 0) (.clu s.cur)) (s.modMyCtx fun x => qs.foldl Ctx.popTok x)

/-- The token at the head of a queue is gone (R236): the others move up. -/
def State.popHead (s : State) (q : Nat) : State :=
  let up (e : Nat × Party) : Option (Nat × Party) :=
    match e.2 with
    | .tok n x r j => if n = s.cur.core && x = s.cur.ctx && r = q then (if j = 0 then none else some (e.1, .tok n x r (j - 1))) else some e
    | _ => some e
  if s.known.isEmpty then s else { s with known := s.known.filterMap up }

/-- The state after a word that issues in state s, has left state t and goes on at n: its SIG push falls due at the
end of its latency (R23), it is counted, and the group is behind (R63). -/
def State.issued (s : State) (i : Instr) (h : Hdr) (sig : SigBy) (t : State) (n : Next) : State :=
  let t := if sig = .latency && h.sig ≠ 0 then
      t.modMe fun c => { c with sigs := c.sigs ++ [(s.me.sc + s.sigLatency i - 1, h.sig, s.me.sc)] } else t
  (((waitQueues s.cur.clu h.wait).foldl State.popHead t).perfMe 2).retire i h n

/-- Whether a SYNC word still waits for the other clusters (R24). -/
def State.syncWaits (s : State) (h : Hdr) : Bool := h.sync = 1 && !s.myCtx.syncGo

/-- Why a cluster issues no word at all: a blocking atomic is out (R229), or a push is held (R23). -/
def Cluster.noIssue (c : Cluster) : Option Wait :=
  if c.blocked then some .atomic else if !c.held.isEmpty then some .push else none

/-- How one word (with its prefixes) issues. DESIGN CHOICE (log 89): a fault of Table 3.7 waits neither for the tokens
of the word's WAIT field nor for its SYNC group; the word's own faults wait for both. -/
def State.issue (s : State) (i : Instr) (h : Hdr) (m : Meaning) : State :=
  let c := s.me
  match c.noIssue with
  | some w => s.stallOn w
  | none =>
  if c.idleGroup (leadOf i) (s.wordPc i) then
    if s.syncWaits h then s.stallOn .sync else s.retire i h .seq
  else match c.idlePrefix (leadOf i) with
  | some w => s.retireAt w ⟨0, 0, 0, 0⟩ .seq
  | none =>
  match s.wordFault i with
  | some code => s.precise { code := code }
  | none =>
    if !s.myCtx.hasTok (waitQueues s.cur.clu h.wait) then s.stallOn .token
    else if c.interlocked m.reads then s.stallOn .interlock
    else match m.act (s.taken h) with
    | .fault f => if s.syncWaits h then s.stallOn .sync else s.precise f
    | .faultIn s' f =>
      if s.syncWaits h then s.stallOn .sync
      else (s'.modMyCtx fun x => { x with tok := s.myCtx.tok }).precise f
    | .stall w s' =>
      if w = .cirEnd && s.syncWaits h then s.stallOn .sync
      else (s'.modMyCtx fun x => { x with tok := s.myCtx.tok }).stallOn w
    | .done s' n => if s.syncWaits h then s.stallOn .sync else s.issued i h m.sig s' n

/-- The meaning of an instruction word: it issues in the running cluster that State.cur names. -/
def runWord (i : Instr) (h : Hdr) (m : Meaning) (s : State) : Host.Outcome State Fault Refusal :=
  if s.me.run = .run then .next (s.issue i h m) else .fault .noCluster

end Sys2Proof.Machine
end

