-- ==== Sys2Proof/Machine/Operands.lean ====
section
/-! DEFINITION. Operand forms: views (R134 to R136), vector registers, groups and queues as operands
of VE words (R138 to R145), immediates (R67), and rows of the data queues (R286). -/

namespace Sys2Proof.Machine

/-- ext of a word's immediate field of w bits, with its IMM prefix (R67). -/
def extImm (x : Option ImmF) (w imm : Nat) : Int :=
  match x with
  | none => sextN imm w
  | some v => sextN (v.toNat * 2 ^ w + imm) (28 + w)

/-- The unsigned count of LOOPI (R116). -/
def loopCount (x : Option ImmF) (c : BitVec 5) : Nat :=
  match x with | none => c.toNat | some v => v.toNat * 32 + c.toNat

/-- Fields of a vector window (Table 5.2). -/
def winBase (v : Word) : Nat := bitsN v.toNat 0 7 * 512
def winType (v : Word) : Nat := bitsN v.toNat 7 4

/-- Fields of the tile view (Table 5.3): base, rows, columns, pitch in bytes, type. -/
def tvBase (v : Word) : Nat := bitsN v.toNat 0 10 * 64
def tvRows (v : Word) : Nat := bitsN v.toNat 10 7 + 1
def tvCols (v : Word) : Nat := bitsN v.toNat 17 10 + 1
def tvPitch (v : Word) : Nat := bitsN v.toNat 27 10 * 64
def tvType (v : Word) : Nat := bitsN v.toNat 37 4

/-- Fields of the accumulator view (Table 5.4). -/
def avBase (v : Word) : Nat := bitsN v.toNat 0 7 * 512

/-- Whether a value is a valid view n for a frame of F bytes (R134 to R136). -/
def viewOk (n : Nat) (v : Word) (f : Nat) : Bool :=
  if n < 2 then winType v ≤ 9 && v.toNat < 2 ^ 11 && winBase v + 7168 ≤ f
  else if n = 2 then
    match typeFmt (tvType v) with
    | none => false
    | some t =>
      let rb := ceilDiv (tvCols v * t.width) 8
      v.toNat < 2 ^ 41 && tvCols v * t.width ≤ 4096 && rb ≤ tvPitch v && 64 ≤ tvPitch v &&
      tvBase v + (tvRows v - 1) * tvPitch v + rb ≤ f
  else v.toNat < 2 ^ 7 && avBase v + 4096 ≤ f

/-- A 5-bit vector operand (R65): register v0 to v27, or queue 0 to 3. -/
inductive VOp where
  | reg (n : Nat)
  | que (q : Nat)
  deriving DecidableEq, Repr

def vop (f : BitVec 5) : VOp := if f.toNat < 28 then .reg f.toNat else .que (f.toNat - 28)

/-- Window of a register and its index there (R138). -/
def winOf (n : Nat) : Nat := if n < 14 then 0 else 1
def idxOf (n : Nat) : Nat := if n < 14 then n else n - 14

/-- Element type of a window of the context. -/
def Ctx.winFmt (x : Ctx) (w : Nat) : Option Fmt := typeFmt (winType (x.view w))

/-- Frame offset of register n. -/
def Ctx.regOff (x : Ctx) (n : Nat) : Nat := winBase (x.view (winOf n)) + 512 * idxOf n

/-- Bytes of the current context's frame, as a number. -/
def State.frameN (s : State) (off n : Nat) : Nat := s.myCore.frame.readN (s.myCtx.fo + off) n

/-- Type of a word's sources (R140): registers agree, queues follow VW0. none is VIEW_RANGE. -/
def Ctx.srcFmt (x : Ctx) (ops : List VOp) : Option Fmt :=
  let ws := ops.filterMap fun o => match o with | .reg n => some (winOf n) | .que _ => none
  match ws with
  | [] => x.winFmt 0
  | w :: r => if r.all fun v => winType (x.view v) = winType (x.view w) then x.winFmt w else none

/-- Which type a queue destination has (R140). -/
inductive QDst where
  | source | vw0 | vw1
  deriving DecidableEq, Repr

/-- Type of a word's destination (R140). -/
def Ctx.dstFmt (x : Ctx) (d : VOp) (q : QDst) (ts : Fmt) : Option Fmt :=
  match d with
  | .reg n => x.winFmt (winOf n)
  | .que _ => match q with | .source => some ts | .vw0 => x.winFmt 0 | .vw1 => x.winFmt 1

/-- Whether w registers from an operand form a group (R141). -/
def groupOk (o : VOp) (w : Nat) : Bool :=
  (w = 1 || w = 2 || w = 4) &&
  match o with
  | .reg n => idxOf n % w = 0 && idxOf n + w ≤ 14
  | .que _ => true

/-- Takes the first n rows of a queue if all are filled (R142). -/
def takeRows : Nat → List QRow → Option (List QRow × List QRow)
  | 0, l => some ([], l)
  | _ + 1, [] => none
  | n + 1, r :: l => if r.filled then (takeRows n l).map fun (a, b) => (r :: a, b) else none

/-- The word that pops rows of a data queue acquires from the words that pushed them (R236). -/
def State.acquireRows (s : State) (rows : List QRow) : State :=
  rows.foldl (fun t r => t.hand (.row s.cur.core s.cur.ctx r.id) (.clu s.cur)) s

/-- Rows joined to registers of 4,096 bits. -/
def rowsToRegs : Nat → List QRow → List Nat
  | 0, _ => []
  | n + 1, l => packElems 512 ((l.take 8).map QRow.data) :: rowsToRegs n (l.drop 8)

/-- Reads a source of w registers (R142): a queue source pops 8w rows. none stalls. -/
def State.source (s : State) (o : VOp) (w : Nat) : Option (State × List Nat) :=
  match o with
  | .reg n => some (s, (List.range w).map fun i => s.frameN (s.myCtx.regOff (n + i)) 512)
  | .que q =>
    match takeRows (8 * w) (s.myCtx.lrows q) with
    | none => none
    | some (rows, rest) =>
      let bad := rows.any fun r => r.poison ≠ 0
      some ((s.acquireRows rows).modMyCtx fun x =>
        { x.setCir (if bad then 1 else 0) with lq := tblPut x.lq q rest }, rowsToRegs w rows)

/-- Element j of a group (R141). -/
def groupElem (f : Fmt) (regs : List Nat) (j : Nat) : Nat :=
  elemOf f.width (regs.getD (j % regs.length) 0) (j / regs.length)

/-- Room for n more rows in a data queue of 64 (R285). -/
def roomRows (l : List QRow) (n : Nat) : Bool := l.length + n ≤ 64

/-- Reserves n rows at the tail (R286): the new identities. -/
def newRows (id n : Nat) : List QRow := (List.range n).map fun i => ⟨id + i, false, 0, 0⟩

def State.reserveSq (s : State) (q n : Nat) : State × List Nat :=
  let id := s.myCtx.qid
  (s.modMyCtx fun x => { x with qid := id + n, sq := tblPut x.sq q (x.srows q ++ newRows id n) },
    (List.range n).map (id + ·))

def State.reserveLq (s : State) (k : Who) (q n : Nat) : State × List Nat :=
  let id := (s.ctxOf k).qid
  (s.modCtx k fun x => { x with qid := id + n, lq := tblPut x.lq q (x.lrows q ++ newRows id n) },
    (List.range n).map (id + ·))

/-- Elements of register r of a group of w: those with index r modulo w (R141). -/
def everyNth {α : Type} (w : Nat) : Nat → List α → List α
  | _, [] => []
  | r, x :: l => if r = 0 then x :: everyNth w (w - 1) l else everyNth w (r - 1) l

/-- Value and bit mask of the elements written to one register: none keeps the old one (R144). -/
def packWritten (w : Nat) (es : List (Option Nat)) : Nat × Nat :=
  (packElems w (es.map (·.getD 0)), packElems w (es.map fun e => if e.isSome then 2 ^ w - 1 else 0))

/-- The results that write a group of w registers of type f (R141, R142, R144): elements none keep
their value in a register, and become zero in a queue row. The queue rows are reserved now. -/
def State.writeGroup (s : State) (d : VOp) (f : Fmt) (w : Nat) (es : List (Option Nat)) : State × List Res :=
  match d with
  | .reg n =>
    (s, (List.range w).map fun r =>
      let (v, m) := packWritten f.width (everyNth w r es)
      .frame (s.myCtx.regOff (n + r)) 512 v m)
  | .que q =>
    let (s, ids) := s.reserveSq q (8 * w)
    (s, (List.range w).flatMap fun r =>
      let v := (packWritten f.width (everyNth w r es)).1
      (List.range 8).map fun i => .srow q (ids.getD (8 * r + i) 0) ((v >>> (512 * i)) % 2 ^ 512))

/-- Whether a queue destination has room for w registers (R142). -/
def State.dstRoom (s : State) (d : VOp) (w : Nat) : Bool :=
  match d with | .reg _ => true | .que q => roomRows (s.myCtx.srows q) (8 * w)

/-- What a VE word's element function sees: types, direction, saturate control, SR bits. -/
structure VEnv where
  ts : Fmt
  td : Fmt
  rm : Rnd
  sat : Bool
  sr : Nat → Nat

/-- The element groups a word needs: element count E and group widths of sources and destination
(R141). -/
def elemCount (ts td : Fmt) : Nat := Nat.max ts.lanes td.lanes

/-- Effective rounding code (R45): the MOD override, else the word's own. -/
def effCode (md : Option ModF) (code : BitVec 2) : BitVec 2 :=
  match md with
  | some m => if m.ro = 1 then m.rm else code
  | none => code

/-- SAT of the MOD prefix (R50). -/
def satOf (md : Option ModF) : Bool := match md with | some m => m.sat = 1 | none => false

/-- Mask of a word under its MOD prefix (R143, R144): which elements are on, and whether the others
are zeroed. -/
def State.maskOf (s : State) (md : Option ModF) : Nat → Bool :=
  match md with
  | none => fun _ => true
  | some m => if m.km = 0 then fun _ => true else bitN (s.me.mask m.km.toNat)
def zeroOf (md : Option ModF) : Bool := match md with | some m => m.z = 1 | none => false

/-- The counter goes up by one for a word whose effective code is SR (R52). -/
def State.countSr (s : State) (code : BitVec 2) : State :=
  if code = 2 then (s.perfMe 23).modMe fun c => { c with ctr := c.ctr + 1 } else s

/-- The environment of a word of the current cluster. -/
def State.vEnv (s : State) (ts td : Fmt) (md : Option ModF) (code : BitVec 2) : VEnv :=
  let c := s.me
  ⟨ts, td, rndOf (effCode md code) c.rmode, satOf md, srBits c.seed c.stream c.ctr⟩

/-- CIR bits of one element's result (R147, Table 6.2). -/
def cirOf (f : NumFlags) : Nat := (if f.nonfinite then 2 else 0) + (if f.clamped then 4 else 0)

def cirRes (b : Nat) : List Res := if b = 0 then [] else [.cir b]

/-- Registers of a vector operand, for the interlock. -/
def State.vLocs (s : State) (o : VOp) (w : Nat) : List Loc :=
  match o with
  | .reg n => [.fr (s.myCtx.regOff n) (512 * w)]
  | .que _ => []

/-- Names of the mask a word reads. -/
def maskLocs (md : Option ModF) : List Loc :=
  match md with | some m => if m.km = 0 then [] else [.k m.km.toNat] | none => []

/-- An element-wise VE word (R141 to R147). srcs are its vector sources in order; addend: it also
reads D; ok: its type rule; f: one element from its sources' bits and the addend's. -/
structure VSpec where
  cls : Nat
  srcs : List (BitVec 5)
  addend : Bool
  code : BitVec 2
  qdst : QDst
  ok : Fmt → Fmt → Bool
  f : VEnv → Nat → List Nat → Nat → Nat × NumFlags

/-- Reads sources in order, each with its number of registers. -/
def State.sources (s : State) : List (VOp × Nat) → Option (State × List (List Nat))
  | [] => some (s, [])
  | (o, w) :: r =>
    match s.source o w with
    | none => none
    | some (s, g) => (State.sources s r).map fun (s, gs) => (s, g :: gs)

/-- Elements of a result under the mask: on ones computed, off ones zero or kept (R144). -/
def maskedElems (on : Nat → Bool) (z : Bool) (n : Nat) (f : Nat → Nat × NumFlags) :
    List (Option Nat) × Nat :=
  let es := (List.range n).map fun j => if on j then some (f j) else none
  (es.map fun e => match e with | some (v, _) => some v | none => if z then some 0 else none,
    es.foldl (fun b e => match e with | some (_, fl) => b ||| cirOf fl | none => b) 0)

/-- A VE word whose types and groups are in order (R142, R145, R146): it stalls for its sources and its
destination's room, reads every source, and its elements land at the class latency with their CIR bits. -/
def State.vecRun (s : State) (cls : Nat) (srcs : List (VOp × Nat)) (dst : VOp) (td : Fmt) (wd : Nat)
    (code : BitVec 2) (f : List (List Nat) → List (Option Nat) × Nat) : Act :=
  if !(srcs.all fun e => groupOk e.1 e.2) || !groupOk dst wd then .fault { code := fViewRange }
  else if s.me.interlocked (srcs.flatMap fun e => s.vLocs e.1 e.2) then .stall .interlock s
  else if !s.dstRoom dst wd then .stall .queue s
  else match s.sources srcs with
  | none => .stall .queue s
  | some (s', gs) =>
    let (es, cir) := f gs
    let (s', res) := s'.writeGroup dst td wd es
    .done ((s'.countSr code).later cls (res ++ cirRes cir)) .seq

/-- Effect of an element-wise word. -/
def VSpec.act (v : VSpec) (md : Option ModF) (d : BitVec 5) (s : State) : Act :=
  let dst := vop d
  let ops := v.srcs.map vop
  match s.myCtx.srcFmt ops with
  | none => .fault { code := fViewRange }
  | some ts =>
    match s.myCtx.dstFmt dst v.qdst ts with
    | none => .fault { code := fViewRange }
    | some td =>
      let e := elemCount ts td
      let ws := e / ts.lanes
      let wd := e / td.lanes
      if !v.ok ts td then .fault { code := fViewRange }
      else
        let env := s.vEnv ts td md v.code
        let n := ops.length
        s.vecRun v.cls (ops.map (·, ws) ++ (if v.addend then [(dst, wd)] else [])) dst td wd (effCode md v.code)
          fun gs => maskedElems (s.maskOf md) (zeroOf md) e fun j =>
            v.f env j ((gs.take n).map fun g => groupElem ts g j) (groupElem td (gs.getD n [0]) j)

/-- The meaning of an element-wise word. -/
def VSpec.mean (v : VSpec) (md : Option ModF) (d : BitVec 5) : Meaning :=
  meaning (maskLocs md) (v.act md d)

end Sys2Proof.Machine
end

