-- ==== Sys2Proof/Machine/Flags.lean ====
section
/-! DEFINITION. Flag computations: comparisons that write predicates and masks (R112, R157, R162),
classes and bins of values (R158, R359), integer narrowing with its saturation mark (R160), and the
event flags of a context (R94, R95). -/

namespace Sys2Proof.Machine

/-- Signed and unsigned order of two words (Table 4.4). -/
def ltS (a b : Word) : Bool := a.toInt < b.toInt
def leS (a b : Word) : Bool := a.toInt ≤ b.toInt
def ltU (a b : Word) : Bool := a.toNat < b.toNat
def leU (a b : Word) : Bool := a.toNat ≤ b.toNat

/-- A word that writes a mask from two vector sources (R143, R157, R162). ok: the type rule. -/
def maskAct (cls : Nat) (md : Option ModF) (k : BitVec 3) (a b : BitVec 5) (ok : Fmt → Bool)
    (f : Fmt → Nat → Nat → Bool) (s : State) : Act :=
  let ops := [vop a, vop b]
  match s.myCtx.srcFmt ops with
  | none => .fault { code := fViewRange }
  | some ts =>
    if !ok ts then .fault { code := fViewRange }
    else if s.me.interlocked (ops.flatMap fun o => s.vLocs o 1) then .stall .interlock s
    else match s.sources (ops.map (·, 1)) with
    | none => .stall .queue s
    | some (s, gs) =>
      let on := s.maskOf md
      let n := ts.lanes
      let bit (j : Nat) : Nat :=
        if on j && f ts (groupElem ts (gs.getD 0 []) j) (groupElem ts (gs.getD 1 []) j) then 1 else 0
      let keep (j : Nat) : Nat := if on j || zeroOf md then 0 else 1
      .done (s.later cls [.mask k.toNat (packElems 1 ((List.range n).map bit))
        (2 ^ 1024 - 1 - packElems 1 ((List.range n).map keep))]) .seq

/-- The comparisons of floating elements as exact values; a NaN gives 0 (R157). -/
def fcmpBit (p : Int → Bool) (t : Fmt) (x y : Nat) : Bool :=
  match (t.decode x).cmpExact (t.decode y) with
  | none => false
  | some o => p o

/-- The one-hot class of an element (R158). -/
def classOf (t : Fmt) (w : Nat) : Nat :=
  match t.decode w with
  | .nan => 2 ^ 8
  | .inf neg => if neg then 1 else 2 ^ 7
  | .num neg n e _ =>
    if n = 0 then (if neg then 2 ^ 3 else 2 ^ 4)
    else
      let least : Int := match t.ieee with | some (_, _, bias) => 1 - (bias : Int) | none => 0
      if e + Nat.log2 n < least then (if neg then 2 ^ 2 else 2 ^ 5) else (if neg then 2 else 2 ^ 6)

/-- The bin of an element in an exponent histogram (R359). -/
def histBin (v : Val) (clamped : Bool) : Nat :=
  if clamped then 66
  else match v with
    | .nan => 65
    | .inf _ => 66
    | .num _ n e _ =>
      if n = 0 then 64
      else
        let b := e + Nat.log2 n + 32
        if b < 0 then 0 else if b > 63 then 63 else b.toNat

/-- An exact integer to an integer type: saturated, or reduced modulo its width (R160). -/
def narrowInt (f : Fmt) (sat : Bool) (x : Int) : Nat × NumFlags :=
  match f with
  | .int sg n =>
    if sat then
      let (v, c) := satInt sg n x
      (v, ⟨false, c⟩)
    else (toBits n x, NumFlags.none)
  | _ => (0, NumFlags.none)

/-- An integer element's value by its type's signedness. -/
def intOf (f : Fmt) (w : Nat) : Int :=
  match f with
  | .int true n => sextN w n
  | .int false n => ((w % 2 ^ n : Nat) : Int)
  | _ => 0

/-- A set of flag f arrives in this cc (R95): with the scope bit for a POSTG, and its setter. -/
def Ctx.setFlag (x : Ctx) (f : Nat) (scope : Bool) (setter : Nat) : Ctx :=
  { x with fsets := x.fsets ++ [(f, scope, setter)] }

/-- At the end of a cc every set that arrived is applied, and merges (R94, R363). -/
def applySet (x : Ctx) (e : Nat × Bool × Nat) : Ctx :=
  let (f, sc, who) := e
  { x with setter := if x.flag f then x.setter else tblPut x.setter f who,
           flags := tblPut x.flags f true,
           scope := if sc then tblPut x.scope f true else x.scope }

/-- Then the AWAITs that completed clear their flags, with the scope bits (R94, R95). -/
def clearFlag (x : Ctx) (f : Nat) : Ctx :=
  { x with flags := tblPut x.flags f false, scope := tblPut x.scope f false }

def Ctx.flagsEnd (x : Ctx) : Ctx :=
  if x.fsets.isEmpty && x.fclears.isEmpty then x
  else { (x.fclears.foldl clearFlag (x.fsets.foldl applySet x)) with fsets := [], fclears := [] }

end Sys2Proof.Machine
end

