-- ==== Sys2Proof/Machine/Check.lean ====
section
/-! DEFINITION. The CK unit (R172 to R178, R187 to R194): signatures, invariant accumulators, the check-interval
register and provenance records. -/

namespace Sys2Proof.Machine

/-- SIGCLR (R188). -/
def execSigclr (h : Hdr) (n : BitVec 2) :=
  runWord (.sigclr h n) h (compute [] 0 fun _ => [.sig n.toNat none])

/-- The source of a CK word: a scalar in C, 512 bytes in V (R187). -/
def State.ckSource (s : State) (a : BitVec 5) (f : State → Nat → Act) : Act :=
  if s.cur.clu = .v then
    if s.me.interlocked (s.vLocs (vop a) 1) then .stall .interlock s
    else match s.source (vop a) 1 with
    | none => .stall .queue s
    | some (s', g) => f s' (g.getD 0 0)
  else if s.me.interlocked [.s a.toNat] then .stall .interlock s
  else f s (s.me.sreg a.toNat).toNat

/-- SIGFOLD: one value in C, 64 in V (R189). -/
def execSigfold (h : Hdr) (n : BitVec 2) (a : BitVec 5) :=
  runWord (.sigfold h n a) h (meaning [] fun s => s.ckSource a fun s' v =>
    .done (s'.later 0 [.sig n.toNat (some (if s.cur.clu = .v then elemsOf 64 64 v else [v]))]) .seq)

/-- One term (R176). -/
def Inv.addTerm (isF : Bool) (i : Inv) (t : Val) : Inv :=
  let i := { i with n := i.n + 1, isF := i.isF || isF }
  match t with
  | .nan => { i with nan := true }
  | .inf false => { i with pinf := true }
  | .inf true => { i with ninf := true }
  | t => { i with v := i.v.add t.toDy, t := i.t.add t.toDy.abs }

/-- Most terms an accumulator counts (R175). -/
def invMax : Nat := 2 ^ 56 - 1

/-- CSACC (R176, R190). -/
def execCsacc (h : Hdr) (n : BitVec 3) (a : BitVec 5) :=
  runWord (.csacc h n a) h (meaning [] fun s =>
    let fmt : Option Fmt := if s.cur.clu = .v then s.myCtx.srcFmt [vop a] else some (.int true 64)
    match fmt with
    | none => .fault { code := fViewRange }
    | some f =>
      let count := if s.cur.clu = .v then f.lanes else 1
      if invMax < (s.me.invOf n.toNat).n + count then .fault { code := fCheckFail }
      else s.ckSource a fun s' v =>
        let terms := (elemsOf f.width count v).map f.decode
        .done (s'.later 0 [.inv n.toNat (some (terms.foldl (Inv.addTerm f.isFloat) Inv.empty))]) .seq)

/-- The comparison of an accumulator with a reference (R177). -/
def Inv.check (i : Inv) (r : Word) : Bool :=
  if !i.isF then (i.v.add (Dy.neg ⟨r.toInt, 0⟩)).m = 0
  else
    let x : Val := if i.nan || (i.pinf && i.ninf) then .nan else if i.pinf then .inf false else if i.ninf then .inf true
      else i.v.toVal
    match x, Fmt.fp64.decode r.toNat with
    | .nan, y => y.isNan
    | _, .nan => false
    | .inf a, .inf b => a = b
    | .inf _, _ => false
    | _, .inf _ => false
    | _, y => Dy.le (i.v.add y.toDy.neg).abs ⟨i.t.m, i.t.e - 20⟩

/-- CSCHK (R177, R191). -/
def execCschk (h : Hdr) (n : BitVec 3) (a : BitVec 5) :=
  runWord (.cschk h n a) h (meaning [.s a.toNat] fun s =>
    if (s.me.invOf n.toNat).check (s.me.sreg a.toNat) then .done (s.later 0 [.inv n.toNat none]) .seq
    else .fault { code := fCheckFail })

/-- CHKERR (R192): it reads CIR as it stands at the end of its issue cc, in which it is presented a second time.
Bits set in that cc stay. -/
def execChkerr (h : Hdr) :=
  runWord (.chkerr h) h (meaning [] fun s =>
    if !s.me.dl.isEmpty then .stall .visible s
    else if !s.me.barGo then .stall .cirEnd s
    else if bitN s.myCtx.cir 0 then .fault { code := fPoison }
    else .done (s.modMyCtx fun x => { x with cir := x.cirNew }) .seq)

/-- PROVRD (R193). -/
def execProvrd (h : Hdr) (d : BitVec 5) (n : BitVec 2) (b : BitVec 5) :=
  runWord (.provrd h d n b) h (meaning [.s b.toNat] fun s =>
    let i := (s.me.sreg b.toNat).toNat
    if 4 < i then .fault { code := fIllegalWord }
    else if i = 4 then .done (s.later 0 [.scal d.toNat (BitVec.ofNat 64 s.myCtx.cir)]) .seq
    else .done (s.later 0 [.scal d.toNat ((s.myCtx.provOf n.toNat).getD i 0)]) .seq)

/-- PROVCLR (R194). -/
def execProvclr (h : Hdr) (n : BitVec 2) :=
  runWord (.provclr h n) h (compute [] 0 fun _ => [.prov n.toNat])

end Sys2Proof.Machine
end

