-- ==== Sys2Proof/Machine/Fetch.lean ====
section
/-! DEFINITION. The start of a schedule cycle (R25, R26), the sc that a stall takes (R93), words that are no
instructions, lines kept in the instruction cache (R92, log 12), and the points at which a pre-empted cluster traps (R381). -/

namespace Sys2Proof.Machine

/-- A schedule cycle of cluster k starts (R25, R26): it is counted, results that are due land, and the
issue sample of R361 is taken. -/
def State.beginSc (s : State) (k : Who) : State :=
  let s := { s with cur := k }.modClu k fun c => { c with sc := c.sc + 1, early := [] }
  let s := (s.landDue k).perfMe 1
  let c := s.me
  if c.run = .run && c.sc % (s.part s.myTask.part).period = 0 then s.traceClu k 3 (c.pc.zeroExtend 64) else s

/-- The sc that cluster k's stalled word takes (R93): counted by its kind (Table 12.6), and whether an AWAIT found its
flag set, and not taken by another cluster, when it became the next word (R363). -/
def State.countStall (s : State) (k : Who) : State :=
  let c := s.clu k
  match c.wait with
  | none => s
  | some w =>
    if c.run ≠ .run || w = .cirEnd then s
    else
      let s := match w.event with | some e => s.perf k.core e k.ctx (some k.clu) 1 | none => s
      let s := if c.away then s.perf k.core 7 k.ctx (some k.clu) 1 else s
      let had : Bool := match s.nextGroup k with | .ok (.await _ f) => (s.ctxOf k).flagFree f.toNat | _ => false
      s.modClu k fun c => { c with waited := c.waited + 1, hadFlag := if c.waited = 0 then had else c.hadFlag }

/-- A word that is no instruction (R71, R104): in a stage that is off it takes its sc, else it faults, once the cluster
issues words at all. The branch before it is named when the word lies outside the code section (R114). -/
def State.badWord (s : State) (code len : Nat) (h : Hdr) : State :=
  let c := s.me
  let w := c.pc.toNat + 4 * (len - 1)
  match c.noIssue with
  | some w => s.stallOn w
  | none =>
  if !c.out && c.idleGroup (len - 1) w then
    (if h.sync = 1 && !s.myCtx.syncGo then s.stallOn .sync else s.retireAt w h .seq)
  else match (if c.out then none else c.idlePrefix (len - 1)) with
  | some w => s.retireAt w noHdr .seq
  | none => s.precise { code := code, brpc := if c.out || s.codeWord s.cur c.pc.toNat = .outside then c.brpc else 0 }

/-- Waits that pre-emption ends without issue (R381). -/
def Wait.trapsAtOnce : Wait → Bool
  | .token => true | .queue => true | .full => true | .sync => true | .flag _ => true
  | .barrier _ => true | .fence => true | .landing => true | .copyTok => true | .fifo => true
  | .tail => true | .tracker => true
  | _ => false

/-- A cluster whose context is being pre-empted stands at a trap point (R381): before its next word with no loop
active, at a loop-back, at the exit of its LOOPP, or in a stall that pre-emption ends. A freed arriver of a barrier
first issues its BAR (R96), and a request that is out is first answered. -/
def Cluster.atTrap (c : Cluster) : Bool :=
  let arrived : Bool := match c.wait with | some (.barrier _) => true | some .tlb => true | _ => false
  c.run = .run && !c.blocked && c.gap = 0 && !c.barGo && !c.barNext && (!c.asked || arrived) && c.wait ≠ some .cirEnd &&
  ((match c.wait with | some w => w.trapsAtOnce | none => false) || c.ldepth = 0 || c.atBack)

/-- Whether a context holds a lock bit (R210). -/
def Core.holdsLock (c : Core) (core ctx : Nat) : Bool := c.locks.any fun e => e.2 = (core, ctx)

/-- Whether any core of the die holds a lock bit for the context. -/
def State.holdsLock (s : State) (k : Who) : Bool := s.cores.any fun e => e.2.holdsLock k.core k.ctx

/-- The trap of one cluster (R381): its barrier arrival is withdrawn, a waiting word issues again
after resumption. -/
def State.trapCluster (s : State) (k : Who) : State :=
  let c := s.clu k
  let s := match c.wait with
    | some (.barrier b) =>
      s.modDie (dieOf k.core) fun d => { d with barr := tblPut d.barr b ((d.arrivers b).filter (· ≠ k)) }
    | _ => s
  let r : StopRec :=
    { code := 0, kind := 6, unit := k.clu.num, dump := c.dl.any fun f => f.res.any Res.dumps, pc := c.pc, task := (s.taskOf k).tid,
      addr := 0, brpc := 0, trap := 0, flag := s.awaited k, cseq := (s.ctxOf k).popped % 2 ^ 48, fidx := 0,
      stat := 0, loc := c.sc }
  s.modClu k fun c => { c with run := .trapped, wait := none, waited := 0, hadFlag := false, asked := false,
                               draining := false, answer := none, stop := r }

/-- A LOOPP that pre-emption has drained is entered again (R103, R383): STG 1, one iteration less to admit. -/
def Cluster.reenter (c : Cluster) : Cluster :=
  match c.drained with
  | none => c
  | some (l, st, g) =>
    { c with drained := none, ldepth := l + 1, loopp := some (l, st, g), stg := 1, stopping := false,
             pc := c.lsOf l, lc := tblPut c.lc l (c.lcOf l - 1) }

/-- Whether cluster k traps now. -/
def State.trapsNow (s : State) (k : Who) : Bool :=
  (s.ctxOf k).preempt && (s.clu k).atTrap && !s.holdsLock k

/-- Line size 64, at most 1,024 lines: the cache of a core keeps a filled line (log 12). -/
def Core.fillLine (c : Core) (key : Nat) (l : List Byte) : Core :=
  let keep := if c.icache.length < 1024 || (tblFind c.icache key).isSome then c.icache else c.icache.drop 1
  { c with icache := tblPut keep key l }

end Sys2Proof.Machine
end

