-- ==== Sys2Proof/Machine/Order.lean ====
section
/-! DEFINITION. Ordering of accesses in flight (R228, R233 to R238), releases and acquires, and the
tier engine's arrival counts (R129, R337); what the hub reads of tables and images (R31, R198). -/

namespace Sys2Proof.Machine

/-- Whether an access belongs to a context. -/
def State.ofCtx (s : State) (k : Who) (a : Acc) : Bool :=
  a.who.core = k.core && a.who.ctx = k.ctx && a.task.same (s.taskOf k)

/-- Commands that a cluster has pushed and that have not completed (R124, R120). -/
def State.cmdsOf (s : State) (k : Who) (p : Clu → Bool) : Bool :=
  let c := s.core k.core
  let mine (e : EnCmd) : Bool := e.ctx = k.ctx && p e.clu && e.task.same (s.taskOf k)
  c.cpq.any mine || c.rmq.any mine || c.coq.any mine || (c.coRun.any fun r => mine r.cmd) ||
  (c.cpRun.any fun (_, r) => mine r.cmd) || (c.rmRun.any fun r => !r.ended && mine r.cmd)

/-- Matrix commands of a context not yet completed. -/
def State.mxOf (s : State) (k : Who) : Bool :=
  let c := s.core k.core
  (c.mxq.any fun e => e.ctx = k.ctx) || (match c.mxRun with | some r => r.cmd.ctx = k.ctx | none => false)

/-- Whether an access is a row store of a word. -/
def Acc.rowStore (a : Acc) : Bool := match a.kind with | .store _ => true | _ => false

/-- Where an access goes: a row of a system memory, or an SPM row of a core. -/
def Acc.place (a : Acc) : Nat :=
  match a.kind with
  | .win n addr _ _ => 2 ^ 64 + spmKey n addr
  | _ => a.sa / 64

/-- Whether access i, a store, is behind an atomic or a direct-path load of its core to the same row that is not
performed yet: it passes the order point after that (R217, R233, R235). -/
def State.heldBack (s : State) (i : Nat) (a : Acc) : Bool :=
  s.accs.any fun (j, b) => j < i && b.place = a.place && b.who.core = a.who.core &&
    match b.kind with | .direct .. => true | .atom .. => true | _ => false

/-- Whether access i, where it stores, is performed, or can be, at a scope (R233): CORE at once; GROUP once past the
die's order point, or written in the scratchpad; wider once written in memory. -/
def State.performedAt (s : State) (i scope : Nat) : Bool :=
  match tblFind s.accs i with
  | none => true
  | some a => !a.stores || scope = 0 || (scope = 1 && a.rowStore && !s.heldBack i a)

/-- Whether every store that happens before a release by cluster k can be performed at a scope (R238). -/
def State.storesDone (s : State) (k : Who) (scope : Nat) : Bool := (s.past (.clu k)).all fun i => s.performedAt i scope

/-- The stores in flight that happen before the release pass the die's outbound order point (R233), with what their core
has before them in the same row. -/
def State.passStores (s : State) (k : Who) : State :=
  let l := (s.pastStores (.clu k)).filterMap fun i => (tblFind s.accs i).map fun a => (i, a)
  let goes (j : Nat) (b : Acc) : Bool := l.any fun (i, a) => j ≤ i && b.place = a.place && b.who.core = a.who.core
  if s.accs.any fun (j, b) => goes j b && !b.passed then
    { s with accs := s.accs.map fun (j, b) => if goes j b then (j, { b with passed := true }) else (j, b) }
  else s

/-- A release by cluster k at a scope (R238, R253): none while stores are still to be performed. At
GROUP scope or wider the core's rows are closed. -/
def State.release (s : State) (k : Who) (scope : Nat) : Option State :=
  if !s.storesDone k scope then none
  else if scope = 0 then some s
  else some ((s.passStores k).closeRows k.core)

/-- Whether the scopes of a release on core f and of an acquire on core n cover both (R231). From DEVICE on a release
leaves nothing in flight. -/
def covers (rel f acq n : Nat) : Bool := f = n || (1 ≤ rel && 1 ≤ acq && dieOf f = dieOf n)

/-- What happens before an access that releases at a scope happens before whoever reads its value: a releasing atomic,
and a store or atomic behind a releasing fence (R239). i: the access. -/
def State.afterFences (s : State) (k : Who) (i : Nat) : State :=
  (s.hand (.fence k.core k.ctx 0) (.acc i 0)).hand (.fence k.core k.ctx 1) (.acc i 1)

/-- Bytes of a row have been overwritten: who reads them reads from no release any more (R239). -/
def State.wipeCell (s : State) (place mask : Nat) : State :=
  let hit (p : Party) : Bool := match p with | .cell x m _ _ => x = place && m &&& mask ≠ 0 | _ => false
  let left (e : Nat × Party) : Option (Nat × Party) :=
    match e.2 with
    | .cell x m r f => let l := m - (m &&& mask); if x ≠ place then some e else if l = 0 then none else some (e.1, .cell x l r f)
    | _ => some e
  if s.known.any fun e => hit e.2 then { s with known := s.known.filterMap left } else s

/-- Access i of a core is performed at bytes of a row (R239): a store takes the place of what was there before it, an
atomic goes on with its chain. -/
def State.setCell (s : State) (i core place mask : Nat) (rmw : Bool) : State :=
  let t := if rmw then s else s.wipeCell place mask
  ((t.hand (.acc i 0) (.cell place mask 0 core)).hand (.acc i 1) (.cell place mask 1 core)).forget
    fun p => match p with | .acc j _ => j = i | _ => false

/-- Bytes of a row are read: q names who acquires by it, given the scope and the core of a release (R239). -/
def State.readCell (s : State) (place mask : Nat) (q : Nat → Nat → Party) : State :=
  s.known.foldl (fun t e => match e.2 with
    | .cell x m r f => if x = place && m &&& mask ≠ 0 then t.teach [e.1] (q r f) else t
    | _ => t) s

/-- A load of cluster k has read a row: an acquiring fence behind it acquires (R239). -/
def State.loadCell (s : State) (k : Who) (place : Nat) : State := s.readCell place fullMask fun r f => .read k.core k.ctx r f

/-- A word of cluster k stores a row at once (R239). -/
def State.storeCell (s : State) (k : Who) (place : Nat) : State :=
  (s.afterFences k s.accNext).setCell s.accNext k.core place fullMask false

/-- A releasing fence of cluster k at a scope (R239): only A has stores and atomics behind it. -/
def State.releaseFence (s : State) (k : Who) (scope : Nat) : State :=
  if k.clu = .a then s.hand (.clu k) (.fence k.core k.ctx scope) else s

/-- An acquiring fence of cluster k at a scope (R239): only A has loads and atomics before it. -/
def State.acquireReads (s : State) (k : Who) (scope : Nat) : State :=
  if k.clu ≠ .a then s
  else s.known.foldl (fun t e => match e.2 with
    | .read n x r f => if n = k.core && x = k.ctx && covers r f scope n then t.teach [e.1] (.clu k) else t
    | _ => t) s

/-- The tasks of a context have done all that happens before their end (R246): no store or atomic before it is still in
flight. -/
def State.pastDone (s : State) (k : Who) : Bool := k.clusters.all fun u => (s.pastStores (.clu u)).isEmpty

/-- Whether the loads and atomics that cluster k issued have returned (R124): none is in flight, nor a scratchpad
load's value, of class 10. -/
def State.loadsDone (s : State) (k : Who) : Bool :=
  !(s.accs.any fun (_, a) => a.who = k && a.task.same (s.taskOf k) && a.loads) && !((s.clu k).dl.any fun f => f.cls = 10)

/-- Pushes the tokens that an engine owes at a completion; the caller has seen that there is room. What happens before
the command, past, happens before the words that pop them (R242, R243). -/
def State.pushNow (s : State) (k : Who) (sig : BitVec 2) (past : List Nat) : State :=
  if sig = 0 then s
  else
    let x := s.ctxOf k
    let qs := sigQueues k.clu sig
    qs.foldl (fun t q => t.teach past (.tok k.core k.ctx q (x.tokens q))) (s.modCtx k fun x => qs.foldl Ctx.pushTok x)

/-- Words that a protected class forbids raise PROTECTION at issue (R184). -/
def State.guarded (s : State) (a : Act) : Act :=
  if s.myTask.cls ≠ 0 then .fault { code := fProtection } else a

/-- Fields of an almanac entry's control word (Table 11.12): ACTION, FROM, TO, OBJ, TRIG, DEAD,
DVALID, QUORUM. -/
def AEnt.action (e : AEnt) : Nat := bitsN e.control.toNat 0 2
def AEnt.lvFrom (e : AEnt) : Nat := bitsN e.control.toNat 2 2
def AEnt.lvTo (e : AEnt) : Nat := bitsN e.control.toNat 4 2
def AEnt.shape (e : AEnt) : Bool := bitN e.control.toNat 6
def AEnt.trig (e : AEnt) : Nat := bitsN e.control.toNat 7 10
def AEnt.dead (e : AEnt) : Nat := bitsN e.control.toNat 17 10
def AEnt.dvalid (e : AEnt) : Bool := bitN e.control.toNat 27
def AEnt.quorum (e : AEnt) : Nat := bitsN e.control.toNat 32 32

/-- Whether every FETCH with deadline marker n is resident (R129, R338). -/
def Launch.resident (l : Launch) (n : Nat) : Bool :=
  l.alm.all fun e => !(e.action = 0 && e.dvalid && e.dead = n) || e.st = .done

/-- Entries whose quorum is met fire, in entry order (R337). -/
def fireEntries (arr : Tbl Nat) : List AEnt → Nat → List AEnt × Nat
  | [], n => ([], n)
  | e :: r, n =>
    if e.st = .idle && e.quorum ≤ tblGet 0 arr e.trig then
      let (r, n') := fireEntries arr r (n + 1)
      ({ e with st := .fired n } :: r, n')
    else
      let (r, n') := fireEntries arr r n
      (e :: r, n')

def Launch.fire (l : Launch) : Launch :=
  let (a, n) := fireEntries l.arr l.alm l.fireNo
  { l with alm := a, fireNo := n }

/-- n bytes at an offset of a block of bytes. -/
def byteFld (d off n : Nat) : Nat := (d >>> (8 * off)) % 2 ^ (8 * n)

/-- Where a task that enters now finds va: the newest overlay's block, if it has one (R331). -/
def State.hubOverlay (s : State) (p va : Nat) : Option Nat :=
  let seen := (s.part p).overlays.filter fun o => o.tile ≤ va && va < o.tile + o.size
  match seen.foldl (fun (m : Option Overlay) o =>
      match m with | none => some o | some x => if x.order ≤ o.order then some o else m) none with
  | some o => o.block.map fun b => b + (va - o.tile)
  | none => none

/-- Rows that the hub reads at a virtual address of a partition, in the device's own memory; none where a row
has no mapping (R198). -/
def hubRows (p : Nat) : Nat → State → Nat → State × Option Nat
  | 0, s, _ => (s, some 0)
  | n + 1, s, va =>
    match s.walk p va with
    | (s, none) => (s, none)
    | (s, some (b, _, sa, _)) =>
      let x := (s.hubOverlay p va).getD (sa + (va - b))
      if saDev x ≠ s.devId then (s, none)
      else
        let (s, d, _) := s.sysRead x 0
        match hubRows p n s (va + 64) with
        | (s, some r) => (s, some (d + r <<< 512))
        | (s, none) => (s, none)

/-- n bytes from va as a number. -/
def State.hubRead (s : State) (p va n : Nat) : State × Option Nat :=
  let (s, r) := hubRows p ((va % 64 + n + 63) / 64) s (va / 64 * 64)
  (s, r.map fun d => (d >>> (8 * (va % 64))) % 2 ^ (8 * n))

/-- A number above that of every entry that has fired: actions on one object follow the order of firing, over all
launches (R337). -/
def State.fireBase (s : State) : Nat := s.launches.foldl (fun n e => Nat.max n e.2.fireNo) 0

/-- The entries of a launch whose quorum is met fire, and the shape records that they name are read (R337, R338). -/
def State.fireLaunch (s : State) (i : Nat) : State :=
  match s.launch? i with
  | none => s
  | some l =>
    let x := { l with fireNo := s.fireBase }.fire
    if x.alm = l.alm then s
    else
      let (s, alm) := (x.alm.zip l.alm).foldl (fun ((s, out) : State × List AEnt) (e, old) =>
        if e.shape && e.st ≠ old.st then
          let (s, d) := s.hubRead l.part e.object.toNat 256
          (s, out ++ [{ e with read := d }])
        else (s, out ++ [e])) (s, [])
      s.modLaunch i fun _ => { x with alm := alm }

/-- One arrival at marker n (R337): 32 bits, saturating. -/
def Launch.arrive (l : Launch) (n : Nat) : Launch :=
  { l with arr := tblPut l.arr n (Nat.min (tblGet 0 l.arr n + 1) (2 ^ 32 - 1)) }

/-- The tier engine's answer to MARK or MARKQ of the current task (R129, R184): the test, and the
state with the arrival counted unless a MARK fails. none: the launch has no almanac. -/
def State.markAsk (s : State) (n : Nat) (q : Bool) : Option (Bool × State) :=
  let t := s.myTask
  match s.launch? t.launch with
  | none => none
  | some l =>
    if !l.hasAlm then none
    else
      let ok := l.resident n
      let seen := t.cls ≠ 0 && (t.inst ≠ 0 ||
        match s.dep? t.part t.tid with | some e => e.marks.contains n | none => false)
      if (!ok && !q) || seen then some (ok, s)
      else
        let s := s.modLaunch t.launch fun l => l.arrive n
        some (ok, if t.cls ≠ 0 then s.modDep t.part t.tid fun e => { e with marks := n :: e.marks } else s)

end Sys2Proof.Machine
end

