-- ==== Sys2Proof/Machine/Perform.lean ====
section
/-! DEFINITION. Performing accesses in flight (R208, R217, R228, R229, R233): conversions on the way
(Table 3.10), the value of a load, stores into memory and through the die window, atomics; and which
accesses to one row wait for which (R235). -/

namespace Sys2Proof.Machine

/-- Source and target of a load code and of a store code (Table 3.10). -/
def loadPair : Nat → Fmt × Fmt
  | 0 => (.e4m3, .bf16) | 1 => (.e5m2, .bf16) | 2 => (.tf8, .bf16) | 3 => (.e4m3, .fp32)
  | 4 => (.e5m2, .fp32) | 5 => (.tf8, .fp32) | 6 => (.tf16, .fp32) | _ => (.tf16, .bf16)
def storePair : Nat → Fmt × Fmt
  | 0 => (.fp32, .e4m3) | 1 => (.fp32, .e5m2) | 2 => (.fp32, .tf8) | 3 => (.fp32, .tf16)
  | 4 => (.fp32, .bf16) | 5 => (.bf16, .e4m3) | 6 => (.bf16, .e5m2) | _ => (.bf16, .tf8)

/-- Rows that a load code pushes and a store code pops (Table 7.9). -/
def loadRows (code : Nat) : Nat :=
  if code = 8 then 1 else 512 / (loadPair code).1.width * (loadPair code).2.width / 512
def storeRows (code : Nat) : Nat := 512 / (storePair code).2.width * (storePair code).1.width / 512

/-- Converts packed elements one by one, element j with SR bits of index j (R226). -/
def convElems (src dst : Fmt) (rm : Rnd) (sat : Bool) (sr : Nat → Nat) : List Nat → Nat → List (Nat × NumFlags)
  | [], _ => []
  | x :: r, j => roundTo dst rm (sr j) sat (src.decode x) :: convElems src dst rm sat sr r (j + 1)

/-- Rows of 512 bits of a packed number. -/
def rowsOf : Nat → Nat → List Nat
  | 0, _ => []
  | n + 1, v => v % 2 ^ 512 :: rowsOf n (v >>> 512)

/-- CIR bits of a list of results (R147). -/
def cirAll (l : List (Nat × NumFlags)) : Nat := l.foldl (fun b e => b ||| cirOf e.2) 0

/-- Queue rows that a memory row becomes, with the CIR bits (R226, R228). -/
def Fill.convert (f : Fill) (data : Nat) : List Nat × Nat :=
  if f.code = 8 then ([data], 0)
  else
    let (src, dst) := loadPair f.code
    let es := convElems src dst f.rm f.sat (srBits f.seed f.stream f.ctr)
      (elemsOf src.width (512 / src.width) data) 0
    (rowsOf (loadRows f.code) (packElems dst.width (es.map Prod.fst)), cirAll es)

/-- Puts the bytes of a contained entry over a row (R316). -/
def overRow (o : Option CRow) (data pois : Nat) : Nat × Nat :=
  match o with
  | none => (data, pois)
  | some r =>
    let covered := (List.range 16).foldl (fun m w => if bitsN r.mask (4 * w) 4 = 15 then m ||| 2 ^ w else m) 0
    (mergeBytes r.mask data r.data, (pois &&& (allPoison - covered)) ||| r.poison)

/-- The group tag of a request (R218). -/
def Task.tag (t : Task) : Nat := t.tid.toNat % 4096

/-- Rows and CIR bits of a load from the row's bytes (R209, R228): poison sets CIR.POISON when the data reaches
the queue. -/
def Fill.serve (f : Fill) (data pois : Nat) : List (Nat × Nat × Nat) × Nat :=
  let (d, p) := overRow f.cont data pois
  let (rows, cir) := f.convert d
  ((f.ids.zip rows).map fun e => (e.1, e.2, 0), cir ||| (if p = 0 then 0 else 1))

/-- An access is no longer in flight. -/
def State.dropAcc (s : State) (i : Nat) : State :=
  { s with accs := tblErase s.accs i, known := s.known.filter fun e => e.1 ≠ i }

/-- Fills the reserved rows of a context (R286). -/
def State.fillRows (s : State) (k : Who) (q : Nat) (rows : List (Nat × Nat × Nat)) (cir : Nat) : State :=
  s.modCtx k fun x =>
    { x.setCir cir with lq := tblPut x.lq q (rows.foldl (fun l (id, d, p) => fillRow l id d p) (x.lrows q)) }

/-- A push at its place among the pushes of a cluster: in the order of issue (R23). -/
def placeSig (e : Nat × BitVec 2 × Nat) : List (Nat × BitVec 2 × Nat) → List (Nat × BitVec 2 × Nat)
  | [] => [e]
  | f :: r => if e.2.2 < f.2.2 then e :: f :: r else f :: placeSig e r

/-- A push of a word issued in sc iss that falls due at the end of this cc (R23). -/
def State.sigNow (s : State) (k : Who) (sig : BitVec 2) (iss : Nat) : State :=
  if sig = 0 then s else s.modClu k fun c => { c with sigs := placeSig (0, sig, iss) c.sigs }

/-- Delivers rows to their queue and ends the access; a context freed meanwhile takes nothing (R120), and a
debug-stopped one takes them once it runs again (R385). -/
def State.deliver (s : State) (i : Nat) (a : Acc) (q : Nat) (rows : List (Nat × Nat × Nat)) (cir : Nat) : State :=
  if a.live && (s.ctxOf a.who).frozen then { s with accs := tblPut s.accs i { a with kind := .served q rows cir none } }
  else
  let s := s.dropAcc i
  if a.live then
    let s := rows.foldl (fun s r => s.hand (.clu a.who) (.row a.who.core a.who.ctx r.1)) s
    (s.fillRows a.who q rows cir).sigNow a.who a.sig a.iss
  else s

/-- A general-path load is served and its rows filled (R228). -/
def State.fillLoad (s : State) (i : Nat) (a : Acc) (f : Fill) : State :=
  let (s, d, p) := (s.loadCell a.who (a.sa / 64)).sysRead a.sa a.task.tag
  let (rows, cir) := f.serve d p
  s.deliver i a f.q rows cir

/-- A direct-path load is served in cc t of its die (R217): the value is fixed, and becomes
visible after the latency that the image states, or the die's own if that is longer. -/
def State.serveDirect (s : State) (i : Nat) (a : Acc) (f : Fill) (t : Nat) : State :=
  let (s, d, p) := (s.loadCell a.who (a.sa / 64)).sysRead a.sa a.task.tag
  let (rows, cir) := f.serve d p
  let l := Nat.max ((a.task.snap.lats[12]?).getD 240) (s.ownLatency (dieOf a.who.core) 12)
  { s with accs := tblPut s.accs i { a with kind := .served f.q rows cir (some (t + l)) } }

/-- A row store is written in its memory (R233). -/
def State.performStore (s : State) (i : Nat) (a : Acc) (data : Nat) : State :=
  ((s.sysWrite a.sa fullMask data 0 a.task.tag).setCell i a.who.core (a.sa / 64) fullMask false).dropAcc i

/-- Lock bit of an SPM address: bank of both groups x 8 + row mod 8 (R203, R210). -/
def lockKey (addr : Nat) : Nat :=
  let row := bitsN addr 6 13
  ((bitsN addr 19 1 * 32 + (row + row / 32) % 32)) * 8 + row % 8

def Core.freeLock (c : Core) (addr : Nat) : Core := { c with locks := tblErase c.locks (lockKey addr) }

/-- The lock bit of a row is freed by the context that holds it, and by no other (R210). -/
def Core.unlock (c : Core) (addr core ctx : Nat) : Core :=
  if tblFind c.locks (lockKey addr) = some (core, ctx) then c.freeLock addr else c

/-- Adds one element to an exponent histogram (R359). -/
def Core.histAdd (c : Core) (n bin : Nat) : Core :=
  let k := 67 * n + bin
  let v := tblGet 0 c.hist k
  let c : Core := { c with histNew := tblPut c.histNew k (tblGet 0 c.histNew k + 1) }
  if v = 2 ^ 32 - 1 then { c with histOvf := tblPut c.histOvf n true }
  else { c with hist := tblPut c.hist k (v + 1) }

/-- The elements of one STQX enter their histogram with the row (R359). -/
def State.histWord (s : State) (n : Nat) (bins : List (Nat × Nat)) : State :=
  if bins.isEmpty then s else s.modCore n fun c => bins.foldl (fun c e => c.histAdd e.1 e.2) c

/-- A die-window store is performed at its target (R208, R210, R252, R254, R359): a plain store opens the row, which no
other core has opened since it issued (State.settleRow). In a state that says otherwise it stops its task instead. -/
def State.performWin (s : State) (i : Nat) (a : Acc) (n addr data : Nat) (unlock : Bool) : State :=
  let key := spmKey n addr
  match (if unlock then some s else s.plain a.who.core key true false) with
  | none => (s.dropAcc i).faultLate a.who a.task { code := fRace, addr := BitVec.ofNat 64 a.va, eng := s.rowEng key }
  | some s =>
    let s := (((s.spmWrite n addr fullMask data 0).setCell i a.who.core a.place fullMask false).dropAcc i).histWord a.who.core a.bins
    if unlock && a.live then s.modCore n fun c => c.unlock addr a.who.core a.who.ctx else s

/-- New value of an atomic of n bits (R229); 7 is CASG. -/
def atomNew (op n old v new : Nat) : Nat :=
  match op with
  | 0 => (old + v) % 2 ^ n
  | 1 => if sextN v n < sextN old n then v else old
  | 2 => if sextN old n < sextN v n then v else old
  | 3 => old &&& v
  | 4 => old ||| v
  | 5 => old ^^^ v
  | 6 => v
  | _ => if old = v then new else old

/-- An indivisible read-modify-write of n bytes at a system address (R219, R229): old value, whether it
was poisoned. -/
def State.atomicAt (s : State) (sa n op : Nat) (v new : Nat) (tag : Nat) : State × Nat × Bool :=
  let row := sa / 64 * 64
  let m := 2 ^ (8 * n)
  let value (old : Nat) : Nat := atomNew op (8 * n) old (v % m) (new % m)
  if saLevel sa = 1 then
    let (s, old, p) := s.shaWords sa n tag
    let words := if p = 0 then 0 else (if n = 8 then 3 else 1) <<< (sa % 64 / 4)
    (s.sysWrite sa ((2 ^ n - 1) <<< (sa % 64)) (value old <<< (8 * (sa % 64))) words tag, old, p ≠ 0)
  else
    let before := s
    let (s, old, pois) := s.sysReadN sa n tag
    if saLevel sa = 2 then
      (if Config.hostFails before.free then (s, old, true)
       else ({ s with mem := s.mem.writeN (s.memKey row + sa % 64) n (value old) }, old, pois))
    else
      let words := if pois then (if n = 8 then 3 else 1) <<< (sa % 64 / 4) else 0
      let s := { s with hbmErr := tblErase s.hbmErr row, rewrite := s.rewrite.filter (· ≠ row) }
      (s.sysWrite sa ((2 ^ n - 1) <<< (sa % 64)) (value old <<< (8 * (sa % 64))) words tag, old, pois)

/-- A value written to a register at once is newer than all that the delay line still holds of it by the next sc: an
older word's result that comes late does not take its place (R26, R27). -/
def Cluster.newest (c : Cluster) (r : Res) : Cluster :=
  { c with dl := c.dl.map fun f => if f.vis ≤ c.sc + 1 then { f with res := f.res.filterMap fun x => x.under r } else f }

/-- The old value of an atomic returns: the cluster goes on with the word after (R229). -/
def State.returnAtomic (s : State) (a : Acc) (old : Word) (pois : Bool) (sd : Nat) : State :=
  if a.live then
    let s := s.modClu a.who fun c => { (c.newest (.scal sd old)).setS sd old with blocked := false }
    if pois then s.modCtx a.who fun x => x.setCir 1 else s
  else s

/-- An atomic is performed and its old value returns, to a debug-stopped context once it runs again (R229, R385). No
other core has opened its row since it issued (R251, State.settleRow); in a state that says otherwise it stops its task
instead. It acquires at its scope, or for a later fence (R239). -/
def State.performAtomic (s : State) (i : Nat) (a : Acc) (op : Nat) (wide : Bool) (v new : Word) (sd : Nat) : State :=
  let n := if wide then 8 else 4
  if saLevel a.sa = 1 && s.openFor a.who.core (shaKey a.sa) then
    (s.dropAcc i).faultLate a.who a.task
      { code := fRace, addr := BitVec.ofNat 64 a.va, eng := s.rowEng (shaKey a.sa) }
  else
  let k := a.who
  let bytes := (2 ^ n - 1) <<< (a.sa / n * n % 64)
  let s := s.readCell (a.sa / 64) bytes fun r f =>
    if (match a.acq with | some q => covers r f q k.core | none => false) then .clu k else .read k.core k.ctx r f
  let (s, old, pois) := s.atomicAt (a.sa / n * n) n op v.toNat new.toNat a.task.tag
  let s := s.setCell i k.core (a.sa / 64) bytes true
  if a.live && (s.ctxOf k).frozen then
    { s with accs := tblPut s.accs i { a with kind := .answered (BitVec.ofNat 64 old) pois sd } }
  else (s.dropAcc i).returnAtomic a (BitVec.ofNat 64 old) pois sd

/-- Whether load j comes before what a core writes to its row next (R240, R249): it is one of that core, or one that a
cluster of the core knows to have come before. -/
def State.loadBefore (s : State) (j : Nat) (b : Acc) (core : Nat) : Bool :=
  b.reads && (b.who.core = core || s.known.any fun e => e.1 = j && match e.2 with | .clu k => k.core = core | _ => false)

/-- Whether such a load is still to read the row. -/
def State.loadLeft (s : State) (core place : Nat) : Bool :=
  s.accs.any fun (j, b) => b.place = place && s.loadBefore j b core

/-- Whether accesses of a core follow access b of the same row, if it stores (R233): one of the core, or one past the
order point of its die. -/
def Acc.followedBy (b : Acc) (core : Nat) : Bool := b.who.core = core || (b.passed && dieOf b.who.core = dieOf core)

/-- Whether access b comes before access a of the same row (R228, R233, R235): both of one cluster, in program order;
or a store of the core, or one past the order point of the die. -/
def Acc.beforeIn (b : Acc) (who : Who) : Bool :=
  b.who = who || (b.stores && b.followedBy who.core)

/-- Whether access i must still wait for an older one of the same row (R228, R233, R235, R249). -/
def State.accWaits (s : State) (i : Nat) (a : Acc) : Bool :=
  s.accs.any fun (j, b) => j < i && b.place = a.place &&
      ((b.stores || b.reads) && b.beforeIn a.who || a.stores && s.loadBefore j b a.who.core)

/-- Whether a store that follows load j of the same row, and that accesses of a core follow, is among the accesses
before i (R228, R249). -/
def State.storeBehind (s : State) (j i : Nat) (b : Acc) (core : Nat) : Bool :=
  s.accs.any fun (m, c) => j < m && m < i && c.place = b.place && c.stores && c.followedBy core &&
    (c.who = b.who || s.loadBefore j b c.who.core)

/-- Performs the outstanding stores and atomics to one row that are older than access i and that an access of the
core follows (R233): those of the core, and those of its die past the order point; oldest first, and with them the
loads that they follow (R228, R249). -/
def State.performOlder (s : State) (i : Nat) (core place : Nat) : State :=
  s.accs.foldl (fun s (j, b) =>
    if j < i && b.place = place && !s.accWaits j b && (b.followedBy core || s.storeBehind j i b core) then
      match b.kind with
      | .store d => if saDev b.sa = s.devId then s.performStore j b d else s
      | .load f => if saDev b.sa = s.devId && s.storeBehind j i b core then s.fillLoad j b f else s
      | .win n addr d u => s.performWin j b n addr d u
      | .atom op w v new sd => s.performAtomic j b op w v new sd
      | _ => s
    else s) s

/-- A plain store of core n is about to open a row, whose place is given (R252). Window stores of other cores to the row
that are out open it first, and atomics are performed first: they were checked where they issued, where an AC word
raises RACE precisely (R71), and nothing has opened the row since. DESIGN CHOICE (log 57). -/
def State.settleRow (s : State) (n key place : Nat) : State :=
  s.accs.foldl (fun s (j, b) =>
    if b.who.core = n || b.place ≠ place then s
    else match b.kind with
      | .win _ _ _ false => (s.plain b.who.core key true false).getD s
      | .atom .. => s.performOlder (j + 1) b.who.core place
      | _ => s) s

/-- A plain store of core n to a row (R252): none is RACE. -/
def State.plainStore (s : State) (n key place : Nat) (eng : Bool) : Option State :=
  (s.settleRow n key place).plain n key true eng

/-- Whether a store that an access of the core to one row must follow is still not performed: it waits for a direct-path
load of its own cluster (R217). -/
def State.olderLeft (s : State) (i : Nat) (core place : Nat) : Bool :=
  s.accs.any fun (j, b) => j < i && b.place = place && b.stores && b.followedBy core

/-- An engine of core n touches a row of its SPM (R204, R233): window stores of the core that came before are performed,
and the row is noted for the cc. -/
def State.engTouch (s : State) (n a : Nat) (store : Bool) : State :=
  (s.performOlder s.accNext n (2 ^ 64 + spmKey n a)).modCore n fun c =>
    { c with spmSeen := (2 * (a % 2 ^ 20 / 64) + (if store then 1 else 0)) :: c.spmSeen }

/-- Whether an engine has read a row of the core's SPM since the last cc ended: its write belongs to that cc, so another
engine's write of the row waits (R204, R207). -/
def Core.readNow (c : Core) (a : Nat) : Bool := c.spmSeen.contains (2 * (a % 2 ^ 20 / 64))
/-- Whether an engine has touched a row since the last cc ended. -/
def Core.touched (c : Core) (a : Nat) : Bool := c.readNow a || c.spmSeen.contains (2 * (a % 2 ^ 20 / 64) + 1)

/-- Adds an access in flight. -/
def State.addAcc (s : State) (a : Acc) : State :=
  { s with accs := tblPut s.accs s.accNext a, accNext := s.accNext + 1 }

end Sys2Proof.Machine
end

