-- ==== Sys2Proof/Machine/Delivery.lean ====
section
/-! DEFINITION. Events by which what words have started comes about: flags of other cores (R122), results and tokens
(R23, R26), lines of code (R92), page walks (R199, R200), loads, stores and atomics in flight (R208, R217, R228,
R229, R233). An event that is not due leaves the state as it is. -/

namespace Sys2Proof.Machine

/-- A wake message for a core (R388): a gating that has not committed is aborted, a gated core is woken later. -/
def State.wakeCore (s : State) (n : Nat) : State :=
  match (s.core n).power with
  | .on => s
  | .gating _ => s.modCore n fun c => { c with power := .on }
  | .off => s.modCore n fun c => { c with wake := true }

/-- Contexts of a core whose task belongs to a launch. -/
def Core.ofLaunch (c : Core) (l : Nat) : List Nat :=
  (List.range 4).filter fun x => match (c.ctx x).task with | some t => t.launch = l | none => false

/-- POSTG_DELIVERY (R122): the flag is set in every context of the launch there, or the post is discarded. -/
def execPostgDelivery (i : Nat) (s : State) : Host.Outcome State Fault Refusal :=
  match tblFind s.postg i with
  | none => .next s
  | some (n, f, l, who) =>
    let s := s.wakeCore n
    if (s.core n).power = .off then .next s
    else
      let s : State := { s with postg := tblErase s.postg i }
      let xs := (s.core n).ofLaunch l
      if xs.isEmpty then .next (s.modDie (dieOf n) fun d => { d with discarded := (d.discarded + 1) % 2 ^ 64 })
      else .next ((xs.foldl (fun s x =>
        (s.hand (.post i) (.flagIn n x f)).modCtx ⟨n, x, .c⟩ fun x => x.setFlag f true who) s).forget (· = .post i))

/-- RESULT_VISIBLE (R26): what is due in a cluster's present sc has landed. -/
def execResultVisible (k : Who) (s : State) : Host.Outcome State Fault Refusal := .next (s.landDue k)

/-- HELD_TOKEN_PUSH (R23): a cluster's held pushes are made as far as there is room. -/
def execHeldTokenPush (k : Who) (s : State) : Host.Outcome State Fault Refusal :=
  if (s.clu k).held.isEmpty then .next s
  else .next (s.pushTokens k (s.clu k).held)

/-- INSTRUCTION_FETCH (R92): the line a frozen context waits for comes into the cache. A line whose address does not
translate, or lies on a peer, never arrives (log 12). -/
def execInstructionFetch (k : Who) (s : State) : Host.Outcome State Fault Refusal :=
  match (s.ctxOf k).fetch with
  | none => .next s
  | some va =>
    let t := s.taskOf k
    match s.translate k.core t (va / 64 * 64) with
    | (s, none) => .next s
    | (s, some (sa, _)) =>
      if saDev sa ≠ s.devId then .next s
      else
        let (s, d, _) := s.sysRead sa t.tag
        .next ((s.modCore k.core fun c => c.fillLine (lineKey t va) (bytesOfNat 64 d)).modCtx k
          fun x => { x with fetch := none })

/-- Whether a cluster of a context waits for the page of va. -/
def Ctx.walksFor (x : Ctx) (va : Nat) : Bool :=
  [Clu.c, .a, .v, .m].any fun u =>
    let c := x.clu u
    c.wait = some .tlb && c.asked && (match c.answer with | some v => v.toNat / 65536 = va / 65536 | none => false)

/-- PAGE_WALK (R199, R200): fills the TLBs, or leaves word that the page has no mapping. -/
def execPageWalk (n va : Nat) (s : State) : Host.Outcome State Fault Refusal :=
  match (List.range 4).find? fun x => ((s.core n).ctx x).task.isSome && ((s.core n).ctx x).walksFor va with
  | none => .next s
  | some x =>
    let p := (s.taskOf ⟨n, x, .a⟩).part
    match s.walkFill n x p va with
    | (s, some _) => .next s
    | (s, none) => .next (s.modCore n fun c =>
        { c with walkBad := (p, va / 65536) :: c.walkBad.filter (· ≠ (p, va / 65536)) })

/-- A direct-path load is served in the slot occurrence that starts in cc t, after the stores and atomics that it
follows (R217, R233, R235); one of those that cannot be performed yet leaves it to the next occurrence. -/
def State.serveSlot (s : State) (i : Nat) (a : Acc) (f : Fill) (t : Nat) : State :=
  let s := s.performOlder i a.who.core a.place
  if s.olderLeft i a.who.core a.place then { s with accs := tblPut s.accs i { a with kind := .direct f (t + 64) } }
  else s.serveDirect i a f t

/-- A direct-path load whose slot has come is served (R217). -/
def State.serveDue (s : State) (i : Nat) : State :=
  match tblFind s.accs i with
  | none => s
  | some a =>
    match a.kind with
    | .direct f t => if t ≤ (s.die (dieOf a.who.core)).dcc then s.serveSlot i a f t else s
    | _ => s

/-- The end of a cc for a row that a direct-path load has read (R92, R217): it comes one cc later for each cc of a fetch
freeze; its push falls due in the cc before it comes (R23). DEDUCED (log 78): the whole latency is a delay line. -/
def State.rowEnd (s : State) (i : Nat) : State :=
  match tblFind s.accs i with
  | none => s
  | some a =>
    match a.kind with
    | .served q rows cir (some t) =>
      if !a.live || (s.ctxOf a.who).frozen then s
      else if (s.ctxOf a.who).fetch.isSome then
        { s with accs := tblPut s.accs i { a with kind := .served q rows cir (some (t + 1)) } }
      else if t ≤ (s.die (dieOf a.who.core)).dcc + 1 && a.sig ≠ 0 then
        { s with accs := tblPut s.accs i { a with sig := 0 } }.sigNow a.who a.sig a.iss
      else s
    | _ => s

/-- The start of a cc for such a row: it comes if this is its cc, and the context is not frozen (R92, R217, R385). -/
def State.rowDue (s : State) (i : Nat) : State :=
  match tblFind s.accs i with
  | none => s
  | some a =>
    match a.kind with
    | .served q rows cir (some t) =>
      let x := s.ctxOf a.who
      if t ≤ (s.die (dieOf a.who.core)).dcc && !(a.live && (x.frozen || x.fetch.isSome)) then s.deliver i a q rows cir else s
    | _ => s

/-- DIRECT_PATH_SERVE (R217). -/
def execDirectPathServe (i : Nat) (s : State) : Host.Outcome State Fault Refusal := .next (s.serveDue i)

/-- LOAD_ROW_FILL (R228): a general-path load of the device's own memory is served, or a row of the shared array
that was read at issue arrives. -/
def execLoadRowFill (i : Nat) (s : State) : Host.Outcome State Fault Refusal :=
  match tblFind s.accs i with
  | none => .next s
  | some a =>
    match a.kind with
    | .load f => if saDev a.sa ≠ s.devId || s.accWaits i a then .next s else .next (s.fillLoad i a f)
    | .served q rows cir none => .next (s.deliver i a q rows cir)
    | _ => .next s

/-- GLOBAL_STORE_PERFORM (R233): a store is written in its memory. -/
def execGlobalStorePerform (i : Nat) (s : State) : Host.Outcome State Fault Refusal :=
  match tblFind s.accs i with
  | none => .next s
  | some a =>
    match a.kind with
    | .store d => if saDev a.sa ≠ s.devId || s.accWaits i a then .next s else .next (s.performStore i a d)
    | _ => .next s

/-- DIE_WINDOW_STORE_PERFORM (R208): the target core is woken first (R388). -/
def execDieWindowStorePerform (i : Nat) (s : State) : Host.Outcome State Fault Refusal :=
  match tblFind s.accs i with
  | none => .next s
  | some a =>
    match a.kind with
    | .win n addr d u =>
      let s := s.wakeCore n
      if (s.core n).power = .off || s.accWaits i a || (s.core n).touched addr then .next s else .next (s.performWin i a n addr d u)
    | _ => .next s

/-- ATOMIC_PERFORM (R229): an atomic is performed, or returns to a context that has gone on (R385). -/
def execAtomicPerform (i : Nat) (s : State) : Host.Outcome State Fault Refusal :=
  match tblFind s.accs i with
  | none => .next s
  | some a =>
    match a.kind with
    | .atom op w v new sd => if s.accWaits i a || (a.live && (s.ctxOf a.who).frozen) then .next s else .next (s.performAtomic i a op w v new sd)
    | .answered old pois sd => if a.live && (s.ctxOf a.who).frozen then .next s else .next ((s.dropAcc i).returnAtomic a old pois sd)
    | _ => .next s

end Sys2Proof.Machine
end

