-- ==== Sys2Proof/Machine/Scalar.lean ====
section
/-! DEFINITION. The SC unit (R105 to R130): integer words, predicates, branches, hardware loops, the
ends of a stream, flags, barriers, fences, special registers, views, markers and traps. -/

namespace Sys2Proof.Machine

/-- A two-operand integer word of a class (R105, R106). -/
def alu (cls : Nat) (d a b : BitVec 5) (f : Word → Word → Word) : Meaning :=
  compute [.s a.toNat, .s b.toNat] cls fun s =>
    [.scal d.toNat (f (s.me.sreg a.toNat) (s.me.sreg b.toNat))]

/-- A one-operand word (R107). -/
def alu1 (d a : BitVec 5) (f : Word → Word) : Meaning :=
  compute [.s a.toNat] 0 fun s => [.scal d.toNat (f (s.me.sreg a.toNat))]

/-- A word with an immediate (R109). -/
def aluImm (d a : BitVec 5) (f : Word → Word) : Meaning := alu1 d a f

/-- Upper 64 bits of a product (Table 4.3). -/
def mulHighS (a b : Word) : Word := wordOfInt (a.toInt * b.toInt / 2 ^ 64)
def mulHighU (a b : Word) : Word := BitVec.ofNat 64 (a.toNat * b.toNat / 2 ^ 64)

/-- Bits b[5:0], the count of a shift (R105). -/
def shiftCount (b : Word) : Nat := b.toNat % 64

/-- DIVS and REMS, with the saturation of CIR (R106). -/
def divS (a b : Word) : Word × Bool :=
  if b = 0 then (0x8000000000000000#64, false)
  else if a = 0x8000000000000000#64 && b = 0xFFFFFFFFFFFFFFFF#64 then (0x7FFFFFFFFFFFFFFF#64, true)
  else (wordOfInt (Int.tdiv a.toInt b.toInt), false)
def remS (a b : Word) : Word :=
  if b = 0 then 0xFFFFFFFFFFFFFFFF#64
  else if a = 0x8000000000000000#64 && b = 0xFFFFFFFFFFFFFFFF#64 then 0
  else wordOfInt (Int.tmod a.toInt b.toInt)
def divU (a b : Word) : Word :=
  if b = 0 then 0xFFFFFFFFFFFFFFFF#64 else BitVec.ofNat 64 (a.toNat / b.toNat)
def remU (a b : Word) : Word :=
  if b = 0 then 0xFFFFFFFFFFFFFFFF#64 else BitVec.ofNat 64 (a.toNat % b.toNat)

/-- Width of the field that b describes at its position (R108). -/
def fieldWidth (b : Word) : Nat := Nat.min (bitsN b.toNat 6 7) (64 - b.toNat % 64)
def bfxOf (a b : Word) : Word := BitVec.ofNat 64 (bitsN a.toNat (b.toNat % 64) (fieldWidth b))
def bfiOf (old a b : Word) : Word := BitVec.ofNat 64 (setBits old.toNat (b.toNat % 64) (fieldWidth b) a.toNat)

def execNop (h : Hdr) := runWord (.nop h) h (meaning [] fun s => .done s .seq)
def execAdd (h : Hdr) (d a b : BitVec 5) := runWord (.add h d a b) h (alu 0 d a b (· + ·))
def execSub (h : Hdr) (d a b : BitVec 5) := runWord (.sub h d a b) h (alu 0 d a b (· - ·))
def execMul (h : Hdr) (d a b : BitVec 5) := runWord (.mul h d a b) h (alu 1 d a b (· * ·))
def execMulhs (h : Hdr) (d a b : BitVec 5) := runWord (.mulhs h d a b) h (alu 1 d a b mulHighS)
def execMulhn (h : Hdr) (d a b : BitVec 5) := runWord (.mulhn h d a b) h (alu 1 d a b mulHighU)
def execDivs (h : Hdr) (d a b : BitVec 5) :=
  runWord (.divs h d a b) h (compute [.s a.toNat, .s b.toNat] 2 fun s =>
    let r := divS (s.me.sreg a.toNat) (s.me.sreg b.toNat)
    .scal d.toNat r.1 :: cirRes (if r.2 then 4 else 0))
def execDivn (h : Hdr) (d a b : BitVec 5) := runWord (.divn h d a b) h (alu 2 d a b divU)
def execRems (h : Hdr) (d a b : BitVec 5) := runWord (.rems h d a b) h (alu 2 d a b remS)
def execRemn (h : Hdr) (d a b : BitVec 5) := runWord (.remn h d a b) h (alu 2 d a b remU)
def execAnd (h : Hdr) (d a b : BitVec 5) := runWord (.and h d a b) h (alu 0 d a b (· &&& ·))
def execOr (h : Hdr) (d a b : BitVec 5) := runWord (.or h d a b) h (alu 0 d a b (· ||| ·))
def execXor (h : Hdr) (d a b : BitVec 5) := runWord (.xor h d a b) h (alu 0 d a b (· ^^^ ·))
def execAndn (h : Hdr) (d a b : BitVec 5) := runWord (.andn h d a b) h (alu 0 d a b fun x y => x &&& ~~~y)
def execShl (h : Hdr) (d a b : BitVec 5) := runWord (.shl h d a b) h (alu 0 d a b fun x y => x <<< shiftCount y)
def execShr (h : Hdr) (d a b : BitVec 5) := runWord (.shr h d a b) h (alu 0 d a b fun x y => x >>> shiftCount y)
def execSha (h : Hdr) (d a b : BitVec 5) :=
  runWord (.sha h d a b) h (alu 0 d a b fun x y => x.sshiftRight (shiftCount y))
def execRol (h : Hdr) (d a b : BitVec 5) :=
  runWord (.rol h d a b) h (alu 0 d a b fun x y => x.rotateLeft (shiftCount y))
def execMin (h : Hdr) (d a b : BitVec 5) := runWord (.min h d a b) h (alu 0 d a b fun x y => if ltS y x then y else x)
def execMax (h : Hdr) (d a b : BitVec 5) := runWord (.max h d a b) h (alu 0 d a b fun x y => if ltS x y then y else x)
def execMinn (h : Hdr) (d a b : BitVec 5) := runWord (.minn h d a b) h (alu 0 d a b fun x y => if ltU y x then y else x)
def execMaxn (h : Hdr) (d a b : BitVec 5) := runWord (.maxn h d a b) h (alu 0 d a b fun x y => if ltU x y then y else x)
def execClz (h : Hdr) (d a : BitVec 5) :=
  runWord (.clz h d a) h (alu1 d a fun x => BitVec.ofNat 64 (clzAux 64 x.toNat))
def execPopc (h : Hdr) (d a : BitVec 5) :=
  runWord (.popc h d a) h (alu1 d a fun x => BitVec.ofNat 64 (popAux 64 x.toNat))
def execBfx (h : Hdr) (d a b : BitVec 5) := runWord (.bfx h d a b) h (alu 0 d a b bfxOf)
def execBfi (h : Hdr) (d a b : BitVec 5) :=
  runWord (.bfi h d a b) h (compute [.s d.toNat, .s a.toNat, .s b.toNat] 0 fun s =>
    [.scal d.toNat (bfiOf (s.me.sreg d.toNat) (s.me.sreg a.toNat) (s.me.sreg b.toNat))])

/-- The immediate of an RI5 word as a word (R67). -/
def imm5 (x : Option ImmF) (m : BitVec 5) : Word := wordOfInt (extImm x 5 m.toNat)
def imm10 (x : Option ImmF) (m : BitVec 10) : Word := wordOfInt (extImm x 10 m.toNat)

def execAddi (h : Hdr) (x : Option ImmF) (d a m : BitVec 5) :=
  runWord (.addi h x d a m) h (aluImm d a fun v => v + imm5 x m)
def execShli (h : Hdr) (x : Option ImmF) (d a m : BitVec 5) :=
  runWord (.shli h x d a m) h (aluImm d a fun v => v <<< shiftCount (imm5 x m))
def execShri (h : Hdr) (x : Option ImmF) (d a m : BitVec 5) :=
  runWord (.shri h x d a m) h (aluImm d a fun v => v >>> shiftCount (imm5 x m))
def execShai (h : Hdr) (x : Option ImmF) (d a m : BitVec 5) :=
  runWord (.shai h x d a m) h (aluImm d a fun v => v.sshiftRight (shiftCount (imm5 x m)))
def execAndi (h : Hdr) (x : Option ImmF) (d a m : BitVec 5) :=
  runWord (.andi h x d a m) h (aluImm d a fun v => v &&& imm5 x m)
def execLi (h : Hdr) (x : Option ImmF) (d : BitVec 5) (m : BitVec 10) :=
  runWord (.li h x d m) h (compute [] 0 fun _ => [.scal d.toNat (imm10 x m)])
/-- LIH joins IMM[25:0] above d[37:0] (R110). -/
def execLih (h : Hdr) (x : Option ImmF) (d : BitVec 5) :=
  runWord (.lih h x d) h (compute [.s d.toNat] 0 fun s =>
    [.scal d.toNat (BitVec.ofNat 64 ((x.getD 0).toNat % 2 ^ 26 * 2 ^ 38 + (s.me.sreg d.toNat).toNat % 2 ^ 38))])
def execMov (h : Hdr) (d a : BitVec 5) := runWord (.mov h d a) h (alu1 d a id)
/-- CMOV: with a false predicate d keeps its value, so nothing lands (R111). -/
def execCmov (h : Hdr) (d a : BitVec 5) (p : BitVec 3) :=
  runWord (.cmov h d a p) h (compute [.s a.toNat, .p p.toNat] 0 fun s =>
    if s.me.preg p.toNat then [.scal d.toNat (s.me.sreg a.toNat)] else [])

/-- A compare word (R112). -/
def cmpWord (p : BitVec 3) (a b : BitVec 5) (f : Word → Word → Bool) : Meaning :=
  compute [.s a.toNat, .s b.toNat] 0 fun s =>
    [.pred p.toNat (f (s.me.sreg a.toNat) (s.me.sreg b.toNat))]

def execCmpeq (h : Hdr) (p : BitVec 3) (a b : BitVec 5) := runWord (.cmpeq h p a b) h (cmpWord p a b fun x y => x = y)
def execCmpne (h : Hdr) (p : BitVec 3) (a b : BitVec 5) := runWord (.cmpne h p a b) h (cmpWord p a b fun x y => x ≠ y)
def execCmplt (h : Hdr) (p : BitVec 3) (a b : BitVec 5) := runWord (.cmplt h p a b) h (cmpWord p a b ltS)
def execCmple (h : Hdr) (p : BitVec 3) (a b : BitVec 5) := runWord (.cmple h p a b) h (cmpWord p a b leS)
def execCmpltn (h : Hdr) (p : BitVec 3) (a b : BitVec 5) := runWord (.cmpltn h p a b) h (cmpWord p a b ltU)
def execCmplen (h : Hdr) (p : BitVec 3) (a b : BitVec 5) := runWord (.cmplen h p a b) h (cmpWord p a b leU)

/-- A predicate word (R113). -/
def predWord (d a b : BitVec 3) (f : Bool → Bool → Bool) : Meaning :=
  compute [.p a.toNat, .p b.toNat] 0 fun s =>
    [.pred d.toNat (f (s.me.preg a.toNat) (s.me.preg b.toNat))]

def execPand (h : Hdr) (d a b : BitVec 3) := runWord (.pand h d a b) h (predWord d a b (· && ·))
def execPor (h : Hdr) (d a b : BitVec 3) := runWord (.por h d a b) h (predWord d a b (· || ·))
def execPxor (h : Hdr) (d a b : BitVec 3) := runWord (.pxor h d a b) h (predWord d a b (· ^^ ·))

/-- Target of BR, JMP and CALL from the word's own offset (R114). -/
def State.target (s : State) (i : Instr) (x : Option ImmF) (o : BitVec 11) : Int :=
  (s.wordPc i : Int) + 4 * extImm x 11 o.toNat

/-- p xor N (R114, R118). -/
def State.cond (s : State) (p : BitVec 3) (n : BitVec 1) : Bool := s.me.preg p.toNat ^^ (n = 1)

def execBr (h : Hdr) (x : Option ImmF) (p : BitVec 3) (n : BitVec 1) (o : BitVec 11) :=
  let i := Instr.br h x p n o
  runWord i h (meaning [.p p.toNat] fun s => .done s (if s.cond p n then .jump (s.target i x o) true else .seq))
def execJmp (h : Hdr) (x : Option ImmF) (o : BitVec 11) :=
  let i := Instr.jmp h x o
  runWord i h (meaning [] fun s => .done s (.jump (s.target i x o) true))
/-- A jump to an offset held in a scalar (R114). -/
def jumpReg (r : Nat) (ends : Bool) : Meaning :=
  meaning [.s r] fun s =>
    let v := s.me.sreg r
    if v.toNat ≥ 2 ^ 32 then .fault { code := fIllegalWord } else .done s (.jump v.toNat ends)
def execJmpr (h : Hdr) (a : BitVec 5) := runWord (.jmpr h a) h (jumpReg a.toNat true)
def execRet (h : Hdr) := runWord (.ret h) h (jumpReg 31 false)
def execCall (h : Hdr) (x : Option ImmF) (o : BitVec 11) :=
  let i := Instr.call h x o
  runWord i h (meaning [] fun s =>
    .done (s.later 0 [.scal 31 (BitVec.ofNat 64 (s.wordPc i + 4))]) (.jump (s.target i x o) false))

/-- A loop word: count, body length in words, LOOPP shape (R98, R99, R103). -/
def State.startLoop (s : State) (i : Instr) (count len : Nat) (shape : Option (Nat × Nat)) : Act :=
  let c := s.me
  let ls := s.wordPc i + 4
  let le := ls + 4 * (len - 1)
  let n := c.ldepth
  let bad := 3 ≤ n || (0 < n && (c.leOf (n - 1)).toNat < le) ||
    (match c.loopp with | some (l, _, _) => (c.lsOf l).toNat ≤ ls && le ≤ (c.leOf l).toNat | none => false) ||
    (shape.isSome && c.loopp.isSome)
  if bad then .fault { code := fIllegalWord }
  else if count = 0 then .done s (.goto (BitVec.ofNat 32 (ls + 4 * len)))
  else
    let s := s.modMe fun c =>
      { c with ldepth := n + 1, ls := tblPut c.ls n (BitVec.ofNat 32 ls), le := tblPut c.le n (BitVec.ofNat 32 le),
               lc := tblPut c.lc n (BitVec.ofNat 64 (match shape with | none => count | some _ => count - 1)) }
    match shape with
    | none => .done s .seq
    | some (st, g) => .done (s.modMe fun c => { c with loopp := some (n, st, g), stg := 1, stopping := false }) .seq

def execLoop (h : Hdr) (d : BitVec 5) (l : BitVec 10) :=
  let i := Instr.loop h d l
  runWord i h (meaning [.s d.toNat] fun s => s.startLoop i (s.me.sreg d.toNat).toNat l.toNat none)
def execLoopi (h : Hdr) (x : Option ImmF) (c : BitVec 5) (l : BitVec 10) :=
  let i := Instr.loopi h x c l
  runWord i h (meaning [] fun s => s.startLoop i (loopCount x c) l.toNat none)
def execLoopp (h : Hdr) (d : BitVec 5) (st : BitVec 3) (g : BitVec 7) :=
  let i := Instr.loopp h d st g
  runWord i h (meaning [.s d.toNat] fun s =>
    s.startLoop i (s.me.sreg d.toNat).toNat ((st.toNat + 1) * g.toNat) (some (st.toNat + 1, g.toNat)))
/-- BRKL (R118). -/
def execBrkl (h : Hdr) (p : BitVec 3) (n : BitVec 1) :=
  runWord (.brkl h p n) h (meaning [.p p.toNat] fun s =>
    let c := s.me
    if !s.cond p n || c.ldepth = 0 then .done s .seq
    else
      let l := c.ldepth - 1
      let own : Bool := match c.loopp with | some (lv, _, _) => lv = l | none => false
      if own then .done (s.modMe fun c => { c with lc := tblPut c.lc l 0, stopping := true }) .seq
      else .done (s.modMe fun c => { c with ldepth := l }) (.goto (c.leOf l + 4)))

def execEndStream (h : Hdr) := runWord (.endStream h) h (meaning [] fun s => .done s (.ended .ended))
/-- TAIL waits for the cluster's results, for M's commands, and for a tracker entry (R120). -/
def execTail (h : Hdr) :=
  runWord (.tail h) h (meaning [] fun s =>
    if !s.me.dl.isEmpty || !s.loadsDone s.cur then .stall .tail s
    else if s.cur.clu = .m && s.mxOf s.cur then .stall .tail s
    else if 8 ≤ s.myCore.tracker.length then .stall .tracker s
    else .done s (.ended .tailed))

def execPost (h : Hdr) (f : BitVec 5) :=
  runWord (.post h f) h (meaning [] fun s =>
    .done ((s.hand (.clu s.cur) (.flagIn s.cur.core s.cur.ctx f.toNat)).modMyCtx fun x => x.setFlag f.toNat false s.cur.clu.num) .seq)
/-- The data of a wait record (R361, R363). -/
def waitData (f setter waited : Nat) : Word :=
  BitVec.ofNat 64 (f + setter % 32 * 256 + Nat.min waited (2 ^ 32 - 1) * 2 ^ 32)
/-- AWAIT (R95, R121): completes when the flag is 1 and no other cluster has taken it in this cc. DESIGN CHOICE (log
91): among the clusters that own the cc, so that one that waits longer and does not own it leaves the flag to a later
one. -/
def execAwait (h : Hdr) (f : BitVec 5) :=
  runWord (.await h f) h (meaning [] fun s =>
    let x := s.myCtx
    if x.flagFree f.toNat then
      .done (((s.hand (.flag s.cur.core s.cur.ctx f.toNat) (.clu s.cur)).modMyCtx fun x => { x with fclears := x.fclears ++ [f.toNat] }).traceClu s.cur 4
        (waitData f.toNat (tblGet 0 x.setter f.toNat) (if s.me.hadFlag then 0 else s.me.waited))) .seq
    else .stall (.flag f.toNat) s)

/-- POSTG sends one message to the target core (R122); a release at GROUP scope. -/
def execPostg (h : Hdr) (f a : BitVec 5) :=
  runWord (.postg h f a) h (meaning [.s a.toNat] fun s =>
    s.guarded (
      let v := s.me.sreg a.toNat
      if v.toNat ≥ 16 then .fault { code := fIllegalWord }
      else match s.release s.cur 1 with
      | none => .stall .fence s
      | some s =>
        let n := 16 * dieOf s.cur.core + v.toNat
        let msg := (n, f.toNat, s.myTask.launch, 16 + s.cur.core % 16)
        let s := s.hand (.clu s.cur) (.post s.postgNext)
        .done { s with postg := tblPut s.postg s.postgNext msg, postgNext := s.postgNext + 1 } .seq))

/-- BAR arrives once, and issues when its phase has completed (R96, R123). It waits in the barrier from its release on
(Table 12.6). -/
def execBar (h : Hdr) (n : BitVec 4) :=
  runWord (.bar h n) h (meaning [] fun s =>
    s.guarded (
      if s.me.barGo then .done s .seq
      else if s.me.asked then .stall (.barrier n.toNat) s
      else match s.release s.cur 1 with
      | none => .stall (.barrier n.toNat) s
      | some s =>
        let d := dieOf s.cur.core
        .stall (.barrier n.toNat)
          (((s.modMe fun c => { c with asked := true }).modDie d fun x =>
            { x with barr := tblPut x.barr n.toNat (x.arrivers n.toNat ++ [s.cur]) }).barrierCheck d n.toNat)))

/-- FENCE (R124): o[0] acquires, o[1] releases. -/
def execFence (h : Hdr) (c o : BitVec 2) :=
  runWord (.fence h c o) h (meaning [] fun s =>
    let cmds := s.cmdsOf s.cur (fun k => k = s.cur.clu) || (s.cur.clu = .m && s.mxOf s.cur)
    let acq (s : State) : State := if o.getLsbD 0 then s.acquireReads s.cur c.toNat else s
    if o.getLsbD 0 && !s.loadsDone s.cur then .stall .fence s
    else if o.getLsbD 1 then
      if cmds then .stall .fence s
      else match (acq s).release s.cur c.toNat with
        | none => .stall .fence s
        | some s => .done (s.releaseFence s.cur c.toNat) .seq
    else .done (acq s) .seq)

/-- The value RDS reads (Table 4.2). -/
def State.special (s : State) (i : Instr) (n : Nat) : Word :=
  let c := s.me
  if n = 0 then BitVec.ofNat 64 (s.wordPc i)
  else if n = 1 then c.rmode.zeroExtend 64
  else if n = 2 then c.seed
  else if n = 3 then c.stream.zeroExtend 64
  else if n = 4 then c.ctr
  else if n = 5 then s.myTask.tid
  else if n = 6 then BitVec.ofNat 64 ((s.die (dieOf s.cur.core)).dcc % 64)
  else if n = 7 then BitVec.ofNat 64 (Config.cfgid s.form)
  else if n = 8 then c.stg.zeroExtend 64
  else if n = 9 then BitVec.ofNat 64 c.ldepth
  else if 0x10 ≤ n && n ≤ 0x12 then c.lcOf (n - 0x10)
  else if 0x14 ≤ n && n ≤ 0x16 then (c.lsOf (n - 0x14)).zeroExtend 64
  else if 0x18 ≤ n && n ≤ 0x1A then (c.leOf (n - 0x18)).zeroExtend 64
  else BitVec.ofNat 64 ((s.die (dieOf s.cur.core)).barCount (n - 0x100))

/-- How many bits a writable special register has (Table 4.2). -/
def specialBits (n : Nat) : Nat :=
  if n = 1 then 2 else if n = 3 then 32 else if 0x100 ≤ n then 7 else 64

def execRds (h : Hdr) (d : BitVec 5) (r : BitVec 10) :=
  let i := Instr.rds h d r
  runWord i h (compute [.sp r.toNat] 0 fun s => [.scal d.toNat (s.special i r.toNat)])
def execWrs (h : Hdr) (d : BitVec 5) (r : BitVec 10) :=
  runWord (.wrs h d r) h (meaning [.s d.toNat] fun s =>
    let v := s.me.sreg d.toNat
    let n := r.toNat
    if v.toNat ≥ 2 ^ specialBits n || (0x100 ≤ n && (v = 0 || v.toNat > 64)) then .fault { code := fIllegalWord }
    else .done (s.laterN 1 [.spec n v]) .seq)
def execSetrm (h : Hdr) (r : BitVec 2) :=
  runWord (.setrm h r) h (meaning [] fun s => .done (s.laterN 1 [.spec 1 (r.zeroExtend 64)]) .seq)
def execSeed (h : Hdr) (a b : BitVec 5) :=
  runWord (.seed h a b) h (meaning [.s a.toNat, .s b.toNat] fun s =>
    let v := s.me.sreg b.toNat
    if v.toNat ≥ 2 ^ 32 then .fault { code := fIllegalWord }
    else .done (s.laterN 1 [.spec 2 (s.me.sreg a.toNat), .spec 3 v, .spec 4 0]) .seq)
/-- VIEW under a keep mask (R128, R137). -/
def execView (h : Hdr) (v : BitVec 2) (a b : BitVec 5) :=
  runWord (.view h v a b) h (meaning [.s a.toNat, .s b.toNat] fun s =>
    let k := s.me.sreg b.toNat
    let new := (s.me.sreg a.toNat &&& ~~~k) ||| (s.myCtx.view v.toNat &&& k)
    if !viewOk v.toNat new s.myTask.snap.frame then .fault { code := fViewRange }
    else .done (s.laterN 1 [.view v.toNat new]) .seq)

/-- The data of a marker record (R361). -/
def markData (n : Nat) (q ok : Bool) : Word :=
  BitVec.ofNat 64 (n + (if q then 2 ^ 16 else 0) + (if ok then 2 ^ 17 else 0))
/-- MARK and MARKQ stall before issue until the tier engine has answered their request (R129). -/
def State.withMark (s : State) (f : Bool → Act) : Act :=
  match s.me.answer with
  | none => .stall .mark (s.modMe fun c => { c with asked := true })
  | some v => f (v.getLsbD 0)
def execMark (h : Hdr) (n : BitVec 10) :=
  runWord (.mark h n) h (meaning [] fun s => s.withMark fun ok =>
    if !ok then .fault { code := fScheduleMiss } else .done (s.traceClu s.cur 5 (markData n.toNat false true)) .seq)
def execMarkq (h : Hdr) (p : BitVec 3) (n : BitVec 10) :=
  runWord (.markq h p n) h (meaning [] fun s => s.withMark fun ok =>
    .done ((s.traceClu s.cur 5 (markData n.toNat true ok)).later 0 [.pred p.toNat ok]) .seq)

/-- The tier engine answers the request of a cluster that waits with MARK or MARKQ (R129): in one step, at the end of
the cc of the request (log 21), with the result of the test; without an almanac it is 1. -/
def State.answerMark (s : State) (k : Who) : State :=
  let c := s.clu k
  if c.run = .run && c.wait = some .mark && c.asked && c.answer.isNone then
    let ask (n : Nat) (q : Bool) : State :=
      match { s with cur := k }.markAsk n q with
      | none => s.modClu k fun c => { c with answer := some 1 }
      | some (ok, s) => s.modClu k fun c => { c with answer := some (if ok then 1 else 0) }
    match s.nextGroup k with
    | .ok (.mark _ n) => ask n.toNat false
    | .ok (.markq _ _ n) => ask n.toNat true
    | _ => s
  else s

def execTrap (h : Hdr) (c : BitVec 10) :=
  runWord (.trap h c) h (meaning [] fun _ => .fault { code := fSoftwareTrap, trap := c.toNat })

/-- The stop record of an engine (R372): one that it already has stays. -/
def State.stopEngine (s : State) (n unit kind : Nat) (tid addr : Word) (cseq fidx stat : Nat) : State :=
  let r : StopRec := { StopRec.zero with kind := kind, unit := unit, task := tid, addr := addr, cseq := cseq % 2 ^ 48,
                                         fidx := fidx, stat := stat, loc := (s.die (dieOf n)).dcc }
  if (tblGet StopRec.zero (s.core n).engStop unit) = StopRec.zero then
    s.modCore n fun c => { c with engStop := tblPut c.engStop unit r }
  else s

/-- The engines that run a command of a context pause for its debug stop (R372, R385). -/
def State.pauseEngines (s : State) (k : Who) : State :=
  let t := s.taskOf k
  let c := s.core k.core
  let seq := (s.ctxOf k).popped
  let mine (e : EnCmd) : Bool := e.ctx = k.ctx && e.task.same t
  let s := match c.mxRun with
    | some r => if r.cmd.ctx = k.ctx then s.stopEngine k.core 4 5 t.tid 0 r.cmd.cseq 0 0 else s
    | none => s
  let s := match c.cpRun.find? fun e => mine e.2.cmd with
    | some (_, r) => s.stopEngine k.core 5 5 t.tid r.addr seq (if r.stat = 0 then r.next else r.fidx) r.stat
    | none => s
  match c.rmRun.find? fun r => !r.ended && mine r.cmd with
  | some r => s.stopEngine k.core 6 5 t.tid r.addr seq 0 r.stat
  | none => s

/-- Whether cluster k has results for the dump (R386): in its delay line, or, of A, rows of class 12. -/
def State.hasDump (s : State) (k : Who) : Bool :=
  ((s.clu k).dl.any fun f => f.res.any Res.dumps) ||
  (s.accs.any fun (_, a) => a.who = k && a.task.same (s.taskOf k) &&
    match a.kind with | .direct .. => true | .served _ _ _ (some _) => true | _ => false)

/-- A shared result that has landed before its cluster's next sc is in flight again, as far as it still stands: frame
bytes that have not been written since, and a row that has not been popped (R385, R386). -/
def State.unland (k : Who) (s : State) (e : Flight × Nat) : State :=
  let fly (s : State) (r : Res) : State := s.modClu k fun c => { c with dl := { e.1 with res := [r] } :: c.dl }
  match e.1.res with
  | [.frame off n v m] =>
    let now := s.frameUnder k (.frame off n v m)
    let m := (List.range n).foldl (fun t i => if bitsN (now ^^^ v) (8 * i) 8 &&& bitsN m (8 * i) 8 = 0 then
      t + bitsN m (8 * i) 8 <<< (8 * i) else t) 0
    if m = 0 then s
    else fly (s.modCore k.core fun c =>
      { c with frame := c.frame.writeN ((c.ctx k.ctx).fo + off) n ((now &&& (2 ^ (8 * n) - 1 - m)) ||| (e.2 &&& m)) }) (.frame off n v m)
  | [.lrow q id d p] =>
    if ((s.ctxOf k).lrows q).any fun r => r.id = id then
      fly (s.modCtx k fun x => { x with lq := tblPut x.lq q ((x.lrows q).map fun r => if r.id = id then { r with filled := false } else r) })
        (.lrow q id d p)
    else s
  | [.srow q id d] =>
    if ((s.ctxOf k).srows q).any fun r => r.id = id then
      fly (s.modCtx k fun x => { x with sq := tblPut x.sq q ((x.srows q).map fun r => if r.id = id then { r with filled := false } else r) })
        (.srow q id d)
    else s
  | _ => s

/-- What landed before the next sc of a cluster of a context that stops is in flight (R386): REMAIN counts from the last
sc it had. -/
def State.unlandAll (s : State) (k : Who) : State :=
  k.clusters.foldl (fun s u =>
    (((s.clu u).early.reverse).foldl (State.unland u) s).modClu u fun c => { c with early := [] }) s

/-- A debug stop of one context on one cc edge (R385): its clusters keep their words, their results
in flight stay in the delay lines. cc: the last cc of the die before the stop (R386). -/
def State.debugStop (s : State) (k : Who) (cc : Nat) : State :=
  let s := s.unlandAll k
  let s := k.clusters.foldl (fun s k =>
    let c := s.clu k
    let r : StopRec :=
      { code := 0, kind := 5, unit := k.clu.num, dump := s.hasDump k, pc := c.pc, task := (s.taskOf k).tid,
        addr := 0, brpc := 0, trap := 0, flag := s.awaited k, cseq := (s.ctxOf k).popped % 2 ^ 48, fidx := 0,
        stat := 0, loc := c.sc }
    s.modClu k fun c => { c with stop := r }) s
  (s.pauseEngines k).modCtx k fun x =>
    { x with frozen := true, bkpt := false, stopCc := cc, dumped := false }

/-- BKPT (R130): with debug enabled the context stops before the word, all its clusters at the end of this cc (R385).
DESIGN CHOICE (log 79): the stop is made when the word is first presented, without its SYNC group (R24) and also where
the cluster has no cc of its own (R25, R381). -/
def execBkpt (h : Hdr) :=
  runWord (.bkpt h) h (meaning [] fun s =>
    if (s.part s.myTask.part).debug then .stall .hub (s.modMyCtx fun x => { x with bkpt := true })
    else .fault { code := fBreakpoint })

end Sys2Proof.Machine
end

