-- ==== Sys2Proof/Machine/Cycle.lean ====
section
/-! DEFINITION. The end of a clock cycle: token pushes that fall due (R23), flags (R95), format words (R269),
slot tables, cycle counts and watchdogs (R25, R355), suspicion scores (R353, R354), the halt cause (R371) and the error
events of the cc (R348 to R352). -/

namespace Sys2Proof.Machine

/-- Every resident context of every core that a cc has passed for. -/
def State.contexts (s : State) : List Who :=
  s.cores.flatMap fun (n, c) => c.ctxs.filterMap fun (x, v) => if v.task.isSome then some ⟨n, x, .c⟩ else none

/-- The posts of a cc order what they follow before the words behind the AWAIT of their flag (R236). A post that merges
with a flag whose AWAIT is issued in the cc goes to all four clusters, of which one is that AWAIT's (R95, R239). -/
def State.endPosts (s : State) (k : Who) : State :=
  let l := (s.ctxOf k).fclears
  let here (n x : Nat) : Bool := n = k.core && x = k.ctx
  let s := l.foldl (fun s f => k.clusters.foldl (fun s u => s.hand (.flagIn k.core k.ctx f) (.clu u)) s) s
  let s := s.forget fun p => match p with
    | .flag n x f => here n x && l.contains f
    | .flagIn n x f => here n x && l.contains f
    | _ => false
  if s.known.isEmpty then s
  else { s with known := s.known.map fun e => match e.2 with
    | .flagIn n x f => if here n x then (e.1, .flag n x f) else e
    | _ => e }

/-- What a context's clusters have still to do at the end of a cc: CIR bits of this cc are old from here on, tokens are
pushed, flags and format words arrive, and a BKPT stops the context. -/
def State.endCtx (s : State) (k : Who) : State :=
  let s := s.modCtx k fun x => { x with cirNew := 0 }
  let s := (k.clusters.foldl pushDue s).endPosts k
  let s := s.modCtx k fun x => { x.flagsEnd with fmtq := x.fmtq ++ x.fmtIn, fmtIn := [], syncGo := false }
  if (s.ctxOf k).bkpt then s.debugStop k (s.die (dieOf k.core)).dcc else s

/-- What comes to a context at the start of a cc (R26): results that the next sc of its clusters sees, but in a freeze
(R92, R385) or a trap (R381). -/
def State.startCtx (s : State) (k : Who) : State :=
  let x := s.ctxOf k
  if x.frozen || x.fetch.isSome then s
  else k.clusters.foldl (fun s u => if (s.clu u).run = .trapped then s else s.landNext u) s

/-- The arrivers of a barrier phase that is complete go on in the next cc they own (R96). -/
def State.startBars (s : State) (k : Who) : State :=
  k.clusters.foldl (fun s k =>
    if (s.clu k).barNext then s.modClu k fun c => { c with barGo := true, barNext := false } else s) s

/-- The requests that MARK and MARKQ have sent in this cc are answered, and then entries fire (R129, R337). -/
def State.endMarks (s : State) : State :=
  let s := s.contexts.foldl (fun s k => k.clusters.foldl answerMark s) s
  (s.launches.map Prod.fst).foldl fireLaunch s

/-- Inserts an event at its place: by log, source and address (R352). -/
def insertEvt (e : ErrEvt) : List ErrEvt → List ErrEvt
  | [] => [e]
  | f :: r =>
    let lt (a b : ErrEvt) : Bool :=
      a.log < b.log || (a.log = b.log && (a.src < b.src || (a.src = b.src && a.addr < b.addr)))
    if lt e f then e :: f :: r else f :: insertEvt e r

/-- One log entry, or a lost one (R350, R351). -/
def FLog.add (l : FLog) (w0 w1 w2 w3 : Nat) : FLog :=
  let n := l.seq
  let l := { l with seq := (l.seq + 1) % 2 ^ 32 }
  if l.entries.length < 256 then
    { l with entries := l.entries ++
        [⟨BitVec.ofNat 64 (n + w0), BitVec.ofNat 64 w1, BitVec.ofNat 64 w2, BitVec.ofNat 64 w3⟩] }
  else { l with lost := (l.lost + 1) % 2 ^ 64 }

/-- Counts one error event and logs it if its kind is logged (R348, R349). -/
def State.logEvent (s : State) (e : ErrEvt) : State :=
  let n := (tblGet 0 s.errCnt e.src + 1) % 2 ^ 64
  let s := { s with errCnt := tblPut s.errCnt e.src n }
  match e.kind with
  | none => s
  | some k =>
    { s with flogs := tblPut s.flogs e.log ((tblGet FLog.empty s.flogs e.log).add
        (e.src * 2 ^ 32 + k * 2 ^ 44) e.addr n (e.tag % 2 ^ 12 + e.detail % 256 * 2 ^ 12)) }

/-- The error events of a cc (R352). -/
def State.endErrors (s : State) : State :=
  if s.errEvts.isEmpty then s
  else (s.errEvts.foldl (fun l e => insertEvt e l) []).foldl logEvent { s with errEvts := [] }

/-- Rank of a raised fault: HALTP last, else die, core, context, unit (R371). -/
def haltRank (r : Nat × Nat × Nat × Nat × Nat) : Nat :=
  let (code, d, c, x, u) := r
  (if code = fHalted then 2 ^ 32 else 0) + d * 2 ^ 16 + c * 2 ^ 10 + x * 8 + u

/-- The least by rank. -/
def leastRank : List (Nat × Nat × Nat × Nat × Nat) → Option (Nat × Nat × Nat × Nat × Nat)
  | [] => none
  | r :: l =>
    match leastRank l with
    | none => some r
    | some b => if haltRank b < haltRank r then some b else some r

/-- The fault that becomes the halt cause when the hub sees the line: the first of the first cc in which faults were
raised (R371). -/
def Part.takeCause (p : Part) : Part :=
  match leastRank p.raised with
  | none => p
  | some r => if p.first.isSome || p.run ≠ .running then { p with raised := [] } else { p with raised := [], first := some r }

/-- The hub sees the line (R368, R371, R417): HALTING, with the cause. -/
def Part.hubSees (p : Part) : Part :=
  match p.first with
  | none => p
  | some (code, d, c, x, u) =>
    { p with run := .halting, hubSaw := true, first := none, cause := code, cdie := d, ccore := c, cctx := x, cunit := u }

/-- STATE of a partition (Table 19.1). -/
def PRun.code : PRun → Nat
  | .running => 0 | .halting => 1 | .halted => 2 | .resetting => 3

/-- PSTATE, as the host and firmware read it in the management window (R417, Table 19.1). -/
def Part.pstate (p : Part) : BitVec 64 :=
  BitVec.ofNat 64 (p.run.code + p.cause % 64 * 2 ^ 2 + p.cdie % 16 * 2 ^ 8 + p.ccore % 16 * 2 ^ 12 + p.cctx % 4 * 2 ^ 16 +
    p.cunit % 8 * 2 ^ 18)

/-- Whether an instance is resident on its core, or held by its retirement tracker (R355). -/
def State.counts (s : State) (p : Nat) (tid : Word) (i : Inst) : Bool :=
  let c := s.core i.core
  i.st = .running &&
  ((match (c.ctx i.ctx).task with
    | some t => t.part = p && t.tid = tid && t.inst = i.no && !(c.ctx i.ctx).frozen
    | none => false) ||
   c.tracker.any fun e => e.task.part = p && e.task.tid = tid && e.task.inst = i.no)

/-- WC goes up in every cc of the instance's die (R355). -/
def State.countWatch (s : State) : State :=
  { s with deps := s.deps.map fun e =>
      { e with insts := e.insts.map fun i =>
          if s.counts e.part e.rcd.tid i && !s.still (dieOf i.core) then { i with wc := (i.wc + 1) % 2 ^ 64 } else i } }

/-- Whether an instance's watchdog has expired (R355): WL is the limit of its task queue. The halt line prevents it once
the die has seen it (R371). -/
def State.expired (s : State) (e : Dep) (i : Inst) : Bool :=
  let wl := (s.tq e.tq).wl
  let k : Who := ⟨i.core, i.ctx, .c⟩
  s.counts e.part e.rcd.tid i && wl ≠ 0 && wl * 1024 ≤ i.wc && !(s.die (dieOf i.core)).halt.contains e.part &&
  !((s.ctxOf k).runs (e.task i) && (s.clu k).run = .stopped)

/-- WATCHDOG (R355): a fault of the task; one that only the tracker holds has no cluster left (R361), and raises it
once. -/
def State.expire (s : State) (e : Dep) (i : Inst) : State :=
  let k : Who := ⟨i.core, i.ctx, .c⟩
  let t := s.faultLate k (e.task i) { code := fWatchdog }
  if (s.ctxOf k).runs (e.task i) then t else t.modInst (e.task i) fun x => { x with st := .failed }

def State.endWatch (s : State) : State :=
  s.deps.foldl (fun s e => e.insts.foldl (fun s i => if s.expired e i then s.expire e i else s) s) s

/-- Port losses of a cc, where a counter selects them (Table 12.6). The number is a free value (log 56). -/
def State.countLosses (s : State) (n : Nat) : State :=
  if (s.core n).pcsel.any fun e => e.2.toNat % 256 = 18 then
    { s with free := s.free + 1 }.perf n 18 0 none (Config.portLosses s.free)
  else s

/-- The cores go on to their next slot-table entry; core-wide and frozen cc are counted. -/
def State.endCore (s : State) (n : Nat) : State :=
  if s.still (dieOf n) then s
  else
    let c := s.core n
    let s := (s.perf n 0 0 none 1).countLosses n
    let s := if c.mxRun.isSome then s.perf n 12 0 none 1 else s
    let s := (List.range 4).foldl (fun s x => if (c.ctx x).fetch.isSome then s.perf n 8 x none 1 else s) s
    s.modCore n fun c =>
      let c : Core := { c with histNew := [], spmWas := [] }
      match c.slotNext with
      | some l => { c with slots := l, slotNext := none, spos := 0 }
      | none => { c with spos := c.spos + 1 }

/-- The die cycle counts (R347), but for dies whose clock stands (R408). -/
def State.endDies (s : State) : State :=
  (List.range (Config.dies s.form)).foldl (fun s d =>
    if s.still d then s else s.modDie d fun x => { x with dcc := (x.dcc + 1) % 2 ^ 64 }) s

/-- Dies listed as d + 64 skip the next cc. -/
def nextSkip (l : List Nat) : List Nat := l.filterMap fun d => if 64 ≤ d then some (d - 64) else none

/-- How many cc in a row each die has skipped. -/
def State.skipRuns (s : State) : Tbl Nat :=
  (s.skip.filter (· < 64)).foldl (fun t d => tblPut t d (tblGet 0 s.skipRun d + 1)) []

/-- Direct-path loads at an edge of a cc (R217), but on dies whose clock stands. -/
def State.directs (s : State) (f : State → Nat → State) : State :=
  (s.accs.map Prod.fst).foldl (fun s i =>
    match tblFind s.accs i with
    | some a => if s.still (dieOf a.who.core) then s else f s i
    | none => s) s

/-- Direct-path loads at the end of a cc (R217). -/
def State.endDirect (s : State) : State := (s.directs State.serveDue).directs State.rowEnd

/-- The hub applies a new watchdog limit and a new HOLD (R356, R413). -/
def TaskQ.adopt (e : Nat × TaskQ) : Nat × TaskQ :=
  let t := e.2
  (e.1, { t with wl := t.wlNext.getD t.wl, wlNext := none, hold := t.holdNext.getD t.hold, holdNext := none, fed := false })

/-- Contexts of the dies whose clock does not stand in this cc. -/
def State.ticking (s : State) : List Who := s.contexts.filter fun k => !s.still (dieOf k.core)

/-- The start of a cc: results and rows whose cc it is (R26, R217), then arrivers that are freed (R96). -/
def State.startCc (s : State) : State :=
  let l := s.ticking
  l.foldl startBars ((l.foldl startCtx s).directs State.rowDue)

/-- Sets a score; a crossing of its threshold raises the management interrupt, which names the unit (R354). -/
def State.setScore (s : State) (k v : Nat) : State :=
  let old := tblGet 0 s.score k
  let th := if k < 64 then s.dth else s.cth
  let s : State := { s with score := tblPut s.score k v }
  if old < th && th ≤ v then s.manageInt (.score k) else s

/-- What a cc makes of a score (R353): what firmware wrote, if it did, and what Vigil added, saturating. -/
def State.scoreDue (s : State) (k : Nat) : Nat :=
  Nat.min (tblGet (tblGet 0 s.score k) s.scoreSet k + tblGet 0 s.scoreNew k) 0xFFFF

/-- The scores that a cc has changed (R353, R354). -/
def State.endScores (s : State) : State :=
  let ks := s.scoreSet.map Prod.fst ++ (s.scoreNew.map Prod.fst).filter fun k => (tblFind s.scoreSet k).isNone
  { ks.foldl (fun t k => t.setScore k (s.scoreDue k)) s with scoreSet := [], scoreNew := [] }

/-- The end of a cc, once the words that act there have (State.endLate). -/
def State.endCc (s : State) : State :=
  let s := (s.ticking.foldl endCtx s).endMarks
  let s := (s.cores.map Prod.fst).foldl endCore s
  let s := s.endDies.countWatch.endWatch.endScores
  let s : State := { s with parts := s.parts.map fun e => (e.1, Part.takeCause e.2), tqs := s.tqs.map TaskQ.adopt }
  { s.endErrors with entered := [], walked := [], skipRun := s.skipRuns, skip := nextSkip s.skip, scan := 1024 }

end Sys2Proof.Machine
end

