-- ==== Sys2Proof/Machine/Address.lean ====
section
/-! DEFINITION. The AC unit on address registers, the scratchpad and the merge buffers (R202 to R210, R221
to R227): address words, post-updates, row loads and stores, conversions, locks. -/

namespace Sys2Proof.Machine

/-- Register of a field named x (R65). -/
def xLoc (n : Nat) : Loc := if n < 16 then .a n else .s (n - 16)
def xRes (n : Nat) (v : Word) : Res := if n < 16 then .areg n v else .scal (n - 16) v

/-- An address word of class 0 (R224). -/
def addrWord (reads : List Loc) (f : Cluster → Res) : Meaning := compute reads 0 fun s => [f s.me]

def execAadd (h : Hdr) (d a b : BitVec 5) :=
  runWord (.aadd h d a b) h (addrWord [xLoc a.toNat, xLoc b.toNat] fun c =>
    .areg d.toNat (c.xreg a.toNat + c.xreg b.toNat))
def execAaddi (h : Hdr) (x : Option ImmF) (d a m : BitVec 5) :=
  runWord (.aaddi h x d a m) h (addrWord [xLoc a.toNat] fun c => .areg d.toNat (c.xreg a.toNat + wordOfInt (extImm x 5 m.toNat)))
def execAsub (h : Hdr) (d a b : BitVec 5) :=
  runWord (.asub h d a b) h (addrWord [xLoc a.toNat, xLoc b.toNat] fun c =>
    .areg d.toNat (c.xreg a.toNat - c.xreg b.toNat))
def execAmov (h : Hdr) (d a : BitVec 5) :=
  runWord (.amov h d a) h (addrWord [xLoc a.toNat] fun c => xRes d.toNat (c.xreg a.toNat))
def execAli (h : Hdr) (x : Option ImmF) (d : BitVec 5) (m : BitVec 10) :=
  runWord (.ali h x d m) h (addrWord [] fun _ => .areg d.toNat (wordOfInt (extImm x 10 m.toNat)))

/-- Fields of an address mode (Table 7.8). -/
def modeKind (v : Word) : Nat := bitsN v.toNat 0 2
def modeNb (v : Word) : Nat := bitsN v.toNat 2 6
def modeLen (v : Word) : Nat := bitsN v.toNat 8 40

/-- Whether a value is an address mode (R222). -/
def modeOk (v : Word) : Bool :=
  v.toNat < 2 ^ 48 &&
  (if modeKind v = 3 then 1 ≤ modeNb v && modeNb v ≤ 16 && modeLen v = 0
   else modeNb v = 0 &&
    (if modeKind v = 0 then modeLen v = 0
     else if modeKind v = 1 then modeLen v ≠ 0
     else 64 ≤ modeLen v && 2 ^ Nat.log2 (modeLen v) = modeLen v))

def execAmode (h : Hdr) (d a : BitVec 5) :=
  runWord (.amode h d a) h (meaning [xLoc a.toNat] fun s =>
    let v := s.me.xreg a.toNat
    if !modeOk v then .fault { code := fIllegalWord } else .done (s.later 0 [.mode d.toNat v]) .seq)
def execAbase (h : Hdr) (d a : BitVec 5) :=
  runWord (.abase h d a) h (addrWord [xLoc a.toNat] fun c => .base d.toNat (c.xreg a.toNat))
def execAinc (h : Hdr) (d a : BitVec 5) :=
  runWord (.ainc h d a) h (addrWord [xLoc a.toNat] fun c => .inc d.toNat (c.xreg a.toNat))

/-- update(n, delta) of R223: the new address. -/
def postAddr (mode base x delta : Word) : Word :=
  let len := modeLen mode
  if modeKind mode = 0 then x + delta
  else if modeKind mode = 1 then
    wordOfInt ((base.toNat : Int) + ((x.toNat : Int) - base.toNat + delta.toInt) % (len : Int))
  else if modeKind mode = 2 then
    let m := BitVec.ofNat 64 (len - 1)
    (x &&& ~~~m) ||| ((x + delta) &&& m)
  else
    let nb := modeNb mode
    let k := ((revBits (bitsN x.toNat 6 nb) nb : Nat) + delta.toInt / 64) % (2 ^ nb : Nat)
    BitVec.ofNat 64 (setBits x.toNat 6 nb (revBits k.toNat nb))

/-- Registers that the address and the post-update of a word read. -/
def updLocs (a b : BitVec 5) : List Loc :=
  [.a a.toNat] ++ (if b = 0 then [] else [.mode a.toNat]) ++ (if 16 ≤ b.toNat then [.s (b.toNat - 16)] else [])

/-- The post-update of a word whose B field is b (R223). -/
def Cluster.post (c : Cluster) (a b : BitVec 5) : List Res :=
  let n := a.toNat
  if b = 0 then []
  else [.areg n (postAddr (c.modeOf n) (c.baseOf n) (c.areg n)
    (if b = 1 then c.incr n else c.sreg (b.toNat - 16)))]

/-- An SPM address (Table 7.3): the core it names, and whether by the die window; none breaks R202. -/
def State.spmAddr (s : State) (a : Word) : Option (Nat × Bool) :=
  let v := a.toNat
  let n := s.cur.core
  if 2 ^ 25 ≤ v then none
  else if bitN v 24 then some (16 * dieOf n + bitsN v 20 4, true)
  else if bitsN v 20 4 ≠ 0 then none
  else some (n, false)

/-- A word that goes through the die window to a powered-down core wakes it and waits, counting sc (R93, R388). A plain
one acts at the end of its cc, after the row's own core (R204, R254). -/
def State.atWindow (s : State) (a : Word) (checked : Bool) (act : Act) : Act :=
  match s.spmAddr a with
  | some (n, true) =>
    if (s.core n).power = .off then .stall .wake (s.wakeCore n)
    else if checked && !s.me.barGo then .stall .cirEnd s else act
  | _ => act

/-- The same for a store, which SIG and DUP do not permit there (R184). -/
def State.storeWindow (s : State) (a : Word) (checked : Bool) (act : Act) : Act :=
  if s.myTask.cls ≠ 0 then act else s.atWindow a checked act

/-- A core that a window access reaches does not power down (R388). -/
def State.windowWakes (s : State) (n : Nat) (win : Bool) : State := if win then s.wakeCore n else s

/-- The RACE that an access of this core to a row raises (R252). -/
def State.raceAt (s : State) (key : Nat) (a : Word) : FaultInfo := { code := fRace, addr := a, eng := s.rowEng key }

/-- A row that a core's A has stored in this cc is read as it was: the errors found there count once (R207, R209,
R348). -/
def State.sawOld (s : State) (n : Nat) (e : OldRow) : State :=
  if e.errs.isEmpty then s
  else (s.modCore n fun c => { c with spmWas := c.spmWas.map fun x => if x = e then { x with errs := [] } else x }).spmEvents
    n s.myTask.tag e.errs

/-- A row of SPM is read by an AC word (R205, R208, R209, R252), which goes on with its data, its poison marks and the
cc by which it comes late. A load through the window sees the row as it was before this cc's write (R207). -/
def State.spmGet (s : State) (a : Word) (checked : Bool) (f : State → Nat → Nat → Nat → Act) : Act :=
  match s.spmAddr a with
  | none => .fault { code := fTranslation, addr := a }
  | some (n, win) =>
    let key := spmKey n a.toNat
    s.atWindow a checked <|
    let s := s.windowWakes n win
    let s := (s.performOlder s.accNext s.cur.core (2 ^ 64 + key)).loadCell s.cur (2 ^ 64 + key)
    match (if checked then s.plain s.cur.core key false false else some s) with
    | none => .fault (s.raceAt key a)
    | some s =>
      let late := if win then Config.windowLate s.free else 0
      let s := if win then { s with free := s.free + 1 } else s
      match (if win then (s.core n).spmWas.find? fun e => e.row = a.toNat % 2 ^ 20 / 64 else none) with
      | some e => f (s.sawOld n e) e.data e.pois late
      | none =>
        let (s, d, p) := s.spmRead n (a.toNat % 2 ^ 20) s.myTask.tag
        f s d p late

/-- A row of the core's own SPM is written at the end of the cc; until then it reads as it was (R205, R207). -/
def State.spmStore (s : State) (n addr data : Nat) : State :=
  (s.modCore n fun c =>
    let (d, p, ev) := c.spmRaw addr
    { c with spmWas := ⟨addr / 64, d, p, ev⟩ :: c.spmWas }).spmWrite n addr fullMask data 0

/-- A row of SPM is stored by an AC word: at once into the core's own, later through the window
(R205, R208); a window store is forbidden in SIG and DUP (R184). bins: what it adds to a histogram (R359). -/
def State.storeSpm (s : State) (a : Word) (checked unlock : Bool) (data : Nat) (bins : List (Nat × Nat))
    (f : State → Act) : Act :=
  match s.spmAddr a with
  | none => .fault { code := fTranslation, addr := a }
  | some (n, win) =>
    let key := spmKey n a.toNat
    let addr := a.toNat % 2 ^ 20
    if win && s.myTask.cls ≠ 0 then .fault { code := fProtection, addr := a }
    else if win then
      let s := (if checked then s.settleRow s.cur.core key (2 ^ 64 + key) else s).windowWakes n true
      if checked && s.openFor s.cur.core key then .fault (s.raceAt key a)
      else
        f ((s.afterFences s.cur s.accNext).addAcc
          { who := s.cur, va := a.toNat, sa := 0, kind := .win n addr data unlock, passed := false,
            task := s.myTask, sig := 0, live := true, sent := false, bins := bins })
    else match (if checked then s.plainStore s.cur.core key (2 ^ 64 + key) false else some s) with
    | none => .fault (s.raceAt key a)
    | some s =>
      let s := (s.performOlder s.accNext s.cur.core (2 ^ 64 + key)).storeCell s.cur (2 ^ 64 + key)
      let s := (s.spmStore n addr data).histWord n bins
      f (if unlock then s.modCore n fun c => c.freeLock addr else s)

/-- CIR.POISON with a load's results (R179). -/
def poisonRes (p : Nat) : List Res := cirRes (if p = 0 then 0 else 1)

/-- A load of one row into n reserved rows of a load queue, made by g from the row's bytes, at the class-10 latency
(R225, R226). -/
def State.loadQueue (s : State) (q n : Nat) (a b : BitVec 5) (checked : Bool) (cir0 : Nat → Nat)
    (g : Nat → List Nat) : Act :=
  if !roomRows (s.myCtx.lrows q) n then .stall .queue s
  else s.spmGet (s.me.areg a.toNat) checked fun s d p late =>
    let (s, ids) := s.reserveLq s.cur q n
    let rows := (ids.zip (g d)).map fun e => Res.lrow q e.1 e.2 0
    .done ((s.laterBy late 10 (rows ++ poisonRes p ++ cirRes (cir0 d))).later 0 (s.me.post a b)) .seq

def execLdq (h : Hdr) (q : BitVec 2) (a b : BitVec 5) :=
  runWord (.ldq h q a b) h (meaning (updLocs a b) fun s => s.loadQueue q.toNat 1 a b true (fun _ => 0) fun d => [d])
def execLdb (h : Hdr) (q : BitVec 2) (a b : BitVec 5) :=
  runWord (.ldb h q a b) h (meaning (updLocs a b) fun s =>
    s.loadQueue q.toNat 8 a b true (fun _ => 0) fun d => List.replicate 8 d)

/-- The conversion of a load word of the running cluster, with its rounding code (R226, R52). -/
def State.fillOf (s : State) (md : Option ModF) (q code : Nat) (ids : List Nat) (cont : Option CRow) : Fill :=
  let c := s.me
  ⟨q, ids, code, rndOf (effCode md 0) c.rmode, satOf md, c.seed, c.stream, c.ctr, cont⟩

def execLdqx (h : Hdr) (md : Option ModF) (c : BitVec 3) (q : BitVec 2) (a b : BitVec 5) :=
  runWord (.ldqx h md c q a b) h (meaning (updLocs a b) fun s =>
    let f := s.fillOf md q.toNat c.toNat [] none
    (s.loadQueue q.toNat (loadRows c.toNat) a b true (fun d => (f.convert d).2)
      fun d => (f.convert d).1).also (State.countSr · (effCode md 0)))

/-- LDS reads the eight bytes at the aligned place in the row (R225). -/
def execLds (h : Hdr) (d a b : BitVec 5) :=
  runWord (.lds h d a b) h (meaning (updLocs a b) fun s =>
    let ad := s.me.areg a.toNat
    s.spmGet ad true fun s v p late =>
      .done ((s.laterBy late 10 (.scal (d.toNat - 16) (BitVec.ofNat 64 (bitsN v (64 * bitsN ad.toNat 3 3) 64)) ::
        poisonRes p)).later 0 (s.me.post a b)) .seq)

/-- The head rows of a store queue (R225, R286). -/
def State.popStore (s : State) (q n : Nat) : Option (State × List Nat) :=
  match takeRows n (s.myCtx.srows q) with
  | none => none
  | some (rows, rest) => some ((s.acquireRows rows).modMyCtx fun x => { x with sq := tblPut x.sq q rest }, rows.map QRow.data)

def execStq (h : Hdr) (q : BitVec 2) (a b : BitVec 5) :=
  runWord (.stq h q a b) h (meaning (updLocs a b) fun s =>
    match s.popStore q.toNat 1 with
    | none => .stall .queue s
    | some (t, rows) =>
      s.storeWindow (s.me.areg a.toNat) true <|
      t.storeSpm (s.me.areg a.toNat) true false (rows.getD 0 0) [] fun s => .done (s.later 0 (s.me.post a b)) .seq)

/-- Rows of a store queue converted to one memory row (R226): its bytes and each element's result. -/
def storeConv (code : Nat) (rm : Rnd) (sat : Bool) (sr : Nat → Nat) (rows : List Nat) : Nat × List (Nat × NumFlags) :=
  let (src, dst) := storePair code
  let es := convElems src dst rm sat sr (elemsOf src.width (512 / dst.width) (packElems 512 rows)) 0
  (packElems dst.width (es.map Prod.fst), es)

def execStqx (h : Hdr) (md : Option ModF) (r : BitVec 2) (c : BitVec 3) (q : BitVec 2) (a : BitVec 5)
    (p e : BitVec 1) (hist : BitVec 3) :=
  let b : BitVec 5 := p.zeroExtend 5
  runWord (.stqx h md r c q a p e hist) h (meaning (updLocs a b) fun s =>
    match s.popStore q.toNat (storeRows c.toNat) with
    | none => .stall .queue s
    | some (t, rows) =>
      let cl := s.me
      let code := effCode md r
      let (data, es) := storeConv c.toNat (rndOf code cl.rmode) (satOf md) (srBits cl.seed cl.stream cl.ctr) rows
      let bins := if e = 1 then
          es.map fun x => (hist.toNat, histBin ((storePair c.toNat).2.decode x.1) x.2.clamped) else []
      s.storeWindow (cl.areg a.toNat) true <|
      t.storeSpm (cl.areg a.toNat) true false data bins fun s =>
        .done (((s.countSr code).laterN 1 (cirRes (cirAll es))).later 0 (s.me.post a b)) .seq)

def execLdm (h : Hdr) (m : BitVec 1) (a b : BitVec 5) :=
  runWord (.ldm h m a b) h (meaning (updLocs a b) fun s =>
    s.spmGet (s.me.areg a.toNat) true fun s d p late =>
      .done ((s.laterBy late 10 (.mbuf m.toNat d (2 ^ 512 - 1) :: poisonRes p)).later 0 (s.me.post a b)) .seq)
def execStm (h : Hdr) (m : BitVec 1) (a b : BitVec 5) :=
  runWord (.stm h m a b) h (meaning (.mb m.toNat :: updLocs a b) fun s =>
    s.storeWindow (s.me.areg a.toNat) true <|
    s.storeSpm (s.me.areg a.toNat) true false (s.me.mbuf m.toNat) [] fun s => .done (s.later 0 (s.me.post a b)) .seq)
/-- RMERGE pushes 64 bytes of the pair of buffers from a byte offset (R227). -/
def execRmerge (h : Hdr) (q : BitVec 2) (a : BitVec 5) :=
  runWord (.rmerge h q a) h (meaning [xLoc a.toNat, .mb 0, .mb 1] fun s =>
    if !roomRows (s.myCtx.lrows q.toNat) 1 then .stall .queue s
    else
      let c := s.me
      let o := (c.xreg a.toNat).toNat % 64
      let (s, ids) := s.reserveLq s.cur q.toNat 1
      .done (s.later 11 [.lrow q.toNat (ids.getD 0 0)
        (bitsN (c.mbuf 0 + c.mbuf 1 <<< 512) (8 * o) 512) 0]) .seq)
/-- MBPUT puts bytes of a scalar at a byte offset, as far as they fit (R227). -/
def execMbput (h : Hdr) (m : BitVec 1) (a b : BitVec 5) :=
  runWord (.mbput h m a b) h (compute [xLoc a.toNat, xLoc b.toNat] 11 fun s =>
    let o := (s.me.xreg b.toNat).toNat % 64
    [.mbuf m.toNat (((s.me.xreg a.toNat).toNat <<< (8 * o)) % 2 ^ 512) (((2 ^ 64 - 1) <<< (8 * o)) % 2 ^ 512)])
def execMbget (h : Hdr) (d : BitVec 5) (m : BitVec 1) (b : BitVec 5) :=
  runWord (.mbget h d m b) h (compute [.mb m.toNat, xLoc b.toNat] 11 fun s =>
    let o := (s.me.xreg b.toNat).toNat % 64
    [xRes d.toNat (BitVec.ofNat 64 (bitsN (s.me.mbuf m.toNat) (8 * o) 64))])

/-- The context's own STUs through the window that free a lock bit are performed before an LDL tests it (R210, R235). -/
def State.performUnlocks (s : State) (n addr : Nat) : State :=
  s.accs.foldl (fun s (j, b) =>
    match b.kind with
    | .win m a _ true =>
      if m = n && lockKey a = lockKey addr && b.who = s.cur then s.performOlder (j + 1) s.cur.core b.place else s
    | _ => s) s

/-- LDL takes the row's lock bit, or waits for it (R210); taking it acquires from the STU that freed it (R237). -/
def execLdl (h : Hdr) (q : BitVec 2) (a b : BitVec 5) :=
  runWord (.ldl h q a b) h (meaning (updLocs a b) fun s =>
    let ad := s.me.areg a.toNat
    match s.spmAddr ad with
    | none => .fault { code := fTranslation, addr := ad }
    | some (n, win) =>
      let me := (s.cur.core, s.cur.ctx)
      s.atWindow ad false <|
      let s := s.windowWakes n win
      let s := s.performUnlocks n ad.toNat
      match tblFind (s.core n).locks (lockKey ad.toNat) with
      | some o => if o = me then s.loadQueue q.toNat 1 a b false (fun _ => 0) fun d => [d] else .stall .lock s
      | none =>
        match s.loadQueue q.toNat 1 a b false (fun _ => 0) fun d => [d] with
        | .done s t =>
          .done ((s.hand (.lock n (lockKey ad.toNat)) (.clu s.cur)).modCore n
            fun c => { c with locks := tblPut c.locks (lockKey ad.toNat) me }) t
        | r => r)
/-- STU writes the row and frees the bit that the context holds; a release at GROUP scope (R210). -/
def execStu (h : Hdr) (q : BitVec 2) (a b : BitVec 5) :=
  runWord (.stu h q a b) h (meaning (updLocs a b) fun s =>
    let ad := s.me.areg a.toNat
    match s.spmAddr ad with
    | none => .fault { code := fTranslation, addr := ad }
    | some (n, _) =>
      if tblFind (s.core n).locks (lockKey ad.toNat) ≠ some (s.cur.core, s.cur.ctx) then
        .fault { code := fProtection, addr := ad }
      else s.storeWindow ad false <|
      match s.release s.cur 1 with
      | none => .stall .fence s
      | some s' =>
        match s'.popStore q.toNat 1 with
        | none => .stall .queue s
        | some (s, rows) =>
          let s := s.hand (.clu s.cur) (.lock n (lockKey ad.toNat))
          s.storeSpm ad false true (rows.getD 0 0) [] fun s => .done (s.later 0 (s.me.post a b)) .seq)

end Sys2Proof.Machine
end

