-- ==== Sys2Proof/Machine/Owner.lean ====
section
/-! DEFINITION. Whom an engine command belongs to (R21, R120): the context of its task, its retirement-tracker entry, or
nobody any more; result FIFOs (R311); and reads at local addresses (R292). -/

namespace Sys2Proof.Machine

/-- The part of a task's state that its tracker entry keeps, as a context. -/
def Tracker.asCtx (t : Tracker) : Ctx :=
  { Ctx.reset with ct := t.ct, remF := t.remF, colF := t.colF, cbStat := t.cbStat, cbIdx := t.cbIdx,
                   cbEng := t.cbEng, cir := t.cir, popped := t.cseq }
def Tracker.ofCtx (t : Tracker) (x : Ctx) : Tracker :=
  { t with ct := x.ct, remF := x.remF, colF := x.colF, cbStat := x.cbStat, cbIdx := x.cbIdx, cbEng := x.cbEng, cir := x.cir }

/-- Whether the command's task still has its context. -/
def State.inCtx (s : State) (n : Nat) (e : EnCmd) : Bool :=
  match ((s.core n).ctx e.ctx).task with
  | some t => t.same e.task
  | none => false

/-- The tracker entry of the command's task. -/
def State.trackerOf (s : State) (n : Nat) (e : EnCmd) : Option Tracker :=
  (s.core n).tracker.find? fun t => t.ctx = e.ctx && t.task.same e.task

/-- The state that the command's completion writes. -/
def State.owner (s : State) (n : Nat) (e : EnCmd) : Option Ctx :=
  if s.inCtx n e then some ((s.core n).ctx e.ctx) else (s.trackerOf n e).map Tracker.asCtx

def State.modOwner (s : State) (n : Nat) (e : EnCmd) (f : Ctx → Ctx) : State :=
  if s.inCtx n e then s.modCtx ⟨n, e.ctx, .c⟩ f
  else s.modCore n fun c =>
    { c with tracker := c.tracker.map fun t => if t.ctx = e.ctx && t.task.same e.task then t.ofCtx (f t.asCtx) else t }

/-- Whether engines still work for the command (R369, R385): its task is there, not stopped and not frozen. -/
def State.cmdAlive (s : State) (n : Nat) (e : EnCmd) : Bool :=
  if s.inCtx n e then
    let x := (s.core n).ctx e.ctx
    !x.frozen && [Clu.c, .a, .v, .m].all fun u => (x.clu u).run ≠ .stopped
  else (s.trackerOf n e).isSome

/-- The cluster that a command's pushes go out from. -/
def EnCmd.who (e : EnCmd) (n : Nat) : Who := ⟨n, e.ctx, e.clu⟩
def EnCmd.hdr (e : EnCmd) : Hdr := (e.i.hdr?).getD ⟨0, 0, 0, 0⟩

/-- Whether the command's pushes find room; those towards a freed context are discarded (R120). -/
def State.cmdRoom (s : State) (n : Nat) (e : EnCmd) : Bool :=
  !s.inCtx n e || ((s.core n).ctx e.ctx).roomTok (sigQueues e.clu e.hdr.sig)

/-- Its pushes: what happens before the command happens before the words that pop them (R242, R243). -/
def State.cmdPush (s : State) (n : Nat) (e : EnCmd) : State :=
  if s.inCtx n e then s.pushNow (e.who n) e.hdr.sig e.past else s

/-- A trace record of a completed command (R361). tok: its completion token. DESIGN CHOICE (log 94): its command
sequence number is the task's as it stands, since R181 gives only matrix commands one of their own. -/
def State.traceCmd (s : State) (n unit : Nat) (e : EnCmd) (stat tok : Nat) : State :=
  if s.traceOn e.task.part 7 then
    s.traceRec ⟨n, 0, .c⟩ unit 7 (s.die (dieOf n)).dcc e.task.tid
      (BitVec.ofNat 64 (stat + tok * 256 + ((s.owner n e).map fun x => x.popped).getD 0 % 2 ^ 48 * 2 ^ 16))
  else s

/-- An engine's access to a row, as a plain access of core n where chk says so; the accesses of a hub unit are not
checked and open no row (R251). place: that of the row. -/
def State.engPlain (s : State) (chk : Bool) (n key place : Nat) (store : Bool) : Option State :=
  if !chk then some s
  else if store then s.plainStore n key place true else s.plain n key false true

/-- The same, to a row of a system address: only the device's own shared array is checked (R251). -/
def State.shaPlain (s : State) (chk : Bool) (n sa : Nat) (store : Bool) : Option State :=
  if saLevel sa = 1 && saDev sa = s.devId then s.engPlain chk n (shaKey sa) (sa / 64) store else some s

/-- ENG of the open row that a status RACE of a command came from, by the local address of the row (R250). -/
def State.engAt (s : State) (n : Nat) (t : Task) (code v : Nat) : Bool :=
  code = fRace && s.rowEng (if v ≥ 2 ^ 63 then spmKey n v else
    match (s.translate n t v).2 with | some (sa, _) => shaKey sa | none => 0)

/-- A row as an engine reads it for a command. -/
inductive EngRow where
  | ok (s : State) (data pois : Nat)
  | fail (s : State) (code : Nat) (addr : Nat)
  /-- on another device -/
  | peer (s : State) (sa : Nat)
  /-- a store that comes before is still not performed (R233) -/
  | wait

/-- Reads an SPM row of the core for an engine. -/
def State.spmRow (s : State) (n : Nat) (t : Task) (a : Nat) (chk : Bool := true) : EngRow :=
  match (s.engTouch n a false).engPlain chk n (spmKey n a) (2 ^ 64 + spmKey n a) false with
  | none => .fail s fRace (a / 64 * 64)
  | some s =>
    let (s, d, p) := s.spmRead n a t.tag
    .ok s d p

/-- Reads the row at a global virtual address (R198, R234, R316). -/
def State.globRow (s : State) (n : Nat) (t : Task) (va : Nat) (chk : Bool := true) : EngRow :=
  match s.translate n t va with
  | (s, none) => .fail s fTranslation va
  | (s, some (sa0, _)) =>
    let sa := sa0 / 64 * 64
    if saDev sa ≠ s.devId then .peer s sa
    else match s.shaPlain chk n sa false with
      | none => .fail s fRace va
      | some s =>
        let s := s.performOlder s.accNext n (sa / 64)
        if s.olderLeft s.accNext n (sa / 64) then .wait
        else
        let (s, d, p) := s.sysRead sa t.tag
        let (d, p) := if t.cls = 0 then (d, p) else s.overContained t sa d p
        .ok s d p

/-- A row at a local address (R292): none of another device. -/
def State.localRow (s : State) (n : Nat) (t : Task) (v : Nat) (chk : Bool := true) : EngRow :=
  if v ≥ 2 ^ 63 then
    if v % 2 ^ 63 ≥ 2 ^ 20 then .fail s fTranslation v else s.spmRow n t (v % 2 ^ 20) chk
  else match s.globRow n t v chk with
    | .peer s _ => .fail s fTranslation v
    | r => r

/-- Whether len bytes at a local address lie in the device's own memory, as far as they are mapped (R292): the first
address that does not. -/
def State.foreign (n : Nat) (t : Task) : Nat → State → Nat → Nat → State × Option Nat
  | 0, s, _, _ => (s, none)
  | m + 1, s, v, len =>
    if len = 0 then (s, none)
    else
      let k := 65536 - v % 65536
      match s.translate n t v with
      | (s, none) => State.foreign n t m s (v + k) (len - k)
      | (s, some (sa, _)) => if saDev sa ≠ s.devId then (s, some v) else State.foreign n t m s (v + k) (len - k)
def State.badLocal (s : State) (n : Nat) (t : Task) (v len : Nat) : State × Option Nat :=
  if v ≥ 2 ^ 63 then (s, if 2 ^ 20 < v % 2 ^ 63 + len then some v else none)
  else State.foreign n t (len / 65536 + 2) s v len

/-- What a read of whole rows at local addresses comes to: data and poison marks; a status, its address and the row's
number; or it must wait. -/
inductive LocalRows where
  | ok (s : State) (data pois : Nat)
  | fail (s : State) (code addr row : Nat)
  | wait

def State.localRowsGo (n : Nat) (t : Task) : Nat → State → Nat → Nat → LocalRows
  | 0, s, _, _ => .ok s 0 0
  | m + 1, s, v, i =>
    match s.localRow n t v with
    | .ok s d p =>
      match State.localRowsGo n t m s (v + 64) (i + 1) with
      | .ok s d' p' => .ok s (d + d' <<< 512) (p + p' <<< 16)
      | r => r
    | .fail s c a => .fail s c a i
    | .peer s a => .fail s fTranslation a i
    | .wait => .wait

/-- Reads m rows from a local address, which is checked before any access (R292). -/
def State.localRows (s : State) (n : Nat) (t : Task) (m v : Nat) : LocalRows :=
  match s.badLocal n t v (64 * m) with
  | (s, some a) => .fail s fTranslation a 0
  | (s, none) => State.localRowsGo n t m s v 0

/-- Outcome of a write of bytes of one row by an engine. -/
inductive EngWrite where
  | ok (s : State)
  | fail (s : State) (code : Nat) (addr : Nat)
  /-- the die's containment buffer is exhausted (R316), or a store that comes before is still not performed (R233) -/
  | wait
  /-- on another device, at a system address -/
  | peer (s : State) (sa : Nat)

/-- Writes whole words of an SPM row of the core. -/
def State.spmPut (s : State) (n a mask data pois : Nat) (chk : Bool := true) : EngWrite :=
  match (s.engTouch n a true).engPlain chk n (spmKey n a) (2 ^ 64 + spmKey n a) true with
  | none => .fail s fRace (a / 64 * 64)
  | some s => .ok ((s.spmWrite n a mask data pois).wipeCell (2 ^ 64 + spmKey n a) mask)

/-- Writes bytes of the row at a global virtual address for a task: contained in a protected class (R184). The
translation and its checks are the caller's. -/
def State.globPut (s : State) (n : Nat) (t : Task) (va sa mask data pois : Nat)
    (chk : Bool := true) : EngWrite :=
  if t.cls ≠ 0 && !s.inRenamed t va then
    match s.contain t sa va mask data pois with
    | .ok s => .ok s
    | .full => .fail s fContainFull va
    | .shortage => .wait
  else if saDev sa ≠ s.devId then .peer s sa
  else match s.shaPlain chk n sa true with
    | none => .fail s fRace va
    | some s =>
    let s := s.performOlder s.accNext n (sa / 64)
    if s.olderLeft s.accNext n (sa / 64) || s.loadLeft n (sa / 64) then .wait
    else .ok ((s.sysWrite sa mask data pois t.tag).wipeCell (sa / 64) mask)

/-- Pushes an element to a result FIFO of the command's task; there is room for it. -/
def State.pushRes (s : State) (n : Nat) (e : EnCmd) (coll : Bool) (r : FElem) : State :=
  s.modOwner n e fun x => if coll then { x with colF := x.colF ++ [r] } else { x with remF := x.remF ++ [r] }

/-- Whether a result FIFO has room (R311). -/
def State.resRoom (s : State) (n : Nat) (e : EnCmd) (coll : Bool) : Bool :=
  match s.owner n e with
  | none => true
  | some x => (if coll then x.colF.length else x.remF.length) < 16

end Sys2Proof.Machine
end

