-- ==== Sys2Proof/Machine/CopyEngine.lean ====
section
/-! DEFINITION. The copy engine (R288 to R300, R343): shape records, element addresses, swizzles, conversion, row groups,
and the three events of a command. -/

namespace Sys2Proof.Machine

/-- One step of the CRC of R295. -/
def crcBit (c : Nat) : Nat := if bitN c 15 then ((2 * c) % 2 ^ 16) ^^^ 0x1021 else 2 * c % 2 ^ 16
def crcBits : Nat → Nat → Nat
  | 0, c => c
  | n + 1, c => crcBits n (crcBit c)
def crc16 (l : List Nat) : Nat := l.foldl (fun c b => crcBits 8 (c ^^^ (b <<< 8))) 0xFFFF

/-- Formats of Table 10.5. A CB2 element is a 16-bit index (R41) and only moves. -/
def cpFmt (c : Nat) : Option Fmt :=
  if c = 11 then some (.int false 16)
  else if c = 13 then some (.int true 16)
  else if c = 14 then some (.int false 16)
  else if c = 15 then some (.int false 32)
  else match c with
    | 0 => some .fp32 | 1 => some .bf16 | 2 => some .tf16 | 3 => some .fp64 | 4 => some .e4m3
    | 5 => some .e5m2 | 6 => some .tf8 | 7 => some (.int true 8) | 8 => some (.int false 8)
    | 9 => some (.int true 4) | 10 => some (.int false 4) | 12 => some (.int true 32)
    | _ => none
def cpWidth (c : Nat) : Nat := match cpFmt c with | some f => f.width | none => 8

/-- Source and destination element offsets of element n (R294). -/
def dimOff : List (Nat × Int × Int) → Nat → Int × Int
  | [], _ => (0, 0)
  | (e, ss, ds) :: r, n =>
    let i : Int := ((n % e : Nat) : Int)
    let (a, b) := dimOff r (n / e)
    (i * ss + a, i * ds + b)

/-- Elements of a record. -/
def Shape.count (h : Shape) : Nat := h.dims.foldl (fun c d => c * d.1) 1

/-- First bit of element n on each side. -/
def Shape.srcBit (h : Shape) (n : Nat) : Int := h.sbit + (dimOff h.dims n).1 * cpWidth h.sfmt
def Shape.dstBit (h : Shape) (n : Nat) : Int := h.dbit + (dimOff h.dims n).2 * cpWidth h.dfmt

/-- Least and greatest element offset of a side, from its extents and strides. -/
def offMin (l : List (Nat × Int)) : Int := l.foldl (fun t (e, st) => if st < 0 then t + (e - 1 : Int) * st else t) 0
def offMax (l : List (Nat × Int)) : Int := l.foldl (fun t (e, st) => if 0 < st then t + (e - 1 : Int) * st else t) 0

/-- Residues modulo k that element offsets take. -/
def residues (k : Nat) (l : List (Nat × Int)) : List Bool :=
  l.foldl (fun rs (e, st) =>
    (List.range k).map fun (x : Nat) => (List.range (Nat.min e k)).any fun (i : Nat) =>
      rs.getD (((x : Int) - (i : Int) * st) % (k : Int)).toNat false)
    ((List.range k).map fun x => x = 0)

/-- Whether some element of a side lies across the end of a 64 B row (R294). -/
def crosses (bit : Int) (w : Nat) (l : List (Nat × Int)) : Bool :=
  let k := 512 / w
  (residues k l).zipIdx.any fun (on, r) => on && (bit + r * w) % 512 + w > 512

/-- Nibbles that elements cover, from the lowest element on, as a bit set. -/
def coverage (w4 : Nat) (l : List (Nat × Int)) : Nat :=
  l.foldl (fun m (e, st) =>
    if st = 0 then m else (List.range e).foldl (fun a i => a ||| (m <<< (i * st.natAbs * w4))) 0) (2 ^ w4 - 1)

/-- Whether every 32-bit word has all of its nibbles covered or none. -/
def wholeWords : Nat → Nat → Bool
  | 0, _ => true
  | n + 1, m => m = 0 || ((m % 256 = 0 || m % 256 = 255) && wholeWords n (m / 256))

/-- The shape record in 256 bytes, with the fields that need no destination offset checked (R293 to R296). -/
def recU (d off n : Nat) : Nat := (d >>> (8 * off)) % 2 ^ (8 * n)

/-- Dimensions in use: extent, source stride, destination stride. -/
def recDims (d n : Nat) : List (Nat × Int × Int) :=
  (List.range n).map fun i => (recU d (0x20 + 16 * i) 4, sextN (recU d (0x24 + 16 * i) 6) 48, sextN (recU d (0x2A + 16 * i) 6) 48)

/-- Checks a record (R293 to R296) and gives the shape. land: the word is CPYL. b: its destination offset. DESIGN CHOICE
(log 63): a scratchpad word that the command as a whole covers may get its bytes from several row groups (R206). -/
def parseShape (d : Nat) (land : Bool) (b : Word) : Option Shape :=
  let c := recU d 0x10 8
  let nd := bitsN c 15 4
  let sp := bitsN c 19 2
  let dp := bitsN c 21 2
  let sf := bitsN c 0 4
  let df := bitsN c 4 4
  let w := cpWidth sf
  let v := cpWidth df
  let sb := recU d 0 8
  let db := recU d 8 8
  let dims := recDims d nd
  let sd := dims.map fun x => (x.1, x.2.1)
  let dd := dims.map fun x => (x.1, x.2.2)
  let off : Int := if land then 0 else b.toInt
  let sbit : Int := ((8 * sb : Nat) : Int)
  let dbit : Int := (if dp < 2 then ((8 * db : Nat) : Int) else 0) + off * v
  let lo := dbit + offMin dd * v
  let hi := dbit + offMax dd * v + v
  let okFields := crc16 ((List.range 254).map fun i => recU d i 1) = recU d 0xFE 2 &&
    recU d 0x18 8 = 0 && recU d 0xE0 30 = 0 && c < 2 ^ 23 && bitsN c 8 2 ≠ 2 && 1 ≤ nd && nd ≤ 12 && sp < 2 &&
    recU d (0x20 + 16 * nd) (192 - 16 * nd) = 0
  let okDims := dims.all (fun x => 1 ≤ x.1) && dims.foldl (fun k x => k * x.1) 1 ≤ 2 ^ 40
  let okSides := !(sp ≠ 1 && bitsN c 11 2 ≠ 0) && !(dp ≠ 1 && bitsN c 13 2 ≠ 0) &&
    !((sf = 11 || df = 11) && sf ≠ df) && (dp = 3) == land && (sp = 0 || sb < 2 ^ 20) &&
    (if dp = 1 then db < 2 ^ 20 else if dp = 2 then db < 4 && b = 0 else if dp = 3 then db = 0 else true)
  let okRange := (sp = 0 || (0 ≤ sbit + offMin sd * w && sbit + offMax sd * w + w ≤ 2 ^ 23)) &&
    (dp = 0 || (0 ≤ lo && hi ≤ (if dp = 1 then 2 ^ 23 else 32768)))
  if !okFields || !okDims || !okSides || !okRange then none
  else if crosses sbit w sd || crosses dbit v dd then none
  else if dp = 1 && !(wholeWords 262144 ((coverage (v / 4) dd) <<< (lo / 4 % 8).toNat)) then none
  else some ⟨sbit, dbit, db % 4, sf, df, bitsN c 8 2, bitN c 10, bitsN c 11 2, bitsN c 13 2, sp, dp, dims⟩

/-- Highest destination byte + 1 of a load-queue or landing destination. -/
def Shape.dstLen (h : Shape) : Nat :=
  ceilDiv ((h.dbit + offMax (h.dims.map fun x => (x.1, x.2.2)) * cpWidth h.dfmt + cpWidth h.dfmt).toNat) 8

/-- Physical place of a logical SPM byte under a swizzle (R299). -/
def swizzle (m a : Nat) : Nat :=
  let r := a / 64 % 32
  let b := a % 64
  let top := a / 2048 * 2048
  if m = 1 then top + 64 * r + (b + 4 * r) % 64
  else if m = 2 then top + 64 * r + (b ^^^ (8 * (r % 8)))
  else if m = 3 then
    (if r % 2 = 0 && 32 ≤ b then top + 64 * (r + 1) + (b - 32)
     else if r % 2 = 1 && b < 32 then top + 64 * (r - 1) + (b + 32) else a)
  else a

/-- Physical bytes of len logical bytes from a. -/
def bytesAt (space swz a len : Nat) : List Nat := (List.range len).map fun k => if space = 1 then swizzle swz (a + k) else a + k

/-- A row of a destination as far as it is gathered: its number, and the bits, data and poison marks. -/
abbrev DstRow := Nat × Nat × Nat × Nat

/-- Adds bits to a gathered row. -/
def addBits : List DstRow → Nat → Nat → Nat → Nat → List DstRow
  | [], row, m, d, p => [(row, m, d &&& m, p)]
  | (r, m', d', p') :: l, row, m, d, p =>
    if r = row then (r, m' ||| m, (d' &&& (2 ^ 512 - 1 - m)) ||| (d &&& m), p' ||| p) :: l
    else (r, m', d', p') :: addBits l row m d p

/-- A row group under way: the state, the row last read on the source side, the next element, what is gathered of its
destination rows (two where PAIR parts an element, R299), the stores to sign, and CIR bits. -/
structure Gather where
  s : State
  cache : Option (Nat × Nat × Nat)
  n : Nat
  rows : List DstRow
  items : List (Nat × Nat × Nat)
  cir : Nat

inductive Gathered where
  | ok (g : Gather)
  /-- a status, ENG of a RACE, the element and its address -/
  | fail (s : State) (code : Nat) (eng : Bool) (n addr : Nat)
  /-- a row of another device has been asked for -/
  | wait (s : State)
  /-- a store that comes before is still not performed -/
  | hold

/-- The source row of an element: from the cache, from what a peer has answered, or read now. -/
def State.cpSource (s : State) (n : Nat) (r : CpRun) (space row : Nat) (cache : Option (Nat × Nat × Nat)) : EngRow :=
  match cache with
  | some (k, d, p) => if k = row then .ok s d p else go
  | none => go
where
  go : EngRow :=
    if space = 1 then s.spmRow n r.cmd.task row
    else match s.globRow n r.cmd.task row with
      | .peer s' sa => match tblFind r.peer sa with
        | some (.row d p) =>
          let (d, p) := if r.cmd.task.cls = 0 then (d, p) else s'.overContained r.cmd.task sa d p
          .ok s' d p
        | some (.failed c) => .fail s' c row
        | _ => .peer s' sa
      | x => x

/-- Asks a peer for a row, once. -/
def State.askPeer (s : State) (n id : Nat) (r : CpRun) (sa : Nat) : State :=
  if (tblFind r.peer sa).isSome then s
  else
    let s := s.addAcc { who := r.cmd.who n, va := 0, sa := sa, kind := .peerRead id, passed := false, task := r.cmd.task,
                        sig := 0, live := true, sent := false }
    s.modCore n fun c => { c with cpRun := tblPut c.cpRun id { r with peer := tblPut r.peer sa .asked, out := r.out + 1 } }

/-- Converts one element (R297): bits, CIR bits. -/
def convOne (h : Shape) (rmode : BitVec 2) (x : Nat) : Nat × Nat :=
  if h.sfmt = h.dfmt then (x, 0)
  else match cpFmt h.sfmt, cpFmt h.dfmt with
    | some a, some b =>
      let (y, f) := roundTo b (rndOf (BitVec.ofNat 2 h.rm) rmode) 0 h.sat (a.decode x)
      (y, cirOf f)
    | _, _ => (x, 0)

/-- The source rows of an element: one row, or two of which the second lies above the first in the result (R299). -/
def State.cpSource2 (s : State) (n : Nat) (r : CpRun) (space lo hi : Nat) (cache : Option (Nat × Nat × Nat)) : EngRow :=
  match s.cpSource n r space lo cache with
  | .ok s d p =>
    if hi = lo then .ok s d p
    else match s.cpSource n r space hi none with
      | .ok s d' p' => .ok s (d + d' <<< 512) (p + p' <<< 16)
      | x => x
  | x => x

/-- Bits of an element: value from its bytes at their places in the source rows, and whether the word of each byte is
poisoned. -/
def pickElem (d p : Nat) (places : List Nat) (bit w : Nat) : Nat × List Bool :=
  let v := natOfBytes (places.map fun a => BitVec.ofNat 8 (d >>> (8 * a)))
  (if w = 4 then (v >>> (bit % 8)) % 16 else v % 2 ^ w, places.map fun a => bitN p (a / 4))

/-- Whether byte k of an element takes poison from the marks of its source bytes (R209): its own, where the element
moves unchanged (R297), else any. -/
def Shape.taints (h : Shape) (bad : List Bool) (k : Nat) : Bool :=
  if h.sfmt = h.dfmt then bad.getD k false else bad.any id

/-- The rows in which an element's first and last destination byte lie. -/
def Shape.dstRows (h : Shape) (n : Nat) : Int × Int :=
  let da := h.dstBit n / 8
  if h.dspace = 1 then
    let l := bytesAt 1 h.dswz da.toNat (Nat.max 1 (cpWidth h.dfmt / 8))
    (((l.headD 0 / 64 : Nat) : Int), ((l.getLastD 0 / 64 : Nat) : Int))
  else (da / 64, da / 64)

/-- Gathers the elements of one row group (R298), as long as they lie in the same destination row. DESIGN CHOICE
(log 64): a 4-bit element enters the task signature as one byte with the element in its place and zeros beside it. -/
def gather (n id : Nat) (r : CpRun) (h : Shape) (key : Int × Int) : Nat → Gather → Gathered
  | 0, g => .ok g
  | fuel + 1, g =>
    let w := cpWidth h.sfmt
    let v := cpWidth h.dfmt
    let db := h.dstBit g.n
    let sb := h.srcBit g.n
    let da := db / 8
    if h.dstRows g.n ≠ key then .ok g
    else if h.sspace = 0 && (sb < 0 || 2 ^ 60 ≤ sb) then .fail g.s fTranslation false g.n (wordOfInt (sb / 8)).toNat
    else if h.dspace = 0 && (db < 0 || 2 ^ 60 ≤ db) then .fail g.s fTranslation false g.n (wordOfInt da).toNat
    else
      let sa := (sb / 8).toNat
      let dbytes := bytesAt h.dspace h.dswz da.toNat (Nat.max 1 (v / 8))
      let sbytes := bytesAt h.sspace h.sswz sa (Nat.max 1 (w / 8))
      let lo := sbytes.headD 0 / 64 * 64
      let hi := sbytes.getLastD 0 / 64 * 64
      match g.s.cpSource2 n r h.sspace lo hi g.cache with
      | .fail s c x => .fail s c (s.engAt n r.cmd.task c (if h.sspace = 1 then 2 ^ 63 + x else x)) g.n sa
      | .peer s x => .wait (s.askPeer n id r x)
      | .wait => .hold
      | .ok s d p =>
        if h.dspace = 0 && s.inCode r.cmd.task da.toNat (Nat.max 1 (v / 8)) then .fail s fProtection false g.n da.toNat
        else
          let (x, bad) := pickElem d p (sbytes.map fun a => if a / 64 * 64 = lo then a % 64 else 64 + a % 64) sb.toNat w
          let (y, cir) := convOne h r.cmd.rmode x
          let low := if v = 4 then db.toNat % 8 else 0
          let ones := if v = 4 then 15 else 255
          let rows := dbytes.zipIdx.foldl (fun l (a, k) =>
            let at_ := 8 * (a % 64) + low
            addBits l (a / 64) (ones <<< at_) ((y >>> (8 * k) &&& ones) <<< at_) (if h.taints bad k then 2 ^ (a % 64 / 4) else 0)) g.rows
          gather n id r h key fuel
            { s := s, cache := if lo = hi then some (lo, d, p) else none, n := g.n + 1, rows := rows,
              items := (da.toNat, Nat.max 1 (v / 8), if v = 4 then y <<< low else y) :: g.items,
              cir := g.cir ||| cir }

/-- Bytes that a bit mask covers in whole, and those it touches. -/
def byteMask (m : Nat) : Nat := packElems 1 ((List.range 64).map fun i => if bitsN m (8 * i) 8 = 255 then 1 else 0)
def touchMask (m : Nat) : Nat := packElems 1 ((List.range 64).map fun i => if bitsN m (8 * i) 8 = 0 then 0 else 1)

/-- Whether a later element of the copy writes a row of a load-queue destination. -/
def rowLater (h : Shape) (row : Int) : Nat → Nat → Bool
  | 0, _ => false
  | fuel + 1, n => h.dstBit n / 512 = row || rowLater h row fuel (n + 1)

/-- Puts gathered bits into a row of a queue. -/
def putRow (l : List QRow) (id data mask pois : Nat) (done : Bool) : List QRow :=
  l.map fun x => if x.id = id then
    { x with data := (x.data &&& (2 ^ 512 - 1 - mask)) ||| (data &&& mask), poison := x.poison ||| pois, filled := x.filled || done }
    else x

def State.modRun (s : State) (n id : Nat) (f : CpRun → CpRun) : State :=
  s.modCore n fun c => match tblFind c.cpRun id with
    | none => c
    | some r => { c with cpRun := tblPut c.cpRun id (f r) }

/-- A command ends early with a status, at an element and its address (R290, R298); eng is ENG of a RACE. -/
def State.cpFail (s : State) (n id total code : Nat) (eng : Bool) (fidx addr : Nat) : State :=
  s.modRun n id fun r => { r with stat := code, eng := eng, fidx := fidx, addr := BitVec.ofNat 64 addr, next := total }

/-- A row group has been written, in so many rows: the command goes on behind it. -/
def State.cpDone (s : State) (n id : Nat) (e : EnCmd) (g : Gather) (wrote : Nat) : State :=
  let s := g.items.foldl (fun s (va, len, d) => if e.task.cls ≠ 0 && va < 2 ^ 57 then s.signStore e.task va len d else s) s
  (s.perf n 14 e.ctx none wrote).modRun n id fun r => { r with next := g.n, cbits := r.cbits ||| g.cir, peer := [] }

/-- The words of a row whose bits are all gathered, as a byte mask. -/
def wordMask (m : Nat) : Nat :=
  (List.range 16).foldl (fun t w => if bitsN m (32 * w) 32 = 2 ^ 32 - 1 then t ||| (15 <<< (4 * w)) else t) 0

/-- Writes the whole words among gathered rows of the scratchpad (R206): what is left of the rows, and how many rows
were written; none if a row is open for another core. -/
def State.putWords (n : Nat) : List DstRow → State → List DstRow → Nat → Option (State × List DstRow × Nat)
  | [], s, l, k => some (s, l, k)
  | (row, m, d, p) :: rest, s, l, k =>
    let wm := wordMask m
    let left := m - (m &&& maskBits 64 wm)
    let l := if left = 0 then l else (row, left, d, p) :: l
    if wm = 0 then State.putWords n rest s l k
    else match s.spmPut n (64 * row) wm d p with
      | .ok s => State.putWords n rest s l (k + 1)
      | _ => none

/-- A group for the scratchpad. Words that other groups complete wait for them (R206). -/
def State.cpWriteSpm (s0 : State) (n id : Nat) (r : CpRun) (h : Shape) (g : Gather) : State :=
  let rows := g.rows.foldl (fun l (row, m, d, p) => addBits l row m d p) r.part
  let s := (rows.filter fun e => wordMask e.2.1 ≠ 0).foldl
    (fun s e => s.settleRow n (spmKey n (64 * e.1)) (2 ^ 64 + spmKey n (64 * e.1))) g.s
  if rows.any fun e => (s0.core n).readNow (64 * e.1) then s0
  else match rows.find? fun e => wordMask e.2.1 ≠ 0 && s.openFor n (spmKey n (64 * e.1)) with
  | some e => s.cpFail n id h.count fRace (s.rowEng (spmKey n (64 * e.1))) r.next (h.dstBit r.next / 8).toNat
  | none =>
    match State.putWords n rows s [] 0 with
    | none => s0
    | some (s, l, k) => (s.cpDone n id r.cmd { g with items := [] } k).modRun n id fun r => { r with part := l }

/-- A group for a load queue. -/
def State.cpWriteQueue (n id : Nat) (r : CpRun) (h : Shape) (g : Gather) : State :=
  let e := r.cmd
  let s := if g.s.inCtx n e then
      g.rows.foldl (fun s (row, m, d, p) =>
        let last := !rowLater h row (h.count - g.n) g.n
        s.modCtx (e.who n) fun x => { x with lq := tblPut x.lq h.q (putRow (x.lrows h.q) (r.rows.getD row 0) d m p last) }) g.s
    else g.s
  s.cpDone n id e { g with items := [] } 1

/-- A group for a landing slot. -/
def State.cpWriteLand (n id : Nat) (r : CpRun) (g : Gather) : State :=
  let e := r.cmd
  let s := match r.slot with
    | none => g.s
    | some k =>
      if !g.s.inCtx n e then g.s
      else g.s.modCore n fun c => match tblFind c.land k with
        | none => c
        | some l =>
          let l' := g.rows.foldl (fun (l : Land) (row, m, d, p) =>
            let at_ := 512 * row
            { l with data := (l.data &&& (2 ^ 32768 - 1 - (m <<< at_))) ||| ((d &&& m) <<< at_),
                     poison := l.poison ||| (p <<< (16 * row)) }) l
          { c with land := tblPut c.land k l' }
  s.cpDone n id e { g with items := [] } 1

/-- The row of memory that a byte which takes one 4-bit element keeps its other nibble of (R296). -/
def State.cpOld (s : State) (n : Nat) (r : CpRun) (sa : Nat) : EngRow :=
  let t := r.cmd.task
  if saDev sa ≠ s.devId then
    match tblFind r.peer sa with
    | some (.row d p) =>
      let (d, p) := if t.cls = 0 then (d, p) else s.overContained t sa d p
      .ok s d p
    | some (.failed c) => .fail s c sa
    | _ => .peer s sa
  else
    let s := s.performOlder s.accNext n (sa / 64)
    if s.olderLeft s.accNext n (sa / 64) then .wait
    else
      let (s, d, p) := s.sysRead sa t.tag
      let (d, p) := if t.cls = 0 then (d, p) else s.overContained t sa d p
      .ok s d p

/-- The words of a row of which only a part of the bits is written, as poison marks: those keep the poison of what is
kept (R211, R296). -/
def partWords (m : Nat) : Nat :=
  (List.range 16).foldl (fun t w => let b := bitsN m (32 * w) 32; if b = 0 || b = 2 ^ 32 - 1 then t else t ||| 2 ^ w) 0

/-- A group for global memory (R298, R316). A write to another device is answered before the next group is taken. -/
def State.cpWriteGlobal (s0 : State) (n id : Nat) (r : CpRun) (h : Shape) (g : Gather) : State :=
  let e := r.cmd
  let t := e.task
  let (row, m, d, p) := g.rows.headD (0, 0, 0, 0)
  let bm := touchMask m
  let va := 64 * row
  let first := (h.dstBit r.next / 8).toNat
  match g.s.translate n t va with
  | (s, none) => s.cpFail n id h.count fTranslation false r.next first
  | (s, some (sa0, w)) =>
    let sa := sa0 / 64 * 64
    if !w then s.cpFail n id h.count fProtection false r.next first
    else
      match (if byteMask m = bm then .ok s 0 0 else s.cpOld n r sa : EngRow) with
      | .peer s x => s.askPeer n id r x
      | .wait => s0
      | .fail s c _ => s.cpFail n id h.count c false r.next first
      | .ok s old kept =>
        let p := p ||| (kept &&& partWords m)
        let data := (old &&& (2 ^ 512 - 1 - m)) ||| (d &&& m)
        match s.globPut n t va sa bm data p with
        | .ok s => s.cpDone n id e g 1
        | .fail s c _ => s.cpFail n id h.count c (s.engAt n t c va) r.next first
        | .wait => s0
        | .peer s sa =>
          let s := s.addAcc { who := e.who n, va := va, sa := sa, kind := .peerPut (some id) bm data p, passed := false, task := t,
                              sig := 0, live := true, sent := false }
          (s.cpDone n id e g 1).modRun n id fun x => { x with out := x.out + 1, put := some r.next }

/-- Writes a gathered group (R298, R206, R209). -/
def State.cpWrite (s : State) (n id : Nat) (r : CpRun) (h : Shape) (g : Gather) : State :=
  if h.dspace = 1 then s.cpWriteSpm n id r h g
  else if h.dspace = 2 then State.cpWriteQueue n id r h g
  else if h.dspace = 3 then State.cpWriteLand n id r g
  else s.cpWriteGlobal n id r h g

/-- COPY_ROW_GROUP (R298): the next group of a running copy. Groups are taken in the order of their elements. DESIGN
CHOICE (log 83): where a group's source and its destination fail both, the failure of the source is reported. -/
def State.cpGroup (s : State) (n id : Nat) : State :=
  match tblFind (s.core n).cpRun id with
  | none => s
  | some r =>
    match r.shape with
    | none => s
    | some h =>
      if h.count ≤ r.next || r.put.isSome || !s.cmdAlive n r.cmd || (s.core n).engHalt then s
      else
        match gather n id r h (h.dstRows r.next) (h.count - r.next) ⟨s, none, r.next, [], [], 0⟩ with
        | .wait s => s
        | .hold => s
        | .fail s c g k a => s.cpFail n id h.count c g k a
        | .ok g => s.cpWrite n id r h g

/-- Token that a copy word names. -/
def EnCmd.copyTok (e : EnCmd) : Option Nat :=
  match e.i with | .cpy _ t _ _ => some t.toNat | .cpyl _ t _ _ => some t.toNat | _ => none

/-- Whether a run has nothing left to move. -/
def CpRun.moved (r : CpRun) : Bool := (match r.shape with | none => true | some h => h.count ≤ r.next) && r.out = 0

/-- Whether a finished command waits for room in a token queue: the engine starts nothing meanwhile (R288). -/
def State.cpHeld (s : State) (n : Nat) : Bool := (s.core n).cpRun.any fun (_, r) => r.moved && !s.cmdRoom n r.cmd

/-- The lowest landing slot that is free (R150). -/
def Core.freeSlot (c : Core) : Option Nat := (List.range 8).find? fun i => (tblFind c.land i).isNone

/-- A command enters the running set. -/
def State.cpAdd (s : State) (n : Nat) (r : CpRun) : State :=
  s.modCore n fun c => { c with cpRun := tblPut c.cpRun c.cpNext r, cpNext := c.cpNext + 1 }

def CpRun.start (e : EnCmd) : CpRun :=
  { cmd := e, shape := none, next := 0, slot := none, rows := [], cbits := 0, stat := 0, fidx := 0, addr := 0, cb := [],
    peer := [], out := 0 }

/-- A command that ends with a status before anything moves. -/
def CpRun.bad (e : EnCmd) (code fidx addr : Nat) (eng : Bool := false) : CpRun :=
  { CpRun.start e with stat := code, fidx := fidx, addr := BitVec.ofNat 64 addr, eng := eng }

/-- Starts CBLD (R343): twelve rows are read. -/
def State.cpStartCb (s : State) (n : Nat) (e : EnCmd) : State :=
  if e.a.toNat % 64 ≠ 0 then s.cpAdd n (CpRun.bad e fShapeRecord 0 0)
  else match s.localRows n e.task 12 e.a.toNat with
    | .wait => s
    | .fail s c a i => s.cpAdd n (CpRun.bad e c (64 * i / 3) a (s.engAt n e.task c (e.a.toNat + 64 * i)))
    | .ok s d p => s.cpAdd n { CpRun.start e with cb := elemsOf 24 256 d, cbits := if p = 0 then 0 else 1 }

/-- Starts CPY or CPYL (R293 to R296, R300). DESIGN CHOICE (log 68): the four rows of the record are read in this one
event (R257). -/
def State.cpStartCopy (s0 : State) (n : Nat) (e : EnCmd) (land : Bool) : State :=
  let c := s0.core n
  let mine := s0.inCtx n e
  let slot := if land && mine then c.freeSlot else none
  if land && mine && slot.isNone then s0
  else
    -- a landing slot is taken before the record is read
    let take (s : State) (len : Nat) : State :=
      match slot with
      | none => s
      | some k => s.modCore n fun c =>
          { c with land := tblPut c.land k ⟨e.ctx, (e.copyTok).getD 0, e.b, len, 0, 0, false, 0, c.age, e.past⟩, age := c.age + 1 }
    let bad (s : State) (code addr row : Nat) : State :=
      (take s 0).cpAdd n { CpRun.bad e code 0 addr (s.engAt n e.task code (e.a.toNat + 64 * row)) with slot := slot }
    if e.a.toNat % 64 ≠ 0 then bad s0 fShapeRecord 0 0
    else match s0.localRows n e.task 4 e.a.toNat with
      | .wait => s0
      | .fail s c a i => bad s c a i
      | .ok s d _ =>
        match parseShape d land e.b with
        | none => bad s fShapeRecord 0 0
        | some h =>
          let k := if h.dspace = 2 then ceilDiv h.dstLen 64 else 0
          if h.dspace = 2 && mine && !roomRows ((c.ctx e.ctx).lrows h.q) k then s0
          else
            let (s, ids) := if h.dspace = 2 && mine then s.reserveLq (e.who n) h.q k else (s, [])
            (take s h.dstLen).cpAdd n { CpRun.start e with shape := some h, slot := slot, rows := ids }

/-- COPY_START (R288, R296): the head of the copy queue starts, at most four at once. -/
def State.cpStart (s : State) (n : Nat) : State :=
  let c := s.core n
  match c.cpq with
  | [] => s
  | e :: rest =>
    if c.engHalt || 4 ≤ c.cpRun.length || s.cpHeld n || !s.cmdAlive n e then s
    else
      let s' := match e.i with
        | .cpy .. => s.cpStartCopy n e false
        | .cpyl .. => s.cpStartCopy n e true
        | _ => s.cpStartCb n e
      if (s'.core n).cpRun.length = c.cpRun.length then s else s'.modCore n fun c => { c with cpq := rest }

/-- COPY_COMPLETE (R289, R297, R298, R300, R343). A completion token passes on what happens before the command (R242).
DESIGN CHOICE (log 84): a transfer has finished landing (R171) when its command completes, which a full token queue can
hold. -/
def State.cpComplete (s : State) (n id : Nat) : State :=
  match tblFind (s.core n).cpRun id with
  | none => s
  | some r =>
    let e := r.cmd
    if !r.moved || !s.cmdRoom n e || !s.cmdAlive n e then s
    else
      let s := s.modCore n fun c => { c with cpRun := tblErase c.cpRun id }
      let s := s.modOwner n e fun x =>
        let x := x.setCir r.cbits
        match e.copyTok with
        | some t =>
          let k := x.ctok t
          let k := { k with pend := k.pend - 1 }
          { x with ct := tblPut x.ct t (if r.stat = 0 then k else { k with stat := r.stat, fidx := r.fidx, addr := r.addr, eng := r.eng }) }
        | none => if r.stat = 0 then x else { x with cbStat := r.stat, cbIdx := r.fidx, cbEng := r.eng }
      let s := match e.copyTok with
        | some t => if s.inCtx n e then s.teach e.past (.ctok n e.ctx t) else s
        | none => s
      let s := if e.copyTok.isNone && r.stat = 0 then
          s.modCore n fun c => { c with cbt := r.cb.zipIdx.map fun (v, i) => (i, BitVec.ofNat 24 v) } else s
      let s := match r.slot with
        | none => s
        | some k => s.modCore n fun c => match tblFind c.land k with
          | none => c
          | some l => if !s.inCtx n e then c else
              { c with land := tblPut c.land k { l with done := true, stat := r.stat } }
      -- rows that no group filled are zero and count as filled
      let s := match r.shape with
        | none => s
        | some h => if s.inCtx n e then
            s.modCtx (e.who n) fun x => { x with lq := tblPut x.lq h.q ((x.lrows h.q).map fun (q : QRow) =>
              if r.rows.contains q.id then { q with filled := true } else q) }
          else s
      ((s.cmdPush n e).perf n 13 e.ctx none 1).traceCmd n 5 e r.stat (e.copyTok.getD 0)

def execCopyStart (n : Nat) (s : State) : Host.Outcome State Fault Refusal := .next (s.cpStart n)
def execCopyRowGroup (n id : Nat) (s : State) : Host.Outcome State Fault Refusal := .next (s.cpGroup n id)
def execCopyComplete (n id : Nat) (s : State) : Host.Outcome State Fault Refusal := .next (s.cpComplete n id)

end Sys2Proof.Machine
end

