-- ==== Sys2Proof/Machine/Hub.lean ====
section
/-! DEFINITION. The hub's checks and queues: kernel-table entries (R318, R319),
the image check (R84 to R87, R137), loop-nest records (R320 to R323), task records (R325, R326), almanac entries
(R336), task queues (R314, R415) and the acceptance of a launch (R321, R336). -/

namespace Sys2Proof.Machine

/-- A kernel-table entry that R318 and R319 accept: image address, image size, frame size, system mark. -/
def State.kernelEntry (s : State) (p k : Nat) : State × Option (Nat × Nat × Nat × Bool) :=
  let a := (s.part p).ktab + 32 * k
  if (s.part p).dies.isEmpty || saDev a ≠ s.devId || !s.saOk a 32 then (s, none)
  else
    let (s, row, _) := s.sysRead a 0
    let e := row >>> (8 * (a % 64))
    let img := bitsN e 0 64
    let c := bitsN e 64 64
    let size := bitsN e 128 64
    if bitN c 3 && bitsN c 0 2 ≠ 3 && c < 16 && bitsN e 192 64 = 0 && img % 256 = 0 && 256 ≤ size then
      (s, some (img, size, 16384 * 2 ^ bitsN c 0 2, bitN c 2))
    else (s, none)

/-- A tile descriptor without index bits (Table 11.8). -/
def tileOk (w : Nat) : Bool :=
  w < 2 ^ 46 && bitsN w 41 5 ≤ 19 && bitsN w 0 41 % 2 ^ bitsN w 41 5 = 0

/-- A well-formed almanac entry of 32 bytes (R336). -/
def almOk (e : Nat) : Bool :=
  let c := bitsN e 0 64
  let o := bitsN e 64 64
  bitsN e 192 64 = 0 && bitsN c 28 4 = 0 && bitsN c 2 2 ≠ 3 && bitsN c 4 2 ≠ 3 && (!bitN c 27 || c % 4 = 0) &&
  (if bitN c 6 then !bitN o 63 && o % 64 = 0 && bitsN e 128 64 = 0 else tileOk o)

/-- Almanac entries in a block of bytes: none when one is malformed. -/
def almEntries : Nat → Nat → Option (List AEnt)
  | 0, _ => some []
  | n + 1, d =>
    if almOk d then
      (almEntries n (d >>> 256)).map fun r =>
        ⟨BitVec.ofNat 64 d, BitVec.ofNat 64 (d >>> 64), BitVec.ofNat 64 (d >>> 128), .idle, none⟩ :: r
    else none

/-- What a header says (Table 3.18). -/
def snapOf (h : Nat) (img size frame : Nat) (sys : Bool) : Snap :=
  let lat (i : Nat) : Nat := byteFld h (0x10 + 2 * i) 2
  { img := img, size := size, frame := frame, sys := sys,
    lats := (List.range 16).map fun i => lat i % 2 ^ 15,
    shadow := (List.range 16).foldl (fun m i => if bitN (lat i) 15 then m + 2 ^ i else m) 0,
    views := (List.range 4).map fun i => BitVec.ofNat 64 (byteFld h (0x30 + 8 * i) 8),
    share := byteFld h 0x50 1, cls := byteFld h 0x51 1,
    entry := (List.range 4).map fun i => byteFld h (0x54 + 4 * i) 4,
    codeOff := byteFld h 0x64 4, codeSize := byteFld h 0x68 4,
    almOff := byteFld h 0x6C 4, almCnt := byteFld h 0x70 4 }

/-- Check 1 of R87 for the header alone, with R137. DESIGN CHOICE (log 98): a code section whose offset or size is no
multiple of 4, which Table 3.18 wants, fails it too. -/
def headerOk (h : Nat) (x : Snap) : Bool :=
  let in_ (off len : Nat) : Bool := off + len ≤ x.size
  byteFld h 0 4 = 0x1A494B48 && byteFld h 4 1 = 1 && byteFld h 0xC 4 = 256 &&
  byteFld h 6 2 = 0 && byteFld h 0x52 2 = 0 && byteFld h 0x84 124 = 0 &&
  byteFld h (0x10 + 26) 6 = 0 &&
  1 ≤ x.share && x.share ≤ 64 && x.cls ≤ 2 &&
  x.codeOff % 4 = 0 && x.codeSize % 4 = 0 &&
  x.entry.all (fun e => e % 4 = 0 && x.codeOff ≤ e && e < x.codeOff + x.codeSize) &&
  x.almCnt ≤ 4096 &&
  in_ x.codeOff x.codeSize && in_ x.almOff (32 * x.almCnt) &&
  in_ (byteFld h 0x74 4) (256 * byteFld h 0x78 4) && in_ (byteFld h 0x7C 4) (16 * byteFld h 0x80 4) &&
  x.views.zipIdx.all fun (v, i) => viewOk i v x.frame

/-- Whether a die of the partition is slower than the image states in a class it may not interlock (R87). -/
def State.tooSlow (s : State) (p : Nat) (x : Snap) : Bool :=
  (s.part p).dies.any fun d => (List.range 13).any fun c =>
    bitN x.shadow c && x.lats.getD c 0 < s.ownLatency d c

/-- The checks of R87 in order, on the image of a kernel-table entry: its snapshot and its almanac, or the status.
DESIGN CHOICE (log 99): the reserved bits of the configuration identifier are left to check 2. -/
def State.imageCheck (s : State) (p k : Nat) : State × Except Nat (Snap × List AEnt) :=
  match s.kernelEntry p k with
  | (s, none) => (s, .error fLaunchFormat)
  | (s, some (img, size, frame, sys)) =>
    match s.hubRead p img 256 with
    | (s, none) => (s, .error fLaunchFormat)
    | (s, some h) =>
      let x := snapOf h img size frame sys
      if !headerOk h x then (s, .error fLaunchFormat)
      else
        let nd := byteFld h 0x80 4
        match s.hubRead p (img + byteFld h 0x7C 4) (16 * nd) with
        | (s, none) => (s, .error fLaunchFormat)
        | (s, some d) =>
          if !(List.range nd).all (fun i => byteFld d (16 * i + 8) 4 + byteFld d (16 * i + 12) 4 ≤ size) then
            (s, .error fLaunchFormat)
          else match s.hubRead p (img + x.almOff) (32 * x.almCnt) with
          | (s, none) => (s, .error fLaunchFormat)
          | (s, some a) =>
            match almEntries x.almCnt a with
            | none => (s, .error fLaunchFormat)
            | some al =>
              if byteFld h 8 4 ≠ Config.cfgid s.form then (s, .error fConfigMismatch)
              else if s.tooSlow p x then (s, .error fConfigMismatch)
              else (s, .ok (x, al))

/-- Fields of a loop level (Table 11.5) and of a loop-nest record's control word (Table 11.4). -/
structure Level where
  trip : Nat
  kind : Nat
  ord : Nat
  idx : Nat
  deriving DecidableEq, Repr

def levelOf (r i : Nat) : Level :=
  let w := byteFld r (0x18 + 8 * i) 8
  ⟨bitsN w 0 32, bitsN w 32 2, bitsN w 34 3, bitsN w 37 3⟩
def recCtl (r : Nat) : Nat := byteFld r 0 8
def recLevels (r : Nat) : List Level := (List.range (bitsN (recCtl r) 20 3)).map (levelOf r)
def recTq (r : Nat) : Nat := bitsN (recCtl r) 14 6
def recKidx (r : Nat) : Nat := bitsN (recCtl r) 0 12
def recLtag (r : Nat) : Nat := byteFld r 0x70 4
/-- Tile template m: 0 to 2 read, 3 and 4 write. -/
def recTile (r m : Nat) : Nat := byteFld r (0x48 + 8 * m) 8

/-- The spatial levels, outermost first (R322). -/
def spatial (l : List Level) : List Level :=
  (List.range 6).flatMap fun o => l.filter fun v => v.kind ≠ 0 && v.ord = o

/-- The task count. -/
def taskCount (l : List Level) : Nat := (spatial l).foldl (fun n v => n * v.trip) 1

/-- Whether template m is in use. -/
def tileUsed (r m : Nat) : Bool :=
  let c := recCtl r
  if m < 3 then m < bitsN c 23 2 else m - 3 < bitsN c 25 2

/-- Checks 1 to 3 of R321. host: from a launch queue. -/
def State.recordOk (s : State) (p r : Nat) (host : Bool) : Bool :=
  let c := recCtl r
  let n := bitsN c 20 3
  let ls := recLevels r
  let sp := spatial ls
  let count := taskCount ls
  bitsN c 29 35 = 0 && 1 ≤ n && n ≤ 6 && bitsN c 25 2 ≠ 3 && (host || !bitN c 28) &&
  (s.tq (recTq r)).part = some p && byteFld r 0x74 12 = 0 &&
  (List.range 6).all (fun i =>
    let w := byteFld r (0x18 + 8 * i) 8
    let v := levelOf r i
    if i < n then
      bitsN w 40 24 = 0 && v.kind ≠ 3 && v.idx ≤ 4 && (if v.kind = 0 then v.ord = 0 else v.ord < (ls.filter (·.kind ≠ 0)).length) &&
      (v.idx = 4 || v.trip ≤ (if v.kind = 0 then 65535 else 65536))
    else w = 0) &&
  (List.range 6).all (fun o => (ls.filter fun v => v.kind ≠ 0 && v.ord = o).length ≤ 1) &&
  (List.range 4).all (fun q => (ls.filter fun v => v.idx = q).length ≤ 1) &&
  count ≤ 2 ^ 31 &&
  (List.range 5).all (fun m =>
    let w := recTile r m
    if tileUsed r m then
      let lev := bitsN w 46 3
      let top := if lev = 7 then 0 else if lev = 6 then count - 1 else (levelOf r lev).trip - 1
      w < 2 ^ 49 && tileOk (w % 2 ^ 46) && (6 ≤ lev || (lev < n && (levelOf r lev).kind ≠ 0)) &&
      bitsN w 0 41 * 65536 + (top + 1) * 2 ^ (16 + bitsN w 41 5) ≤ 2 ^ 57
    else w = 0) &&
  sp.length = (ls.filter (·.kind ≠ 0)).length

/-- Iteration number of a spatial level in enumeration seq (R322): the levels inside it vary faster. -/
def iterOf (l : List Level) (v : Level) (seq : Nat) : Nat :=
  seq / ((spatial l).filter fun u => v.ord < u.ord).foldl (fun n u => n * u.trip) 1 % v.trip

/-- Mixed-radix number of the iteration numbers of one kind of level (R327). -/
def mixed (l : List Level) (kind seq : Nat) : Nat :=
  ((spatial l).filter fun v => v.kind = kind).foldl (fun n v => n * v.trip + iterOf l v seq) 0

/-- The record that the walker forms for enumeration seq (R323, R325, R327). -/
def walkerRecord (r launch seq : Nat) (x : Snap) : TRec :=
  let c := recCtl r
  let ls := recLevels r
  let index (q : Nat) : Nat := match ls.find? fun v => v.idx = q with
    | none => 0
    | some v => if v.kind = 0 then v.trip else iterOf ls v seq
  let tile (m : Nat) : Nat :=
    if tileUsed r m then
      let w := recTile r m
      let lev := bitsN w 46 3
      let v := if lev = 7 then 0 else if lev = 6 then seq else iterOf ls (levelOf r lev) seq
      (bitsN w 0 41 + v * 2 ^ bitsN w 41 5) % 2 ^ 41 + bitsN w 41 5 * 2 ^ 41
    else 0
  let w0 := recKidx r + x.cls * 2 ^ 12 + bitsN c 12 2 * 2 ^ 14 + bitsN c 23 2 * 2 ^ 16 + bitsN c 25 2 * 2 ^ 18 + seq * 2 ^ 32
  let w (i : Nat) : Nat := tile i + index i % 2 ^ 16 * 2 ^ 48
  { words := [w0, w 0, w 1, w 2, w 3, tile 4, byteFld r 8 8, byteFld r 0x10 8].map (BitVec.ofNat 64),
    tid := BitVec.ofNat 64 (recLtag r * 2 ^ 32 + seq), launch := launch, snap := x,
    pin := if bitN c 27 then
        some (mixed ls 2 seq, ls.any (·.kind = 2), mixed ls 1 seq, ls.any (·.kind = 1)) else none }

/-- Index q of the task (R325). -/
def TRec.index (r : TRec) (q : Nat) : Word := BitVec.ofNat 64 (bitsN (r.word (1 + q)) 48 16)

/-- Tables 11.7 and 11.8 for a record of eight words. -/
def taskRecordOk (d : Nat) : Bool :=
  let w (i : Nat) : Nat := bitsN d (64 * i) 64
  let w0 := w 0
  let nr := bitsN w0 16 2
  let nw := bitsN w0 18 2
  bitsN w0 12 2 ≠ 3 && nw ≠ 3 && bitsN w0 20 12 = 0 && !bitN w0 63 && bitsN (w 5) 48 16 = 0 &&
  (List.range 3).all (fun i => if i < nr then tileOk (w (1 + i) % 2 ^ 48) else w (1 + i) % 2 ^ 48 = 0) &&
  (List.range 2).all (fun i => if i < nw then tileOk (w (4 + i) % 2 ^ 48) else w (4 + i) % 2 ^ 48 = 0)

/-- Enqueues a record (R314, R415): none when the ring is full. No record leaves the queue after it in the same cc. -/
def State.enqueue (s : State) (q : Nat) (r : TRec) : Option State :=
  let t := s.tq q
  if t.fifo.length < 32 && t.ring.isEmpty then some (s.modTq q fun t => { t with fifo := t.fifo ++ [r], fed := true })
  else if t.ring.length < t.rs then
    let s := s.sysWrite (t.base + 64 * (t.rt % t.rs)) fullMask (packElems 64 (r.words.map BitVec.toNat)) 0 0
    some (s.modTq q fun t => { t with ring := t.ring ++ [r], rt := (t.rt + 1) % 2 ^ 32, fed := true })
  else none

/-- Dequeues a record and refills the FIFO from the ring (R314, R415). -/
def State.dequeue (s : State) (q : Nat) : State :=
  let t := s.tq q
  match t.ring with
  | [] => s.modTq q fun t => { t with fifo := t.fifo.drop 1 }
  | r :: rest =>
    let (s, d, _) := s.sysRead (t.base + 64 * (t.rh % t.rs)) 0
    let r := { r with words := (elemsOf 64 8 d).map (BitVec.ofNat 64) }
    s.modTq q fun t => { t with fifo := t.fifo.drop 1 ++ [r], ring := rest, rh := (t.rh + 1) % 2 ^ 32 }

/-- Almanac entries that the device holds (R336). -/
def State.almHeld (s : State) : Nat := s.launches.foldl (fun n e => n + e.2.alm.length) 0

/-- What the hub decides of a launch record. -/
inductive Verdict where
  | reject (code : Nat)
  /-- its almanac does not fit yet (R336) -/
  | wait
  | accept (x : Snap) (alm : List AEnt)
  deriving DecidableEq, Repr

/-- Checks a record of 128 bytes and its image (R321, R87). A partition whose halt line the hub has seen accepts
nothing (R368). -/
def State.judge (s : State) (p r : Nat) (host : Bool) : State × Verdict :=
  if !s.recordOk p r host then (s, .reject fLaunchFormat)
  else match s.imageCheck p (recKidx r) with
  | (s, .error c) => (s, .reject c)
  | (s, .ok (x, al)) => if 65536 < s.almHeld + al.length then (s, .wait) else (s, .accept x al)

/-- An accepted launch, with its almanac installed (R322, R336, R337). -/
def State.addLaunch (s : State) (p r : Nat) (lq : Option (Nat × Nat)) (x : Snap) (al : List AEnt) : State :=
  let l : Launch :=
    { part := p, lq := lq, words := (elemsOf 64 16 r).map (BitVec.ofNat 64), snap := x,
      total := taskCount (recLevels r), seq := 0, tqCount := 0, alive := 0, alm := al, arr := [], fireNo := 0,
      hasAlm := !al.isEmpty, released := false, unresolved := false }
  { s with launches := tblPut s.launches s.launchNext l, launchNext := s.launchNext + 1 }.fireLaunch s.launchNext

/-- The loop-nest record of a launch. -/
def Launch.record (l : Launch) : Nat := packElems 64 (l.words.map BitVec.toNat)

/-- The walker's next task of a launch (R322), one in a cc: created and enqueued; it stalls while the ring is full. -/
def State.walkNext (s : State) (n : Nat) : State :=
  match s.launch? n with
  | none => s
  | some l =>
    if l.total ≤ l.seq || s.walked.contains n || (s.part l.part).hubSaw then s
    else match s.enqueue (recTq l.record) (walkerRecord l.record n l.seq l.snap) with
    | none => s
    | some s =>
      let s := s.modLaunch n fun l => { l with seq := l.seq + 1, alive := l.alive + 1 }
      { s with walked := n :: s.walked }

/-- WALKER_TASK_CREATE. -/
def execWalkerTaskCreate (n : Nat) (s : State) : Host.Outcome State Fault Refusal := .next (s.walkNext n)

/-- Checks of a record that TASKQ reads (R319, R325, R326) and its place in a queue: the queue's new state and TASKID,
a status, or none while the ring is full. -/
def State.taskRecord (s : State) (t : Task) (q d : Nat) : State × Option (Except Nat (State × Word)) :=
  match s.launch? t.launch with
  | none => (s, some (.error fLaunchFormat))
  | some l =>
    if !taskRecordOk d || 2 ^ 31 ≤ l.tqCount then (s, some (.error fLaunchFormat))
    else match s.imageCheck t.part (bitsN d 0 12) with
    | (s, .error c) => (s, some (.error c))
    | (s, .ok (x, _)) =>
      let tid : Word := BitVec.ofNat 64 (t.tid.toNat / 2 ^ 32 * 2 ^ 32 + 2 ^ 31 + l.tqCount)
      let d := setBits d 32 31 l.tqCount
      let r : TRec := { words := (elemsOf 64 8 d).map (BitVec.ofNat 64), tid := tid, launch := t.launch, snap := x, pin := none }
      match s.enqueue q r with
      | none => (s, none)
      | some s' =>
        let code := (x.img + x.codeOff, x.codeSize)
        (s, some (.ok (s'.modLaunch t.launch fun l =>
          { l with tqCount := l.tqCount + 1, alive := l.alive + 1,
                   codes := if l.codes.contains code then l.codes else l.codes ++ [code] }, tid)))

end Sys2Proof.Machine
end

