-- ==== Sys2Proof/Machine/Depend.lean ====
section
/-! DEFINITION. The dependence table (R17, R328, R329), the rename pool (R330), dispatch (R18, R19, R327, R379), the
start of a task on a context (R18, R53, R132, R133) and AUTO slot tables (R332). -/

namespace Sys2Proof.Machine

/-- The level and queue that R19 serves among candidates (level, queue). base: where the counts lie in dcount. -/
def State.choose (s : State) (base : Nat) (cands : List (Nat × Nat)) : Option (Nat × Nat) :=
  let has (l : Nat) : Bool := cands.any fun c => c.1 = l
  let due := [3, 2, 1, 0].find? fun l => has l && 15 ≤ tblGet 0 s.dcount (base + l)
  match due.orElse fun _ => [3, 2, 1, 0].find? has with
  | none => none
  | some l =>
    let mark := tblGet 63 s.dcount (base + 4 + l)
    (((List.range 64).map fun i => (mark + 1 + i) % 64).find? fun q => cands.contains (l, q)).map fun q => (l, q)

/-- Counts a dispatch, or an entry, of level l from queue q (R19). -/
def State.chosen (s : State) (base : Nat) (cands : List (Nat × Nat)) (l q : Nat) : State :=
  let d := [0, 1, 2, 3].foldl (fun (d : Tbl Nat) v =>
    if v = l then tblPut d (base + v) 0
    else if v < l && cands.any (fun c => c.1 = v) then tblPut d (base + v) (tblGet 0 d (base + v) + 1)
    else d) s.dcount
  { s with dcount := tblPut d (base + 4 + l) q }

/-- Two tiles overlap (R16): base and size code. -/
def overlap (a b : Nat × Nat) : Bool := a.1 < b.1 + 2 ^ (16 + b.2) && b.1 < a.1 + 2 ^ (16 + a.2)

/-- The range of the pool that an address lies in, 16 for none (R330). -/
def Part.rangeOf (p : Part) (a : Nat) : Nat :=
  ((List.range p.ranges.length).find? fun i =>
    let r := p.ranges.getD i (0, 0)
    r.1 ≤ a && a < r.1 + r.2).getD 16

/-- The best of the free blocks of at least 2^k bytes: the least, then the lowest (R330). -/
def bestBlk (k : Nat) : List (Nat × Nat × Nat) → Option (Nat × Nat × Nat)
  | [] => none
  | (b, l, r) :: t =>
    match bestBlk k t with
    | none => if k ≤ l then some (b, l, r) else none
    | some (b', l', r') => if k ≤ l && (l < l' || (l = l' && b < b')) then some (b, l, r) else some (b', l', r')

/-- Takes a block of 2^k bytes out of the pool, halving a larger one (R330). -/
def Part.alloc (p : Part) (k : Nat) : Option (Nat × Part) :=
  match bestBlk k p.free with
  | none => none
  | some (b, l, r) =>
    let halves := (List.range (l - k)).map fun i => (b + 2 ^ (k + i), k + i, r)
    some (b, { p with free := p.free.filter (· ≠ (b, l, r)) ++ halves })

/-- Merges a block with its free buddy, again and again (R330). -/
def mergeBlk : Nat → List (Nat × Nat × Nat) → Nat → Nat → Nat → List (Nat × Nat × Nat)
  | 0, l, b, k, r => (b, k, r) :: l
  | n + 1, l, b, k, r =>
    let bud := (b ^^^ 2 ^ k, k, r)
    if l.contains bud then mergeBlk n (l.filter (· ≠ bud)) (Nat.min b (b ^^^ 2 ^ k)) (k + 1) r else (b, k, r) :: l

/-- Returns a block of 2^k bytes to the pool. -/
def Part.give (p : Part) (b k : Nat) : Part := { p with free := mergeBlk 64 p.free b k (p.rangeOf b) }

/-- The naturally aligned blocks of a range of firmware's (R330). -/
def blocksOf : Nat → Nat → Nat → List (Nat × Nat)
  | 0, _, _ => []
  | n + 1, a, size =>
    if size < 65536 then []
    else
      let k := (([35, 34, 33, 32, 31, 30, 29, 28, 27, 26, 25, 24, 23, 22, 21, 20, 19, 18, 17].find? fun k =>
        a % 2 ^ k = 0 && 2 ^ k ≤ size).getD 16)
      (a, k) :: blocksOf n (a + 2 ^ k) (size - 2 ^ k)

/-- Whether one of n pages has a valid base leaf; the walks end at the first that has. -/
def State.tileMapped (p : Nat) : Nat → State → Nat → State × Bool
  | 0, s, _ => (s, false)
  | n + 1, s, va =>
    match s.walk p va with
    | (s, some _) => (s, true)
    | (s, none) => State.tileMapped p n s (va + 65536)

/-- Whether a leaf larger than the tile maps it (R330). -/
def State.leafTooLarge (s : State) (p tile k : Nat) : State × Bool :=
  match s.walk p tile with | (s, some (_, z, _, _)) => (s, 2 ^ (16 + k) < z) | (s, none) => (s, false)

/-- Renames that a partition holds: its overlays, and the blocks of further instances (R316, R330). -/
def State.renames (s : State) (p : Nat) : Nat :=
  (s.deps.filter (·.part = p)).foldl (fun n e => (e.insts.filter (·.no ≠ 0)).foldl (fun n i => n + i.blocks.length) n)
    (s.part p).overlays.length

/-- Makes a rename of a tile where held of them exist (R330): its block, or none for a tile with no page; no result when
it cannot be made. -/
def State.newBlock (s : State) (p held : Nat) (w : Nat × Nat) : State × Option (Option Nat) :=
  if 1024 ≤ held then (s, none)
  else match State.tileMapped p (2 ^ w.2) s w.1 with
  | (s, false) => (s, some none)
  | (s, true) =>
    match s.leafTooLarge p w.1 w.2 with
    | (s, true) => (s, none)
    | (s, false) =>
      match (s.part p).alloc (16 + w.2) with
      | none => (s, none)
      | some (b, x) => (s.modPart p fun _ => x, some (some b))

/-- Renames a tile for a task that enters (R17, R330), with its overlay. -/
def State.rename (s : State) (p : Nat) (tid : Word) (order : Nat) (w : Nat × Nat) : State × Option (Option Nat) :=
  match s.newBlock p (s.renames p) w with
  | (s, none) => (s, none)
  | (s, some b) =>
    (s.modPart p fun x => { x with overlays := x.overlays ++ [⟨w.1, 2 ^ (16 + w.2), b, tid, order, false⟩] }, some b)

/-- A record enters the dependence table (R17, R316, R328). -/
def State.enter (s : State) (p q : Nat) (r : TRec) : State :=
  let order := s.depNext
  let prev := s.deps.filter (·.part = p)
  let raw := (prev.filter fun e => e.rcd.writes.any fun w => r.reads.any (overlap w)).map (·.rcd.tid)
  let (s, ren, conf) := r.writes.foldl (fun ((s, ren, conf) : State × List (Nat × Nat × Option Nat) × List Word) w =>
      let cs := prev.filter fun e => (e.rcd.reads ++ e.rcd.writes).any (overlap w)
      if cs.isEmpty && r.cls = 0 then (s, ren, conf)
      else match s.rename p r.tid order w with
        | (s, some b) => (s, ren ++ [(w.1, w.2, b)], conf)
        | (s, none) => (s, ren, conf ++ cs.map (·.rcd.tid)))
    (s, [], raw)
  let e : Dep :=
    { rcd := r, part := p, tq := q, order := order, st := if conf.isEmpty then .ready else .waiting, conf := conf,
      ren := ren, insts := [], marks := [], nextInst := 0 }
  { s with deps := s.deps ++ [e], depNext := order + 1, entered := p :: s.entered }

/-- Queues of a partition that can give a record now: level of the head, queue (R328, R413). -/
def State.entryCands (s : State) (p : Nat) : List (Nat × Nat) :=
  (List.range 64).filterMap fun q =>
    let t := s.tq q
    match t.fifo with
    | r :: _ => if t.part = some p && !t.hold then some (r.pri, q) else none
    | [] => none

/-- TASK_ENTRY (R17, R328): the record that R19 chooses enters, when it is this queue's; one of each partition in a
cc. One cannot leave a queue after another has come in the same cc (R314). -/
def execTaskEntry (p q : Nat) (s : State) : Host.Outcome State Fault Refusal :=
  let cands := s.entryCands p
  match s.choose (16 * (p + 1)) cands, (s.tq q).fifo with
  | some (l, q'), r :: _ =>
    if q' ≠ q || (s.tq q).fed || s.entered.contains p || 2048 ≤ s.deps.length || (s.part p).run = .halted || (s.part p).run = .resetting then .next s
    else .next (((s.chosen (16 * (p + 1)) cands l q).dequeue q).enter p q r)
  | _, _ => .next s

/-- The AUTO slot table of a core (R332). -/
def Core.autoTable (c : Core) : List Nat :=
  let ws := (List.range 4).filterMap fun x => ((c.ctx x).task).map fun t => (x, t.snap.share)
  let sum := ws.foldl (fun n e => n + e.2) 0
  let ws := if sum ≤ 64 then ws else ws.map fun e => (e.1, Nat.max 1 (e.2 * 64 / sum))
  let rest := 64 - ws.foldl (fun n e => n + e.2) 0
  let all := ws ++ [(8, rest)]
  let best (cr : List (Nat × Nat × Int)) : Nat :=
    (cr.foldl (fun (m : Option (Nat × Int)) e => match m with
      | none => some (e.1, e.2.2)
      | some b => if b.2 < e.2.2 then some (e.1, e.2.2) else m) none).elim 8 Prod.fst
  ((List.range 64).foldl (fun ((cr, out) : List (Nat × Nat × Int) × List Nat) _ =>
    let cr := cr.map fun (n, w, k) => (n, w, k + w)
    let b := best cr
    (cr.map fun (n, w, k) => (n, w, if n = b then k - 64 else k), out ++ [b]))
    (all.map fun (n, w) => (n, w, 0), [])).2

/-- The hub rewrites the table of a core in AUTO mode (R332). -/
def State.autoSlots (s : State) (n : Nat) : State :=
  s.modCore n fun c => if c.fixed then c else { c with slotNext := some c.autoTable }

/-- Whether a frame of f bytes at fo overlaps no resident context's (R131). -/
def Core.frameFree (c : Core) (fo f : Nat) : Bool :=
  fo % f = 0 && fo + f ≤ 65536 &&
  (List.range 4).all fun x => match (c.ctx x).task with
    | none => true
    | some t => fo + f ≤ (c.ctx x).fo || (c.ctx x).fo + t.snap.frame ≤ fo

/-- A place where a task with a frame of f bytes can go now (R18, R131). -/
def State.fits (s : State) (p f : Nat) (pl : Place) : Bool :=
  (s.part p).dies.contains (dieOf pl.core) && (s.die (dieOf pl.core)).power &&
  !(s.die (dieOf pl.core)).halt.contains p && pl.ctx < 4 &&
  ((s.core pl.core).ctx pl.ctx).task.isNone && (s.core pl.core).frameFree pl.fo f

/-- Whether a place keeps a task's pin (R327). Dies are in ascending order. -/
def State.pinned (s : State) (p : Nat) (r : TRec) (n : Nat) : Bool :=
  match r.pin with
  | none => true
  | some (d, hasD, c, hasC) =>
    let ds := (s.part p).dies
    (!hasD || dieOf n = ds.getD (d % ds.length) 0) && (!hasC || n % 16 = c % 16)

/-- How far placement away from cores in use must fall back (R379): 0 another island, 1 another die, 2 another core. -/
def State.fallback (s : State) (p : Nat) (used : List Nat) : Nat :=
  let ds := (s.part p).dies
  let isle (d : Nat) : Nat := Config.islandOf s.form d
  if ds.any fun d => !used.any fun n => isle (dieOf n) = isle d then 0
  else if ds.any fun d => !used.any fun n => dieOf n = d then 1 else 2

/-- Whether a core is far enough from those in use (R18, R379). -/
def State.away (s : State) (p : Nat) (used : List Nat) (n : Nat) : Bool :=
  let isle (d : Nat) : Nat := Config.islandOf s.form d
  let k := s.fallback p used
  used.all fun u => if k = 0 then isle (dieOf u) ≠ isle (dieOf n) else if k = 1 then dieOf u ≠ dieOf n else u ≠ n

/-- Every place of a partition. -/
def State.places (s : State) (p f : Nat) : List Place :=
  (s.part p).dies.flatMap fun d => (List.range 16).flatMap fun c => (List.range 4).flatMap fun x =>
    (List.range (65536 / f)).map fun i => ⟨16 * d + c, x, i * f⟩

/-- Whether places are right for a ready task (R18, R327): one, or two for DUP. -/
def State.goodPlaces (s : State) (e : Dep) (l : List Place) : Bool :=
  let f := e.rcd.snap.frame
  match l with
  | [a] => e.rcd.cls ≠ 2 && s.fits e.part f a && s.pinned e.part e.rcd a.core
  | [a, b] => e.rcd.cls = 2 && s.fits e.part f a && s.pinned e.part e.rcd a.core && s.fits e.part f b &&
      s.away e.part [a.core] b.core
  | _ => false

/-- Whether a task can be placed in this cc. -/
def State.placeable (s : State) (e : Dep) : Bool :=
  let l := s.places e.part e.rcd.snap.frame
  if e.rcd.cls = 2 then l.any fun a => l.any fun b => s.goodPlaces e [a, b] else l.any fun a => s.goodPlaces e [a]

/-- A cluster at the start of a task (R18, R53, Table 4.1). -/
def Cluster.ofTask (r : TRec) (k : Clu) : Cluster :=
  { Cluster.start with
      s := [(1, r.index 0), (2, r.index 1), (3, r.index 2), (4, r.index 3), (5, r.words.getD 6 0), (6, r.words.getD 7 0)],
      pc := BitVec.ofNat 32 (r.snap.entry.getD k.num 0), run := .run, seed := r.tid, stream := BitVec.ofNat 32 k.num }

/-- A context at the start of a task (R133, R172, R285). -/
def Ctx.ofTask (t : Task) (r : TRec) (fo : Nat) : Ctx :=
  { Ctx.reset with
      task := some t, fo := fo, views := (List.range 4).map fun i => (i, r.snap.views.getD i 0),
      clus := [Clu.c, .a, .v, .m].map fun k => (k.num, Cluster.ofTask r k) }

/-- Puts a task instance on a context (R18, R132): its frame is zero. -/
def State.startTask (s : State) (e : Dep) (no : Nat) (pl : Place) : State :=
  let r := e.rcd
  let t : Task := ⟨r.tid, no, e.part, r.launch, r.cls, r.kidx, e.tq, r.snap⟩
  let f := r.snap.frame
  let s := s.modCore pl.core fun c =>
    { c with frame := c.frame.filter fun b => b.1 < pl.fo || pl.fo + f ≤ b.1,
             ctxs := tblPut c.ctxs pl.ctx (Ctx.ofTask t r pl.fo) }
  let s := s.autoSlots pl.core
  if s.traceOn e.part 1 then
    s.traceRec ⟨16 * dieOf pl.core, 0, .c⟩ 7 1 (s.die (dieOf pl.core)).dcc r.tid 0 else s

/-- Blocks of a further instance (R316, R330): the rename of each write tile is made anew as it is placed. -/
def State.moreBlocks (s : State) (e : Dep) : State × List (Nat × Nat) :=
  e.rcd.writes.foldl (fun ((s, l) : State × List (Nat × Nat)) w =>
    match s.newBlock e.part (s.renames e.part + l.length) w with
    | (s, some (some a)) => (s, l ++ [(w.1, a)])
    | (s, _) => (s, l)) (s, [])

/-- Places one more instance of a task (R18, R378): first: with the blocks of the entry. -/
def State.newInstance (s : State) (e0 : Dep) (pl : Place) : State :=
  match s.dep? e0.part e0.rcd.tid with
  | none => s
  | some e =>
    let (s, blocks) :=
      if e.nextInst = 0 then (s, e.ren.filterMap fun (b, _, x) => x.map fun a => (b, a)) else s.moreBlocks e
    let i : Inst := ⟨e.nextInst, pl.core, pl.ctx, .running, 0, [], 0, 0, blocks⟩
    let s := s.modDep e.part e.rcd.tid fun e => { e with st := .running, nextInst := e.nextInst + 1, insts := e.insts ++ [i] }
    (s.wakeCore pl.core).startTask e e.nextInst pl

/-- The Vigil stop record of a placement that fell back (R379). -/
def State.noteFallback (s : State) (e : Dep) (k n : Nat) : State :=
  if k = 0 then s
  else s.modDie (dieOf n) fun d =>
    { d with stop := { StopRec.zero with kind := 7, unit := 7, task := e.rcd.tid, trap := k, loc := d.dcc } }

/-- Ready tasks that can be placed: the first of each level and queue, in order of entry (R19). -/
def State.dispatchCands (s : State) : List Dep :=
  let l := s.deps.filter fun e => e.st = .ready && !(s.part e.part).hubSaw && s.placeable e
  l.filter fun e => !l.any fun x => x.tq = e.tq && x.rcd.pri = e.rcd.pri && x.order < e.order

/-- DISPATCH (R18, R19): the task that R19 serves goes to these places. A powered-down core is woken first (R388). -/
def execDispatch (tid : Word) (places : List Place) (s : State) : Host.Outcome State Fault Refusal :=
  let l := s.dispatchCands
  let cands := l.map fun e => (e.rcd.pri, e.tq)
  match s.choose 0 cands with
  | none => .next s
  | some (lv, q) =>
    match l.find? fun e => e.rcd.pri = lv && e.tq = q with
    | none => .next s
    | some e =>
      if e.rcd.tid ≠ tid || !s.goodPlaces e places then .next s
      else if places.any fun pl => (s.core pl.core).power = .off then
        .next (places.foldl (fun s pl => s.wakeCore pl.core) s)
      else
        let s := (s.chosen 0 cands lv q)
        let s := match places with
          | [a, b] => s.noteFallback e (s.fallback e.part [a.core]) b.core
          | _ => s
        .next (places.foldl (fun s pl => s.newInstance e pl) s)

end Sys2Proof.Machine
end

