-- ==== Sys2Proof/Machine/Retire.lean ====
section
/-! DEFINITION. How a task leaves: freeing a context (R120), the tests at task end (R180, R291), retirement (R21), the
task signature (R185), what Vigil decides (R186, R247, R353, R378, R380) and the fold of overlays (R331). -/

namespace Sys2Proof.Machine

/-- Score numbers: physical die p, and core q of it. -/
def scoreDie (p : Nat) : Nat := p
def scoreCore (p q : Nat) : Nat := 64 + 17 * p + q

/-- Vigil raises a score (R353): what one cc adds is applied at its end. -/
def State.addScore (s : State) (k by_ : Nat) : State :=
  { s with scoreNew := tblPut s.scoreNew k (tblGet 0 s.scoreNew k + by_) }

/-- Raises the scores of the die and of the core where an instance ran. -/
def State.blame (s : State) (i : Inst) (by_ : Nat) : State :=
  let p := s.physDie (dieOf i.core)
  (s.addScore (scoreDie p) by_).addScore (scoreCore p (s.physCore i.core)) by_

/-- Results of a context still in its delay lines land, in the order in which they become visible (R26). -/
def State.landAll (s : State) (k : Who) : State :=
  [Clu.c, .a, .v, .m].foldl (fun s u =>
    let k : Who := { k with clu := u }
    ((byVis (s.clu k).dl).foldl (fun s f => f.res.foldl (State.land k) s) s).modClu k fun c => { c with dl := [] }) s

/-- SIG0-3 of C and of V (R185). -/
def Ctx.sigs (x : Ctx) : List Nat :=
  [Clu.c, .v].flatMap fun u => (List.range 4).map fun n => tblGet 0 (x.clu u).sig n

/-- A freed context: the stop records of its clusters stay (R372). -/
def Ctx.left (x : Ctx) : Ctx :=
  let keep (u : Clu) : Option (Nat × Cluster) :=
    if (x.clu u).stop = StopRec.zero then none else some (u.num, { Cluster.start with stop := (x.clu u).stop })
  { Ctx.reset with clus := [Clu.c, .a, .v, .m].filterMap keep }

/-- Whether a party belongs to a context. -/
def Party.ofCtx (n x : Nat) : Party → Bool
  | .clu k => k.core = n && k.ctx = x
  | .tok c y _ _ => c = n && y = x
  | .row c y _ => c = n && y = x
  | .flag c y _ => c = n && y = x
  | .flagIn c y _ => c = n && y = x
  | .ctok c y _ => c = n && y = x
  | .fence c y _ => c = n && y = x
  | .read c y _ _ => c = n && y = x
  | _ => false

/-- What a freed context leaves behind: no landing slot, no lock bit, accesses that answer nobody (R120, R210, R291). -/
def State.freeCtx (s : State) (k : Who) : State :=
  let s := s.forget (Party.ofCtx k.core k.ctx)
  let s : State := { s with
    accs := s.accs.map fun (i, a) => (i, if s.ofCtx k a then { a with live := false } else a),
    cores := s.cores.map fun (n, c) => (n, { c with locks := c.locks.filter fun e => e.2 ≠ (k.core, k.ctx) }) }
  (s.modCore k.core fun c =>
    { c with land := c.land.filter fun e => e.2.ctx ≠ k.ctx, ctxs := tblPut c.ctxs k.ctx (c.ctx k.ctx).left }).autoSlots k.core

/-- Whether stores and engine commands of a context have drained (R21). -/
def State.drained (s : State) (k : Who) : Bool :=
  !(s.accs.any fun (_, a) => s.ofCtx k a && a.stores) && !s.cmdsOf k (fun _ => true) && !s.mxOf k

/-- Frees a context in the first cc in which it can (R120): after TAIL, once all results are visible from the next sc
on, and the matrix commands done; a task whose matrix command faulted is stopped instead (R20, R274). -/
def State.freeDue (s : State) (n x : Nat) : State :=
  let k : Who := ⟨n, x, .c⟩
  let c := s.ctxOf k
  let all (p : Cluster → Bool) : Bool := [Clu.c, .a, .v, .m].all fun u => p (c.clu u)
  match c.task with
  | none => s
  | some t =>
    if !all (fun c => (c.run = .ended || c.run = .tailed) && c.dl.all (Flight.due (c.sc + 1))) || all (fun c => c.run = .ended) || c.mxBad then s
    else if s.mxOf k || (s.accs.any fun (_, a) => s.ofCtx k a && a.loads) || c.frozen || 8 ≤ (s.core n).tracker.length then s
    else
      let s := s.landAll k
      let c := s.ctxOf k
      let e : Tracker :=
        { ctx := x, task := t, ct := c.ct, remF := c.remF, colF := c.colF, cbStat := c.cbStat, cbIdx := c.cbIdx, cbEng := c.cbEng,
          cir := c.cir, sigs := c.sigs, pc := (c.clu .c).pc, loc := (c.clu .c).sc, cseq := c.popped }
      -- its retirement releases what all of its clusters have done and acquired (R246)
      let s := k.clusters.foldl (fun s u => s.hand (.clu u) (.task t.part t.tid t.inst)) s
      (s.freeCtx k).modCore n fun c => { c with tracker := c.tracker ++ [e] }

/-- CONTEXT_FREE (R120). -/
def execContextFree (n x : Nat) (s : State) : Host.Outcome State Fault Refusal := .next (s.freeDue n x)

/-- The tests at task end, in their order (R180, R291). -/
def Ctx.endFault (x : Ctx) : Option FaultInfo :=
  let bad (l : List FElem) : Option FElem := l.find? fun e => e.stat ≠ 0
  if bitN x.cir 0 then some { code := fPoison }
  else match (List.range 32).find? fun t => (x.ctok t).stat ≠ 0 with
  | some t => some { code := (x.ctok t).stat, fidx := (x.ctok t).fidx, addr := (x.ctok t).addr, eng := (x.ctok t).eng }
  | none => match (bad x.remF).orElse fun _ => bad x.colF with
  | some e => some { code := e.stat, addr := e.addr, eng := e.eng }
  | none => if x.cbStat ≠ 0 then some { code := x.cbStat, fidx := x.cbIdx, eng := x.cbEng } else none

/-- The signature of an instance (R185). -/
def Inst.signature (i : Inst) (sigs : List Nat) : Nat := sigs.foldl sigFold i.sum

/-- Size code of a write tile. -/
def Dep.sizeOf (e : Dep) (tile : Nat) : Nat := ((e.rcd.writes.find? fun r => r.1 = tile).map Prod.snd).getD 0

/-- Blocks of an instance go back to the pool. -/
def State.giveBlocks (s : State) (e : Dep) (l : List (Nat × Nat)) : State :=
  s.modPart e.part fun p => l.foldl (fun p (b, a) => p.give a (16 + e.sizeOf b)) p

/-- Discards what an instance holds (R186, R316): contained rows and blocks. -/
def State.discard (s : State) (e : Dep) (i : Inst) : State :=
  (s.giveBlocks e i.blocks).modDep e.part e.rcd.tid fun e =>
    { e with insts := e.insts.map fun x => if x.no = i.no then { x with rows := [], blocks := [] } else x }

/-- Blocks that the entry took for an instance not placed yet. -/
def Dep.unplaced (e : Dep) : List (Nat × Nat) :=
  if e.nextInst = 0 then e.ren.filterMap fun (b, _, x) => x.map fun a => (b, a) else []

/-- Drops the overlays of a task that does not commit (R331). -/
def State.dropOverlays (s : State) (p : Nat) (tid : Word) : State :=
  s.modPart p fun x => { x with overlays := x.overlays.filter fun o => o.owner ≠ tid || o.committed }

/-- A rename commits to the block of one instance (R17, R331); that of a tile for which the instance has none is
removed. -/
def Overlay.commit (o : Overlay) (blocks : List (Nat × Nat)) : Option Overlay :=
  (blocks.find? fun b => b.1 = o.tile).map fun b => { o with block := some b.2, committed := true }

/-- The renames of a task commit; that of a tile which only this instance has renamed gets its overlay now (R316). -/
def State.commit (s : State) (e : Dep) (blocks : List (Nat × Nat)) : State :=
  let mine (o : Overlay) : Bool := o.owner = e.rcd.tid && !o.committed
  let f (o : Overlay) : Option Overlay := if mine o then o.commit blocks else some o
  s.modPart e.part fun x =>
    let own := x.overlays.filter mine
    let new := (blocks.filter fun b => !own.any fun o => o.tile = b.1).map fun (b, a) =>
      (⟨b, 2 ^ (16 + e.sizeOf b), some a, e.rcd.tid, e.order, true⟩ : Overlay)
    { x with overlays := x.overlays.filterMap f ++ new }

/-- A task leaves the table (R328, R329): tasks that waited for it may become ready. -/
def State.leave (s : State) (p : Nat) (tid : Word) : State :=
  let free (e : Dep) : Dep :=
    let c := e.conf.filter (· ≠ tid)
    if e.part = p then { e with conf := c, st := if e.st = .waiting && c.isEmpty then .ready else e.st } else e
  { s with deps := (s.deps.filter fun e => !(e.part = p && e.rcd.tid = tid)).map free }

/-- A task has retired, or ended without agreement: its launch counts it (R324, R380). -/
def State.taskDone (s : State) (e : Dep) : State :=
  (s.leave e.part e.rcd.tid).modLaunch e.rcd.launch fun l => { l with alive := l.alive - 1 }

/-- Whether an instance no longer stands on its context. -/
def State.gone (s : State) (e : Dep) (i : Inst) : Bool :=
  match ((s.core i.core).ctx i.ctx).task with
  | some t => !(t.part = e.part && t.tid = e.rcd.tid && t.inst = i.no)
  | none => true

/-- RUNNING to DECIDING (R329, R378). -/
def State.settle (s : State) (p : Nat) (tid : Word) : State :=
  match s.dep? p tid with
  | none => s
  | some e =>
    if e.st = .running && e.rcd.cls ≠ 0 && e.insts.all (fun i => i.st = .retired || (i.st = .failed && s.gone e i)) then
      s.modDep p tid fun e => { e with st := .deciding }
    else s

/-- An instance retires (R21): in class NONE its task leaves; otherwise Vigil has it, after those that retired before.
-/
def State.retireInst (s : State) (t : Task) (sigs : List Nat) : State :=
  match s.dep? t.part t.tid with
  | none => s
  | some e =>
    let s := if s.traceOn t.part 2 then
        let d := ((e.insts.find? fun i => i.no = t.inst).map fun i => dieOf i.core).getD 0
        s.traceRec ⟨16 * d, 0, .c⟩ 7 2 (s.die d).dcc t.tid 0 else s
    if t.cls = 0 then
      (s.commit e ((e.insts.find? fun i => i.no = t.inst).elim [] fun i => i.blocks)).taskDone e
    else
      let s := s.modDep t.part t.tid fun e =>
        { e with insts := e.insts.filter (fun i => i.no ≠ t.inst) ++
            ((e.insts.filter fun i => i.no = t.inst).map fun i => { i with st := .retired, sigv := i.signature sigs }) }
      s.settle t.part t.tid

/-- The tests and the retirement of a task whose state is x (R21, R180, R291). free: how its context, or its tracker
entry, goes. -/
def State.retireWith (s : State) (k : Who) (t : Task) (x : Ctx) (sigs : List Nat) (fault : FaultInfo → State)
    (free : State → State) : State :=
  match x.endFault with
  | some f => fault f
  | none => (free (s.closeRows k.core)).retireInst t sigs

/-- Whether a task's retirement waits for the end of a cc in which another of its partition has entered the table: in
one cc a retirement comes first (R328). -/
def State.lateIn (s : State) (p : Nat) : Bool := s.entered.contains p

/-- Whether a tracker entry has drained (R21), and nothing that happens before its task's retirement is still to be
performed (R246). -/
def State.trackerDrained (s : State) (n : Nat) (e : Tracker) : Bool :=
  let c := s.core n
  let mine (m : EnCmd) : Bool := m.ctx = e.ctx && m.task.same e.task
  !(s.accs.any fun (_, a) => a.who.core = n && a.who.ctx = e.ctx && a.task.same e.task && a.stores) &&
  (s.pastStores (.task e.task.part e.task.tid e.task.inst)).isEmpty &&
  !(c.cpq.any mine || c.rmq.any mine || c.coq.any mine || (c.coRun.any fun r => mine r.cmd) ||
    (c.cpRun.any fun (_, r) => mine r.cmd) || (c.rmRun.any fun r => !r.ended && mine r.cmd))

/-- TASK_RETIREMENT (R20, R21): of the context, when every cluster ended by END and no matrix command faulted, or of
its oldest drained tracker entry. Its release waits for what happens before it (R246). -/
def execTaskRetirement (n x : Nat) (s : State) : Host.Outcome State Fault Refusal :=
  let k : Who := ⟨n, x, .c⟩
  let c := s.ctxOf k
  let halted (t : Task) : Bool := (s.die (dieOf n)).halt.contains t.part || (t.cls = 0 && s.lateIn t.part)
  let byEnd : Option Task :=
    match c.task with
    | some t =>
      if [Clu.c, .a, .v, .m].all (fun u => (c.clu u).run = .ended) && !c.mxBad && !c.frozen && !halted t && s.drained k && s.pastDone k then
        some t else none
    | none => none
  match byEnd with
  | some t =>
    let s := s.landAll k
    .next (s.retireWith k t (s.ctxOf k) (s.ctxOf k).sigs (fun f => s.faultTask k f) fun s => s.freeCtx k)
  | none =>
    match (s.core n).tracker.find? fun e => e.ctx = x && !halted e.task && s.trackerDrained n e with
    | none => .next s
    | some e =>
      .next (s.retireWith k e.task e.asCtx e.sigs (fun f => s.faultGone k e.task f) fun s =>
        s.modCore n fun c => { c with tracker := c.tracker.filter fun y => !(y.ctx = x && y.task.same e.task) })

/-- Whether a row of the device has an access in flight to it. -/
def State.rowBusy (s : State) (sa : Nat) : Bool :=
  saDev sa = s.devId && s.accs.any fun (_, a) => (a.stores || a.reads) && a.place = sa / 64

/-- Vigil writes the contained rows of an instance to memory (R247, R316), and has them no longer: a row after the
accesses to it that are in flight (R238, R249). Rows of other devices go out as packets. -/
def State.releaseRows (s : State) (e : Dep) (i : Inst) : State :=
  let t := e.task i
  let busy := i.rows.filter fun r => s.rowBusy r.sa
  let s := (i.rows.filter fun r => !s.rowBusy r.sa).foldl (fun s r =>
    if saDev r.sa = s.devId then (s.sysWrite r.sa r.mask r.data r.poison t.tag).wipeCell (r.sa / 64) r.mask
    else s.addAcc { who := ⟨i.core, i.ctx, .c⟩, va := r.va, sa := r.sa, kind := .peerPut none r.mask r.data r.poison, passed := true,
                    task := t, sig := 0, live := false, sent := false }) s
  s.modInst t fun i => { i with rows := busy }

/-- Whether a release is not complete: rows of an instance are still to be written, or are on their way to other
devices. -/
def State.releasing (s : State) (e : Dep) (i : Inst) : Bool :=
  (match s.inst? (e.task i) with | some x => !x.rows.isEmpty | none => false) ||
  s.accs.any fun (_, a) => a.task.part = e.part && a.task.tid = e.rcd.tid && a.stores

/-- Releases one instance, whose rows have been written, and ends the task (R186, R247): the release closes the rows of
its core (R253), and the others' blocks and rows go. -/
def State.vigilRelease (s : State) (e : Dep) (i : Inst) : State :=
  let s := s.closeRows i.core
  let s := (e.insts.filter fun x => x.no ≠ i.no).foldl (fun s x => s.discard e x) s
  (s.commit e i.blocks).taskDone e

/-- Ends the task without agreement (R186, R380). -/
def State.vigilUnresolved (s : State) (e : Dep) : State :=
  let s := (e.insts.foldl (fun s x => s.discard e x) s).dropOverlays e.part e.rcd.tid
  (s.modLaunch e.rcd.launch fun l => { l with unresolved := true }).taskDone e

/-- What Vigil finds in a task that is DECIDING (Table 6.4). -/
inductive Decision where
  /-- release this instance, and raise the scores of those by so much -/
  | release (i : Inst) (blame : List Inst) (by_ : Nat)
  | again
  | unresolved
  deriving DecidableEq, Repr

/-- The first instance to retire that another one agrees with (R186). -/
def majority (l : List Inst) : Option Inst :=
  l.find? fun i => l.any fun j => j.no ≠ i.no && j.sigv = i.sigv

def Dep.decision (e : Dep) : Decision :=
  let ok := e.insts.filter fun i => i.st = .retired
  if e.rcd.cls = 1 then
    match ok with
    | i :: _ => .release i (e.insts.filter fun x => x.st = .failed) 4
    | [] => if e.nextInst < 2 then .again else .unresolved
  else
    match majority ok with
    | some i =>
      .release i (if e.nextInst < 3 then [] else e.insts.filter fun x => !(x.st = .retired && x.sigv = i.sigv)) 8
    | none => if e.nextInst < 3 then .again else .unresolved

/-- Whether Vigil can decide a task now: its partition runs, and a place offered for one more instance is one of the
partition's (R12, R378). -/
def State.decides (s : State) (place : Option Place) (e : Dep) : Bool :=
  e.st = .deciding && (s.part e.part).run = .running &&
  (match e.decision with
   | .again => (match place with | some pl => (s.part e.part).dies.contains (dieOf pl.core) | none => false)
   | _ => true)

/-- VIGIL_DECISION (R186, R378, R379): a release, a discard for good, or one more instance at a place. Of several
partitions' tasks of one TASKID, one that can be decided (R12). -/
def execVigilDecision (tid : Word) (place : Option Place) (s : State) : Host.Outcome State Fault Refusal :=
  match s.deps.find? fun e => e.rcd.tid = tid && s.decides place e with
  | none => .next s
  | some e =>
    match e.decision with
    | .release i l n =>
      let s := s.releaseRows e i
      if s.releasing e i || s.lateIn e.part then .next s
      else .next (l.foldl (fun s x => s.blame x n) (s.vigilRelease e i))
    | .unresolved => if s.lateIn e.part then .next s else .next (s.vigilUnresolved e)
    | .again =>
      match place with
      | none => .next s
      | some pl =>
        let used := e.insts.map fun i => i.core
        if !s.fits e.part e.rcd.snap.frame pl || !s.away e.part used pl.core then .next s
        else if (s.core pl.core).power = .off then .next (s.wakeCore pl.core)
        else
          let s := (e.insts.filter fun i => i.st = .failed).foldl (fun s i => s.discard e i) s
          .next ((s.noteFallback e (s.fallback e.part used) pl.core).newInstance e pl)

/-- Takes TLB entries out, and what failed walks have left behind (R335). -/
def State.tlbDrop (s : State) (bad : TlbE → Bool) : State :=
  { s with cores := s.cores.map fun (n, c) => (n,
             { c with tlb := c.tlb.filter fun e => !bad e,
                      walkBad := c.walkBad.filter fun (p, v) => !bad ⟨p, 65536 * v, 65536, 0, false⟩ }),
           dies := s.dies.map fun (n, d) => (n, { d with tlb := d.tlb.filter fun e => !bad e }) }

/-- Rewrites the leaf at an entry address to a page, keeping V, L and W (R331, R338). -/
def State.setLeaf (s : State) (ea sa : Nat) : State :=
  let (s, e, _) := s.sysReadN ea 8 0
  s.sysWriteN ea 8 (sa / 2 ^ 16 * 2 ^ 16 + e % 8) 0

/-- One page of a folded tile (R331): its former page joins the pool. -/
def State.foldPage (p : Nat) (o : Overlay) (blk : Nat) (s : State) (i : Nat) : State :=
  let va := o.tile + 65536 * i
  match s.walkLeaf p va with
  | (s, none) => s.modPart p fun x => x.give (blk + 65536 * i) 16
  | (s, some (ea, b, z, sa, _)) =>
    if b ≠ va then s
    else
      (s.setLeaf ea (blk + 65536 * i)).modPart p fun x => x.give sa (Nat.log2 z)

/-- Whether an overlay may be folded: it has committed, no task that entered before its writer is left, and no older
overlay covers its pages (R331). -/
def State.foldable (s : State) (p : Nat) (o : Overlay) : Bool :=
  o.committed && !(s.deps.any fun e => e.part = p && e.order < o.order) &&
  !((s.part p).overlays.any fun x => x.order < o.order && x.tile < o.tile + o.size && o.tile < x.tile + x.size)

/-- OVERLAY_FOLD (R331). -/
def execOverlayFold (p i : Nat) (s : State) : Host.Outcome State Fault Refusal :=
  match (s.part p).overlays[i]? with
  | none => .next s
  | some o =>
    if !s.foldable p o then .next s
    else
      let s := match o.block with
        | none => s
        | some b =>
          ((List.range (o.size / 65536)).foldl (State.foldPage p o b) s).tlbDrop fun e =>
            e.part = p && e.va < o.tile + o.size && o.tile < e.va + e.size
      .next (s.modPart p fun x => { x with overlays := x.overlays.filter (· ≠ o) })

end Sys2Proof.Machine
end

