-- ==== Sys2Proof/Machine/Launching.lean ====
section
/-! DEFINITION. Host launch queues and completion rings (R376, R377), the acceptance of launch records (R321, R368,
R405) and the completion of launches (R324, R339, R380). -/

namespace Sys2Proof.Machine

/-- n rows at system addresses, as a number. -/
def sysRows : Nat → State → Nat → State × Nat
  | 0, s, _ => (s, 0)
  | n + 1, s, sa =>
    let (s, d, _) := s.sysRead sa 0
    let (s, r) := sysRows n s (sa + 64)
    (s, d + r <<< 512)

/-- n bytes at a system address. -/
def State.sysBlock (s : State) (sa n : Nat) : State × Nat :=
  let (s, d) := sysRows ((sa % 64 + n + 63) / 64) s (sa / 64 * 64)
  (s, (d >>> (8 * (sa % 64))) % 2 ^ (8 * n))

def Part.lq (p : Part) (q : Nat) : LaunchQ := tblGet LaunchQ.reset p.lqs q
def State.modLq (s : State) (p q : Nat) (f : LaunchQ → LaunchQ) : State :=
  s.modPart p fun x => { x with lqs := tblPut x.lqs q (f (x.lq q)) }

/-- Writes the next entry of a completion ring and raises its vector (R377, R399). -/
def State.putCompletion (s : State) (p q ltag status off : Nat) : State :=
  let l := (s.part p).lq q
  let phase := if l.ct / l.cs % 2 = 0 then 1 else 0
  let a := l.cbase + 16 * (l.ct % l.cs)
  let s := s.sysWriteN a 16 (ltag + status * 2 ^ 32 + phase * 2 ^ 38 + off * 2 ^ 64) 0
  (s.modLq p q fun l => { l with ct := (l.ct + 1) % 2 ^ 32 }).interrupt (16 + 16 * p + q)

/-- LAUNCH_QUEUE_DOORBELL (R376). -/
def execLaunchQueueDoorbell (p q tail : Nat) (s : State) : Host.Outcome State Fault Refusal :=
  .next (s.modLq p q fun l => { l with t := tail })

/-- LAUNCH_QUEUE_HEAD_WRITE (R376): the queue runs again. -/
def execLaunchQueueHeadWrite (p q head : Nat) (s : State) : Host.Outcome State Fault Refusal :=
  .next (s.modLq p q fun l => { l with h := head, stopped := false })

/-- COMPLETION_HEAD_WRITE (R377): a CH past CT is ignored and counted. -/
def execCompletionHeadWrite (p q ch : Nat) (s : State) : Host.Outcome State Fault Refusal :=
  let l := (s.part p).lq q
  if 2 ^ 31 ≤ (l.ct + 2 ^ 32 - ch % 2 ^ 32) % 2 ^ 32 then .next (s.errEvent ⟨0x740, 0, none, 64, 0, 0⟩)
  else .next (s.modLq p q fun l => { l with ch := ch % 2 ^ 32 })

/-- Whether a record is present at H (R376). -/
def LaunchQ.present (l : LaunchQ) : Bool := !l.stopped && l.sz ≠ 0 && 128 ≤ (l.t + l.sz - l.h % l.sz) % l.sz

/-- Whether a completion slot can be reserved (R377). -/
def LaunchQ.slotFree (l : LaunchQ) : Bool := (l.ct + 2 ^ 32 - l.ch) % 2 ^ 32 + l.reserved < l.cs

/-- LAUNCH_ACCEPTANCE (R321, R376, R377): the record at H. -/
def execLaunchAcceptance (p q : Nat) (s : State) : Host.Outcome State Fault Refusal :=
  let l := (s.part p).lq q
  if !l.present || (s.part p).hubSaw then .next s
  else if l.sz < l.h + 128 then .next ((s.modLq p q fun l => { l with stopped := true }).manageInt (.stopped p q))
  else if !l.slotFree then .next s
  else
    let (s, r) := s.sysBlock (l.base + l.h) 128
    let step (s : State) : State := s.modLq p q fun l => { l with h := (l.h + 128) % l.sz }
    match s.judge p r true with
    | (_, .wait) => .next s
    | (s, .reject c) => .next ((step s).putCompletion p q (recLtag r) c l.h)
    | (s, .accept x al) =>
      .next ((step (s.addLaunch p r (some (q, l.h)) x al)).modLq p q fun l => { l with reserved := l.reserved + 1 })

/-- Whether every fold of a launch's renames has completed (R331): its tasks' identifiers begin with its LTAG. -/
def State.folded (s : State) (l : Launch) : Bool :=
  !((s.part l.part).overlays.any fun o => o.owner.toNat / 2 ^ 32 = recLtag l.record)

/-- Ends a launch: a completion entry if it is a host launch to be reported, else its slot is released (R324, R377). -/
def State.endLaunch (s : State) (n : Nat) (l : Launch) (status : Nat) (report : Bool) : State :=
  let s : State := { s with launches := tblErase s.launches n, pins := s.pins.filter fun e => e.1 ≠ n }
  match l.lq with
  | none => s
  | some (q, off) =>
    let s := s.modLq l.part q fun l => { l with reserved := l.reserved - 1 }
    if report then s.putCompletion l.part q (recLtag l.record) status off else s

/-- LAUNCH_COMPLETION (R248, R324, R331, R339, R380). -/
def execLaunchCompletion (n : Nat) (s : State) : Host.Outcome State Fault Refusal :=
  match s.launch? n with
  | none => .next s
  | some l =>
    if l.seq < l.total || 0 < l.alive || !l.released || !s.folded l || (s.part l.part).run ≠ .running ||
        (s.accs.any fun (_, a) => a.task.launch = n && a.stores) then .next s
    else .next (s.endLaunch n l (if l.unresolved then fUnresolved else 0) (bitN (recCtl l.record) 28))

/-- Whether an entry's action is under way. -/
def AEnt.inFlight (e : AEnt) : Bool := match e.st with | .fired _ => true | .started .. => true | _ => false

/-- ALMANAC_RELEASE (R339): after the last task, once the actions in flight have finished. -/
def execAlmanacRelease (n : Nat) (s : State) : Host.Outcome State Fault Refusal :=
  match s.launch? n with
  | none => .next s
  | some l =>
    if l.seq < l.total || 0 < l.alive || l.alm.any AEnt.inFlight then .next s
    else
      let s : State := { s with pins := s.pins.filter fun e => e.1 ≠ n }
      .next (s.modLaunch n fun l => { l with alm := [], released := true })

end Sys2Proof.Machine
end

