-- ==== Sys2Proof/Machine/Almanac.lean ====
section
/-! DEFINITION. The tier engine (R337, R338, R411): the order of almanac actions, their checks, moves of tiles with the
rewriting of their leaves, copies that shape records describe, pins. -/

namespace Sys2Proof.Machine

/-- Level of memory that a code of Table 11.12 names, as a system address has it (Table 7.2). -/
def lvOf (c : Nat) : Nat := if c = 0 then 1 else if c = 1 then 0 else 2

/-- Sets the status of an entry. -/
def State.setEnt (s : State) (n i : Nat) (st : AStat) : State :=
  s.modLaunch n fun l => { l with alm := l.alm.zipIdx.map fun (e, j) => if j = i then { e with st := st } else e }

/-- An entry that fails makes a fault-log entry and performs nothing more (R338, R348). -/
def State.failEnt (s : State) (n i : Nat) : State := (s.setEnt n i .failed).errEvent ⟨0x780, 0, some 9, 64, 0, 0⟩

/-- Tile of an entry: base and size code. -/
def AEnt.tile (e : AEnt) : Nat × Nat := (tileBase e.object, bitsN e.object.toNat 41 5)

/-- Whether an overlay of the launch's partition covers a tile still (R338). -/
def State.overlaid (s : State) (p : Nat) (t : Nat × Nat) : Bool :=
  (s.part p).overlays.any fun o => o.tile < t.1 + 2 ^ (16 + t.2) && t.1 < o.tile + o.size

/-- Number under which an entry fired. -/
def AEnt.fireNo (e : AEnt) : Option Nat := match e.st with | .fired n => some n | _ => none

/-- Whether an action of a launch of partition p on an object has to come before one that fired as the n-th: it has
fired before and not finished (R337). -/
def State.objBusy (s : State) (p : Nat) (o : Word) (n : Nat) : Bool :=
  s.launches.any fun (_, k) => k.part = p && k.alm.any fun x =>
    x.object = o && match x.st with | .fired m => m < n | .started .. => true | _ => false

/-- Whether a fired entry must still wait (R337, R338): for an overlay on its tile, or for an earlier action on its
object. -/
def State.entBlocked (s : State) (l : Launch) (e : AEnt) (n : Nat) : Bool :=
  (!e.shape && s.overlaid l.part e.tile) || s.objBusy l.part e.object n

/-- Whether a fired entry may start: no entry of its launch that fired before it could (R337). -/
def State.entMayStart (s : State) (l : Launch) (e : AEnt) (n : Nat) : Bool :=
  !s.entBlocked l e n &&
  l.alm.all fun x => match x.fireNo with | some m => n ≤ m || s.entBlocked l x m | none => true

/-- Whether n pages from va are mapped, by leaves no larger than a tile of size code k, at a level of this device
(R338). -/
def State.pagesAt (p k lv : Nat) : Nat → State → Nat → State × Bool
  | 0, s, _ => (s, true)
  | n + 1, s, va =>
    match s.walk p va with
    | (s, some (_, z, sa, _)) =>
      if z ≤ 2 ^ (16 + k) && saLevel sa = lv && saDev sa = s.devId then State.pagesAt p k lv n s (va + 65536) else (s, false)
    | (s, none) => (s, false)

/-- Whether every page of a tile is. -/
def State.tileAt (s : State) (p : Nat) (t : Nat × Nat) (lv : Nat) : State × Bool := State.pagesAt p t.2 lv (2 ^ t.2) s t.1

/-- Whether a destination block suits a tile (R338). -/
def State.blockOk (s : State) (d : Nat) (k lv : Nat) : Bool :=
  d % 2 ^ (16 + k) = 0 && saLevel d = lv && saDev d = s.devId && s.saOk d (2 ^ (16 + k))

/-- Accesses in flight to a page, and rows contained of it, go to its new place from the switch on (R338). -/
def State.redirect (s : State) (old size new : Nat) : State :=
  let moved (a : Nat) : Nat := if old ≤ a && a < old + size then new + (a - old) else a
  { s with accs := s.accs.map fun (i, a) => (i, { a with sa := moved a.sa }),
           known := s.known.map fun (i, p) => (i, match p with | .cell x m r c => .cell (moved (64 * x) / 64) m r c | _ => p),
           deps := s.deps.map fun e => { e with insts := e.insts.map fun i =>
             { i with rows := i.rows.map fun r => { r with sa := moved r.sa } } } }

/-- Copies rows of a page. -/
def copyPage : Nat → State → Nat → Nat → State
  | 0, s, _, _ => s
  | n + 1, s, a, b =>
    let (s, d, p) := s.sysRead a 0
    copyPage n (s.sysWrite b fullMask d p 0) (a + 64) (b + 64)

/-- One page of a moved, or remapped, tile (R338). -/
def State.movePage (p : Nat) (t : Nat × Nat) (dst : Nat) (copy : Bool) (s : State) (i : Nat) : State :=
  let va := t.1 + 65536 * i
  match s.walkLeaf p va with
  | (s, none) => s
  | (s, some (ea, b, z, sa, _)) =>
    if b ≠ va then s
    else
      let new := dst + 65536 * i
      let s := if copy then copyPage (z / 64) s sa new else s
      (s.setLeaf ea new).redirect sa z new

/-- Moves a tile to a block, or only remaps it (R338). -/
def State.moveTile (s : State) (p : Nat) (t : Nat × Nat) (dst : Nat) (copy : Bool) : State :=
  ((List.range (2 ^ t.2)).foldl (State.movePage p t dst copy) s).tlbDrop fun e =>
    e.part = p && e.va < t.1 + 2 ^ (16 + t.2) && t.1 < e.va + e.size

/-- Where the tier engine finds a virtual address of a partition: system address and W. -/
def State.tierAddr (s : State) (p va : Nat) : State × Option (Nat × Bool) :=
  match s.walk p va with
  | (s, none) => (s, none)
  | (s, some (b, _, sa, w)) => (s, some ((s.hubOverlay p va).getD (sa + (va - b)), w))

/-- Whether a side of an element lies at a level of this device. -/
def State.bitAt (s : State) (p : Nat) (bit : Int) (lv : Nat) : State × Bool :=
  if bit < 0 || 2 ^ 60 ≤ bit then (s, false)
  else match s.tierAddr p (bit / 8).toNat with
    | (s, some (sa, _)) => (s, saLevel sa = lv && saDev sa = s.devId)
    | (s, none) => (s, false)

/-- Whether both sides of n elements from element i lie at the levels that an entry names. -/
def State.sidesAt (p : Nat) (h : Shape) (e : AEnt) : Nat → State → Nat → State × Bool
  | 0, s, _ => (s, true)
  | n + 1, s, i =>
    match s.bitAt p (h.srcBit i) (lvOf e.lvFrom) with
    | (s, false) => (s, false)
    | (s, true) =>
      match s.bitAt p (h.dstBit i) (lvOf e.lvTo) with
      | (s, false) => (s, false)
      | (s, true) => State.sidesAt p h e n s (i + 1)

/-- The record of a shape entry, read when it fired, if the checks before a start pass (R338). -/
def State.tierShape (s : State) (l : Launch) (e : AEnt) : State × Option Shape :=
  match e.read.bind fun d => parseShape d false 0 with
  | none => (s, none)
  | some h =>
    if h.sspace ≠ 0 || h.dspace ≠ 0 then (s, none)
    else match State.sidesAt l.part h e h.count s 0 with
    | (s, true) => (s, some h)
    | (s, false) => (s, none)

/-- A row group of the tier engine's copy: the next element, and the bits, data and poison marks gathered. -/
structure TierG where
  s : State
  n : Nat
  mask : Nat
  data : Nat
  pois : Nat

/-- Gathers the elements of one destination row (R298); an element that fails leaves the state behind its reads. A DYN
code is RNE (R297). -/
def tierGather (p : Nat) (h : Shape) (row : Int) : Nat → TierG → Except State TierG
  | 0, g => .ok g
  | fuel + 1, g =>
    let w := cpWidth h.sfmt
    let v := cpWidth h.dfmt
    let db := h.dstBit g.n
    let sb := h.srcBit g.n
    if db / 512 ≠ row then .ok g
    else match g.s.tierAddr p (sb / 8).toNat with
    | (s, none) => .error s
    | (s, some (sa, _)) =>
      let (s, d, ps) := s.sysRead sa 0
      let bytes := (List.range (Nat.max 1 (w / 8))).map fun k => ((sb / 8).toNat + k) % 64
      let (x, bad) := pickElem d ps bytes sb.toNat w
      let y := (convOne h 3 x).1 % 2 ^ v
      let at_ := (db % 512).toNat
      let marks := (List.range (Nat.max 1 (v / 8))).foldl (fun m k => if h.taints bad k then m ||| 2 ^ ((at_ / 8 + k) / 4) else m) 0
      tierGather p h row fuel
        ⟨s, g.n + 1, g.mask ||| ((2 ^ v - 1) <<< at_), setBits g.data at_ v y, g.pois ||| marks⟩

/-- Writes one row group: the state, and the next element; none where it fails. -/
def State.tierGroup (s : State) (l : Launch) (h : Shape) (next : Nat) : State × Option Nat :=
  let row := h.dstBit next / 512
  let va := 64 * row.toNat
  match tierGather l.part h row (h.count - next) ⟨s, next, 0, 0, 0⟩ with
  | .error s => (s, none)
  | .ok g =>
    match g.s.tierAddr l.part va with
    | (s, none) => (s, none)
    | (s, some (sa, w)) =>
      if !w || l.inCode va 64 then (s, none)
      else
        let (s, old, kept) := if byteMask g.mask = touchMask g.mask then (s, 0, 0) else s.sysRead sa 0
        let data := (old &&& (2 ^ 512 - 1 - g.mask)) ||| (g.data &&& g.mask)
        ((s.sysWrite sa (touchMask g.mask) data (g.pois ||| (kept &&& partWords g.mask)) 0).wipeCell (sa / 64) (touchMask g.mask), some g.n)

/-- Whether an object of a partition is pinned (R338). -/
def State.isPinned (s : State) (p : Nat) (o : Word) : Bool :=
  s.pins.any fun (n, w) => w = o && (match s.launch? n with | some l => l.part = p | none => false)

/-- A step of an entry with this action: its start, with its checks, or the next row group of a copy (R338). act: what
the action does to a tile; moves: whether it copies a shape record's elements. DESIGN CHOICE (log 85): an action that
uses no destination block, a PIN or a DROP at one level, does not check it. -/
def State.tierStep (s : State) (n i action : Nat) (act : State → Launch → AEnt → State) (moves : State → Launch → AEnt → Bool) : State :=
  match s.launch? n with
  | none => s
  | some l =>
    match l.alm[i]? with
    | none => s
    | some e =>
      if e.action ≠ action then s
      else match e.st with
      | .fired k =>
        if !s.entMayStart l e k then s
        else if e.shape then
          match s.tierShape l e with
          | (s, none) => s.failEnt n i
          | (s, some h) => if moves s l e then s.setEnt n i (.started (some h) 0) else (act s l e).setEnt n i (.started none 0)
        else
          let (s, ok) := s.tileAt l.part e.tile (lvOf e.lvFrom)
          if !ok || ((action < 2 || (action = 3 && e.lvTo ≠ e.lvFrom)) && !s.blockOk e.dest.toNat e.tile.2 (lvOf e.lvTo)) then
            s.failEnt n i
          else (act s l e).setEnt n i (.started none 0)
      | .started (some h) next =>
        if h.count ≤ next then s
        else match s.tierGroup l h next with
        | (s, none) => s.failEnt n i
        | (s, some m) => s.setEnt n i (.started (some h) m)
      | _ => s

/-- FETCH (R338). -/
def execFetch (n i : Nat) (s : State) : Host.Outcome State Fault Refusal :=
  .next (s.tierStep n i 0 (fun s l e => s.moveTile l.part e.tile e.dest.toNat true) fun _ _ _ => true)
/-- EVICT: a pinned object stays (R338). -/
def execEvict (n i : Nat) (s : State) : Host.Outcome State Fault Refusal :=
  .next (s.tierStep n i 1
    (fun s l e => if e.shape || s.isPinned l.part e.object then s else s.moveTile l.part e.tile e.dest.toNat true)
    fun s l e => !s.isPinned l.part e.object)
/-- PIN (R338). -/
def execPin (n i : Nat) (s : State) : Host.Outcome State Fault Refusal :=
  .next (s.tierStep n i 2 (fun s _ e => { s with pins := (n, e.object) :: s.pins }) fun _ _ _ => false)
/-- DROP: unpins, and remaps a tile that changes level without copying (R338). -/
def execDrop (n i : Nat) (s : State) : Host.Outcome State Fault Refusal :=
  .next (s.tierStep n i 3
    (fun s l e =>
      let mine (m : Nat) : Bool := match s.launch? m with | some k => k.part = l.part | none => false
      let s : State := { s with pins := s.pins.filter fun (m, w) => !(w = e.object && mine m) }
      if e.shape || e.lvTo = e.lvFrom then s else s.moveTile l.part e.tile e.dest.toNat false)
    fun _ _ _ => false)

/-- ALMANAC_ACTION_FINISH (R411): its writes have been performed; a FETCH is resident. -/
def execAlmanacActionFinish (n i : Nat) (s : State) : Host.Outcome State Fault Refusal :=
  match (s.launch? n).bind fun l => l.alm[i]? with
  | none => .next s
  | some e =>
    match e.st with
    | .started none _ => .next (s.setEnt n i .done)
    | .started (some h) next => if h.count ≤ next then .next (s.setEnt n i .done) else .next s
    | _ => .next s

end Sys2Proof.Machine
end

