-- ==== Sys2Proof/Machine/Fabric.lean ====
section
/-! DEFINITION. The Etteoc fabric (R303 to R306, R400, R418, R419): sending and numbering packets, the destination's
sequence windows, acknowledgements, routes and lanes; and the completion of remote commands (R290, R311, R420). -/

namespace Sys2Proof.Machine

def State.port (s : State) (p : Nat) : Port := tblGet Port.reset s.ports p
def State.modPort (s : State) (p : Nat) (f : Port → Port) : State := { s with ports := tblPut s.ports p (f (s.port p)) }

/-- Flits of a packet (R303): one for the request, and one for each 256 bytes of payload. -/
def opFlits : PacketOp → Nat
  | .write _ l => 1 + ceilDiv l.length 256
  | .put .. => 2
  | .coll c => 1 + ceilDiv c.bytes.length 256
  | _ => 1

/-- The lowest route in service to a device (R305). -/
def State.routeTo (s : State) (dst : Nat) : Option (Nat × Route) := s.routes.find? fun (_, r) => r.up && r.dst = dst

/-- Changes the remote run at a place of a core's list. -/
def State.modRm (s : State) (n i : Nat) (f : RmRun → RmRun) : State :=
  s.modCore n fun c => { c with rmRun := c.rmRun.zipIdx.map fun (r, j) => if j = i then f r else r }

/-- Parts of rows that len bytes from a cover: address, length. -/
def rowParts : Nat → Nat → Nat → List (Nat × Nat)
  | 0, _, _ => []
  | n + 1, a, len =>
    if len = 0 then []
    else
      let k := Nat.min len (64 - a % 64)
      (a, k) :: rowParts n (a + k) (len - k)

/-- The parts of rows of a range. -/
def partsOf (a len : Nat) : List (Nat × Nat) := rowParts (len / 64 + 2) a len

/-- Bytes of the packets of a transfer (R303, log 32): at most 1,024 each, cut where the other side's rows end. -/
def packetCuts : Nat → Nat → Nat → List (Nat × Nat)
  | 0, _, _ => []
  | n + 1, b, len =>
    if len = 0 then []
    else
      let k := Nat.min len (1024 - b % 64)
      (b, k) :: packetCuts n (b + k) (len - k)

/-- A plain access to the shared array by the engine of a core of this device (R251); a packet of another device is
checked for no race (log 71). none is RACE. by_: the core, and the group tag of its command's task (R218). -/
def State.opPlain (s : State) (by_ : Option (Nat × Nat)) (sa : Nat) (store : Bool) : Option State :=
  match by_ with
  | none => some s
  | some (n, _) => (s.performOlder s.accNext n (sa / 64)).shaPlain true n sa store

/-- The group tag of an operation (R218): 0 for a packet of another device. -/
def opTag (by_ : Option (Nat × Nat)) : Nat := by_.elim 0 Prod.snd

/-- Writes the parts of rows of a value that begins at base, in address order, as far as no race is met (R252, R308). -/
def State.opWrite (by_ : Option (Nat × Nat)) (base v : Nat) : List (Nat × Nat) → State → State × Nat
  | [], s => (s, 0)
  | (x, k) :: r, s =>
    match s.opPlain by_ x true with
    | none => (s, fRace)
    | some s =>
      State.opWrite by_ base v r ((s.sysWriteN x k ((v >>> (8 * (x - base))) % 2 ^ (8 * k)) (opTag by_)).wipeCell (x / 64)
        ((2 ^ k - 1) <<< (x % 64)))

/-- Reads parts of rows: the bytes, whether a word was poisoned, and a status. -/
def State.opRead (by_ : Option (Nat × Nat)) : List (Nat × Nat) → State → State × List Byte × Bool × Nat
  | [], s => (s, [], false, 0)
  | (x, k) :: r, s =>
    match s.opPlain by_ x false with
    | none => (s, [], false, fRace)
    | some s =>
      let (s, v, p) := s.sysReadN x k (opTag by_)
      let (s, l, bad, st) := State.opRead by_ r s
      (s, bytesOfNat k v ++ l, p || bad, st)

/-- Adds a contribution to the first instance of its group and tag that has none of its device, or to a new one (R313):
the instance's number. -/
def State.joinColl (s : State) (c : Contribution) : State × Nat :=
  match s.colls.find? fun x => x.group = c.group && x.tag = c.tag && !x.got.any fun y => y.dev = c.dev with
  | some x => ({ s with colls := s.colls.map fun y => if y.no = x.no then { y with got := y.got ++ [c] } else y }, x.no)
  | none =>
    ({ s with colls := s.colls ++ [⟨s.collNext, c.group, c.tag, [c], [], false⟩], collNext := s.collNext + 1 }, s.collNext)

/-- Members of a collective group (R312). -/
def State.members (s : State) (g : Nat) : List Nat := tblGet [] s.groups g

/-- Instances that have done with: this device's command has ended, and every member has contributed or cannot be
reached. -/
def State.dropColls (s : State) : State :=
  { s with colls := s.colls.filter fun x =>
      !(x.closed && (s.members x.group).all fun d => x.gone.contains d || x.got.any fun c => c.dev = d) }

/-- A remote operation as its destination performs it (R306, R308, R309): old value, bytes, status. by_: the core of
this device that asks, with its tag. -/
def State.performOp (s : State) (by_ : Option (Nat × Nat)) (op : PacketOp) : State × Word × List Byte × Nat :=
  let ok (a len : Nat) : Bool := saDev a = s.devId && s.saOk a len
  match op with
  | .write a l =>
    if !ok a (Nat.max 1 l.length) then (s, 0, [], fTranslation)
    else
      let (s, st) := State.opWrite by_ a (natOfBytes l) (partsOf a l.length) s
      (s, 0, [], st)
  | .put a m d p => if !ok a 64 then (s, 0, [], fTranslation) else ((s.sysWrite a m d p 0).wipeCell (a / 64) m, 0, [], 0)
  | .read a len =>
    if !ok a (Nat.max 1 len) then (s, 0, [], fTranslation)
    else
      let (s, l, bad, st) := State.opRead by_ (partsOf a len) s
      (s, 0, l, if st ≠ 0 then st else if bad then fPoison else 0)
  | .atom op wide a v new =>
    let n := if wide then 8 else 4
    let a := a / n * n
    if !ok a n then (s, 0, [], fTranslation)
    else
      let s := match by_ with | none => s | some (c, _) => s.performOlder s.accNext c (a / 64)
      if saLevel a = 1 && (match by_ with | none => false | some (c, _) => s.openFor c (shaKey a)) then (s, 0, [], fRace)
      else
        let code := if op = 0 then 0 else if op = 1 then 1 else if op = 2 then 2 else if op = 3 then 6 else 7
        let (s, old, bad) := s.atomicAt a n code v.toNat new.toNat (opTag by_)
        (s, BitVec.ofNat 64 old, [], if bad then fPoison else 0)
  | .coll c => ((s.joinColl c).1.dropColls, 0, [], 0)

/-- Rows that an operation touches, by number. -/
def opRows : PacketOp → List Nat
  | .write a l => (partsOf a l.length).map fun e => e.1 / 64
  | .put a _ _ _ => [a / 64]
  | .read a len => (partsOf a len).map fun e => e.1 / 64
  | .atom _ _ a _ _ => [a / 64]
  | .coll _ => []

/-- Whether an operation writes memory. -/
def opWrites : PacketOp → Bool
  | .write .. => true
  | .put .. => true
  | .atom .. => true
  | _ => false

/-- Whether an access that core n's operation on this device must follow cannot be performed yet (R233, R249). -/
def State.opHeld (s : State) (n : Nat) (op : PacketOp) : Bool :=
  (opRows op).any fun r =>
    let s := s.performOlder s.accNext n r
    s.olderLeft s.accNext n r || (opWrites op && s.loadLeft n r)

/-- Whether a packet of core n to another device must wait: a store or atomic to one of its rows that it follows, of its
core or past the order point of its die, or a load that a write follows, has not been sent, or, in another class, has
not been performed (R233, R249, R303). -/
def State.peerHeld (s : State) (n cls : Nat) (op : PacketOp) : Bool :=
  s.accs.any fun (j, b) => (opRows op).contains b.place && !(cls = 0 && b.sent) &&
    (b.stores && b.followedBy n || opWrites op && s.loadBefore j b n)

/-- ENG of the open row of the shared array at which an operation of core n met RACE (R250). -/
def State.opEng (s : State) (n : Nat) (op : PacketOp) : Bool :=
  ((opRows op).map fun r => 64 * r).any fun a => saLevel a = 1 && s.openFor n (shaKey a) && s.rowEng (shaKey a)

/-- What a window keeps of a packet performed: its old value and status, for the last 4,096 (R306). -/
def Window.keep (w : Window) (old : Word) (st : Nat) : Window :=
  let l := tblErase w.old ((w.b + 2 ^ 32 - 4096) % 2 ^ 32)
  { w with old := if old = 0 && st = 0 then l else tblPut l w.b (old, st) }

/-- Performs the packets of a window that are next in order, and acknowledges them (R306). -/
def drainWindow (by_ : Option (Nat × Nat)) (key : Nat) : Nat → State → List Ack → State × List Ack
  | 0, s, l => (s, l)
  | n + 1, s, l =>
    let w := tblGet Window.reset s.windows key
    match w.held.find? fun p => p.seq = w.b with
    | none => (s, l)
    | some p =>
      let (s, old, bytes, st) := s.performOp by_ p.op
      let w : Window := { w.keep old st with b := (w.b + 1) % 2 ^ 32, held := w.held.filter (· ≠ p) }
      drainWindow by_ key n { s with windows := tblPut s.windows key w } (l ++ [⟨p.src, p.cls, p.seq, old, bytes, st⟩])

/-- A packet discarded without an acknowledgement counts as an error of its port (R306, R348). -/
def State.discardPacket (s : State) (pk : Packet) : State := s.errEvent ⟨0x700 + pk.port, 0, none, 64, 0, 0⟩

/-- Handles a packet by its sequence window (R306, R419): the acknowledgements to send. -/
def State.receive (s : State) (by_ : Option (Nat × Nat)) (pk : Packet) : State × List Ack :=
  if !pk.ok then (s.discardPacket pk, [])
  else
    let key := pk.src * 4 + pk.cls
    let w := tblGet Window.reset s.windows key
    let d := (pk.seq + 2 ^ 32 - w.b) % 2 ^ 32
    if 2 ^ 31 ≤ d then
      if 2 ^ 32 - 4096 ≤ d then
        -- already performed: answered as it was, a read by reading again
        let (old, st) := tblGet (0, 0) w.old pk.seq
        match pk.op with
        | .read .. =>
          let (s, _, bytes, st) := s.performOp by_ pk.op
          (s, [⟨pk.src, pk.cls, pk.seq, 0, bytes, st⟩])
        | _ => (s, [⟨pk.src, pk.cls, pk.seq, old, [], st⟩])
      else (s.discardPacket pk, [])
    else if 4096 ≤ d || w.held.any (fun p => p.seq = pk.seq) then (s.discardPacket pk, [])
    else
      let s : State := { s with windows := tblPut s.windows key { w with held := w.held ++ [pk] } }
      drainWindow by_ key (w.held.length + 1) s []

/-- The bytes that RGET, or a collective, has for a local address (R184, R185, R308, R313): written row by row,
contained in a protected class; a status, its address and ENG of a RACE where a row fails. none: the write has to
wait, for room in a die's containment buffer, for a store that comes before (R233), or for the next cc, as an engine
has read the row in this one (R207). chk: a plain access (R251). DEDUCED (log 28): the words get fresh codes,
also where poison was met. -/
def State.putLocal (chk : Bool) (n : Nat) (t : Task) (base v : Nat) : List (Nat × Nat) → State → Option (State × Nat × Nat × Bool)
  | [], s => some (s, 0, 0, false)
  | (a, k) :: rest, s =>
    let mask := (2 ^ k - 1) <<< (a % 64)
    let x := (v >>> (8 * (a - base))) % 2 ^ (8 * k)
    let data := x <<< (8 * (a % 64))
    let go (r : EngWrite) (sign : Bool) : Option (State × Nat × Nat × Bool) :=
      match r with
      | .ok s => State.putLocal chk n t base v rest (if sign then s.signStore t a k x else s)
      | .fail s c b => some (s, c, b, s.engAt n t c a)
      | .peer s _ => some (s, fTranslation, a, false)
      | .wait => none
    if a ≥ 2 ^ 63 then
      if (s.core n).readNow a then none else go (s.spmPut n (a % 2 ^ 20) mask data 0 chk) false
    else match s.translate n t a with
    | (s, none) => some (s, fTranslation, a, false)
    | (s, some (sa0, w)) =>
      let sa := sa0 / 64 * 64
      if saDev sa ≠ s.devId then some (s, fTranslation, a, false)
      else if !w || s.inCode t a k then some (s, fProtection, a, false)
      else go (s.globPut n t a sa mask data 0 chk) true

/-- Pushes a finished remote command's element and tokens (R290, R311). -/
def State.rmPush (s : State) (n : Nat) (e : EnCmd) (v : Word) (stat : Nat) (addr : Word) (pois eng : Bool) : State :=
  let s := s.pushRes n e false { v := v, stat := stat, addr := addr, eng := eng, past := e.past }
  let s := if pois then s.modOwner n e fun x => x.setCir 1 else s
  ((s.cmdPush n e).perf n 21 e.ctx none 1).traceCmd n 6 e stat 0

/-- Whether the stores that happen before a command are performed at DEVICE scope or wider. -/
def State.cmdPerformed (s : State) (e : EnCmd) : Bool := e.past.all fun i => s.performedAt i 2

/-- Whether the first acknowledgement of a run's last packet has come (R420). -/
def RmRun.lastDone (r : RmRun) : Bool :=
  r.todo.isEmpty && match r.got.getLast? with | some (q, _) => !r.wait.contains q | none => true

/-- Whether a run can complete: its last packet has been acknowledged (R420); an RFENCE waits for the stores that happen
before its release (R240, R310). -/
def State.rmOver (s : State) (r : RmRun) : Bool :=
  !r.ended && r.lastDone && (match r.cmd.i with | .rfence .. => s.cmdPerformed r.cmd | _ => true)

/-- Whether run i is the first of its context and class: those complete in the order of issue (R420). -/
def Core.rmFirst (c : Core) (i : Nat) (r : RmRun) : Bool :=
  !((c.rmRun.take i).any fun x => !x.ended && x.cmd.ctx = r.cmd.ctx && x.cmd.task.same r.cmd.task && x.cls = r.cls)

/-- The packets of an RGET in the order sent: number, bytes, local address, length. -/
def RmRun.cuts (r : RmRun) : List (Nat × List Byte × Nat × Nat) :=
  let e := r.cmd
  let len := e.d.toNat
  (r.got.zip (packetCuts (len / 960 + 2) e.b.toNat len)).map fun ((q, l), x, k) =>
    (q, l.take k, e.a.toNat + (x - e.b.toNat), k)

/-- What an RGET can write: all of its bytes, or, with packets unanswered, those of each that has come. -/
def RmRun.pieces (r : RmRun) : List (Nat × List Byte) :=
  if r.wait.isEmpty then [(r.cmd.a.toNat, (r.got.flatMap Prod.snd).take r.cmd.d.toNat)]
  else (r.cuts.filter fun c => !r.wait.contains c.1).map fun (_, l, a, _) => (a, l)

/-- Writes pieces as far as none fails. -/
def State.putPieces (n : Nat) (t : Task) : List (Nat × List Byte) → State → Option (State × Nat × Nat × Bool)
  | [], s => some (s, 0, 0, false)
  | (a, l) :: rest, s =>
    match State.putLocal true n t a (natOfBytes l) (partsOf a l.length) s with
    | some (s, 0, _, _) => State.putPieces n t rest s
    | o => o

/-- What is left of an RGET that has completed: the packets still unanswered (R420). -/
def RmRun.end_ (r : RmRun) : List RmRun :=
  if r.wait.isEmpty then []
  else [{ r with ended := true, pois := false, rest := (r.cuts.filter fun c => r.wait.contains c.1).map fun (q, _, a, k) => (q, a, k) }]

/-- The bytes of a packet that comes after its RGET has completed are written then, while the task is there (log 86). -/
def State.rmRest (s : State) (n i : Nat) (r : RmRun) : Option State :=
  let e := r.cmd
  let set (l : List RmRun) (s : State) : State :=
    s.modCore n fun c => { c with rmRun := c.rmRun.take i ++ l ++ c.rmRun.drop (i + 1) }
  if (s.owner n e).isNone then some (set [] s)
  else match r.rest.find? fun x => !r.wait.contains x.1 with
  | none => if r.rest.isEmpty then some (set [] s) else none
  | some (q, a, k) =>
    let l := ((r.got.find? fun g => g.1 = q).elim [] Prod.snd).take k
    if !s.cmdAlive n e then none
    else (State.putPieces n e.task [(a, l)] s).map fun (s, _) =>
      set [{ r with rest := r.rest.filter (·.1 ≠ q), pois := false }] (if r.pois then s.modOwner n e fun x => x.setCir 1 else s)

/-- Completes the run at place i, if it can (R420): its element enters the FIFO behind those of earlier commands of
its context and class. DESIGN CHOICE (log 69): the rows of an RGET are written as it completes (R308); those of a
packet that comes later, when it comes. -/
def State.rmComplete (s : State) (n i : Nat) : Option State :=
  let c := s.core n
  match c.rmRun[i]? with
  | none => none
  | some r =>
    let e := r.cmd
    if r.ended then s.rmRest n i r
    else if !c.rmFirst i r || !s.rmOver r || !s.resRoom n e false || !s.cmdRoom n e || !s.cmdAlive n e then none
    else
      let drop (s : State) : State := s.modCore n fun c => { c with rmRun := c.rmRun.eraseIdx i }
      match e.i with
      | .rget .. =>
        if r.stat ≠ 0 then some ((drop s).rmPush n e 0 r.stat r.addr r.pois r.eng)
        else
          match State.putPieces n e.task r.pieces s with
          | none => none
          | some (s, c, a, g) =>
            let s := s.modCore n fun x =>
              { x with rmRun := x.rmRun.take i ++ (if c = 0 then r.end_ else []) ++ x.rmRun.drop (i + 1) }
            some (s.rmPush n e 0 c (BitVec.ofNat 64 a) r.pois g)
      | .rfence .. => some ((drop (s.closeRows n)).rmPush n e 0 0 0 false false)
      | _ => some ((drop s).rmPush n e r.val r.stat r.addr r.pois r.eng)

/-- Completes what can be completed. -/
def State.rmFinish (n : Nat) : Nat → State → State
  | 0, s => s
  | fuel + 1, s =>
    match (List.range (s.core n).rmRun.length).findSome? fun i => s.rmComplete n i with
    | none => s
    | some s => State.rmFinish n fuel s
def State.rmSweep (s : State) (n : Nat) : State :=
  State.rmFinish n ((s.core n).rmRun.foldl (fun m r => m + 1 + r.rest.length) 0) s

/-- A copy whose write to another device has been answered: it goes on, or ends with the status at the first element
of the group (R298). -/
def CpRun.putDone (r : CpRun) (st : Nat) : CpRun :=
  let r' : CpRun := { r with out := r.out - 1, put := none }
  if st = 0 then r'
  else
    let n := r.put.getD r.next
    match r.shape with
    | none => r'
    | some h => { r' with stat := st, fidx := n, addr := wordOfInt (h.dstBit n / 8), next := h.count }

/-- A packet's access in flight ends (R220, R294): with the bytes read, or a status. -/
def State.accAnswer (s : State) (i : Nat) (bytes : List Byte) (st : Nat) : State :=
  match tblFind s.accs i with
  | none => s
  | some a =>
    let d := natOfBytes (bytes.take 64)
    let p := if st = fPoison then allPoison else 0
    let bad := st ≠ 0 && st ≠ fPoison
    let fault (s : State) : State :=
      if a.live || a.stores then (s.dropAcc i).faultLate a.who a.task { code := st, addr := BitVec.ofNat 64 a.va }
      else s.dropAcc i
    match a.kind with
    | .load f =>
      if bad then fault s
      else
        let (rows, cir) := f.serve d p
        (s.loadCell a.who (a.sa / 64)).deliver i a f.q rows cir
    | .peerRead run =>
      (s.dropAcc i).modRun a.who.core run fun r =>
        { r with out := r.out - 1, peer := tblPut r.peer a.sa (if bad then .failed st else .row d p) }
    | .peerPut (some run) m _ _ => ((if bad then s else s.wipeCell (a.sa / 64) m).dropAcc i).modRun a.who.core run fun r => r.putDone (if bad then st else 0)
    | .peerPut none m _ _ => if bad then fault s else (s.wipeCell (a.sa / 64) m).dropAcc i
    | _ => if bad then fault s else (s.setCell i a.who.core (a.sa / 64) fullMask false).dropAcc i

/-- A remote command takes a packet's answer (R420). eng: ENG of a RACE. -/
def RmRun.answer (r : RmRun) (seq : Nat) (old : Word) (bytes : List Byte) (st : Nat) (eng : Bool) : RmRun :=
  let v : Word := match r.cmd.i with | .ratom .. => old | _ => 0
  let got := r.got.map fun (q, l) => if q = seq then (q, bytes) else (q, l)
  let r : RmRun := { r with wait := r.wait.filter (· ≠ seq), val := v, got := got, pois := r.pois || st = fPoison }
  if st ≠ 0 && st ≠ fPoison && r.stat = 0 then { r with stat := st, addr := r.cmd.b, eng := eng, todo := [] } else r

/-- The first acknowledgement of a packet reaches the source (R304, R420); a later one is discarded. -/
def State.takeAck (s : State) (ak : Ack) : State :=
  match s.unacked.find? fun x => x.pk.dst = ak.dst && x.pk.cls = ak.cls && x.pk.seq = ak.seq with
  | none => s
  | some x =>
    let s : State := { s with unacked := s.unacked.filter (· ≠ x) }
    let s := s.modPort x.pk.port fun p => { p with flits := p.flits - opFlits x.pk.op }
    match x.acc with
    | some i => s.accAnswer i ak.bytes ak.status
    | none =>
      let eng := ak.status = fRace && s.opEng x.core x.pk.op
      let s := s.modCore x.core fun c => { c with rmRun := c.rmRun.map fun r =>
        if r.dst = ak.dst && r.cls = ak.cls && r.wait.contains ak.seq then r.answer ak.seq ak.old ak.bytes ak.status eng else r }
      s.rmSweep x.core

/-- The next number of a triple (R418). -/
def State.nextSeq (s : State) (dst cls : Nat) : Nat := tblGet 0 s.nseq (dst * 4 + cls)

/-- Whether the window and the retry buffer let a packet go (R304). -/
def State.maySend (s : State) (dst cls port flits : Nat) : Bool :=
  s.unacked.all (fun x => !(x.pk.dst = dst && x.pk.cls = cls) || (s.nextSeq dst cls + 2 ^ 32 - x.pk.seq) % 2 ^ 32 ≤ 4095) &&
  (s.port port).flits + flits ≤ 8192

/-- Sends a packet: it takes its number (R418). One to the device itself goes through the window at once (R309). tag:
the group tag of its command's task (R218). -/
def State.sendPacket (s : State) (n tag dst cls route port : Nat) (op : PacketOp) (acc : Option Nat) : State :=
  let q := s.nextSeq dst cls
  let pk : Packet := ⟨s.devId, dst, cls, q, op, port, true⟩
  let s : State := { s with nseq := tblPut s.nseq (dst * 4 + cls) ((q + 1) % 2 ^ 32), unacked := s.unacked ++ [⟨pk, n, route, acc⟩] }
  let s := s.modPort port fun p => { p with flits := p.flits + (opFlits op) }
  if dst = s.devId then
    let (s, l) := s.receive (some (n, tag)) pk
    l.foldl State.takeAck s
  else s

/-- What an access in flight asks of another device. -/
def Acc.packet (a : Acc) : Option PacketOp :=
  match a.kind with
  | .load _ => some (.read (a.sa / 64 * 64) 64)
  | .peerRead _ => some (.read (a.sa / 64 * 64) 64)
  | .store d => some (.write (a.sa / 64 * 64) (bytesOfNat 64 d))
  | .peerPut _ m d p => some (.put (a.sa / 64 * 64) m d p)
  | _ => none

/-- What a send comes to: nothing to send, held, no route, or a way. -/
inductive Way where
  | held
  | none_
  | go (route port : Nat)
  deriving DecidableEq, Repr

def State.way (s : State) (dst cls flits : Nat) : Way :=
  if dst = s.devId then (if s.maySend dst cls 64 flits then .go 0 64 else .held)
  else match s.routeTo dst with
  | none => .none_
  | some (i, r) => if s.maySend dst cls r.port flits then .go i r.port else .held

/-- Unsent accesses of a core to other devices that wait for none older (R235). -/
def State.unsentAccs (s : State) (n : Nat) : List (Nat × Acc) :=
  s.accs.filter fun (i, a) => a.who.core = n && !a.sent && saDev a.sa ≠ s.devId && a.packet.isSome && !s.accWaits i a

/-- A member of a collective cannot be reached: the instance ends with REMOTE_FAIL (R313). -/
def State.loseMember (s : State) (no d : Nat) : State :=
  { s with colls := s.colls.map fun (x : Coll) => if x.no = no then { x with gone := d :: x.gone } else x }.dropColls

/-- This device's contribution to an instance. -/
def State.ownPart (s : State) (no : Nat) : Option Contribution :=
  (s.colls.find? fun x => x.no = no).bind fun x => x.got.find? fun c => c.dev = s.devId

/-- Whose packet an offer is: an access in flight, or a remote or collective run of the core, by its place. -/
inductive OfferOf where
  | acc (i : Nat)
  | rm (i : Nat)
  | co (i : Nat)
  deriving DecidableEq, Repr

/-- A packet that a core has to send (R303): its destination, class and operation, and the tag of its task (R218). -/
structure Offer where
  dst : Nat
  cls : Nat
  op : PacketOp
  tag : Nat
  by_ : OfferOf
  deriving DecidableEq, Repr

/-- The next packet of the remote run at a place, if no run of its class before it has one (R303). -/
def State.rmOffer (s : State) (n i : Nat) (r : RmRun) : Option Offer :=
  let c := s.core n
  if (c.rmRun.take i).any (fun x => x.cls = r.cls && !x.todo.isEmpty) || c.engHalt || !s.cmdAlive n r.cmd then none
  else match r.todo with
  | [] => none
  | op :: _ => if (if r.dst = s.devId then s.opHeld n op else s.peerHeld n r.cls op) then none else some ⟨r.dst, r.cls, op, r.cmd.task.tag, .rm i⟩

/-- The next packet of a collective run, of class 2: its contribution for the next member, if no run before it of its
context has one (R303). DESIGN CHOICE (log 70): each member gets every contribution and forms the result itself. -/
def State.coOffer (s : State) (n i : Nat) (r : CoRun) : Option Offer :=
  if ((s.core n).coRun.take i).any fun x => x.cmd.ctx = r.cmd.ctx && x.cmd.task.same r.cmd.task && !x.todo.isEmpty then none
  else match r.todo, s.ownPart r.coll with
  | d :: _, some c => some ⟨d, 2, .coll c, r.cmd.task.tag, .co i⟩
  | _, _ => none

/-- What a core has to send: accesses in flight first, then remote commands, then collectives. -/
def State.offers (s : State) (n : Nat) : List Offer :=
  ((s.unsentAccs n).filterMap fun (i, a) => a.packet.map fun op => ⟨saDev a.sa, 0, op, a.task.tag, .acc i⟩) ++
  ((s.core n).rmRun.zipIdx.filterMap fun (r, i) => s.rmOffer n i r) ++
  ((s.core n).coRun.zipIdx.filterMap fun (r, i) => s.coOffer n i r)

/-- What State.offered lists of an offer. -/
def Offer.entry (o : Offer) (n : Nat) : Nat × Nat × Nat × PacketOp × Nat := (n, o.dst, o.cls, o.op, o.tag)

/-- Packets that are offered from the cc on that begins now (R418). -/
def State.offerAll (s : State) : State :=
  { s with offered := if s.fabric then s.cores.flatMap fun (n, _) => (s.offers n).map (Offer.entry · n) else [] }

/-- Whether a packet may not go yet: it is offered from the next cc on, or a lower core offers one of the same triple,
which is numbered first, also where that one has to wait for room (R418). -/
def State.behind (s : State) (n : Nat) (o : Offer) : Bool :=
  !s.offered.contains (o.entry n) ||
  s.cores.any fun (m, _) => m < n && (s.offers m).any fun x =>
    x.dst = o.dst && x.cls = o.cls && s.offered.contains (x.entry m)

/-- An offer leaves its place: the run goes on to its next packet, under the sequence number given. -/
def State.offerGone (s0 : State) (n : Nat) (o : Offer) (seq : Nat) : State :=
  let s : State := { s0 with offered := s0.offered.erase (o.entry n) }
  match o.by_ with
  | .acc i => { s with accs := s.accs.map fun (j, a) => (j, if j = i then { a with sent := true } else a) }
  | .rm i => s.modRm n i fun r => { r with todo := r.todo.drop 1, wait := r.wait ++ [seq], got := r.got ++ [(seq, [])] }
  | .co i => s.modCore n fun x => { x with coRun := x.coRun.zipIdx.map fun (y, j) => if j = i then { y with todo := y.todo.drop 1 } else y }

/-- An offer whose destination has no route ends with REMOTE_FAIL (R220, R305, R313). -/
def State.offerLost (s : State) (n : Nat) (o : Offer) : State :=
  match o.by_ with
  | .acc i => s.accAnswer i [] fRemoteFail
  | .rm i => (s.modRm n i fun r =>
      { r with todo := [], stat := if r.stat = 0 then fRemoteFail else r.stat, addr := r.cmd.b }).rmSweep n
  | .co i =>
    match (s.core n).coRun[i]? with
    | none => s
    | some r => (s.offerGone n o 0).loseMember r.coll o.dst

/-- Sends an offer, if it can go. -/
def State.sendOffer (s : State) (n : Nat) (o : Offer) : Option State :=
  match s.way o.dst o.cls (opFlits o.op) with
  | .held => none
  | .none_ => some (s.offerLost n o)
  | .go r p =>
    if s.behind n o then none
    else
      let acc := match o.by_ with | .acc i => some i | _ => none
      some ((s.offerGone n o (s.nextSeq o.dst o.cls)).sendPacket n o.tag o.dst o.cls r p o.op acc)

/-- PACKET_SEND (R304, R418): the first packet of the core that can go; traffic waits until the fabric is configured
(R400). -/
def execPacketSend (n : Nat) (s : State) : Host.Outcome State Fault Refusal :=
  if !s.fabric then .next s
  else match (s.offers n).findSome? fun o => s.sendOffer n o with
  | some s => .next s
  | none => .next s

/-- Whether a packet asks what its class carries (R303). -/
def packetFits (pk : Packet) : Bool := pk.cls = match pk.op with | .atom .. => 1 | .coll _ => 2 | _ => 0

/-- A packet of another device arrives (R306, R419). -/
def State.arrive (s : State) (pk : Packet) : State :=
  if !s.fabric || pk.dst ≠ s.devId || pk.src = s.devId || !packetFits pk then s.discardPacket pk
  else
    let (s, l) := s.receive none pk
    { s with acksOut := s.acksOut ++ l }

/-- PACKET_RECEIVE (R306, R419): of class 0 or 1. -/
def execPacketReceive (pk : Packet) (s : State) : Host.Outcome State Fault Refusal :=
  if pk.cls = 2 then .next s else .next (s.arrive pk)

/-- COLLECTIVE_CONTRIBUTION (R303, R313): a packet of class 2. -/
def execCollectiveContribution (pk : Packet) (s : State) : Host.Outcome State Fault Refusal :=
  if pk.cls = 2 then .next (s.arrive pk) else .next s

/-- ACKNOWLEDGEMENT (R304, R420). -/
def execAcknowledgement (ak : Ack) (s : State) : Host.Outcome State Fault Refusal := .next (s.takeAck ak)

/-- A contribution that has been sent, and may not have arrived, loses its receiver (R305, R313). -/
def State.loseSent (s : State) (pk : Packet) : State :=
  match pk.op with
  | .coll c =>
    (match s.colls.find? fun y => y.got.contains c with
    | some y => s.loseMember y.no pk.dst
    | none => s)
  | _ => s

/-- An unacknowledged packet with no route left ends with REMOTE_FAIL (R305). -/
def State.failSent (s : State) (x : Sent) : State :=
  let s : State := { s with unacked := s.unacked.filter (· ≠ x) }
  let s := s.modPort x.pk.port fun p => { p with flits := p.flits - opFlits x.pk.op }
  match x.acc with
  | some i => s.accAnswer i [] fRemoteFail
  | none =>
    let s := s.loseSent x.pk
    let s := s.modCore x.core fun c => { c with rmRun := c.rmRun.map fun r =>
      if r.dst = x.pk.dst && r.cls = x.pk.cls && r.wait.contains x.pk.seq then r.answer x.pk.seq 0 [] fRemoteFail false else r }
    s.rmSweep x.core

/-- Replays a packet over another route, or fails it (R305). -/
def State.replay (s : State) (x : Sent) : State :=
  match s.routeTo x.pk.dst with
  | none => s.failSent x
  | some (i, r) =>
    let s := (s.modPort x.pk.port fun p => { p with flits := p.flits - opFlits x.pk.op }).modPort r.port
      fun p => { p with flits := p.flits + opFlits x.pk.op }
    { s with unacked := s.unacked.map fun y => if y = x then { x with route := i, pk := { x.pk with port := r.port } } else y }

/-- A route fails (R305, R348): its unacknowledged packets are replayed, in the order sent. -/
def State.failRoute (s : State) (i : Nat) : State :=
  match tblFind s.routes i with
  | none => s
  | some r =>
    if !r.up then s
    else
      let s : State := { s with routes := tblPut s.routes i { r with up := false } }
      let s := s.errEvent ⟨0x700 + r.port, 0, some 7, 64, 0, 0⟩
      (s.unacked.filter fun x => x.route = i && x.pk.dst ≠ s.devId).foldl State.replay s

/-- ROUTE_TIMEOUT (R305): a packet of the route has stayed unacknowledged for the route timeout. -/
def execRouteTimeout (i : Nat) (s : State) : Host.Outcome State Fault Refusal :=
  if s.unacked.any fun x => x.route = i && x.pk.dst ≠ s.devId then .next (s.failRoute i) else .next s

/-- ROUTE_FAILURE (R305). -/
def execRouteFailure (i : Nat) (s : State) : Host.Outcome State Fault Refusal := .next (s.failRoute i)

/-- The logical lane of a port that a lost lane backed goes to the spare lane (R346, R400). -/
def State.takeSpare (s : State) (p lane : Nat) : State :=
  match (List.range 4).find? fun i => tblGet i s.spare (4 * 2 ^ 40 + 8 * p + i) = lane with
  | some i => { s with spare := tblPut s.spare (4 * 2 ^ 40 + 8 * p + i) 4 }
  | none => s

/-- LANE_LOSS (R400): the port takes its spare lane; at a second loss its routes fail. Packets keep their route when the
spare is taken, so that their replay changes nothing here. -/
def execLaneLoss (p lane : Nat) (s : State) : Host.Outcome State Fault Refusal :=
  if (s.port p).spareUsed then
    let s := s.errEvent ⟨0x700 + p, 0, none, 64, 0, lane⟩
    .next ((s.routes.filter fun (_, r) => r.port = p).foldl (fun s e => s.failRoute e.1) s)
  else .next (((s.modPort p fun x => { x with spareUsed := true }).takeSpare p lane).errEvent ⟨0x700 + p, 0, some 6, 64, 0, lane⟩)

end Sys2Proof.Machine
end

