-- ==== Sys2Proof/Machine/Remote.lean ====
section
/-! DEFINITION. The remote engine (R288, R308 to R310, R315, R340, R341): the start of each command of its queue. -/

namespace Sys2Proof.Machine

/-- Reads bytes at a local address, part of a row at a time, up to the first that fails: the bytes, whether a word was
poisoned, a status and its address; none while a store that comes before is not performed (R233). chk: plain accesses
(R251). -/
def readLocal (chk : Bool) (n : Nat) (t : Task) : List (Nat × Nat) → State → Option (State × List Byte × Bool × Nat × Nat)
  | [], s => some (s, [], false, 0, 0)
  | (a, k) :: rest, s =>
    match s.localRow n t a chk with
    | .wait => none
    | .fail s c b => some (s, [], false, c, b)
    | .peer s b => some (s, [], false, fTranslation, b)
    | .ok s d p =>
      let v := (d >>> (8 * (a % 64))) % 2 ^ (8 * k)
      let bad := (List.range 16).any fun w => bitN p w && 4 * w < a % 64 + k && a % 64 < 4 * w + 4
      (readLocal chk n t rest s).map fun (s, l, b, st, ad) => (s, bytesOfNat k v ++ l, bad || b, st, ad)

/-- A run at its start; and one with nothing left to do but to end, with a value, a status and its address. -/
def RmRun.start (e : EnCmd) (dst cls : Nat) : RmRun :=
  { cmd := e, dst := dst, cls := cls, todo := [], wait := [], got := [], val := 0, stat := 0, addr := 0, pois := false }
def RmRun.over (e : EnCmd) (cls : Nat) (v : Word) (stat : Nat) (addr : Word) (eng : Bool := false) : RmRun :=
  { RmRun.start e 0 cls with val := v, stat := stat, addr := addr, eng := eng }

/-- How the head of the remote queue starts: it waits, or it runs. -/
inductive RmStart where
  | wait (s : State)
  | run (s : State) (r : RmRun)

/-- RPUT (R292, R308): the bytes before a local row that fails are sent. -/
def State.startRput (s : State) (n : Nat) (e : EnCmd) : RmStart :=
  let len := e.d.toNat
  let b := e.b.toNat
  if len = 0 then .run s (RmRun.over e 0 0 0 0)
  else if !s.saOk b len then .run s (RmRun.over e 0 0 fTranslation e.b)
  else match s.badLocal n e.task e.a.toNat len with
  | (s, some x) => .run s (RmRun.over e 0 0 fTranslation (BitVec.ofNat 64 x))
  | (s, none) =>
    match readLocal true n e.task (partsOf e.a.toNat len) s with
    | none => .wait s
    | some (s, l, bad, st, ad) =>
      .run s { RmRun.start e (saDev b) 0 with
        todo := (packetCuts (len / 960 + 2) b l.length).map fun (x, k) => .write x ((l.drop (x - b)).take k),
        stat := st, addr := BitVec.ofNat 64 ad, pois := bad, eng := s.engAt n e.task st (e.a.toNat + l.length) }

/-- RGET (R206, R292, R308). -/
def State.startRget (s : State) (n : Nat) (e : EnCmd) : RmStart :=
  let len := e.d.toNat
  let a := e.a.toNat
  let b := e.b.toNat
  if len = 0 then .run s (RmRun.over e 0 0 0 0)
  else if !s.saOk b len then .run s (RmRun.over e 0 0 fTranslation e.b)
  else match s.badLocal n e.task a len with
  | (s, some x) => .run s (RmRun.over e 0 0 fTranslation (BitVec.ofNat 64 x))
  | (s, none) =>
    if a ≥ 2 ^ 63 && (a % 4 ≠ 0 || len % 4 ≠ 0) then .run s (RmRun.over e 0 0 fShapeRecord e.a)
    else .run s { RmRun.start e (saDev b) 0 with todo := (packetCuts (len / 960 + 2) b len).map fun (x, k) => .read x k }

/-- RATOM (R309). DESIGN CHOICE (log 87): the low bits of a system address that is not naturally aligned are ignored. -/
def State.startRatom (s : State) (e : EnCmd) (z : BitVec 1) (o : BitVec 3) : RmStart :=
  let n := if z = 1 then 8 else 4
  let a := e.a.toNat / n * n
  if !s.saOk a n then .run s (RmRun.over e 1 0 fTranslation e.a)
  else .run s { RmRun.start e (saDev a) 1 with todo := [.atom o.toNat (z = 1) a e.b e.b1] }

/-- TASKQ (R315, R319, R326). -/
def State.startTaskq (s : State) (n : Nat) (e : EnCmd) : RmStart :=
  match s.localRow n e.task (e.a.toNat / 64 * 64) with
  | .wait => .wait s
  | .fail s c a => .run s (RmRun.over e 3 0 c (BitVec.ofNat 64 a) (s.engAt n e.task c e.a.toNat))
  | .peer s a => .run s (RmRun.over e 3 0 fTranslation (BitVec.ofNat 64 a))
  | .ok s' d _ =>
    match s'.taskRecord e.task e.b.toNat d with
    | (_, none) => .wait s
    | (s', some (.error c)) => .run s' (RmRun.over e 3 0 c 0)
    | (_, some (.ok (s', tid))) => .run s' (RmRun.over e 3 tid 0 0)

/-- LAUNCH (R341): a release at DEVICE scope comes first. -/
def State.startLaunch (s : State) (n : Nat) (e : EnCmd) : RmStart :=
  if e.a.toNat % 128 ≠ 0 then .run s (RmRun.over e 3 0 fLaunchFormat 0)
  else if !s.cmdPerformed e || (s.part e.task.part).hubSaw then .wait s
  else match (s.closeRows n).localRows n e.task 2 e.a.toNat with
  | .wait => .wait s
  | .fail s c a i => .run s (RmRun.over e 3 0 c (BitVec.ofNat 64 a) (s.engAt n e.task c (e.a.toNat + 64 * i)))
  | .ok s' d _ =>
    match s'.judge e.task.part d false with
    | (_, .wait) => .wait s
    | (s', .reject c) => .run s' (RmRun.over e 3 0 c 0)
    | (s', .accept x al) => .run (s'.addLaunch e.task.part d none x al) (RmRun.over e 3 (BitVec.ofNat 64 (recLtag d)) 0 0)

/-- Entries of a launch that have fired. -/
def Launch.firedEnts (l : Launch) : List AEnt := l.alm.filter fun e => e.st ≠ .idle

/-- ALMLD (R340). -/
def State.startAlmld (s : State) (n : Nat) (e : EnCmd) : RmStart :=
  let cnt := e.b.toNat
  if e.a.toNat % 64 ≠ 0 then .run s (RmRun.over e 3 0 fShapeRecord 0)
  else match s.localRows n e.task ((cnt + 1) / 2) e.a.toNat with
  | .wait => .wait s
  | .fail s c a i => .run s (RmRun.over e 3 0 c (BitVec.ofNat 64 a) (s.engAt n e.task c (e.a.toNat + 64 * i)))
  | .ok s d _ =>
    match almEntries cnt d, s.launch? e.task.launch with
    | some new, some l =>
      let kept := l.firedEnts
      if 4096 < kept.length + cnt || 65536 < s.almHeld - l.alm.length + kept.length + cnt then
        .run s (RmRun.over e 3 0 fContainFull 0)
      else
        .run ((s.modLaunch e.task.launch fun l => { l with alm := kept ++ new, hasAlm := true }).fireLaunch e.task.launch)
          (RmRun.over e 3 0 0 0)
    | _, _ => .run s (RmRun.over e 3 0 fShapeRecord 0)

/-- ALMCLR (R340). -/
def State.startAlmclr (s : State) (e : EnCmd) : RmStart :=
  match s.launch? e.task.launch with
  | none => .run s (RmRun.over e 3 0 0 0)
  | some l => .run (s.modLaunch e.task.launch fun l => { l with alm := l.firedEnts })
      (RmRun.over e 3 (BitVec.ofNat 64 (l.alm.length - l.firedEnts.length)) 0 0)

/-- How the head starts. -/
def State.startRm (s : State) (n : Nat) (e : EnCmd) : RmStart :=
  match e.i with
  | .rput .. => s.startRput n e
  | .rget .. => s.startRget n e
  | .ratom _ z o _ _ => s.startRatom e z o
  | .rfence .. => .run s (RmRun.start e 0 3)
  | .taskq .. => s.startTaskq n e
  | .launch .. => s.startLaunch n e
  | .almld .. => s.startAlmld n e
  | _ => s.startAlmclr e

/-- Whether a completion is held for want of room: in a token queue (R288), or in the result FIFO of the head's context
(R311). -/
def State.rmHeld (s : State) (n : Nat) (e : EnCmd) : Bool :=
  (s.core n).rmRun.zipIdx.any fun (r, i) => s.rmOver r && (s.core n).rmFirst i r &&
    (!s.cmdRoom n r.cmd || (!s.resRoom n r.cmd false && r.cmd.task.same e.task))

/-- Whether an RFENCE keeps the head back, or the head is one and its context has earlier commands (R310). -/
def State.rmFenced (s : State) (n : Nat) (e : EnCmd) : Bool :=
  (s.core n).rmRun.any fun r => !r.ended && r.cmd.ctx = e.ctx && r.cmd.task.same e.task &&
    (match r.cmd.i with | .rfence .. => true | _ => false) || (match e.i with | .rfence .. => r.cmd.ctx = e.ctx && r.cmd.task.same e.task | _ => false)

/-- The head of the remote queue starts (R288, R311). -/
def State.rmHead (s0 : State) (n : Nat) : State :=
  match (s0.core n).rmq with
  | [] => s0
  | e :: rest =>
    if (s0.core n).engHalt || !s0.cmdAlive n e || s0.rmHeld n e || s0.rmFenced n e then s0
    else match s0.startRm n e with
      | .wait s => s
      | .run s r => (s.modCore n fun c => { c with rmq := rest, rmRun := c.rmRun ++ [r] }).rmSweep n

/-- REMOTE_COMMAND_START (R288): what is finished completes; then the head starts. -/
def execRemoteCommandStart (n : Nat) (s : State) : Host.Outcome State Fault Refusal := .next ((s.rmSweep n).rmHead n)

/-- TASK_ENQUEUE (R314): a record that waits for room in a queue enters it: the walker's, or that of a TASKQ at the head
of a remote queue. -/
def execTaskEnqueue (q : Nat) (s : State) : Host.Outcome State Fault Refusal :=
  match s.launches.find? fun (n, l) =>
      recTq l.record = q && l.seq < l.total && !s.walked.contains n && !(s.part l.part).hubSaw with
  | some (n, _) => .next (s.walkNext n)
  | none =>
    match s.cores.find? fun (_, c) => match c.rmq with
      | e :: _ => (match e.i with | .taskq .. => e.b.toNat = q | _ => false)
      | [] => false with
    | some (n, _) => .next ((s.rmSweep n).rmHead n)
    | none => .next s

end Sys2Proof.Machine
end

