-- ==== Sys2Proof/Machine/Collective.lean ====
section
/-! DEFINITION. The collective engine (R288, R312, R313): handing a command to the hub's engine with this device's
contribution, contributions of other devices, the result of an instance and the completion of commands. -/

namespace Sys2Proof.Machine

/-- Fields of a descriptor's control word (Table 10.7). -/
def colGroup (c : Word) : Nat := bitsN c.toNat 0 6
def colKind (c : Word) : Nat := bitsN c.toNat 6 2
def colRoot (c : Word) : Nat := bitsN c.toNat 8 10
def colLen (c : Word) : Nat := bitsN c.toNat 24 9 + 1

/-- Format of the elements: FP32, BF16, FP64, I32 or N32. -/
def colFmt (c : Word) : Option Fmt :=
  match bitsN c.toNat 18 4 with
  | 0 => some .fp32 | 1 => some .bf16 | 3 => some .fp64 | 12 => some (.int true 32) | 15 => some (.int false 32)
  | _ => none

def EnCmd.isCast (e : EnCmd) : Bool := match e.i with | .cbcast .. => true | _ => false
def EnCmd.colOp (e : EnCmd) : Nat := match e.i with | .cred _ o _ => o.toNat | _ => 0

/-- Whether a descriptor of 64 bytes keeps Table 10.7. -/
def State.colOk (s : State) (e : EnCmd) (d : Nat) : Bool :=
  let c : Word := BitVec.ofNat 64 d
  bitsN d 33 31 = 0 && bitsN d 96 32 = 0 && bitsN d 256 256 = 0 && colLen c ≤ 256 &&
  (s.members (colGroup c)).contains s.devId &&
  (if e.isCast then bitsN d 6 2 = 0 && bitsN d 18 6 = 0
   else colKind c < 2 && bitsN d 22 2 ≠ 2 && match colFmt c with | some f => 8 * colLen c % f.width = 0 | none => false)

/-- Whether this device's destination receives the result (R313). -/
def State.receives (s : State) (e : EnCmd) : Bool :=
  if e.isCast then colRoot e.d ≠ s.devId else colKind e.d = 0 || colRoot e.d = s.devId

/-- Ends a collective command: its element, its tokens (R313). -/
def State.colPush (s : State) (n : Nat) (e : EnCmd) (v : Word) (stat : Nat) (addr : Word) : State :=
  (s.pushRes n e true { v := v, stat := stat, addr := addr, past := e.past }).cmdPush n e

/-- What a command contributes (R312, R313): the command with its control word, its destination and its tag, and the
contribution; or a status and its address; or it must wait. -/
inductive ColStart where
  | ok (s : State) (e : EnCmd) (c : Contribution)
  | fail (s : State) (code addr : Nat)
  | wait

/-- A descriptor that keeps Table 10.7, and the checks of its addresses, before any access (R206, R292). -/
def State.colParts (s : State) (n : Nat) (e : EnCmd) (src dst : Nat) : ColStart :=
  let len := colLen e.d
  let sends := !e.isCast || colRoot e.d = s.devId
  let check (s : State) (on : Bool) (v : Nat) : State × Option Nat := if on then s.badLocal n e.task v len else (s, none)
  match check s sends src with
  | (s, some a) => .fail s fTranslation a
  | (s, none) =>
    match check s (s.receives e) dst with
    | (s, some a) => .fail s fTranslation a
    | (s, none) =>
      if s.receives e && dst ≥ 2 ^ 63 && (dst % 4 ≠ 0 || len % 4 ≠ 0) then .fail s fShapeRecord dst
      else match readLocal false n e.task (if sends then partsOf src len else []) s with
      | none => .wait
      | some (s, l, bad, st, ad) =>
        if st ≠ 0 then .fail s st ad
        else
          let s := if bad then s.modOwner n e fun x => x.setCir 1 else s
          .ok s e ⟨s.devId, colGroup e.d, e.b1.toNat, e.d, e.isCast, e.colOp, l, true⟩

/-- Reads what the head of the collective queue contributes; accesses by hub units are not checked (R251). -/
def State.contribute (s : State) (n : Nat) (e : EnCmd) : ColStart :=
  if e.a.toNat % 64 ≠ 0 then .fail s fShapeRecord 0
  else match s.localRow n e.task e.a.toNat false with
  | .wait => .wait
  | .fail s c a => .fail s c a
  | .peer s a => .fail s fTranslation a
  | .ok s d _ =>
    if !s.colOk e d then .fail s fShapeRecord 0
    else s.colParts n { e with d := BitVec.ofNat 64 d, b := BitVec.ofNat 64 (bitsN d 192 64), b1 := BitVec.ofNat 64 (bitsN d 64 32) }
      (bitsN d 128 64) (bitsN d 192 64)

/-- What an instance comes to (R313). -/
inductive Outcome where
  | wait
  | status (code : Nat)
  | result (bytes : List Byte) (cir : Nat)
  deriving DecidableEq, Repr

/-- The result of a reduction, element by element, from all contributions at once (R57, R313). -/
def reduceAll (c : Word) (op : Nat) (rmode : BitVec 2) (srcs : List (List Byte)) : List Byte × Nat :=
  match colFmt c with
  | none => ([], 0)
  | some f =>
    let n := 8 * colLen c / f.width
    let rm := rndOf (BitVec.ofNat 2 (bitsN c.toNat 22 2)) rmode
    let nums := srcs.map natOfBytes
    let one (i : Nat) : Nat × NumFlags :=
      let vs := nums.map fun v => f.decode (elemOf f.width v i)
      if op = 0 then exactSum f rm 0 false vs
      else match vs with
        | [] => (0, NumFlags.none)
        | v :: r => roundTo f .rne 0 false (r.foldl (Val.minmax (op = 2)) v)
    let es := (List.range n).map one
    (bytesOfNat (colLen c) (packElems f.width (es.map Prod.fst)), cirAll es)

/-- How the instance of a command stands (R313). With other members, nothing comes of it before the fabric is configured
(R400). DESIGN CHOICE (log 66): a CBCAST whose root is no member of its group waits without limit. -/
def State.colOutcome (s : State) (e : EnCmd) (no : Nat) : Outcome :=
  match s.colls.find? fun x => x.no = no with
  | none => .wait
  | some x =>
    let ms := s.members x.group
    if !s.fabric && ms.any (· ≠ s.devId) then .wait
    else if x.got.any fun c => c.control ≠ e.d || c.isCast ≠ e.isCast || c.op ≠ e.colOp then .status fShapeRecord
    else if !x.gone.isEmpty || (x.got.any fun c => !c.hasRoute) || ms.any (fun d => d ≠ s.devId && (s.routeTo d).isNone) then
      .status fRemoteFail
    else if !ms.all (fun d => x.got.any fun c => c.dev = d) then .wait
    else if e.isCast then
      match x.got.find? fun c => c.dev = colRoot e.d with
      | some c => .result c.bytes 0
      | none => .wait
    else
      let (l, cir) := reduceAll e.d e.colOp e.rmode (x.got.map (·.bytes))
      .result l cir

/-- Whether a command can complete, but for room: what it ends with is known, and its contribution has gone out. -/
def State.colDue (s : State) (r : CoRun) : Bool := r.fate.isSome || (r.todo.isEmpty && s.colOutcome r.cmd r.coll ≠ .wait)

/-- Whether a completion is held for want of room: in a token queue (R288), or in the result FIFO of the head's context
(R311). -/
def State.colHeld (s : State) (n : Nat) (e : EnCmd) : Bool :=
  (s.core n).coRun.any fun r => s.colDue r &&
    (!s.cmdRoom n r.cmd || (!s.resRoom n r.cmd true && r.cmd.task.same e.task))

/-- Hands the head of a core's collective queue to the hub (R288): its contribution joins an instance. -/
def State.colHand (s : State) (n : Nat) : State :=
  let c := s.core n
  match c.coq with
  | [] => s
  | e :: rest =>
    if c.engHalt || !s.cmdAlive n e || s.colHeld n e then s
    else
      let pop (s : State) (r : CoRun) : State := s.modCore n fun c => { c with coq := rest, coRun := c.coRun ++ [r] }
      match s.contribute n e with
      | .wait => s
      | .fail s st ad => pop s ⟨e, 0, [], some (0, st, BitVec.ofNat 64 ad)⟩
      | .ok s e' own =>
        let (s, no) := s.joinColl own
        pop s ⟨e', no, (s.members own.group).filter (· ≠ s.devId), none⟩

/-- A command leaves the engine: its instance has done with this device's. -/
def State.colDrop (s : State) (n : Nat) (r : CoRun) : State :=
  let s := s.modCore n fun c => { c with coRun := c.coRun.erase r }
  if r.fate.isSome then s
  else { s with colls := s.colls.map fun (x : Coll) => if x.no = r.coll then { x with closed := true } else x }.dropColls

/-- Completes the first command of a core that can (R313). -/
def State.colFinish (s : State) (n : Nat) : State :=
  let ready (r : CoRun) : Bool := s.cmdAlive n r.cmd && s.resRoom n r.cmd true && s.cmdRoom n r.cmd && s.colDue r
  match (s.core n).coRun.find? ready with
  | none => s
  | some r =>
    let e := r.cmd
    match r.fate with
    | some (v, st, ad) => (s.colDrop n r).colPush n e v st ad
    | none =>
      match s.colOutcome e r.coll with
      | .wait => s
      | .status st => (s.colDrop n r).colPush n e 0 st e.a
      | .result l cir =>
        if !s.receives e then (s.colDrop n r).colPush n e 0 0 0
        else match State.putLocal false n e.task e.b.toNat (natOfBytes l) (partsOf e.b.toNat l.length) s with
        | none => s
        | some (s, st, ad, _) =>
          if st ≠ 0 then (s.colDrop n r).colPush n e 0 st (BitVec.ofNat 64 ad)
          else
            let s := (s.colDrop n r).modOwner n e fun x => x.setCir cir
            s.colPush n e (if e.isCast then 0 else BitVec.ofNat 64 (natOfBytes (l.take 8))) 0 0

/-- COLLECTIVE_COMPLETE (R288, R313): the head of the core's queue reaches the hub's engine, and a command whose
instance is decided completes. -/
def execCollectiveComplete (n : Nat) (s : State) : Host.Outcome State Fault Refusal := .next ((s.colHand n).colFinish n)

end Sys2Proof.Machine
end

