-- ==== Sys2Proof/Machine/Matrix.lean ====
section
/-! DEFINITION. The MX words and FMTPUSH at issue (R260 to R270, R277 to R284): format words, issue checks, the
command pushed. -/

namespace Sys2Proof.Machine

/-- Fields of a format word (Table 9.2). -/
def fwA (w : Word) : Nat := bitsN w.toNat 0 4
def fwB (w : Word) : Nat := bitsN w.toNat 4 4
def fwC (w : Word) : Nat := bitsN w.toNat 8 2
def fwScale (w : Word) : Nat := bitsN w.toNat 10 2
def fwRm (w : Word) : BitVec 2 := w.extractLsb' 12 2
def fwChk (w : Word) : Bool := bitN w.toNat 14
def fwSparse (w : Word) : Bool := bitN w.toNat 15
def fwProv (w : Word) : Bool := bitN w.toNat 16
def fwRelf (w : Word) : Nat := bitsN w.toNat 17 5
def fwRelen (w : Word) : Bool := bitN w.toNat 22

/-- Formats of Table 9.3 but CB2, which is code 11. -/
def mxFmt : Nat → Option Fmt
  | 0 => some .fp32 | 1 => some .bf16 | 2 => some .tf16 | 3 => some .fp64 | 4 => some .e4m3
  | 5 => some .e5m2 | 6 => some .tf8 | 7 => some (.int true 8) | 8 => some (.int false 8)
  | 9 => some (.int true 4) | 10 => some (.int false 4) | 12 => some (.int true 32)
  | _ => none

/-- Width class of a code (Table 9.3). -/
def mxWidth (c : Nat) : Nat := match mxFmt c with | some f => f.width | none => 4

/-- The accumulator format of CFMT. -/
def accFmt (c : Nat) : Fmt := if c = 0 then .fp32 else if c = 1 then .int true 32 else .fp64

/-- Depth K of a width class (Table 9.4). -/
def mxDepth (w : Nat) : Nat := 512 / w

/-- Rules that every format word keeps (R260). -/
def fwBase (w : Word) (rel : Bool) : Bool :=
  w.toNat < 2 ^ 23 && fwC w ≠ 3 && fwRelen w = rel && (fwRelen w || fwRelf w = 0)

/-- Whether a SCALE bit may stand beside a format (R262). -/
def scaleOk (bit : Bool) (c : Nat) : Bool := !bit || (c ≠ 11 && (mxWidth c = 8 || mxWidth c = 4))

/-- A format word valid for MMA or MMAS (R262), with the D bits of a CB2 operand clear (R264). -/
def fwMma (w : Word) (sparse rel da db : Bool) : Bool :=
  let a := fwA w
  let b := fwB w
  fwBase w rel && a ≤ 11 && b ≤ 11 && mxWidth a = mxWidth b &&
  ((fwC w = 2) == (a = 3 && b = 3)) &&
  (fwC w ≠ 1 || (7 ≤ a && a ≤ 10 && 7 ≤ b && b ≤ 10 && fwRm w = 0)) &&
  scaleOk (bitN (fwScale w) 0) a && scaleOk (bitN (fwScale w) 1) b &&
  fwSparse w = sparse && (!sparse || (a ≠ 11 && b ≠ 11)) && !(a = 11 && da) && !(b = 11 && db)

/-- A format word valid for MLDACC (R280). -/
def fwLoad (w : Word) (rel : Bool) : Bool :=
  fwBase w rel && fwA w = (if fwC w = 0 then 0 else if fwC w = 1 then 12 else 3) && fwB w = 0 && fwScale w = 0 &&
  fwRm w = 0 && !fwSparse w && !fwProv w

/-- A format word valid for MSTACC (R281). -/
def fwStore (w : Word) : Bool :=
  fwBase w false && (fwA w ≤ 10 || fwA w = 12) && fwB w = 0 && !fwSparse w && fwScale w ≤ 1

/-- Frame offset and bytes of an accumulator under a view (R148). -/
def accOff (avw : Word) (n : Nat) (pair : Bool) : Nat := avBase avw + (if pair then 8192 * (n / 2) else 4096 * n)
def accLen (pair : Bool) : Nat := if pair then 8192 else 4096

/-- Depth of a command: K, or 2K when sparse (R263). -/
def cmdDepth (w : Word) : Nat := (if fwSparse w then 2 else 1) * mxDepth (mxWidth (fwA w))

/-- Whether an operand has a scale block, and its K positions a scale (R266). -/
def hasScale (c : Nat) (bit : Bool) : Bool := c = 11 || bit
def scaleSpan (c : Nat) : Nat := if c = 11 then 64 else 32

/-- Bytes of a scale block: 32 lines of one BF16 per span. -/
def scaleLen (w : Word) (c : Nat) (bit : Bool) : Nat := if hasScale c bit then 64 * (cmdDepth w / scaleSpan c) else 0

/-- Regions an MMA or MMAS reads: start and bytes of A, its metadata, its scales, B, its scales (R264 to R266). -/
structure MxRegions where
  a : Nat × Nat
  meta_ : Nat × Nat
  ascale : Nat × Nat
  b : Nat × Nat
  bscale : Nat × Nat

def mmaRegions (w ta tb : Word) : MxRegions :=
  let x := ta.toNat
  let y := tb.toNat
  let sp := fwSparse w
  let sc := if sp then 0x1000 else 0x800
  ⟨(x, 0x800), (x + 0x800, if sp then 4 * cmdDepth w else 0), (x + sc, scaleLen w (fwA w) (bitN (fwScale w) 0)),
   (y, sc), (y + sc, scaleLen w (fwB w) (bitN (fwScale w) 1))⟩

/-- A region inside a half of the SPM; an empty one anywhere. -/
def inGroup (g : Nat) (r : Nat × Nat) : Bool := r.2 = 0 || (0x80000 * g ≤ r.1 && r.1 + r.2 ≤ 0x80000 * (g + 1))

/-- The address rules of MMA and MMAS (R267). -/
def mmaAddrOk (w ta tb : Word) : Bool :=
  let r := mmaRegions w ta tb
  ta.toNat < 2 ^ 20 && tb.toNat < 2 ^ 20 && ta.toNat % 0x800 = 0 && tb.toNat % 0x800 = 0 &&
  inGroup 0 r.a && inGroup 0 r.meta_ && inGroup 0 r.ascale && inGroup 1 r.b && inGroup 1 r.bscale

/-- The address rules of MLDACC and MSTACC (R267). -/
def accAddrOk (ta : Word) (len : Nat) : Bool :=
  ta.toNat < 2 ^ 20 && ta.toNat % 64 = 0 && inGroup (ta.toNat / 0x80000) (ta.toNat, len)

/-- Pushes a matrix command (R270). -/
def State.pushMx (s : State) (i : Instr) (ta tb fmt : Word) : State :=
  let c := s.me
  let x := s.myCtx
  let cmd : MxCmd := ⟨s.cur.ctx, i, ta, tb, fmt, x.views, c.rmode, c.seed, c.stream, c.ctr, x.popped,
    s.past (.clu s.cur)⟩
  s.modMyCore fun k => { k with mxq := k.mxq ++ [cmd] }

/-- A word that pops a format word and pushes a command, with the checks of Table 9.5 in order. -/
def State.mxPop (s : State) (i : Instr) (acc : Nat) (ta tb : Word) (fmtOk : Word → Bool) (addrOk : Word → Bool)
    (rounds : Bool) : Act :=
  if 8 ≤ s.myCore.mxq.length then .stall .full s
  else match s.myCtx.fmtq with
  | [] => .fault { code := fFormatUnderflow }
  | w :: rest =>
    let pair := fwC w = 2
    if !fmtOk w || (pair && acc % 2 = 1) then .fault { code := fIllegalWord }
    else if s.myTask.snap.frame < accOff (s.myCtx.view 3) acc pair + accLen pair then .fault { code := fViewRange }
    else if !addrOk w then .fault { code := fBankRule }
    else
      let s := (s.pushMx i ta tb w).modMyCtx fun x => { x with fmtq := rest, popped := x.popped + 1 }
      .done (if rounds then s.countSr (fwRm w) else s) .seq

/-- A meaning that signals when its command completes. -/
def mxMeaning (reads : List Loc) (act : State → Act) : Meaning := ⟨reads, .own, act⟩

def execMma (h : Hdr) (c : BitVec 3) (t u : BitVec 4) (e f r : BitVec 1) :=
  let i := Instr.mma h c t u e f r
  runWord i h (mxMeaning [.s t.toNat, .s u.toNat] fun s =>
    let ta := s.me.sreg t.toNat
    let tb := s.me.sreg u.toNat
    s.mxPop i c.toNat ta tb (fun w => fwMma w false (r = 1) (e = 1) (f = 1)) (fun w => mmaAddrOk w ta tb) true)
def execMmas (h : Hdr) (c : BitVec 3) (t u : BitVec 4) (f r : BitVec 1) :=
  let i := Instr.mmas h c t u f r
  runWord i h (mxMeaning [.s t.toNat, .s u.toNat] fun s =>
    let ta := s.me.sreg t.toNat
    let tb := s.me.sreg u.toNat
    s.mxPop i c.toNat ta tb (fun w => fwMma w true (r = 1) false (f = 1)) (fun w => mmaAddrOk w ta tb) true)
/-- MZERO pops nothing; its accumulator lies in the frame (R279). -/
def execMzero (h : Hdr) (c : BitVec 3) :=
  let i := Instr.mzero h c
  runWord i h (mxMeaning [] fun s =>
    if 8 ≤ s.myCore.mxq.length then .stall .full s
    else if s.myTask.snap.frame < accOff (s.myCtx.view 3) c.toNat false + 4096 then .fault { code := fViewRange }
    else .done (s.pushMx i 0 0 0) .seq)
def execMldacc (h : Hdr) (c : BitVec 3) (t : BitVec 4) (r : BitVec 1) :=
  let i := Instr.mldacc h c t r
  runWord i h (mxMeaning [.s t.toNat] fun s =>
    let ta := s.me.sreg t.toNat
    s.mxPop i c.toNat ta 0 (fun w => fwLoad w (r = 1)) (fun w => accAddrOk ta (accLen (fwC w = 2))) false)
def execMstacc (h : Hdr) (c : BitVec 3) (t : BitVec 4) :=
  let i := Instr.mstacc h c t
  runWord i h (mxMeaning [.s t.toNat] fun s =>
    let ta := s.me.sreg t.toNat
    s.mxPop i c.toNat ta 0 fwStore (fun w => accAddrOk ta (128 * mxWidth (fwA w))) true)

/-- An exact sum of the column checksums (R282). -/
def Cks.colTotal (k : Cks) : XSum :=
  k.row.foldl (fun t e =>
    let x := e.2.1
    ⟨t.v.add x.v, t.nan || x.nan, t.pinf || x.pinf, t.ninf || x.ninf⟩) XSum.zero

/-- The integer that an exact whole number is. -/
def Dy.toInt (a : Dy) : Int := if 0 ≤ a.e then a.m * (2 ^ a.e.toNat : Nat) else a.m / (2 ^ (-a.e).toNat : Nat)

/-- The integer that an exact sum is: none where it is no finite whole number. -/
def XSum.whole? (x : XSum) : Option Int :=
  if x.nan || x.pinf || x.ninf then none
  else if 0 ≤ x.v.e then some x.v.toInt
  else if x.v.m % (2 ^ (-x.v.e).toNat : Nat) = 0 then some x.v.toInt else none

/-- The value MCKRD reads (R282); none where the spec states none (log 60). -/
def Cks.readout? (k : Cks) : Option Word :=
  if !k.valid then some 0xFFFFFFFFFFFFFFFF#64
  else if k.fmt = 1 then k.colTotal.whole?.map fun v => wordOfInt (v % ((2 ^ 61 - 1 : Nat) : Int))
  else some (BitVec.ofNat 64 (roundTo .fp64 .rne 0 false k.colTotal.total).1)

/-- The value MCKRD reads, a free one where the spec states none. -/
def Cks.readout (k : Cks) (free : Nat) : Word :=
  k.readout?.getD (BitVec.ofNat 64 (Config.checksumRead free % (2 ^ 61 - 1)))

/-- CIR bits of the value that MCKRD reads (R35, R147): those of its rounding to FP64. -/
def Cks.readCir (k : Cks) : Nat :=
  if k.valid && k.fmt ≠ 1 then cirOf (roundTo .fp64 .rne 0 false k.colTotal.total).2 else 0

/-- MCKRD (R282, R136): its accumulator lies in the frame. Behind a command that faulted, and so never completes (R274),
it stalls. DESIGN CHOICE (log 82): row 3 of Table 9.5 is checked before
the stall, and for the 4,096 bytes of the accumulator named, also where its state is an FP64 pair's. -/
def execMckrd (h : Hdr) (c : BitVec 3) (t : BitVec 4) :=
  runWord (.mckrd h c t) h (meaning [] fun s =>
    if s.myTask.snap.frame < accOff (s.myCtx.view 3) c.toNat false + 4096 then .fault { code := fViewRange }
    else if s.mxOf s.cur || s.myCtx.mxBad then .stall .engine s
    else .done (({ s with free := s.free + 1 }).laterN 1
      (.scal t.toNat ((s.myCtx.cksOf c.toNat).readout s.free) :: cirRes (s.myCtx.cksOf c.toNat).readCir)) .seq)
def execMdrain (h : Hdr) :=
  let i := Instr.mdrain h
  runWord i h (mxMeaning [] fun s =>
    if 8 ≤ s.myCore.mxq.length then .stall .full s else .done (s.pushMx i 0 0 0) .seq)

/-- FMTPUSH: the word enters the queue at the end of this cc (R269, R284). -/
def execFmtpush (h : Hdr) (a b : BitVec 5) :=
  runWord (.fmtpush h a b) h (meaning [.s a.toNat, .s b.toNat] fun s =>
    if 16 ≤ s.myCtx.fmtq.length + s.myCtx.fmtIn.length then .stall .full s
    else
      let w : Word := (s.me.sreg b.toNat).truncate 32 ++ (s.me.sreg a.toNat).truncate 32
      .done (s.modMyCtx fun x => { x with fmtIn := x.fmtIn ++ [w] }) .seq)

end Sys2Proof.Machine
end

