-- ==== Sys2Proof/Machine/Engines.lean ====
section
/-! DEFINITION. The EN words but FMTPUSH at issue (R287 to R291, R300 to R302, R308 to R315, R340 to R343): commands
pushed to the copy, remote and collective queues, completion tokens, results. -/

namespace Sys2Proof.Machine

/-- The queues of Table 10.2. -/
inductive EnQueue where
  | copy | remote | coll
  deriving DecidableEq, Repr

/-- Whether a queue is full (Table 10.2). -/
def Core.enFull (c : Core) : EnQueue → Bool
  | .copy => 32 ≤ c.cpq.length
  | .remote => 32 ≤ c.rmq.length
  | .coll => 8 ≤ c.coq.length

/-- What happens before a command's push, which releases to the engine (R242); with an RFENCE, also the stores of its
context (R310). -/
def State.cmdPast (s : State) (i : Instr) : List Nat :=
  s.past (.clu s.cur) ++
    match i with
    | .rfence _ => (s.accs.filter fun e => s.ofCtx s.cur e.2 && e.2.stores).map Prod.fst
    | _ => []

/-- Records a command (R287), with what happens before its push. -/
def State.pushEn (s : State) (q : EnQueue) (i : Instr) (d a b b1 : Word) : State :=
  let e : EnCmd := ⟨s.cur.ctx, s.cur.clu, i, d, a, b, b1, s.me.rmode, s.myTask, s.cmdPast i⟩
  s.modMyCore fun c =>
    match q with
    | .copy => { c with cpq := c.cpq ++ [e] }
    | .remote => { c with rmq := c.rmq ++ [e] }
    | .coll => { c with coq := c.coq ++ [e] }

/-- A word that only pushes a command; it signals when the command completes. bad: a value it refuses. -/
def enWord (q : EnQueue) (i : Instr) (reads : List Nat) (d a b b1 : State → Word) (bad : State → Option Nat) : Meaning :=
  mxMeaning (reads.map Loc.s) fun s =>
    match bad s with
    | some code => .fault { code := code }
    | none => if s.myCore.enFull q then .stall .full s else .done (s.pushEn q i (d s) (a s) (b s) (b1 s)) .seq

/-- The value of a scalar field. -/
def sval (r : BitVec 5) (s : State) : Word := s.me.sreg r.toNat
def zval (_ : State) : Word := 0

/-- Words that a protected class forbids (R184). DESIGN CHOICE (log 81): PROTECTION comes before the ILLEGAL_WORD of a
value that the word refuses; Table 3.7 gives no order. -/
def protBad (s : State) (c : Option Nat) : Option Nat := if s.myTask.cls ≠ 0 then some fProtection else c

/-- PEND(t) goes up at issue (R289). -/
def Ctx.pendUp (x : Ctx) (t : Nat) : Ctx :=
  { x with ct := tblPut x.ct t { x.ctok t with pend := (x.ctok t).pend + 1 } }

/-- CPY and CPYL (R300). -/
def copyWord (i : Instr) (t a b : BitVec 5) : Meaning :=
  mxMeaning [.s a.toNat, .s b.toNat] fun s =>
    if 15 ≤ (s.myCtx.ctok t.toNat).pend then .stall .copyTok s
    else if s.myCore.enFull .copy then .stall .full s
    else .done ((s.pushEn .copy i 0 (sval a s) (sval b s) 0).modMyCtx fun x => x.pendUp t.toNat) .seq

def execCpy (h : Hdr) (t a b : BitVec 5) := runWord (.cpy h t a b) h (copyWord (.cpy h t a b) t a b)
def execCpyl (h : Hdr) (t a b : BitVec 5) := runWord (.cpyl h t a b) h (copyWord (.cpyl h t a b) t a b)

/-- The fault of a token's status (R301). -/
def CTok.fault (k : CTok) : FaultInfo := { code := k.stat, addr := k.addr, fidx := k.fidx, eng := k.eng }

/-- The commands of a completion token have been seen to complete (R237). -/
def State.sawCopies (s : State) (t : Nat) : State := s.hand (.ctok s.cur.core s.cur.ctx t) (.clu s.cur)

/-- CPYW (R301). -/
def execCpyw (h : Hdr) (t : BitVec 5) :=
  runWord (.cpyw h t) h (meaning [] fun s =>
    let k := s.myCtx.ctok t.toNat
    if k.pend ≠ 0 then .stall .copyTok s
    else if k.stat ≠ 0 then .fault k.fault
    else .done (s.sawCopies t.toNat) .seq)

/-- CPYQ (R302). -/
def execCpyq (h : Hdr) (p : BitVec 3) (t : BitVec 5) :=
  runWord (.cpyq h p t) h (meaning [] fun s =>
    let k := s.myCtx.ctok t.toNat
    if k.pend ≠ 0 then .done (s.later 0 [.pred p.toNat false]) .seq
    else if k.stat ≠ 0 then .fault k.fault
    else .done ((s.sawCopies t.toNat).later 0 [.pred p.toNat true]) .seq)

/-- RPUT and RGET (R308): at most 2^20 bytes. -/
def lengthBad (d : BitVec 5) (s : State) : Option Nat := if 2 ^ 20 < (sval d s).toNat then some fIllegalWord else none
def execRput (h : Hdr) (d a b : BitVec 5) :=
  runWord (.rput h d a b) h (enWord .remote (.rput h d a b) [d.toNat, a.toNat, b.toNat] (sval d) (sval a) (sval b) zval
    fun s => protBad s (lengthBad d s))
def execRget (h : Hdr) (d a b : BitVec 5) :=
  runWord (.rget h d a b) h (enWord .remote (.rget h d a b) [d.toNat, a.toNat, b.toNat] (sval d) (sval a) (sval b) zval
    (lengthBad d))
/-- RATOM (R309); for CAS the new value is in the scalar after B. -/
def execRatom (h : Hdr) (z : BitVec 1) (o : BitVec 3) (a b : BitVec 5) :=
  runWord (.ratom h z o a b) h (enWord .remote (.ratom h z o a b)
    ([a.toNat, b.toNat] ++ (if o = 4 then [b.toNat + 1] else [])) zval (sval a) (sval b) (sval (b + 1))
    fun s => protBad s none)
def execRfence (h : Hdr) := runWord (.rfence h) h (enWord .remote (.rfence h) [] zval zval zval zval fun _ => none)
/-- CRED and CBCAST (R313). -/
def execCred (h : Hdr) (o : BitVec 2) (a : BitVec 5) :=
  runWord (.cred h o a) h (enWord .coll (.cred h o a) [a.toNat] zval (sval a) zval zval fun s => protBad s none)
def execCbcast (h : Hdr) (a : BitVec 5) :=
  runWord (.cbcast h a) h (enWord .coll (.cbcast h a) [a.toNat] zval (sval a) zval zval fun s => protBad s none)
/-- TASKQ (R315): its queue exists and belongs to the partition. -/
def execTaskq (h : Hdr) (a b : BitVec 5) :=
  runWord (.taskq h a b) h (enWord .remote (.taskq h a b) [a.toNat, b.toNat] zval (sval a) (sval b) zval
    fun s => protBad s (
      let q := (sval b s).toNat
      if 63 < q then some fIllegalWord
      else if (s.tq q).part = some s.myTask.part then none else some fProtection))
/-- LAUNCH (R341). -/
def execLaunch (h : Hdr) (a : BitVec 5) :=
  runWord (.launch h a) h (enWord .remote (.launch h a) [a.toNat] zval (sval a) zval zval fun s => protBad s none)
/-- ALMLD and ALMCLR (R340). -/
def execAlmld (h : Hdr) (a b : BitVec 5) :=
  runWord (.almld h a b) h (enWord .remote (.almld h a b) [a.toNat, b.toNat] zval (sval a) (sval b) zval
    fun s => protBad s (
      let n := (sval b s).toNat
      if n = 0 || 4096 < n then some fIllegalWord else none))
def execAlmclr (h : Hdr) :=
  runWord (.almclr h) h (enWord .remote (.almclr h) [] zval zval zval zval fun s => protBad s none)
/-- CBLD (R343). -/
def execCbld (h : Hdr) (a : BitVec 5) :=
  runWord (.cbld h a) h (enWord .copy (.cbld h a) [a.toNat] zval (sval a) zval zval fun _ => none)

/-- ERES pops a result, which acquires, or raises its status (R237, R311). -/
def execEres (h : Hdr) (d : BitVec 5) (f : BitVec 2) :=
  runWord (.eres h d f) h (meaning [] fun s =>
    let x := s.myCtx
    match (if f = 0 then x.remF else x.colF) with
    | [] => .stall .fifo s
    | e :: r =>
      if e.stat ≠ 0 then .fault { code := e.stat, addr := e.addr, eng := e.eng }
      else
        let s := s.modMyCtx fun x => if f = 0 then { x with remF := r } else { x with colF := r }
        let s := s.teach e.past (.clu s.cur)
        .done (s.later 0 [.scal d.toNat e.v]) .seq)

end Sys2Proof.Machine
end

