-- ==== Sys2Proof/Machine/Global.lean ====
section
/-! DEFINITION. The AC unit on global memory (R198 to R201, R216, R217, R219, R220, R228, R229): translation at issue,
loads by the direct and the general path, stores, prefetch, atomics. -/

namespace Sys2Proof.Machine

/-- Translation at issue (R200): a fault, a stall for a page walk, or the system address and W. -/
inductive Tr where
  | fault
  | wait (s : State)
  | ok (sa : Nat) (w : Bool)

def State.translateAc (s : State) (va : Word) : Tr :=
  let t := s.myTask
  if 2 ^ 57 ≤ va.toNat then .fault
  else match tlbFind s.myCore.tlb t.part va.toNat with
  | some e => let (sa, w) := s.leafAddr t e va.toNat; .ok sa w
  | none =>
    if s.myCore.walkBad.contains (t.part, va.toNat / 65536) then .fault
    else
      let s := if s.me.asked then s else s.perf s.cur.core 19 s.cur.ctx none 1
      .wait (s.modMe fun c => { c with asked := true, answer := some va })

/-- Goes on with the system address and W of a global word (R200). -/
def State.withAddr (s : State) (va : Word) (f : Nat → Bool → Act) : Act :=
  match s.translateAc va with
  | .fault => .fault { code := fTranslation, addr := va }
  | .wait s => .stall .tlb s
  | .ok sa w => f sa w

/-- A plain access to a row of the device's own shared array (R250, R252). -/
def State.shaCheck (s : State) (sa : Nat) (store : Bool) : Option State :=
  if saLevel sa = 1 && saDev sa = s.devId then
    (if store then s.plainStore s.cur.core (shaKey sa) (sa / 64) false else s.plain s.cur.core (shaKey sa) false false)
  else some s

/-- Whether a load takes the direct path: its address lies in the home stack of the die (R217). -/
def State.isDirect (s : State) (sa : Nat) : Bool :=
  saLevel sa = 0 && saDev sa = s.devId && bitsN (saOff sa) 36 4 = Config.homeStack s.form (dieOf s.cur.core)

/-- The first of the occurrences that start at cc s, s + 64, … that no request has used. -/
def nextFree (p : Nat) (used : List Nat) : Nat → Nat → Nat
  | 0, s => s
  | n + 1, s => if used.contains (p * 2 ^ 64 + s) then nextFree p used n (s + 64) else s

/-- For a request of a core on pseudo-channel p issued in cc t (R217): the cc in which it is served, and the first cc
of the slot occurrence that serves it. -/
def slotStart (core p t : Nat) (used : List Nat) : Nat × Nat :=
  let off := (t + 64 - 2 * ((core + 2 * p) % 32)) % 64
  if off ≤ 1 && !used.contains (p * 2 ^ 64 + (t - off)) then (t, t - off)
  else
    let s := nextFree p used (used.length + 1) (t + 64 - off)
    (s, s)

/-- A contained entry of the row, as a load takes it with it (R316). -/
def State.containedRow (s : State) (sa : Nat) : Option CRow :=
  if s.myTask.cls = 0 then none
  else (s.inst? s.myTask).bind fun i => i.rows.find? fun r => r.sa = sa / 64 * 64

/-- A global load of n rows (R228, R217): rows take their place at issue. -/
def State.globalLoad (s : State) (h : Hdr) (md : Option ModF) (q code : Nat) (a b : BitVec 5) : Act :=
  let n := loadRows code
  let va := s.me.areg a.toNat
  if !roomRows (s.myCtx.lrows q) n then .stall .queue s
  else s.withAddr va fun sa0 _ =>
    let sa := sa0 / 64 * 64
    match s.shaCheck sa false with
    | none => .fault (s.raceAt (shaKey sa) va)
    | some s =>
      let cont := s.containedRow sa
      let (s, ids) := s.reserveLq s.cur q n
      let f := s.fillOf md q code ids cont
      let t := s.myTask
      let i := s.accNext
      let acc (k : AccKind) (sig : BitVec 2) : Acc :=
        { who := s.cur, va := va.toNat, sa := sa, kind := k, passed := false, task := t, sig := sig, live := true, sent := false,
          iss := s.me.sc }
      let sig1 (s : State) : State :=
        if h.sig = 0 then s else s.modMe fun c => { c with sigs := c.sigs ++ [(c.sc, h.sig, c.sc)] }
      let s :=
        if s.isDirect sa then
          let d := dieOf s.cur.core
          let p := bitsN (saOff sa) 6 6
          let now := (s.die d).dcc
          let (st, start) := slotStart (s.cur.core % 16) p now s.myCore.used
          let own : Bool := st = now
          let s := (s.perfMe (if own then 15 else 16)).modMyCore fun c =>
            { c with used := (p * 2 ^ 64 + start) :: c.used.filter fun u => now ≤ u % 2 ^ 64 + 64 }
          let s := s.addAcc (acc (.direct f st) h.sig)
          if own then s.serveSlot i (acc (.direct f st) h.sig) f st else s
        else if saLevel sa = 1 && saDev sa = s.devId then
          let (s, d, p) := ((s.perfCtx 17).loadCell s.cur (sa / 64)).sysRead sa t.tag
          let (rows, cir) := f.serve d p
          sig1 (s.addAcc (acc (.served q rows cir none) 0))
        else sig1 ((s.perfCtx 17).addAcc (acc (.load f) 0))
      .done ((if code = 8 then s else s.countSr (effCode md 0)).later 0 (s.me.post a b)) .seq

/-- A meaning that makes its own SIG push. -/
def meaningOwn (reads : List Loc) (act : State → Act) : Meaning := ⟨reads, .own, act⟩

def execLdg (h : Hdr) (q : BitVec 2) (a b : BitVec 5) :=
  runWord (.ldg h q a b) h (meaningOwn (updLocs a b) fun s => s.globalLoad h none q.toNat 8 a b)
def execLdgx (h : Hdr) (md : Option ModF) (c : BitVec 3) (q : BitVec 2) (a b : BitVec 5) :=
  runWord (.ldgx h md c q a b) h (meaningOwn (updLocs a b) fun s => s.globalLoad h md q.toNat c.toNat a b)

/-- A global store of one row (R201, R228): contained in SIG and DUP outside the renamed tiles (R184, R316), at once
into the shared array, else in flight. -/
def State.globalStore (s : State) (va : Word) (data : Nat) (stallTo : State) (f : State → Act) : Act :=
  s.withAddr va fun sa0 w =>
    let sa := sa0 / 64 * 64
    let t := s.myTask
    let row := va.toNat / 64 * 64
    let f (s : State) : Act := f (s.signStore t row 64 data)
    if !w || s.inCode t row 64 then .fault { code := fProtection, addr := va }
    else if t.cls ≠ 0 && !s.inRenamed t row then
      match s.contain t sa row fullMask data 0 with
      | .ok s => f s
      | .full => .fault { code := fContainFull, addr := va }
      | .shortage => .stall .contain stallTo
    else match s.shaCheck sa true with
    | none => .fault (s.raceAt (shaKey sa) va)
    | some s =>
      let s := s.perfCtx 17
      if saLevel sa = 1 && saDev sa = s.devId then f ((s.storeCell s.cur (sa / 64)).sysWrite sa fullMask data 0 t.tag)
      else
        f ((s.afterFences s.cur s.accNext).addAcc
                    { who := s.cur, va := va.toNat, sa := sa, kind := .store data, passed := false, task := t,
                      sig := 0, live := true, sent := false })

/-- A stall of the inner word with the outer state, pops undone; a page walk stays asked for. -/
def keepQueues (s : State) : Act → Act
  | .stall .tlb s' => .stall .tlb (s'.modMyCtx fun x => { x with sq := s.myCtx.sq })
  | a => a

def execStg (h : Hdr) (q : BitVec 2) (a b : BitVec 5) :=
  runWord (.stg h q a b) h (meaning (updLocs a b) fun s =>
    match s.popStore q.toNat 1 with
    | none => .stall .queue s
    | some (s', rows) =>
      keepQueues s (s'.globalStore (s.me.areg a.toNat) (rows.getD 0 0) s fun s =>
        .done (s.later 0 (s.me.post a b)) .seq))
def execStgx (h : Hdr) (md : Option ModF) (c : BitVec 3) (q : BitVec 2) (a b : BitVec 5) :=
  runWord (.stgx h md c q a b) h (meaning (updLocs a b) fun s =>
    match s.popStore q.toNat (storeRows c.toNat) with
    | none => .stall .queue s
    | some (s', rows) =>
      let cl := s.me
      let code := effCode md 0
      let (data, es) := storeConv c.toNat (rndOf code cl.rmode) (satOf md) (srBits cl.seed cl.stream cl.ctr) rows
      keepQueues s (s'.globalStore (cl.areg a.toNat) data s fun s =>
        .done (((s.countSr code).laterN 1 (cirRes (cirAll es))).later 0 (s.me.post a b)) .seq))

/-- PFG fills the core TLB and never faults (R228). DESIGN CHOICE (log 59): one that finds no mapping still performs its
post-update. -/
def execPfg (h : Hdr) (a b : BitVec 5) :=
  runWord (.pfg h a b) h (meaning (updLocs a b) fun s =>
    let va := s.me.areg a.toNat
    match s.translateAc va with
    | .wait s => .stall .tlb s
    | _ =>
      let s := s.modMyCore fun c =>
        { c with walkBad := c.walkBad.filter (· ≠ (s.myTask.part, va.toNat / 65536)) }
      .done (s.later 0 (s.me.post a b)) .seq)

/-- Whether a row is open for another core (R251). -/
def State.openElsewhere (s : State) (sa : Nat) : Bool := saLevel sa = 1 && s.openFor s.cur.core (shaKey sa)

/-- ATOMG and CASG (R229): forbidden in SIG and DUP (R184), on read-only pages, in the code range and on peers
(R201); a releasing one waits first (R238); then the cluster is blocked until the old value returns. Whoever reads its
value acquires from a releasing one (R239). -/
def State.atomic (s : State) (z : BitVec 1) (ord scp : BitVec 2) (va : Word) (op : Nat) (v new : Word) (sd : Nat) : Act :=
  s.guarded (s.withAddr va fun sa w =>
    let n := if z = 1 then 8 else 4
    if !w || saDev sa ≠ s.devId || s.inCode s.myTask (va.toNat / n * n) n then .fault { code := fProtection, addr := va }
    else if s.openElsewhere sa then .fault (s.raceAt (shaKey sa) va)
    else match (if ord.getLsbD 1 then s.release s.cur scp.toNat else some s) with
    | none => .stall .fence s
    | some s =>
      let acc : Acc := { who := s.cur, va := va.toNat, sa := sa, kind := .atom op (z = 1) v new sd, passed := false,
                         task := s.myTask, sig := 0, live := true, sent := false,
                         acq := if ord.getLsbD 0 then some scp.toNat else none }
      let s := if ord.getLsbD 1 then s.hand (.clu s.cur) (.acc s.accNext scp.toNat) else s
      let s := s.afterFences s.cur s.accNext
      .done (((s.perfCtx 17).addAcc acc).modMe fun c => { c with blocked := true }) .seq)

def execAtomg (h : Hdr) (o : BitVec 3) (z : BitVec 1) (r c : BitVec 2) (sd : BitVec 4) (x : BitVec 3) :=
  runWord (.atomg h o z r c sd x) h (meaning [.s sd.toNat, .a x.toNat] fun s =>
    s.atomic z r c (s.me.areg x.toNat) o.toNat (s.me.sreg sd.toNat) 0 sd.toNat)
def execCasg (h : Hdr) (z : BitVec 1) (r c : BitVec 2) (sd : BitVec 4) (x : BitVec 3) :=
  runWord (.casg h z r c sd x) h (meaning [.s sd.toNat, .s (sd.toNat + 1), .a x.toNat] fun s =>
    s.atomic z r c (s.me.areg x.toNat) 7 (s.me.sreg sd.toNat) (s.me.sreg (sd.toNat + 1)) sd.toNat)

end Sys2Proof.Machine
end

