-- ==== Sys2Proof/Machine/Image.lean ====
section
/-! DEFINITION. Saved context images (R381 to R387): their layout (Table 13.3), dump entries (Tables 13.4, 13.5), writing
and reading them, placing a saved context (R383, R390) and putting dumped results back (R387, R391). -/

namespace Sys2Proof.Machine

/-- Fields of a unit selector (R389): core number, context, unit. -/
def selCore (u : Word) : Nat := 16 * bitsN u.toNat 0 4 + bitsN u.toNat 4 4
def selCtx (u : Word) : Nat := bitsN u.toNat 8 2
def selUnit (u : Word) : Nat := bitsN u.toNat 10 3

/-- Where an image lies: at a local address of a task on a core (R292, R390), or in a stop area (R385). -/
inductive ImgAt where
  | loc (n : Nat) (t : Task) (a : Nat)
  | sys (a : Nat)
  deriving DecidableEq, Repr

/-- Row i of an image. -/
def State.imgRow (s : State) : ImgAt → Nat → State × Nat
  | .sys a, i => let (s, d, _) := s.sysRead (a + 64 * i) 0; (s, d)
  | .loc n t a, i =>
    if a ≥ 2 ^ 63 then let (s, d, _) := s.spmRead n (a % 2 ^ 20 + 64 * i) t.tag; (s, d)
    else match s.translate n t (a + 64 * i) with
    | (s, none) => (s, 0)
    | (s, some (sa, _)) => let (s, d, _) := s.sysRead sa t.tag; (s, d)

def State.imgPut (s : State) (at_ : ImgAt) (i row : Nat) : State :=
  match at_ with
  | .sys a => s.sysWrite (a + 64 * i) fullMask row 0 0
  | .loc n t a =>
    if a ≥ 2 ^ 63 then s.spmWrite n (a % 2 ^ 20 + 64 * i) fullMask row 0
    else match s.translate n t (a + 64 * i) with
    | (s, none) => s
    | (s, some (sa, _)) => s.sysWrite sa fullMask row 0 t.tag

/-- Rows of an image from row i on, as a number. -/
def imgRows (at_ : ImgAt) : Nat → State → Nat → State × Nat
  | 0, s, _ => (s, 0)
  | n + 1, s, i =>
    let (s, d) := s.imgRow at_ i
    let (s, r) := imgRows at_ n s (i + 1)
    (s, d + r <<< 512)

/-- Writes the 3,072 rows of an image. -/
def State.putImage (s : State) (at_ : ImgAt) (v : Nat) : State :=
  (List.range 3072).foldl (fun s i => s.imgPut at_ i (bitsN v (512 * i) 512)) s

/-- The fault of one of the pages of an image, if it cannot be read, or written, by a task of a core. -/
def imgPages (n : Nat) (t : Task) (a : Nat) (write : Bool) : List Nat → State → State × Option Nat
  | [], s => (s, none)
  | o :: r, s =>
    match s.translate n t (a + o) with
    | (s, none) => (s, some fTranslation)
    | (s, some (sa, w)) =>
      if saDev sa ≠ s.devId then (s, some fTranslation) else if write && !w then (s, some fProtection)
      else imgPages n t a write r s

/-- Whether every page of an image can be read, or written, by a task of a core (R292, R390): the fault otherwise. -/
def State.imgFault (s : State) (n : Nat) (t : Task) (a : Nat) (write : Bool) : State × Option Nat :=
  if a ≥ 2 ^ 63 then (s, if 2 ^ 20 < a % 2 ^ 63 + 196608 then some fTranslation else none)
  else imgPages n t a write [0, 65536, 131072] s

/-- Performs what a core has stored to rows, given as runs of places, and says whether all of it could be (R233). -/
def settleRuns (n : Nat) : List (Nat × Nat) → State → State × Bool
  | [], s => (s, true)
  | (b, k) :: r, s =>
    let l := (s.accs.map fun e => e.2.place).filter fun p => b ≤ p && p < b + k
    let s := l.foldl (fun s p => s.performOlder s.accNext n p) s
    if l.any fun p => s.olderLeft s.accNext n p then (s, false) else settleRuns n r s

/-- A read of an image at a local address follows the stores of its core to it (R233). -/
def State.imgSettle (s : State) (n : Nat) (t : Task) (a : Nat) : State × Bool :=
  if a ≥ 2 ^ 63 then settleRuns n [(2 ^ 64 + spmKey n a, 3072)] s
  else
    let (s, l) := [0, 65536, 131072].foldl (fun ((s, l) : State × List (Nat × Nat)) o =>
      match s.translate n t (a + o) with
      | (s, none) => (s, l)
      | (s, some (sa, _)) => (s, l ++ [(sa / 64, 1024)])) (s, [])
    settleRuns n l s

/-- Kind, number, payload bytes and frame offset of a result that a dump entry can hold (Table 13.5). -/
structure DumpItem where
  kind : Nat
  num : Nat
  len : Nat
  off : Nat
  payload : Nat
  deriving DecidableEq, Repr

/-- Runs of bytes that a bit mask touches: offset, length. -/
def touchedRuns : Nat → Nat → Nat → List (Nat × Nat)
  | 0, _, _ => []
  | n + 1, m, o =>
    let rest := touchedRuns n (m / 256) (o + 1)
    if m % 256 = 0 then rest
    else match rest with
      | (a, k) :: r => if a = o + 1 then (o, k + 1) :: r else (o, 1) :: rest
      | [] => [(o, 1)]

/-- A result as dump entries, each with the bits of its payload that the result writes where it writes a part of them;
none for one that the entries cannot hold (Res.dumps), which the state block keeps (log 13). -/
def State.dumpOf (s : State) (k : Who) : Res → Option (List (DumpItem × Option Nat))
  | .scal r v => some [(⟨0, r, 8, 0, v.toNat⟩, none)]
  | .pred p v => some [(⟨1, p, 1, 0, if v then 1 else 0⟩, none)]
  | .frame off n v m =>
    let fo := (s.ctxOf k).fo
    let old := (s.core k.core).frame.readN (fo + off) n
    let full := (old &&& (2 ^ (8 * n) - 1 - m)) ||| (v &&& m)
    some ((touchedRuns n m 0).map fun (o, l) =>
      (⟨2, 0, l, off + o, bitsN full (8 * o) (8 * l)⟩, some (bitsN m (8 * o) (8 * l))))
  | .lrow q _ d _ => some [(⟨3, q, 64, 0, d⟩, none)]
  | .srow q _ d => some [(⟨3, 4 + q, 64, 0, d⟩, none)]
  | .areg n v => some [(⟨4, n, 8, 0, v.toNat⟩, none)]
  | .spec n v => if n < 0x100 then some [(⟨5, n % 32, 8, 0, v.toNat⟩, none)] else none
  | .mask n v m => some [(⟨6, n, 128, 0, ((s.clu k).mask n &&& (2 ^ 1024 - 1 - m)) ||| (v &&& m)⟩, some m)]
  | _ => none

/-- An entry in bytes: two header words, then the payload, padded to 16 bytes (Table 13.4, log 13). -/
def DumpItem.encode (d : DumpItem) (clu remain : Nat) (cc : Bool) : Nat × Nat :=
  let w := d.kind + clu * 8 + d.num * 32 + (if cc then 1024 else 0) + d.len * 2 ^ 16 + remain % 2 ^ 32 * 2 ^ 32
  (w + d.off * 2 ^ 64 + d.payload * 2 ^ 128, 16 + 16 * ceilDiv d.len 16)

/-- Entries one after the other: the bytes. -/
def packDump : List (Nat × Nat) → Nat
  | [] => 0
  | (v, n) :: r => v + packDump r <<< (8 * n)

/-- An entry with what has no field in it. -/
abbrev Dumped := (Nat × Nat) × Marks

/-- Bits that an entry writes as it is put back: those of the result in flight, with any in which the payload has been
edited since; all of them where nothing says more. -/
def DumpItem.bits (d : DumpItem) (m : Marks) : Nat :=
  let all := 2 ^ (8 * d.len) - 1
  match m.part with
  | none => all
  | some (b, v) =>
    let x := v ^^^ (d.encode 0 0 false).1
    if x % 2 ^ 128 = 0 then b ||| x >>> 128 else all

/-- Splits the delay line of a cluster: dump entries, and the flights that stay. -/
def State.dumpClu (s : State) (k : Who) : List Dumped × List Flight :=
  let c := s.clu k
  c.dl.foldl (fun (es, fs) f =>
    let remain := Nat.max 1 (f.vis - c.sc)
    let keep := f.res.filter fun r => (s.dumpOf k r).isNone
    let pois (r : Res) : Nat := match r with | .lrow _ _ _ p => p | _ => 0
    let items : List Dumped := f.res.flatMap fun r =>
      ((s.dumpOf k r).getD []).map fun (d, m) =>
        (d.encode k.clu.num remain false, { pois := pois r, part := m.map fun b => (b, (d.encode 0 0 false).1) })
    (es ++ items, if keep.isEmpty then fs else fs ++ [{ f with res := keep }]))
    ([], [])

def cluList : List Clu := [.c, .a, .v, .m]

/-- Class-12 rows in flight to a context (R386): the key of the access, and its rows as dump entries, with the cc they
were still to take at the stop. The CIR bits and the push of the access go with its first row. -/
def State.rowsComing (s : State) (k : Who) : List (Nat × List Dumped) :=
  let cc := (s.ctxOf k).stopCc
  s.accs.filterMap fun (i, a) =>
    if s.ofCtx k a then
      match a.kind with
      | .served q rows cir (some t) =>
        some (i, rows.zipIdx.map fun ((_, d, p), j) =>
          ((⟨3, q, 64, 0, d⟩ : DumpItem).encode a.who.clu.num (Nat.max 1 (t - cc)) true, if j = 0 then { pois := p, cir := cir, sig := a.sig } else { pois := p }))
      | _ => none
    else none

/-- Puts a slot among slots in order of age, the oldest first. -/
def Land.among (l : Land) : List Land → List Land
  | [] => [l]
  | x :: r => if l.age < x.age then l :: x :: r else x :: l.among r

/-- Landing slots that a context holds, in token order, and of one token the oldest first (R150). -/
def Core.landsOf (c : Core) (x : Nat) : List Land :=
  (List.range 32).flatMap fun t =>
    ((c.land.map Prod.snd).filter fun l => l.ctx = x && l.tok = t).foldl (fun r l => l.among r) []

/-- Writes a context's image and dump (R382, R385): the results that the entries hold leave the delay lines. -/
def State.writeImage (s : State) (k : Who) (at_ : ImgAt) : State :=
  let x := s.ctxOf k
  let c := s.core k.core
  match x.task with
  | none => s
  | some t =>
    let wc := ((s.inst? t).map fun i => i.wc).getD 0
    let coming := s.rowsComing k
    let lines := cluList.map fun u => (u, s.dumpClu { k with clu := u })
    let es := lines.flatMap (fun l => l.2.1) ++ coming.flatMap Prod.snd
    let s := lines.foldl (fun s (u, _, fs) => s.modClu { k with clu := u } fun c => { c with dl := fs }) s
    let s := s.keepAccs fun e => !coming.any fun y => y.1 = e.1
    let lands := c.landsOf k.ctx
    let id := s.blocks.length
    let s : State := { s with blocks := tblPut s.blocks id ⟨s.ctxOf k, wc, lands, t.kidx, es.map Prod.snd⟩ }
    let f := if t.snap.frame = 16384 then 0 else if t.snap.frame = 32768 then 1 else 2
    let head := 0x58415443 + Config.cfgid s.form * 2 ^ 64 + t.tid.toNat * 2 ^ 128 +
      (t.part + f * 16 + t.kidx * 64) * 2 ^ 192 + wc * 2 ^ 256 + es.length * 2 ^ 320
    let queue (l : List QRow) : Nat := packElems 512 ((l.take 64).map fun r => if r.filled then r.data else 0)
    let queues := packElems 32768 ((List.range 4).map (fun q => queue (x.lrows q)) ++ (List.range 4).map fun q => queue (x.srows q))
    let slots := packElems 32768 ((lands.take 8).map fun l => l.data)
    s.putImage at_ (head + id <<< 512 + (packDump (es.map Prod.fst) % 2 ^ 262144) <<< (8 * 0x8000) +
      c.frame.readN x.fo t.snap.frame <<< (8 * 0x10000) + queues <<< (8 * 0x20000) + slots <<< (8 * 0x28000))

/-- A dump entry read back, with the marks that the state block holds for it; bad: a reserved KIND, or a reserved bit of
its header that is not zero (R4). -/
structure DumpEntry where
  item : DumpItem
  clu : Clu
  remain : Nat
  cc : Bool
  cancel : Bool
  bad : Bool
  marks : Marks
  deriving DecidableEq, Repr

/-- Reads n entries. -/
def parseDump : Nat → Nat → List Marks → List DumpEntry
  | 0, _, _ => []
  | n + 1, v, ms =>
    let len := bitsN v 16 16
    { item := ⟨bitsN v 0 3, bitsN v 5 5, len, bitsN v 64 16, bitsN v 128 (8 * len)⟩, clu := Clu.at (bitsN v 3 2),
      remain := bitsN v 32 32, cc := bitN v 10, cancel := bitN v 11, bad := bitsN v 0 3 = 7 || bitsN v 12 4 ≠ 0,
      marks := ms.headD {} } :: parseDump n (v >>> (8 * (16 + 16 * ceilDiv len 16))) (ms.drop 1)

/-- The entries of an image. -/
def imgDump (v : Nat) (ms : List Marks) : List DumpEntry :=
  parseDump (bitsN v 320 64) (bitsN v (8 * 0x8000) 262144) ms

/-- The first unfilled row of a queue beyond those taken already. -/
def unfilled (l : List QRow) (taken : Nat) : Option Nat := ((l.filter fun r => !r.filled).drop taken).head?.map fun r => r.id

/-- Puts an entry back: a result in the delay line of its cluster, or a row still to arrive (R387), counted from the
stop of a debug-stopped context, else from now. taken: how many rows of each queue have been claimed by entries before
it. DESIGN CHOICE (log 95): an edited entry with REMAIN 0 counts as one with REMAIN 1, and one whose NUM names no
queue is dropped: R387 gives no status for them. -/
def State.putBack (k : Who) (st : State × Tbl Nat) (e : DumpEntry) : State × Tbl Nat :=
  let (s, taken) := st
  let k : Who := { k with clu := e.clu }
  let d := e.item
  let x := s.ctxOf k
  let ⟨pois, cir, sig, _⟩ := e.marks
  let fly (r : Res) : State := s.modClu k fun c =>
    { c with dl := c.dl ++ [⟨c.sc + Nat.max 1 e.remain, c.sc + Nat.max 1 e.remain, [r], 31⟩] }
  match d.kind with
  | 0 => (fly (.scal d.num (BitVec.ofNat 64 d.payload)), taken)
  | 1 => (fly (.pred d.num (bitN d.payload 0)), taken)
  | 2 => (fly (.frame d.off d.len d.payload (d.bits e.marks)), taken)
  | 3 =>
    let n := tblGet 0 taken d.num
    let taken := tblPut taken d.num (n + 1)
    if 4 ≤ d.num then
      match unfilled (x.srows (d.num - 4)) n with
      | some id => (fly (.srow (d.num - 4) id d.payload), taken)
      | none => (s, taken)
    else match unfilled (x.lrows d.num) n with
      | none => (s, taken)
      | some id =>
        if e.cc then
          let t := (if x.frozen then x.stopCc else (s.die (dieOf k.core)).dcc) + Nat.max 1 e.remain
          (s.addAcc { who := k, va := 0, sa := 0, kind := .served d.num [(id, d.payload, pois)] cir (some t), passed := true,
                      task := s.taskOf k, sig := sig, live := true, sent := false }, taken)
        else (fly (.lrow d.num id d.payload pois), taken)
  | 4 => (fly (.areg d.num (BitVec.ofNat 64 d.payload)), taken)
  | 5 => (fly (.spec d.num (BitVec.ofNat 64 d.payload)), taken)
  | 6 => (fly (.mask d.num d.payload (d.bits e.marks)), taken)
  | _ => (s, taken)

def State.putDump (s : State) (k : Who) (l : List DumpEntry) : State := (l.foldl (State.putBack k) (s, [])).1

/-- Rows of a queue with the bytes an image gives them. -/
def imgQueue (v : Nat) : List QRow → Nat → List QRow
  | [], _ => []
  | r :: l, i => (if r.filled then { r with data := bitsN v (512 * i) 512 } else r) :: imgQueue v l (i + 1)

/-- A saved context as its image gives it: frame offset and task are the caller's (R383, R387). -/
def Ctx.ofImage (b : Saved) (v : Nat) : Ctx :=
  let q (i : Nat) : Nat := bitsN v (8 * (0x20000 + 4096 * i)) 32768
  { b.ctx with
      lq := (List.range 4).map fun i => (i, imgQueue (q i) (b.ctx.lrows i) 0),
      sq := (List.range 4).map fun i => (i, imgQueue (q (4 + i)) (b.ctx.srows i) 0) }

/-- A trapped cluster goes on from its trap point (R383): a drained LOOPP is entered again. -/
def Cluster.resume (c : Cluster) : Cluster :=
  (if c.run = .trapped then { c with run := .run, stop := StopRec.zero } else c).reenter

/-- The lowest free context of a core, and the lowest frame origin that fits (R131). -/
def Core.freePlace (c : Core) (f : Nat) : Option (Nat × Nat) :=
  match (List.range 4).find? fun x => (c.ctx x).task.isNone, ((List.range 4).map fun i => 16384 * i).find? fun fo => c.frameFree fo f with
  | some x, some fo => some (x, fo)
  | _, _ => none

/-- Free landing slots of a core. -/
def Core.freeSlots (c : Core) : List Nat := (List.range 8).filter fun i => (tblFind c.land i).isNone

/-- Puts landing slots of an image into slots of a core (R383). -/
def Core.putLands (c : Core) (x : Nat) (v : Nat) (l : List Land) : Core :=
  (l.zipIdx.zip c.freeSlots).foldl (fun c e =>
    let slot : Land := { e.1.1 with ctx := x, data := bitsN v (8 * (0x28000 + 4096 * e.1.2)) 32768, age := c.age }
    let c1 : Core := { c with land := tblPut c.land e.2 slot, age := c.age + 1 }
    c1) c

/-- Whether an image's header is what R382 gives, with no reserved value (R4), on a core whose die belongs to its
partition. -/
def State.imgHead (s : State) (n v : Nat) (b : Saved) : Bool :=
  match b.ctx.task with
  | none => false
  | some t =>
    let p := bitsN v 192 4
    bitsN v 0 64 = 0x58415443 && bitsN v 64 64 = Config.cfgid s.form && (s.part p).dies.contains (dieOf n) && p = t.part &&
    t.tid.toNat = bitsN v 128 64 && bitsN v 196 2 ≠ 3 && bitsN v 210 46 = 0 && bitsN v 384 128 = 0

/-- Whether an image can be loaded (R383, R390): no entry of its dump holds a reserved value either (R4). -/
def State.imgOk (s : State) (n v : Nat) (b : Saved) : Bool := s.imgHead n v b && !((imgDump v b.marks).any DumpEntry.bad)

/-- Puts a saved context on context x of a core, with its frame at fo (R383). -/
def State.placeImage (s : State) (n x fo v : Nat) (b : Saved) (t : Task) : State :=
  let f := t.snap.frame
  let k : Who := ⟨n, x, .c⟩
  let c0 := Ctx.ofImage b v
  let us : Tbl Cluster := cluList.map fun u => (u.num, (c0.clu u).resume)
  let c1 : Ctx := { c0 with fo := fo, preempt := false, frozen := false, dumped := false, fetch := none, clus := us }
  let s := s.modCore n fun c =>
    let old : Mem := c.frame.filter fun y => y.1 < fo || fo + f ≤ y.1
    let m := old.writeN fo f (bitsN v (8 * 0x10000) (8 * f))
    let c : Core := { c with frame := m, ctxs := tblPut c.ctxs x c1 }
    c.putLands x v b.lands
  let s := s.putDump k (imgDump v b.marks)
  (s.modInst t fun i => { i with core := n, ctx := x, wc := bitsN v 256 64 }).autoSlots n

/-- Places a saved context on a core (R383, R390): status, and the context taken. -/
def State.loadImage (s : State) (n : Nat) (at_ : ImgAt) : State × Nat :=
  let (s, v) := imgRows at_ 3072 s 0
  match tblFind s.blocks (bitsN v 512 64) with
  | none => (s, 6)
  | some b =>
    if !s.imgOk n v b then (s, 6)
    else match b.ctx.task with
    | none => (s, 6)
    | some t =>
      match s.dep? t.part t.tid, s.inst? t with
      | some e, some i =>
        if !s.gone e i || i.st ≠ .running || (s.part t.part).run ≠ .running then (s, 2)
        else match (s.core n).freePlace t.snap.frame with
        | none => (s, 7)
        | some (x, fo) =>
          if (s.core n).freeSlots.length < b.lands.length then (s, 2) else (s.placeImage n x fo v b t, 256 * x)
      | _, _ => (s, 6)

/-- The C cluster that waits with a CTXSAVE of a context, and the image's address. -/
def State.saver (s : State) (n x : Nat) : Option (Who × Word) :=
  s.contexts.findSome? fun k =>
    let c := s.clu k
    if c.run = .run && c.wait = some .hub && c.asked && c.answer.isNone then
      match s.nextGroup k with
      | .ok (.ctxsave _ _ a b) =>
        if selCore (c.sreg a.toNat) = n && selCtx (c.sreg a.toNat) = x then some (k, c.sreg b.toNat) else none
      | _ => none
    else none

/-- Answers a waiting CTXSAVE. -/
def State.answerSave (s : State) (n x : Nat) (d : Word) : State :=
  match s.saver n x with
  | none => s
  | some (k, _) => s.modClu k fun c => { c with answer := some d }

/-- Whether the clusters of a context have trapped for a CTXSAVE, or had ended (R381). -/
def State.allTrapped (s : State) (k : Who) : Bool :=
  let x := s.ctxOf k
  x.preempt && cluList.all (fun u => (x.clu u).run = .trapped || (x.clu u).run = .ended || (x.clu u).run = .tailed) &&
  cluList.any (fun u => (x.clu u).run = .trapped)

/-- Whether a trapped context can be saved (R381, R285): its clusters have trapped or ended, its commands and its
reservations have drained, its stores have been performed. -/
def State.savable (s : State) (k : Who) : Bool :=
  let x := s.ctxOf k
  s.allTrapped k && s.drained k && !(s.accs.any fun (_, a) => s.ofCtx k a) && (List.range 4).all fun q => (x.lrows q).all QRow.filled

/-- Rows of load queues that a trapped context's delay lines still hold are filled (R285): no word of it issues that
could pop them. -/
def State.landRows (s : State) (k : Who) : State :=
  k.clusters.foldl (fun s k =>
    let isRow (r : Res) : Bool := match r with | .lrow .. => true | _ => false
    let l := (s.clu k).dl
    if l.any fun f => f.res.any isRow then
      l.foldl (fun s f => (f.res.filter isRow).foldl (State.land k) s) (s.modClu k fun c =>
        { c with dl := (c.dl.map fun f => { f with res := f.res.filter fun r => !isRow r }).filter fun f => !f.res.isEmpty })
    else s) s

/-- PREEMPTION_TRAP (R381): a cluster that has reached its trap point. -/
def execPreemptionTrap (k : Who) (s : State) : Host.Outcome State Fault Refusal :=
  if s.trapsNow k then .next (s.trapCluster k) else .next s

/-- SAVED_IMAGE_WRITE (R382, R390): the image is written, the waiting word releases at DEVICE scope with what happens
before it and before the saved context's stop (R237, R240), and the context is freed. -/
def execSavedImageWrite (n x : Nat) (s : State) : Host.Outcome State Fault Refusal :=
  let k : Who := ⟨n, x, .c⟩
  match s.saver n x with
  | none => .next s
  | some (r, a) =>
    if !s.allTrapped k then .next s
    else
    let s := s.landRows k
    if !s.savable k || !s.pastDone k then .next s
    else match s.release r 2 with
    | none => .next s
    | some s =>
      let s := s.writeImage k (.loc r.core (s.taskOf r) a.toNat)
      .next (((s.closeRows n).freeCtx k).modClu r fun c => { c with answer := some 0 })

/-- Base of a context's image in the stop area (R385). -/
def State.stopAddr (s : State) (k : Who) : Nat :=
  (s.part (s.taskOf k).part).stopBase + 196608 * (64 * dieOf k.core + 4 * (k.core % 16) + k.ctx)

/-- STOP_AREA_WRITE (R385): once every direct-path load of the context has been served. -/
def execStopAreaWrite (n x : Nat) (s : State) : Host.Outcome State Fault Refusal :=
  let k : Who := ⟨n, x, .c⟩
  let c := s.ctxOf k
  let coming := s.accs.any fun (_, a) => s.ofCtx k a && match a.kind with | .direct .. => true | _ => false
  if c.task.isNone || !c.frozen || c.dumped || coming then .next s
  else .next ((s.writeImage k (.sys (s.stopAddr k))).modCtx k fun c => { c with dumped := true })

/-- Loads the dump entries without CANCEL of a debug-stopped context (R387, R391): none if one has KIND 7, or a reserved
bit that is not zero (R4). -/
def State.inject (s : State) (k : Who) : State × Nat :=
  let (s, v) := imgRows (.sys (s.stopAddr k)) 1024 s 0
  let l := imgDump v ((tblFind s.blocks (bitsN v 512 64)).elim [] Saved.marks)
  if l.any DumpEntry.bad then (s, 6)
  else (s.putDump k (l.filter fun e => !e.cancel), 0)

/-- Whether a row of a load queue, or of a store queue, of a context is still on its way. -/
def State.rowPending (s : State) (k : Who) (sq : Bool) (q id : Nat) : Bool :=
  (cluList.any fun u => ((s.ctxOf k).clu u).dl.any fun f => f.res.any fun r => match r with
    | .lrow q' i _ _ => !sq && q' = q && i = id | .srow q' i _ => sq && q' = q && i = id | _ => false) ||
  (!sq && s.accs.any fun (_, a) => s.ofCtx k a && match a.kind with
    | .served q' rows _ _ => q' = q && rows.any fun r => r.1 = id | .load f => f.q = q && f.ids.contains id | _ => false) ||
  (!sq && (s.core k.core).cpRun.any fun (_, r) => r.cmd.ctx = k.ctx && r.rows.contains id &&
    match r.shape with | some h => h.q = q | none => false)

/-- The rows of a queue after a debug stop (R387): the image's bytes for those that it holds filled; for one whose
result was lost with the dump too. was: the queue as saved. -/
def resumeRows (v base : Nat) (pend : Nat → Bool) (was : List QRow) (l : List QRow) : List QRow :=
  l.zipIdx.map fun (r, i) =>
    let held : Bool := match was[i]? with | some x => x.filled | none => false
    if held then { r with data := bitsN v (8 * base + 512 * i) 512 }
    else if r.filled || pend r.id then r
    else { r with filled := true, data := bitsN v (8 * base + 512 * i) 512 }

/-- The engine records of a debug stop end with it (R372). -/
def Core.unpause (c : Core) (tid : Word) : Core :=
  { c with engStop := c.engStop.filter fun e => !(e.2.kind = 5 && e.2.task = tid) }

/-- Whether the image of every debug-stopped context of a list can be loaded (R4, R387): its header is that of the
context's task. DESIGN CHOICE (log 45): with one that is not, none goes on. -/
def resumeOk : List Who → State → State × Bool
  | [], s => (s, true)
  | k :: l, s =>
    let (s, v) := imgRows (.sys (s.stopAddr k)) 2 s 0
    match tblFind s.blocks (bitsN v 512 64) with
    | none => (s, false)
    | some b => if s.imgHead k.core v b && (match b.ctx.task with | some t => (s.ctxOf k).runs t | none => false) then resumeOk l s else (s, false)

/-- Rows that INJECT has put back come as many cc after the resumption as they were to come after the stop (R387). -/
def State.shiftRows (s : State) (k : Who) : State :=
  let by_ := (s.die (dieOf k.core)).dcc - (s.ctxOf k).stopCc
  { s with accs := s.accs.map fun (i, a) =>
      match a.kind with
      | .served q rows cir (some t) => if s.ofCtx k a then (i, { a with kind := .served q rows cir (some (t + by_)) }) else (i, a)
      | _ => (i, a) }

/-- Resumes a debug-stopped context with its image as edited (R387). What has come to the context since the image was
written stays, if the state block is still that of this stop. -/
def State.resumeCtx (s : State) (k : Who) : State :=
  let cur := s.ctxOf k
  let s := s.shiftRows k
  let (s, v) := imgRows (.sys (s.stopAddr k)) 3072 s 0
  match tblFind s.blocks (bitsN v 512 64), cur.task with
  | some b, some t =>
    let base : Ctx := if b.ctx.task = some t && b.ctx.stopCc = cur.stopCc then cur else b.ctx
    let f := t.snap.frame
    let at_ (q : Nat) : Nat := 0x20000 + 4096 * q
    let us : Tbl Cluster := cluList.map fun u =>
      (u.num, { base.clu u with dl := (cur.clu u).dl, stop := StopRec.zero })
    let lqs := base.lq.map fun (q, l) => (q, resumeRows v (at_ q) (s.rowPending k false q) (b.ctx.lrows q) l)
    let sqs := base.sq.map fun (q, l) => (q, resumeRows v (at_ (4 + q)) (s.rowPending k true q) (b.ctx.srows q) l)
    let c1 : Ctx := { base with task := some t, fo := cur.fo, frozen := false, dumped := false, preempt := false, lq := lqs, sq := sqs, clus := us }
    s.modCore k.core fun c =>
      let old : Mem := c.frame.filter fun y => y.1 < cur.fo || cur.fo + f ≤ y.1
      let m := old.writeN cur.fo f (bitsN v (8 * 0x10000) (8 * f))
      let held := (c.landsOf k.ctx).zipIdx
      let lands := c.land.map fun (i, l) =>
        let d := ((held.find? fun e => e.1 = l).map fun e => bitsN v (8 * (0x28000 + 4096 * e.2)) 32768).getD l.data
        if l.ctx = k.ctx then (i, ({ l with data := d } : Land)) else (i, l)
      let c : Core := { c with frame := m, ctxs := tblPut c.ctxs k.ctx c1, land := lands }
      c.unpause t.tid
  | _, _ => s

end Sys2Proof.Machine
end

