-- ==== Sys2Proof/Machine/System.lean ====
section
/-! DEFINITION. The SY words (R333, R335, R356, R389 to R395). Each is accepted only in C of a system context (R389,
checked by the issue of every word); one that waits is asked again until its action is done. -/

namespace Sys2Proof.Machine

/-- A status goes to d, visible to the next word (R389). -/
def syDone (d : BitVec 5) (v : Nat) (s : State) : Act := .done (s.laterN 1 [.scal d.toNat (BitVec.ofNat 64 v)]) .seq

/-- The cluster waits for the system (R389): what it asked, and a value to remember. -/
def syAsk (v : Option Word) (s : State) : Act :=
  .stall .hub (s.modMe fun c => { c with asked := true, answer := v })

/-- Whether a logical die exists (R9). -/
def State.hasDie (s : State) (d : Nat) : Bool := d < Config.dies s.form

/-- Clusters that wait with an SY word and have asked. -/
def State.asking (s : State) : List (Who × Instr) :=
  s.contexts.filterMap fun k =>
    let c := s.clu k
    if c.run = .run && c.wait = some .hub && c.asked then
      match s.nextGroup k with
      | .ok i => some (k, i)
      | _ => none
    else none

/-- Entries that SLOTW takes from s(D) to s(D + 3) (R333). -/
def Cluster.slotEntries (c : Cluster) (d : Nat) : List Nat :=
  (List.range 4).flatMap fun q => elemsOf 4 16 (c.sreg (d + q)).toNat

/-- SLOTW (R332, R333). -/
def execSlotw (h : Hdr) (d a : BitVec 5) :=
  runWord (.slotw h d a) h (meaning (.s a.toNat :: (List.range 4).map fun q => .s (d.toNat + q)) fun s =>
    let v := (s.me.sreg a.toNat).toNat
    let n := 16 * dieOf s.cur.core + v % 16
    let l := s.me.slotEntries d.toNat
    let auto := bitN v 4
    if 32 ≤ v || (!auto && !l.all fun e => e < 4 || e = 8) then .fault { code := fIllegalWord }
    else if s.me.asked then (if (s.core n).slotNext.isNone then .done s .seq else .stall .hub s)
    else syAsk none (s.modCore n fun c =>
      { c with fixed := !auto, slotNext := some (if auto then c.autoTable else l) }))

/-- Whether TLBINV takes an entry out (R335): all of the partition, or those whose page holds an address. -/
def tlbHit (p : Nat) (all : Bool) (a : Nat) (e : TlbE) : Bool := e.part = p && (all || (e.va ≤ a && a < e.va + e.size))

/-- The largest page that TLBINV takes out, as log2 of its bytes; 57 for the whole partition. -/
def State.tlbSpan (s : State) (p : Nat) (all : Bool) (a : Nat) : Nat :=
  if all then 57
  else (((s.cores.flatMap fun e => e.2.tlb) ++ s.dies.flatMap fun e => e.2.tlb).filter (tlbHit p false a)).foldl
    (fun m e => Nat.max m (Nat.log2 e.size)) 0

/-- Whether an access that a removed entry translated is still to be performed (R335), or a contained row to be
released: it was issued before access m, and lies in the span. -/
def State.tlbBusy (s : State) (p a m span : Nat) : Bool :=
  (s.accs.any fun (i, x) => i < m && x.task.part = p && (x.loads || x.stores) && x.va / 2 ^ span = a / 2 ^ span) ||
  s.deps.any fun e => e.part = p && e.insts.any fun i => i.rows.any fun r =>
    r.since < m && r.va / 2 ^ span = a / 2 ^ span

/-- Takes what TLBINV names out of every TLB; no failed walk of the partition is remembered (R335). Accesses are
numbered on from here. -/
def State.tlbClear (s : State) (p : Nat) (all : Bool) (va : Nat) : State :=
  let s := s.tlbDrop (tlbHit p all va)
  { s with accNext := s.accNext + 1,
           cores := s.cores.map fun (n, c) => (n, { c with walkBad := c.walkBad.filter fun e => e.1 ≠ p }) }

/-- TLBINV (R335). -/
def execTlbinv (h : Hdr) (a b : BitVec 5) :=
  runWord (.tlbinv h a b) h (meaning [.s a.toNat, .s b.toNat] fun s =>
    let v := (s.me.sreg b.toNat).toNat
    let va := (s.me.sreg a.toNat).toNat
    let p := bitsN v 1 4
    let all := bitN v 0
    if 32 ≤ v then .fault { code := fIllegalWord }
    else match s.me.answer with
    | some r =>
      let va := if all then 0 else va
      if s.tlbBusy p va (bitsN r.toNat 0 56) (bitsN r.toNat 56 8) then .stall .hub s else .done s .seq
    | none =>
      match s.release s.cur 2 with
      | none => .stall .fence s
      | some s =>
        let span := s.tlbSpan p all va
        let s := s.tlbClear p all va
        syAsk (some (BitVec.ofNat 64 (s.accNext + span * 2 ^ 56))) s)

/-- Fields of a unit selector that an entry does not name are zero (R389). -/
def selOk (v : Word) (named : Nat) : Bool := v.toNat &&& (2 ^ 64 - 1 - named) = 0

/-- CTXSAVE (R381, R384, R390). -/
def execCtxsave (h : Hdr) (d a b : BitVec 5) :=
  runWord (.ctxsave h d a b) h (meaning [.s a.toNat, .s b.toNat] fun s =>
    let u := s.me.sreg a.toNat
    let at_ := (s.me.sreg b.toNat).toNat
    let k : Who := ⟨selCore u, selCtx u, .c⟩
    let x := s.ctxOf k
    if !selOk u 0x3FF || at_ % 65536 ≠ 0 then .fault { code := fIllegalWord }
    else if s.me.asked then
      match s.me.answer with
      | some v => syDone d v.toNat s
      | none =>
        if x.task.isNone || !x.preempt then syDone d 5 s
        else if cluList.any fun w => (x.clu w).run = .stopped then syDone d 4 s
        else .stall .hub s
    else if !s.hasDie (dieOf k.core) || x.task.isNone then syDone d 1 s
    else if x.frozen || x.preempt || cluList.any fun w => (x.clu w).run = .stopped then syDone d 2 s
    else match s.imgFault s.cur.core s.myTask at_ true with
      | (s, some e) => .faultIn s { code := e, addr := BitVec.ofNat 64 at_ }
      | (s, none) => syAsk none (s.modCtx k fun x => { x with preempt := true }))

/-- A powered-down core is woken, and the word waits for it (R388). -/
def State.wakeFirst (s : State) (n : Nat) (f : State → Act) : Act :=
  let s := s.wakeCore n
  if (s.core n).power = .off then .stall .hub s else f s

/-- CTXLOAD (R383, R390). -/
def execCtxload (h : Hdr) (d a b : BitVec 5) :=
  runWord (.ctxload h d a b) h (meaning [.s a.toNat, .s b.toNat] fun s =>
    let u := s.me.sreg a.toNat
    let at_ := (s.me.sreg b.toNat).toNat
    let n := selCore u
    if !selOk u 0xFF || at_ % 65536 ≠ 0 then .fault { code := fIllegalWord }
    else if !s.hasDie (dieOf n) then syDone d 1 s
    else match s.imgFault s.cur.core s.myTask at_ false with
      | (s, some e) => .faultIn s { code := e, addr := BitVec.ofNat 64 at_ }
      | (s, none) => s.wakeFirst n fun s =>
        match s.imgSettle s.cur.core s.myTask at_ with
        | (s, false) => .stall .hub s
        | (s, true) =>
          let (s, r) := s.loadImage n (.loc s.cur.core s.myTask at_)
          syDone d r s)

/-- Word w of a stop record (Table 13.2). -/
def StopRec.word (r : StopRec) (w : Nat) : Nat :=
  if w = 0 then r.code % 64 + r.kind % 8 * 2 ^ 6 + r.unit % 8 * 2 ^ 9 + (if r.dump then 2 ^ 12 else 0) + r.pc.toNat * 2 ^ 32
  else if w = 1 then r.task.toNat
  else if w = 2 then r.addr.toNat
  else if w = 3 then r.brpc.toNat + r.trap % 1024 * 2 ^ 32 +
    (match r.flag with | some f => f % 32 * 2 ^ 42 + 2 ^ 47 | none => 0)
  else if w = 4 then r.cseq % 2 ^ 48
  else if w = 5 then r.fidx % 2 ^ 48 + r.stat % 64 * 2 ^ 48
  else if w = 6 then r.loc
  else 0

/-- The stop record of a unit (R372, R391): cluster, engine of a core, or Vigil of a die. -/
def State.stopRec (s : State) (u : Word) : StopRec :=
  let n := selCore u
  let k := selUnit u
  if k < 4 then (s.clu ⟨n, selCtx u, Clu.at k⟩).stop
  else if k < 7 then tblGet StopRec.zero (s.core n).engStop k
  else (s.die (dieOf n)).stop

/-- STOPRD (R391). -/
def execStoprd (h : Hdr) (d a b : BitVec 5) :=
  runWord (.stoprd h d a b) h (meaning [.s a.toNat, .s b.toNat] fun s =>
    let u := s.me.sreg a.toNat
    let w := (s.me.sreg b.toNat).toNat
    if !selOk u 0x1FFF || 7 < w then .fault { code := fIllegalWord } else syDone d ((s.stopRec u).word w) s)

/-- INJECT (R387, R391): once the context's dump has been written. -/
def execInject (h : Hdr) (d a : BitVec 5) :=
  runWord (.inject h d a) h (meaning [.s a.toNat] fun s =>
    let u := s.me.sreg a.toNat
    let k : Who := ⟨selCore u, selCtx u, .c⟩
    let x := s.ctxOf k
    if !selOk u 0x3FF then .fault { code := fIllegalWord }
    else if !s.hasDie (dieOf k.core) then syDone d 1 s
    else if x.task.isNone || !x.frozen then syDone d 2 s
    else if !x.dumped then .stall .hub s
    else
      let (s, r) := s.inject k
      syDone d r s)

/-- Operand of HALTP and RESUMEP: partition and mode (R392). -/
def partOf (v : Word) : Nat := bitsN v.toNat 0 4
def partMode (v : Word) : Bool := bitN v.toNat 4

/-- HALTP (R368, R385, R392). One that comes while the partition is being reset raises the line after it. -/
def execHaltp (h : Hdr) (d a : BitVec 5) :=
  runWord (.haltp h d a) h (meaning [.s a.toNat] fun s =>
    let v := s.me.sreg a.toNat
    let p := partOf v
    let x := s.part p
    if 32 ≤ v.toNat then .fault { code := fIllegalWord }
    else if x.dies.isEmpty then syDone d 1 s
    else if !partMode v then
      if x.run = .halted || s.me.answer.isSome then syDone d 0 s
      else if s.me.asked && (x.line || x.run ≠ .running) then .stall .hub s
      else syAsk none (s.raiseLine p fHalted s.cur 0)
    else if s.me.asked then (if x.stopDies.isEmpty then syDone d 0 s else .stall .hub s)
    else syAsk none (s.modPart p fun x => { x with stopDies := x.dies }))

/-- Resident contexts of a partition. -/
def State.ctxsOf (s : State) (p : Nat) : List Who := s.contexts.filter fun k => (s.taskOf k).part = p

/-- Whether an almanac action of the partition is in flight: fired and not finished (R337, R375). -/
def State.almBusy (s : State) (p : Nat) : Bool :=
  s.launches.any fun (_, l) => l.part = p && l.alm.any AEnt.inFlight

/-- Frees the entries and queues of a partition (R375, steps 1 and 2): uncommitted renames return their blocks. -/
def State.resetTasks (s : State) (p : Nat) : State :=
  let l := s.deps.filter fun e => e.part = p
  let s := l.foldl (fun s e =>
    let s := e.insts.foldl (fun s i => s.discard e i) s
    (s.giveBlocks e e.unplaced).dropOverlays p e.rcd.tid) s
  { s with deps := s.deps.filter fun e => e.part ≠ p,
           tqs := s.tqs.map fun (q, t) => (q, if t.part = some p then { t with fifo := [], ring := [], rh := t.rt } else t) }

/-- Removes the almanacs of a partition with their pins, and ends its launches (R375, steps 3 and 5): each one from a
host queue gets an entry whose status is the halt cause. -/
def State.resetLaunches (s : State) (p : Nat) : State :=
  (s.launches.filter fun e => e.2.part = p).foldl (fun s (n, x) => s.endLaunch n x (s.part p).cause true) s

/-- Barriers and stop records of a partition's dies and cores (R375, steps 4 and 6). -/
def State.resetUnits (s : State) (p : Nat) : State :=
  let ds := (s.part p).dies
  let zero (c : Cluster) : Cluster := { c with stop := StopRec.zero }
  let clear (x : Ctx) : Ctx := if x.task.isSome then x else { x with clus := (x.clus.map fun e => (e.1, zero e.2)).filter fun e => e.2 ≠ Cluster.start }
  { s with dies := s.dies.map fun (d, x) =>
             (d, if ds.contains d then { x with bcnt := [], barr := [], stop := StopRec.zero, halt := x.halt.filter (· ≠ p) } else x),
           cores := s.cores.map fun (n, c) =>
             (n, if ds.contains (dieOf n) then { c with engStop := [], engHalt := false, ctxs := c.ctxs.map fun e => (e.1, clear e.2) } else c) }

/-- Clears the partition's stop area (R375, step 6). -/
def State.resetArea (s : State) (p : Nat) : State :=
  let x := s.part p
  let last := x.stopBase + 196608 * 1024
  { s with mem := s.mem.filter fun e => !(x.stopBase ≤ e.1 && e.1 < last && x.dies.contains ((e.1 - x.stopBase) / 12582912)) }

/-- PARTITION RESET (R375, R417). -/
def State.resetPart (s : State) (p : Nat) : State :=
  let s := (((s.resetTasks p).resetUnits p).resetLaunches p).resetArea p
  (s.forget fun q => match q with | .task n _ _ => n = p | _ => false).modPart p fun x =>
    { x with run := .running, cause := 0, cdie := 0, ccore := 0, cctx := 0, cunit := 0, raised := [], first := none,
             hubSaw := false }

/-- RESUMEP (R375, R387, R392, R417). A reset begins with RESETTING, and the entries and queues go; it is done when the
actions in flight have finished. An edited image with a reserved value is rejected (R4, Table 13.6). -/
def execResumep (h : Hdr) (d a : BitVec 5) :=
  runWord (.resumep h d a) h (meaning [.s a.toNat] fun s =>
    let v := s.me.sreg a.toNat
    let p := partOf v
    let x := s.part p
    if 32 ≤ v.toNat then .fault { code := fIllegalWord }
    else if x.dies.isEmpty then syDone d 1 s
    else if !partMode v then
      if x.run = .halted then syDone d 2 s
      else
        let l := (s.ctxsOf p).filter fun k => (s.ctxOf k).frozen
        if !l.all fun k => (s.ctxOf k).dumped then .stall .hub s
        else
          let (s, ok) := resumeOk l s
          if ok then syDone d 0 (l.foldl State.resumeCtx s) else syDone d 6 s
    else if x.run = .resetting && s.me.asked then
      if s.almBusy p then .stall .hub s else syDone d 0 (s.resetPart p)
    else if x.run ≠ .halted then syDone d 2 s
    else syAsk none ((s.resetTasks p).modPart p fun x => { x with run := .resetting }))

/-- Commands in the engine queues of a core, or running. -/
def Core.busy (c : Core) : Bool :=
  !(c.mxq.isEmpty && c.mxRun.isNone && c.cpq.isEmpty && c.cpRun.isEmpty && c.rmq.isEmpty && c.rmRun.all RmRun.ended &&
    c.coq.isEmpty && c.coRun.isEmpty)

/-- GATE (R388, R393). -/
def execGate (h : Hdr) (d a : BitVec 5) :=
  runWord (.gate h d a) h (meaning [.s a.toNat] fun s =>
    let u := s.me.sreg a.toNat
    let n := selCore u
    let c := s.core n
    let off (p : Power) : Bool := match p with | .off => true | _ => false
    let going (p : Power) : Bool := match p with | .gating _ => true | _ => false
    if !selOk u 0x20FF then .fault { code := fIllegalWord }
    else if !s.hasDie (dieOf n) then syDone d 1 s
    else if s.me.asked then
      if s.me.barGo then syDone d 0 s else if going c.power then .stall .hub s else syDone d 3 s
    else if off c.power then syDone d 0 s
    else if going c.power || (List.range 4).any (fun x => (c.ctx x).task.isSome) || c.busy then syDone d 2 s
    else syAsk none (s.modCore n fun c => { c with power := .gating (bitN u.toNat 13) }))

/-- WAKE (R388, R393). -/
def execWake (h : Hdr) (a : BitVec 5) :=
  runWord (.wake h a) h (meaning [.s a.toNat] fun s =>
    let u := s.me.sreg a.toNat
    if !selOk u 0xFF then .fault { code := fIllegalWord } else .done (s.wakeCore (selCore u)) .seq)

/-- A unit descriptor (Table 13.8). -/
structure UnitDesc where
  type : Nat
  major : Nat
  minor : Nat
  row : Nat
  deriving DecidableEq, Repr

def unitDesc (v : Word) : UnitDesc := ⟨bitsN v.toNat 0 3, bitsN v.toNat 8 8, bitsN v.toNat 16 8, bitsN v.toNat 24 32⟩

/-- Whether a descriptor's fields have values of Table 13.8: of a logical unit, or of a physical one. -/
def UnitDesc.ok (u : UnitDesc) (v : Word) (logical : Bool) : Bool :=
  bitsN v.toNat 3 5 = 0 && bitsN v.toNat 56 8 = 0 && (u.type = 3 || u.row = 0) &&
  match u.type with
  | 0 => u.major < (if logical then 16 else 20) && u.minor = 0
  | 1 => u.major < (if logical then 16 else 20) && u.minor < (if logical then 16 else 17)
  | 2 => u.major < 16 && u.minor < (if logical then 64 else 66)
  | 3 => u.major < 4 && u.minor = 0 && u.row < 2 ^ 23
  | 4 => u.major < 64 && u.minor < (if logical then 4 else 5)
  | _ => false

/-- Number of a physical unit of its kind. -/
def UnitDesc.phys (u : UnitDesc) : Nat :=
  match u.type with
  | 0 => u.major
  | 1 => 17 * u.major + u.minor
  | 2 => 66 * u.major + u.minor
  | 3 => 2 ^ 24 * u.major + u.row
  | _ => 8 * u.major + u.minor

/-- Key of a logical unit in the spare map, and its number without an entry. -/
def State.spareKey (s : State) (u : UnitDesc) : Nat × Nat :=
  match u.type with
  | 0 => (u.major, Config.identityDie s.form u.major)
  | 1 => (2 ^ 40 + 16 * u.major + u.minor, u.minor)
  | 2 => (2 * 2 ^ 40 + 64 * u.major + u.minor, u.minor)
  | 3 => (3 * 2 ^ 40 + 2 ^ 23 * u.major + u.row, u.row)
  | _ => (4 * 2 ^ 40 + 8 * u.major + u.minor, u.minor)

/-- Whether a spare map binds a logical unit of a kind, other than by default, to a number within a group of keys. -/
def State.bound (s : State) (lo n : Nat) (dflt : Nat → Nat) (b : Nat) : Bool :=
  (List.range n).any fun i => tblGet (dflt i) s.spare (lo + i) = b

/-- Whether a physical unit, b within its containing unit, backs a logical number (R394). -/
def State.backs (s : State) (u : UnitDesc) (b : Nat) : Bool :=
  match u.type with
  | 0 => (List.range (Config.dies s.form)).any fun d => s.physDie d = b
  | 1 => s.bound (2 ^ 40 + 16 * u.major) 16 id b
  | 2 => s.bound (2 * 2 ^ 40 + 64 * u.major) 64 id b
  | 3 =>
    let lo := 3 * 2 ^ 40 + 2 ^ 23 * u.major
    (s.spare.any fun e => lo ≤ e.1 && e.1 < lo + 2 ^ 23 && e.2 = b) || (b < 2 ^ 23 && (tblFind s.spare (lo + b)).isNone)
  | _ => s.bound (4 * 2 ^ 40 + 8 * u.major) 4 id b

/-- The logical die of a physical one. -/
def State.logDie (s : State) (p : Nat) : Option Nat := (List.range (Config.dies s.form)).find? fun d => s.physDie d = p

/-- RETIRE (R394). -/
def execRetire (h : Hdr) (d a : BitVec 5) :=
  runWord (.retire h d a) h (meaning [.s a.toNat] fun s =>
    let v := s.me.sreg a.toNat
    let u := unitDesc v
    let used := match u.type with
      | 1 => (match s.logDie u.major with | none => false | some l => s.backs { u with major := l } u.minor)
      | 0 => s.backs u u.major
      | 3 => s.backs u u.row
      | _ => s.backs u u.minor
    if !u.ok v false then .fault { code := fIllegalWord }
    else if used then syDone d 2 s
    else syDone d 0 { s with retired := (u.type, u.phys) :: s.retired.filter (· ≠ (u.type, u.phys)) })

/-- The physical unit that SPARE's b names (R394, log 14): its number within the containing unit, and in the device;
none if there is no such spare for the unit. -/
def State.spareUnit (s : State) (u : UnitDesc) (b : Nat) : Option (Nat × Nat) :=
  match u.type with
  | 0 => if b < 20 && b / 5 = s.physDie u.major / 5 then some (b, b) else none
  | 1 => if b < 17 then some (b, 17 * s.physDie u.major + b) else none
  | 2 => if b < 66 then some (b, 66 * u.major + b) else none
  | 3 => if b < 1024 then some (2 ^ 23 + b, 2 ^ 24 * u.major + 2 ^ 23 + b) else none
  | _ => if b < 5 then some (b, 8 * u.major + b) else none

/-- Whether a logical die or core must keep its meaning (R346, R394): a context of it is resident, or a launch of its
partition runs. -/
def State.unitBusy (s : State) (u : UnitDesc) : Bool :=
  let cores : List Nat := match u.type with
    | 0 => (List.range 16).map fun c => 16 * u.major + c
    | 1 => [16 * u.major + u.minor]
    | _ => []
  (cores.any fun n => (List.range 4).any fun x => ((s.core n).ctx x).task.isSome) ||
  (u.type < 2 && s.launches.any fun e => (s.part e.2.part).dies.contains u.major)

/-- A logical unit is bound to a spare (R307, R346, R394): the status. What it holds stays with its logical number
(log 14). -/
def State.bindSpare (s : State) (u : UnitDesc) (b : Nat) : State × Nat :=
  if u.type < 2 && !s.hasDie u.major then (s, 1)
  else match s.spareUnit u b with
  | none => (s, 1)
  | some (n, g) =>
    if s.unitBusy u || s.backs u n || s.retired.contains (u.type, g) then (s, 2)
    else
      let (key, own) := s.spareKey u
      let m := if n = own then tblErase s.spare key else tblPut s.spare key n
      let s : State := { s with spare := m }
      (if u.type = 4 then { s with ports := tblMod Port.reset s.ports u.major fun p =>
        { p with spareUsed := (List.range 4).any fun i => tblGet i s.spare (4 * 2 ^ 40 + 8 * u.major + i) = 4 } } else s, 0)

/-- SPARE (R307, R346, R394). -/
def execSpare (h : Hdr) (d a b : BitVec 5) :=
  runWord (.spare h d a b) h (meaning [.s a.toNat, .s b.toNat] fun s =>
    let v := s.me.sreg a.toNat
    let u := unitDesc v
    if !u.ok v true then .fault { code := fIllegalWord }
    else
      let (s, r) := s.bindSpare u (s.me.sreg b.toNat).toNat
      syDone d r s)

/-- WDSET (R356): the hub applies the limit at the end of the cc. -/
def execWdset (h : Hdr) (a b : BitVec 5) :=
  runWord (.wdset h a b) h (meaning [.s a.toNat, .s b.toNat] fun s =>
    let v := (s.me.sreg a.toNat).toNat
    let w := (s.me.sreg b.toNat).toNat
    let qs := if bitN v 6 then List.range 64 else [v % 64]
    if 128 ≤ v || (bitN v 6 && v % 64 ≠ 0) || 2 ^ 40 ≤ w then .fault { code := fIllegalWord }
    else if s.me.asked then
      if qs.any fun q => (s.tq q).wlNext.isSome then .stall .hub s else .done s .seq
    else syAsk none (qs.foldl (fun s q => s.modTq q fun t => { t with wlNext := some w }) s))

/-- Fields of an injection descriptor (R395). -/
structure Inject where
  target : Nat
  core : Nat
  bit : Nat
  count : Nat
  deriving DecidableEq, Repr

def injectOf (v : Nat) : Inject := ⟨bitsN v 0 3, 16 * bitsN v 4 4 + bitsN v 8 4, bitsN v 16 8, bitsN v 24 5⟩

/-- Bits of a word that ERRINJ flips: the data bits, and the change of the syndrome (R421). -/
def Inject.flip (j : Inject) : Nat × BitVec 7 :=
  (List.range j.count).foldl (fun ((d, x) : Nat × BitVec 7) i =>
    let b := j.bit + i
    if b < 32 then (d ^^^ 2 ^ b, x ^^^ BitVec.ofNat 7 (Config.eccColumns.getD b 0)) else (d, x ^^^ BitVec.ofNat 7 (2 ^ (b - 32))))
    (0, 0)

/-- A syndrome table with one entry changed. -/
def synFlip (y : Tbl (BitVec 7)) (w : Nat) (x : BitVec 7) : Tbl (BitVec 7) :=
  let v := tblGet 0 y w ^^^ x
  if v = 0 then tblErase y w else tblPut y w v

/-- Symbols of an HBM line inverted (R395). -/
def symFlip (l : List (Nat × BitVec 8)) (i : Nat) : List (Nat × BitVec 8) :=
  let v := tblGet 0 l i ^^^ 0xFF#8
  if v = 0 then tblErase l i else tblPut l i v

/-- What ERRINJ changes at address b. -/
def State.injectBits (s : State) (j : Inject) (b : Nat) : State :=
  let (d, x) := j.flip
  if j.target = 0 then
    s.modCore j.core fun c => { c with frame := c.frame.writeN (b / 4 * 4) 4 (c.frame.readN (b / 4 * 4) 4 ^^^ d) }
  else if j.target = 1 then
    s.modCore j.core fun c =>
      { c with spm := c.spm.writeN (b / 4 * 4) 4 (c.spm.readN (b / 4 * 4) 4 ^^^ d), syn := synFlip c.syn (b / 4) x }
  else if j.target = 2 then
    { s with mem := s.mem.writeN (b / 4 * 4) 4 (s.mem.readN (b / 4 * 4) 4 ^^^ d), shaSyn := synFlip s.shaSyn (b / 4) x }
  else
    let row := b / 64 * 64
    let l := (List.range j.count).foldl (fun l i => symFlip l (j.bit + i)) (tblGet [] s.hbmErr row)
    { s with hbmErr := if l.isEmpty then tblErase s.hbmErr row else tblPut s.hbmErr row l }

/-- Whether an injection's descriptor and address are allowed (R395). -/
def State.injectOk (s : State) (v b : Nat) : Bool :=
  let j := injectOf v
  v &&& 0x1FFF0FF7 = v && j.target < 4 && 1 ≤ j.count && j.count ≤ 16 && s.hasDie (dieOf j.core) &&
  (if j.target = 0 then j.bit + j.count ≤ 32 && b < 65536
   else if j.target = 1 then j.bit + j.count ≤ 39 && b < 2 ^ 20
   else if j.target = 2 then j.bit + j.count ≤ 39 && s.saOk b 1 && saDev b = s.devId && saLevel b = 1
   else j.bit + j.count ≤ 72 && s.saOk b 1 && saDev b = s.devId && saLevel b = 0)

/-- ERRINJ (R395). -/
def execErrinj (h : Hdr) (a b : BitVec 5) :=
  runWord (.errinj h a b) h (meaning [.s a.toNat, .s b.toNat] fun s =>
    let v := (s.me.sreg a.toNat).toNat
    let w := (s.me.sreg b.toNat).toNat
    if !s.injectOk v w then .fault { code := fIllegalWord } else .done (s.injectBits (injectOf v) w) .seq)

end Sys2Proof.Machine
end

