-- ==== Sys2Proof/Machine/Halt.lean ====
section
/-! DEFINITION. How a partition comes to a halt (R368 to R374, R392), how engines stop (R369, R370), the removal of a
context (R373), watchdogs (R355), power gating and wake (R388, R393), clock skips, thermal trips (R408) and the standby
hub (R406). -/

namespace Sys2Proof.Machine

/-- Every context of a partition on a die stops (R368); a debug-stopped one too (R387). -/
def State.haltCtx (s : State) (k : Who) : State :=
  (cluList.foldl (fun s u => s.haltCluster { k with clu := u }) s).modCtx k fun x => { x with frozen := false, dumped := false }

/-- Vigil discards the contained stores of the partition's instances on a die (R369), and writes its stop record: one
that it already has stays (R372). -/
def State.haltVigil (s : State) (p d : Nat) : State :=
  let drop (i : Inst) : Inst := if dieOf i.core = d then { i with rows := [] } else i
  let s : State := { s with deps := s.deps.map fun e => if e.part = p then { e with insts := e.insts.map drop } else e }
  s.modDie d fun x =>
    if x.stop = StopRec.zero then { x with stop := { StopRec.zero with kind := 4, unit := 7, loc := x.dcc } } else x

/-- Clusters that wait with a HALTP of a partition have seen it HALTED (R392). -/
def State.answerHalt (s : State) (p : Nat) : State :=
  let mine (k : Who) (i : Instr) : Bool := match i with
    | .haltp _ _ a => let v := (s.clu k).sreg a.toNat; partOf v = p && !partMode v
    | _ => false
  (s.asking.filter fun e => mine e.1 e.2).foldl (fun s e => s.modClu e.1 fun c => { c with answer := some 0 }) s

/-- A partition is HALTED once hub and dies have seen the line and every context is gone (R374). -/
def State.checkHalted (s : State) (p : Nat) : State :=
  let x := s.part p
  let held := s.cores.any fun e => e.2.tracker.any fun t => t.task.part = p
  if x.run = .halting && x.hubSaw && x.dies.all (fun d => (s.die d).halt.contains p) && (s.ctxsOf p).isEmpty && !held then
    ((s.answerHalt p).modPart p fun x => { x with run := .halted }).manageInt (.halted p x.cause)
  else s

/-- A die sees the halt line (R368, R369): its cores' engines accept nothing more. -/
def State.haltDie (s : State) (p d : Nat) : State :=
  let s := s.modDie d fun x => { x with halt := p :: x.halt.filter (· ≠ p) }
  let s := ((s.ctxsOf p).filter fun k => dieOf k.core = d).foldl haltCtx s
  let s : State := { s with cores := s.cores.map fun e => (e.1, if dieOf e.1 = d then { e.2 with engHalt := true } else e.2) }
  (s.haltVigil p d).checkHalted p

/-- A die sees a debug stop of a partition (R385). -/
def State.stopDie (s : State) (p d : Nat) : State :=
  (((s.ctxsOf p).filter fun k => dieOf k.core = d && !(s.ctxOf k).frozen).foldl (fun s k => s.debugStop k ((s.die d).dcc - 1)) s).modPart p fun x =>
    { x with stopDies := x.stopDies.filter (· ≠ d) }

/-- HALT_LINE_ARRIVAL (R368, R385, R392, R417): at a die, or at the hub. -/
def execHaltLineArrival (p : Nat) (die : Option Nat) (s : State) : Host.Outcome State Fault Refusal :=
  let x := s.part p
  match die with
  | none => if x.first.isSome then .next ((s.modPart p Part.hubSees).checkHalted p) else .next s
  | some d =>
    let s := if x.stopDies.contains d then s.stopDie p d else s
    if x.line && x.dies.contains d && !(s.die d).halt.contains p then .next (s.haltDie p d) else .next s

/-- WATCHDOG_EXPIRY (R355): WC of an instance on a context has reached its limit. -/
def execWatchdogExpiry (n x : Nat) (s : State) : Host.Outcome State Fault Refusal :=
  .next (s.deps.foldl (fun s e =>
    e.insts.foldl (fun s i => if i.core = n && i.ctx = x && s.expired e i then s.expire e i else s) s) s)

/-- Whether an engine must give up a command: its context has stopped (R369, R370), or it has only a tracker entry and
its partition's line has reached the die. -/
def State.cmdStops (s : State) (n : Nat) (e : EnCmd) : Bool :=
  if s.inCtx n e then cluList.all fun u => (((s.core n).ctx e.ctx).clu u).run = .stopped
  else (s.die (dieOf n)).halt.contains e.task.part

/-- The matrix engine stops (R369): the accumulators stand as they are. -/
def State.stopMatrix (s : State) (n : Nat) : State :=
  match (s.core n).mxRun with
  | none => s
  | some r =>
    let k : Who := ⟨n, r.cmd.ctx, .m⟩
    if cluList.all fun u => (s.clu { k with clu := u }).run = .stopped then
      (s.stopEngine n 4 4 (s.taskOf k).tid 0 r.cmd.cseq 0 0).modCore n fun c => { c with mxRun := none }
    else s

/-- The copy engine gives up commands at a row boundary (R369). -/
def State.stopCopy (s : State) (n : Nat) : State :=
  let l := (s.core n).cpRun.filter fun e => s.cmdStops n e.2.cmd
  match l with
  | [] => s
  | (_, r) :: _ =>
    let seq := ((s.owner n r.cmd).map Ctx.popped).getD 0
    (s.stopEngine n 5 4 r.cmd.task.tid r.addr seq (if r.stat = 0 then r.next else r.fidx) r.stat).modCore n fun c =>
      { c with cpRun := c.cpRun.filter fun e => !l.any fun x => x.1 = e.1 }

/-- The remote engine gives up commands (R369): what has not been sent never is, and answers are discarded. -/
def State.stopRemote (s : State) (n : Nat) : State :=
  let keep (e : EnCmd) : Bool := !s.cmdStops n e
  let s := match (s.core n).rmRun.find? fun r => !r.ended && !keep r.cmd with
    | none => s
    | some r => s.stopEngine n 6 4 r.cmd.task.tid r.addr (((s.owner n r.cmd).map Ctx.popped).getD 0) 0 r.stat
  let s := ((s.core n).coRun.filter fun r => !keep r.cmd).foldl (fun s r => s.colDrop n r) s
  s.modCore n fun c => { c with rmRun := c.rmRun.filter fun r => keep r.cmd }

/-- Tracker entries of a halted partition end: stores not yet performed are discarded, the task's entry stays LEAVING
without a commit (R369, R373). -/
def State.stopTracker (s : State) (n : Nat) : State :=
  let dead (t : Tracker) : Bool := (s.die (dieOf n)).halt.contains t.task.part
  let l := (s.core n).tracker.filter dead
  if l.isEmpty then s
  else
    let ours (a : Acc) : Bool := a.who.core = n && l.any fun t => t.ctx = a.who.ctx && t.task.same a.task
    let s := s.keepAccs fun e => !(ours e.2 && e.2.stores && !e.2.sent)
    let s := l.foldl (fun s t => s.modDep t.task.part t.task.tid fun e => { e with st := .leaving }) s
    let own (e : EnCmd) : Bool := l.any fun t => t.ctx = e.ctx && t.task.same e.task
    let s := s.modCore n fun c =>
      { c with cpq := c.cpq.filter (!own ·), rmq := c.rmq.filter (!own ·), coq := c.coq.filter (!own ·), tracker := c.tracker.filter (!dead ·) }
    l.foldl (fun s t => s.checkHalted t.task.part) s

/-- ENGINE_STOP (R369, R370): the matrix (4), copy (5) or remote (6) engine of a core. -/
def execEngineStop (n unit : Nat) (s : State) : Host.Outcome State Fault Refusal :=
  if unit = 4 then .next (s.stopMatrix n)
  else if unit = 5 then .next ((s.stopCopy n).stopTracker n)
  else .next (s.stopRemote n)

/-- Commands of a context leave the queues of its core (R373). -/
def State.flushCmds (s : State) (k : Who) : State :=
  let t := s.taskOf k
  let own (e : EnCmd) : Bool := e.ctx = k.ctx && e.task.same t
  s.modCore k.core fun c =>
    { c with cpq := c.cpq.filter (!own ·), rmq := c.rmq.filter (!own ·), coq := c.coq.filter (!own ·),
             mxq := c.mxq.filter fun m => m.ctx ≠ k.ctx }

/-- Its barrier arrivals are withdrawn (R96, R373). -/
def State.withdraw (s : State) (k : Who) : State :=
  s.modDie (dieOf k.core) fun d => { d with barr := d.barr.map fun (b, l) => (b, l.filter fun w => !(w.core = k.core && w.ctx = k.ctx)) }

/-- Whether a context has stopped with all its units (R373). -/
def State.removable (s : State) (k : Who) : Bool :=
  let c := s.core k.core
  let own (e : EnCmd) : Bool := e.ctx = k.ctx && s.inCtx k.core e
  (s.ctxOf k).task.isSome && cluList.all (fun u => (s.clu { k with clu := u }).run = .stopped) &&
  !(c.cpRun.any fun e => own e.2.cmd) && !(c.rmRun.any fun r => !r.ended && own r.cmd) && !(c.coRun.any fun r => own r.cmd) &&
  (match c.mxRun with | some r => r.cmd.ctx ≠ k.ctx | none => true)

/-- CONTEXT_REMOVAL (R373, R378, R384): the task's entry is LEAVING under the halt line; an instance that Vigil
absorbed goes on to a decision. -/
def execContextRemoval (n x : Nat) (s : State) : Host.Outcome State Fault Refusal :=
  let k : Who := ⟨n, x, .c⟩
  if !s.removable k then .next s
  else
    let t := s.taskOf k
    let halted := (s.die (dieOf n)).halt.contains t.part
    let s := (((s.landAll k).flushCmds k).withdraw k).closeRows n
    let s := (s.answerSave n x 4).freeCtx k
    if halted then .next ((s.modDep t.part t.tid fun e => { e with st := .leaving }).checkHalted t.part)
    else match s.dep? t.part t.tid with
      | none => .next s
      | some e =>
        let s := match e.insts.find? fun i => i.no = t.inst with
          | some i => s.discard e i
          | none => s
        .next (s.settle t.part t.tid)

/-- Whether a trace record is of a cluster of a core. -/
def TraceRec.ofCore (n : Nat) (r : TraceRec) : Bool :=
  bitsN r.w0.toNat 44 4 = n % 16 && bitsN r.w0.toNat 50 3 < 4

/-- POWER_GATE_COMMIT (R364, R388, R393). -/
def execPowerGateCommit (n : Nat) (s : State) : Host.Outcome State Fault Refusal :=
  match (s.core n).power with
  | .gating force =>
    let l := (s.die (dieOf n)).trace.filter (TraceRec.ofCore n)
    if !force && !l.isEmpty then .next s
    else
      let s := s.modDie (dieOf n) fun d =>
        { d with trace := d.trace.filter fun r => !r.ofCore n, lostRec := (d.lostRec + l.length) % 2 ^ 64 }
      let s := s.modCore n fun c => { c with power := .off }
      let mine (k : Who) (i : Instr) : Bool := match i with | .gate _ _ a => selCore ((s.clu k).sreg a.toNat) = n | _ => false
      .next ((s.asking.filter fun e => mine e.1 e.2).foldl (fun s e => s.modClu e.1 fun c => { c with barGo := true }) s)
  | _ => .next s

/-- POWER_UP (R388): a gated core with a wake message. -/
def execPowerUp (n : Nat) (s : State) : Host.Outcome State Fault Refusal :=
  let off : Bool := match (s.core n).power with | .off => true | _ => false
  if off && (s.core n).wake then .next (s.modCore n fun c => { c with power := .on, wake := false }) else .next s

/-- CLOCK_SKIP (R408): a die skips a cc, but never 16 in a row. DESIGN CHOICE (log 72): the power or thermal event that
Table 14.5 lists is the beginning of a skip. -/
def execClockSkip (d : Nat) (s : State) : Host.Outcome State Fault Refusal :=
  if !s.hasDie d || s.skip.contains (d + 64) || (s.skip.contains d && 14 ≤ tblGet 0 s.skipRun d) then .next s
  else
    let t : State := { s with skip := s.skip ++ [d + 64] }
    .next (if s.skip.contains d then t else t.manageInt (.island (s.physDie d / 5)))

/-- Logical dies on an island. -/
def State.islandDies (s : State) (i : Nat) : List Nat := (List.range (Config.dies s.form)).filter fun d => s.physDie d / 5 = i

/-- THERMAL_TRIP (R408): the line of every partition with a context there, then the power. -/
def execThermalTrip (island : Nat) (s : State) : Host.Outcome State Fault Refusal :=
  let ds := s.islandDies island
  let ks := s.contexts.filter fun k => ds.contains (dieOf k.core)
  let s := ks.foldl (fun s k => s.raiseLine (s.taskOf k).part fWatchdog k 0) s
  .next ((ds.foldl (fun s d => s.modDie d fun x => { x with power := false }) s).manageInt (.island island))

/-- HUB_TAKEOVER (R406): H1 schedules from the state that H0 mirrored to it. -/
def execHubTakeover (s : State) : Host.Outcome State Fault Refusal :=
  if s.hubActive = 0 then .next ({ s with hubActive := 1 }.manageInt .takeover) else .next s

end Sys2Proof.Machine
end

