-- ==== Sys2Proof/Machine/Manage.lean ====
section
/-! DEFINITION. What the host, firmware and the package do to the device: registers of the management window (R351,
R353, R357, R359, R360, R398, R399, R407, R413), staged start (R402 to R405), the mailbox (R397, R405), memory upkeep
(R212, R213, R215, R344), the trace drain (R360, R362), RDMA and Ethernet (R348, R401). -/

namespace Sys2Proof.Machine

/-- FAULT_LOG_TAIL_WRITE (R351): entries up to the new tail index have been read; an index past the head is ignored. -/
def execFaultLogTailWrite (log n : Nat) (s : State) : Host.Outcome State Fault Refusal :=
  let l := tblGet FLog.empty s.flogs log
  let k := (n + 2 ^ 32 - l.tail) % 2 ^ 32
  if k = 0 || l.entries.length < k then .next s
  else .next { s with flogs := tblPut s.flogs log { l with entries := l.entries.drop k, tail := n % 2 ^ 32 } }

/-- HISTOGRAM_CLEAR (R359): increments of the same cc remain. -/
def execHistogramClear (n : Nat) (s : State) : Host.Outcome State Fault Refusal :=
  .next (s.modCore n fun c => { c with hist := c.histNew, histOvf := [] })

/-- TRACE_RING_READ_INDEX (R360): frees ring space up to an index that the write index has reached. -/
def execTraceRingReadIndex (d index : Nat) (s : State) : Host.Outcome State Fault Refusal :=
  let x := s.die d
  if x.ringR ≤ index && index ≤ x.ringW then .next (s.modDie d fun x => { x with ringR := index }) else .next s

/-- HOLD_WRITE (R413): from the next cc on. -/
def execHoldWrite (q : Nat) (hold : Bool) (s : State) : Host.Outcome State Fault Refusal :=
  .next (s.modTq q fun t => { t with holdNext := some hold })

/-- Whether a PCSEL value has no reserved field (Table 12.5). -/
def pcselOk (v : Word) : Bool := v.toNat < 2 ^ 17 && v.toNat % 256 < 24

/-- PCSEL_WRITE (R357): a reserved value is not written, and the write ends with an error status. -/
def execPcselWrite (n i : Nat) (v : Word) (s : State) : Host.Outcome State Fault Refusal :=
  if pcselOk v && i < 16 then .next (s.modCore n fun c => { c with pcsel := tblPut c.pcsel i v })
  else .next { s with regErr := s.regErr + 1 }

/-- Number of a score. -/
def scoreOf : ScoreUnit → Nat
  | .die p => scoreDie p
  | .core p q => scoreCore p q

/-- SCORE_WRITE (R353, R354): it takes effect when the cc ends, together with what Vigil adds in this cc. -/
def execScoreWrite (u : ScoreUnit) (v : Nat) (s : State) : Host.Outcome State Fault Refusal :=
  .next { s with scoreSet := tblPut s.scoreSet (scoreOf u) (v % 65536) }

/-- VECTOR_UNMASK (R399): one message for a pending vector. -/
def execVectorUnmask (v : Nat) (s : State) : Host.Outcome State Fault Refusal :=
  let s' : State := { s with maskV := tblErase s.maskV v }
  if tblGet false s.pend v then .next { s' with pend := tblErase s.pend v, sent := s.sent ++ [v] } else .next s'

/-- Bytes from an address are zero: fresh, with no error and no poison. -/
def State.zeroRange (s : State) (a len : Nat) : State :=
  let out (x : Nat) : Bool := x < a || a + len ≤ x
  { s with mem := s.mem.filter (fun e => out e.1), hbmErr := s.hbmErr.filter (fun e => out e.1), hbmPois := s.hbmPois.filter out,
           rewrite := s.rewrite.filter out, shaSyn := s.shaSyn.filter fun e => out (4 * e.1) }

/-- A power of two from 2^a to 2^b. -/
def powIn (n a b : Nat) : Bool := (List.range (b + 1)).any fun k => a ≤ k && n = 2 ^ k

/-- Dies in ascending order. -/
def sortDies (form : BitVec 2) (l : List Nat) : List Nat := (List.range (Config.dies form)).filter fun d => l.contains d

/-- TQSTAT (Table 18.1). -/
def TaskQ.stat (t : TaskQ) : Word :=
  BitVec.ofNat 64 (t.fifo.length % 64 + (if t.hold then 256 else 0) + (t.rt + 2 ^ 32 - t.rh) % 2 ^ 32 * 2 ^ 32)

/-- TQRING (Table 18.1). -/
def TaskQ.ringReg (t : TaskQ) : Word := BitVec.ofNat 64 (t.rh % 2 ^ 32 + t.rt % 2 ^ 32 * 2 ^ 32)

/-- What the management window reads of a task queue in the state after a cc (R414): TQSTAT and TQRING. -/
def State.tqRead (s : State) (q : Nat) : Word × Word := ((s.tq q).stat, (s.tq q).ringReg)

/-- The copy of the configuration record that is not in force, changed (R403). -/
def State.otherCopy (s : State) (f : ConfigRecord → ConfigRecord) : State :=
  if s.flashUse then { s with flashA := f s.flashA } else { s with flashB := f s.flashB }

/-- Firmware writes a register of the management window; none where the value is refused (R12, R196, R314, R330, R334,
R347, R351, R355, R360, R361, R376, R377, R394, R398, R402 to R404, R407, R413, R415). -/
def State.manage (s : State) : MgmtReg → Option State
  | .partition p dies root rootn ktab =>
    let l := sortDies s.form dies
    let other := (List.range 16).any fun q => q ≠ p && (s.part q).dies.any fun d => l.contains d
    if p < 16 && !other && powIn rootn 0 22 && dies.all (s.hasDie ·) && (3 ≤ s.stage || (p = 0 && l = [0])) then
      some (s.modPart p fun x => { x with dies := l, root := root, rootn := rootn, ktab := ktab })
    else none
  | .poolRange p base size =>
    if 16 ≤ (s.part p).ranges.length || base % 65536 ≠ 0 || size % 65536 ≠ 0 || !s.saOk base size || saDev base ≠ s.devId || 2 ≤ saLevel base then none
    else some (s.modPart p fun x =>
      (blocksOf 64 base size).foldl (fun x e => x.give e.1 e.2) { x with ranges := x.ranges ++ [(base, size)] })
  | .launchQueue p q base size =>
    if q < 16 && base % 64 = 0 && size % 64 = 0 && 4096 ≤ size && size ≤ 2 ^ 26 then
      some (s.modLq p q fun l => { l with base := base, sz := size, h := 0, t := 0, stopped := false })
    else none
  | .completionRing p q base entries =>
    if q < 16 && base % 4096 = 0 && powIn entries 8 16 then
      some ((s.modLq p q fun l => { l with cbase := base, cs := entries, ct := 0, ch := 0 }).zeroRange base (16 * entries))
    else none
  | .taskQueue q p ringBase rs =>
    if q < 64 && p < 16 && powIn rs 12 32 && ringBase % 64 = 0 && saLevel ringBase = 0 && saDev ringBase = s.devId &&
        s.saOk ringBase (64 * rs) then
      some (s.modTq q fun t => { t with part := some p, base := ringBase, rs := rs }) else none
  | .debugEnable p on => if on && !s.dbg then none else some (s.modPart p fun x => { x with debug := on })
  | .stopArea p base => some (s.modPart p fun x => { x with stopBase := base })
  | .traceSetup p kinds period =>
    if 1 ≤ period && period ≤ 65536 then some (s.modPart p fun x => { x with kinds := kinds, period := period }) else none
  | .traceRing d base size =>
    if s.hasDie d && powIn size 16 30 then some (s.modDie d fun x => { x with ringBase := base, ringSize := size, ringW := 0, ringR := 0 }) else none
  | .thresholds d c => if d < 65536 && c < 65536 then some { s with dth := d, cth := c } else none
  | .perfCounter n i v => if i < 16 then some (s.modCore n fun c => { c with pcs := tblPut c.pcs i (v % 2 ^ 48) }) else none
  | .perfOverflowClear n i => if i < 16 then some (s.modCore n fun c => { c with pcovf := setBits c.pcovf i 1 0 }) else none
  | .erasure st pc i v =>
    if st < 16 && pc < 66 && i < 4 && v.toNat % 128 < 72 then some { s with erase := tblPut s.erase (4 * (66 * st + pc) + i) v } else none
  | .extWindow base size =>
    if size % 65536 = 0 && size ≤ 2 ^ 50 then some { s with extBase := base, extSize := size } else none
  | .group g devs => if g < 64 then some { s with groups := tblPut s.groups g devs } else none
  | .route i dst port up => if port < 64 then some { s with routes := tblPut s.routes i ⟨dst, port, up⟩ } else none
  | .routeTimeout us => if 10 ≤ us && us ≤ 10000 then some { s with routeUs := us } else none
  | .maskVector v => if v < 272 then some { s with maskV := tblPut s.maskV v true } else none
  | .swapThreshold b n => some { s with swapThr := tblPut s.swapThr b n }
  | .swapWindow b => some { s with acts := s.acts.filter fun e => e.1 / 2 ^ 20 ≠ b }
  | .hold q on => if q < 64 then some (s.modTq q fun t => { t with holdNext := some on }) else none
  | .powerBudget i w => if i < 4 && w ≤ Config.islandWatts then some { s with budget := tblPut s.budget i w } else none
  | .scrubRate n => some { s with scrubRate := n }
  | .activationWidth n => if 0 < n then some { s with actWidth := n } else none
  | .watchdogLimit q wl => if q < 64 && wl < 2 ^ 40 then some (s.modTq q fun t => { t with wlNext := some wl }) else none
  | .spareUnit v b =>
    let u := unitDesc v
    if !u.ok v true then none else match s.bindSpare u b.toNat with | (s, 0) => some s | _ => none
  | .configWrite r => some (s.otherCopy fun _ => { r with valid := false })
  | .configCommit => some { s.otherCopy (fun r => { r with valid := true }) with flashUse := !s.flashUse }

/-- A register write of firmware's: one that is refused, as for a reserved value, ends with an error status (R4,
R357). -/
def State.manageOr (s : State) (r : MgmtReg) : State := (s.manage r).getD { s with regErr := s.regErr + 1 }

/-- MANAGEMENT_WRITE (R398, R407): of the host, a register that firmware owns is refused and counted. -/
def execManagementWrite (host : Bool) (r : MgmtReg) (s : State) : Host.Outcome State Fault Refusal :=
  if host then .next (s.errEvent ⟨0x740, 0, none, 64, 0, 0⟩) else .next (s.manageOr r)

/-- POWER_ON_RESET (R396, R402): the straps are read; a strap setting that is not the form of the assembly holds the
device in Stage 0. The flash keeps its copies of the configuration record (R403). -/
def execPowerOnReset (form : BitVec 2) (boot dbg : Bool) (s : State) : Host.Outcome State Fault Refusal :=
  let r : State := { State.reset with agenda := s.agenda, free := s.free, scan := 1024, bootMbx := boot, dbg := dbg,
                                      flashA := s.flashA, flashB := s.flashB }
  if form = 3 || form ≠ Config.fusedForm then .next ({ r with strapErr := true }.manageInt .straps)
  else .next { r with form := form }

/-- Where the boot ROM places partition 0's tables in the boot region (R405, log 15). -/
def bootRoot : Nat := 0x10000
def bootLevel1 : Nat := 0x10100
def bootKtab : Nat := 0x20000
def bootLq : Nat := 0x80000
def bootCr : Nat := 0x90000
def bootRings : Nat := 0x1000000
def bootStop : Nat := 0x2000000
def bootPool : Nat := 0xC0000000

/-- The boot ROM's page tables: virtual addresses 0 to 4 GiB by 1 GiB leaves (R405). -/
def State.bootTables (s : State) : State :=
  (List.range 4).foldl (fun s i => s.sysWriteN (bootLevel1 + 8 * i) 8 (i * 2 ^ 30 + 7) 0) (s.sysWriteN bootRoot 8 (bootLevel1 + 1) 0)

/-- STAGE_0 (R404, R405). -/
def execStage0 (s : State) : Host.Outcome State Fault Refusal :=
  if s.stage ≠ 0 || s.strapErr then .next s
  else
    let s := (s.zeroRange 0 (2 ^ 32)).bootTables
    let s := s.modPart 0 fun x =>
      { x with dies := [0], root := bootRoot, rootn := 1, ktab := bootKtab, ranges := [(bootPool, 2 ^ 30)],
               free := (blocksOf 64 bootPool (2 ^ 30)).map (fun e => (e.1, e.2, 0)), stopBase := bootStop }
    let s := s.modLq 0 0 fun l => { l with base := bootLq, sz := 4096, cbase := bootCr, cs := 256 }
    let s := (List.range 64).foldl (fun s q => s.modTq q fun t => { t with part := some 0, base := bootRings + 262144 * q }) s
    .next ({ s with stage := 1 }.manageInt (.stage 0))

/-- The copy of the configuration record that Stage 1 uses, and whether it is B: the valid one with the greater update
count (R403); of two equal counts A (log 73). -/
def State.record? (s : State) : Option (ConfigRecord × Bool) :=
  if s.flashB.valid && (!s.flashA.valid || s.flashA.count < s.flashB.count) then some (s.flashB, true)
  else if s.flashA.valid then some (s.flashA, false)
  else none

/-- Whether a record's spare map moves a die whose partition has a resident task (R405). -/
def State.mapWaits (s : State) (r : ConfigRecord) : Bool :=
  (r.spares.any fun e => e.1 = 0 && e.2 ≠ s.physDie 0) && !(s.ctxsOf 0).isEmpty

/-- STAGE_1 (R402 to R405): firmware, of the flash or of the mailbox, loads the
configuration record and sets the thresholds. Without firmware that verifies, or with no valid copy of the record, the
device stays in Stage 0; a map that moves die 0 waits while partition 0 has a resident task. -/
def execStage1 (fw : FirmwareStart) (s : State) : Host.Outcome State Fault Refusal :=
  if s.stage ≠ 1 || !(if s.bootMbx then s.fwLoaded else fw.verifies) then .next s
  else match s.record? with
  | none => .next s
  | some (r, b) =>
    if s.mapWaits r then .next s
    else
      .next ({ s with spare := r.spares.foldl (fun (m : Tbl Nat) (e : Nat × Nat) => tblPut m e.1 e.2) s.spare, retired := r.retired, seeds := r.erasures,
                      trims := r.trims, flashUse := b, dth := fw.dth % 65536, cth := fw.cth % 65536,
                      stage := 2 }.manageInt (.stage 1))

/-- STAGE_2 (R404): the rest of HBM is initialised, erasure tables seeded, the shared array written. -/
def execStage2 (s : State) : Host.Outcome State Fault Refusal :=
  if s.stage ≠ 2 then .next s
  else
    let base := s.devId * 2 ^ 53
    let s := (s.zeroRange (base + 2 ^ 32) (2 ^ 40 - 2 ^ 32)).zeroRange (base + 2 ^ 50) (2 ^ 31)
    let s := s.seeds.foldl (fun s e => s.manageOr (.erasure e.1 e.2.1 e.2.2.1 e.2.2.2)) s
    .next ({ s with stage := 3 }.manageInt (.stage 2))

/-- The device's own memory, whose addresses hold its identifier, under a new one (R196, R400). -/
def State.renumber (s : State) (dev : Nat) : State :=
  let old := s.devId * 2 ^ 53
  let new := dev * 2 ^ 53
  let own := s.mem.filter fun e => old ≤ e.1 && e.1 < old + 2 ^ 53
  { s with devId := dev, mem := own.map (fun e => (e.1 - old + new, e.2)) ++ s.mem.filter fun e => 2 ^ 64 ≤ e.1, hbmErr := s.hbmErr.map (fun e => (e.1 - old + new, e.2)),
           hbmPois := s.hbmPois.map (fun a => a - old + new), rewrite := s.rewrite.map (fun a => a - old + new),
           shaSyn := s.shaSyn.map fun e => (e.1 - old / 4 + new / 4, e.2) }

/-- STAGE_3 (R400, R404, R418): identifier and links; numbers and windows of the fabric start at 0. Without its links it
fails, and the device stays in Stage 2. -/
def execStage3 (dev : Nat) (links : Bool) (s : State) : Host.Outcome State Fault Refusal :=
  if s.stage ≠ 3 || 1024 ≤ dev || !links then .next s
  else .next ({ s.renumber dev with stage := 4, fabric := true, nseq := [], windows := [] }.manageInt (.stage 3))

/-- ROW_SWAP (R215, R344, R365): row a of a bank, whose activations have reached the bank's threshold, changes places
with row b; with a full table none is swapped, and the event is logged. Bank numbers are 64 x (66 x stack + channel) +
bank; the count of the row begins again (log 16). -/
def execRowSwap (bank a b : Nat) (s : State) : Host.Outcome State Fault Refusal :=
  let t := tblGet [] s.rowInd bank
  let at_ := s.physRow bank
  let put (t : Tbl Nat) (r p : Nat) : Tbl Nat := if r = p then tblErase t r else tblPut t r p
  let t' := put (put t a (at_ b)) b (at_ a)
  let ch := bank / 64
  let st := ch / 66
  if !(match tblFind s.swapThr bank with | some n => n ≤ tblGet 0 s.acts (bank * 2 ^ 20 + at_ a) | none => false) then .next s
  else
  let s : State := { s with acts := tblErase s.acts (bank * 2 ^ 20 + at_ a) }
  if 1024 ≤ t.length || 1024 < t'.length then
    .next (s.errEvent ⟨0x200 + ch, s.devId * 2 ^ 53 + st * 2 ^ 36, some 8, 5 * (st / 4) + st % 4, 0, 0⟩)
  else .next { s with rowInd := tblPut s.rowInd bank t', swaps := tblPut s.swaps bank ((tblGet 0 s.swaps bank + 1) % 2 ^ 32) }

/-- SCRUB (R212): one word of the shared array, by its number. -/
def execScrub (word : Nat) (s : State) : Host.Outcome State Fault Refusal :=
  let sa := s.devId * 2 ^ 53 + 2 ^ 50 + 4 * (word % 2 ^ 29)
  let (_, _, m, y, ev) := eccRead 1 s.mem s.shaSyn sa
  .next ({ s with mem := m, shaSyn := y }.shaEvents 3 0 ev)

/-- CORRECTED_LINE_REWRITE (R213, R215). -/
def execCorrectedLineRewrite (line : Nat) (s : State) : Host.Outcome State Fault Refusal :=
  if s.rewrite.contains line then
    let s' : State := { s with rewrite := s.rewrite.filter (· ≠ line) }
    if s.lineState line = some true then .next { s' with hbmErr := tblErase s.hbmErr line } else .next s'
  else .next s

/-- A record as 32 bytes. -/
def TraceRec.bits (r : TraceRec) : Nat := packElems 64 [r.w0.toNat, r.w1.toNat, r.w2.toNat, r.w3.toNat]

/-- TRACE_DRAIN (R360, R362): the oldest record goes to the ring, unless the ring is full. -/
def execTraceDrain (d : Nat) (s : State) : Host.Outcome State Fault Refusal :=
  let x := s.die d
  match x.trace with
  | [] => .next s
  | r :: rest =>
    if x.ringSize / 32 ≤ x.ringW - x.ringR then .next s
    else
      let s := s.sysWriteN (x.ringBase + 32 * (x.ringW % (x.ringSize / 32))) 32 r.bits 0
      .next (s.modDie d fun x => { x with trace := rest, ringW := x.ringW + 1 })

/-- Whether RDMA reaches a range (R401): HBM or shared array of this device. -/
def State.rdmaOk (s : State) (a len : Nat) : Bool := saDev a = s.devId && saLevel a < 2 && s.saOk a (Nat.max 1 len)

/-- RDMA runs over the Ethernet links that Stage 3 brings up, through a posted queue pair (R401, R404). -/
def State.rdmaUp (s : State) : Bool := 4 ≤ s.stage && !s.qpairs.isEmpty

def State.rdmaBad (s : State) : State := { s with rdmaErr := s.rdmaErr + 1 }

/-- RDMA_WRITE (R401). -/
def execRdmaWrite (a : Nat) (bytes : List Byte) (s : State) : Host.Outcome State Fault Refusal :=
  if !s.rdmaUp then .next s
  else if !s.rdmaOk a bytes.length then .next s.rdmaBad
  else .next (s.performOp none (.write a bytes)).1

/-- A part of a row that RDMA reads (R401): each poisoned line of HBM, or word of the shared array, is logged as kind
0x01; what the read itself finds uncorrectable is logged as that. -/
def State.rdmaPart (s : State) (a n : Nat) : State × Bool :=
  if saLevel a = 0 then
    let line := a / 64 * 64
    let old := s.hbmPois.contains line
    let (s, _, p) := s.sysRead line 0
    (if old then s.hbmEvent line 1 0 0 else s, p ≠ 0)
  else
    let lo := a / 4 * 4
    let k := (a + n - lo + 3) / 4
    let old := (List.range k).filter fun i => tblGet 0 s.shaSyn (lo / 4 + i) = 0x7F#7
    let (s, _, p) := s.shaWords lo (4 * k) 0
    (s.shaEvents 1 0 (old.map fun i => (lo + 4 * i, 0x7F#7, true)), p ≠ 0)

/-- RDMA_READ (R401): poison ends it with an error completion. -/
def execRdmaRead (a len : Nat) (s : State) : Host.Outcome State Fault Refusal :=
  if !s.rdmaUp then .next s
  else if !s.rdmaOk a len then .next s.rdmaBad
  else
    let (s, bad) := (partsOf a len).foldl (fun (r : State × Bool) p =>
      let (s, b) := r.1.rdmaPart p.1 p.2
      (s, r.2 || b)) (s, false)
    .next (if bad then s.rdmaBad else s)

/-- What a mailbox request asks, carried out by the boot ROM or by firmware (R397, R398, R405): none where refused. -/
def State.request (s : State) : MailboxReq → Option State
  | .kernelEntry p k image control size =>
    if 4096 ≤ k || (s.stage < 2 && (p ≠ 0 || bitN control.toNat 2)) then none
    else
      let a := (s.part p).ktab + 32 * k
      some (s.sysWriteN a 32 (packElems 64 [image.toNat, control.toNat, size.toNat, 0]) 0)
  | .loadImage a bytes =>
    if !s.rdmaOk a bytes.length || (s.stage < 2 && 2 ^ 32 < a + bytes.length) then none
    else some (s.performOp none (.write a bytes)).1
  | .policy r => if s.stage < 2 then none else s.manage r
  | .queuePair port qp => if s.stage < 4 || 16 ≤ port then none else some { s with qpairs := s.qpairs ++ [(port, qp)] }
  | .firmware ok => if s.stage = 1 && s.bootMbx && ok then some { s with fwLoaded := true } else none

/-- MAILBOX_REQUEST (R397, R399, R405): the reply raises the vector of its slot. -/
def execMailboxRequest (m : MailboxMsg) (s : State) : Host.Outcome State Fault Refusal :=
  if s.stage = 0 then .next s
  else match s.request m.req with
    | some s' => .next ({ s' with mailbox := s'.mailbox ++ [(m.slot, true)] }.interrupt (1 + m.slot % 15))
    | none => .next ({ s with mailbox := s.mailbox ++ [(m.slot, false)] }.interrupt (1 + m.slot % 15))

/-- FRAME_CHECK_FAILURE (R348, R349): counted, not logged. -/
def execFrameCheckFailure (port : Nat) (s : State) : Host.Outcome State Fault Refusal :=
  .next (s.errEvent ⟨0x750 + port % 16, 0, none, 64, 0, 0⟩)

end Sys2Proof.Machine
end

