-- ==== Sys2Proof/Machine/MatrixEngine.lean ====
section
/-! DEFINITION. The matrix engine: reading operands (R264 to R268, R273, R274), the multiply-accumulate (R278),
loads and stores of accumulators (R279 to R281), checksums (R275, R276), provenance (R181, R182) and the three
events of a command (R272, R273). -/

namespace Sys2Proof.Machine

/-- What a read of whole rows finds: the data and poison marks, or the address of a row that another core has
open (R252, R268). -/
inductive RowRead where
  | ok (s : State) (data pois : Nat)
  | race (addr : Nat)

/-- Reads n rows of a core's SPM from address a for its engine, in rising order (R232, R251). -/
def State.engRead (n tag : Nat) : Nat → State → Nat → RowRead
  | 0, s, _ => .ok s 0 0
  | m + 1, s, a =>
    match (s.engTouch n a false).plain n (spmKey n a) false true with
    | none => .race a
    | some s =>
      let (s, d, p) := s.spmRead n a tag
      match State.engRead n tag m s (a + 64) with
      | .race x => .race x
      | .ok s d' p' => .ok s (d + d' <<< 512) (p + p' <<< 16)

/-- Reads regions in turn: their data, and whether a word in use was poisoned. keep says which words of a row
count. -/
def State.engRegions (n tag : Nat) : List ((Nat × Nat) × Nat) → State → List Nat → Bool → Option (State × List Nat × Bool) × Nat
  | [], s, ds, b => (some (s, ds.reverse, b), 0)
  | (r, keep) :: l, s, ds, b =>
    match s.engRead n tag (r.2 / 64) r.1 with
    | .race a => (none, a)
    | .ok s d p =>
      let bad := (List.range (r.2 / 64)).any fun i => (p >>> (16 * i)) &&& keep != 0
      State.engRegions n tag l s (d :: ds) (b || bad)

/-- Regions a command reads at its start. -/
def MxCmd.regions (c : MxCmd) : List ((Nat × Nat) × Nat) :=
  match c.i with
  | .mma .. | .mmas .. =>
    let r := mmaRegions c.fmt c.ta c.tb
    -- a CB2 row holds its indices in its first 32 bytes (R264)
    let k (code : Nat) : Nat := if code = 11 then 0xFF else allPoison
    [(r.a, k (fwA c.fmt)), (r.meta_, allPoison), (r.ascale, allPoison), (r.b, k (fwB c.fmt)), (r.bscale, allPoison)]
  | .mldacc .. => [((c.ta.toNat, accLen (fwC c.fmt = 2)), allPoison)]
  | _ => []

/-- Accumulator of a command. -/
def MxCmd.acc (c : MxCmd) : Nat :=
  match c.i with
  | .mma _ a .. => a.toNat | .mmas _ a .. => a.toNat | .mzero _ a => a.toNat
  | .mldacc _ a .. => a.toNat | .mstacc _ a _ => a.toNat
  | _ => 0

/-- REL of a command. -/
def MxCmd.rel (c : MxCmd) : Bool :=
  match c.i with
  | .mma _ _ _ _ _ _ r => r = 1 | .mmas _ _ _ _ _ r => r = 1 | .mldacc _ _ _ r => r = 1
  | _ => false

/-- D bits of the operands. -/
def MxCmd.dBits (c : MxCmd) : Bool × Bool :=
  match c.i with
  | .mma _ _ _ _ e f _ => (e = 1, f = 1) | .mmas _ _ _ _ f _ => (false, f = 1)
  | _ => (false, false)

def MxCmd.hdr (c : MxCmd) : Hdr := (c.i.hdr?).getD ⟨0, 0, 0, 0⟩

/-- The M cluster that issued a command. -/
def MxCmd.who (n : Nat) (c : MxCmd) : Who := ⟨n, c.ctx, .m⟩

/-- A command whose context still takes it: its clusters have not stopped (R369, R370) and no earlier command
of it has failed (R274). -/
def State.mxAlive (s : State) (n : Nat) (c : MxCmd) : Bool :=
  let x := (s.core n).ctx c.ctx
  x.task.isSome && !x.mxBad && (x.clu .m).run ≠ .stopped

/-- Takes the first command whose context is alive out of the queue. -/
def takeFirst (p : MxCmd → Bool) : List MxCmd → Option (MxCmd × List MxCmd)
  | [] => none
  | c :: r => if p c then some (c, r) else (takeFirst p r).map fun (x, l) => (x, c :: l)

/-- An engine of a core faults at a command (R274, R372): its stop record, the trace record and what follows by
class (R367). The command ends with no further effect. -/
def State.mxFault (s : State) (n : Nat) (c : MxCmd) (code : Nat) (addr : Nat) : State :=
  let k := c.who n
  let t := s.taskOf k
  let dcc := (s.die (dieOf n)).dcc
  let r : StopRec :=
    { StopRec.zero with code := code, kind := 2, eng := code = fRace && s.rowEng (spmKey n addr), unit := 4, task := t.tid, addr := BitVec.ofNat 64 addr,
                        cseq := c.cseq % 2 ^ 48, loc := dcc }
  let s := s.modCore n fun x => { x with mxRun := none, engStop := tblPut x.engStop 4 r }
  let s := s.modCtx k fun x => { x with mxBad := true }
  (s.traceRec { k with ctx := 0 } 4 6 dcc t.tid (BitVec.ofNat 64 code)).taskFault k 4 code

/-- MATRIX_COMMAND_START (R272): the engine takes the oldest command and reads its operand rows. DESIGN CHOICE
(log 61): a running command no longer counts among the 8 that the queue holds (R270). -/
def State.mxStart (s : State) (n : Nat) : State :=
  let core := s.core n
  if core.engHalt || core.mxRun.isSome then s
  else match takeFirst (s.mxAlive n) core.mxq with
  | none => s
  | some (c, rest) =>
    let x := core.ctx c.ctx
    if x.frozen then s
    else
      let s := s.modCore n fun k => { k with mxq := rest }
      let cbt := if fwA c.fmt = 11 || fwB c.fmt = 11 then core.cbt else []
      match State.engRegions n (s.taskOf (c.who n)).tag c.regions s [] false with
      | (none, a) => s.mxFault n c fRace a
      | (some (s, ds, bad), _) =>
        let g (i : Nat) : Nat := ds.getD i 0
        s.modCore n fun k => { k with mxRun := some ⟨c, ⟨g 0, g 1, g 2, g 3, g 4, bad, cbt⟩, false⟩ }

/-- Weight of lane l of a CB2 index without its scale (R41). -/
def cb2Val (cbt : Tbl (BitVec 24)) (x l : Nat) : Val :=
  let b := bitsN (tblGet 0 cbt (x / 256 % 256)).toNat (3 * l) 3
  let neg := if l < 7 then bitN x (l + 1) else (popAux 7 (x >>> 1)) % 2 = 1
  .fin neg (2 * b + x % 2) (-3)

/-- Element (line l, position k) of an operand tile, or of tiles one after the other (R264, R265). -/
def tileElem (w kk : Nat) (d : Bool) (tile l k : Nat) : Nat :=
  let t := tile >>> (16384 * (k / kk))
  if d then elemOf w t (32 * (k % kk) + l) else (t >>> (512 * l + w * (k % kk))) % 2 ^ w

/-- The exact value of element (line l, position k) of an operand with its scale (R266, R268). kd is the depth. -/
def opVal (code kd : Nat) (scaled : Bool) (scale : Nat) (cbt : Tbl (BitVec 24)) (tile : Nat) (l k : Nat)
    (elem : Nat) : Val :=
  let v := if code = 11 then cb2Val cbt ((tile >>> (512 * l + 16 * (k / 8))) % 2 ^ 16) (k % 8)
    else ((mxFmt code).getD .fp32).decode elem
  if hasScale code scaled then
    v.mul (Fmt.bf16.decode (elemOf 16 scale (l * (kd / scaleSpan code) + k / scaleSpan code)))
  else v

/-- Element (i, k) of the A operand that the 2:4 metadata expands (R265). -/
def sparseElem (w kk : Nat) (tile md i k : Nat) : Nat :=
  let g := k / 4
  let m := elemOf 4 (md >>> (2 * kk * i)) g
  if m / 4 = k % 4 then tileElem w kk false tile i (2 * g + 1)
  else if m % 4 = k % 4 then tileElem w kk false tile i (2 * g)
  else 0

/-- Rows of A and columns of B as exact values. -/
def MxRun.rowsA (r : MxRun) : List (List Val) :=
  let f := r.cmd.fmt
  let a := fwA f
  let w := mxWidth a
  let kd := cmdDepth f
  (List.range 32).map fun i => (List.range kd).map fun k =>
    opVal a kd (bitN (fwScale f) 0) r.input.ascale r.input.cbt r.input.a i k
      (if fwSparse f then sparseElem w (mxDepth w) r.input.a r.input.meta_ i k
       else tileElem w (mxDepth w) r.cmd.dBits.1 r.input.a i k)
def MxRun.colsB (r : MxRun) : List (List Val) :=
  let f := r.cmd.fmt
  let b := fwB f
  let w := mxWidth b
  let kd := cmdDepth f
  (List.range 32).map fun j => (List.range kd).map fun k =>
    opVal b kd (bitN (fwScale f) 1) r.input.bscale r.input.cbt r.input.b j k
      (tileElem w (mxDepth w) r.cmd.dBits.2 r.input.b j k)

/-- One element of a result: its bits and marks, the provenance kind (0 for none), its terms for the
checksums, and whether it loses VALID. -/
structure MxElem where
  bits : Nat
  fl : NumFlags
  kind : Nat
  sum : XSum
  mag : Dy
  lost : Bool

/-- Exact running sum of values, and of their magnitudes. -/
def xsumOf (l : List Val) : XSum := l.foldl XSum.add XSum.zero
def magOf (l : List Val) : Dy := l.foldl (fun t v => t.add v.toDy.abs) Dy.zero

/-- What happened to an element (R182): clamped, or finite and now NaN, infinite or NaR. -/
def provKind (f : Fmt) (old : Val) (y : Nat) (fl : NumFlags) : Nat :=
  if fl.clamped then 4
  else match old, f.decode y with
    | .num .., .nan => if f = .tf8 || f = .tf16 then 3 else 1
    | .num .., .inf _ => 2
    | _, _ => 0

/-- One element of MMA (R278): exact products and the incoming element, rounded once or saturated. DEDUCED (log 96): an
I32 element whose exact total is NaN or infinite, by a block scale, is 0 or the limit of I32, as R48 has it. -/
def mmaElem (cf : Fmt) (rm : Rnd) (sr : Nat) (ps : List Val) (old : Nat) : MxElem :=
  let o := cf.decode old
  let t := exactTotal rm (ps ++ [o])
  let (y, fl) := roundTo cf rm sr false t
  let beyond := match t with | .num .. => !Dy.le t.toDy.abs (cf.decode cf.maxCode).toDy | _ => false
  ⟨y, fl, provKind cf o y fl, xsumOf ps, magOf (ps ++ [o]), if cf.isInt then fl.clamped else beyond⟩

/-- Adds a list of terms to a checksum line. -/
def addLine (e : XSum × Dy) (l : List MxElem) : XSum × Dy :=
  (l.foldl (fun x m => ⟨x.v.add m.sum.v, x.nan || m.sum.nan, x.pinf || m.sum.pinf, x.ninf || m.sum.ninf⟩) e.1,
    l.foldl (fun t m => t.add m.mag) e.2)

/-- Row i and column j of 1,024 elements. -/
def rowOf {α : Type} (i : Nat) (l : List α) : List α := (l.drop (32 * i)).take 32
def colOf {α : Type} (j : Nat) (l : List α) : List α := everyNth 32 j l

/-- Checksum state after a rounding command (R275). -/
def Cks.afterMma (k : Cks) (chk : Bool) (cf : Nat) (es : List MxElem) : Cks :=
  let z : XSum × Dy := (XSum.zero, Dy.zero)
  let k := if chk && k.valid then
      { k with row := (List.range 32).map fun j => (j, addLine (tblGet z k.row j) (colOf j es)),
               col := (List.range 32).map fun i => (i, addLine (tblGet z k.col i) (rowOf i es)),
               m := Nat.min (k.m + 1) (2 ^ 32 - 1) }
    else k
  { k with fmt := cf, valid := k.valid && chk && !(es.any fun e => e.lost) }

/-- Checksum state after a load of elements (R275). -/
def Cks.ofLoad (cf : Nat) (vs : List Val) : Cks :=
  { row := (List.range 32).map fun j => (j, xsumOf (colOf j vs), magOf (colOf j vs)),
    col := (List.range 32).map fun i => (i, xsumOf (rowOf i vs), magOf (rowOf i vs)),
    valid := true, m := 0, fmt := cf }

/-- One comparison of R61. -/
def r61 (cf : Fmt) (c r : XSum) (t : Dy) (m : Nat) : Bool :=
  match c.total, r.total with
  | .nan, .nan => true
  | .inf a, .inf b => a = b
  | .num .., .num .. =>
    let d := (c.v.add r.v.neg).abs
    if cf.isInt then d.m = 0
    else Dy.le d (Dy.add ⟨t.m, t.e - 20⟩ ⟨32 * m, if cf = .fp64 then -1074 else -149⟩)
  | _, _ => false

/-- The least line that fails, 31 where none does. -/
def firstBad (cf : Fmt) (m : Nat) (sums : Tbl (XSum × Dy)) (line : Nat → List Val) : Option Nat :=
  (List.range 32).find? fun i =>
    let e := tblGet (XSum.zero, Dy.zero) sums i
    !r61 cf e.1 (xsumOf (line i)) e.2 m

/-- Verification (R276): the location of a failure. -/
def Cks.verify (k : Cks) (cf : Fmt) (vs : List Val) : Option (Nat × Nat) :=
  match firstBad cf k.m k.col (fun i => rowOf i vs), firstBad cf k.m k.row (fun j => colOf j vs) with
  | none, none => none
  | r, c => some (r.getD 31, c.getD 31)

/-- Word 0 of a provenance record (Table 6.3). -/
def provWord (c : MxCmd) (kind row col : Nat) : Word :=
  let cf := fwC c.fmt
  let n := if cf = 2 then c.acc / 2 * 2 else c.acc
  let src := match c.i with | .mstacc .. => 1 | _ => 0
  BitVec.ofNat 64 (1 + kind * 2 + src * 16 + n * 32 + row * 2 ^ 8 + col * 2 ^ 13 + fwA c.fmt * 2 ^ 18 +
    fwB c.fmt * 2 ^ 22 + cf * 2 ^ 26)

/-- Writes a provenance record (R182). must: a checksum record, which replaces PROV3 where none is free. -/
def Ctx.addProv (x : Ctx) (c : MxCmd) (tid : Word) (kind row col : Nat) (must : Bool) : Ctx :=
  let tb := match c.i with | .mstacc .. => 0 | _ => c.tb.toNat % 2 ^ 20
  let r : List Word := [provWord c kind row col, tid, BitVec.ofNat 64 (c.cseq % 2 ^ 48),
    BitVec.ofNat 64 (c.ta.toNat % 2 ^ 20 + tb * 2 ^ 20)]
  match (List.range 4).find? fun n => ((x.provOf n).getD 0 0) = 0 with
  | some n => { x with prov := tblPut x.prov n r }
  | none => if must then { x with prov := tblPut x.prov 3 r }.lostProv else x.lostProv

/-- The numeric record of a list of elements (R182): the least index with an event. -/
def firstKind : List Nat → Nat → Option (Nat × Nat)
  | [], _ => none
  | k :: r, i => if k = 0 then firstKind r (i + 1) else some (k, i)

def State.numProv (s : State) (n : Nat) (c : MxCmd) (kinds : List Nat) : State :=
  if !fwProv c.fmt then s
  else match firstKind kinds 0 with
    | none => s
    | some (kind, i) =>
      let t := s.taskOf (c.who n)
      s.modCtx (c.who n) fun x => x.addProv c t.tid kind (i / 32) (i % 32) false

/-- Frame offset of a command's accumulator under its captured view (R148). -/
def MxCmd.accAt (c : MxCmd) : Nat := accOff (tblGet 0 c.views 3) c.acc (fwC c.fmt = 2)

/-- Number of the checksum state: an FP64 pair uses the even one (R275). -/
def MxCmd.cksNo (c : MxCmd) : Nat := if fwC c.fmt = 2 then c.acc / 2 * 2 else c.acc

/-- Checksum enable: taken as 1 in a protected class (R184). -/
def State.mxChk (s : State) (n : Nat) (c : MxCmd) : Bool := fwChk c.fmt || (s.taskOf (c.who n)).cls ≠ 0

/-- What V has written to the frame and is not visible yet lies over it for the matrix engine, in the order in which it
becomes visible (R26, R149): V's token may have put the engine after those writes. -/
def Ctx.frameAhead (x : Ctx) (m : Mem) : Mem :=
  (byVis (x.clu .v).dl).foldl (fun m f => f.res.foldl (fun m r =>
    match r with
    | .frame o n v k => m.writeN (x.fo + o) n ((m.readN (x.fo + o) n &&& (2 ^ (8 * n) - 1 - k)) ||| (v &&& k))
    | _ => m) m) m

/-- The part of a result that lies outside len frame bytes from offset off. -/
def Res.outside (off len : Nat) : Res → Res
  | .frame o n v k =>
    let lo := Nat.max o off
    let hi := Nat.min (o + n) (off + len)
    .frame o n v (if lo < hi then k - (k &&& ((2 ^ (8 * (hi - lo)) - 1) <<< (8 * (lo - o)))) else k)
  | r => r

/-- The matrix engine writes len frame bytes from offset off of a context: after the V writes that have issued, which
have no bit there any more (R149). -/
def State.mxPut (s : State) (k : Who) (off len v : Nat) : State :=
  (s.modCore k.core fun c => { c with frame := c.frame.writeN ((c.ctx k.ctx).fo + off) len v }).modClu { k with clu := .v }
    fun c => { c with dl := c.dl.map fun f => { f with res := f.res.map (Res.outside off len) } }

/-- len frame bytes from offset off as the matrix engine reads them. -/
def State.mxGet (s : State) (k : Who) (off len : Nat) : Nat :=
  ((s.ctxOf k).frameAhead (s.core k.core).frame).readN ((s.ctxOf k).fo + off) len

/-- The results of MMA and MMAS (R278). -/
def MxRun.elems (r : MxRun) (old : Nat) : List MxElem :=
  let c := r.cmd
  let cf := accFmt (fwC c.fmt)
  let rm := rndOf (fwRm c.fmt) c.rmode
  let bs := r.colsB
  let olds := elemsOf cf.width 1024 old
  (r.rowsA.zipIdx.flatMap fun (a, i) => bs.zipIdx.map fun (b, j) =>
    mmaElem cf rm (srBits c.seed c.stream c.ctr (32 * i + j)) (List.zipWith Val.mul a b)
      (olds.getD (32 * i + j) 0))

/-- MMA and MMAS come to their end: accumulator, CIR, checksums, provenance. -/
def State.mxMma (s : State) (n : Nat) (r : MxRun) : State :=
  let c := r.cmd
  let cf := accFmt (fwC c.fmt)
  let len := 128 * cf.width
  let es := r.elems (s.mxGet (c.who n) c.accAt len)
  let s := s.mxPut (c.who n) c.accAt len (packElems cf.width (es.map MxElem.bits))
  let chk := s.mxChk n c
  let s := s.modCtx (c.who n) fun x =>
    { x.setCir (es.foldl (fun b e => b ||| cirOf e.fl) (if r.input.pois then 1 else 0)) with
             cks := tblPut x.cks c.cksNo ((x.cksOf c.cksNo).afterMma chk (fwC c.fmt) es) }
  s.numProv n c (es.map MxElem.kind)

/-- MLDACC (R280). -/
def State.mxLoad (s : State) (n : Nat) (r : MxRun) : State :=
  let c := r.cmd
  let cf := accFmt (fwC c.fmt)
  let s := s.mxPut (c.who n) c.accAt (128 * cf.width) r.input.a
  s.modCtx (c.who n) fun x =>
    { x.setCir (if r.input.pois then 1 else 0) with
             cks := tblPut x.cks c.cksNo (Cks.ofLoad (fwC c.fmt) ((elemsOf cf.width 1024 r.input.a).map cf.decode)) }

/-- MZERO (R279). -/
def State.mxZero (s : State) (n : Nat) (c : MxCmd) : State :=
  (s.mxPut (c.who n) (accOff (tblGet 0 c.views 3) c.acc false) 4096 0).modCtx (c.who n) fun x => { x with cks := tblPut x.cks c.acc Cks.start }

/-- Writes converted rows one at a time (R281): stops at a row that another core has open. cirs: the CIR bits of
each row's elements. DESIGN CHOICE (log 80): all of them in the one event in which the command completes. -/
def State.mxStoreRows (n : Nat) (k : Who) : List (Nat × Nat) → State → Nat → State × Option Nat
  | [], s, _ => (s, none)
  | (row, cir) :: l, s, a =>
    match (s.engTouch n a true).plainStore n (spmKey n a) (2 ^ 64 + spmKey n a) true with
    | none => (s, some a)
    | some s =>
      let s := ((s.spmWrite n a fullMask row 0).wipeCell (2 ^ 64 + spmKey n a) fullMask).modCtx k fun x => x.setCir cir
      State.mxStoreRows n k l s (a + 64)

/-- Rows of a converted accumulator, each with its CIR bits. -/
def storeTable (w : Nat) (es : List (Nat × NumFlags)) : Nat → List (Nat × Nat)
  | 0 => []
  | m + 1 =>
    let k := 512 / w
    (packElems w ((es.take k).map Prod.fst), cirAll (es.take k)) :: storeTable w (es.drop k) m

/-- MSTACC (R281, R410): none when it faults, with the state the fault leaves. DESIGN CHOICE (log 80): CFMT of the
MSTACC's own format word decodes the elements and picks R61's test, whatever the format of the checksum state (R276); an
MSTACC that RACE ends makes no numeric provenance record (R274). -/
def State.mxStore (s : State) (n : Nat) (c : MxCmd) : State × Bool :=
  let k := c.who n
  let x := s.ctxOf k
  let cf := accFmt (fwC c.fmt)
  let vs := (elemsOf cf.width 1024 (s.mxGet k c.accAt (128 * cf.width))).map cf.decode
  let ks := x.cksOf c.cksNo
  match (if s.mxChk n c && ks.valid then ks.verify cf vs else none) with
  | some (i, j) =>
    let s := s.modCtx k fun x => x.addProv c (s.taskOf k).tid 5 i j true
    (s.mxFault n c fCheckFail 0, false)
  | none =>
    let tf := (mxFmt (fwA c.fmt)).getD .fp32
    let rm := rndOf (fwRm c.fmt) c.rmode
    let es := vs.zipIdx.map fun (v, i) => roundTo tf rm (srBits c.seed c.stream c.ctr i) (fwScale c.fmt = 1) v
    match State.mxStoreRows n k (storeTable tf.width es (2 * tf.width)) s c.ta.toNat with
    | (s, some a) => (s.mxFault n c fRace a, false)
    | (s, none) => (s.numProv n c (List.zipWith (fun v e => provKind tf v e.1 e.2) vs es), true)

/-- Addresses of the rows that MSTACC writes (R281): one that another engine has read in this cc is written in the next
(R207). -/
def MxCmd.storeAddrs (c : MxCmd) : List Nat :=
  (List.range (2 * ((mxFmt (fwA c.fmt)).getD .fp32).width)).map fun i => c.ta.toNat + 64 * i

/-- The register-space writes of MMA, MMAS and MLDACC. -/
def State.mxEffect (s : State) (n : Nat) (r : MxRun) : State :=
  match r.cmd.i with
  | .mma .. => s.mxMma n r
  | .mmas .. => s.mxMma n r
  | .mldacc .. => s.mxLoad n r
  | _ => s

/-- Posts the release flag once, after the command's writes, which the flag orders too (R149, R273). -/
def State.mxRelease (s : State) (n : Nat) : State :=
  match (s.core n).mxRun with
  | none => s
  | some r =>
    if r.released || !r.cmd.rel then s
    else
      let k := r.cmd.who n
      let s := (s.mxEffect n r).teach r.cmd.past (.flagIn k.core k.ctx (fwRelf r.cmd.fmt))
      (s.modCore n fun k => { k with mxRun := some { r with released := true } }).modCtx (r.cmd.who n)
        fun x => x.setFlag (fwRelf r.cmd.fmt) false 4

/-- RING_STAGE_RELEASE. -/
def State.mxReleaseEvent (s : State) (n : Nat) : State :=
  match (s.core n).mxRun with
  | none => s
  | some r => if ((s.core n).ctx r.cmd.ctx).frozen then s else s.mxRelease n

/-- A matrix command has completed (R272): its pushes, its records. -/
def State.mxEnd (s : State) (n : Nat) (c : MxCmd) : State :=
  let k := c.who n
  let s := (s.modCore n fun x => { x with mxRun := none }).pushNow k c.hdr.sig c.past
  let s := s.perf n 11 c.ctx none 1
  let t := s.taskOf k
  if s.traceOn t.part 7 then
    s.traceRec { k with ctx := 0 } 4 7 (s.die (dieOf n)).dcc t.tid (BitVec.ofNat 64 (c.cseq % 2 ^ 48 * 2 ^ 16))
  else s

/-- The writes of a command and its release flag, as far as they are still to be made (R273). -/
def State.mxFinish (s : State) (n : Nat) (r : MxRun) : State :=
  if r.released then s else if r.cmd.rel then s.mxRelease n else s.mxEffect n r

/-- MATRIX_COMMAND_COMPLETE (R272). -/
def State.mxComplete (s : State) (n : Nat) : State :=
  match (s.core n).mxRun with
  | none => s
  | some r =>
    let c := r.cmd
    let x := (s.core n).ctx c.ctx
    if x.frozen || !x.roomTok (sigQueues .m c.hdr.sig) then s
    else match c.i with
    | .mma .. => (s.mxFinish n r).mxEnd n c
    | .mmas .. => (s.mxFinish n r).mxEnd n c
    | .mldacc .. => (s.mxFinish n r).mxEnd n c
    | .mzero .. => (s.mxZero n c).mxEnd n c
    | .mstacc .. =>
      if c.storeAddrs.any (s.core n).readNow then s
      else match s.mxStore n c with | (s, true) => s.mxEnd n c | (s, false) => s
    | _ => s.mxEnd n c

def execMatrixCommandStart (n : Nat) (s : State) : Host.Outcome State Fault Refusal := .next (s.mxStart n)
def execRingStageRelease (n : Nat) (s : State) : Host.Outcome State Fault Refusal := .next (s.mxReleaseEvent n)
def execMatrixCommandComplete (n : Nat) (s : State) : Host.Outcome State Fault Refusal := .next (s.mxComplete n)

end Sys2Proof.Machine
end

