-- ==== Sys2Proof/Machine/Moves.lean ====
section
/-! DEFINITION. The other words of the VE unit (R163 to R171): moves, permutes and selects, reductions, tile
operations, mask words, windows and COMMIT. -/

namespace Sys2Proof.Machine

/-- Type of a destination of a word without a vector source (R140). -/
def Ctx.freeDst (x : Ctx) (d : VOp) : Option Fmt :=
  match d with
  | .reg n => x.winFmt (winOf n)
  | .que _ => x.winFmt 0

/-- A word of one-register operands whose destination has type TD: f makes the elements (R163 to R166). -/
def State.oneReg (s : State) (cls : Nat) (md : Option ModF) (srcs : List VOp) (dst : VOp) (td : Fmt)
    (f : List Nat → Nat → Nat) : Act :=
  s.vecRun cls (srcs.map (·, 1)) dst td 1 0 fun gs =>
    maskedElems (s.maskOf md) (zeroOf md) td.lanes fun j => (f (gs.map fun g => g.getD 0 0) j, NumFlags.none)

/-- VMOV copies without interpretation; masking by TD's width (R163). -/
def execVmov (h : Hdr) (md : Option ModF) (d a : BitVec 5) :=
  runWord (.vmov h md d a) h (meaning (maskLocs md) fun s =>
    match s.myCtx.srcFmt [vop a] with
    | none => .fault { code := fViewRange }
    | some ts =>
      match s.myCtx.dstFmt (vop d) .source ts with
      | none => .fault { code := fViewRange }
      | some td => s.oneReg 3 md [vop a] (vop d) td fun l j => elemOf td.width (l.getD 0 0) j)

/-- Every element becomes one value (R163). -/
def State.splat (s : State) (cls : Nat) (md : Option ModF) (d : BitVec 5) (v : Nat) : Act :=
  match s.myCtx.freeDst (vop d) with
  | none => .fault { code := fViewRange }
  | some td => s.oneReg cls md [] (vop d) td fun _ _ => v % 2 ^ td.width

def execVbcast (h : Hdr) (md : Option ModF) (d a : BitVec 5) :=
  runWord (.vbcast h md d a) h (meaning (.s a.toNat :: maskLocs md) fun s =>
    s.splat 8 md d (s.me.sreg a.toNat).toNat)
def execVli (h : Hdr) (x : Option ImmF) (md : Option ModF) (d : BitVec 5) (m : BitVec 10) :=
  runWord (.vli h x md d m) h (meaning (maskLocs md) fun s =>
    s.splat 3 md d (wordOfInt (extImm x 10 m.toNat)).toNat)

/-- VPERM takes its indices from B, of an integer type of its own (R164). A queue in A has the type of B's window, where
B is a register (R140). -/
def execVperm (h : Hdr) (md : Option ModF) (d a b : BitVec 5) :=
  runWord (.vperm h md d a b) h (meaning (maskLocs md) fun s =>
    let x := s.myCtx
    match x.srcFmt (match vop a with | .reg _ => [vop a] | .que _ => [vop a, vop b]) with
    | none => .fault { code := fViewRange }
    | some ts =>
      match x.dstFmt (vop d) .source ts, (match vop b with | .reg n => x.winFmt (winOf n) | .que _ => some ts) with
      | some td, some tb =>
        if td ≠ ts || !tb.isInt then .fault { code := fViewRange }
        else
          let e := td.lanes
          let wb := if tb.lanes < e then e / tb.lanes else 1
          s.vecRun 8 [(vop a, 1), (vop b, wb)] (vop d) td 1 0 fun gs =>
            let ra := (gs.getD 0 []).getD 0 0
            let idx (j : Nat) : Nat := groupElem tb (gs.getD 1 [0]) j
            maskedElems (s.maskOf md) (zeroOf md) e fun j => (elemOf td.width ra (idx j % e), NumFlags.none)
      | _, _ => .fault { code := fViewRange })

/-- A word of two sources of D's type (R164). -/
def State.pair (s : State) (d a b : BitVec 5) (f : Fmt → Act) : Act :=
  match s.myCtx.srcFmt [vop a, vop b] with
  | none => .fault { code := fViewRange }
  | some ts => if s.myCtx.dstFmt (vop d) .source ts = some ts then f ts else .fault { code := fViewRange }

def execVshuf (h : Hdr) (md : Option ModF) (d a b : BitVec 5) :=
  runWord (.vshuf h md d a b) h (meaning (maskLocs md) fun s =>
    s.pair d a b fun t => s.oneReg 8 md [vop a, vop b] (vop d) t fun l j =>
      elemOf t.width (l.getD (j % 2) 0) (j / 2))
/-- VSEL: the MOD mask selects, and every element is written (R164). -/
def execVsel (h : Hdr) (md : Option ModF) (d a b : BitVec 5) :=
  runWord (.vsel h md d a b) h (meaning (maskLocs md) fun s =>
    let on := s.maskOf md
    s.pair d a b fun t => s.oneReg 3 none [vop a, vop b] (vop d) t fun l j =>
      elemOf t.width (l.getD (if on j then 0 else 1) 0) j)

/-- VEXT extends by the type's signedness (R165). -/
def execVext (h : Hdr) (md : Option ModF) (d a b : BitVec 5) :=
  runWord (.vext h md d a b) h (meaning [.s b.toNat] fun s =>
    match s.myCtx.srcFmt [vop a] with
    | none => .fault { code := fViewRange }
    | some ts =>
      if s.me.interlocked (s.vLocs (vop a) 1) then .stall .interlock s
      else match s.source (vop a) 1 with
      | none => .stall .queue s
      | some (s', g) =>
        let w := elemOf ts.width (g.getD 0 0) ((s.me.sreg b.toNat).toNat % ts.lanes)
        let v := match ts with | .int true n => wordOfInt (sextN w n) | _ => BitVec.ofNat 64 w
        .done (s'.later 8 [.scal d.toNat v]) .seq)
/-- VINS puts one element; in a queue row the others are zero (R140, R165). -/
def execVins (h : Hdr) (md : Option ModF) (d a b : BitVec 5) :=
  runWord (.vins h md d a b) h (meaning [.s a.toNat, .s b.toNat] fun s =>
    match s.myCtx.freeDst (vop d) with
    | none => .fault { code := fViewRange }
    | some td =>
      let k := (s.me.sreg b.toNat).toNat % td.lanes
      let v := (s.me.sreg a.toNat).toNat % 2 ^ td.width
      s.vecRun 8 [] (vop d) td 1 0 fun _ =>
        ((List.range td.lanes).map fun j => if j = k then some v else none, 0))

/-- The value of a reduction over the participants (R166): op 0 sum, 1 largest, 2 least. -/
def reduceVal (op : Nat) (ts td : Fmt) (rm : Rnd) (xs : List Nat) : Val :=
  let vs := xs.map ts.decode
  match vs with
  | [] =>
    if op = 0 then .fin false 0 0
    else if td.isFloat then .inf (op = 1)
    else match td with
      | .int sg n => Val.ofInt (if op = 1 then (intRange sg n).1 else (intRange sg n).2)
      | _ => .nan
  | v :: r => if op = 0 then exactTotal rm vs else r.foldl (Val.minmax (op = 1)) v

/-- An integer total keeps no negative zero. -/
def reduceOut (td : Fmt) (rm : Rnd) (sr : Nat) (x : Val) : Nat × NumFlags := roundTo td rm sr false x

/-- A reduction of one register or queue entry (R166): element 0 holds it, the others are zero. -/
def reduceWord (op : Nat) (md : Option ModF) (d a : BitVec 5) : Meaning :=
  meaning (maskLocs md) fun s =>
    match s.myCtx.srcFmt [vop a] with
    | none => .fault { code := fViewRange }
    | some ts =>
      match s.myCtx.dstFmt (vop d) .vw1 ts with
      | none => .fault { code := fViewRange }
      | some td =>
        if ts.isFloat ≠ td.isFloat then .fault { code := fViewRange }
        else
          let env := s.vEnv ts td md 0
          let on := s.maskOf md
          s.vecRun 7 [(vop a, 1)] (vop d) td 1 (effCode md 0) fun gs =>
            let xs := elemsOf ts.width ts.lanes ((gs.getD 0 []).getD 0 0)
            let part := (xs.zipIdx.filter fun e => on e.2).map Prod.fst
            let (v, fl) := reduceOut td env.rm (env.sr 0) (reduceVal op ts td env.rm part)
            (some v :: List.replicate (td.lanes - 1) (some 0), cirOf fl)

def execVrsum (h : Hdr) (md : Option ModF) (d a : BitVec 5) := runWord (.vrsum h md d a) h (reduceWord 0 md d a)
def execVrmax (h : Hdr) (md : Option ModF) (d a : BitVec 5) := runWord (.vrmax h md d a) h (reduceWord 1 md d a)
def execVrmin (h : Hdr) (md : Option ModF) (d a : BitVec 5) := runWord (.vrmin h md d a) h (reduceWord 2 md d a)

/-- Rows of the tile, each a packed number of its columns (R135). -/
def State.tileRows (s : State) (v : Word) (w : Nat) : List Nat :=
  (List.range (tvRows v)).map fun i =>
    s.frameN (tvBase v + i * tvPitch v) (ceilDiv (tvCols v * w) 8) % 2 ^ (tvCols v * w)

/-- Frame bytes the tile spans, for the interlock. -/
def tileLocs (v : Word) (w : Nat) : List Loc :=
  [.fr (tvBase v) ((tvRows v - 1) * tvPitch v + ceilDiv (tvCols v * w) 8)]

/-- VROWSUM and VCOLSUM (R167): line i of the tile summed into element i. -/
def tileSum (row : Bool) (md : Option ModF) (d : BitVec 5) : Meaning :=
  meaning (maskLocs md) fun s =>
    let x := s.myCtx
    let v := x.view 2
    match typeFmt (tvType v) with
    | none => .fault { code := fViewRange }
    | some tt =>
      match x.dstFmt (vop d) .vw1 tt with
      | none => .fault { code := fViewRange }
      | some td =>
        let lines := if row then tvRows v else tvCols v
        if tt.isFloat ≠ td.isFloat || td.lanes < lines then .fault { code := fViewRange }
        else if s.me.interlocked (tileLocs v tt.width) then .stall .interlock s
        else
          let env := s.vEnv tt td md 0
          let rows := s.tileRows v tt.width
          s.vecRun 7 [] (vop d) td 1 (effCode md 0) fun _ =>
            maskedElems (s.maskOf md) (zeroOf md) td.lanes fun i =>
              if lines ≤ i then (0, NumFlags.none)
              else
                let xs := if row then elemsOf tt.width (tvCols v) (rows.getD i 0)
                  else rows.map fun r => elemOf tt.width r i
                reduceOut td env.rm (env.sr i) (exactTotal env.rm (xs.map tt.decode))

def execVrowsum (h : Hdr) (md : Option ModF) (d : BitVec 5) := runWord (.vrowsum h md d) h (tileSum true md d)
def execVcolsum (h : Hdr) (md : Option ModF) (d : BitVec 5) := runWord (.vcolsum h md d) h (tileSum false md d)

/-- VTRANS transposes the tile in place; bits beyond the last column stay (R168). -/
def execVtrans (h : Hdr) (md : Option ModF) :=
  runWord (.vtrans h md) h (meaning [] fun s =>
    let v := s.myCtx.view 2
    match typeFmt (tvType v) with
    | none => .fault { code := fViewRange }
    | some tt =>
      if tvRows v ≠ tvCols v then .fault { code := fViewRange }
      else if s.me.interlocked (tileLocs v tt.width) then .stall .interlock s
      else
        let w := tt.width
        let n := tvCols v
        let rows := s.tileRows v w
        .done (s.later 8 ((List.range n).map fun i =>
          .frame (tvBase v + i * tvPitch v) (ceilDiv (n * w) 8) (packElems w (rows.map fun r => elemOf w r i))
            (2 ^ (n * w) - 1))) .seq)

/-- A mask word on all 1,024 bits (R169). -/
def maskWord (reads : List Loc) (d : BitVec 3) (f : Cluster → Nat) : Meaning :=
  compute reads 3 fun s => [.mask d.toNat (f s.me) (2 ^ 1024 - 1)]
def execKand (h : Hdr) (md : Option ModF) (d a b : BitVec 3) :=
  runWord (.kand h md d a b) h (maskWord [.k a.toNat, .k b.toNat] d fun c => c.mask a.toNat &&& c.mask b.toNat)
def execKor (h : Hdr) (md : Option ModF) (d a b : BitVec 3) :=
  runWord (.kor h md d a b) h (maskWord [.k a.toNat, .k b.toNat] d fun c => c.mask a.toNat ||| c.mask b.toNat)
def execKxor (h : Hdr) (md : Option ModF) (d a b : BitVec 3) :=
  runWord (.kxor h md d a b) h (maskWord [.k a.toNat, .k b.toNat] d fun c => c.mask a.toNat ^^^ c.mask b.toNat)
def execKnot (h : Hdr) (md : Option ModF) (d a : BitVec 3) :=
  runWord (.knot h md d a) h (maskWord [.k a.toNat] d fun c => 2 ^ 1024 - 1 - c.mask a.toNat % 2 ^ 1024)
def execKpopc (h : Hdr) (md : Option ModF) (d : BitVec 5) (a : BitVec 3) :=
  runWord (.kpopc h md d a) h (compute [.k a.toNat] 3 fun s =>
    [.scal d.toNat (BitVec.ofNat 64 (popAux 1024 (s.me.mask a.toNat)))])

/-- VWIN sets a vector window (R137, R170). -/
def execVwin (h : Hdr) (t : BitVec 4) (x : BitVec 1) (b : BitVec 7) :=
  runWord (.vwin h t x b) h (meaning [] fun s =>
    let v : Word := BitVec.ofNat 64 (t.toNat * 128 + b.toNat)
    if !viewOk x.toNat v s.myTask.snap.frame then .fault { code := fViewRange }
    else .done (s.laterN 1 [.view x.toNat v]) .seq)

/-- The oldest landing slot of a context with a token (R171). -/
def Core.landOf (c : Core) (ctx tok : Nat) : Option (Nat × Land) :=
  (c.land.filter fun e => e.2.ctx = ctx && e.2.tok = tok).foldl
    (fun m e => match m with | none => some e | some b => if e.2.age < b.2.age then some e else m) none

/-- Whether a CPYL of the context's task with the token has yet to take its slot (R171). -/
def Core.cpylWaits (c : Core) (ctx : Nat) (t : Task) (tok : Nat) : Bool :=
  c.cpq.any fun e => e.ctx = ctx && e.task.same t && (match e.i with | .cpyl _ t _ _ => t.toNat = tok | _ => false)

/-- COMMIT (R171): it acquires its transfer, with what happens before the command (R237, R242). DESIGN CHOICE (log
62): a transfer that failed and whose destination lies outside the frame raises LANDING; log 93: the record of LANDING
names no element and no address. -/
def execCommit (h : Hdr) (t : BitVec 5) :=
  runWord (.commit h t) h (meaning [] fun s =>
    match s.myCore.landOf s.cur.ctx t.toNat with
    | none => if s.myCore.cpylWaits s.cur.ctx s.myTask t.toNat then .stall .landing s else .fault { code := fLanding }
    | some (i, l) =>
      if !l.done then .stall .landing s
      else
        let s' := s.modMyCore fun c => { c with land := tblErase c.land i }
        if l.stat ≠ 0 then .faultIn s' { code := fLanding, stat := l.stat }
        else if s.myTask.snap.frame < l.off.toNat + l.len then .faultIn s' { code := fViewRange }
        else
          .done ((s'.teach l.past (.clu s.cur)).laterN 1 (.frame l.off.toNat l.len l.data (2 ^ (8 * l.len) - 1) ::
            cirRes (if l.poison = 0 then 0 else 1))) .seq)

end Sys2Proof.Machine
end

