-- ==== Sys2Proof/Machine/Special.lean ====
section
/-! DEFINITION. The special functions (R58, Table 2.9), each as an exact value or as its magnitude
cut off far below every format's last bit, with the rest marked (sticky). Correct rounding of the
cut value is correct rounding of the function unless a rounding boundary lies in the last of these
bits (log 11). -/

namespace Sys2Proof.Machine

/-- Fraction bits of the working numbers. -/
def spP : Nat := 1000

/-- Sum of x^k/k! scaled, from a term on. -/
def expSeries (x : Nat) : Nat → Nat → Nat → Nat
  | 0, _, _ => 0
  | n + 1, k, t => t + expSeries x n (k + 1) ((t * x) >>> spP / (k + 1))

/-- atanh(z) or atan(z) of a fixed-point z, by its odd series; alt for atan. -/
def oddSeries (alt : Bool) (z2 : Nat) : Nat → Nat → Nat → Int
  | 0, _, _ => 0
  | n + 1, k, t =>
    let r := oddSeries alt z2 n (k + 2) ((t * z2) >>> spP)
    ((t / k : Nat) : Int) + (if alt then -r else r)

/-- atanh(1/3) twice is ln 2. -/
def ln2Fix : Nat :=
  let z := 2 ^ spP / 3
  2 * (oddSeries false ((z * z) >>> spP) 330 1 z).toNat

/-- atan(1/q). -/
def atanInv (q : Nat) : Int :=
  let z := 2 ^ spP / q
  oddSeries true ((z * z) >>> spP) 230 1 z

/-- pi/2 by Machin's formula. -/
def halfPi : Nat := ((16 * atanInv 5 - 4 * atanInv 239) / 2).toNat

/-- A nonnegative value as a fixed-point number, cut off. -/
def toFix (n : Nat) (e : Int) : Nat :=
  let k := e + spP
  if 0 ≤ k then n <<< k.toNat else n >>> (-k).toNat

/-- e^x for a fixed-point x at least 0, as a number and a power of two. -/
def expFix (x : Nat) : Nat × Nat :=
  let k := x / ln2Fix
  (expSeries (x % ln2Fix) 200 0 (2 ^ spP), k)

/-- A cut-off magnitude at the working precision. -/
def spVal (neg : Bool) (m : Nat) (e : Int) : Val := .num neg m (e - spP) true

/-- A value so small that it only marks its sign and that it is not zero. -/
def spTiny (neg : Bool) : Val := .num neg 1 (-2000) true

/-- FRCP (Table 2.9). -/
def spRcp (x : Val) : Val := (Val.fin false 1 0).div x

/-- FRSQ. -/
def spRsq : Val → Val
  | .nan => .nan
  | .inf s => if s then .nan else .fin false 0 0
  | .num s n e _ =>
    if n = 0 then .inf s
    else if s then .nan
    else
      let (n, e) := if e % 2 = 0 then (n, e) else (2 * n, e - 1)
      let r := isqrt (2 ^ (2 * spP) / n)
      .num false r (-(e / 2) - spP) (r * r * n != 2 ^ (2 * spP))

/-- FEXP2. -/
def spExp2 : Val → Val
  | .nan => .nan
  | .inf s => if s then .fin false 0 0 else .inf false
  | .num s n e _ =>
    if n = 0 then .fin false 1 0
    else
      let whole := toFix n e
      let i : Int := if s then -((whole + (2 ^ spP - 1)) >>> spP : Nat) else (whole >>> spP : Nat)
      let f : Nat := ((if s then -(whole : Int) else whole) - i * (2 ^ spP : Nat)).toNat
      if i > 400 then .fin false 1 500
      else if i < -400 then spTiny false
      else if f = 0 then .fin false 1 i
      else spVal false (expSeries ((f * ln2Fix) >>> spP) 200 0 (2 ^ spP)) i

/-- FLOG2. -/
def spLog2 : Val → Val
  | .nan => .nan
  | .inf s => if s then .nan else .inf false
  | .num s n e _ =>
    if n = 0 then .inf true
    else if s then .nan
    else
      let k := Nat.log2 n
      let ex : Int := e + k
      if n = 2 ^ k then .fin (ex < 0) ex.natAbs 0
      else
        let m := n <<< (spP - k)
        let z := ((m - 2 ^ spP) <<< spP) / (m + 2 ^ spP)
        let ln := 2 * (oddSeries false ((z * z) >>> spP) 330 1 z).toNat
        let t : Int := ex * (2 ^ spP : Nat) + ((ln <<< spP) / ln2Fix : Nat)
        spVal (t < 0) t.natAbs 0

/-- e^(-x) for x at least 0 as a fixed-point number. -/
def expNeg (x : Nat) : Nat :=
  let (m, k) := expFix x
  (2 ^ (2 * spP) / m) >>> k

/-- FTANH. -/
def spTanh : Val → Val
  | .nan => .nan
  | .inf s => .fin s 1 0
  | .num s n e _ =>
    if n = 0 then .fin s 0 0
    else
      let x := toFix n e
      if x >>> spP ≥ 200 then spVal s (2 ^ spP - 1) 0
      else
        let q := expNeg (2 * x)
        spVal s (((2 ^ spP - q) <<< spP) / (2 ^ spP + q)) 0

/-- FSIGM. -/
def spSigm : Val → Val
  | .nan => .nan
  | .inf s => if s then .fin false 0 0 else .fin false 1 0
  | .num s n e _ =>
    if n = 0 then .fin false 1 (-1)
    else
      let x := toFix n e
      if x >>> spP ≥ 400 then (if s then spTiny false else spVal false (2 ^ spP - 1) 0)
      else
        let q := expNeg x
        spVal false (((if s then q else 2 ^ spP) <<< spP) / (2 ^ spP + q)) 0

/-- Cosine and sine of a fixed-point angle below pi/2 by their series. -/
def trigSeries (x2 : Nat) : Nat → Nat → Nat → Int
  | 0, _, _ => 0
  | n + 1, k, t => (t : Int) - trigSeries x2 n (k + 2) ((t * x2) >>> spP / ((k + 1) * (k + 2)))

/-- FSIN and FCOS: quadrant q of the angle n 2^e, and the series. -/
def spTrig (cos : Bool) : Val → Val
  | .nan => .nan
  | .inf _ => .nan
  | .num s n e _ =>
    if n = 0 then (if cos then .fin false 1 0 else .fin s 0 0)
    else
      let x := toFix n e
      let q := x / halfPi + (if cos then 1 else 0)
      let r := x % halfPi
      let r2 := (r * r) >>> spP
      let v := if q % 2 = 0 then trigSeries r2 200 1 r else trigSeries r2 200 0 (2 ^ spP)
      let neg := (q / 2) % 2 = 1
      spVal (if cos then neg else neg ^^ s) v.natAbs 0

end Sys2Proof.Machine
end

