-- ==== Sys2Proof/Machine/Vector.lean ====
section
/-! DEFINITION. The element-wise words of the VE unit (R153 to R162): floating and integer arithmetic, conversions,
classes, special functions, comparisons. -/

namespace Sys2Proof.Machine

/-- Both types floating (R153); both integer (R160). -/
def floats (ts td : Fmt) : Bool := ts.isFloat && td.isFloat
def ints (ts td : Fmt) : Bool := ts.isInt && td.isInt
def sameInts (ts td : Fmt) : Bool := ts.isInt && ts = td

/-- Element k of the sources as an exact value; the addend at TD. -/
def VEnv.arg (e : VEnv) (l : List Nat) (k : Nat) : Val := e.ts.decode (l.getD k 0)
/-- One rounding into TD (R56). -/
def VEnv.out (e : VEnv) (j : Nat) (x : Val) : Nat × NumFlags := roundTo e.td e.rm (e.sr j) e.sat x

/-- A floating word of two sources (R153, R155). -/
def float2 (cls : Nat) (code : BitVec 2) (a b : BitVec 5) (f : Rnd → Val → Val → Val) : VSpec :=
  ⟨cls, [a, b], false, code, .source, floats, fun e j l _ => e.out j (f e.rm (e.arg l 0) (e.arg l 1))⟩
/-- A floating word that also reads D (R153). -/
def float3 (code : BitVec 2) (a b : BitVec 5) (f : Rnd → Val → Val → Val) : VSpec :=
  ⟨4, [a, b], true, code, .source, floats, fun e j l d =>
    e.out j (f e.rm ((e.arg l 0).mul (e.arg l 1)) (e.td.decode d))⟩
/-- A floating word of one source (R153, R159). -/
def float1 (cls : Nat) (code : BitVec 2) (a : BitVec 5) (f : Val → Val) : VSpec :=
  ⟨cls, [a], false, code, .source, floats, fun e j l _ => e.out j (f (e.arg l 0))⟩

def execFadd (h : Hdr) (md : Option ModF) (r : BitVec 2) (d a b : BitVec 5) :=
  runWord (.fadd h md r d a b) h ((float2 4 r a b fun rm x y => exactTotal rm [x, y]).mean md d)
def execFsub (h : Hdr) (md : Option ModF) (r : BitVec 2) (d a b : BitVec 5) :=
  runWord (.fsub h md r d a b) h ((float2 4 r a b fun rm x y => exactTotal rm [x, y.negate]).mean md d)
def execFmul (h : Hdr) (md : Option ModF) (r : BitVec 2) (d a b : BitVec 5) :=
  runWord (.fmul h md r d a b) h ((float2 4 r a b fun rm x y => (x.mul y).zeroSign rm).mean md d)
def execFma (h : Hdr) (md : Option ModF) (r : BitVec 2) (d a b : BitVec 5) :=
  runWord (.fma h md r d a b) h ((float3 r a b fun rm p c => exactTotal rm [p, c]).mean md d)
def execFms (h : Hdr) (md : Option ModF) (r : BitVec 2) (d a b : BitVec 5) :=
  runWord (.fms h md r d a b) h ((float3 r a b fun rm p c => exactTotal rm [p, c.negate]).mean md d)
def execFnma (h : Hdr) (md : Option ModF) (r : BitVec 2) (d a b : BitVec 5) :=
  runWord (.fnma h md r d a b) h ((float3 r a b fun rm p c => exactTotal rm [c, p.negate]).mean md d)
def execFdiv (h : Hdr) (md : Option ModF) (r : BitVec 2) (d a b : BitVec 5) :=
  runWord (.fdiv h md r d a b) h ((float2 5 r a b fun rm x y => (x.div y).zeroSign rm).mean md d)
def execFsqrt (h : Hdr) (md : Option ModF) (r : BitVec 2) (d a : BitVec 5) :=
  runWord (.fsqrt h md r d a) h ((float1 5 r a Val.sqrt).mean md d)
/-- FCVT between any window types (R154). -/
def execFcvt (h : Hdr) (md : Option ModF) (r : BitVec 2) (d a : BitVec 5) :=
  runWord (.fcvt h md r d a) h
    ((⟨9, [a], false, r, .vw1, fun _ _ => true, fun e j l _ => e.out j (e.arg l 0)⟩ : VSpec).mean md d)
def execFmin (h : Hdr) (md : Option ModF) (d a b : BitVec 5) :=
  runWord (.fmin h md d a b) h ((float2 4 0 a b fun _ x y => x.minmax false y).mean md d)
def execFmax (h : Hdr) (md : Option ModF) (d a b : BitVec 5) :=
  runWord (.fmax h md d a b) h ((float2 4 0 a b fun _ x y => x.minmax true y).mean md d)

/-- FABS and FNEG act on the sign bit alone (R156). -/
def signWord (a : BitVec 5) (f : Nat → Nat → Nat) : VSpec :=
  ⟨4, [a], false, 0, .source, fun ts td => ts.isFloat && ts = td,
    fun e _ l _ => (f (2 ^ (e.td.width - 1)) (l.getD 0 0), NumFlags.none)⟩
def execFabs (h : Hdr) (md : Option ModF) (d a : BitVec 5) :=
  runWord (.fabs h md d a) h ((signWord a fun sg x => x % sg).mean md d)
def execFneg (h : Hdr) (md : Option ModF) (d a : BitVec 5) :=
  runWord (.fneg h md d a) h ((signWord a fun sg x => x ^^^ sg).mean md d)

/-- A floating comparison into a mask (R157). -/
def fcmpWord (md : Option ModF) (k : BitVec 3) (a b : BitVec 5) (p : Int → Bool) : Meaning :=
  meaning (maskLocs md) (maskAct 4 md k a b Fmt.isFloat (fcmpBit p))
def execFcmpeq (h : Hdr) (md : Option ModF) (k : BitVec 3) (a b : BitVec 5) :=
  runWord (.fcmpeq h md k a b) h (fcmpWord md k a b (· = 0))
def execFcmplt (h : Hdr) (md : Option ModF) (k : BitVec 3) (a b : BitVec 5) :=
  runWord (.fcmplt h md k a b) h (fcmpWord md k a b (· < 0))
def execFcmple (h : Hdr) (md : Option ModF) (k : BitVec 3) (a b : BitVec 5) :=
  runWord (.fcmple h md k a b) h (fcmpWord md k a b (· ≤ 0))
/-- FCLASS writes an integer of at least 16 bits (R158). -/
def execFclass (h : Hdr) (md : Option ModF) (d a : BitVec 5) :=
  runWord (.fclass h md d a) h
    ((⟨4, [a], false, 0, .vw1, fun ts td => ts.isFloat && td.isInt && 16 ≤ td.width,
      fun e _ l _ => (classOf e.ts (l.getD 0 0), NumFlags.none)⟩ : VSpec).mean md d)

def execFrcp (h : Hdr) (md : Option ModF) (d a : BitVec 5) := runWord (.frcp h md d a) h ((float1 6 0 a spRcp).mean md d)
def execFrsq (h : Hdr) (md : Option ModF) (d a : BitVec 5) := runWord (.frsq h md d a) h ((float1 6 0 a spRsq).mean md d)
def execFexp2 (h : Hdr) (md : Option ModF) (d a : BitVec 5) := runWord (.fexp2 h md d a) h ((float1 6 0 a spExp2).mean md d)
def execFlog2 (h : Hdr) (md : Option ModF) (d a : BitVec 5) := runWord (.flog2 h md d a) h ((float1 6 0 a spLog2).mean md d)
def execFtanh (h : Hdr) (md : Option ModF) (d a : BitVec 5) := runWord (.ftanh h md d a) h ((float1 6 0 a spTanh).mean md d)
def execFsigm (h : Hdr) (md : Option ModF) (d a : BitVec 5) := runWord (.fsigm h md d a) h ((float1 6 0 a spSigm).mean md d)
def execFsin (h : Hdr) (md : Option ModF) (d a : BitVec 5) := runWord (.fsin h md d a) h ((float1 6 0 a (spTrig false)).mean md d)
def execFcos (h : Hdr) (md : Option ModF) (d a : BitVec 5) := runWord (.fcos h md d a) h ((float1 6 0 a (spTrig true)).mean md d)

/-- An integer word of two sources whose exact result goes to TD (Table 5.7). -/
def int2 (a b : BitVec 5) (ok : Fmt → Fmt → Bool) (sat : VEnv → Bool) (f : Nat → Int → Int → Int) : VSpec :=
  ⟨3, [a, b], false, 0, .source, ok, fun e _ l _ =>
    narrowInt e.td (sat e) (f e.ts.width (intOf e.ts (l.getD 0 0)) (intOf e.ts (l.getD 1 0)))⟩
/-- An integer word on patterns of n bits, TS = TD (Table 5.7). -/
def bits2 (a b : BitVec 5) (f : Nat → Nat → Nat → Nat) : VSpec :=
  ⟨3, [a, b], false, 0, .source, sameInts, fun e _ l _ =>
    (f e.ts.width (l.getD 0 0) (l.getD 1 0) % 2 ^ e.ts.width, NumFlags.none)⟩

def execIadd (h : Hdr) (md : Option ModF) (d a b : BitVec 5) :=
  runWord (.iadd h md d a b) h ((int2 a b ints VEnv.sat fun _ x y => x + y).mean md d)
def execIsub (h : Hdr) (md : Option ModF) (d a b : BitVec 5) :=
  runWord (.isub h md d a b) h ((int2 a b ints VEnv.sat fun _ x y => x - y).mean md d)
def execImul (h : Hdr) (md : Option ModF) (d a b : BitVec 5) :=
  runWord (.imul h md d a b) h ((int2 a b ints VEnv.sat fun _ x y => x * y).mean md d)
def execImulh (h : Hdr) (md : Option ModF) (d a b : BitVec 5) :=
  runWord (.imulh h md d a b) h ((int2 a b ints (fun _ => false) fun n x y => x * y / (2 ^ n : Nat)).mean md d)
def execImad (h : Hdr) (md : Option ModF) (d a b : BitVec 5) :=
  runWord (.imad h md d a b) h
    ((⟨3, [a, b], true, 0, .source, ints, fun e _ l c =>
      narrowInt e.td e.sat (intOf e.ts (l.getD 0 0) * intOf e.ts (l.getD 1 0) + intOf e.td c)⟩ : VSpec).mean md d)
def execImin (h : Hdr) (md : Option ModF) (d a b : BitVec 5) :=
  runWord (.imin h md d a b) h ((int2 a b ints (fun _ => false) fun _ x y => if x ≤ y then x else y).mean md d)
def execImax (h : Hdr) (md : Option ModF) (d a b : BitVec 5) :=
  runWord (.imax h md d a b) h ((int2 a b ints (fun _ => false) fun _ x y => if x ≤ y then y else x).mean md d)
def execIand (h : Hdr) (md : Option ModF) (d a b : BitVec 5) :=
  runWord (.iand h md d a b) h ((bits2 a b fun _ x y => x &&& y).mean md d)
def execIor (h : Hdr) (md : Option ModF) (d a b : BitVec 5) :=
  runWord (.ior h md d a b) h ((bits2 a b fun _ x y => x ||| y).mean md d)
def execIxor (h : Hdr) (md : Option ModF) (d a b : BitVec 5) :=
  runWord (.ixor h md d a b) h ((bits2 a b fun _ x y => x ^^^ y).mean md d)
def execIshl (h : Hdr) (md : Option ModF) (d a b : BitVec 5) :=
  runWord (.ishl h md d a b) h ((bits2 a b fun n x y => x <<< (y % n)).mean md d)
def execIshr (h : Hdr) (md : Option ModF) (d a b : BitVec 5) :=
  runWord (.ishr h md d a b) h ((bits2 a b fun n x y => x >>> (y % n)).mean md d)
def execIsha (h : Hdr) (md : Option ModF) (d a b : BitVec 5) :=
  runWord (.isha h md d a b) h ((bits2 a b fun n x y => toBits n (sextN x n / (2 ^ (y % n) : Nat))).mean md d)
def execIadds (h : Hdr) (md : Option ModF) (d a b : BitVec 5) :=
  runWord (.iadds h md d a b) h ((int2 a b ints (fun _ => true) fun _ x y => x + y).mean md d)

/-- IDOT4: four products a lane onto the 32-bit addend, saturated once (R59, R161). -/
def dot4 (ts td : Fmt) (x y : List Nat) (c : Nat) : Nat × NumFlags :=
  narrowInt td true ((List.zip x y).foldl (fun t e => t + intOf ts e.1 * intOf ts e.2) (intOf td c))
def execIdot4 (h : Hdr) (md : Option ModF) (d a b : BitVec 5) :=
  runWord (.idot4 h md d a b) h (meaning (maskLocs md) fun s =>
    let dst := vop d
    match s.myCtx.srcFmt [vop a, vop b] with
    | none => .fault { code := fViewRange }
    | some ts =>
      match s.myCtx.dstFmt dst .source ts with
      | none => .fault { code := fViewRange }
      | some td =>
        if !ts.isInt || ts.width ≠ 8 || !td.isInt || td.width ≠ 32 then .fault { code := fViewRange }
        else s.vecRun 3 [(vop a, 1), (vop b, 1), (dst, 1)] dst td 1 0 fun gs =>
          let reg (k : Nat) : Nat := (gs.getD k []).getD 0 0
          maskedElems (s.maskOf md) (zeroOf md) 128 fun j =>
            dot4 ts td (elemsOf 8 4 (reg 0 >>> (32 * j))) (elemsOf 8 4 (reg 1 >>> (32 * j))) (elemOf 32 (reg 2) j))

/-- An integer comparison into a mask (R162). -/
def icmpWord (md : Option ModF) (k : BitVec 3) (a b : BitVec 5) (ok : Fmt → Bool) (f : Fmt → Nat → Nat → Bool) : Meaning :=
  meaning (maskLocs md) (maskAct 3 md k a b ok f)
def execIcmpeq (h : Hdr) (md : Option ModF) (k : BitVec 3) (a b : BitVec 5) :=
  runWord (.icmpeq h md k a b) h (icmpWord md k a b Fmt.isInt fun _ x y => x = y)
def execIcmplt (h : Hdr) (md : Option ModF) (k : BitVec 3) (a b : BitVec 5) :=
  runWord (.icmplt h md k a b) h (icmpWord md k a b Fmt.isInt fun t x y => sextN x t.width < sextN y t.width)
def execIcmpltn (h : Hdr) (md : Option ModF) (k : BitVec 3) (a b : BitVec 5) :=
  runWord (.icmpltn h md k a b) h (icmpWord md k a b Fmt.isInt fun _ x y => x < y)
def execTcmplt (h : Hdr) (md : Option ModF) (k : BitVec 3) (a b : BitVec 5) :=
  runWord (.tcmplt h md k a b) h (icmpWord md k a b (fun t => t.isInt && (t.width = 8 || t.width = 16))
    fun t x y => sextN x t.width < sextN y t.width)

end Sys2Proof.Machine
end

