-- ==== Sys2Proof/Machine/Dispatch.lean ====
section
/-! DEFINITION. One arm per constructor of Instr: its meaning. -/

namespace Sys2Proof.Machine

/-- The meaning of an instruction word or of a step of the device. -/
def exec (i : Instr) (s : State) : Host.Outcome State Fault Refusal :=
  match i with
  | .nop h => Sys2Proof.Machine.execNop h s
  | .add h d a b => Sys2Proof.Machine.execAdd h d a b s
  | .sub h d a b => Sys2Proof.Machine.execSub h d a b s
  | .mul h d a b => Sys2Proof.Machine.execMul h d a b s
  | .mulhs h d a b => Sys2Proof.Machine.execMulhs h d a b s
  | .mulhn h d a b => Sys2Proof.Machine.execMulhn h d a b s
  | .divs h d a b => Sys2Proof.Machine.execDivs h d a b s
  | .divn h d a b => Sys2Proof.Machine.execDivn h d a b s
  | .rems h d a b => Sys2Proof.Machine.execRems h d a b s
  | .remn h d a b => Sys2Proof.Machine.execRemn h d a b s
  | .and h d a b => Sys2Proof.Machine.execAnd h d a b s
  | .or h d a b => Sys2Proof.Machine.execOr h d a b s
  | .xor h d a b => Sys2Proof.Machine.execXor h d a b s
  | .andn h d a b => Sys2Proof.Machine.execAndn h d a b s
  | .shl h d a b => Sys2Proof.Machine.execShl h d a b s
  | .shr h d a b => Sys2Proof.Machine.execShr h d a b s
  | .sha h d a b => Sys2Proof.Machine.execSha h d a b s
  | .rol h d a b => Sys2Proof.Machine.execRol h d a b s
  | .min h d a b => Sys2Proof.Machine.execMin h d a b s
  | .max h d a b => Sys2Proof.Machine.execMax h d a b s
  | .minn h d a b => Sys2Proof.Machine.execMinn h d a b s
  | .maxn h d a b => Sys2Proof.Machine.execMaxn h d a b s
  | .clz h d a => Sys2Proof.Machine.execClz h d a s
  | .popc h d a => Sys2Proof.Machine.execPopc h d a s
  | .bfx h d a b => Sys2Proof.Machine.execBfx h d a b s
  | .bfi h d a b => Sys2Proof.Machine.execBfi h d a b s
  | .addi h x d a m => Sys2Proof.Machine.execAddi h x d a m s
  | .shli h x d a m => Sys2Proof.Machine.execShli h x d a m s
  | .shri h x d a m => Sys2Proof.Machine.execShri h x d a m s
  | .shai h x d a m => Sys2Proof.Machine.execShai h x d a m s
  | .andi h x d a m => Sys2Proof.Machine.execAndi h x d a m s
  | .li h x d m => Sys2Proof.Machine.execLi h x d m s
  | .lih h x d => Sys2Proof.Machine.execLih h x d s
  | .mov h d a => Sys2Proof.Machine.execMov h d a s
  | .cmov h d a p => Sys2Proof.Machine.execCmov h d a p s
  | .cmpeq h p a b => Sys2Proof.Machine.execCmpeq h p a b s
  | .cmpne h p a b => Sys2Proof.Machine.execCmpne h p a b s
  | .cmplt h p a b => Sys2Proof.Machine.execCmplt h p a b s
  | .cmple h p a b => Sys2Proof.Machine.execCmple h p a b s
  | .cmpltn h p a b => Sys2Proof.Machine.execCmpltn h p a b s
  | .cmplen h p a b => Sys2Proof.Machine.execCmplen h p a b s
  | .pand h d a b => Sys2Proof.Machine.execPand h d a b s
  | .por h d a b => Sys2Proof.Machine.execPor h d a b s
  | .pxor h d a b => Sys2Proof.Machine.execPxor h d a b s
  | .br h x p n o => Sys2Proof.Machine.execBr h x p n o s
  | .jmp h x o => Sys2Proof.Machine.execJmp h x o s
  | .jmpr h a => Sys2Proof.Machine.execJmpr h a s
  | .call h x o => Sys2Proof.Machine.execCall h x o s
  | .ret h => Sys2Proof.Machine.execRet h s
  | .loop h d l => Sys2Proof.Machine.execLoop h d l s
  | .loopi h x c l => Sys2Proof.Machine.execLoopi h x c l s
  | .loopp h d s0 k => Sys2Proof.Machine.execLoopp h d s0 k s
  | .brkl h p n => Sys2Proof.Machine.execBrkl h p n s
  | .endStream h => Sys2Proof.Machine.execEndStream h s
  | .tail h => Sys2Proof.Machine.execTail h s
  | .post h f => Sys2Proof.Machine.execPost h f s
  | .await h f => Sys2Proof.Machine.execAwait h f s
  | .postg h f a => Sys2Proof.Machine.execPostg h f a s
  | .bar h n => Sys2Proof.Machine.execBar h n s
  | .fence h c o => Sys2Proof.Machine.execFence h c o s
  | .rds h d r => Sys2Proof.Machine.execRds h d r s
  | .wrs h d r => Sys2Proof.Machine.execWrs h d r s
  | .setrm h r => Sys2Proof.Machine.execSetrm h r s
  | .seed h a b => Sys2Proof.Machine.execSeed h a b s
  | .view h v a b => Sys2Proof.Machine.execView h v a b s
  | .mark h n => Sys2Proof.Machine.execMark h n s
  | .markq h p n => Sys2Proof.Machine.execMarkq h p n s
  | .trap h c => Sys2Proof.Machine.execTrap h c s
  | .bkpt h => Sys2Proof.Machine.execBkpt h s
  | .aadd h d a b => Sys2Proof.Machine.execAadd h d a b s
  | .aaddi h x d a m => Sys2Proof.Machine.execAaddi h x d a m s
  | .asub h d a b => Sys2Proof.Machine.execAsub h d a b s
  | .amov h d a => Sys2Proof.Machine.execAmov h d a s
  | .ali h x d m => Sys2Proof.Machine.execAli h x d m s
  | .amode h d a => Sys2Proof.Machine.execAmode h d a s
  | .abase h d a => Sys2Proof.Machine.execAbase h d a s
  | .ainc h d a => Sys2Proof.Machine.execAinc h d a s
  | .ldq h q a b => Sys2Proof.Machine.execLdq h q a b s
  | .ldqx h md c q a b => Sys2Proof.Machine.execLdqx h md c q a b s
  | .lds h d a b => Sys2Proof.Machine.execLds h d a b s
  | .ldb h q a b => Sys2Proof.Machine.execLdb h q a b s
  | .stq h q a b => Sys2Proof.Machine.execStq h q a b s
  | .stqx h md r c q a p e hist => Sys2Proof.Machine.execStqx h md r c q a p e hist s
  | .ldm h m a b => Sys2Proof.Machine.execLdm h m a b s
  | .stm h m a b => Sys2Proof.Machine.execStm h m a b s
  | .rmerge h q a => Sys2Proof.Machine.execRmerge h q a s
  | .mbput h m a b => Sys2Proof.Machine.execMbput h m a b s
  | .mbget h d m b => Sys2Proof.Machine.execMbget h d m b s
  | .ldg h q a b => Sys2Proof.Machine.execLdg h q a b s
  | .stg h q a b => Sys2Proof.Machine.execStg h q a b s
  | .ldgx h md c q a b => Sys2Proof.Machine.execLdgx h md c q a b s
  | .stgx h md c q a b => Sys2Proof.Machine.execStgx h md c q a b s
  | .pfg h a b => Sys2Proof.Machine.execPfg h a b s
  | .ldl h q a b => Sys2Proof.Machine.execLdl h q a b s
  | .stu h q a b => Sys2Proof.Machine.execStu h q a b s
  | .atomg h o z r c s0 x => Sys2Proof.Machine.execAtomg h o z r c s0 x s
  | .casg h z r c s0 x => Sys2Proof.Machine.execCasg h z r c s0 x s
  | .fadd h md r d a b => Sys2Proof.Machine.execFadd h md r d a b s
  | .fsub h md r d a b => Sys2Proof.Machine.execFsub h md r d a b s
  | .fmul h md r d a b => Sys2Proof.Machine.execFmul h md r d a b s
  | .fma h md r d a b => Sys2Proof.Machine.execFma h md r d a b s
  | .fms h md r d a b => Sys2Proof.Machine.execFms h md r d a b s
  | .fnma h md r d a b => Sys2Proof.Machine.execFnma h md r d a b s
  | .fdiv h md r d a b => Sys2Proof.Machine.execFdiv h md r d a b s
  | .fsqrt h md r d a => Sys2Proof.Machine.execFsqrt h md r d a s
  | .fcvt h md r d a => Sys2Proof.Machine.execFcvt h md r d a s
  | .fmin h md d a b => Sys2Proof.Machine.execFmin h md d a b s
  | .fmax h md d a b => Sys2Proof.Machine.execFmax h md d a b s
  | .fabs h md d a => Sys2Proof.Machine.execFabs h md d a s
  | .fneg h md d a => Sys2Proof.Machine.execFneg h md d a s
  | .fcmpeq h md k a b => Sys2Proof.Machine.execFcmpeq h md k a b s
  | .fcmplt h md k a b => Sys2Proof.Machine.execFcmplt h md k a b s
  | .fcmple h md k a b => Sys2Proof.Machine.execFcmple h md k a b s
  | .fclass h md d a => Sys2Proof.Machine.execFclass h md d a s
  | .frcp h md d a => Sys2Proof.Machine.execFrcp h md d a s
  | .frsq h md d a => Sys2Proof.Machine.execFrsq h md d a s
  | .fexp2 h md d a => Sys2Proof.Machine.execFexp2 h md d a s
  | .flog2 h md d a => Sys2Proof.Machine.execFlog2 h md d a s
  | .ftanh h md d a => Sys2Proof.Machine.execFtanh h md d a s
  | .fsigm h md d a => Sys2Proof.Machine.execFsigm h md d a s
  | .fsin h md d a => Sys2Proof.Machine.execFsin h md d a s
  | .fcos h md d a => Sys2Proof.Machine.execFcos h md d a s
  | .iadd h md d a b => Sys2Proof.Machine.execIadd h md d a b s
  | .isub h md d a b => Sys2Proof.Machine.execIsub h md d a b s
  | .imul h md d a b => Sys2Proof.Machine.execImul h md d a b s
  | .imulh h md d a b => Sys2Proof.Machine.execImulh h md d a b s
  | .imad h md d a b => Sys2Proof.Machine.execImad h md d a b s
  | .imin h md d a b => Sys2Proof.Machine.execImin h md d a b s
  | .imax h md d a b => Sys2Proof.Machine.execImax h md d a b s
  | .iand h md d a b => Sys2Proof.Machine.execIand h md d a b s
  | .ior h md d a b => Sys2Proof.Machine.execIor h md d a b s
  | .ixor h md d a b => Sys2Proof.Machine.execIxor h md d a b s
  | .ishl h md d a b => Sys2Proof.Machine.execIshl h md d a b s
  | .ishr h md d a b => Sys2Proof.Machine.execIshr h md d a b s
  | .isha h md d a b => Sys2Proof.Machine.execIsha h md d a b s
  | .icmpeq h md k a b => Sys2Proof.Machine.execIcmpeq h md k a b s
  | .icmplt h md k a b => Sys2Proof.Machine.execIcmplt h md k a b s
  | .icmpltn h md k a b => Sys2Proof.Machine.execIcmpltn h md k a b s
  | .iadds h md d a b => Sys2Proof.Machine.execIadds h md d a b s
  | .idot4 h md d a b => Sys2Proof.Machine.execIdot4 h md d a b s
  | .tcmplt h md k a b => Sys2Proof.Machine.execTcmplt h md k a b s
  | .vmov h md d a => Sys2Proof.Machine.execVmov h md d a s
  | .vbcast h md d a => Sys2Proof.Machine.execVbcast h md d a s
  | .vperm h md d a b => Sys2Proof.Machine.execVperm h md d a b s
  | .vshuf h md d a b => Sys2Proof.Machine.execVshuf h md d a b s
  | .vsel h md d a b => Sys2Proof.Machine.execVsel h md d a b s
  | .vext h md d a b => Sys2Proof.Machine.execVext h md d a b s
  | .vins h md d a b => Sys2Proof.Machine.execVins h md d a b s
  | .vli h x md d m => Sys2Proof.Machine.execVli h x md d m s
  | .vrsum h md d a => Sys2Proof.Machine.execVrsum h md d a s
  | .vrmax h md d a => Sys2Proof.Machine.execVrmax h md d a s
  | .vrmin h md d a => Sys2Proof.Machine.execVrmin h md d a s
  | .vrowsum h md d => Sys2Proof.Machine.execVrowsum h md d s
  | .vcolsum h md d => Sys2Proof.Machine.execVcolsum h md d s
  | .vtrans h md => Sys2Proof.Machine.execVtrans h md s
  | .kand h md d a b => Sys2Proof.Machine.execKand h md d a b s
  | .kor h md d a b => Sys2Proof.Machine.execKor h md d a b s
  | .kxor h md d a b => Sys2Proof.Machine.execKxor h md d a b s
  | .knot h md d a => Sys2Proof.Machine.execKnot h md d a s
  | .kpopc h md d a => Sys2Proof.Machine.execKpopc h md d a s
  | .commit h t => Sys2Proof.Machine.execCommit h t s
  | .vwin h t x b => Sys2Proof.Machine.execVwin h t x b s
  | .mma h c t u e f r => Sys2Proof.Machine.execMma h c t u e f r s
  | .mmas h c t u f r => Sys2Proof.Machine.execMmas h c t u f r s
  | .mzero h c => Sys2Proof.Machine.execMzero h c s
  | .mldacc h c t r => Sys2Proof.Machine.execMldacc h c t r s
  | .mstacc h c t => Sys2Proof.Machine.execMstacc h c t s
  | .mckrd h c t => Sys2Proof.Machine.execMckrd h c t s
  | .mdrain h => Sys2Proof.Machine.execMdrain h s
  | .fmtpush h a b => Sys2Proof.Machine.execFmtpush h a b s
  | .cpy h t a b => Sys2Proof.Machine.execCpy h t a b s
  | .cpyl h t a b => Sys2Proof.Machine.execCpyl h t a b s
  | .cpyw h t => Sys2Proof.Machine.execCpyw h t s
  | .cpyq h p t => Sys2Proof.Machine.execCpyq h p t s
  | .rput h d a b => Sys2Proof.Machine.execRput h d a b s
  | .rget h d a b => Sys2Proof.Machine.execRget h d a b s
  | .ratom h z o a b => Sys2Proof.Machine.execRatom h z o a b s
  | .rfence h => Sys2Proof.Machine.execRfence h s
  | .cred h o a => Sys2Proof.Machine.execCred h o a s
  | .cbcast h a => Sys2Proof.Machine.execCbcast h a s
  | .taskq h a b => Sys2Proof.Machine.execTaskq h a b s
  | .launch h a => Sys2Proof.Machine.execLaunch h a s
  | .almld h a b => Sys2Proof.Machine.execAlmld h a b s
  | .almclr h => Sys2Proof.Machine.execAlmclr h s
  | .eres h d f => Sys2Proof.Machine.execEres h d f s
  | .cbld h a => Sys2Proof.Machine.execCbld h a s
  | .sigclr h n => Sys2Proof.Machine.execSigclr h n s
  | .sigfold h n a => Sys2Proof.Machine.execSigfold h n a s
  | .csacc h n a => Sys2Proof.Machine.execCsacc h n a s
  | .cschk h n a => Sys2Proof.Machine.execCschk h n a s
  | .chkerr h => Sys2Proof.Machine.execChkerr h s
  | .provrd h d n b => Sys2Proof.Machine.execProvrd h d n b s
  | .provclr h n => Sys2Proof.Machine.execProvclr h n s
  | .slotw h d a => Sys2Proof.Machine.execSlotw h d a s
  | .tlbinv h a b => Sys2Proof.Machine.execTlbinv h a b s
  | .ctxsave h d a b => Sys2Proof.Machine.execCtxsave h d a b s
  | .ctxload h d a b => Sys2Proof.Machine.execCtxload h d a b s
  | .stoprd h d a b => Sys2Proof.Machine.execStoprd h d a b s
  | .inject h d a => Sys2Proof.Machine.execInject h d a s
  | .haltp h d a => Sys2Proof.Machine.execHaltp h d a s
  | .resumep h d a => Sys2Proof.Machine.execResumep h d a s
  | .gate h d a => Sys2Proof.Machine.execGate h d a s
  | .wake h a => Sys2Proof.Machine.execWake h a s
  | .retire h d a => Sys2Proof.Machine.execRetire h d a s
  | .spare h d a b => Sys2Proof.Machine.execSpare h d a b s
  | .wdset h a b => Sys2Proof.Machine.execWdset h a b s
  | .errinj h a b => Sys2Proof.Machine.execErrinj h a b s
  | .postgDelivery i0 => Sys2Proof.Machine.execPostgDelivery i0 s
  | .resultVisible k => Sys2Proof.Machine.execResultVisible k s
  | .heldTokenPush k => Sys2Proof.Machine.execHeldTokenPush k s
  | .instructionFetch k => Sys2Proof.Machine.execInstructionFetch k s
  | .pageWalk core va => Sys2Proof.Machine.execPageWalk core va s
  | .directPathServe i0 => Sys2Proof.Machine.execDirectPathServe i0 s
  | .loadRowFill i0 => Sys2Proof.Machine.execLoadRowFill i0 s
  | .globalStorePerform i0 => Sys2Proof.Machine.execGlobalStorePerform i0 s
  | .dieWindowStorePerform i0 => Sys2Proof.Machine.execDieWindowStorePerform i0 s
  | .atomicPerform i0 => Sys2Proof.Machine.execAtomicPerform i0 s
  | .copyStart core => Sys2Proof.Machine.execCopyStart core s
  | .copyRowGroup core run => Sys2Proof.Machine.execCopyRowGroup core run s
  | .copyComplete core run => Sys2Proof.Machine.execCopyComplete core run s
  | .matrixCommandStart core => Sys2Proof.Machine.execMatrixCommandStart core s
  | .ringStageRelease core => Sys2Proof.Machine.execRingStageRelease core s
  | .matrixCommandComplete core => Sys2Proof.Machine.execMatrixCommandComplete core s
  | .remoteCommandStart core => Sys2Proof.Machine.execRemoteCommandStart core s
  | .packetSend core => Sys2Proof.Machine.execPacketSend core s
  | .packetReceive pk => Sys2Proof.Machine.execPacketReceive pk s
  | .acknowledgement ak => Sys2Proof.Machine.execAcknowledgement ak s
  | .routeTimeout route => Sys2Proof.Machine.execRouteTimeout route s
  | .routeFailure route => Sys2Proof.Machine.execRouteFailure route s
  | .laneLoss port lane => Sys2Proof.Machine.execLaneLoss port lane s
  | .collectiveContribution pk => Sys2Proof.Machine.execCollectiveContribution pk s
  | .collectiveComplete core => Sys2Proof.Machine.execCollectiveComplete core s
  | .walkerTaskCreate launch => Sys2Proof.Machine.execWalkerTaskCreate launch s
  | .taskEnqueue q => Sys2Proof.Machine.execTaskEnqueue q s
  | .taskEntry part q => Sys2Proof.Machine.execTaskEntry part q s
  | .dispatch tid places => Sys2Proof.Machine.execDispatch tid places s
  | .contextFree core ctx => Sys2Proof.Machine.execContextFree core ctx s
  | .taskRetirement core ctx => Sys2Proof.Machine.execTaskRetirement core ctx s
  | .vigilDecision tid place => Sys2Proof.Machine.execVigilDecision tid place s
  | .overlayFold part i0 => Sys2Proof.Machine.execOverlayFold part i0 s
  | .fetch launch entry => Sys2Proof.Machine.execFetch launch entry s
  | .evict launch entry => Sys2Proof.Machine.execEvict launch entry s
  | .pin launch entry => Sys2Proof.Machine.execPin launch entry s
  | .drop launch entry => Sys2Proof.Machine.execDrop launch entry s
  | .almanacActionFinish launch entry => Sys2Proof.Machine.execAlmanacActionFinish launch entry s
  | .almanacRelease launch => Sys2Proof.Machine.execAlmanacRelease launch s
  | .launchCompletion launch => Sys2Proof.Machine.execLaunchCompletion launch s
  | .launchQueueDoorbell part lq tail => Sys2Proof.Machine.execLaunchQueueDoorbell part lq tail s
  | .launchAcceptance part lq => Sys2Proof.Machine.execLaunchAcceptance part lq s
  | .launchQueueHeadWrite part lq head => Sys2Proof.Machine.execLaunchQueueHeadWrite part lq head s
  | .completionHeadWrite part lq ch => Sys2Proof.Machine.execCompletionHeadWrite part lq ch s
  | .faultLogTailWrite log n => Sys2Proof.Machine.execFaultLogTailWrite log n s
  | .histogramClear core => Sys2Proof.Machine.execHistogramClear core s
  | .traceRingReadIndex die index => Sys2Proof.Machine.execTraceRingReadIndex die index s
  | .holdWrite q hold => Sys2Proof.Machine.execHoldWrite q hold s
  | .pcselWrite core n v => Sys2Proof.Machine.execPcselWrite core n v s
  | .scoreWrite u v => Sys2Proof.Machine.execScoreWrite u v s
  | .vectorUnmask v => Sys2Proof.Machine.execVectorUnmask v s
  | .managementWrite host r => Sys2Proof.Machine.execManagementWrite host r s
  | .watchdogExpiry core ctx => Sys2Proof.Machine.execWatchdogExpiry core ctx s
  | .haltLineArrival part die => Sys2Proof.Machine.execHaltLineArrival part die s
  | .engineStop core unit => Sys2Proof.Machine.execEngineStop core unit s
  | .contextRemoval core ctx => Sys2Proof.Machine.execContextRemoval core ctx s
  | .preemptionTrap k => Sys2Proof.Machine.execPreemptionTrap k s
  | .savedImageWrite core ctx => Sys2Proof.Machine.execSavedImageWrite core ctx s
  | .stopAreaWrite core ctx => Sys2Proof.Machine.execStopAreaWrite core ctx s
  | .powerGateCommit core => Sys2Proof.Machine.execPowerGateCommit core s
  | .powerUp core => Sys2Proof.Machine.execPowerUp core s
  | .clockSkip die => Sys2Proof.Machine.execClockSkip die s
  | .thermalTrip island => Sys2Proof.Machine.execThermalTrip island s
  | .hubTakeover => Sys2Proof.Machine.execHubTakeover s
  | .powerOnReset form boot dbg => Sys2Proof.Machine.execPowerOnReset form boot dbg s
  | .stage0 => Sys2Proof.Machine.execStage0 s
  | .stage1 fw => Sys2Proof.Machine.execStage1 fw s
  | .stage2 => Sys2Proof.Machine.execStage2 s
  | .stage3 dev links => Sys2Proof.Machine.execStage3 dev links s
  | .rowSwap bank a b => Sys2Proof.Machine.execRowSwap bank a b s
  | .scrub word => Sys2Proof.Machine.execScrub word s
  | .correctedLineRewrite line => Sys2Proof.Machine.execCorrectedLineRewrite line s
  | .traceDrain die => Sys2Proof.Machine.execTraceDrain die s
  | .rdmaWrite addr bytes => Sys2Proof.Machine.execRdmaWrite addr bytes s
  | .rdmaRead addr len => Sys2Proof.Machine.execRdmaRead addr len s
  | .mailboxRequest m => Sys2Proof.Machine.execMailboxRequest m s
  | .frameCheckFailure port => Sys2Proof.Machine.execFrameCheckFailure port s

end Sys2Proof.Machine
end

