-- ==== Sys2Proof/Machine/Ready.lean ====
section
/-! DEFINITION. Which cluster owns a cc (R25, R332) and what it does with it: its schedule cycle, its next
word, lock-step words (R24), switching away (R63). Whether a word can issue is found by running it. -/

namespace Sys2Proof.Machine

/-- A cluster's next word, its schedule cycle having begun. -/
def State.runNext (s : State) (k : Who) : Host.Outcome State Fault Refusal :=
  match s.nextGroup k with
  | .miss va => .next (s.modCtx k fun x => { x with fetch := some va })
  | .bad code len h => .next (s.badWord code len h)
  | .ok i => exec i s

/-- Pre-emption keeps a LOOPP from admitting iterations while its context can be trapped (R103, R210, R381); a loop
drained meanwhile, whose cluster is not to trap any more, is entered again. -/
def State.drainLoop (s : State) (k : Who) : State :=
  let c := s.clu k
  let on := (s.ctxOf k).preempt && !s.holdsLock k
  let s := if c.drained.isSome && !on then s.modClu k Cluster.reenter else s
  let on := on && (s.clu k).loopp.isSome
  if c.draining = on then s else s.modClu k fun c => { c with draining := on }

/-- One schedule cycle of cluster k (R25, R26, R63): an empty one in a gap, or before the trap at the exit of a drained
LOOPP (R103), else its next word's. A trapped cluster has none (R381). -/
def State.runSc (s0 : State) (k : Who) : Host.Outcome State Fault Refusal :=
  if (s0.clu k).run = .trapped then .next s0
  else
  let s := s0.beginSc k
  let c := s.clu k
  if c.run ≠ .run then .next s
  else if 0 < c.gap then
    .next ((if c.lgap < c.gap then s.perfMe 7 else s).modMe fun c => { c with gap := c.gap - 1 })
  else
    let s := s.drainLoop k
    if (s.clu k).drained.isSome then .next (s.modMe fun c => { c with wait := some .atomic })
    else match s.runNext k with
    | .next s => .next (s.countStall k)
    | o => o

/-- A context that can be given a cc: resident, not frozen (R92, R385). -/
def State.awake (s : State) (k : Who) : Bool :=
  let x := s.ctxOf k
  x.task.isSome && x.fetch = none && !x.frozen

/-- Whether a word has issued or has faulted; a CHKERR does so at the end of the cc (R192). -/
def Cluster.settled (c : Cluster) : Bool := c.wait = none || c.run ≠ .run || c.wait = some .cirEnd

/-- The state after a schedule cycle of cluster k in which its word issues, or its gap goes on (R25); none if it would
stall. DESIGN CHOICE (log 97): the two empty sc of a long loop-back (R101) count as a gap does. -/
def State.issues? (s : State) (k : Who) : Option State :=
  let c := s.clu k
  if !s.awake k || c.run ≠ .run then none
  else match s.runSc k with
    | .next s' => if 0 < c.gap || (s'.clu k).settled then some s' else none
    | _ => none

/-- Whether cluster k is ready (R25). -/
def State.canIssue (s : State) (k : Who) : Bool := (s.issues? k).isSome

/-- The next word of a cluster that has no schedule cycle in this cc (R25): if it stalls, why it waits is noted, and
what it asks for (a barrier's arrival, a page walk, an answer) goes out. -/
def State.presents (s : State) (k : Who) : State :=
  let c := s.clu k
  if !s.awake k || c.run ≠ .run || 0 < c.gap || c.asked || c.drained.isSome then s
  else match { s with cur := k }.runNext k with
    | .next s' => if (s'.clu k).settled then s else s'
    | _ => s

/-- Whether a cluster presents a SYNC word. -/
def State.presentsSync (s : State) (k : Who) : Bool :=
  (s.clu k).gap = 0 &&
  match s.nextGroup k with
  | .ok i => (match i.hdr? with | some h => h.sync = 1 | none => false)
  | .bad _ _ h => h.sync = 1
  | .miss _ => false

/-- The state after the clusters of a list have issued, one after the other. -/
def issueAll : List Who → State → Option State
  | [], s => some s
  | k :: r, s => (s.issues? k).bind (issueAll r)

/-- The SYNC group of a context issues in this cc (R24), which orders what each of its clusters has done before the
words of the group (R236). -/
def State.syncStart (s : State) (k : Who) : State :=
  (s.meetAll k.clusters).modCtx k fun x => { x with syncGo := true }

/-- All four clusters of a context present SYNC words that can issue in one cc (R24). -/
def State.syncReady (s : State) (k : Who) : Bool :=
  k.clusters.all (fun k => s.presentsSync k) && (issueAll k.clusters (s.syncStart k)).isSome

/-- The next contexts after the one last served, in turn (R25). -/
def ringFrom (r : Nat) : List Nat := [(r + 1) % 4, (r + 2) % 4, (r + 3) % 4, r % 4]

/-- A cluster that has switched away and cannot issue hands its named cc on (R25, R63). -/
def State.handsOn (s : State) (k : Who) : Bool := (s.clu k).away && (s.clu k).run = .run && !s.canIssue k

/-- An "any ready" cycle of a position: the next ready context takes it, and marks where the turn stands. A stalled
cluster takes none. DESIGN CHOICE (log 55): R24 wants the four words of a SYNC group in one cc and R25 gives each
position a turn of its own; here a context whose turn it is in position C, and whose SYNC group can issue, takes all
four positions, if all four are given as "any ready". -/
def State.anyReady (s : State) (n pos : Nat) (skip : Option Nat) : Host.Outcome State Fault Refusal :=
  let u := Clu.at pos
  let s := (List.range 4).foldl (fun s x => if some x = skip then s else s.presents ⟨n, x, u⟩) s
  let open4 : Bool := match skip with | none => true | some e => (Who.clusters ⟨n, e, .c⟩).all fun k => s.handsOn k
  let group (x : Nat) : Bool := pos = 0 && open4 && s.syncReady ⟨n, x, u⟩
  match (ringFrom (tblGet 3 (s.core n).rr pos)).find? fun x => some x ≠ skip && (s.canIssue ⟨n, x, u⟩ || group x) with
  | none => .next s
  | some x =>
    if group x then
      ((s.modCore n fun c => { c with rr := [(0, x), (1, x), (2, x), (3, x)] }).syncStart ⟨n, x, u⟩).runSc ⟨n, x, u⟩
    else (s.modCore n fun c => { c with rr := tblPut c.rr pos x }).runSc ⟨n, x, u⟩

/-- A context freezes whole when the next word of one of its clusters is not in the cache (R92). -/
def State.freezeMissing (s : State) (n : Nat) : State :=
  (List.range 4).foldl (fun s x =>
    if s.awake ⟨n, x, .c⟩ then
      match (Who.clusters ⟨n, x, .c⟩).findSome? fun k =>
          if (s.clu k).run = .run then (match s.nextGroup k with | .miss va => some va | _ => none) else none with
      | some va => s.modCtx ⟨n, x, .c⟩ fun x => { x with fetch := some va }
      | none => s
    else s) s

/-- The slot-table entry of the present cc (R25, R332): an empty table is "any ready" throughout. -/
def Core.slotNow (c : Core) : Nat := c.slots.getD (c.spos % 64) 8

/-- Goes on with a next state. -/
def andThen (o : Host.Outcome State Fault Refusal) (f : State → Host.Outcome State Fault Refusal) :
    Host.Outcome State Fault Refusal :=
  match o with | .next s => f s | o => o

/-- One cluster position of one core in one cc: of the context that the entry names, of the one whose SYNC group issues
in this cc (R24), or "any ready". -/
def State.position (s : State) (n pos : Nat) : Host.Outcome State Fault Refusal :=
  let d := dieOf n
  if s.still d || (s.core n).power = .off then .next s
  else
    let s := if pos = 0 then s.freezeMissing n else s
    let u := Clu.at pos
    let group := (List.range 4).find? fun x => (s.ctxOf ⟨n, x, u⟩).syncGo
    let e := (s.core n).slotNow
    let k : Who := ⟨n, e, u⟩
    if e < 4 && s.awake k then
      if group = some e then s.runSc k
      else if pos = 0 && s.syncReady k then (s.syncStart k).runSc k
      else match group with
        | some x => andThen (s.runSc k) fun s => s.runSc ⟨n, x, u⟩
        | none => if s.handsOn k then andThen (s.runSc k) fun s => s.anyReady n pos (some e) else s.runSc k
    else match group with
      | some x => s.runSc ⟨n, x, u⟩
      | none => s.anyReady n pos none

/-- A context under pre-emption: clusters that stand at their trap points trap (R381). One that does not is presented
its next word: it may stall where pre-emption ends the stall. -/
def State.endTraps (s : State) (k : Who) : State :=
  if (s.ctxOf k).preempt && !(s.ctxOf k).frozen then
    k.clusters.foldl (fun s k =>
      let s := if s.trapsNow k then s else s.presents k
      if s.trapsNow k then s.trapCluster k else s) s
  else s

/-- A word that acts at the end of its issue cc does so now (R192, R207): it is presented a second time. -/
def State.endLate (s : State) (k : Who) : State :=
  let c := s.clu k
  if c.wait ≠ some .cirEnd || c.run ≠ .run || (s.ctxOf k).frozen then s
  else match s.nextGroup k with
  | .ok i =>
    (match exec i ({ s with cur := k }.modClu k fun c => { c with barGo := true }) with
    | .next s' => s'.modClu k fun c => { c with barGo := false }
    | _ => s)
  | _ => s

/-- The end of a cc: loads whose time has come (R217), words that act there, what the device does at every cc's end, the
traps of pre-emption (R381), the contexts that a TAIL frees (R120), and the packets that the cores then offer (R418). -/
def State.finishCc (s : State) : State :=
  let l := s.ticking
  let s := l.foldl (fun s k => k.clusters.foldl endLate s) s.endDirect
  let s := l.foldl endTraps s.endCc
  (l.foldl (fun s k => s.freeDue k.core k.ctx) s).offerAll

/-- A cc begins: the first core listed, or, with none, the cc is over at once. -/
def State.nextCc (s0 : State) : State :=
  let s1 : State := { s0 with cores := s0.cores.map fun e => (e.1, { e.2 with spmSeen := [] }) }
  let s := s1.startCc
  match s.cores with
  | (n, _) :: _ => if n < 256 then { s with scan := 4 * n } else s.finishCc
  | [] => s.finishCc

/-- The position after this one: the next cluster of the core, the next core listed, or the end of the cc. -/
def State.nextScan (s : State) : State :=
  if s.scan % 4 < 3 then { s with scan := s.scan + 1 }
  else match (s.cores.find? fun e => s.scan / 4 < e.1 && e.1 < 256) with
    | some (n, _) => { s with scan := 4 * n }
    | none => s.finishCc

/-- Goes on to the next position where there is a next state. -/
def advance (o : Host.Outcome State Fault Refusal) : Host.Outcome State Fault Refusal :=
  andThen o fun s => .next s.nextScan

/-- Events that come from outside the device (log 5). -/
def external : Instr → Bool
  | .packetReceive .. => true | .acknowledgement .. => true | .laneLoss .. => true
  | .launchQueueDoorbell .. => true | .launchQueueHeadWrite .. => true | .completionHeadWrite .. => true
  | .faultLogTailWrite .. => true | .histogramClear .. => true | .traceRingReadIndex .. => true
  | .holdWrite .. => true | .pcselWrite .. => true | .scoreWrite .. => true | .vectorUnmask .. => true
  | .managementWrite .. => true | .powerOnReset .. => true | .rdmaWrite .. => true | .rdmaRead .. => true
  | .mailboxRequest .. => true | .frameCheckFailure .. => true | .clockSkip .. => true
  | .thermalTrip .. => true | .hubTakeover => true | .stage0 => true | .stage1 .. => true
  | .stage2 => true | .stage3 .. => true | .collectiveContribution .. => true
  | _ => false

/-- What the agents do between two cc (log 5): the next event of the agenda, in which a NOP stands for the beginning of
the next cc; when the agenda is empty, what the free scheduler names. -/
def State.agents (s : State) : Host.Outcome State Fault Refusal :=
  match s.agenda with
  | i :: r =>
    let s := { s with agenda := r }
    if i.hdr?.isSome then .next s.nextCc else exec i s
  | [] =>
    let n := s.free
    let s := { s with free := n + 1 }
    match Config.freeAgent n with
    | none => .next s.nextCc
    | some i => if i.hdr?.isSome || external i then .next s.nextCc else exec i s

/-- The cluster that takes a word of a unit: C, or A, V, M for the units only they accept. -/
def cluFor (w : Nat) : Clu :=
  if w / 2 ^ 29 % 8 = 1 then .a else if w / 2 ^ 29 % 8 = 2 then .v else if w / 2 ^ 29 % 8 = 3 then .m else .c

/-- A resident task of a system kernel whose code is one line at image offset 0 (log 3). -/
def slotTask : Task :=
  { tid := 1, inst := 0, part := 0, launch := 0, cls := 0, kidx := 0, tq := 0,
    snap := { Snap.none with img := 0, size := 65536, frame := 65536, sys := true, codeOff := 0, codeSize := 64 } }

/-- Puts the word into the instruction cache of core 0 of die 0 as the first word of the code of a
resident system context 0, gives that context the slot and goes to the position that takes the word. -/
def State.placeWord (s : State) (nbits w : Nat) : State :=
  let u := cluFor (w % 2 ^ nbits)
  let line : List Byte := bytesOfNat 64 (w % 2 ^ nbits)
  let x : Ctx :=
    { Ctx.reset with
        task := some slotTask,
        views := [(2, BitVec.ofNat 64 (2 ^ 27)), (3, BitVec.ofNat 64 64)],
        clus := [(u.num, { Cluster.start with run := .run })] }
  { s with scan := u.num, cur := ⟨0, 0, u⟩,
           cores := tblPut s.cores 0
             { s.core 0 with ctxs := tblPut (s.core 0).ctxs 0 x, slots := List.replicate 64 0,
                             icache := tblPut (s.core 0).icache (lineKey slotTask 0) line } }

end Sys2Proof.Machine
end

