-- ==== Sys2Proof/Machine/Step.lean ====
section
/-! DEFINITION. One step: the next cluster position of the cc (log 4), or, when all have acted, one event of
an agent or the beginning of the next cc (log 5); and how an instruction word is put where the next step takes it (log 3). -/

namespace Sys2Proof.Machine

/-- One step of the device. -/
def step (s : State) : Host.Outcome State Fault Refusal :=
  if s.scan < 1024 then advance (s.position (s.scan / 4) (s.scan % 4))
  else s.agents

/-- A state whose next step runs this word (log 3). -/
def State.withFetchWord (s : State) (nbits w : Nat) : State := s.placeWord nbits w

end Sys2Proof.Machine
end

