-- ==== Sys2Proof/Safety.lean ====
section
/-! DEFINITION. What counts as a safe run, and the terms in which claims are made: the invariant that memories keep
their canonical form, what a step leaves unchanged, when a word issues, and the results that the rules give the words
whose effect lands when a latency ends (R26). -/

namespace Sys2Proof.Machine

/-- A step that ends in a next state: the device's own faults are next states, so a stop is the
model's. -/
def Goes (o : Host.Outcome State Fault Refusal) : Prop := ∃ s, o = .next s

/-- The memory of the device, of every core's frame store and of every scratchpad keeps the canonical form. -/
def State.memWf (s : State) : Bool :=
  s.mem.wf && s.cores.all fun e => e.2.frame.wf && e.2.spm.wf

/-- Two clusters hold the same registers (Tables 4.1, 5.1, 6.1, 7.7); loop state, counters of draws and sc, and the
place in the stream are not registers here. -/
structure Cluster.SameRegs (c d : Cluster) : Prop where
  s : ∀ r, d.sreg r = c.sreg r
  p : ∀ r, d.preg r = c.preg r
  rmode : d.rmode = c.rmode
  seed : d.seed = c.seed
  stream : d.stream = c.stream
  a : ∀ n, d.areg n = c.areg n
  mode : ∀ n, d.modeOf n = c.modeOf n
  base : ∀ n, d.baseOf n = c.baseOf n
  inc : ∀ n, d.incr n = c.incr n
  mb : ∀ n, d.mbuf n = c.mbuf n
  k : ∀ n, d.mask n = c.mask n
  sig : ∀ n, tblGet 0 d.sig n = tblGet 0 c.sig n
  inv : ∀ n, d.invOf n = c.invOf n

/-- The registers of every cluster, and the views and flags of every context, are as before. -/
structure State.KeepsRegs (s t : State) : Prop where
  regs : ∀ k, (s.clu k).SameRegs (t.clu k)
  views : ∀ k n, (t.ctxOf k).view n = (s.ctxOf k).view n
  flags : ∀ k n, (t.ctxOf k).flag n = (s.ctxOf k).flag n
  barriers : ∀ d n, (t.die d).barCount n = (s.die d).barCount n

/-- Whether a cluster has an atomic in flight that is still to be performed. -/
def State.atomicOf (s : State) (k : Who) : Bool :=
  s.accs.any fun (_, a) => a.who = k && match a.kind with | .atom .. => true | _ => false

/-- The registers of every cluster with no atomic in flight, and the views and flags of every context, are as before. -/
structure State.KeepsSettledRegs (s t : State) : Prop where
  regs : ∀ k, s.atomicOf k = false → (s.clu k).SameRegs (t.clu k)
  views : ∀ k n, (t.ctxOf k).view n = (s.ctxOf k).view n
  flags : ∀ k n, (t.ctxOf k).flag n = (s.ctxOf k).flag n
  barriers : ∀ d n, (t.die d).barCount n = (s.die d).barCount n

/-- Every byte of the device's memories, of every frame store and of every scratchpad is as before. -/
structure State.KeepsBytes (s t : State) : Prop where
  mem : ∀ a, t.mem.read a = s.mem.read a
  frame : ∀ n a, (t.core n).frame.read a = (s.core n).frame.read a
  spm : ∀ n a, (t.core n).spm.read a = (s.core n).spm.read a

/-- No result that the image's latency has made visible is still on its way: nothing stalls for R27. -/
def Cluster.calm (c : Cluster) : Prop := ∀ f ∈ c.dl, c.sc < f.vis ∨ f.real ≤ c.sc

/-- A word can issue in the present sc: its cluster runs, its stage is on (R104), no check of Table 3.7 fails, no
atomic or held push is outstanding (R23, R229), the tokens it waits for are there, and if it carries SYNC the other
clusters of its context are ready (R24). -/
structure State.Issues (s : State) (i : Instr) (h : Hdr) : Prop where
  hdr : i.hdr? = some h
  running : s.me.run = .run
  stage : s.me.idleStage (s.wordPc i) = false
  checks : s.wordFault i = none
  free : s.me.blocked = false
  pushed : s.me.held = []
  tokens : s.myCtx.hasTok (waitQueues s.cur.clu h.wait) = true
  calm : s.me.calm
  sync : s.syncWaits h = false

/-- The state after a word of a latency class that only computes results and goes on in sequence (R26). -/
def State.gives (s : State) (i : Instr) (h : Hdr) (cls : Nat) (res : List Res) : State :=
  s.issued i h .latency ((s.taken h).later cls res) .seq

/-- Count of a shift: bits [5:0] (R105). -/
def shiftBy (y : Word) : Nat := y.toNat % 64

/-- w' of R108: the width at [12:6], cut at bit 63. -/
def cutWidth (y : Word) : Nat := Nat.min (y.toNat / 64 % 128) (64 - y.toNat % 64)

/-- Class and result of the words of R105 to R113, from their rules as exact integers. -/
def State.scalarResult (s : State) : Instr → Option (Nat × List Res) :=
  let x (n : BitVec 5) : Word := s.me.sreg n.toNat
  let p (n : BitVec 3) : Bool := s.me.preg n.toNat
  let put (cls : Nat) (d : BitVec 5) (v : Word) : Option (Nat × List Res) := some (cls, [.scal d.toNat v])
  let set (d : BitVec 3) (v : Bool) : Option (Nat × List Res) := some (0, [.pred d.toNat v])
  fun i => match i with
  | .nop _ => some (0, [])
  | .add _ d a b => put 0 d (BitVec.ofInt 64 ((x a).toInt + (x b).toInt))
  | .sub _ d a b => put 0 d (BitVec.ofInt 64 ((x a).toInt - (x b).toInt))
  | .mul _ d a b => put 1 d (BitVec.ofInt 64 ((x a).toInt * (x b).toInt))
  | .mulhs _ d a b => put 1 d (BitVec.ofInt 64 ((x a).toInt * (x b).toInt / 2 ^ 64))
  | .mulhn _ d a b => put 1 d (BitVec.ofNat 64 ((x a).toNat * (x b).toNat / 2 ^ 64))
  | .divs _ d a b =>
    if (x b).toInt = 0 then put 2 d 0x8000000000000000#64
    else if (x a).toInt = -2 ^ 63 ∧ (x b).toInt = -1 then
      some (2, [.scal d.toNat 0x7FFFFFFFFFFFFFFF#64, .cir 4])
    else put 2 d (BitVec.ofInt 64 ((x a).toInt.tdiv (x b).toInt))
  | .divn _ d a b =>
    if (x b).toNat = 0 then put 2 d 0xFFFFFFFFFFFFFFFF#64 else put 2 d (BitVec.ofNat 64 ((x a).toNat / (x b).toNat))
  | .rems _ d a b =>
    if (x b).toInt = 0 then put 2 d 0xFFFFFFFFFFFFFFFF#64
    else if (x a).toInt = -2 ^ 63 ∧ (x b).toInt = -1 then put 2 d 0
    else put 2 d (BitVec.ofInt 64 ((x a).toInt - (x b).toInt * (x a).toInt.tdiv (x b).toInt))
  | .remn _ d a b =>
    if (x b).toNat = 0 then put 2 d 0xFFFFFFFFFFFFFFFF#64
    else put 2 d (BitVec.ofNat 64 ((x a).toNat - (x b).toNat * ((x a).toNat / (x b).toNat)))
  | .and _ d a b => put 0 d (x a &&& x b)
  | .or _ d a b => put 0 d (x a ||| x b)
  | .xor _ d a b => put 0 d (x a ^^^ x b)
  | .andn _ d a b => put 0 d (x a &&& ~~~x b)
  | .shl _ d a b => put 0 d (BitVec.ofNat 64 ((x a).toNat * 2 ^ shiftBy (x b)))
  | .shr _ d a b => put 0 d (BitVec.ofNat 64 ((x a).toNat / 2 ^ shiftBy (x b)))
  | .sha _ d a b => put 0 d (BitVec.ofInt 64 ((x a).toInt / (2 ^ shiftBy (x b) : Nat)))
  | .rol _ d a b =>
    put 0 d (BitVec.ofNat 64 ((x a).toNat * 2 ^ shiftBy (x b) + (x a).toNat / 2 ^ (64 - shiftBy (x b))))
  | .min _ d a b => put 0 d (if (x a).toInt ≤ (x b).toInt then x a else x b)
  | .max _ d a b => put 0 d (if (x a).toInt ≤ (x b).toInt then x b else x a)
  | .minn _ d a b => put 0 d (if (x a).toNat ≤ (x b).toNat then x a else x b)
  | .maxn _ d a b => put 0 d (if (x a).toNat ≤ (x b).toNat then x b else x a)
  | .clz _ d a => put 0 d (BitVec.ofNat 64 (if x a = 0 then 64 else 63 - Nat.log2 (x a).toNat))
  | .popc _ d a => put 0 d (BitVec.ofNat 64 ((List.range 64).filter fun j => (x a).getLsbD j).length)
  | .bfx _ d a b => put 0 d (BitVec.ofNat 64 ((x a).toNat / 2 ^ shiftBy (x b) % 2 ^ cutWidth (x b)))
  | .bfi _ d a b =>
    let m : Word := BitVec.ofNat 64 ((2 ^ cutWidth (x b) - 1) * 2 ^ shiftBy (x b))
    put 0 d ((x d &&& ~~~m) ||| (BitVec.ofNat 64 ((x a).toNat * 2 ^ shiftBy (x b)) &&& m))
  | .addi _ e d a m => put 0 d (BitVec.ofInt 64 ((x a).toInt + extImm e 5 m.toNat))
  | .shli _ e d a m => put 0 d (BitVec.ofNat 64 ((x a).toNat * 2 ^ (extImm e 5 m.toNat % 64).toNat))
  | .shri _ e d a m => put 0 d (BitVec.ofNat 64 ((x a).toNat / 2 ^ (extImm e 5 m.toNat % 64).toNat))
  | .shai _ e d a m => put 0 d (BitVec.ofInt 64 ((x a).toInt / (2 ^ (extImm e 5 m.toNat % 64).toNat : Nat)))
  | .andi _ e d a m => put 0 d (x a &&& BitVec.ofInt 64 (extImm e 5 m.toNat))
  | .li _ e d m => put 0 d (BitVec.ofInt 64 (extImm e 10 m.toNat))
  | .lih _ e d =>
    match e with
    | none => none
    | some v => put 0 d (BitVec.ofNat 64 (v.toNat % 2 ^ 26 * 2 ^ 38 + (x d).toNat % 2 ^ 38))
  | .mov _ d a => put 0 d (x a)
  | .cmov _ d a q => if p q then put 0 d (x a) else some (0, [])
  | .cmpeq _ d a b => set d (decide ((x a).toNat = (x b).toNat))
  | .cmpne _ d a b => set d (decide ((x a).toNat ≠ (x b).toNat))
  | .cmplt _ d a b => set d (decide ((x a).toInt < (x b).toInt))
  | .cmple _ d a b => set d (decide ((x a).toInt ≤ (x b).toInt))
  | .cmpltn _ d a b => set d (decide ((x a).toNat < (x b).toNat))
  | .cmplen _ d a b => set d (decide ((x a).toNat ≤ (x b).toNat))
  | .pand _ d a b => set d (p a && p b)
  | .por _ d a b => set d (p a || p b)
  | .pxor _ d a b => set d (p a != p b)
  | _ => none

/-- Class and result of the words on address registers and merge buffers (R222, R224, R227), on masks (R169), and of
the check words that read no value (R188, R194). -/
def State.fieldResult (s : State) : Instr → Option (Nat × List Res) :=
  let x (n : BitVec 5) : Word := s.me.xreg n.toNat
  fun i => match i with
  | .aadd _ d a b => some (0, [.areg d.toNat (BitVec.ofInt 64 ((x a).toInt + (x b).toInt))])
  | .aaddi _ e d a m => some (0, [.areg d.toNat (BitVec.ofInt 64 ((x a).toInt + extImm e 5 m.toNat))])
  | .asub _ d a b => some (0, [.areg d.toNat (BitVec.ofInt 64 ((x a).toInt - (x b).toInt))])
  | .amov _ d a => some (0, [if d.toNat < 16 then .areg d.toNat (x a) else .scal (d.toNat - 16) (x a)])
  | .ali _ e d m => some (0, [.areg d.toNat (BitVec.ofInt 64 (extImm e 10 m.toNat))])
  | .amode _ d a => if modeOk (x a) then some (0, [.mode d.toNat (x a)]) else none
  | .abase _ d a => some (0, [.base d.toNat (x a)])
  | .ainc _ d a => some (0, [.inc d.toNat (x a)])
  | .mbput _ m a b =>
    let o := (x b).toNat % 64
    some (11, [.mbuf m.toNat ((x a).toNat * 2 ^ (8 * o) % 2 ^ 512) ((2 ^ 64 - 1) * 2 ^ (8 * o) % 2 ^ 512)])
  | .mbget _ d m b =>
    let v : Word := BitVec.ofNat 64 (s.me.mbuf m.toNat / 2 ^ (8 * ((x b).toNat % 64)))
    some (11, [if d.toNat < 16 then .areg d.toNat v else .scal (d.toNat - 16) v])
  | .kand _ _ d a b => some (3, [.mask d.toNat (s.me.mask a.toNat &&& s.me.mask b.toNat) (2 ^ 1024 - 1)])
  | .kor _ _ d a b => some (3, [.mask d.toNat (s.me.mask a.toNat ||| s.me.mask b.toNat) (2 ^ 1024 - 1)])
  | .kxor _ _ d a b => some (3, [.mask d.toNat (s.me.mask a.toNat ^^^ s.me.mask b.toNat) (2 ^ 1024 - 1)])
  | .knot _ _ d a => some (3, [.mask d.toNat (2 ^ 1024 - 1 - s.me.mask a.toNat % 2 ^ 1024) (2 ^ 1024 - 1)])
  | .kpopc _ _ d a =>
    some (3, [.scal d.toNat (BitVec.ofNat 64 ((List.range 1024).filter fun j => (s.me.mask a.toNat).testBit j).length)])
  | .sigclr _ n => some (0, [.sig n.toNat none])
  | .provclr _ n => some (0, [.prov n.toNat])
  | _ => none

/-- A row is not open for another core (R252). -/
def State.rowFree (s : State) (key : Nat) : Prop := ∀ o, tblFind s.rows key = some o → o.1 = s.cur.core

/-- A row is not open for another core as a plain store of this core comes to it (R252): the stores through the die
window and the atomics of other cores that are out have come first (log 57). -/
def State.storeFree (s : State) (key place : Nat) : Prop := (s.settleRow s.cur.core key place).rowFree key

/-- The state in which a plain store of this core has opened a row that is free for it. -/
def State.opensRow (s : State) (key place : Nat) : State := (s.plainStore s.cur.core key place false).getD s

/-- The state in which a word of the current cluster meets a row of a scratchpad: older stores to the row are performed
(R233). -/
def State.settledRow (s : State) (a : Word) (n : Nat) : State :=
  s.performOlder s.accNext s.cur.core (2 ^ 64 + spmKey n a.toNat)

/-- The same row for a word that loads from it, with what the loading cluster learns there (R240). -/
def State.loadingRow (s : State) (a : Word) (n : Nat) : State :=
  (s.settledRow a n).loadCell s.cur (2 ^ 64 + spmKey n a.toNat)

/-- A row of a scratchpad as a load finds it: the state, the 64 bytes, the poison marks, and the cc by which they come
late. -/
structure Loaded where
  s : State
  data : Nat
  pois : Nat
  late : Nat

/-- The row as a load of the current cluster finds it (R205, R233); a load through the die window finds it as it
was before a write by its own core in the same cc (R207), comes late by a free number of cc (R208), and keeps the target
core from powering down (R388). -/
def State.loadedRow (s : State) (a : Word) (n : Nat) (win : Bool) : Loaded :=
  let t := (s.windowWakes n win).loadingRow a n
  let late := if win then Config.windowLate t.free else 0
  let t := if win then { t with free := t.free + 1 } else t
  match (if win then (t.core n).spmWas.find? fun e => e.row = a.toNat % 2 ^ 20 / 64 else none) with
  | some e => ⟨t.sawOld n e, e.data, e.pois, late⟩
  | none =>
    let r := t.spmRead n (a.toNat % 2 ^ 20) t.myTask.tag
    ⟨r.1, r.2.1, r.2.2, late⟩

/-- A word lands results of the row at the class-10 latency and updates its address register (R223, R225). -/
def Loaded.landsRow (r : Loaded) (res : List Res) (a b : BitVec 5) : State :=
  (r.s.laterBy r.late 10 (res ++ cirRes (if r.pois = 0 then 0 else 1))).later 0 (r.s.me.post a b)

/-- Rows for a load queue: reserved at its tail now, filled when the load lands (R286). -/
def Loaded.queuesRows (r : Loaded) (q : Nat) (rows : List Nat) (cir : Nat) (a b : BitVec 5) : State :=
  let t := r.s.reserveLq r.s.cur q rows.length
  (t.1.laterBy r.late 10 (((t.2.zip rows).map fun e => .lrow q e.1 e.2 0) ++ cirRes (if r.pois = 0 then 0 else 1) ++
    cirRes cir)).later 0 (t.1.me.post a b)

/-- The row of the core's own scratchpad is written, older stores to it performed first (R233); a window load of this cc
still finds it as it was (R207). -/
def State.writesRow (s : State) (n : Nat) (a : Word) (data : Nat) : State :=
  ((s.settledRow a n).storeCell s.cur (2 ^ 64 + spmKey n a.toNat)).spmStore n (a.toNat % 2 ^ 20) data

/-- A row store goes to the core's own scratchpad, or out through the die window (R205, R208), with what it adds to a
histogram (R359); unlock frees the lock bit of the row (R210). -/
def State.storesRow (s : State) (n : Nat) (window unlock : Bool) (a : Word) (data : Nat) (bins : List (Nat × Nat)) : State :=
  if window then
    ((s.windowWakes n true).afterFences s.cur s.accNext).addAcc
      { who := s.cur, va := a.toNat, sa := 0, kind := .win n (a.toNat % 2 ^ 20) data unlock, passed := false,
        task := s.myTask, sig := 0, live := true, sent := false, bins := bins }
  else if unlock then ((s.writesRow n a data).histWord n bins).modCore n fun c => c.freeLock (a.toNat % 2 ^ 20)
  else (s.writesRow n a data).histWord n bins

/-- A plain store of a row that no other core has open: into its own core's scratchpad it opens the row at once
(R252); one through the window opens it where it is performed. -/
def State.storesOpenRow (s : State) (n : Nat) (window : Bool) (a : Word) (data : Nat) (bins : List (Nat × Nat)) : State :=
  let key := spmKey n a.toNat
  (if window then s.settleRow s.cur.core key (2 ^ 64 + key) else s.opensRow key (2 ^ 64 + key)).storesRow n window false a
    data bins

/-- A word that updates its address register and has no other result (R223). -/
def State.postUpdates (s : State) (a b : BitVec 5) : State := s.later 0 (s.me.post a b)

/-- The MOD word, destination and element rule of the element-wise words (R153 to R160). -/
def elementWord : Instr → Option (Option ModF × BitVec 5 × VSpec)
  | .fadd _ md r d a b => some (md, d, float2 4 r a b fun rm x y => exactTotal rm [x, y])
  | .fsub _ md r d a b => some (md, d, float2 4 r a b fun rm x y => exactTotal rm [x, y.negate])
  | .fmul _ md r d a b => some (md, d, float2 4 r a b fun rm x y => (x.mul y).zeroSign rm)
  | .fma _ md r d a b => some (md, d, float3 r a b fun rm p c => exactTotal rm [p, c])
  | .fms _ md r d a b => some (md, d, float3 r a b fun rm p c => exactTotal rm [p, c.negate])
  | .fnma _ md r d a b => some (md, d, float3 r a b fun rm p c => exactTotal rm [c, p.negate])
  | .fdiv _ md r d a b => some (md, d, float2 5 r a b fun rm x y => (x.div y).zeroSign rm)
  | .fsqrt _ md r d a => some (md, d, float1 5 r a Val.sqrt)
  | .fcvt _ md r d a => some (md, d, ⟨9, [a], false, r, .vw1, fun _ _ => true, fun e j l _ => e.out j (e.arg l 0)⟩)
  | .fmin _ md d a b => some (md, d, float2 4 0 a b fun _ x y => x.minmax false y)
  | .fmax _ md d a b => some (md, d, float2 4 0 a b fun _ x y => x.minmax true y)
  | .fabs _ md d a =>
    some (md, d, ⟨4, [a], false, 0, .source, fun ts td => ts.isFloat && ts = td,
      fun e _ l _ => (l.getD 0 0 % 2 ^ (e.td.width - 1), NumFlags.none)⟩)
  | .fneg _ md d a =>
    some (md, d, ⟨4, [a], false, 0, .source, fun ts td => ts.isFloat && ts = td,
      fun e _ l _ => (l.getD 0 0 ^^^ 2 ^ (e.td.width - 1), NumFlags.none)⟩)
  | .fclass _ md d a =>
    some (md, d, ⟨4, [a], false, 0, .vw1, fun ts td => ts.isFloat && td.isInt && 16 ≤ td.width,
      fun e _ l _ => (classOf e.ts (l.getD 0 0), NumFlags.none)⟩)
  | .frcp _ md d a => some (md, d, float1 6 0 a spRcp)
  | .frsq _ md d a => some (md, d, float1 6 0 a spRsq)
  | .fexp2 _ md d a => some (md, d, float1 6 0 a spExp2)
  | .flog2 _ md d a => some (md, d, float1 6 0 a spLog2)
  | .ftanh _ md d a => some (md, d, float1 6 0 a spTanh)
  | .fsigm _ md d a => some (md, d, float1 6 0 a spSigm)
  | .fsin _ md d a => some (md, d, float1 6 0 a (spTrig false))
  | .fcos _ md d a => some (md, d, float1 6 0 a (spTrig true))
  | .iadd _ md d a b => some (md, d, int2 a b ints VEnv.sat fun _ x y => x + y)
  | .isub _ md d a b => some (md, d, int2 a b ints VEnv.sat fun _ x y => x - y)
  | .imul _ md d a b => some (md, d, int2 a b ints VEnv.sat fun _ x y => x * y)
  | .imulh _ md d a b => some (md, d, int2 a b ints (fun _ => false) fun n x y => x * y / (2 ^ n : Nat))
  | .imad _ md d a b =>
    some (md, d, ⟨3, [a, b], true, 0, .source, ints, fun e _ l c =>
      narrowInt e.td e.sat (intOf e.ts (l.getD 0 0) * intOf e.ts (l.getD 1 0) + intOf e.td c)⟩)
  | .imin _ md d a b => some (md, d, int2 a b ints (fun _ => false) fun _ x y => if x ≤ y then x else y)
  | .imax _ md d a b => some (md, d, int2 a b ints (fun _ => false) fun _ x y => if x ≤ y then y else x)
  | .iand _ md d a b => some (md, d, bits2 a b fun _ x y => x &&& y)
  | .ior _ md d a b => some (md, d, bits2 a b fun _ x y => x ||| y)
  | .ixor _ md d a b => some (md, d, bits2 a b fun _ x y => x ^^^ y)
  | .ishl _ md d a b => some (md, d, bits2 a b fun n x y => x * 2 ^ (y % n))
  | .ishr _ md d a b => some (md, d, bits2 a b fun n x y => x / 2 ^ (y % n))
  | .isha _ md d a b => some (md, d, bits2 a b fun n x y => toBits n (sextN x n / (2 ^ (y % n) : Nat)))
  | .iadds _ md d a b => some (md, d, int2 a b ints (fun _ => true) fun _ x y => x + y)
  | _ => none

/-- Sources of an element-wise word, with the registers each one is wide, for source type ts and result type td
(R141): the addend is the destination's own group. -/
def VSpec.groups (v : VSpec) (d : BitVec 5) (ts td : Fmt) : List (VOp × Nat) :=
  (v.srcs.map fun x => (vop x, elemCount ts td / ts.lanes)) ++
    (if v.addend then [(vop d, elemCount ts td / td.lanes)] else [])

/-- Elements and CIR bits of an element-wise word, from the groups it has read (R141 to R147). -/
def State.elements (s : State) (v : VSpec) (md : Option ModF) (ts td : Fmt) (gs : List (List Nat)) :
    List (Option Nat) × Nat :=
  maskedElems (s.maskOf md) (zeroOf md) (elemCount ts td) fun j =>
    v.f (s.vEnv ts td md v.code) j ((gs.take v.srcs.length).map fun g => groupElem ts g j)
      (groupElem td (gs.getD v.srcs.length [0]) j)

/-- A vector word lands its group at its class's latency, with the CIR bits; a word of code SR counts its draw
(R52, R146, R147). -/
def State.landsGroup (s : State) (cls : Nat) (d : BitVec 5) (td : Fmt) (w : Nat) (code : BitVec 2)
    (out : List (Option Nat) × Nat) : State :=
  let r := s.writeGroup (vop d) td w out.1
  (r.1.countSr code).later cls (r.2 ++ cirRes out.2)

/-- What a compare word is: class, MOD word, mask, sources, types it takes, and its test (R157, R162). -/
structure CompareWord where
  cls : Nat
  md : Option ModF
  k : BitVec 3
  a : BitVec 5
  b : BitVec 5
  ok : Fmt → Bool
  test : Fmt → Nat → Nat → Bool

/-- The compare words: floating ones by exact value, false for a NaN; integer ones by value or by pattern. -/
def compareWord : Instr → Option CompareWord
  | .fcmpeq _ md k a b => some ⟨4, md, k, a, b, Fmt.isFloat, fcmpBit (· = 0)⟩
  | .fcmplt _ md k a b => some ⟨4, md, k, a, b, Fmt.isFloat, fcmpBit (· < 0)⟩
  | .fcmple _ md k a b => some ⟨4, md, k, a, b, Fmt.isFloat, fcmpBit (· ≤ 0)⟩
  | .icmpeq _ md k a b => some ⟨3, md, k, a, b, Fmt.isInt, fun _ x y => x = y⟩
  | .icmplt _ md k a b => some ⟨3, md, k, a, b, Fmt.isInt, fun t x y => sextN x t.width < sextN y t.width⟩
  | .icmpltn _ md k a b => some ⟨3, md, k, a, b, Fmt.isInt, fun _ x y => x < y⟩
  | .tcmplt _ md k a b =>
    some ⟨3, md, k, a, b, fun t => t.isInt && (t.width = 8 || t.width = 16),
      fun t x y => sextN x t.width < sextN y t.width⟩
  | _ => none

/-- Bits and kept bits of a mask that a compare word writes (R143): off elements keep their bit, or become 0. -/
def State.maskResult (s : State) (w : CompareWord) (ts : Fmt) (ga gb : List Nat) : Res :=
  let bit (j : Nat) : Nat :=
    if s.maskOf w.md j && w.test ts (groupElem ts ga j) (groupElem ts gb j) then 1 else 0
  let keep (j : Nat) : Nat := if s.maskOf w.md j || zeroOf w.md then 0 else 1
  .mask w.k.toNat (packElems 1 ((List.range ts.lanes).map bit))
    (2 ^ 1024 - 1 - packElems 1 ((List.range ts.lanes).map keep))

/-- What a word that pops a format word has to meet at issue (Table 9.5): room in the queue, a format word its rule
takes, an accumulator inside the frame, addresses by the bank rule. -/
def State.mxReady (s : State) (acc : Nat) (w : Word) (rest : List Word) (fmt addr : Bool) : Prop :=
  s.myCore.mxq.length < 8 ∧ s.myCtx.fmtq = w :: rest ∧ fmt = true ∧ (fwC w = 2 → acc % 2 = 0) ∧
  accOff (s.myCtx.view 3) acc (fwC w = 2) + accLen (fwC w = 2) ≤ s.myTask.snap.frame ∧ addr = true

/-- Queue and captured values of the words that only push an engine command (Table 10.2, R308 to R315, R340 to R343):
d, a, b and the scalar after B. -/
def State.enCommand (s : State) : Instr → Option (EnQueue × Word × Word × Word × Word) :=
  let x (n : BitVec 5) : Word := s.me.sreg n.toNat
  fun i => match i with
  | .rput _ d a b => some (.remote, x d, x a, x b, 0)
  | .rget _ d a b => some (.remote, x d, x a, x b, 0)
  | .ratom _ _ _ a b => some (.remote, 0, x a, x b, x (b + 1))
  | .rfence _ => some (.remote, 0, 0, 0, 0)
  | .cred _ _ a => some (.coll, 0, x a, 0, 0)
  | .cbcast _ a => some (.coll, 0, x a, 0, 0)
  | .taskq _ a b => some (.remote, 0, x a, x b, 0)
  | .launch _ a => some (.remote, 0, x a, 0, 0)
  | .almld _ a b => some (.remote, 0, x a, x b, 0)
  | .almclr _ => some (.remote, 0, 0, 0, 0)
  | .cbld _ a => some (.copy, 0, x a, 0, 0)
  | _ => none

/-- The fault that such a word raises for its values or its class instead (R184, R308, R315, R340); none if it pushes.
-/
def State.enRefusal (s : State) (i : Instr) : Option Nat :=
  let x (n : BitVec 5) : Nat := (s.me.sreg n.toNat).toNat
  let guarded : Bool := match i with | .rget .. => false | .rfence _ => false | .cbld .. => false | _ => true
  if guarded && s.myTask.cls ≠ 0 then some 9
  else match i with
  | .rput _ d _ _ => if 2 ^ 20 < x d then some 1 else none
  | .rget _ d _ _ => if 2 ^ 20 < x d then some 1 else none
  | .taskq _ _ b =>
    if 64 ≤ x b then some 1 else if (s.tq (x b)).part = some s.myTask.part then none else some 9
  | .almld _ _ b => if x b = 0 ∨ 4096 < x b then some 1 else none
  | _ => none

end Sys2Proof.Machine
end

