-- ==== Sys2Proof/WellFormed.lean ====
section
/-! DEFINITION. Well-formed instructions: words whose used fields hold permitted values. A step
without an encoding is not something a program can hold, so it is not well-formed. -/

namespace Sys2Proof

/-- A word whose fields are all permitted (R71, Table 3.7 rows 4, 5 and 7). -/
def Instr.wf (i : Instr) : Bool := i.hdr?.isSome && reservedOk i

/-- The proposition that an instruction is well-formed. -/
abbrev Instr.WellFormed (i : Instr) : Prop := i.wf = true

end Sys2Proof
end

