-- ==== Sys2Proof/Certificates/Slice0/Obligations.lean ====
section
/-! DEFINITION. The statements about the model, from the rules of the specification: what each word and each event
does when it takes place, what it leaves alone, that encoding and decoding agree, that a step runs the decoded
instruction, and what every step keeps. -/

open Sys2Proof Sys2Proof.Machine

/-- R105 to R113: an integer, immediate, move, compare or predicate word that issues puts the value of its rule into the
delay line of its latency class, and goes on in sequence; none of them faults on a value. R169, R188, R194, R222,
R224, R227: the same of address words, merge-buffer words, mask words and the clearing words of the CK unit. -/
def Obligations.ScalarWordsGiveTheirResults : Prop :=
  ∀ (s : State) (i : Instr) (h : Hdr) (cls : Nat) (res : List Res),
    s.Issues i h → s.scalarResult i = some (cls, res) ∨ s.fieldResult i = some (cls, res) → exec i s = .next (s.gives i h cls res)

/-- R26, R27: a scalar result of class cls, put into flight by the word now issuing, lands once the image's latency of
the class and the die's own if longer have passed, counted in sc of the cluster, and not before; a write to s0 is
discarded. The cluster has no other result in flight. -/
def Obligations.ScalarResultLands : Prop :=
  ∀ (s : State) (cls r sc : Nat) (v : Word), s.me.dl = [] →
    let own := s.ownLatency (dieOf s.cur.core) cls
    let t := s.later cls [.scal r v]
    let u := t.modMe fun c => { c with sc := sc }
    t.me.dl = [⟨s.me.sc + s.lat cls, s.me.sc + Nat.max (s.lat cls) own, [.scal r v], cls⟩] ∧
    (s.me.sc + s.lat cls ≤ sc ∧ s.me.sc + own ≤ sc →
      (u.landDue s.cur).me.dl = [] ∧
      ∀ q, (u.landDue s.cur).me.sreg q = if q = r ∧ r ≠ 0 then v else s.me.sreg q) ∧
    (sc < s.me.sc + s.lat cls ∨ sc < s.me.sc + own → u.landDue s.cur = u)

/-- R114: BR, JMP and CALL go to PC + 4 x ext, JMPR and RET to the offset in their scalar; the link of CALL is the
offset after it; a branch not taken goes on in sequence. R114: JMPR and RET whose scalar is 2^32 or more raise
ILLEGAL_WORD. -/
def Obligations.BranchesGoToTheirTargets : Prop :=
  (
    ∀ (s : State) (h : Hdr) (x : Option ImmF) (o : BitVec 11) (p : BitVec 3) (n : BitVec 1) (a : BitVec 5),
      (s.Issues (.br h x p n o) h →
        exec (.br h x p n o) s = .next (s.issued (.br h x p n o) h .latency (s.taken h)
          (if s.me.preg p.toNat ≠ decide (n = 1) then
            .jump ((s.wordPc (.br h x p n o) : Int) + 4 * extImm x 11 o.toNat) true else .seq))) ∧
      (s.Issues (.jmp h x o) h →
        exec (.jmp h x o) s = .next (s.issued (.jmp h x o) h .latency (s.taken h)
          (.jump ((s.wordPc (.jmp h x o) : Int) + 4 * extImm x 11 o.toNat) true))) ∧
      (s.Issues (.call h x o) h →
        exec (.call h x o) s = .next (s.issued (.call h x o) h .latency
          ((s.taken h).later 0 [.scal 31 (BitVec.ofNat 64 (s.wordPc (.call h x o) + 4))])
          (.jump ((s.wordPc (.call h x o) : Int) + 4 * extImm x 11 o.toNat) false))) ∧
      (s.Issues (.jmpr h a) h → (s.me.sreg a.toNat).toNat < 2 ^ 32 →
        exec (.jmpr h a) s = .next (s.issued (.jmpr h a) h .latency (s.taken h)
          (.jump (s.me.sreg a.toNat).toNat true))) ∧
      (s.Issues (.ret h) h → (s.me.sreg 31).toNat < 2 ^ 32 →
        exec (.ret h) s = .next (s.issued (.ret h) h .latency (s.taken h)
          (.jump (s.me.sreg 31).toNat false)))) ∧
  (
    ∀ (s : State) (h : Hdr) (a : BitVec 5),
      (s.Issues (.jmpr h a) h → 2 ^ 32 ≤ (s.me.sreg a.toNat).toNat →
        exec (.jmpr h a) s = .next (s.precise { code := 1 })) ∧
      (s.Issues (.ret h) h → 2 ^ 32 ≤ (s.me.sreg 31).toNat → exec (.ret h) s = .next (s.precise { code := 1 })))

/-- R97, R98, R103, R115 to R117: a loop word whose count is not 0 and whose place is allowed starts a level; a count
of 0 skips the body. The body of the innermost loop lies around the new one, and no LOOPP around it. R99: where LDEPTH
is 3, where the body would end after LE of the innermost loop, inside an active LOOPP body, and of a LOOPP while one
is active, a loop word raises ILLEGAL_WORD and leaves the loop state as it was. R118, R119, R120: BRKL leaves the
innermost loop, LOOPP by letting it run out; END and TAIL end the stream, TAIL once the cluster's results and loads
are there, M's commands have completed, and the tracker has room. -/
def Obligations.LoopsStartAndStreamsEnd : Prop :=
  (
    ∀ (s : State) (i : Instr) (h : Hdr) (count len : Nat) (shape : Option (Nat × Nat)),
      s.Issues i h →
      (match i with
        | .loop _ d l => count = (s.me.sreg d.toNat).toNat ∧ len = l.toNat ∧ shape = none
        | .loopi _ x c l =>
          count = (match x with | none => c.toNat | some v => v.toNat * 32 + c.toNat) ∧ len = l.toNat ∧ shape = none
        | .loopp _ d st g =>
          count = (s.me.sreg d.toNat).toNat ∧ len = (st.toNat + 1) * g.toNat ∧ shape = some (st.toNat + 1, g.toNat)
        | _ => False) →
      1 ≤ len →
      ((s.me.ldepth = 3 ∨ (0 < s.me.ldepth ∧ (s.me.leOf (s.me.ldepth - 1)).toNat < s.wordPc i + 4 * len) ∨
          ∃ l g, s.me.loopp = some (l, g) ∧ (shape.isSome = true ∨
            ((s.me.lsOf l).toNat ≤ s.wordPc i + 4 ∧ s.wordPc i + 4 * len ≤ (s.me.leOf l).toNat))) →
        exec i s = .next (s.precise { code := 1 }) ∧
          (s.precise { code := 1 }).me.ldepth = s.me.ldepth ∧ (s.precise { code := 1 }).me.loopp = s.me.loopp) ∧
      (s.me.ldepth < 3 →
      (s.me.ldepth = 0 ∨ s.wordPc i + 4 * len ≤ (s.me.leOf (s.me.ldepth - 1)).toNat) →
      (∀ l g, s.me.loopp = some (l, g) → shape = none ∧
        ¬((s.me.lsOf l).toNat ≤ s.wordPc i + 4 ∧ s.wordPc i + 4 * len ≤ (s.me.leOf l).toNat)) →
      exec i s = .next (
        if count = 0 then s.issued i h .latency (s.taken h) (.goto (BitVec.ofNat 32 (s.wordPc i + 4 + 4 * len)))
        else s.issued i h .latency ((s.taken h).modMe fun c =>
          { c with
            ldepth := c.ldepth + 1
            ls := tblPut c.ls c.ldepth (BitVec.ofNat 32 (s.wordPc i + 4))
            le := tblPut c.le c.ldepth (BitVec.ofNat 32 (s.wordPc i + 4 * len))
            lc := tblPut c.lc c.ldepth (BitVec.ofNat 64 (if shape.isSome then count - 1 else count))
            loopp := match shape with | none => c.loopp | some g => some (c.ldepth, g.1, g.2)
            stg := if shape.isSome then 1 else c.stg
            stopping := if shape.isSome then false else c.stopping }) .seq))) ∧
  (
    ∀ (s : State) (h : Hdr) (p : BitVec 3) (n : BitVec 1),
      (s.Issues (.brkl h p n) h → (s.me.preg p.toNat = decide (n = 1) ∨ s.me.ldepth = 0) →
        exec (.brkl h p n) s = .next (s.issued (.brkl h p n) h .latency (s.taken h) .seq)) ∧
      (∀ l, s.Issues (.brkl h p n) h → s.me.preg p.toNat ≠ decide (n = 1) → s.me.ldepth = l + 1 → s.me.loopp = none →
        exec (.brkl h p n) s = .next (s.issued (.brkl h p n) h .latency
          ((s.taken h).modMe fun c => { c with ldepth := l }) (.goto (s.me.leOf l + 4)))) ∧
      (∀ l g, s.Issues (.brkl h p n) h → s.me.preg p.toNat ≠ decide (n = 1) → s.me.ldepth = l + 1 →
        s.me.loopp = some (l, g) →
        exec (.brkl h p n) s = .next (s.issued (.brkl h p n) h .latency
          ((s.taken h).modMe fun c => { c with lc := tblPut c.lc l 0, stopping := true }) .seq)) ∧
      (s.Issues (.endStream h) h →
        exec (.endStream h) s = .next (s.issued (.endStream h) h .latency (s.taken h) (.ended .ended))) ∧
      (s.Issues (.tail h) h → s.me.dl = [] → (∀ e ∈ s.accs, ¬(e.2.who = s.cur ∧ e.2.loads = true)) →
        (s.cur.clu = .m → s.mxOf s.cur = false) → s.myCore.tracker.length < 8 →
        exec (.tail h) s = .next (s.issued (.tail h) h .latency (s.taken h) (.ended .tailed))))

/-- R100: when the word at LE of the innermost loop, which is no LOOPP, issues in sequence, a counter above 1 goes down
and control goes to LS; otherwise the counter is 0 and the loop ends, and where the next outer loop, no LOOPP either,
ends at this word too its check is made in the same step. R103: the end of a pass of a LOOPP admits an iteration while
the counter is above 0 and the loop is not stopping; the stage bits move up by one; while one is 1 the next pass starts
at LS, and when all are 0 the loop ends, with the check of an outer loop that ends there too. A LOOPP that pre-emption
has stopped drains with its counter unchanged. -/
def Obligations.LoopsComeBack : Prop :=
  (
    ∀ (c : Cluster) (w l : Nat), c.ldepth = l + 1 → (∀ g, c.loopp ≠ some (l, g)) → (c.leOf l).toNat = w →
      let d := c.afterWord 4 w
      (1 < (c.lcOf l).toNat → d.pc = c.lsOf l ∧ d.ldepth = l + 1 ∧ d.lcOf l = c.lcOf l - 1) ∧
      ((c.lcOf l).toNat ≤ 1 →
        d.lcOf l = 0 ∧
        ((∀ m, l = m + 1 → (c.leOf m).toNat ≠ w) → d.pc = BitVec.ofNat 32 (w + 4) ∧ d.ldepth = l) ∧
        (∀ m, l = m + 1 → (c.leOf m).toNat = w → (∀ g, c.loopp ≠ some (m, g)) →
          (1 < (c.lcOf m).toNat → d.pc = c.lsOf m ∧ d.ldepth = l ∧ d.lcOf m = c.lcOf m - 1) ∧
          ((c.lcOf m).toNat ≤ 1 → d.lcOf m = 0 ∧
            ((∀ n, m = n + 1 → (c.leOf n).toNat ≠ w) → d.pc = BitVec.ofNat 32 (w + 4) ∧ d.ldepth = m))))) ∧
  (
    ∀ (c : Cluster) (w l st g : Nat), c.ldepth = l + 1 → c.loopp = some (l, st, g) → 2 ≤ st → st ≤ 8 →
      (c.leOf l).toNat = w →
      let d := c.afterWord 4 w
      let more := c.lcOf l ≠ 0 ∧ c.stopping = false ∧ c.draining = false
      let stg := (2 * c.stg.toNat + if more then 1 else 0) % 2 ^ st
      d.lcOf l = (if more then c.lcOf l - 1 else c.lcOf l) ∧
      (stg ≠ 0 → d.pc = c.lsOf l ∧ d.ldepth = l + 1 ∧ d.stg.toNat = stg ∧ d.loopp = c.loopp) ∧
      (stg = 0 → d.stg = 0 ∧ d.loopp = none ∧
        ((∀ m, l = m + 1 → (c.leOf m).toNat ≠ w) → d.pc = BitVec.ofNat 32 (w + 4) ∧ d.ldepth = l) ∧
        (∀ m, l = m + 1 → (c.leOf m).toNat = w → c.lcOf l = 0 ∨ c.stopping = true → 1 < (c.lcOf m).toNat →
          d.pc = c.lsOf m ∧ d.ldepth = l ∧ d.lcOf m = c.lcOf m - 1) ∧
        (c.lcOf l ≠ 0 → c.stopping = false → d.drained = some (l, st, g))))

/-- R94 to R96, R121 to R124: a POST sets its flag at the end of the cc; an AWAIT whose flag is 1, and that no other
cluster has taken in this cc, goes on and clears it then; POSTG sends one message; BAR arrives once, and goes on once
its phase is complete; a FENCE goes on once what it orders is done. -/
def Obligations.FlagsAndBarriers : Prop :=
  ∀ (s : State) (h : Hdr) (f a : BitVec 5) (n : BitVec 4) (c o : BitVec 2),
    (s.Issues (.post h f) h →
      exec (.post h f) s = .next (s.issued (.post h f) h .latency
        (((s.taken h).hand (.clu s.cur) (.flagIn s.cur.core s.cur.ctx f.toNat)).modMyCtx
          fun x => { x with fsets := x.fsets ++ [(f.toNat, false, s.cur.clu.num)] }) .seq)) ∧
    (s.Issues (.await h f) h → s.myCtx.flag f.toNat = true → f.toNat ∉ s.myCtx.fclears →
      exec (.await h f) s = .next (s.issued (.await h f) h .latency
        ((((s.taken h).hand (.flag s.cur.core s.cur.ctx f.toNat) (.clu s.cur)).modMyCtx
          fun x => { x with fclears := x.fclears ++ [f.toNat] }).traceClu s.cur 4
          (waitData f.toNat (tblGet 0 s.myCtx.setter f.toNat) (if s.me.hadFlag then 0 else s.me.waited))) .seq)) ∧
    (∀ t, s.Issues (.postg h f a) h → s.myTask.cls = 0 → (s.me.sreg a.toNat).toNat < 16 →
      (s.taken h).release s.cur 1 = some t →
      exec (.postg h f a) s = .next (s.issued (.postg h f a) h .latency
        { t.hand (.clu s.cur) (.post t.postgNext) with
          postg := tblPut t.postg t.postgNext
            (16 * dieOf s.cur.core + (s.me.sreg a.toNat).toNat, f.toNat, t.myTask.launch, 16 + s.cur.core % 16)
          postgNext := t.postgNext + 1 } .seq)) ∧
    (∀ t, s.Issues (.bar h n) h → s.myTask.cls = 0 → s.me.barGo = false → s.me.asked = false →
      (s.taken h).release s.cur 1 = some t →
      ∃ u, exec (.bar h n) s = .next u ∧ u.me.asked = true ∧ u.me.wait = some (.barrier n.toNat) ∧
        ((s.die (dieOf s.cur.core)).barCount n.toNat ≤ ((s.die (dieOf s.cur.core)).arrivers n.toNat).length + 1 →
          u.me.barNext = true)) ∧
    (s.Issues (.bar h n) h → s.myTask.cls = 0 → s.me.barGo = true →
      exec (.bar h n) s = .next (s.issued (.bar h n) h .latency (s.taken h) .seq)) ∧
    (∀ t, s.Issues (.fence h c o) h →
      (o.getLsbD 0 = true → s.loadsDone s.cur = true) →
      (o.getLsbD 1 = true → s.cmdsOf s.cur (fun k => k = s.cur.clu) = false ∧
        (s.cur.clu = .m → s.mxOf s.cur = false)) →
      (let u := if o.getLsbD 0 then (s.taken h).acquireReads s.cur c.toNat else s.taken h
        if o.getLsbD 1 then (u.release s.cur c.toNat).map fun v => v.releaseFence s.cur c.toNat else some u) = some t →
      exec (.fence h c o) s = .next (s.issued (.fence h c o) h .latency t .seq))

/-- R96: the check of a barrier, made at every arrival and every change of BCNT, when the arrivals reach the count:
the phase is complete, the barrier has no arrivals left, and every arriver is freed, to issue its BAR from the next cc
on. R95: at the end of a cc the sets that arrived are applied, and then the AWAITs that completed clear their flags.
-/
def Obligations.BarriersOpenAndFlagsChange : Prop :=
  (
    ∀ (s : State) (d b : Nat), (s.die d).arrivers b ≠ [] → (s.die d).barCount b ≤ ((s.die d).arrivers b).length →
      ((s.barrierCheck d b).die d).arrivers b = [] ∧
      ∀ k ∈ (s.die d).arrivers b, ((s.barrierCheck d b).clu k).barNext = true) ∧
  (
    ∀ (x : Ctx) (f : Nat),
      x.flagsEnd.flag f = (!x.fclears.contains f && (x.flag f || x.fsets.any fun e => e.1 = f)) ∧
      x.flagsEnd.fsets = [] ∧ x.flagsEnd.fclears = [])

/-- R125 to R128: RDS gives the special register's value one class-0 latency later; WRS, SETRM, SEED and VIEW change
theirs 1 sc later, when the value is permitted. -/
def Obligations.SpecialRegistersAreReadAndWritten : Prop :=
  ∀ (s : State) (h : Hdr) (d a b : BitVec 5) (r : BitVec 10) (m v : BitVec 2),
    (s.Issues (.rds h d r) h →
      exec (.rds h d r) s = .next (s.gives (.rds h d r) h 0 [.scal d.toNat (s.special (.rds h d r) r.toNat)])) ∧
    (s.Issues (.wrs h d r) h → (s.me.sreg d.toNat).toNat < 2 ^ specialBits r.toNat →
      (0x100 ≤ r.toNat → 1 ≤ (s.me.sreg d.toNat).toNat ∧ (s.me.sreg d.toNat).toNat ≤ 64) →
      exec (.wrs h d r) s = .next (s.issued (.wrs h d r) h .latency
        ((s.taken h).laterN 1 [.spec r.toNat (s.me.sreg d.toNat)]) .seq)) ∧
    (s.Issues (.setrm h m) h →
      exec (.setrm h m) s = .next (s.issued (.setrm h m) h .latency
        ((s.taken h).laterN 1 [.spec 1 (m.zeroExtend 64)]) .seq)) ∧
    (s.Issues (.seed h a b) h → (s.me.sreg b.toNat).toNat < 2 ^ 32 →
      exec (.seed h a b) s = .next (s.issued (.seed h a b) h .latency
        ((s.taken h).laterN 1 [.spec 2 (s.me.sreg a.toNat), .spec 3 (s.me.sreg b.toNat), .spec 4 0]) .seq)) ∧
    (s.Issues (.view h v a b) h →
      let new := (s.me.sreg a.toNat &&& ~~~s.me.sreg b.toNat) ||| (s.myCtx.view v.toNat &&& s.me.sreg b.toNat)
      viewOk v.toNat new s.myTask.snap.frame = true →
      exec (.view h v a b) s = .next (s.issued (.view h v a b) h .latency
        ((s.taken h).laterN 1 [.view v.toNat new]) .seq))

/-- R129, R337: MARK and MARKQ ask the tier engine and stall until it has answered, at the end of the cc (when it
answers is the model's choice, log 21); the answer of a launch without an almanac is yes, with one the answer is
whether every FETCH with that deadline is resident, and the arrival is counted, of a MARK only if it is; then a MARK
goes on, or is SCHEDULE_MISS, and MARKQ gives the answer. R337, R338, R411: an almanac entry that has fired and may
start acts on its tile: FETCH and EVICT move it to its block, EVICT leaves a pinned object where it is, PIN pins, DROP
unpins; and an action whose writes are done is done. That FETCH and EVICT move the whole tile in the one step of their
start, with the accesses in flight going to the new place, is the model's choice (log 39). -/
def Obligations.AlmanacMarkersAndEntries : Prop :=
  (
    ∀ (s : State) (h : Hdr) (n : BitVec 10) (p : BitVec 3),
      (s.Issues (.mark h n) h ∧ s.me.answer = none →
        ∃ t, exec (.mark h n) s = .next t ∧ t.me.wait = some .mark ∧ t.me.asked = true ∧ t.me.pc = s.me.pc) ∧
      (s.Issues (.markq h p n) h ∧ s.me.answer = none →
        ∃ t, exec (.markq h p n) s = .next t ∧ t.me.wait = some .mark ∧ t.me.asked = true ∧ t.me.pc = s.me.pc) ∧
      (∀ v : Word, s.Issues (.mark h n) h → s.me.answer = some v →
        (v.getLsbD 0 = true → exec (.mark h n) s = .next (s.issued (.mark h n) h .latency
          ((s.taken h).traceClu s.cur 5 (markData n.toNat false true)) .seq)) ∧
        (v.getLsbD 0 = false → exec (.mark h n) s = .next (s.precise { code := 0x0B }))) ∧
      (∀ v : Word, s.Issues (.markq h p n) h → s.me.answer = some v →
        exec (.markq h p n) s = .next (s.issued (.markq h p n) h .latency
          (((s.taken h).traceClu s.cur 5 (markData n.toNat true (v.getLsbD 0))).later 0
            [.pred p.toNat (v.getLsbD 0)]) .seq))) ∧
  (
    ∀ (s : State) (k : Who) (h : Hdr) (n : BitVec 10) (p : BitVec 3) (l : Launch) (i : Instr),
      (s.clu k).run = .run → (s.clu k).wait = some .mark → (s.clu k).asked = true → (s.clu k).answer = none →
      s.nextGroup k = .ok i → i = .mark h n ∨ i = .markq h p n →
      (s.launch? (s.taskOf k).launch = none → ((s.answerMark k).clu k).answer = some 1) ∧
      (s.launch? (s.taskOf k).launch = some l → l.hasAlm = false → ((s.answerMark k).clu k).answer = some 1) ∧
      (s.launch? (s.taskOf k).launch = some l → l.hasAlm = true →
        ((s.answerMark k).clu k).answer = some (if l.resident n.toNat then 1 else 0) ∧
        ((s.taskOf k).cls = 0 → l.resident n.toNat = true ∨ i = .markq h p n →
          (s.answerMark k).launch? (s.taskOf k).launch = some (l.arrive n.toNat)) ∧
        (l.resident n.toNat = false → i = .mark h n →
          (s.answerMark k).launch? (s.taskOf k).launch = some l))) ∧
  (
    ∀ (s : State) (n i k : Nat) (l : Launch) (e : AEnt),
      s.launch? n = some l → l.alm[i]? = some e →
      (∀ r, e.st = .fired k → s.entMayStart l e k = true → e.shape = false →
        s.tileAt l.part e.tile (lvOf e.lvFrom) = (r, true) →
        (e.action = 0 → r.blockOk e.dest.toNat e.tile.2 (lvOf e.lvTo) = true →
          exec (.fetch n i) s = .next ((r.moveTile l.part e.tile e.dest.toNat true).setEnt n i (.started none 0))) ∧
        (e.action = 1 → r.blockOk e.dest.toNat e.tile.2 (lvOf e.lvTo) = true →
          exec (.evict n i) s = .next ((if r.isPinned l.part e.object then r
            else r.moveTile l.part e.tile e.dest.toNat true).setEnt n i (.started none 0))) ∧
        (e.action = 2 →
          ∃ t, exec (.pin n i) s = .next t ∧ t.pins = (n, e.object) :: r.pins ∧ t.mem = r.mem) ∧
        (e.action = 3 → e.lvTo = e.lvFrom →
          ∃ t, exec (.drop n i) s = .next t ∧ t.isPinned l.part e.object = false ∧ t.mem = r.mem)) ∧
      (∀ m, e.st = .started none m →
        ∃ t l', exec (.almanacActionFinish n i) s = .next t ∧ t.launch? n = some l' ∧
          l'.alm[i]? = some { e with st := .done }) ∧
      (∀ h m, e.st = .started (some h) m → h.count ≤ m →
        ∃ t l', exec (.almanacActionFinish n i) s = .next t ∧ t.launch? n = some l' ∧
          l'.alm[i]? = some { e with st := .done }))

/-- R130, R385: TRAP takes SOFTWARE_TRAP with its number; BKPT takes BREAKPOINT, or, where firmware has enabled
debugging of the partition, stops the context before the word, all its clusters at the end of that cc (that it does so
when first presented is the model's choice, log 79). -/
def Obligations.TrapsAreTaken : Prop :=
  ∀ (s : State) (h : Hdr) (c : BitVec 10),
    (s.Issues (.trap h c) h → exec (.trap h c) s = .next (s.precise { code := 0x16, trap := c.toNat })) ∧
    (s.Issues (.bkpt h) h → (s.part s.myTask.part).debug = false →
      exec (.bkpt h) s = .next (s.precise { code := 0x15 })) ∧
    (s.Issues (.bkpt h) h → (s.part s.myTask.part).debug = true →
      ∃ t, exec (.bkpt h) s = .next t ∧ t.myCtx.bkpt = true ∧
        ∀ u, (t.clu { s.cur with clu := u }).pc = (s.clu { s.cur with clu := u }).pc) ∧
    (s.myCtx.bkpt = true →
      (s.endCtx s.cur).myCtx.frozen = true ∧
        ∀ u, ((s.endCtx s.cur).clu { s.cur with clu := u }).pc = (s.clu { s.cur with clu := u }).pc ∧
          ((s.endCtx s.cur).clu { s.cur with clu := u }).stop.kind = 5)

/-- R205, R207, R208, R225, R226, R227, R233, R252: a scratchpad load of a row that no other core has open reads the
row and lands it, whole, replicated or converted, in reserved rows of its load queue, in a scalar or in a merge
buffer; the address register is updated. R210: LDL takes the lock bit of its row where nobody holds it, or holds it
already; it opens and checks no row. A load through the die window reads the row as it was before that cc's write by
its own core; R388: to a powered-down core it wakes the core and waits. The model's choices: LDQ, LDB, LDQX, LDS and
LDM through the window wait for the end of their cc and read the row only then (log 22), and a window load may come
late by a free number of cc (log 56). -/
def Obligations.ScratchpadLoadsReadTheirRow : Prop :=
  (
    ∀ (s : State) (h : Hdr) (md : Option ModF) (q : BitVec 2) (a b d : BitVec 5) (c : BitVec 3) (m : BitVec 1)
      (n : Nat) (win : Bool),
      let ad := s.me.areg a.toNat
      let r := (s.taken h).loadedRow ad n win
      s.spmAddr ad = some (n, win) → (((s.taken h).windowWakes n win).loadingRow ad n).rowFree (spmKey n ad.toNat) →
      (win = true → s.me.barGo = true ∧ (s.core n).power ≠ .off) →
      (s.Issues (.ldq h q a b) h → roomRows (s.myCtx.lrows q.toNat) 1 = true →
        exec (.ldq h q a b) s = .next (s.issued (.ldq h q a b) h .latency
          (r.queuesRows q.toNat [r.data] 0 a b) .seq)) ∧
      (s.Issues (.ldb h q a b) h → roomRows (s.myCtx.lrows q.toNat) 8 = true →
        exec (.ldb h q a b) s = .next (s.issued (.ldb h q a b) h .latency
          (r.queuesRows q.toNat (List.replicate 8 r.data) 0 a b) .seq)) ∧
      (s.Issues (.ldqx h md c q a b) h → roomRows (s.myCtx.lrows q.toNat) (loadRows c.toNat) = true →
        let f := (s.fillOf md q.toNat c.toNat [] none).convert r.data
        exec (.ldqx h md c q a b) s = .next (s.issued (.ldqx h md c q a b) h .latency
          ((r.queuesRows q.toNat f.1 f.2 a b).countSr (effCode md 0)) .seq)) ∧
      (s.Issues (.lds h d a b) h →
        exec (.lds h d a b) s = .next (s.issued (.lds h d a b) h .latency
          (r.landsRow [.scal (d.toNat - 16) (BitVec.ofNat 64 (bitsN r.data (64 * (ad.toNat / 8 % 8)) 64))] a b)
          .seq)) ∧
      (s.Issues (.ldm h m a b) h →
        exec (.ldm h m a b) s = .next (s.issued (.ldm h m a b) h .latency
          (r.landsRow [.mbuf m.toNat r.data (2 ^ 512 - 1)] a b) .seq))) ∧
  (
    ∀ (s : State) (h : Hdr) (md : Option ModF) (c : BitVec 3) (d a b : BitVec 5) (q : BitVec 2) (m : BitVec 1) (n : Nat)
      (w : Wait),
      let off : Prop := (s.core n).power = .off
      let waits (i : Instr) : Prop :=
        ∃ t, exec i s = .next t ∧ t.me.wait = some w ∧ t.me.pc = s.me.pc ∧ (off → (t.core n).wake = true)
      s.spmAddr (s.me.areg a.toNat) = some (n, true) → (off ∧ w = .wake ∨ ¬off ∧ s.me.barGo = false ∧ w = .cirEnd) →
      (s.Issues (.ldb h q a b) h → roomRows (s.myCtx.lrows q.toNat) 8 = true → waits (.ldb h q a b)) ∧
      (s.Issues (.ldqx h md c q a b) h → roomRows (s.myCtx.lrows q.toNat) (loadRows c.toNat) = true →
        waits (.ldqx h md c q a b)) ∧
      (s.Issues (.ldq h q a b) h → roomRows (s.myCtx.lrows q.toNat) 1 = true → waits (.ldq h q a b)) ∧
      (s.Issues (.lds h d a b) h → waits (.lds h d a b)) ∧
      (s.Issues (.ldm h m a b) h → waits (.ldm h m a b)) ∧
      (s.Issues (.ldl h q a b) h → off → waits (.ldl h q a b))) ∧
  (
    ∀ (s : State) (h : Hdr) (q : BitVec 2) (a b : BitVec 5) (n : Nat) (win : Bool),
      let ad := s.me.areg a.toNat
      let u := ((s.taken h).windowWakes n win).performUnlocks n ad.toNat
      let r := u.loadedRow ad n win
      let t := r.queuesRows q.toNat [r.data] 0 a b
      s.spmAddr ad = some (n, win) → (win = true → (s.core n).power ≠ .off) → s.Issues (.ldl h q a b) h →
      roomRows (u.myCtx.lrows q.toNat) 1 = true →
      (tblFind (u.core n).locks (lockKey ad.toNat) = none →
        exec (.ldl h q a b) s = .next (s.issued (.ldl h q a b) h .latency
          ((t.hand (.lock n (lockKey ad.toNat)) (.clu s.cur)).modCore n fun c =>
            { c with locks := tblPut c.locks (lockKey ad.toNat) (s.cur.core, s.cur.ctx) }) .seq)) ∧
      (tblFind (u.core n).locks (lockKey ad.toNat) = some (s.cur.core, s.cur.ctx) →
        exec (.ldl h q a b) s = .next (s.issued (.ldl h q a b) h .latency t .seq)))

/-- R205, R208, R225, R226, R227, R253: a scratchpad store whose row is open for no other core stores the 64 bytes of
its store-queue head, of converted rows, or of a merge buffer; its own row is open for the core from then on. A store
through the die window goes out, which classes SIG and DUP forbid (R184), at the end of its cc where it is plain (the
model's choice, log 22); to a powered-down core it wakes the core and waits (R388). R205, R209, R421: a row written
whole holds the 64 bytes given, with fresh check codes: byte j of the row is digit j of the data, every other byte of
every scratchpad and of every memory is as before. No store is in flight. -/
def Obligations.ScratchpadStoresWriteTheirRowOnly : Prop :=
  (
    ∀ (s : State) (h : Hdr) (md : Option ModF) (r q : BitVec 2) (a b : BitVec 5) (c hist : BitVec 3) (m p e : BitVec 1)
      (n : Nat) (win : Bool) (t : State),
      let ad := s.me.areg a.toNat
      let key := spmKey n ad.toNat
      s.spmAddr ad = some (n, win) → (win = true → s.myTask.cls = 0 ∧ (s.core n).power ≠ .off) →
      (∀ data, s.Issues (.stq h q a b) h → (s.taken h).popStore q.toNat 1 = some (t, [data]) →
        (win = true → s.me.barGo = true) → t.storeFree key (2 ^ 64 + key) →
        exec (.stq h q a b) s = .next (s.issued (.stq h q a b) h .latency
          ((t.storesOpenRow n win ad data []).postUpdates a b) .seq)) ∧
      (s.Issues (.stm h m a b) h → (win = true → s.me.barGo = true) → (s.taken h).storeFree key (2 ^ 64 + key) →
        exec (.stm h m a b) s = .next (s.issued (.stm h m a b) h .latency
          (((s.taken h).storesOpenRow n win ad (s.me.mbuf m.toNat) []).postUpdates a b) .seq)) ∧
      (∀ rows, s.Issues (.stqx h md r c q a p e hist) h →
        (s.taken h).popStore q.toNat (storeRows c.toNat) = some (t, rows) →
        (win = true → s.me.barGo = true) → t.storeFree key (2 ^ 64 + key) →
        let v := storeConv c.toNat (rndOf (effCode md r) s.me.rmode) (satOf md)
          (srBits s.me.seed s.me.stream s.me.ctr) rows
        let bins := if e = 1 then
          v.2.map fun x => (hist.toNat, histBin ((storePair c.toNat).2.decode x.1) x.2.clamped) else []
        exec (.stqx h md r c q a p e hist) s = .next (s.issued (.stqx h md r c q a p e hist) h .latency
          ((((t.storesOpenRow n win ad v.1 bins).countSr (effCode md r)).laterN 1
            (cirRes (cirAll v.2))).postUpdates a (p.zeroExtend 5)) .seq)) ∧
      (∀ data v, s.Issues (.stu h q a b) h →
        tblFind (s.core n).locks (lockKey ad.toNat) = some (s.cur.core, s.cur.ctx) →
        (s.taken h).release s.cur 1 = some v → v.popStore q.toNat 1 = some (t, [data]) →
        exec (.stu h q a b) s = .next (s.issued (.stu h q a b) h .latency
          (((t.hand (.clu s.cur) (.lock n (lockKey ad.toNat))).storesRow n win true ad data []).postUpdates a b) .seq))) ∧
  (
    ∀ (s t : State) (h : Hdr) (md : Option ModF) (r q : BitVec 2) (a b : BitVec 5) (c hist : BitVec 3) (m p e : BitVec 1)
      (n : Nat) (rows : List Nat) (w : Wait),
      let off : Prop := (s.core n).power = .off
      let ad := s.me.areg a.toNat
      let waits (i : Instr) : Prop :=
        ∃ t, exec i s = .next t ∧ t.me.wait = some w ∧ t.me.pc = s.me.pc ∧ (off → (t.core n).wake = true)
      s.spmAddr ad = some (n, true) → s.myTask.cls = 0 → (off ∧ w = .wake ∨ ¬off ∧ s.me.barGo = false ∧ w = .cirEnd) →
      (s.Issues (.stq h q a b) h → (s.taken h).popStore q.toNat 1 = some (t, rows) → waits (.stq h q a b)) ∧
      (s.Issues (.stqx h md r c q a p e hist) h → (s.taken h).popStore q.toNat (storeRows c.toNat) = some (t, rows) →
        waits (.stqx h md r c q a p e hist)) ∧
      (s.Issues (.stm h m a b) h → waits (.stm h m a b)) ∧
      (s.Issues (.stu h q a b) h → off → tblFind (s.core n).locks (lockKey ad.toNat) = some (s.cur.core, s.cur.ctx) →
        waits (.stu h q a b))) ∧
  (
    ∀ (s : State) (n : Nat) (a : Word) (data : Nat), s.accs = [] →
      (∀ j, j < 64 → ((s.writesRow n a data).core n).spm.read (a.toNat % 2 ^ 20 / 64 * 64 + j) =
        BitVec.ofNat 8 (data / 256 ^ j)) ∧
      (∀ m x, (m ≠ n ∨ x / 64 ≠ a.toNat % 2 ^ 20 / 64) →
        ((s.writesRow n a data).core m).spm.read x = (s.core m).spm.read x) ∧
      (∀ m x, ((s.writesRow n a data).core m).frame.read x = (s.core m).frame.read x) ∧
      (∀ x, (s.writesRow n a data).mem.read x = s.mem.read x) ∧
      (∀ k, (s.writesRow n a data).clu k = s.clu k))

/-- R252: a plain access of a core to a row is RACE exactly where another core has the row open. -/
def Obligations.RacesAreFound : Prop :=
  ∀ (s : State) (n key : Nat) (store eng : Bool),
    (s.plain n key store eng = none ↔ ∃ o, tblFind s.rows key = some o ∧ o.1 ≠ n) ∧
    (∀ t, s.plain n key true eng = some t → ∃ e, tblFind t.rows key = some (n, e))

/-- R227: RMERGE pushes 64 bytes of the buffer pair from a byte offset. -/
def Obligations.MergePushesAWindowOfTheBuffers : Prop :=
  ∀ (s : State) (h : Hdr) (q : BitVec 2) (a : BitVec 5),
    s.Issues (.rmerge h q a) h → roomRows (s.myCtx.lrows q.toNat) 1 = true →
    let r := (s.taken h).reserveLq s.cur q.toNat 1
    exec (.rmerge h q a) s = .next (s.issued (.rmerge h q a) h .latency
      (r.1.later 11 [.lrow q.toNat (r.2.getD 0 0)
        ((s.me.mbuf 0 + s.me.mbuf 1 * 2 ^ 512) / 2 ^ (8 * ((s.me.xreg a.toNat).toNat % 64)) % 2 ^ 512) 0]) .seq)

/-- R198 to R201, R228: a global word (LDG, LDGX, STG, STGX, PFG) whose address the core's TLB maps completes its
issue in that step, with the system address: its next state is stated, under conditions on the state and operands
alone. A load outside the home stack and the device's own shared array reserves its rows and puts one access in
flight, with the instance's contained entry of the row as it stands at issue (when it is taken is the model's choice,
log 30; R316 says only that loads see the entries merged); a store to a page that may be written, outside the
code, puts its 64 bytes in flight, or, of a protected task outside its renamed tiles, is contained (R184, R316); PFG
only updates its address register, also where no page maps the address (log 59). R200: a word whose page is not in the
TLB asks for a walk and waits. R201, R228: a load or store that no page maps is TRANSLATION; a store to a page that
may not be written, or into the code of the image, is PROTECTION. -/
def Obligations.GlobalWordsStartAccesses : Prop :=
  (
    ∀ (s : State) (h : Hdr) (md : Option ModF) (q : BitVec 2) (a b : BitVec 5) (c : BitVec 3) (e : TlbE),
      let va := s.me.areg a.toNat
      let m := s.leafAddr s.myTask e va.toNat
      let sa := m.1 / 64 * 64
      let row := va.toNat / 64 * 64
      let acc (k : AccKind) : Acc :=
        { who := s.cur, va := va.toNat, sa := sa, kind := k, passed := false, task := s.myTask, sig := 0, live := true,
          sent := false }
      let load (f : Fill) : Acc := { acc (.load f) with iss := s.me.sc }
      let pushes (t : State) : State :=
        if h.sig = 0 then t else t.modMe fun c => { c with sigs := c.sigs ++ [(c.sc, h.sig, c.sc)] }
      let stored (t : State) (data : Nat) : State :=
        (((t.perfCtx 17).afterFences s.cur t.accNext).addAcc (acc (.store data))).signStore s.myTask row 64 data
      va.toNat < 2 ^ 57 → tlbFind s.myCore.tlb s.myTask.part va.toNat = some e →
      ((saLevel sa ≠ 1 ∨ saDev sa ≠ s.devId) → s.isDirect sa = false →
        (s.Issues (.ldg h q a b) h → roomRows (s.myCtx.lrows q.toNat) 1 = true →
          let r := (s.taken h).reserveLq s.cur q.toNat 1
          exec (.ldg h q a b) s = .next (s.issued (.ldg h q a b) h .own
            ((pushes ((r.1.perfCtx 17).addAcc (load (s.fillOf none q.toNat 8 r.2 (s.containedRow sa))))).postUpdates
              a b) .seq)) ∧
        (s.Issues (.ldgx h md c q a b) h → roomRows (s.myCtx.lrows q.toNat) (loadRows c.toNat) = true →
          let r := (s.taken h).reserveLq s.cur q.toNat (loadRows c.toNat)
          exec (.ldgx h md c q a b) s = .next (s.issued (.ldgx h md c q a b) h .own
            (((pushes ((r.1.perfCtx 17).addAcc
              (load (s.fillOf md q.toNat c.toNat r.2 (s.containedRow sa))))).countSr (effCode md 0)).postUpdates
              a b) .seq))) ∧
      (∀ t data, s.Issues (.stg h q a b) h → (s.taken h).popStore q.toNat 1 = some (t, [data]) → m.2 = true →
        s.inCode s.myTask row 64 = false →
        ((saLevel sa ≠ 1 ∨ saDev sa ≠ s.devId) → s.myTask.cls = 0 ∨ s.inRenamed s.myTask row = true →
          exec (.stg h q a b) s = .next (s.issued (.stg h q a b) h .latency ((stored t data).postUpdates a b) .seq)) ∧
        (∀ u, s.myTask.cls ≠ 0 → s.inRenamed s.myTask row = false → t.contain s.myTask sa row fullMask data 0 = .ok u →
          exec (.stg h q a b) s = .next (s.issued (.stg h q a b) h .latency
            ((u.signStore s.myTask row 64 data).postUpdates a b) .seq))) ∧
      (∀ t rows, s.Issues (.stgx h md c q a b) h →
        (s.taken h).popStore q.toNat (storeRows c.toNat) = some (t, rows) → m.2 = true →
        s.inCode s.myTask row 64 = false →
        let v := storeConv c.toNat (rndOf (effCode md 0) s.me.rmode) (satOf md)
          (srBits s.me.seed s.me.stream s.me.ctr) rows
        let ends (t : State) : State := ((t.countSr (effCode md 0)).laterN 1 (cirRes (cirAll v.2))).postUpdates a b
        ((saLevel sa ≠ 1 ∨ saDev sa ≠ s.devId) → s.myTask.cls = 0 ∨ s.inRenamed s.myTask row = true →
          exec (.stgx h md c q a b) s = .next (s.issued (.stgx h md c q a b) h .latency (ends (stored t v.1)) .seq)) ∧
        (∀ u, s.myTask.cls ≠ 0 → s.inRenamed s.myTask row = false → t.contain s.myTask sa row fullMask v.1 0 = .ok u →
          exec (.stgx h md c q a b) s = .next (s.issued (.stgx h md c q a b) h .latency
            (ends (u.signStore s.myTask row 64 v.1)) .seq)))) ∧
  (
    ∀ (s : State) (h : Hdr) (q : BitVec 2) (a b : BitVec 5),
      let va := s.me.areg a.toNat
      let bad := s.myCore.walkBad.contains (s.myTask.part, va.toNat / 65536)
      let leaf := tlbFind s.myCore.tlb s.myTask.part va.toNat
      (s.Issues (.pfg h a b) h → 2 ^ 57 ≤ va.toNat ∨ leaf.isSome = true ∨ bad = true →
        exec (.pfg h a b) s = .next (s.issued (.pfg h a b) h .latency
          (((s.taken h).modMyCore fun c =>
            { c with walkBad := c.walkBad.filter (· ≠ (s.myTask.part, va.toNat / 65536)) }).postUpdates a b) .seq)) ∧
      (s.Issues (.pfg h a b) h → va.toNat < 2 ^ 57 → leaf = none → bad = false →
        ∃ t, exec (.pfg h a b) s = .next t ∧ t.me.wait = some .tlb ∧ t.me.asked = true ∧ t.me.answer = some va) ∧
      (s.Issues (.ldg h q a b) h → roomRows (s.myCtx.lrows q.toNat) 1 = true → va.toNat < 2 ^ 57 → leaf = none →
        bad = false → ∃ t, exec (.ldg h q a b) s = .next t ∧ t.me.wait = some .tlb ∧ t.me.asked = true ∧ t.me.answer = some va) ∧
      (s.Issues (.ldg h q a b) h → roomRows (s.myCtx.lrows q.toNat) 1 = true →
        2 ^ 57 ≤ va.toNat ∨ leaf = none ∧ bad = true →
        exec (.ldg h q a b) s = .next (s.precise { code := 8, addr := va })) ∧
      (∀ e t data, s.Issues (.stg h q a b) h → va.toNat < 2 ^ 57 → leaf = some e →
        (s.taken h).popStore q.toNat 1 = some (t, [data]) →
        ((s.leafAddr s.myTask e va.toNat).2 = false ∨ s.inCode s.myTask (va.toNat / 64 * 64) 64 = true) →
        exec (.stg h q a b) s = .next (s.precise { code := 9, addr := va })))

/-- R229, R238: ATOMG and CASG at a writable address of the device's own memory put one atomic in flight, a releasing
one once earlier stores are performed, and the cluster issues nothing more until the old value returns. -/
def Obligations.AtomicsStartAndBlock : Prop :=
  ∀ (s : State) (h : Hdr) (o x : BitVec 3) (z : BitVec 1) (r c : BitVec 2) (sd : BitVec 4) (e : TlbE) (t : State),
    let va := s.me.areg x.toNat
    let m := s.leafAddr s.myTask e va.toNat
    let n := if z = 1 then 8 else 4
    let start (op : Nat) (new : Word) : State :=
      ((((if r.getLsbD 1 then t.hand (.clu t.cur) (.acc t.accNext c.toNat) else t).afterFences t.cur t.accNext).perfCtx
        17).addAcc
        { who := t.cur, va := va.toNat, sa := m.1,
          kind := .atom op (decide (z = 1)) (s.me.sreg sd.toNat) new sd.toNat,
          passed := false, task := t.myTask, sig := 0, live := true, sent := false,
          acq := if r.getLsbD 0 then some c.toNat else none }).modMe
        fun c => { c with blocked := true }
    s.myTask.cls = 0 → va.toNat < 2 ^ 57 → tlbFind s.myCore.tlb s.myTask.part va.toNat = some e →
    m.2 = true → saDev m.1 = s.devId → s.inCode s.myTask (va.toNat / n * n) n = false →
    s.openElsewhere m.1 = false →
    (if r.getLsbD 1 then (s.taken h).release s.cur c.toNat else some (s.taken h)) = some t →
    (s.Issues (.atomg h o z r c sd x) h →
      exec (.atomg h o z r c sd x) s = .next (s.issued (.atomg h o z r c sd x) h .latency (start o.toNat 0) .seq)) ∧
    (s.Issues (.casg h z r c sd x) h →
      exec (.casg h z r c sd x) s = .next (s.issued (.casg h z r c sd x) h .latency
        (start 7 (s.me.sreg (sd.toNat + 1))) .seq))

/-- R217, R226, R228, R250, R252: LDG and LDGX from the home stack of the die take the direct path: one is served at
once in its own slot occurrence, after the stores of the row that it follows (one of them that cannot be performed yet
leaves it to the next occurrence), else waits for the next free one. LDG and LDGX from the device's own shared array,
of a row that no other core has open, read it, and STG and STGX there, of a task that is not protected or into its
renamed tiles, write it and have it open; a row that another core has open is RACE. The address is mapped. The model's
choices: the window stores and atomics of other cores to a row that are out come before a plain store that opens it
(log 57); shared-array loads read at issue and stores write at once (log 7), and a load takes the contained entry of
its row as it stands at issue (log 30). -/
def Obligations.DirectAndSharedArrayWords : Prop :=
  ∀ (s : State) (h : Hdr) (md : Option ModF) (q : BitVec 2) (a b : BitVec 5) (c : BitVec 3) (e : TlbE),
    let va := s.me.areg a.toNat
    let m := s.leafAddr s.myTask e va.toNat
    let sa := m.1 / 64 * 64
    let row := va.toNat / 64 * 64
    let own := saLevel sa = 1 ∧ saDev sa = s.devId
    let acc (k : AccKind) (sig : BitVec 2) : Acc :=
      { who := s.cur, va := va.toNat, sa := sa, kind := k, passed := false, task := s.myTask, sig := sig, live := true,
        sent := false, iss := s.me.sc }
    let pushes (t : State) : State :=
      if h.sig = 0 then t else t.modMe fun c => { c with sigs := c.sigs ++ [(c.sc, h.sig, c.sc)] }
    let p := bitsN (saOff sa) 6 6
    let now := (s.die (dieOf s.cur.core)).dcc
    let slot := slotStart (s.cur.core % 16) p now s.myCore.used
    let uses (t : State) : State := t.modMyCore fun c =>
      { c with used := (p * 2 ^ 64 + slot.2) :: c.used.filter fun u => now ≤ u % 2 ^ 64 + 64 }
    let load (md : Option ModF) (code n : Nat) : State :=
      let r := (s.taken h).reserveLq s.cur q.toNat n
      let f := s.fillOf md q.toNat code r.2 (s.containedRow sa)
      if s.isDirect sa then
        if slot.1 = now then
          let w := ((uses (r.1.perfMe 15)).addAcc (acc (.direct f slot.1) h.sig)).performOlder s.accNext s.cur.core (sa / 64)
          if w.olderLeft s.accNext s.cur.core (sa / 64) then
            { w with accs := tblPut w.accs s.accNext (acc (.direct f (slot.1 + 64)) h.sig) }
          else w.serveDirect s.accNext (acc (.direct f slot.1) h.sig) f slot.1
        else (uses (r.1.perfMe 16)).addAcc (acc (.direct f slot.1) h.sig)
      else
        let u := ((r.1.perfCtx 17).loadCell s.cur (sa / 64)).sysRead sa s.myTask.tag
        let v := f.serve u.2.1 u.2.2
        pushes (u.1.addAcc (acc (.served q.toNat v.1 v.2 none) 0))
    let free (t : State) : Prop := t.storeFree (shaKey sa) (sa / 64)
    let stored (t : State) (data : Nat) : State :=
      ((((t.opensRow (shaKey sa) (sa / 64)).perfCtx 17).storeCell s.cur (sa / 64)).sysWrite sa fullMask
        data 0 s.myTask.tag).signStore s.myTask row 64 data
    va.toNat < 2 ^ 57 → tlbFind s.myCore.tlb s.myTask.part va.toNat = some e →
    (s.isDirect sa = true ∨ (own ∧ s.rowFree (shaKey sa)) →
      (s.Issues (.ldg h q a b) h → roomRows (s.myCtx.lrows q.toNat) 1 = true →
        exec (.ldg h q a b) s = .next (s.issued (.ldg h q a b) h .own ((load none 8 1).postUpdates a b) .seq)) ∧
      (s.Issues (.ldgx h md c q a b) h → roomRows (s.myCtx.lrows q.toNat) (loadRows c.toNat) = true →
        exec (.ldgx h md c q a b) s = .next (s.issued (.ldgx h md c q a b) h .own
          (((load md c.toNat (loadRows c.toNat)).countSr (effCode md 0)).postUpdates a b) .seq))) ∧
    (own → m.2 = true → s.inCode s.myTask row 64 = false → s.myTask.cls = 0 ∨ s.inRenamed s.myTask row = true →
      (∀ t data, s.Issues (.stg h q a b) h → (s.taken h).popStore q.toNat 1 = some (t, [data]) →
        (free t → exec (.stg h q a b) s = .next (s.issued (.stg h q a b) h .latency
          ((stored t data).postUpdates a b) .seq)) ∧
        (¬free t → exec (.stg h q a b) s = .next (s.precise (s.raceAt (shaKey sa) va)))) ∧
      (∀ t rows, s.Issues (.stgx h md c q a b) h →
        (s.taken h).popStore q.toNat (storeRows c.toNat) = some (t, rows) → free t →
        let v := storeConv c.toNat (rndOf (effCode md 0) s.me.rmode) (satOf md)
          (srBits s.me.seed s.me.stream s.me.ctr) rows
        exec (.stgx h md c q a b) s = .next (s.issued (.stgx h md c q a b) h .latency
          ((((stored t v.1).countSr (effCode md 0)).laterN 1 (cirRes (cirAll v.2))).postUpdates a b) .seq))) ∧
    (own → ¬s.rowFree (shaKey sa) → s.Issues (.ldg h q a b) h → roomRows (s.myCtx.lrows q.toNat) 1 = true →
      exec (.ldg h q a b) s = .next (s.precise (s.raceAt (shaKey sa) va)))

/-- R138 to R147, R153 to R161: an element-wise word whose types its rule takes, whose groups are in order, whose queue
sources are filled and whose queue destination has room, computes every element that the mask leaves on from its
sources, once rounded or saturated, and lands its destination group at its class's latency with its CIR bits. R139 to
R141: where the sources' types differ or are no types of the word's rule, or a group is out of order, an element-wise
word raises VIEW_RANGE. The model's choices: the values of FEXP2, FLOG2, FTANH, FSIGM, FSIN and FCOS (log 11), and the
sign of a zero that FMUL or FDIV gives and of the root of a zero (log 17). -/
def Obligations.ElementWordsComputeEveryElement : Prop :=
  (
    ∀ (s : State) (i : Instr) (h : Hdr) (md : Option ModF) (d : BitVec 5) (v : VSpec) (ts td : Fmt) (t : State)
      (gs : List (List Nat)),
      s.Issues i h → elementWord i = some (md, d, v) →
      s.myCtx.srcFmt (v.srcs.map vop) = some ts → s.myCtx.dstFmt (vop d) v.qdst ts = some td → v.ok ts td = true →
      (∀ g ∈ v.groups d ts td, groupOk g.1 g.2 = true) → groupOk (vop d) (elemCount ts td / td.lanes) = true →
      s.dstRoom (vop d) (elemCount ts td / td.lanes) = true → (s.taken h).sources (v.groups d ts td) = some (t, gs) →
      exec i s = .next (s.issued i h .latency
        (t.landsGroup v.cls d td (elemCount ts td / td.lanes) (effCode md v.code) (s.elements v md ts td gs)) .seq)) ∧
  (
    ∀ (s : State) (i : Instr) (h : Hdr) (md : Option ModF) (d : BitVec 5) (v : VSpec),
      s.Issues i h → elementWord i = some (md, d, v) →
      (s.myCtx.srcFmt (v.srcs.map vop) = none ∨
        ∃ ts td, s.myCtx.srcFmt (v.srcs.map vop) = some ts ∧ s.myCtx.dstFmt (vop d) v.qdst ts = some td ∧
          (v.ok ts td = false ∨ groupOk (vop d) (elemCount ts td / td.lanes) = false)) →
      exec i s = .next (s.precise { code := 6 }))

/-- R143, R157, R162: a compare word sets the bits of its mask for the elements left on, and keeps or clears the
others. -/
def Obligations.CompareWordsSetTheirMask : Prop :=
  ∀ (s : State) (i : Instr) (h : Hdr) (w : CompareWord) (ts : Fmt) (t : State) (ga gb : List Nat),
    s.Issues i h → compareWord i = some w → s.myCtx.srcFmt [vop w.a, vop w.b] = some ts → w.ok ts = true →
    (s.taken h).sources [(vop w.a, 1), (vop w.b, 1)] = some (t, [ga, gb]) →
    exec i s = .next (s.issued i h .latency (t.later w.cls [s.maskResult w ts ga gb]) .seq)

/-- R161, R163 to R165: moves, broadcasts, permutes, selects, dot products and element moves of one register or queue
entry: every element under the mask is the one the rule names. -/
def Obligations.MovesAndPermutes : Prop :=
  ∀ (s : State) (h : Hdr) (x : Option ImmF) (md : Option ModF) (d a b : BitVec 5) (m : BitVec 10) (ts td tb : Fmt)
    (t : State) (ga gb gd : List Nat),
    let on := s.maskOf md
    let z := zeroOf md
    let plain (n : Nat) (f : Nat → Nat) := maskedElems on z n fun j => (f j, NumFlags.none)
    let one (g : List Nat) : Nat := g.getD 0 0
    s.dstRoom (vop d) 1 = true →
    (s.Issues (.vmov h md d a) h → s.myCtx.srcFmt [vop a] = some ts → s.myCtx.dstFmt (vop d) .source ts = some td →
      (s.taken h).sources [(vop a, 1)] = some (t, [ga]) →
      exec (.vmov h md d a) s = .next (s.issued (.vmov h md d a) h .latency
        (t.landsGroup 3 d td 1 0 (plain td.lanes fun j => elemOf td.width (one ga) j)) .seq)) ∧
    (s.Issues (.vbcast h md d a) h → s.myCtx.freeDst (vop d) = some td →
      exec (.vbcast h md d a) s = .next (s.issued (.vbcast h md d a) h .latency
        ((s.taken h).landsGroup 8 d td 1 0 (plain td.lanes fun _ => (s.me.sreg a.toNat).toNat % 2 ^ td.width)) .seq)) ∧
    (s.Issues (.vli h x md d m) h → s.myCtx.freeDst (vop d) = some td →
      exec (.vli h x md d m) s = .next (s.issued (.vli h x md d m) h .latency
        ((s.taken h).landsGroup 3 d td 1 0
          (plain td.lanes fun _ => (BitVec.ofInt 64 (extImm x 10 m.toNat)).toNat % 2 ^ td.width)) .seq)) ∧
    (s.Issues (.vperm h md d a b) h →
      s.myCtx.srcFmt (match vop a with | .reg _ => [vop a] | .que _ => [vop a, vop b]) = some ts →
      s.myCtx.dstFmt (vop d) .source ts = some ts →
      (match vop b with | .reg n => s.myCtx.winFmt (winOf n) | .que _ => some ts) = some tb → tb.isInt = true →
      let wb := if tb.lanes < ts.lanes then ts.lanes / tb.lanes else 1
      groupOk (vop b) wb = true → (s.taken h).sources [(vop a, 1), (vop b, wb)] = some (t, [ga, gb]) →
      exec (.vperm h md d a b) s = .next (s.issued (.vperm h md d a b) h .latency
        (t.landsGroup 8 d ts 1 0 (plain ts.lanes fun j =>
          elemOf ts.width (one ga) (groupElem tb gb j % ts.lanes))) .seq)) ∧
    (s.myCtx.srcFmt [vop a, vop b] = some ts → s.myCtx.dstFmt (vop d) .source ts = some ts →
      (s.taken h).sources [(vop a, 1), (vop b, 1)] = some (t, [ga, gb]) →
      (s.Issues (.vshuf h md d a b) h →
        exec (.vshuf h md d a b) s = .next (s.issued (.vshuf h md d a b) h .latency
          (t.landsGroup 8 d ts 1 0 (plain ts.lanes fun j =>
            elemOf ts.width (if j % 2 = 0 then one ga else one gb) (j / 2))) .seq)) ∧
      (s.Issues (.vsel h md d a b) h →
        exec (.vsel h md d a b) s = .next (s.issued (.vsel h md d a b) h .latency
          (t.landsGroup 3 d ts 1 0 ((List.range ts.lanes).map fun j =>
            some (elemOf ts.width (if on j then one ga else one gb) j), 0)) .seq))) ∧
    (s.Issues (.vext h md d a b) h → s.myCtx.srcFmt [vop a] = some ts → (s.taken h).source (vop a) 1 = some (t, ga) →
      let w := elemOf ts.width (one ga) ((s.me.sreg b.toNat).toNat % ts.lanes)
      exec (.vext h md d a b) s = .next (s.issued (.vext h md d a b) h .latency
        (t.later 8 [.scal d.toNat (match ts with
          | .int true n => BitVec.ofInt 64 (sextN w n) | _ => BitVec.ofNat 64 w)]) .seq)) ∧
    (s.Issues (.vins h md d a b) h → s.myCtx.freeDst (vop d) = some td →
      exec (.vins h md d a b) s = .next (s.issued (.vins h md d a b) h .latency
        ((s.taken h).landsGroup 8 d td 1 0 ((List.range td.lanes).map fun j =>
          if j = (s.me.sreg b.toNat).toNat % td.lanes then some ((s.me.sreg a.toNat).toNat % 2 ^ td.width) else none, 0))
        .seq)) ∧
    (s.Issues (.idot4 h md d a b) h → s.myCtx.srcFmt [vop a, vop b] = some ts →
      s.myCtx.dstFmt (vop d) .source ts = some td → ts.isInt = true → ts.width = 8 → td.isInt = true → td.width = 32 →
      (s.taken h).sources [(vop a, 1), (vop b, 1), (vop d, 1)] = some (t, [ga, gb, gd]) →
      exec (.idot4 h md d a b) s = .next (s.issued (.idot4 h md d a b) h .latency
        (t.landsGroup 3 d td 1 0 (maskedElems on z 128 fun j =>
          dot4 ts td (elemsOf 8 4 (one ga / 2 ^ (32 * j))) (elemsOf 8 4 (one gb / 2 ^ (32 * j)))
            (elemOf 32 (one gd) j))) .seq))

/-- R166 to R168: a reduction leaves the total, the largest or the least of the elements left on in element 0 and zeros
elsewhere; tile sums sum each row or column; VTRANS transposes a square tile. -/
def Obligations.ReductionsAndTileWords : Prop :=
  ∀ (s : State) (h : Hdr) (md : Option ModF) (d a : BitVec 5) (ts td : Fmt) (t : State) (ga : List Nat),
    let env := s.vEnv ts td md 0
    let tile := s.myCtx.view 2
    let red (op : Nat) : List (Option Nat) × Nat :=
      let xs := (((elemsOf ts.width ts.lanes (ga.getD 0 0)).zipIdx.filter fun e => s.maskOf md e.2).map Prod.fst)
      let r := roundTo td env.rm (env.sr 0) false (reduceVal op ts td env.rm xs)
      (some r.1 :: List.replicate (td.lanes - 1) (some 0), cirOf r.2)
    let sums (lines : Nat) (line : Nat → List Nat) : List (Option Nat) × Nat :=
      maskedElems (s.maskOf md) (zeroOf md) td.lanes fun i =>
        if lines ≤ i then (0, NumFlags.none)
        else roundTo td env.rm (env.sr i) false (exactTotal env.rm ((line i).map ts.decode))
    (s.dstRoom (vop d) 1 = true → s.myCtx.srcFmt [vop a] = some ts → s.myCtx.dstFmt (vop d) .vw1 ts = some td →
      ts.isFloat = td.isFloat → (s.taken h).sources [(vop a, 1)] = some (t, [ga]) →
      (s.Issues (.vrsum h md d a) h →
        exec (.vrsum h md d a) s = .next (s.issued (.vrsum h md d a) h .latency
          (t.landsGroup 7 d td 1 (effCode md 0) (red 0)) .seq)) ∧
      (s.Issues (.vrmax h md d a) h →
        exec (.vrmax h md d a) s = .next (s.issued (.vrmax h md d a) h .latency
          (t.landsGroup 7 d td 1 (effCode md 0) (red 1)) .seq)) ∧
      (s.Issues (.vrmin h md d a) h →
        exec (.vrmin h md d a) s = .next (s.issued (.vrmin h md d a) h .latency
          (t.landsGroup 7 d td 1 (effCode md 0) (red 2)) .seq))) ∧
    (s.dstRoom (vop d) 1 = true → typeFmt (tvType tile) = some ts → s.myCtx.dstFmt (vop d) .vw1 ts = some td →
      ts.isFloat = td.isFloat →
      (s.Issues (.vrowsum h md d) h → tvRows tile ≤ td.lanes →
        exec (.vrowsum h md d) s = .next (s.issued (.vrowsum h md d) h .latency
          ((s.taken h).landsGroup 7 d td 1 (effCode md 0) (sums (tvRows tile) fun i =>
            elemsOf ts.width (tvCols tile) ((s.tileRows tile ts.width).getD i 0))) .seq)) ∧
      (s.Issues (.vcolsum h md d) h → tvCols tile ≤ td.lanes →
        exec (.vcolsum h md d) s = .next (s.issued (.vcolsum h md d) h .latency
          ((s.taken h).landsGroup 7 d td 1 (effCode md 0) (sums (tvCols tile) fun i =>
            (s.tileRows tile ts.width).map fun r => elemOf ts.width r i)) .seq))) ∧
    (s.Issues (.vtrans h md) h → typeFmt (tvType tile) = some ts → tvRows tile = tvCols tile →
      exec (.vtrans h md) s = .next (s.issued (.vtrans h md) h .latency
        ((s.taken h).later 8 ((List.range (tvCols tile)).map fun i =>
          .frame (tvBase tile + i * tvPitch tile) (ceilDiv (tvCols tile * ts.width) 8)
            (packElems ts.width ((s.tileRows tile ts.width).map fun r => elemOf ts.width r i))
            (2 ^ (tvCols tile * ts.width) - 1))) .seq))

/-- R137, R170, R171: VWIN sets a window that fits the frame; COMMIT copies the oldest landing slot of its token into
the frame and frees the slot, once its transfer has landed (with the completion of its copy, which is the model's
choice, log 84), and acquires what happens before it. -/
def Obligations.WindowsAndLandingSlots : Prop :=
  ∀ (s : State) (h : Hdr) (t : BitVec 4) (x : BitVec 1) (b : BitVec 7) (k : BitVec 5) (i : Nat) (l : Land),
    (s.Issues (.vwin h t x b) h → viewOk x.toNat (BitVec.ofNat 64 (t.toNat * 128 + b.toNat)) s.myTask.snap.frame = true →
      exec (.vwin h t x b) s = .next (s.issued (.vwin h t x b) h .latency
        ((s.taken h).laterN 1 [.view x.toNat (BitVec.ofNat 64 (t.toNat * 128 + b.toNat))]) .seq)) ∧
    (s.Issues (.commit h k) h → s.myCore.landOf s.cur.ctx k.toNat = some (i, l) → l.done = true → l.stat = 0 →
      l.off.toNat + l.len ≤ s.myTask.snap.frame →
      exec (.commit h k) s = .next (s.issued (.commit h k) h .latency
        ((((s.taken h).modMyCore fun c => { c with land := tblErase c.land i }).teach l.past (.clu s.cur)).laterN 1
          (.frame l.off.toNat l.len l.data (2 ^ (8 * l.len) - 1) :: cirRes (if l.poison = 0 then 0 else 1))) .seq))

/-- R270, R277 to R284: a matrix word whose checks pass pops its format word and pushes one command with the views,
rounding state and sequence number of issue; MZERO and MDRAIN pop nothing; MCKRD reads the checksum once the context
has no command left and none that faulted (a free value where the spec states none, log 60), with the CIR bits of its
rounding, and raises VIEW_RANGE where its accumulator lies outside the frame (before it waits, and for 4,096 bytes:
the model's choice, log 82); FMTPUSH joins two scalars into a word that enters the queue at the end of the cc. Table
9.5: the checks of MMA at issue, in order: no format word is FORMAT_UNDERFLOW; a word its rule refuses is
ILLEGAL_WORD; an accumulator outside the frame is VIEW_RANGE; addresses against the bank rule are BANK_RULE. -/
def Obligations.MatrixWordsPushCommands : Prop :=
  (
    ∀ (s : State) (h : Hdr) (c : BitVec 3) (t u : BitVec 4) (e f r : BitVec 1) (a b : BitVec 5) (w : Word)
      (rest : List Word),
      let ta := s.me.sreg t.toNat
      let tb := s.me.sreg u.toNat
      let pushed (i : Instr) (tb : Word) : State :=
        ((s.taken h).pushMx i ta tb w).modMyCtx fun x => { x with fmtq := rest, popped := x.popped + 1 }
      (s.Issues (.mma h c t u e f r) h →
        s.mxReady c.toNat w rest (fwMma w false (r = 1) (e = 1) (f = 1)) (mmaAddrOk w ta tb) →
        exec (.mma h c t u e f r) s = .next (s.issued (.mma h c t u e f r) h .own
          ((pushed (.mma h c t u e f r) tb).countSr (fwRm w)) .seq)) ∧
      (s.Issues (.mmas h c t u f r) h →
        s.mxReady c.toNat w rest (fwMma w true (r = 1) false (f = 1)) (mmaAddrOk w ta tb) →
        exec (.mmas h c t u f r) s = .next (s.issued (.mmas h c t u f r) h .own
          ((pushed (.mmas h c t u f r) tb).countSr (fwRm w)) .seq)) ∧
      (s.Issues (.mldacc h c t r) h →
        s.mxReady c.toNat w rest (fwLoad w (r = 1)) (accAddrOk ta (accLen (fwC w = 2))) →
        exec (.mldacc h c t r) s = .next (s.issued (.mldacc h c t r) h .own (pushed (.mldacc h c t r) 0) .seq)) ∧
      (s.Issues (.mstacc h c t) h →
        s.mxReady c.toNat w rest (fwStore w) (accAddrOk ta (128 * mxWidth (fwA w))) →
        exec (.mstacc h c t) s = .next (s.issued (.mstacc h c t) h .own
          ((pushed (.mstacc h c t) 0).countSr (fwRm w)) .seq)) ∧
      (s.Issues (.mzero h c) h → s.myCore.mxq.length < 8 →
        accOff (s.myCtx.view 3) c.toNat false + 4096 ≤ s.myTask.snap.frame →
        exec (.mzero h c) s = .next (s.issued (.mzero h c) h .own ((s.taken h).pushMx (.mzero h c) 0 0 0) .seq)) ∧
      (s.Issues (.mdrain h) h → s.myCore.mxq.length < 8 →
        exec (.mdrain h) s = .next (s.issued (.mdrain h) h .own ((s.taken h).pushMx (.mdrain h) 0 0 0) .seq)) ∧
      (s.Issues (.mckrd h c t) h → accOff (s.myCtx.view 3) c.toNat false + 4096 ≤ s.myTask.snap.frame →
        s.mxOf s.cur = false → s.myCtx.mxBad = false →
        exec (.mckrd h c t) s = .next (s.issued (.mckrd h c t) h .latency
          (({ s.taken h with free := s.free + 1 } : State).laterN 1
            (.scal t.toNat ((s.myCtx.cksOf c.toNat).readout s.free) :: cirRes (s.myCtx.cksOf c.toNat).readCir)) .seq)) ∧
      (s.Issues (.mckrd h c t) h → s.myTask.snap.frame < accOff (s.myCtx.view 3) c.toNat false + 4096 →
        exec (.mckrd h c t) s = .next (s.precise { code := 6 })) ∧
      (s.Issues (.fmtpush h a b) h → s.myCtx.fmtq.length + s.myCtx.fmtIn.length < 16 →
        exec (.fmtpush h a b) s = .next (s.issued (.fmtpush h a b) h .latency
          ((s.taken h).modMyCtx fun x => { x with fmtIn := x.fmtIn ++
            [BitVec.ofNat 64 ((s.me.sreg b.toNat).toNat % 2 ^ 32 * 2 ^ 32 + (s.me.sreg a.toNat).toNat % 2 ^ 32)] }) .seq))) ∧
  (
    ∀ (s : State) (h : Hdr) (c : BitVec 3) (t u : BitVec 4) (e f r : BitVec 1) (w : Word) (rest : List Word),
      s.Issues (.mma h c t u e f r) h → s.myCore.mxq.length < 8 →
      let fmt := fwMma w false (r = 1) (e = 1) (f = 1) && !(fwC w = 2 && c.toNat % 2 = 1)
      let room : Bool := accOff (s.myCtx.view 3) c.toNat (fwC w = 2) + accLen (fwC w = 2) ≤ s.myTask.snap.frame
      (s.myCtx.fmtq = [] → exec (.mma h c t u e f r) s = .next (s.precise { code := 5 })) ∧
      (s.myCtx.fmtq = w :: rest → fmt = false → exec (.mma h c t u e f r) s = .next (s.precise { code := 1 })) ∧
      (s.myCtx.fmtq = w :: rest → fmt = true → room = false →
        exec (.mma h c t u e f r) s = .next (s.precise { code := 6 })) ∧
      (s.myCtx.fmtq = w :: rest → fmt = true → room = true →
        mmaAddrOk w (s.me.sreg t.toNat) (s.me.sreg u.toNat) = false →
        exec (.mma h c t u e f r) s = .next (s.precise { code := 4 })))

/-- R287, R300, R308 to R315, R340 to R343: a word of an engine queue with room records its command with the scalars,
rounding mode and task of issue; its SIG push waits for the completion. CPY and CPYL raise their token's PEND. A value
or a class that the rule refuses raises ILLEGAL_WORD or PROTECTION instead. R301, R302, R311: CPYW goes on, and CPYQ
gives 1, once the token's copies have completed without error; CPYQ gives 0 while one is pending; a failed one is a
fault with its status, address and element. ERES gives the oldest result of its queue and removes it, or is a fault
with its status. Where a word is refused for its class and for a value too, PROTECTION comes first, which is the model's
choice (log 81). -/
def Obligations.EngineWordsPushCommands : Prop :=
  (
    ∀ (s : State) (i : Instr) (h : Hdr) (t a b : BitVec 5),
      (∀ q d x y z, s.Issues i h → s.enCommand i = some (q, d, x, y, z) → s.enRefusal i = none →
        s.myCore.enFull q = false →
        exec i s = .next (s.issued i h .own ((s.taken h).pushEn q i d x y z) .seq)) ∧
      (∀ q v code, s.Issues i h → s.enCommand i = some (q, v) → s.enRefusal i = some code →
        exec i s = .next (s.precise { code := code })) ∧
      (s.Issues (.cpy h t a b) h → (s.myCtx.ctok t.toNat).pend < 15 → s.myCore.cpq.length < 32 →
        exec (.cpy h t a b) s = .next (s.issued (.cpy h t a b) h .own
          (((s.taken h).pushEn .copy (.cpy h t a b) 0 (s.me.sreg a.toNat) (s.me.sreg b.toNat) 0).modMyCtx
            fun x => x.pendUp t.toNat) .seq)) ∧
      (s.Issues (.cpyl h t a b) h → (s.myCtx.ctok t.toNat).pend < 15 → s.myCore.cpq.length < 32 →
        exec (.cpyl h t a b) s = .next (s.issued (.cpyl h t a b) h .own
          (((s.taken h).pushEn .copy (.cpyl h t a b) 0 (s.me.sreg a.toNat) (s.me.sreg b.toNat) 0).modMyCtx
            fun x => x.pendUp t.toNat) .seq))) ∧
  (
    ∀ (s : State) (h : Hdr) (p : BitVec 3) (t d : BitVec 5) (f : BitVec 2) (e : FElem) (rest : List FElem),
      let k := s.myCtx.ctok t.toNat
      let bad : FaultInfo := { code := k.stat, addr := k.addr, fidx := k.fidx, eng := k.eng }
      (s.Issues (.cpyw h t) h → k.pend = 0 → k.stat = 0 →
        exec (.cpyw h t) s = .next (s.issued (.cpyw h t) h .latency ((s.taken h).sawCopies t.toNat) .seq)) ∧
      (s.Issues (.cpyw h t) h → k.pend = 0 → k.stat ≠ 0 → exec (.cpyw h t) s = .next (s.precise bad)) ∧
      (s.Issues (.cpyq h p t) h → k.pend ≠ 0 →
        exec (.cpyq h p t) s = .next (s.gives (.cpyq h p t) h 0 [.pred p.toNat false])) ∧
      (s.Issues (.cpyq h p t) h → k.pend = 0 → k.stat = 0 →
        exec (.cpyq h p t) s = .next (s.issued (.cpyq h p t) h .latency
          (((s.taken h).sawCopies t.toNat).later 0 [.pred p.toNat true]) .seq)) ∧
      (s.Issues (.cpyq h p t) h → k.pend = 0 → k.stat ≠ 0 → exec (.cpyq h p t) s = .next (s.precise bad)) ∧
      (s.Issues (.eres h d f) h → f = 0 → s.myCtx.remF = e :: rest → e.stat = 0 →
        exec (.eres h d f) s = .next (s.issued (.eres h d f) h .latency
          ((((s.taken h).modMyCtx fun x => { x with remF := rest }).teach e.past (.clu s.cur)).later 0
            [.scal d.toNat e.v]) .seq)) ∧
      (s.Issues (.eres h d f) h → (f = 0 ∧ s.myCtx.remF = e :: rest) ∨ (f ≠ 0 ∧ s.myCtx.colF = e :: rest) → e.stat ≠ 0 →
        exec (.eres h d f) s = .next (s.precise { code := e.stat, addr := e.addr, eng := e.eng })) ∧
      (s.Issues (.eres h d f) h → f = 1 → s.myCtx.colF = e :: rest → e.stat = 0 →
        exec (.eres h d f) s = .next (s.issued (.eres h d f) h .latency
          ((((s.taken h).modMyCtx fun x => { x with colF := rest }).teach e.past (.clu s.cur)).later 0
            [.scal d.toNat e.v]) .seq)))

/-- R174 to R178, R187 to R194: SIGFOLD folds its scalar in C, 64 values in V; CSACC adds its terms; CSCHK empties an
accumulator that agrees with the reference, and is CHECK_FAIL for one that does not; CHKERR, at the end of its cc,
keeps only what was set in that cc, and is POISON where CIR says so; PROVRD reads a provenance word or CIR. -/
def Obligations.CheckWords : Prop :=
  ∀ (s : State) (h : Hdr) (n : BitVec 2) (m : BitVec 3) (a b d : BitVec 5) (t : State) (g : List Nat) (ft : Fmt),
    (s.Issues (.sigfold h n a) h → s.cur.clu ≠ .v →
      exec (.sigfold h n a) s = .next (s.gives (.sigfold h n a) h 0
        [.sig n.toNat (some [(s.me.sreg a.toNat).toNat])])) ∧
    (s.Issues (.sigfold h n a) h → s.cur.clu = .v → (s.taken h).source (vop a) 1 = some (t, g) →
      exec (.sigfold h n a) s = .next (s.issued (.sigfold h n a) h .latency
        (t.later 0 [.sig n.toNat (some (elemsOf 64 64 (g.getD 0 0)))]) .seq)) ∧
    (s.Issues (.csacc h m a) h → s.cur.clu ≠ .v → (s.me.invOf m.toNat).n < 2 ^ 56 - 1 →
      exec (.csacc h m a) s = .next (s.gives (.csacc h m a) h 0
        [.inv m.toNat (some (Inv.empty.addTerm false ((Fmt.int true 64).decode ((s.me.sreg a.toNat).toNat % 2 ^ 64))))])) ∧
    (s.Issues (.csacc h m a) h → s.cur.clu = .v → s.myCtx.srcFmt [vop a] = some ft →
      (s.me.invOf m.toNat).n + ft.lanes ≤ 2 ^ 56 - 1 → (s.taken h).source (vop a) 1 = some (t, g) →
      exec (.csacc h m a) s = .next (s.issued (.csacc h m a) h .latency
        (t.later 0 [.inv m.toNat (some (((elemsOf ft.width ft.lanes (g.getD 0 0)).map ft.decode).foldl
          (Inv.addTerm ft.isFloat) Inv.empty))]) .seq)) ∧
    (s.Issues (.cschk h m a) h → (s.me.invOf m.toNat).check (s.me.sreg a.toNat) = true →
      exec (.cschk h m a) s = .next (s.gives (.cschk h m a) h 0 [.inv m.toNat none])) ∧
    (s.Issues (.cschk h m a) h → (s.me.invOf m.toNat).check (s.me.sreg a.toNat) = false →
      exec (.cschk h m a) s = .next (s.precise { code := 0x0C })) ∧
    (s.Issues (.chkerr h) h → s.me.dl = [] → s.me.barGo = false →
      ∃ u, exec (.chkerr h) s = .next u ∧ u.me.wait = some .cirEnd ∧ u.me.pc = s.me.pc) ∧
    (s.Issues (.chkerr h) h → s.me.dl = [] → s.me.barGo = true → s.myCtx.cir % 2 = 0 →
      exec (.chkerr h) s = .next (s.issued (.chkerr h) h .latency
        ((s.taken h).modMyCtx fun x => { x with cir := x.cirNew }) .seq)) ∧
    (s.Issues (.chkerr h) h → s.me.dl = [] → s.me.barGo = true → s.myCtx.cir % 2 = 1 →
      exec (.chkerr h) s = .next (s.precise { code := 0x0D })) ∧
    (s.Issues (.provrd h d n b) h → (s.me.sreg b.toNat).toNat < 4 →
      exec (.provrd h d n b) s = .next (s.gives (.provrd h d n b) h 0
        [.scal d.toNat ((s.myCtx.provOf n.toNat).getD (s.me.sreg b.toNat).toNat 0)])) ∧
    (s.Issues (.provrd h d n b) h → (s.me.sreg b.toNat).toNat = 4 →
      exec (.provrd h d n b) s = .next (s.gives (.provrd h d n b) h 0 [.scal d.toNat (BitVec.ofNat 64 s.myCtx.cir)]))

/-- R66, R71, R389: a word that its cluster does not accept raises ILLEGAL_UNIT, one with a value that no rule permits
ILLEGAL_WORD, and an SY word outside a system context PRIVILEGE, in this order; the word has no other effect. The
cluster runs, has no push held and no atomic out, and no word of the group lies in a stage that is off. The model's
choices: the word behind a prefix at the end of a loop body or stage group is still checked for the first two (log 54;
R72 does not look ahead), and these faults wait for no token and no SYNC group (log 89). -/
def Obligations.WordsAreCheckedBeforeTheyIssue : Prop :=
  ∀ (s : State) (i : Instr) (h : Hdr), i.hdr? = some h → s.me.run = .run → s.me.noIssue = none →
    s.me.idleGroup (leadOf i) (s.wordPc i) = false → s.me.idlePrefix (leadOf i) = none →
    (unitOk s.cur.clu i = false → exec i s = .next (s.precise { code := 2 })) ∧
    (unitOk s.cur.clu i = true → reservedOk i = false → exec i s = .next (s.precise { code := 1 })) ∧
    (unitOk s.cur.clu i = true → reservedOk i = true → s.me.prefixAtEnd (leadOf i) = false → i.unit? = some .sy →
      s.myTask.snap.sys = false → exec i s = .next (s.precise { code := 3 }))

/-- R389, R391, R393 to R395: STOPRD gives a word of the unit's stop record; WAKE sends its message; RETIRE and SPARE
give 0 when done, 1 for no such unit and 2 for one that cannot; ERRINJ flips bits of one word or line. The status
lands 1 sc after issue. That SPARE's B names a physical unit and that what a unit holds stays with its logical number
are the model's choices (log 14). -/
def Obligations.SystemWordsThatActAtOnce : Prop :=
  ∀ (s : State) (h : Hdr) (d a b : BitVec 5),
    let va := s.me.sreg a.toNat
    let vb := s.me.sreg b.toNat
    let u := unitDesc va
    let tells (t : State) (v : Nat) : State := t.laterN 1 [.scal d.toNat (BitVec.ofNat 64 v)]
    (s.Issues (.stoprd h d a b) h → va.toNat < 2 ^ 13 → vb.toNat < 8 →
      exec (.stoprd h d a b) s = .next (s.issued (.stoprd h d a b) h .latency
        (tells (s.taken h) ((s.stopRec va).word vb.toNat)) .seq)) ∧
    (s.Issues (.wake h a) h → va.toNat < 2 ^ 8 →
      exec (.wake h a) s = .next (s.issued (.wake h a) h .latency ((s.taken h).wakeCore (selCore va)) .seq)) ∧
    (s.Issues (.retire h d a) h → u.ok va false = true → u.type = 2 → s.backs u u.minor = false →
      exec (.retire h d a) s = .next (s.issued (.retire h d a) h .latency
        (tells { s.taken h with retired := (2, u.phys) :: s.retired.filter (· ≠ (2, u.phys)) } 0) .seq)) ∧
    (s.Issues (.retire h d a) h → u.ok va false = true → u.type = 2 → s.backs u u.minor = true →
      exec (.retire h d a) s = .next (s.issued (.retire h d a) h .latency (tells (s.taken h) 2) .seq)) ∧
    (∀ n g, s.Issues (.spare h d a b) h → u.ok va true = true → u.type = 2 → s.spareUnit u vb.toNat = some (n, g) →
      s.backs u n = false → (2, g) ∉ s.retired →
      let key := 2 * 2 ^ 40 + 64 * u.major + u.minor
      exec (.spare h d a b) s = .next (s.issued (.spare h d a b) h .latency
        (tells { s.taken h with spare := if n = u.minor then tblErase s.spare key else tblPut s.spare key n } 0) .seq)) ∧
    (s.Issues (.spare h d a b) h → u.ok va true = true → u.type = 2 → s.spareUnit u vb.toNat = none →
      exec (.spare h d a b) s = .next (s.issued (.spare h d a b) h .latency (tells (s.taken h) 1) .seq)) ∧
    (s.Issues (.errinj h a b) h → s.injectOk va.toNat vb.toNat = true →
      exec (.errinj h a b) s = .next (s.issued (.errinj h a b) h .latency
        ((s.taken h).injectBits (injectOf va.toNat) vb.toNat) .seq))

/-- How SLOTW, TLBINV, WDSET, CTXSAVE, HALTP and GATE start and how they complete. R333, R335, R356, R368, R384, R385,
R388: the first time such a word is presented it makes its request and waits: the core's next slot table, the removal
of TLB entries, the new limit, the pre-emption of the context, the halt of the partition, the gating of an idle core.
R333, R335, R356, R385, R388, R390, R392, R393: an SY word whose action takes time asks once, and completes, its next
state stated, in the first sc in which it is done: SLOTW when the core has adopted its table, TLBINV when no access
that used a removed entry is outstanding, WDSET when the limits apply, CTXSAVE with the status of the save, HALTP when
the partition is halted or stopped, GATE with 0 when the gating has committed; with the status of their rule at once
where the unit does not exist, the target is busy or stopped, or the core is gated already. The model's choices: HALTP
of a partition that is not defined gives 1, mode 1 stops die by die, and a HALTP is answered once HALTED was seen (log
45); when WDSET's limit is adopted (log 50); which accesses TLBINV waits for (log 44). -/
def Obligations.SystemWordsAskAndWait : Prop :=
  (
    ∀ (s : State) (h : Hdr) (d a b : BitVec 5),
      let va := (s.me.sreg a.toNat).toNat
      let vb := (s.me.sreg b.toNat).toNat
      s.me.asked = false → s.me.answer = none →
      (s.Issues (.slotw h d a) h → va < 16 → (∀ e ∈ s.me.slotEntries d.toNat, e < 4 ∨ e = 8) →
        ∃ t, exec (.slotw h d a) s = .next t ∧ t.me.asked = true ∧ t.me.wait = some .hub ∧
          (t.core (16 * dieOf s.cur.core + va)).slotNext = some (s.me.slotEntries d.toNat) ∧
          (t.core (16 * dieOf s.cur.core + va)).fixed = true) ∧
      (∀ u, s.Issues (.tlbinv h a b) h → vb < 32 → (s.taken h).release s.cur 2 = some u →
        ∃ t, exec (.tlbinv h a b) s = .next t ∧ t.me.asked = true ∧ t.me.wait = some .hub ∧ t.me.answer.isSome = true ∧
          (∀ n, ∀ e ∈ (t.core n).tlb, tlbHit (vb / 2 % 16) (decide (vb % 2 = 1)) va e = false) ∧
          ∀ n, ∀ e ∈ (t.die n).tlb, tlbHit (vb / 2 % 16) (decide (vb % 2 = 1)) va e = false) ∧
      (s.Issues (.wdset h a b) h → va < 64 → vb < 2 ^ 40 →
        ∃ t, exec (.wdset h a b) s = .next t ∧ t.me.asked = true ∧ (t.tq va).wlNext = some vb) ∧
      (∀ u, s.Issues (.ctxsave h d a b) h → va < 2 ^ 10 → vb % 65536 = 0 →
        let k : Who := ⟨selCore (s.me.sreg a.toNat), selCtx (s.me.sreg a.toNat), .c⟩
        s.hasDie (dieOf k.core) = true → (s.ctxOf k).task.isSome = true → (s.ctxOf k).frozen = false →
        (s.ctxOf k).preempt = false → (∀ c, (s.clu { k with clu := c }).run ≠ .stopped) →
        (s.taken h).imgFault s.cur.core s.myTask vb true = (u, none) →
        ∃ t, exec (.ctxsave h d a b) s = .next t ∧ t.me.asked = true ∧ (t.ctxOf k).preempt = true) ∧
      (s.Issues (.haltp h d a) h → va < 16 → (s.part va).dies ≠ [] → (s.part va).run = .running →
        ∃ t, exec (.haltp h d a) s = .next t ∧ t.me.asked = true ∧ (t.part va).line = true ∧
          ∃ w, (0x17, w) ∈ (t.part va).raised) ∧
      (s.Issues (.haltp h d a) h → 16 ≤ va → va < 32 → (s.part (va - 16)).dies ≠ [] →
        ∃ t, exec (.haltp h d a) s = .next t ∧ t.me.asked = true ∧
          (t.part (va - 16)).stopDies = (s.part (va - 16)).dies) ∧
      (s.Issues (.gate h d a) h → va < 2 ^ 8 →
        let n := selCore (s.me.sreg a.toNat)
        s.hasDie (dieOf n) = true → (s.core n).power = .on →
        (∀ x, x < 4 → ((s.core n).ctx x).task = none) → (s.core n).busy = false →
        ∃ t, exec (.gate h d a) s = .next t ∧ t.me.asked = true ∧ (t.core n).power = .gating false)) ∧
  (
    ∀ (s : State) (h : Hdr) (d a b : BitVec 5) (r : Word),
      let u := s.me.sreg a.toNat
      let va := u.toNat
      let vb := (s.me.sreg b.toNat).toNat
      let k : Who := ⟨selCore u, selCtx u, .c⟩
      let tells (t : State) (v : Nat) : State := t.laterN 1 [.scal d.toNat (BitVec.ofNat 64 v)]
      (s.Issues (.slotw h d a) h → va < 16 → (∀ e ∈ s.me.slotEntries d.toNat, e < 4 ∨ e = 8) → s.me.asked = true →
        (s.core (16 * dieOf s.cur.core + va)).slotNext = none →
        exec (.slotw h d a) s = .next (s.issued (.slotw h d a) h .latency (s.taken h) .seq)) ∧
      (s.Issues (.slotw h d a) h → 16 ≤ va → va < 32 → s.me.asked = true →
        (s.core (16 * dieOf s.cur.core + va % 16)).slotNext = none →
        exec (.slotw h d a) s = .next (s.issued (.slotw h d a) h .latency (s.taken h) .seq)) ∧
      (s.Issues (.tlbinv h a b) h → vb < 32 → s.me.answer = some r →
        s.tlbBusy (vb / 2 % 16) (if vb % 2 = 1 then 0 else va) (r.toNat % 2 ^ 56) (r.toNat / 2 ^ 56 % 2 ^ 8) = false →
        exec (.tlbinv h a b) s = .next (s.issued (.tlbinv h a b) h .latency (s.taken h) .seq)) ∧
      (s.Issues (.wdset h a b) h → va < 64 → vb < 2 ^ 40 → s.me.asked = true → (s.tq va).wlNext = none →
        exec (.wdset h a b) s = .next (s.issued (.wdset h a b) h .latency (s.taken h) .seq)) ∧
      (s.Issues (.wdset h a b) h → va = 64 → vb < 2 ^ 40 → s.me.asked = true → (∀ q, q < 64 → (s.tq q).wlNext = none) →
        exec (.wdset h a b) s = .next (s.issued (.wdset h a b) h .latency (s.taken h) .seq)) ∧
      (s.Issues (.ctxsave h d a b) h → va < 2 ^ 10 → vb % 65536 = 0 → s.me.asked = true → s.me.answer = some r →
        exec (.ctxsave h d a b) s = .next (s.issued (.ctxsave h d a b) h .latency (tells (s.taken h) r.toNat) .seq)) ∧
      (s.Issues (.ctxsave h d a b) h → va < 2 ^ 10 → vb % 65536 = 0 → s.me.asked = false →
        s.hasDie (dieOf k.core) = false ∨ (s.ctxOf k).task = none →
        exec (.ctxsave h d a b) s = .next (s.issued (.ctxsave h d a b) h .latency (tells (s.taken h) 1) .seq)) ∧
      (s.Issues (.ctxsave h d a b) h → va < 2 ^ 10 → vb % 65536 = 0 → s.me.asked = false →
        s.hasDie (dieOf k.core) = true → (s.ctxOf k).task.isSome = true → (s.ctxOf k).frozen = true →
        exec (.ctxsave h d a b) s = .next (s.issued (.ctxsave h d a b) h .latency (tells (s.taken h) 2) .seq)) ∧
      (s.Issues (.haltp h d a) h → va < 32 → (s.part (va % 16)).dies = [] →
        exec (.haltp h d a) s = .next (s.issued (.haltp h d a) h .latency (tells (s.taken h) 1) .seq)) ∧
      (s.Issues (.haltp h d a) h → va < 16 → (s.part va).dies ≠ [] →
        (s.part va).run = .halted ∨ s.me.answer.isSome = true →
        exec (.haltp h d a) s = .next (s.issued (.haltp h d a) h .latency (tells (s.taken h) 0) .seq)) ∧
      (s.Issues (.haltp h d a) h → 16 ≤ va → va < 32 → (s.part (va - 16)).dies ≠ [] → s.me.asked = true →
        (s.part (va - 16)).stopDies = [] →
        exec (.haltp h d a) s = .next (s.issued (.haltp h d a) h .latency (tells (s.taken h) 0) .seq)) ∧
      (s.Issues (.gate h d a) h → va < 2 ^ 8 → s.hasDie (dieOf k.core) = true → s.me.asked = true → s.me.barGo = true →
        exec (.gate h d a) s = .next (s.issued (.gate h d a) h .latency (tells (s.taken h) 0) .seq)) ∧
      (s.Issues (.gate h d a) h → va < 2 ^ 8 → s.hasDie (dieOf k.core) = true → s.me.asked = false →
        (s.core k.core).power = .off →
        exec (.gate h d a) s = .next (s.issued (.gate h d a) h .latency (tells (s.taken h) 0) .seq)) ∧
      (s.Issues (.gate h d a) h → va < 2 ^ 8 → s.hasDie (dieOf k.core) = true → s.me.asked = false →
        (s.core k.core).power = .on → ((s.core k.core).busy = true ∨ ∃ x, x < 4 ∧ ((s.core k.core).ctx x).task.isSome = true) →
        exec (.gate h d a) s = .next (s.issued (.gate h d a) h .latency (tells (s.taken h) 2) .seq)))

/-- R383, R387, R390 to R392: CTXLOAD gives the status of loading an image into a core that is on, once what its core
has stored to the image is performed (R233); INJECT that of a context stopped and dumped; RESUMEP lets the stopped
contexts of a partition go on if their images hold no reserved value (R4), begins the reset of a halted one, which has
RESETTING then, and has it reset when no almanac action is in flight. The model's choices: RESUMEP of a partition that
is not defined gives 1, and INJECT and RESUMEP act once the dump is written (log 45); where CTXLOAD places a task, and
its statuses (log 42). -/
def Obligations.ResumingAndLoading : Prop :=
  ∀ (s : State) (h : Hdr) (d a b : BitVec 5),
    let u := s.me.sreg a.toNat
    let vb := (s.me.sreg b.toNat).toNat
    let k : Who := ⟨selCore u, selCtx u, .c⟩
    let tells (t : State) (v : Nat) : State := t.laterN 1 [.scal d.toNat (BitVec.ofNat 64 v)]
    (∀ t v, s.Issues (.ctxload h d a b) h → u.toNat < 2 ^ 8 → vb % 65536 = 0 → s.hasDie (dieOf (selCore u)) = true →
      (s.taken h).imgFault s.cur.core s.myTask vb false = (t, none) → (t.core (selCore u)).power = .on →
      t.imgSettle s.cur.core s.myTask vb = (v, true) →
      let r := v.loadImage (selCore u) (.loc s.cur.core s.myTask vb)
      exec (.ctxload h d a b) s = .next (s.issued (.ctxload h d a b) h .latency (tells r.1 r.2) .seq)) ∧
    (s.Issues (.ctxload h d a b) h → u.toNat < 2 ^ 8 → vb % 65536 = 0 → s.hasDie (dieOf (selCore u)) = false →
      exec (.ctxload h d a b) s = .next (s.issued (.ctxload h d a b) h .latency (tells (s.taken h) 1) .seq)) ∧
    (s.Issues (.inject h d a) h → u.toNat < 2 ^ 10 → s.hasDie (dieOf k.core) = true → (s.ctxOf k).task.isSome = true →
      (s.ctxOf k).frozen = true → (s.ctxOf k).dumped = true →
      let r := (s.taken h).inject k
      exec (.inject h d a) s = .next (s.issued (.inject h d a) h .latency (tells r.1 r.2) .seq)) ∧
    (s.Issues (.resumep h d a) h → u.toNat < 16 → (s.part u.toNat).dies ≠ [] → (s.part u.toNat).run = .running →
      let l := ((s.taken h).ctxsOf u.toNat).filter fun j => ((s.taken h).ctxOf j).frozen
      let r := resumeOk l (s.taken h)
      (∀ j ∈ l, ((s.taken h).ctxOf j).dumped = true) →
      exec (.resumep h d a) s = .next (s.issued (.resumep h d a) h .latency
        (if r.2 then tells (l.foldl State.resumeCtx r.1) 0 else tells r.1 6) .seq)) ∧
    (s.Issues (.resumep h d a) h → 16 ≤ u.toNat → u.toNat < 32 → (s.part (u.toNat - 16)).dies ≠ [] →
      (s.part (u.toNat - 16)).run = .halted →
      ∃ t, exec (.resumep h d a) s = .next t ∧ t.me.asked = true ∧ (t.part (u.toNat - 16)).run = .resetting ∧
        ∀ e ∈ t.deps, e.part ≠ u.toNat - 16) ∧
    (s.Issues (.resumep h d a) h → 16 ≤ u.toNat → u.toNat < 32 → (s.part (u.toNat - 16)).dies ≠ [] →
      (s.part (u.toNat - 16)).run = .resetting → s.me.asked = true → s.almBusy (u.toNat - 16) = false →
      exec (.resumep h d a) s = .next (s.issued (.resumep h d a) h .latency
        (tells ((s.taken h).resetPart (u.toNat - 16)) 0) .seq)) ∧
    (s.Issues (.resumep h d a) h → u.toNat < 32 → (s.part (u.toNat % 16)).dies = [] →
      exec (.resumep h d a) s = .next (s.issued (.resumep h d a) h .latency (tells (s.taken h) 1) .seq))

/-- R94, R122: a POSTG message reaches its core: the flag is set, with GROUP scope, in every context of the launch,
and if no context of the core belongs to the launch, the die's count of discarded posts goes up. R23, R26: results
that are due in the cluster's present sc land; a push held because its queue was full is made once the queue has room.
-/
def Obligations.PostsAndResultsArrive : Prop :=
  (
    ∀ (s : State) (i n f l who : Nat), tblFind s.postg i = some (n, f, l, who) → (s.core n).power = .on →
      ∃ t, exec (.postgDelivery i) s = .next t ∧ tblFind t.postg i = none ∧
        (∀ x, x < 4 → ((t.core n).ctx x).fsets = ((s.core n).ctx x).fsets ++
          (if ∃ k, ((s.core n).ctx x).task = some k ∧ k.launch = l then [(f, true, who)] else [])) ∧
        ((∀ x k, x < 4 → ((s.core n).ctx x).task = some k → k.launch ≠ l) →
          (t.die (dieOf n)).discarded = ((s.die (dieOf n)).discarded + 1) % 2 ^ 64)) ∧
  (
    ∀ (s : State) (k : Who) (w : BitVec 2),
      exec (.resultVisible k) s = .next (s.landDue k) ∧
      ((s.clu k).held = [w] → (s.ctxOf k).roomTok (sigQueues k.clu w) = true →
        ∃ t, exec (.heldTokenPush k) s = .next t ∧ (t.clu k).held = [] ∧
          ∀ q, (t.ctxOf k).tokens q = (s.ctxOf k).tokens q + (if q ∈ sigQueues k.clu w then 1 else 0)))

/-- R92, R199, R200: the line that a context waits for comes into the core's cache, and the context runs on; a page walk
puts the leaf it finds into the TLBs, or notes that there is none. R217, R228: a load whose service is due is served:
its value is read then, after the stores of the row that it follows, or in the next slot occurrence where one of them
cannot be performed yet; rows of a direct-path load come at the start of the cc in which their latency ends; and rows
that a load has fixed fill the rows that it reserved. -/
def Obligations.CodeLinesWalksAndLoadsArrive : Prop :=
  (
    ∀ (s t : State) (k : Who) (va sa : Nat) (w : Bool),
      ((s.ctxOf k).fetch = some va → s.translate k.core (s.taskOf k) (va / 64 * 64) = (t, some (sa, w)) →
        saDev sa = t.devId →
        ∃ t', exec (.instructionFetch k) s = .next t' ∧ (t'.ctxOf k).fetch = none ∧
          tblFind (t'.core k.core).icache (lineKey (s.taskOf k) va) =
            some (bytesOfNat 64 (t.sysRead sa (s.taskOf k).tag).2.1)) ∧
      (∀ n x e, ((List.range 4).find? fun x => ((s.core n).ctx x).task.isSome && ((s.core n).ctx x).walksFor va) = some x →
        s.walkFill n x (s.taskOf ⟨n, x, .a⟩).part va = (t, some e) → exec (.pageWalk n va) s = .next t) ∧
      (∀ n x, ((List.range 4).find? fun x => ((s.core n).ctx x).task.isSome && ((s.core n).ctx x).walksFor va) = some x →
        s.walkFill n x (s.taskOf ⟨n, x, .a⟩).part va = (t, none) →
        ∃ t', exec (.pageWalk n va) s = .next t' ∧ ((s.taskOf ⟨n, x, .a⟩).part, va / 65536) ∈ (t'.core n).walkBad)) ∧
  (
    ∀ (s : State) (i : Nat) (a : Acc), tblFind s.accs i = some a →
      (∀ f c, a.kind = .direct f c → c ≤ (s.die (dieOf a.who.core)).dcc →
        let t := s.performOlder i a.who.core a.place
        exec (.directPathServe i) s = .next (
          if t.olderLeft i a.who.core a.place then { t with accs := tblPut t.accs i { a with kind := .direct f (c + 64) } }
          else t.serveDirect i a f c)) ∧
      (∀ q rows cir c, a.kind = .served q rows cir (some c) → c ≤ (s.die (dieOf a.who.core)).dcc →
        (s.ctxOf a.who).frozen = false → (s.ctxOf a.who).fetch = none → s.rowDue i = s.deliver i a q rows cir) ∧
      (∀ f, a.kind = .load f → saDev a.sa = s.devId → s.accWaits i a = false →
        exec (.loadRowFill i) s = .next (s.fillLoad i a f)) ∧
      (∀ q id d p cir, a.kind = .served q [(id, d, p)] cir none → a.live = true → (s.ctxOf a.who).frozen = false →
        ∃ t, exec (.loadRowFill i) s = .next t ∧ tblFind t.accs i = none ∧
          (t.ctxOf a.who).lrows q = fillRow ((s.ctxOf a.who).lrows q) id d p ∧
          (t.ctxOf a.who).cir = (s.ctxOf a.who).cir ||| cir))

/-- R208, R233, R388: a store in flight is written: its 64 bytes and no other byte of the device's memory; a die-window
store is written in its target core, which it wakes. R229: an atomic in flight is performed in one step: its cluster
goes on with the old value in its scalar. -/
def Obligations.StoresAndAtomicsArePerformed : Prop :=
  (
    ∀ (s : State) (i : Nat) (a : Acc), tblFind s.accs i = some a → s.accWaits i a = false →
      (∀ d, a.kind = .store d → saDev a.sa = s.devId →
        exec (.globalStorePerform i) s = .next (s.performStore i a d) ∧
        (saLevel (a.sa / 64 * 64) = 0 → (s.performStore i a d).mem.readN (a.sa / 64 * 64) 64 = d % 2 ^ 512) ∧
        let k := s.memKey (a.sa / 64 * 64)
        ∀ b, b < k ∨ k + 64 ≤ b → (s.performStore i a d).mem.read b = s.mem.read b) ∧
      (∀ n addr d u, a.kind = .win n addr d u → (s.core n).power = .on → (s.core n).touched addr = false →
        exec (.dieWindowStorePerform i) s = .next (s.performWin i a n addr d u)) ∧
      (∀ n addr d u, a.kind = .win n addr d u → (s.core n).power = .off →
        ∃ t, exec (.dieWindowStorePerform i) s = .next t ∧ (t.core n).wake = true ∧ tblFind t.accs i = some a)) ∧
  (
    ∀ (s : State) (i : Nat) (a : Acc) (op : Nat) (w : Bool) (v new : Word) (sd : Nat),
      let n := if w then 8 else 4
      let p := a.sa / n * n
      tblFind s.accs i = some a → a.kind = .atom op w v new sd → s.accWaits i a = false → a.live = true → sd ≠ 0 →
      (s.ctxOf a.who).frozen = false → (saLevel a.sa = 1 → s.openFor a.who.core (shaKey a.sa) = false) →
      ∃ t, exec (.atomicPerform i) s = .next t ∧ tblFind t.accs i = none ∧ (t.clu a.who).blocked = false ∧
        (t.clu a.who).sreg sd = BitVec.ofNat 64 (s.atomicAt p n op v.toNat new.toNat a.task.tag).2.1 ∧
        (saLevel p = 0 → (s.atomicAt p n op v.toNat new.toNat a.task.tag).2.1 = (s.sysReadN p n a.task.tag).2.1))

/-- R288, R289, R293, R298, R343: the copy engine starts the oldest command when it has room for it, moves one row group
at a time, and completes it: PEND of its token goes down, and a failure leaves its status, index and address there; CBLD
leaves 256 codebook entries. The model's choices: row groups go in the order of their elements, one at a time (log 30;
R298 allows any order), and the shape record is read in the one event of the start (log 68). -/
def Obligations.CopiesRunToTheirEnd : Prop :=
  ∀ (s : State) (n id : Nat),
    (∀ e rest, (s.core n).cpq = e :: rest → (s.core n).engHalt = false → (s.core n).cpRun.length < 4 →
      s.cpHeld n = false → s.cmdAlive n e = true →
      (∀ h d p t, tblFind (s.core n).cpRun (s.core n).cpNext = none → (∃ x k a b, e.i = .cpy x k a b) → e.a.toNat % 64 = 0 →
        s.localRows n e.task 4 e.a.toNat = .ok t d p → parseShape d false e.b = some h → h.dspace ≠ 2 →
        exec (.copyStart n) s =
          .next ((t.cpAdd n { CpRun.start e with shape := some h }).modCore n fun c => { c with cpq := rest })) ∧
      let s' := match e.i with
        | .cpy .. => s.cpStartCopy n e false
        | .cpyl .. => s.cpStartCopy n e true
        | _ => s.cpStartCb n e
      (s'.core n).cpRun.length ≠ (s.core n).cpRun.length →
      exec (.copyStart n) s = .next (s'.modCore n fun c => { c with cpq := rest })) ∧
    (∀ r h g, tblFind (s.core n).cpRun id = some r → r.shape = some h → r.next < h.count → s.cmdAlive n r.cmd = true →
      (s.core n).engHalt = false → r.put = none →
      gather n id r h (h.dstRows r.next) (h.count - r.next) ⟨s, none, r.next, [], [], 0⟩ = .ok g →
      exec (.copyRowGroup n id) s = .next (s.cpWrite n id r h g)) ∧
    (∀ r k, tblFind (s.core n).cpRun id = some r → r.moved = true → s.cmdRoom n r.cmd = true →
      s.cmdAlive n r.cmd = true → s.inCtx n r.cmd = true → r.cmd.copyTok = some k →
      ∃ t, exec (.copyComplete n id) s = .next t ∧ tblFind (t.core n).cpRun id = none ∧
        ((t.core n).ctx r.cmd.ctx).ctok k =
          let c := ((s.core n).ctx r.cmd.ctx).ctok k
          if r.stat = 0 then { c with pend := c.pend - 1 }
          else { pend := c.pend - 1, stat := r.stat, fidx := r.fidx, addr := r.addr, eng := r.eng }) ∧
    (∀ r, tblFind (s.core n).cpRun id = some r → r.moved = true → s.cmdRoom n r.cmd = true →
      s.cmdAlive n r.cmd = true → r.cmd.copyTok = none → r.stat = 0 → r.cb.length = 256 →
      ∃ t, exec (.copyComplete n id) s = .next t ∧
        ∀ j, j < 256 → tblGet 0 (t.core n).cbt j = BitVec.ofNat 24 (r.cb.getD j 0))

/-- R272, R273, R278 to R281: the matrix engine starts the oldest command, posts its release flag once, and completes it
with its effect on the accumulator; MZERO leaves zeros in its accumulator's bytes and changes no other byte. The model's
choices: a command's operands are all taken when it starts (log 23; R273 leaves any cc up to its completion), and it
leaves the queue at its start (log 61). -/
def Obligations.MatrixCommandsRunToTheirEnd : Prop :=
  ∀ (s : State) (n : Nat),
    (∀ c rest t ds bad z, (s.core n).engHalt = false → (s.core n).mxRun = none →
      takeFirst (s.mxAlive n) (s.core n).mxq = some (c, rest) → ((s.core n).ctx c.ctx).frozen = false →
      State.engRegions n (s.taskOf (c.who n)).tag c.regions (s.modCore n fun k => { k with mxq := rest }) [] false =
        (some (t, ds, bad), z) →
      ∃ r, exec (.matrixCommandStart n) s = .next (t.modCore n fun k => { k with mxRun := some r }) ∧ r.cmd = c ∧
        r.released = false ∧ r.input.a = ds.getD 0 0 ∧ r.input.b = ds.getD 3 0 ∧ r.input.pois = bad) ∧
    (∀ r, (s.core n).mxRun = some r → r.released = false → r.cmd.rel = true →
      ((s.core n).ctx r.cmd.ctx).frozen = false →
      ∃ t, exec (.ringStageRelease n) s = .next t ∧ (t.core n).mxRun = some { r with released := true } ∧
        ((t.core n).ctx r.cmd.ctx).fsets = ((s.core n).ctx r.cmd.ctx).fsets ++ [(fwRelf r.cmd.fmt, false, 4)]) ∧
    (∀ r, (s.core n).mxRun = some r → ((s.core n).ctx r.cmd.ctx).frozen = false →
      ((s.core n).ctx r.cmd.ctx).roomTok (sigQueues .m r.cmd.hdr.sig) = true →
      (∀ h c a b e f g, r.cmd.i = .mma h c a b e f g →
        exec (.matrixCommandComplete n) s = .next ((s.mxFinish n r).mxEnd n r.cmd)) ∧
      (∀ h c a b f g, r.cmd.i = .mmas h c a b f g →
        exec (.matrixCommandComplete n) s = .next ((s.mxFinish n r).mxEnd n r.cmd)) ∧
      (∀ h c a g, r.cmd.i = .mldacc h c a g →
        exec (.matrixCommandComplete n) s = .next ((s.mxFinish n r).mxEnd n r.cmd)) ∧
      (∀ h c a t, r.cmd.i = .mstacc h c a → (∀ x ∈ r.cmd.storeAddrs, (s.core n).readNow x = false) →
        s.mxStore n r.cmd = (t, true) →
        exec (.matrixCommandComplete n) s = .next (t.mxEnd n r.cmd)) ∧
      (∀ h c, r.cmd.i = .mzero h c →
        ∃ t, exec (.matrixCommandComplete n) s = .next t ∧ (t.core n).mxRun = none ∧
          let base := ((s.core n).ctx r.cmd.ctx).fo + accOff (tblGet 0 r.cmd.views 3) r.cmd.acc false
          ∀ b, (t.core n).frame.read b = if base ≤ b ∧ b < base + 4096 then 0 else (s.core n).frame.read b))

/-- R288, R290, R303, R310, R311, R420: the remote queue's head starts when no completed command and no RFENCE keeps it
back. A command whose last packet has been acknowledged leaves its element at the end of its task's result FIFO: RPUT,
RATOM and the commands that send nothing with their value and status; an RFENCE, once the stores before its release are
performed, with 0; an RGET with the status of writing the rows whose bytes have come. When those rows are written, and
what becomes of bytes that come later, is the model's choice (logs 69 and 86). -/
def Obligations.RemoteCommandsStartAndComplete : Prop :=
  ∀ (s : State) (n : Nat),
    (∀ s1 e rest, s.rmSweep n = s1 → (s1.core n).rmq = e :: rest → (s1.core n).engHalt = false →
      s1.cmdAlive n e = true → s1.rmHeld n e = false → s1.rmFenced n e = false →
      ∀ t r, s1.startRm n e = .run t r → exec (.remoteCommandStart n) s =
        .next ((t.modCore n fun c => { c with rmq := rest, rmRun := c.rmRun ++ [r] }).rmSweep n)) ∧
    (∀ r, (s.core n).rmq = [] → (s.core n).rmRun = [r] → r.todo = [] → r.ended = false → s.inCtx n r.cmd = true →
      s.cmdAlive n r.cmd = true → s.cmdRoom n r.cmd = true → s.resRoom n r.cmd false = true →
      let ends (v : Word) (st : Nat) (ad : Word) (eng : Bool) : Prop :=
        ∃ t, exec (.remoteCommandStart n) s = .next t ∧ (∀ x ∈ (t.core n).rmRun, x.ended = true) ∧
          (r.wait = [] → (t.core n).rmRun = []) ∧
          ((t.core n).ctx r.cmd.ctx).remF = ((s.core n).ctx r.cmd.ctx).remF ++ [⟨v, st, ad, eng, r.cmd.past⟩]
      let last : Prop := ∀ q l, r.got.getLast? = some (q, l) → q ∉ r.wait
      ((∀ h d a b, r.cmd.i ≠ .rget h d a b) → (∀ h, r.cmd.i ≠ .rfence h) → last → ends r.val r.stat r.addr r.eng) ∧
      (∀ h, r.cmd.i = .rfence h → r.got = [] → s.cmdPerformed r.cmd = true → ends 0 0 0 false) ∧
      (∀ h d a b, r.cmd.i = .rget h d a b → last → r.stat ≠ 0 → ends 0 r.stat r.addr r.eng) ∧
      (∀ h d a b u st ad eng, r.cmd.i = .rget h d a b → last → r.stat = 0 →
        State.putPieces n r.cmd.task r.pieces s = some (u, st, ad, eng) →
        ends 0 st (BitVec.ofNat 64 ad) eng))

/-- R304, R418: a packet of a remote command takes the next number of its triple and stays unacknowledged until its
first acknowledgement; a later acknowledgement is discarded. The packet was offered as the last cc ended, and no lower
core then offered one of the triple that is still to go (log 88).
R306, R419: a packet with the next number of its window is performed and acknowledged, and the window moves up by one;
a write, an atomic or a contribution already performed is acknowledged again, an atomic with its old value, and
changes nothing; a read already performed is read again, with what a read does to the memory it reads (that is the
model's choice, log 29). -/
def Obligations.PacketsAreSentAndPerformedOnce : Prop :=
  (
    ∀ (s : State) (n : Nat) (ak : Ack),
      (∀ r op rest i p, s.fabric = true → s.unsentAccs n = [] → (s.core n).rmRun = [r] → r.todo = op :: rest →
        (s.core n).engHalt = false → s.cmdAlive n r.cmd = true → s.way r.dst r.cls (opFlits op) = .go i p →
        r.dst ≠ s.devId → s.peerHeld n r.cls op = false → s.behind n ⟨r.dst, r.cls, op, r.cmd.task.tag, .rm 0⟩ = false →
        let q := s.nextSeq r.dst r.cls
        ∃ t, exec (.packetSend n) s = .next t ∧ t.nextSeq r.dst r.cls = (q + 1) % 2 ^ 32 ∧
          t.unacked = s.unacked ++ [⟨⟨s.devId, r.dst, r.cls, q, op, p, true⟩, n, i, none⟩] ∧
          (t.core n).rmRun = [{ r with todo := rest, wait := r.wait ++ [q], got := r.got ++ [(q, [])] }]) ∧
      (∀ x i a d, (s.unacked.find? fun x => x.pk.dst = ak.dst && x.pk.cls = ak.cls && x.pk.seq = ak.seq) = some x →
        x.acc = some i → tblFind s.accs i = some a → a.kind = .store d → ak.status = 0 →
        ∃ t, exec (.acknowledgement ak) s = .next t ∧ t.unacked = s.unacked.filter (· ≠ x) ∧ tblFind t.accs i = none) ∧
      (∀ x, (s.unacked.find? fun x => x.pk.dst = ak.dst && x.pk.cls = ak.cls && x.pk.seq = ak.seq) = some x →
        x.acc = none →
        let t : State := { s with unacked := s.unacked.filter (· ≠ x) }
        let t := t.modPort x.pk.port fun p => { p with flits := p.flits - opFlits x.pk.op }
        let eng := ak.status = fRace && t.opEng x.core x.pk.op
        let f (r : RmRun) : RmRun :=
          if r.dst = ak.dst && r.cls = ak.cls && r.wait.contains ak.seq then r.answer ak.seq ak.old ak.bytes ak.status eng
          else r
        exec (.acknowledgement ak) s = .next ((t.modCore x.core fun c => { c with rmRun := c.rmRun.map f }).rmSweep x.core)) ∧
      ((∀ x ∈ s.unacked, ¬(x.pk.dst = ak.dst ∧ x.pk.cls = ak.cls ∧ x.pk.seq = ak.seq)) →
        exec (.acknowledgement ak) s = .next s)) ∧
  (
    ∀ (s : State) (pk : Packet),
      let key := pk.src * 4 + pk.cls
      let w := tblGet Window.reset s.windows key
      s.fabric = true → pk.dst = s.devId → pk.src ≠ s.devId → pk.ok = true → pk.cls ≠ 2 → packetFits pk = true →
      (∀ t old bytes st, pk.seq = w.b → w.held = [] →
        ({ s with windows := tblPut s.windows key { w with held := [pk] } } : State).performOp none pk.op =
          (t, old, bytes, st) →
        exec (.packetReceive pk) s = .next { t with
          windows := tblPut t.windows key { b := (w.b + 1) % 2 ^ 32, held := [], old := (w.keep old st).old }
          acksOut := t.acksOut ++ [⟨pk.src, pk.cls, pk.seq, old, bytes, st⟩] }) ∧
      (2 ^ 32 - 4096 ≤ (pk.seq + 2 ^ 32 - w.b) % 2 ^ 32 →
        ((∀ a len, pk.op ≠ .read a len) →
          exec (.packetReceive pk) s = .next { s with acksOut := s.acksOut ++
            [⟨pk.src, pk.cls, pk.seq, (tblGet (0, 0) w.old pk.seq).1, [], (tblGet (0, 0) w.old pk.seq).2⟩] }) ∧
        (∀ a len t old bytes st, pk.op = .read a len → s.performOp none pk.op = (t, old, bytes, st) →
          exec (.packetReceive pk) s =
            .next { t with acksOut := t.acksOut ++ [⟨pk.src, pk.cls, pk.seq, 0, bytes, st⟩] })))

/-- R305, R400: a timed-out or failed route goes out of service, is counted as an error of its port, and its packets are
replayed; a lost lane is replaced by the port's spare lane once, and at a second loss every route of the port fails. -/
def Obligations.RoutesAndLanesFail : Prop :=
  ∀ (s : State) (i p lane : Nat) (r : Route),
    (∀ x ∈ s.unacked, x.route = i → x.pk.dst ≠ s.devId → exec (.routeTimeout i) s = .next (s.failRoute i)) ∧
    (tblFind s.routes i = some r → r.up = true →
      exec (.routeFailure i) s = .next (s.failRoute i) ∧
      s.failRoute i = (s.unacked.filter fun x => x.route = i && x.pk.dst ≠ s.devId).foldl State.replay
        (({ s with routes := tblPut s.routes i { r with up := false } } : State).errEvent
          ⟨0x700 + r.port, 0, some 7, 64, 0, 0⟩)) ∧
    (∀ x j q, (s.routeTo x.pk.dst) = some (j, q) → x ∈ s.unacked →
      ({ x with route := j, pk := { x.pk with port := q.port } } : Sent) ∈ (s.replay x).unacked) ∧
    ((s.port p).spareUsed = false →
      ∃ t, exec (.laneLoss p lane) s = .next t ∧ (t.port p).spareUsed = true ∧ t.routes = s.routes ∧
        t.errEvts = s.errEvts ++ [⟨0x700 + p, 0, some 6, 64, 0, lane⟩]) ∧
    ((s.port p).spareUsed = true → s.unacked = [] →
      ∃ t, exec (.laneLoss p lane) s = .next t ∧
        ∀ j q, tblFind t.routes j = some q → q.port = p → q.up = false)

/-- R288, R312, R313: a contribution of another device joins its instance; a command completes when the instance is
decided: a device that does not receive the result gets an element of 0, a mismatch ends with its status. The model's
choices: how contributions are joined to instances, and the descriptor's address as that of a mismatch (log 40); that
each member sends its contribution to every other and forms the result itself (log 70). -/
def Obligations.CollectivesComplete : Prop :=
  ∀ (s : State) (n : Nat),
    (∀ (pk : Packet) (c : Contribution),
      let key := pk.src * 4 + 2
      let w := tblGet Window.reset s.windows key
      s.fabric = true → pk.cls = 2 → pk.op = .coll c → pk.dst = s.devId → pk.src ≠ s.devId → pk.ok = true →
      pk.seq = w.b → w.held = [] →
      (∃ t, exec (.collectiveContribution pk) s = .next t ∧ t.colls = (s.joinColl c).1.dropColls.colls ∧
        t.acksOut = s.acksOut ++ [⟨pk.src, 2, pk.seq, 0, [], 0⟩] ∧
        (tblGet Window.reset t.windows key).b = (w.b + 1) % 2 ^ 32) ∧
      ∃ x ∈ (s.joinColl c).1.colls, x.group = c.group ∧ x.tag = c.tag ∧ c ∈ x.got) ∧
    (∀ e rest, (s.core n).coq = e :: rest → (s.core n).engHalt = false → s.cmdAlive n e = true → s.colHeld n e = false →
      let hand (t : State) (r : CoRun) : State := t.modCore n fun c => { c with coq := rest, coRun := c.coRun ++ [r] }
      (∀ t e' own, s.contribute n e = .ok t e' own →
        exec (.collectiveComplete n) s = .next ((hand (t.joinColl own).1 ⟨e', (t.joinColl own).2,
          ((t.joinColl own).1.members own.group).filter (· ≠ (t.joinColl own).1.devId), none⟩).colFinish n)) ∧
      (∀ t st ad, s.contribute n e = .fail t st ad →
        exec (.collectiveComplete n) s = .next ((hand t ⟨e, 0, [], some (0, st, BitVec.ofNat 64 ad)⟩).colFinish n))) ∧
    (∀ r, (s.core n).coq = [] → (s.core n).coRun = [r] → s.inCtx n r.cmd = true → s.cmdAlive n r.cmd = true →
      s.resRoom n r.cmd true = true → s.cmdRoom n r.cmd = true →
      let ends (v : Word) (st : Nat) (ad : Word) : Prop :=
        ∃ t, exec (.collectiveComplete n) s = .next t ∧ (t.core n).coRun = [] ∧
          ((t.core n).ctx r.cmd.ctx).colF = ((s.core n).ctx r.cmd.ctx).colF ++ [⟨v, st, ad, false, r.cmd.past⟩]
      (∀ v st ad, r.fate = some (v, st, ad) → ends v st ad) ∧
      (∀ l cir, r.fate = none → r.todo = [] → s.colOutcome r.cmd r.coll = .result l cir → s.receives r.cmd = false →
        ends 0 0 0) ∧
      (∀ st, r.fate = none → r.todo = [] → s.colOutcome r.cmd r.coll = .status st → ends 0 st r.cmd.a))

/-- R314, R322: the walker's next task of a launch, one in a cc, enters its queue, and the launch has created one
more; a record that waits for room enters in the same way. R16, R17, R328: the record that the hub chooses leaves its
queue and enters the dependence table, after every task there; it waits for each older task of its partition that
writes a tile which it reads. That a task may still enter while its partition is halting is the model's choice (log
34). -/
def Obligations.TasksAreCreatedAndEnterTheTable : Prop :=
  (
    ∀ (s : State) (n : Nat) (l : Launch),
      let q := recTq l.record
      s.launch? n = some l → l.seq < l.total → n ∉ s.walked → (s.part l.part).hubSaw = false →
      (s.tq q).fifo.length < 32 → (s.tq q).ring = [] →
      ∃ t, exec (.walkerTaskCreate n) s = .next t ∧
        (t.tq q).fifo = (s.tq q).fifo ++ [walkerRecord l.record n l.seq l.snap] ∧
        t.launch? n = some { l with seq := l.seq + 1, alive := l.alive + 1 } ∧ n ∈ t.walked ∧
        ((s.launches.find? fun e =>
            recTq e.2.record = q && e.2.seq < e.2.total && !s.walked.contains e.1 && !(s.part e.2.part).hubSaw) = some (n, l) →
          exec (.taskEnqueue q) s = .next t)) ∧
  (
    ∀ (s : State) (p q l : Nat) (r : TRec) (rest : List TRec),
      s.choose (16 * (p + 1)) (s.entryCands p) = some (l, q) → (s.tq q).fifo = r :: rest → s.deps.length < 2048 →
      (s.part p).run ≠ .halted → (s.part p).run ≠ .resetting → p ∉ s.entered → (s.tq q).fed = false →
      ∃ t e, exec (.taskEntry p q) s = .next t ∧ t.deps = s.deps ++ [e] ∧ e.rcd = r ∧ e.part = p ∧ e.tq = q ∧
        e.order = s.depNext ∧ t.depNext = s.depNext + 1 ∧ e.insts = [] ∧ (e.st = .ready ↔ e.conf = []) ∧
        ∀ d ∈ s.deps, d.part = p → (∃ w ∈ d.rcd.writes, ∃ x ∈ r.reads, overlap w x = true) → d.rcd.tid ∈ e.conf)

/-- R18, R53, R131 to R133, R327, R388: the ready task that R19 serves is placed: its context holds the task with its
clusters at their entries, its registers from the record, and a frame of zeros. A dispatch to a powered-down core that
only wakes it, and leaves the task ready, is the model's choice (log 35; R388 makes the dispatch the wake message). -/
def Obligations.DispatchPlacesAReadyTask : Prop :=
  ∀ (s : State) (lv q : Nat) (e : Dep) (pl : Place),
    let cands := s.dispatchCands.map fun e => (e.rcd.pri, e.tq)
    s.choose 0 cands = some (lv, q) → (s.dispatchCands.find? fun e => e.rcd.pri = lv && e.tq = q) = some e →
    s.goodPlaces e [pl] = true →
    ((s.core pl.core).power = .off →
      ∃ t, exec (.dispatch e.rcd.tid [pl]) s = .next t ∧ (t.core pl.core).wake = true ∧ t.deps = s.deps) ∧
    ((s.core pl.core).power ≠ .off → s.dep? e.part e.rcd.tid = some e →
      ∃ t, exec (.dispatch e.rcd.tid [pl]) s = .next t ∧
        (t.core pl.core).ctx pl.ctx =
          Ctx.ofTask ⟨e.rcd.tid, e.nextInst, e.part, e.rcd.launch, e.rcd.cls, e.rcd.kidx, e.tq, e.rcd.snap⟩ e.rcd pl.fo ∧
        ∀ b, (t.core pl.core).frame.read b =
          if pl.fo ≤ b ∧ b < pl.fo + e.rcd.snap.frame then 0 else (s.core pl.core).frame.read b)

/-- R20, R21, R120: a context whose clusters have ended, one by TAIL at least, is freed once its matrix commands and
loads are done, and the retirement tracker keeps what its commands still write; a task whose clusters all ended by END
retires when it has drained, and what happens before it has been performed, unless a test at its end faults. That
results still in flight land first is the model's choice (log 37). -/
def Obligations.ContextsAreFreedAndTasksRetire : Prop :=
  ∀ (s : State) (n x : Nat) (t : Task),
    let k : Who := ⟨n, x, .c⟩
    let c := s.ctxOf k
    c.task = some t → c.mxBad = false → c.frozen = false →
    ((∀ u, ((c.clu u).run = .ended ∨ (c.clu u).run = .tailed) ∧ (c.clu u).dl = []) → (∃ u, (c.clu u).run = .tailed) →
      s.mxOf k = false → (∀ e ∈ s.accs, ¬(s.ofCtx k e.2 = true ∧ e.2.loads = true)) → (s.core n).tracker.length < 8 →
      ∃ t', exec (.contextFree n x) s = .next t' ∧ ((t'.core n).ctx x).task = none ∧
        (t'.core n).tracker =
          (s.core n).tracker ++ [
            { ctx := x, task := t, ct := c.ct, remF := c.remF, colF := c.colF, cbStat := c.cbStat, cbIdx := c.cbIdx,
              cbEng := c.cbEng, cir := c.cir, sigs := c.sigs, pc := (s.clu k).pc, loc := (s.clu k).sc,
              cseq := c.popped }]) ∧
    ((∀ u, (c.clu u).run = .ended) → t.part ∉ (s.die (dieOf n)).halt → (t.cls = 0 → t.part ∉ s.entered) →
      s.drained k = true → s.pastDone k = true →
      (∀ f, ((s.landAll k).ctxOf k).endFault = some f →
        exec (.taskRetirement n x) s = .next ((s.landAll k).faultTask k f)) ∧
      (((s.landAll k).ctxOf k).endFault = none → t.cls = 0 →
        ∃ t', exec (.taskRetirement n x) s = .next t' ∧ ((t'.core n).ctx x).task = none ∧
          ∀ e ∈ t'.deps, ¬(e.part = t.part ∧ e.rcd.tid = t.tid)))

/-- R186, R247, R378: Vigil releases the instance of a SIG task that retired; of a DUP task it compares signatures: two
that agree are released, two that differ are executed a third time, and then the two that agree win. A decided
instance's rows are written and its task leaves; a task without agreement marks its launch. R331: an overlay that has
committed, with no older task and no older overlay on its pages left, is folded: its pages take its block's addresses,
and it goes. The model's choices: Vigil decides while the partition runs only, and a release with rows that still wait,
or that go to other devices, ends in a later decision (log 38). -/
def Obligations.VigilDecidesAndOverlaysFold : Prop :=
  (
    ∀ (s : State) (e : Dep) (i j k : Inst) (pl : Option Place),
      (e.rcd.cls = 1 → e.insts = [i] → i.st = .retired → e.decision = .release i [] 4) ∧
      (e.rcd.cls = 1 → e.insts = [i] → i.st = .failed → e.nextInst = 1 → e.decision = .again) ∧
      (e.rcd.cls = 2 → i.st = .retired → j.st = .retired → k.st = .retired → i.no ≠ j.no → i.no ≠ k.no → j.no ≠ k.no →
        (e.nextInst = 2 → e.insts = [i, j] → e.decision = if i.sigv = j.sigv then .release i [] 8 else .again) ∧
        (e.nextInst = 3 → e.insts = [i, j, k] → i.sigv ≠ j.sigv →
          e.decision = if k.sigv = i.sigv then .release i [j] 8 else if k.sigv = j.sigv then .release j [i] 8
            else .unresolved)) ∧
      ((s.deps.find? fun x => x.rcd.tid = e.rcd.tid && s.decides pl x) = some e →
        (∀ l n, let t := s.releaseRows e i
          e.decision = .release i l n →
          (t.releasing e i = true → exec (.vigilDecision e.rcd.tid pl) s = .next t) ∧
          (t.releasing e i = false → e.part ∉ t.entered → exec (.vigilDecision e.rcd.tid pl) s =
            .next (l.foldl (fun s x => s.blame x n) (t.vigilRelease e i)))) ∧
        (e.decision = .unresolved → e.part ∉ s.entered → exec (.vigilDecision e.rcd.tid pl) s = .next (s.vigilUnresolved e)))) ∧
  (
    ∀ (s : State) (p i : Nat) (o : Overlay), (s.part p).overlays[i]? = some o → s.foldable p o = true →
      (o.block = none → ∃ t, exec (.overlayFold p i) s = .next t ∧
        (t.part p).overlays = (s.part p).overlays.filter (· ≠ o) ∧ t.mem = s.mem) ∧
      (∀ b, o.block = some b → exec (.overlayFold p i) s =
        .next ((((List.range (o.size / 65536)).foldl (State.foldPage p o b) s).tlbDrop fun e =>
          e.part = p && e.va < o.tile + o.size && o.tile < e.va + e.size).modPart p fun x =>
            { x with overlays := x.overlays.filter (· ≠ o) })))

/-- R376, R377: a doorbell moves a queue's tail; a head write lets a stopped queue run again; a completion head moves
when it is no further than the tail of the ring, and is ignored and counted otherwise. R321, R324, R339, R368, R376,
R377: the record at the head of a queue is accepted with a reserved completion slot, or rejected with a completion
entry; a record that would pass the end stops the queue; a launch whose tasks, folds and stores are done completes,
after its almanac has been released. The model's choices: a head further than CT is found by a difference modulo 2^32
of 2^31 or more (log 43; R377 says only past CT), and a launch completes only while its partition runs (log 38). -/
def Obligations.LaunchesAreAcceptedAndComplete : Prop :=
  (
    ∀ (s : State) (p q v : Nat),
      (∃ t, exec (.launchQueueDoorbell p q v) s = .next t ∧ (t.part p).lq q = { (s.part p).lq q with t := v }) ∧
      (∃ t, exec (.launchQueueHeadWrite p q v) s = .next t ∧
        (t.part p).lq q = { (s.part p).lq q with h := v, stopped := false }) ∧
      ((((s.part p).lq q).ct + 2 ^ 32 - v % 2 ^ 32) % 2 ^ 32 < 2 ^ 31 →
        ∃ t, exec (.completionHeadWrite p q v) s = .next t ∧ (t.part p).lq q = { (s.part p).lq q with ch := v % 2 ^ 32 }) ∧
      (2 ^ 31 ≤ (((s.part p).lq q).ct + 2 ^ 32 - v % 2 ^ 32) % 2 ^ 32 →
        exec (.completionHeadWrite p q v) s = .next (s.errEvent ⟨0x740, 0, none, 64, 0, 0⟩))) ∧
  (
    ∀ (s : State) (p q n : Nat) (l : Launch),
      let lq := (s.part p).lq q
      (lq.present = true → (s.part p).hubSaw = false →
        (lq.sz < lq.h + 128 → ∃ t, exec (.launchAcceptance p q) s = .next t ∧ ((t.part p).lq q).stopped = true) ∧
        (lq.h + 128 ≤ lq.sz → lq.slotFree = true → ∀ s1 s2 r, s.sysBlock (lq.base + lq.h) 128 = (s1, r) →
          let step (s : State) : State := s.modLq p q fun l => { l with h := (l.h + 128) % l.sz }
          (∀ c, s1.judge p r true = (s2, .reject c) →
            exec (.launchAcceptance p q) s = .next ((step s2).putCompletion p q (recLtag r) c lq.h)) ∧
          (∀ x al, s1.judge p r true = (s2, .accept x al) →
            exec (.launchAcceptance p q) s = .next ((step (s2.addLaunch p r (some (q, lq.h)) x al)).modLq p q
              fun l => { l with reserved := l.reserved + 1 })))) ∧
      (s.launch? n = some l → l.total ≤ l.seq → l.alive = 0 →
        ((∀ e ∈ l.alm, e.inFlight = false) →
          ∃ t, exec (.almanacRelease n) s = .next t ∧ t.launch? n = some { l with alm := [], released := true } ∧
            t.pins = s.pins.filter fun e => e.1 ≠ n) ∧
        (l.released = true → s.folded l = true → (s.part l.part).run = .running →
          (∀ e ∈ s.accs, ¬(e.2.task.launch = n ∧ e.2.stores = true)) →
          ∃ t, exec (.launchCompletion n) s = .next t ∧ t.launch? n = none ∧
            t = s.endLaunch n l (if l.unresolved then 0x14 else 0) (bitN (recCtl l.record) 28))))

/-- R351, R353, R354, R357, R359, R360, R398, R399, R413: what a write to a register of the management window does: a
log's tail frees the entries read, a histogram is cleared but for this cc, a trace ring's read index moves up to its
write index, HOLD and PCSEL take their values, a score takes what firmware wrote and what Vigil added at the end of
the cc, and crosses its threshold, an unmasked pending vector is sent once, and a write of the host to a register that
firmware owns is refused and counted. The model's choices: indices count entries and records, and a value that a
register refuses, as a reserved PCSEL, is counted (log 46); HOLD is adopted at the end of the cc (log 50). -/
def Obligations.ManagementRegistersTakeTheirWrites : Prop :=
  ∀ (s : State) (n i v : Nat) (b : Bool) (w : Word) (u : ScoreUnit) (r : MgmtReg),
    (let l := tblGet FLog.empty s.flogs n
     let k := (v + 2 ^ 32 - l.tail) % 2 ^ 32
     1 ≤ k → k ≤ l.entries.length → ∃ t, exec (.faultLogTailWrite n v) s = .next t ∧
       tblGet FLog.empty t.flogs n = { l with entries := l.entries.drop k, tail := v % 2 ^ 32 }) ∧
    (∃ t, exec (.histogramClear n) s = .next t ∧ (t.core n).hist = (s.core n).histNew ∧ (t.core n).histOvf = []) ∧
    ((s.die n).ringR ≤ v → v ≤ (s.die n).ringW →
      ∃ t, exec (.traceRingReadIndex n v) s = .next t ∧ (t.die n).ringR = v) ∧
    (∃ t, exec (.holdWrite n b) s = .next t ∧ (TaskQ.adopt (n, t.tq n)).2.hold = b) ∧
    (pcselOk w = true → i < 16 → ∃ t, exec (.pcselWrite n i w) s = .next t ∧ tblGet 0 (t.core n).pcsel i = w) ∧
    (pcselOk w = false → exec (.pcselWrite n i w) s = .next { s with regErr := s.regErr + 1 }) ∧
    (∃ t, exec (.scoreWrite u v) s = .next t ∧ tblFind t.scoreSet (scoreOf u) = some (v % 65536)) ∧
    (let k := scoreOf u
     let x := Nat.min (v + tblGet 0 s.scoreNew k) 0xFFFF
     let th := if k < 64 then s.dth else s.cth
     s.scoreSet = [(k, v)] → (∀ e ∈ s.scoreNew, e.1 = k) →
       tblGet 0 s.endScores.score k = x ∧
       (tblGet 0 s.score k < th → th ≤ x → s.endScores.causes = s.causes ++ [.score k] ∧
         (tblGet false s.maskV 0 = false → s.endScores.sent = s.sent ++ [0]))) ∧
    (tblGet false s.pend v = true → ∃ t, exec (.vectorUnmask v) s = .next t ∧ tblGet false t.maskV v = false ∧
      tblGet false t.pend v = false ∧ t.sent = s.sent ++ [v]) ∧
    exec (.managementWrite true r) s = .next (s.errEvent ⟨0x740, 0, none, 64, 0, 0⟩) ∧
    (∀ t, s.manage r = some t → exec (.managementWrite false r) s = .next t) ∧
    (s.manage r = none → exec (.managementWrite false r) s = .next { s with regErr := s.regErr + 1 })

/-- R355, R367 to R373, R392, R417: an instance whose count reaches its limit takes WATCHDOG; the halt line reaches
the hub, which takes the cause and leaves RUNNING, and each die, where every cluster of the partition stops; engines
give up the commands of stopped contexts; and a stopped context is removed. -/
def Obligations.HaltsStopAPartition : Prop :=
  ∀ (s : State) (p d n x : Nat),
    (∀ e i, s.deps = [e] → e.insts = [i] → i.core = n → i.ctx = x → s.expired e i = true →
      ((s.core n).ctx x).runs (e.task i) = true →
      exec (.watchdogExpiry n x) s = .next (s.faultTask ⟨n, x, .c⟩ { code := 0x10 })) ∧
    (∀ code di co cx un, (s.part p).first = some (code, di, co, cx, un) →
      ∃ t, exec (.haltLineArrival p none) s = .next t ∧ (t.part p).hubSaw = true ∧ (t.part p).first = none ∧
        ((t.part p).run = .halting ∨ (t.part p).run = .halted) ∧ (t.part p).cause = code ∧ (t.part p).cdie = di ∧
        (t.part p).ccore = co ∧ (t.part p).cctx = cx ∧ (t.part p).cunit = un) ∧
    ((s.part p).first = none → exec (.haltLineArrival p none) s = .next s) ∧
    ((s.part p).line = true → d ∈ (s.part p).dies → p ∉ (s.die d).halt → d ∉ (s.part p).stopDies →
      ∃ t, exec (.haltLineArrival p (some d)) s = .next t ∧ p ∈ (t.die d).halt ∧
        ∀ k task, (s.ctxOf k).task = some task → task.part = p → dieOf k.core = d →
          (t.clu k).run = .stopped) ∧
    (∀ r, (s.core n).mxRun = some r → (∀ u, (s.clu ⟨n, r.cmd.ctx, u⟩).run = .stopped) →
      ∃ t, exec (.engineStop n 4) s = .next t ∧ (t.core n).mxRun = none) ∧
    (∀ id r, (s.core n).cpRun = [(id, r)] → s.cmdStops n r.cmd = true →
      ∃ t, exec (.engineStop n 5) s = .next t ∧ (t.core n).cpRun = []) ∧
    (∀ r, (s.core n).rmRun = [r] → s.cmdStops n r.cmd = true →
      ∃ t, exec (.engineStop n 6) s = .next t ∧ (t.core n).rmRun = []) ∧
    (s.removable ⟨n, x, .c⟩ = true →
      ∃ t, exec (.contextRemoval n x) s = .next t ∧ ((t.core n).ctx x).task = none ∧
        ∀ m ∈ (t.core n).mxq, m.ctx ≠ x)

/-- R381 to R385, R390: a cluster at its trap point traps with the record of its pc; the image of a context whose
clusters have trapped is written for the CTXSAVE that waits, which releases at DEVICE scope, and its context is free;
a debug-stopped context's image goes to the stop area once its direct-path loads have been served. -/
def Obligations.PreemptedContextsAreSaved : Prop :=
  ∀ (s : State) (k r : Who) (a : Word) (n x : Nat),
    (s.trapsNow k = true →
      ∃ t, exec (.preemptionTrap k) s = .next t ∧ (t.clu k).run = .trapped ∧ (t.clu k).pc = (s.clu k).pc ∧
        (t.clu k).stop.kind = 6 ∧ (t.clu k).stop.pc = (s.clu k).pc) ∧
    (s.saver n x = some (r, a) → s.allTrapped ⟨n, x, .c⟩ = true →
      (s.landRows ⟨n, x, .c⟩).savable ⟨n, x, .c⟩ = true → (s.landRows ⟨n, x, .c⟩).pastDone ⟨n, x, .c⟩ = true →
      ((s.landRows ⟨n, x, .c⟩).release r 2).isSome = true →
      ∃ t, exec (.savedImageWrite n x) s = .next t ∧ ((t.core n).ctx x).task = none ∧ (t.clu r).answer = some 0) ∧
    (((s.core n).ctx x).task.isSome = true → ((s.core n).ctx x).frozen = true → ((s.core n).ctx x).dumped = false →
      (∀ e ∈ s.accs, s.ofCtx ⟨n, x, .c⟩ e.2 = true → ∀ f c, e.2.kind ≠ .direct f c) →
      ∃ t, exec (.stopAreaWrite n x) s = .next t ∧ ((t.core n).ctx x).dumped = true)

/-- R364, R388, R393, R406, R408: a gating commits once the core's trace records are out, or at once when forced; a
gated core that a wake message has reached is powered again; a clock skip makes a die miss one cc; a thermal trip
raises the lines of the running partitions of its island and takes its dies' power; the standby hub takes over. -/
def Obligations.PowerAndClockEvents : Prop :=
  ∀ (s : State) (n d i : Nat) (force : Bool),
    ((s.core n).power = .gating force →
      (force = true ∨ ∀ r ∈ (s.die (dieOf n)).trace, r.ofCore n = false) →
      ∃ t, exec (.powerGateCommit n) s = .next t ∧ (t.core n).power = .off) ∧
    ((s.core n).power = .off → (s.core n).wake = true →
      ∃ t, exec (.powerUp n) s = .next t ∧ (t.core n).power = .on ∧ (t.core n).wake = false) ∧
    (s.hasDie d = true → d + 64 ∉ s.skip → (d ∈ s.skip → tblGet 0 s.skipRun d < 14) →
      ∃ t, exec (.clockSkip d) s = .next t ∧ d ∈ nextSkip t.skip ∧ ∀ e, e ∈ nextSkip s.skip → e ∈ nextSkip t.skip) ∧
    (∃ t, exec (.thermalTrip i) s = .next t ∧ (∀ e ∈ s.islandDies i, (t.die e).power = false) ∧
      ∀ k ∈ s.contexts, dieOf k.core ∈ s.islandDies i → (s.part (s.taskOf k).part).run = .running →
        (t.part (s.taskOf k).part).line = true) ∧
    (s.hubActive = 0 → ∃ t, exec .hubTakeover s = .next t ∧ t.hubActive = 1)

/-- R400, R402 to R405, R418: power-on takes the straps and resets the device, and a strap setting of no form, or not
of the form the assembly is fused to, holds it in Stage 0; each stage follows the one before: Stage 0 gives partition
0 die 0 and the task queues, Stage 1 runs firmware that verifies and takes the valid copy of the record with the
greater update count, Stage 2 leaves the rest of HBM and the shared array zero, Stage 3 gives the device its
identifier and its links; a stage that fails leaves the stage before it. The model's choices: memory reads under the new
identifier as before Stage 3 (log 47), and the straps are checked against one fused form, with the state after power-on
that of reset (log 67). -/
def Obligations.TheDeviceStartsInStages : Prop :=
  ∀ (s : State) (f : BitVec 2) (b g : Bool) (r : ConfigRecord) (dev dth cth : Nat),
    (f ≠ 3 → f = Config.fusedForm → exec (.powerOnReset f b g) s = .next { State.reset with
      agenda := s.agenda, free := s.free, scan := 1024, bootMbx := b, dbg := g, flashA := s.flashA, flashB := s.flashB,
      form := f }) ∧
    (f = 3 ∨ f ≠ Config.fusedForm → ∃ t, exec (.powerOnReset f b g) s = .next t ∧ t.strapErr = true ∧ t.stage = 0) ∧
    (s.stage = 0 → s.strapErr = false →
      ∃ t, exec .stage0 s = .next t ∧ t.stage = 1 ∧ (t.part 0).dies = [0] ∧ ∀ q, q < 64 → (t.tq q).part = some 0) ∧
    (s.stage = 1 → (if s.bootMbx then s.fwLoaded else g) = true → s.record? = some (r, b) → s.mapWaits r = false →
      ∃ t, exec (.stage1 ⟨g, dth, cth⟩) s = .next t ∧ t.stage = 2 ∧ t.seeds = r.erasures ∧ t.retired = r.retired ∧
        t.trims = r.trims ∧ t.flashUse = b ∧ t.dth = dth % 65536 ∧ t.cth = cth % 65536 ∧
        ∀ k v, r.spares = [(k, v)] → tblFind t.spare k = some v) ∧
    (s.stage = 1 → ((if s.bootMbx then s.fwLoaded else g) = false ∨ (s.flashA.valid = false ∧ s.flashB.valid = false)) →
      exec (.stage1 ⟨g, dth, cth⟩) s = .next s) ∧
    (s.flashA.valid = true → s.flashB.valid = true →
      (s.flashA.count < s.flashB.count → s.record? = some (s.flashB, true)) ∧
      (s.flashB.count < s.flashA.count → s.record? = some (s.flashA, false))) ∧
    (s.stage = 2 →
      ∃ t, exec .stage2 s = .next t ∧ t.stage = 3 ∧
        ∀ a, (s.devId * 2 ^ 53 + 2 ^ 32 ≤ a ∧ a < s.devId * 2 ^ 53 + 2 ^ 40) ∨
          (s.devId * 2 ^ 53 + 2 ^ 50 ≤ a ∧ a < s.devId * 2 ^ 53 + 2 ^ 50 + 2 ^ 31) → t.mem.read a = 0) ∧
    (s.stage = 3 → dev < 1024 →
      exec (.stage3 dev false) s = .next s ∧
      ∃ t, exec (.stage3 dev true) s = .next t ∧ t.stage = 4 ∧ t.devId = dev ∧ t.fabric = true ∧ t.nseq = [] ∧
        t.windows = [] ∧ (s.devId = 0 → ∀ a, a < 2 ^ 53 → t.mem.read (dev * 2 ^ 53 + a) = s.mem.read a))

/-- R209, R212, R213, R215, R344, R348, R349, R360, R362, R397, R401, R405: what keeps the memories and serves the
host: a swap of two rows (activations count at the physical row that the table gives), a scrub and a rewrite that
correct, a trace record that goes to its ring, RDMA, a mailbox request with its reply, a frame check failure that is
counted. The model's choices: a swap below the threshold does nothing, and which activations count (log 16), and the
vector of a mailbox reply (log 46). -/
def Obligations.UpkeepAndHostTraffic : Prop :=
  ∀ (s : State) (n a b : Nat) (bytes : List Byte) (m : MailboxReq) (th : Nat),
    (let old (r : Nat) : Nat := tblGet r (tblGet [] s.rowInd n) r
     tblFind s.swapThr n = some th → th ≤ tblGet 0 s.acts (n * 2 ^ 20 + s.physRow n a) →
     (tblGet [] s.rowInd n).length + 2 ≤ 1024 → a ≠ b →
      ∃ t, exec (.rowSwap n a b) s = .next t ∧
        (let new (r : Nat) : Nat := tblGet r (tblGet [] t.rowInd n) r
         new a = old b ∧ new b = old a ∧ ∀ r, r ≠ a → r ≠ b → new r = old r) ∧
        tblGet 0 t.swaps n = (tblGet 0 s.swaps n + 1) % 2 ^ 32) ∧
    (tblFind s.swapThr n = some th → tblGet 0 s.acts (n * 2 ^ 20 + s.physRow n a) < th → exec (.rowSwap n a b) s = .next s) ∧
    (tblFind s.swapThr n = some th → th ≤ tblGet 0 s.acts (n * 2 ^ 20 + s.physRow n a) → 1024 ≤ (tblGet [] s.rowInd n).length →
      ∃ t, exec (.rowSwap n a b) s = .next t ∧ t.rowInd = s.rowInd ∧ t.swaps = s.swaps ∧
        ∃ e, t.errEvts = s.errEvts ++ [e] ∧ e.kind = some 8) ∧
    (let sa := s.devId * 2 ^ 53 + 2 ^ 50 + 4 * (n % 2 ^ 29)
     ∀ c, eccDecode (tblGet 0 s.shaSyn (sa / 4)) = .fix c →
      ∃ t, exec (.scrub n) s = .next t ∧ tblFind t.shaSyn (sa / 4) = none ∧
        t.mem.readN sa 4 = match c with | some i => s.mem.readN sa 4 ^^^ 2 ^ i | none => s.mem.readN sa 4) ∧
    (n ∈ s.rewrite → s.lineState n = some true →
      ∃ t, exec (.correctedLineRewrite n) s = .next t ∧ tblFind t.hbmErr n = none ∧ n ∉ t.rewrite ∧ t.mem = s.mem) ∧
    (∀ r rest, (s.die n).trace = r :: rest → (s.die n).ringW - (s.die n).ringR < (s.die n).ringSize / 32 →
      ∃ t, exec (.traceDrain n) s = .next t ∧ (t.die n).trace = rest ∧ (t.die n).ringW = (s.die n).ringW + 1) ∧
    (s.rdmaUp = false → exec (.rdmaWrite a bytes) s = .next s ∧ exec (.rdmaRead a b) s = .next s) ∧
    (s.rdmaUp = true → s.rdmaOk a bytes.length = true →
      exec (.rdmaWrite a bytes) s = .next (s.performOp none (.write a bytes)).1) ∧
    (s.rdmaUp = true → s.rdmaOk a bytes.length = false →
      exec (.rdmaWrite a bytes) s = .next { s with rdmaErr := s.rdmaErr + 1 }) ∧
    (s.rdmaUp = true → s.rdmaOk a b = true →
      let r := (partsOf a b).foldl (fun (r : State × Bool) p => ((r.1.rdmaPart p.1 p.2).1, r.2 || (r.1.rdmaPart p.1 p.2).2))
        (s, false)
      exec (.rdmaRead a b) s = .next (if r.2 then r.1.rdmaBad else r.1) ∧
      (saLevel a = 0 → 1 ≤ b → a % 64 + b ≤ 64 → s.lineState (a / 64 * 64) = none → a / 64 * 64 ∉ s.hbmPois →
        s.swapThr = [] → r = (s, false))) ∧
    (s.rdmaUp = true → s.rdmaOk a b = false → exec (.rdmaRead a b) s = .next { s with rdmaErr := s.rdmaErr + 1 }) ∧
    (s.stage ≠ 0 →
      (∀ t, s.request m = some t →
        exec (.mailboxRequest ⟨n, m⟩) s =
          .next (({ t with mailbox := t.mailbox ++ [(n, true)] } : State).interrupt (1 + n % 15))) ∧
      (s.request m = none →
        exec (.mailboxRequest ⟨n, m⟩) s =
          .next (({ s with mailbox := s.mailbox ++ [(n, false)] } : State).interrupt (1 + n % 15)))) ∧
    exec (.frameCheckFailure n) s = .next (s.errEvent ⟨0x750 + n % 16, 0, none, 64, 0, 0⟩)

/-- R62 to R79, R82: the words that the encoder writes for a well-formed instruction decode to it, and to no more words
than it wrote. -/
def Obligations.EncodedInstructionsDecodeToThemselves : Prop :=
  ∀ i : Instr, i.WellFormed → ∃ ws, encode i = some ws ∧ decodeGroup ws = .ok (i, ws.length)

/-- Tables 3.1, 3.4, 3.5 and 3.8 to 3.14: words written out bit by bit, one of each unit, and a word with both leading
words. -/
def Obligations.WordsOfEachUnitDecode : Prop :=
  let h : Hdr := ⟨0, 0, 0, 0⟩
  decodeGroup [0b00000000000000001000100001000011#32] = .ok (.add h 2 2 3, 1) ∧
  decodeGroup [0b00110110110101001000001000100010#32] = .ok (.stg ⟨1, 1, 2, 3⟩ 0 17 2, 1) ∧
  decodeGroup [0b01000000000000100000100001000011#32] = .ok (.fsub h none 0 2 2 3, 1) ∧
  decodeGroup [0b01100000000000010111000000000000#32] = .ok (.mzero h 7, 1) ∧
  decodeGroup [0b10000000000001000000100001000011#32] = .ok (.cpy h 2 2 3, 1) ∧
  decodeGroup [0b10100000000000100000000000000000#32] = .ok (.chkerr h, 1) ∧
  decodeGroup [0b11000000000001001000000001100000#32] = .ok (.wake h 3, 1) ∧
  decodeGroup [0b11100000000000000000000000000001#32, 0b11110101000000000000000000000000#32,
    0b01000000001010111000110000000111#32] = .ok (.vli h (some 1) (some ⟨2, 1, 0, 0, 0⟩) 3 7, 3)

/-- R25, R63, R70, R381: a schedule cycle of a cluster whose next words decode to an instruction executes it, in the
state in which the cycle has begun; a step in which the slot table gives the cc to the cluster's context, or in which
that context is the next ready one of an open slot, is such a cycle and goes on to the next position. The order in
which positions act within a cc is the model's choice (log 4). -/
def Obligations.AStepRunsTheDecodedInstruction : Prop :=
  ∀ (s : State) (k : Who) (i : Instr),
    (let b := (s.beginSc k).drainLoop k
     (s.clu k).run = .run → (s.clu k).gap = 0 → (b.clu k).drained = none → b.nextGroup k = .ok i →
      s.runSc k = (match exec i b with | .next t => .next (t.countStall k) | o => o) ∧
      (∀ t, exec i b = .next t → (t.clu k).wait = none → s.runSc k = .next t)) ∧
    ((s.clu k).drained = none → ((s.beginSc k).drainLoop k).nextGroup k = s.nextGroup k) ∧
    (s.scan < 1024 → k.core = s.scan / 4 → k.clu = Clu.at (s.scan % 4) → dieOf k.core ∉ s.skip →
      (s.core k.core).power ≠ .off → (s.die (dieOf k.core)).power = true →
      (∀ x, x < 4 → (s.ctxOf ⟨k.core, x, k.clu⟩).syncGo = false) →
      (s.scan % 4 = 0 → ∀ x u va, x < 4 → s.nextGroup ⟨k.core, x, u⟩ ≠ .miss va) →
      let p := (List.range 4).foldl (fun s x => s.presents ⟨k.core, x, k.clu⟩) s
      (k.ctx = (s.core k.core).slotNow → k.ctx < 4 → s.awake k = true → (s.clu k).away = false →
        (s.scan % 4 = 0 → s.syncReady k = false) →
        step s = advance (s.runSc k)) ∧
      (4 ≤ (s.core k.core).slotNow → (s.scan % 4 = 0 → ∀ x, x < 4 → p.syncReady ⟨k.core, x, k.clu⟩ = false) →
        ((ringFrom (tblGet 3 (p.core k.core).rr (s.scan % 4))).find? fun x => p.canIssue ⟨k.core, x, k.clu⟩) =
          some k.ctx →
        step s = advance ((p.modCore k.core fun c => { c with rr := tblPut c.rr (s.scan % 4) k.ctx }).runSc k))) ∧
    (∀ l (w : W32), let t := s.taskOf k
      let pc := (s.clu k).pc.toNat
      (s.clu k).out = false → pc % 4 = 0 → t.snap.codeOff ≤ pc → pc + 4 ≤ t.snap.codeOff + t.snap.codeSize →
      tblFind (s.core k.core).icache (lineKey t (t.snap.img + pc)) = some l →
      w = BitVec.ofNat 32 (natOfBytes ((l.drop ((t.snap.img + pc) % 64)).take 4)) → W32.isImm w = false →
      W32.isMod w = false → decodeGroup [w] = .ok (i, 1) → s.nextGroup k = .ok i)

/-- The memory of the device, every frame store and every scratchpad keep their canonical form, so that equal contents
are equal lists: a design of the model (log 51), kept by every step from every state that has it. -/
def Obligations.EveryStepKeepsMemoriesCanonical : Prop :=
  ∀ s t : State, s.memWf = true → step s = .next t → t.memWf = true

/-- R96, R353 to R356, R402, R404, R407, R413, Table 12.1: what power-on reset leaves: nothing in memory, no task,
BCNT of 16, scores of 0, thresholds of 0xFFFF, a watchdog limit of 0x10_0000 and no HOLD, counters of 0, no stage
done. Empty memory (log 1), empty queues and tables, and cores and contexts with nothing in them (logs 2 and 9) are the
model's choices. -/
def Obligations.ResetLeavesTheValuesOfTheSpec : Prop :=
  let s := State.reset
  s.memWf = true ∧ s.mem = [] ∧ s.stage = 0 ∧ s.retired = [] ∧ s.launches = [] ∧ s.deps = [] ∧ s.hubActive = 0 ∧
  s.dth = 0xFFFF ∧ s.cth = 0xFFFF ∧
  (∀ k, (s.ctxOf k).task = none) ∧ (∀ d b, (s.die d).barCount b = 16 ∧ (s.die d).arrivers b = []) ∧
  (∀ d, (s.die d).dcc = 0 ∧ (s.die d).discarded = 0 ∧ (s.die d).lostRec = 0) ∧
  (∀ q, (s.tq q).wl = 0x100000 ∧ (s.tq q).hold = false) ∧
  (∀ k, tblGet 0 s.score k = 0 ∧ tblGet 0 s.errCnt k = 0) ∧
  (∀ n, (s.core n).mxq = [] ∧ (s.core n).cpq = [] ∧ (s.core n).rmq = [] ∧ (s.core n).coq = [])

/-- R71, R366 to R368, R370, R372, R416: taking a precise fault: the cluster stops with its pc, the code, the task and
the unit in its record and no register or byte changed; the partition's line is raised, but for a CHECK_FAIL in a
protected class, which stops the clusters of its context instead. -/
def Obligations.PreciseFaultsStopTheirCluster : Prop :=
  ∀ (s : State) (f : FaultInfo), s.me.run = .run → s.myCtx.task.isSome = true →
    (s.precise f).me.run = .stopped ∧ (s.precise f).me.pc = s.me.pc ∧
    (s.precise f).me.stop.code = f.code ∧ (s.precise f).me.stop.kind = 1 ∧
    (s.precise f).me.stop.unit = s.cur.clu.num ∧ (s.precise f).me.stop.pc = s.me.pc ∧
    (s.precise f).me.stop.task = s.myTask.tid ∧ (s.precise f).me.stop.addr = f.addr ∧
    (s.precise f).me.stop.brpc = f.brpc ∧
    s.KeepsRegs (s.precise f) ∧ s.KeepsBytes (s.precise f) ∧
    ((f.code ≠ 0x0C ∨ s.myTask.cls = 0) → (s.part s.myTask.part).run = .running →
      ((s.precise f).part s.myTask.part).line = true) ∧
    (f.code = 0x0C → s.myTask.cls ≠ 0 →
      (∀ u, ((s.precise f).clu { s.cur with clu := u }).run = .stopped) ∧
      ∀ p, ((s.precise f).part p).run = (s.part p).run)

/-- R26: whatever becomes of a word of unit SC, CK, EN or MX in the sc in which it is executed (it issues, stalls or
faults), no register of any cluster, no view, flag or barrier count, and no byte of any memory changes in it: results
land later. -/
def Obligations.ScalarCheckEngineWordsChangeNoRegisterAtOnce : Prop :=
  ∀ (s t : State) (i : Instr), i.unit? = some .sc ∨ i.unit? = some .ck ∨ i.unit? = some .en ∨ i.unit? = some .mx →
    exec i s = .next t → s.KeepsRegs t ∧ s.KeepsBytes t

/-- R26: the same of a word of unit VE; a word of unit AC changes no byte of a frame store in it, no view, flag or
barrier count, and no register but those of clusters with an atomic in flight, which an access of the same row finds
before it (R233; as its stores, and the stores that it finds before it, change memories). -/
def Obligations.VectorAndAddressWordsChangeNoRegisterAtOnce : Prop :=
  ∀ (s t : State) (i : Instr), exec i s = .next t →
    (i.unit? = some .ve → s.KeepsRegs t ∧ s.KeepsBytes t) ∧
    (i.unit? = some .ac → s.KeepsSettledRegs t ∧ ∀ n a, (t.core n).frame.read a = (s.core n).frame.read a)

/-- R126, R127: SETRM sets RMODE, and SEED sets RNGSEED, RNGSTREAM and RNGCTR of the issuing cluster's generator and
of no other, 1 sc after issue; SEED with a nonzero b[63:32] raises ILLEGAL_WORD; a word whose unused bits are not zero
is no instruction. The cluster of the landing clauses has this one result in flight. -/
def Obligations.SeedsAndRoundingModesAreSet : Prop :=
  ∀ (s : State) (k : Who) (h : Hdr) (a b : BitVec 5) (m : BitVec 2) (x y : Word) (n : Nat) (w : W32),
    (s.Issues (.setrm h m) h →
      exec (.setrm h m) s = .next (s.issued (.setrm h m) h .latency
        ((s.taken h).modMe fun c => { c with dl := c.dl ++ [⟨c.sc + 1, c.sc + 1, [.spec 1 (m.zeroExtend 64)], 31⟩] }) .seq)) ∧
    (s.Issues (.seed h a b) h → (s.me.sreg b.toNat).toNat < 2 ^ 32 →
      exec (.seed h a b) s = .next (s.issued (.seed h a b) h .latency
        ((s.taken h).modMe fun c => { c with dl := c.dl ++ [⟨c.sc + 1, c.sc + 1,
          [.spec 2 (s.me.sreg a.toNat), .spec 3 (s.me.sreg b.toNat), .spec 4 0], 31⟩] }) .seq)) ∧
    (s.Issues (.seed h a b) h → 2 ^ 32 ≤ (s.me.sreg b.toNat).toNat →
      exec (.seed h a b) s = .next (s.precise { code := 1 })) ∧
    ((s.clu k).dl = [⟨n + 1, n + 1, [.spec 1 (m.zeroExtend 64)], 31⟩] →
      ((s.clu k).sc ≤ n → s.landDue k = s) ∧
      ((s.clu k).sc = n + 1 → ((s.landDue k).clu k).rmode = m ∧ ((s.landDue k).clu k).dl = [])) ∧
    ((s.clu k).dl = [⟨n + 1, n + 1, [.spec 2 x, .spec 3 y, .spec 4 0], 31⟩] →
      ((s.clu k).sc ≤ n → s.landDue k = s) ∧
      ((s.clu k).sc = n + 1 →
        ((s.landDue k).clu k).seed = x ∧ ((s.landDue k).clu k).stream = y.truncate 32 ∧
        ((s.landDue k).clu k).ctr = 0 ∧
        ∀ j, j ≠ k → ((s.landDue k).clu j).seed = (s.clu j).seed ∧
          ((s.landDue k).clu j).stream = (s.clu j).stream ∧ ((s.landDue k).clu j).ctr = (s.clu j).ctr)) ∧
    (w.fld 29 3 = 0 → w.fld 15 7 = 0x4A → w.fld 2 13 ≠ 0 → decodeGroup [w] = .error .unusedBits) ∧
    (w.fld 29 3 = 0 → w.fld 15 7 = 0x4B → w.fld 10 5 ≠ 0 → decodeGroup [w] = .error .unusedBits) ∧
    (w.fld 29 3 = 0 → w.fld 15 7 = 0x4A → w.fld 2 13 = 0 →
      decodeGroup [w] = .ok (.setrm (decodeHdr w) (w.fld 0 2), 1)) ∧
    (w.fld 29 3 = 0 → w.fld 15 7 = 0x4B → w.fld 10 5 = 0 →
      decodeGroup [w] = .ok (.seed (decodeHdr w) (w.fld 5 5) (w.fld 0 5), 1))

/-- R106, R108: the divisions and remainders, in class 2, with their values for a divisor of 0 and for -2^63 / -1 (where
DIVS also sets the saturation bit of CIR); BFX and BFI, in class 0, with a field that ends at bit 63; none of them
faults. -/
def Obligations.DivisionsAndBitFieldsFollowTheirRules : Prop :=
  ∀ (s : State) (h : Hdr) (d a b : BitVec 5) (w : W32) (v : Word),
    let x := s.me.sreg a.toNat
    let y := s.me.sreg b.toNat
    let pos := y.toNat % 64
    let len := min (y.toNat / 64 % 128) (64 - pos)
    (s.Issues (.divn h d a b) h → exec (.divn h d a b) s = .next (s.gives (.divn h d a b) h 2 [.scal d.toNat
      (if y.toNat = 0 then 0xFFFFFFFFFFFFFFFF#64 else BitVec.ofNat 64 (x.toNat / y.toNat))])) ∧
    (s.Issues (.remn h d a b) h → exec (.remn h d a b) s = .next (s.gives (.remn h d a b) h 2 [.scal d.toNat
      (if y.toNat = 0 then 0xFFFFFFFFFFFFFFFF#64
        else BitVec.ofNat 64 (x.toNat - y.toNat * (x.toNat / y.toNat)))])) ∧
    (s.Issues (.divs h d a b) h → exec (.divs h d a b) s = .next (s.gives (.divs h d a b) h 2
      (if y.toInt = 0 then [.scal d.toNat 0x8000000000000000#64]
        else if x.toInt = -2 ^ 63 ∧ y.toInt = -1 then [.scal d.toNat 0x7FFFFFFFFFFFFFFF#64, .cir 4]
        else [.scal d.toNat (BitVec.ofInt 64 (x.toInt.tdiv y.toInt))]))) ∧
    (s.Issues (.rems h d a b) h → exec (.rems h d a b) s = .next (s.gives (.rems h d a b) h 2 [.scal d.toNat
      (if y.toInt = 0 then 0xFFFFFFFFFFFFFFFF#64
        else if x.toInt = -2 ^ 63 ∧ y.toInt = -1 then 0
        else BitVec.ofInt 64 (x.toInt - y.toInt * x.toInt.tdiv y.toInt))])) ∧
    (s.Issues (.bfx h d a b) h → (∀ j, j < 64 → v.getLsbD j = (decide (j < len) && x.getLsbD (pos + j))) →
      exec (.bfx h d a b) s = .next (s.gives (.bfx h d a b) h 0 [.scal d.toNat v])) ∧
    (s.Issues (.bfi h d a b) h →
      (∀ j, j < 64 → v.getLsbD j =
        if pos ≤ j ∧ j < pos + len then x.getLsbD (j - pos) else (s.me.sreg d.toNat).getLsbD j) →
      exec (.bfi h d a b) s = .next (s.gives (.bfi h d a b) h 0 [.scal d.toNat v])) ∧
    (w.fld 29 3 = 0 →
      (w.fld 15 7 = 0x06 → decodeGroup [w] = .ok (.divs (decodeHdr w) (w.fld 10 5) (w.fld 5 5) (w.fld 0 5), 1)) ∧
      (w.fld 15 7 = 0x07 → decodeGroup [w] = .ok (.divn (decodeHdr w) (w.fld 10 5) (w.fld 5 5) (w.fld 0 5), 1)) ∧
      (w.fld 15 7 = 0x08 → decodeGroup [w] = .ok (.rems (decodeHdr w) (w.fld 10 5) (w.fld 5 5) (w.fld 0 5), 1)) ∧
      (w.fld 15 7 = 0x09 → decodeGroup [w] = .ok (.remn (decodeHdr w) (w.fld 10 5) (w.fld 5 5) (w.fld 0 5), 1)) ∧
      (w.fld 15 7 = 0x18 → decodeGroup [w] = .ok (.bfx (decodeHdr w) (w.fld 10 5) (w.fld 5 5) (w.fld 0 5), 1)) ∧
      (w.fld 15 7 = 0x19 → decodeGroup [w] = .ok (.bfi (decodeHdr w) (w.fld 10 5) (w.fld 5 5) (w.fld 0 5), 1)))

/-- R107, R113: CLZ sets d to the number of leading zero bits of a, from 0 to 64, and POPC to the number of its one
bits; PAND, POR and PXOR set a predicate to the AND, OR and XOR of two predicates, so that PXOR with p0 inverts; all
in class 0. Their words, and words with an unused bit that is not zero, which are no instruction. -/
def Obligations.CountsAndPredicatesFollowTheirRules : Prop :=
  ∀ (s : State) (h : Hdr) (d a : BitVec 5) (dp ap bp : BitVec 3) (n : Nat) (w : W32),
    let x := s.me.sreg a.toNat
    (s.Issues (.clz h d a) h → n ≤ 64 → (∀ j, 64 - n ≤ j → j < 64 → x.getLsbD j = false) →
      (n < 64 → x.getLsbD (63 - n) = true) →
      exec (.clz h d a) s = .next (s.gives (.clz h d a) h 0 [.scal d.toNat (BitVec.ofNat 64 n)])) ∧
    (s.Issues (.popc h d a) h → n = ((List.range 64).filter fun j => x.getLsbD j).length →
      exec (.popc h d a) s = .next (s.gives (.popc h d a) h 0 [.scal d.toNat (BitVec.ofNat 64 n)])) ∧
    (s.Issues (.pand h dp ap bp) h → exec (.pand h dp ap bp) s = .next (s.gives (.pand h dp ap bp) h 0
      [.pred dp.toNat (s.me.preg ap.toNat && s.me.preg bp.toNat)])) ∧
    (s.Issues (.por h dp ap bp) h → exec (.por h dp ap bp) s = .next (s.gives (.por h dp ap bp) h 0
      [.pred dp.toNat (s.me.preg ap.toNat || s.me.preg bp.toNat)])) ∧
    (s.Issues (.pxor h dp ap bp) h → exec (.pxor h dp ap bp) s = .next (s.gives (.pxor h dp ap bp) h 0
      [.pred dp.toNat (s.me.preg ap.toNat != s.me.preg bp.toNat)])) ∧
    (s.Issues (.pxor h dp ap 0) h → exec (.pxor h dp ap 0) s = .next (s.gives (.pxor h dp ap 0) h 0
      [.pred dp.toNat (!s.me.preg ap.toNat)])) ∧
    (w.fld 29 3 = 0 → w.fld 13 2 = 0 → w.fld 8 2 = 0 → w.fld 3 2 = 0 →
      (w.fld 15 7 = 0x2A → decodeGroup [w] = .ok (.pand (decodeHdr w) (w.fld 10 3) (w.fld 5 3) (w.fld 0 3), 1)) ∧
      (w.fld 15 7 = 0x2B → decodeGroup [w] = .ok (.por (decodeHdr w) (w.fld 10 3) (w.fld 5 3) (w.fld 0 3), 1)) ∧
      (w.fld 15 7 = 0x2C → decodeGroup [w] = .ok (.pxor (decodeHdr w) (w.fld 10 3) (w.fld 5 3) (w.fld 0 3), 1))) ∧
    (w.fld 29 3 = 0 → w.fld 0 5 = 0 →
      (w.fld 15 7 = 0x16 → decodeGroup [w] = .ok (.clz (decodeHdr w) (w.fld 10 5) (w.fld 5 5), 1)) ∧
      (w.fld 15 7 = 0x17 → decodeGroup [w] = .ok (.popc (decodeHdr w) (w.fld 10 5) (w.fld 5 5), 1))) ∧
    (w.fld 29 3 = 0 → (w.fld 15 7 = 0x2A ∨ w.fld 15 7 = 0x2B ∨ w.fld 15 7 = 0x2C) →
      (w.fld 13 2 ≠ 0 ∨ w.fld 8 2 ≠ 0 ∨ w.fld 3 2 ≠ 0) → decodeGroup [w] = .error .unusedBits) ∧
    (w.fld 29 3 = 0 → (w.fld 15 7 = 0x16 ∨ w.fld 15 7 = 0x17) → w.fld 0 5 ≠ 0 →
      decodeGroup [w] = .error .unusedBits)
end

