-- ==== Sys2Proof/Laws/Tables.lean ====
section
/-! SUPPORT. Sparse tables and memory bytes: what a read finds after a write, and that every memory operation keeps
the canonical form. -/

namespace Sys2Proof.Machine

@[simp] theorem tblFind_tblPut {α : Type} (t : Tbl α) (k j : Nat) (v : α) :
    tblFind (tblPut t k v) j = if j = k then some v else tblFind t j := by
  induction t with
  | nil => simp [tblPut, tblFind]
  | cons e r ih =>
    obtain ⟨k', v'⟩ := e
    unfold tblPut
    split
    · subst_vars; simp only [tblFind]; split <;> rfl
    · split
      · simp only [tblFind]
      · rename_i h _
        simp only [tblFind, ih]
        by_cases g : j = k'
        · subst g
          rw [if_pos rfl, if_neg (fun e => h e.symm), if_pos rfl]
        · rw [if_neg g, if_neg g]

@[simp] theorem tblFind_tblErase {α : Type} (t : Tbl α) (k j : Nat) :
    tblFind (tblErase t k) j = if j = k then none else tblFind t j := by
  induction t with
  | nil => simp [tblErase, tblFind]
  | cons e r ih =>
    obtain ⟨k', v'⟩ := e
    unfold tblErase
    split
    · rename_i h
      subst h
      rw [ih]
      by_cases g : j = k
      · rw [if_pos g, if_pos g]
      · rw [if_neg g, if_neg g, tblFind, if_neg g]
    · rename_i h
      simp only [tblFind, ih]
      by_cases g : j = k'
      · subst g
        rw [if_pos rfl, if_neg (fun e => h e.symm), if_pos rfl]
      · rw [if_neg g, if_neg g]

@[simp] theorem tblGet_tblPut {α : Type} (d : α) (t : Tbl α) (k j : Nat) (v : α) :
    tblGet d (tblPut t k v) j = if j = k then v else tblGet d t j := by
  unfold tblGet; rw [tblFind_tblPut]; split <;> rfl

@[simp] theorem tblGet_tblErase {α : Type} (d : α) (t : Tbl α) (k j : Nat) :
    tblGet d (tblErase t k) j = if j = k then d else tblGet d t j := by
  unfold tblGet; rw [tblFind_tblErase]; split <;> rfl

/-- A written byte reads back; every other byte is as it was. -/
@[simp] theorem Mem.read_write (m : Mem) (a j : Nat) (b : Byte) :
    (m.write a b).read j = if j = a then b else m.read j := by
  unfold Mem.write Mem.read
  split
  · rw [tblGet_tblErase]; subst_vars; rfl
  · rw [tblGet_tblPut]

/-- Byte j of n bytes written from address a is digit j of the number; the others are as they were. -/
theorem Mem.read_writeN (n : Nat) : ∀ (m : Mem) (a j v : Nat),
    (m.writeN a n v).read j = if a ≤ j ∧ j < a + n then BitVec.ofNat 8 (v / 256 ^ (j - a)) else m.read j := by
  induction n with
  | zero =>
    intro m a j v
    have h : ¬(a ≤ j ∧ j < a + 0) := by omega
    rw [if_neg h]; rfl
  | succ n ih =>
    intro m a j v
    simp only [Mem.writeN, ih, Mem.read_write]
    by_cases h : j = a
    · subst h
      have g : ¬(j + 1 ≤ j ∧ j < j + 1 + n) := by omega
      rw [if_neg g, if_pos rfl, if_pos (by omega), Nat.sub_self, Nat.pow_zero, Nat.div_one]
    · by_cases g : a ≤ j ∧ j < a + (n + 1)
      · have e : j - a = (j - (a + 1)) + 1 := by omega
        have g' : a + 1 ≤ j ∧ j < a + 1 + n := by omega
        rw [if_pos g, if_pos g', e, Nat.pow_succ', Nat.div_div_eq_div_mul]
      · have g' : ¬(a + 1 ≤ j ∧ j < a + 1 + n) := by omega
        rw [if_neg g', if_neg g, if_neg h]

/-- Bytes outside a written block are as they were. -/
theorem Mem.read_writeBytes (l : List Byte) : ∀ (m : Mem) (a j : Nat), ¬(a ≤ j ∧ j < a + l.length) →
    (m.writeBytes a l).read j = m.read j := by
  induction l with
  | nil => intro m a j _; rfl
  | cons b r ih =>
    intro m a j h
    simp only [List.length_cons] at h
    rw [Mem.writeBytes, ih _ _ _ (by omega), Mem.read_write, if_neg (by omega)]

/-- Every listed address is above k. -/
def Mem.above (k : Nat) (m : Mem) : Prop := ∀ e ∈ m, k < e.1

theorem Mem.wf_cons (a : Nat) (b : Byte) (r : Mem) :
    Mem.wf ((a, b) :: r) = true ↔ b ≠ unlistedByte ∧ Mem.above a r ∧ Mem.wf r = true := by
  induction r generalizing a b with
  | nil => simp [Mem.wf, Mem.above]
  | cons e r ih =>
    obtain ⟨a', b'⟩ := e
    have h := ih a' b'
    constructor
    · intro w
      simp only [Mem.wf, Bool.and_eq_true, bne_iff_ne, decide_eq_true_eq] at w
      obtain ⟨⟨hb, hl⟩, w'⟩ := w
      obtain ⟨_, ha, _⟩ := h.1 w'
      refine ⟨hb, ?_, w'⟩
      intro e he
      rcases List.mem_cons.1 he with rfl | he
      · exact hl
      · have := ha e he; omega
    · rintro ⟨hb, ha, w⟩
      simp only [Mem.wf, Bool.and_eq_true, bne_iff_ne, decide_eq_true_eq]
      exact ⟨⟨hb, ha (a', b') (List.mem_cons_self ..)⟩, w⟩

theorem mem_tblErase {α : Type} (t : Tbl α) (k : Nat) : ∀ e ∈ tblErase t k, e ∈ t := by
  induction t with
  | nil => intro e h; exact absurd h (by simp [tblErase])
  | cons f r ih =>
    obtain ⟨k', v'⟩ := f
    intro e h
    unfold tblErase at h
    split at h
    · exact List.mem_cons_of_mem _ (ih e h)
    · rcases List.mem_cons.1 h with rfl | h
      · exact List.mem_cons_self ..
      · exact List.mem_cons_of_mem _ (ih e h)

theorem mem_tblPut {α : Type} (t : Tbl α) (k : Nat) (v : α) : ∀ e ∈ tblPut t k v, e = (k, v) ∨ e ∈ t := by
  induction t with
  | nil => intro e h; simpa [tblPut] using h
  | cons f r ih =>
    obtain ⟨k', v'⟩ := f
    intro e h
    unfold tblPut at h
    split at h
    · rcases List.mem_cons.1 h with h | h
      · exact .inl h
      · exact .inr (List.mem_cons_of_mem _ h)
    · split at h
      · rcases List.mem_cons.1 h with h | h
        · exact .inl h
        · exact .inr h
      · rcases List.mem_cons.1 h with rfl | h
        · exact .inr (List.mem_cons_self ..)
        · rcases ih e h with h | h
          · exact .inl h
          · exact .inr (List.mem_cons_of_mem _ h)

theorem Mem.erase_wf (m : Mem) (a : Nat) (w : m.wf = true) : Mem.wf (tblErase m a) = true := by
  induction m with
  | nil => rfl
  | cons e r ih =>
    obtain ⟨k, b⟩ := e
    obtain ⟨hb, ha, w'⟩ := (Mem.wf_cons k b r).1 w
    unfold tblErase
    split
    · exact ih w'
    · exact (Mem.wf_cons ..).2 ⟨hb, fun e he => ha e (mem_tblErase r a e he), ih w'⟩

theorem Mem.put_wf (m : Mem) (a : Nat) (b : Byte) (h : b ≠ unlistedByte) (w : m.wf = true) :
    Mem.wf (tblPut m a b) = true := by
  induction m with
  | nil => simpa [tblPut, Mem.wf] using h
  | cons e r ih =>
    obtain ⟨k, c⟩ := e
    obtain ⟨hc, ha, w'⟩ := (Mem.wf_cons k c r).1 w
    unfold tblPut
    split
    · subst_vars; exact (Mem.wf_cons ..).2 ⟨h, ha, w'⟩
    · split
      · refine (Mem.wf_cons ..).2 ⟨h, ?_, w⟩
        intro e he
        rcases List.mem_cons.1 he with rfl | he
        · assumption
        · have := ha e he; omega
      · refine (Mem.wf_cons ..).2 ⟨hc, ?_, ih w'⟩
        intro e he
        rcases mem_tblPut r a b e he with rfl | he
        · show k < a
          omega
        · exact ha e he

/-- Every write keeps the canonical form. -/
theorem Mem.write_wf (m : Mem) (a : Nat) (b : Byte) (w : m.wf = true) : (m.write a b).wf = true := by
  unfold Mem.write
  split
  · exact Mem.erase_wf m a w
  · exact Mem.put_wf m a b (by assumption) w

theorem Mem.writeN_wf (n : Nat) : ∀ (m : Mem) (a v : Nat), m.wf = true → (m.writeN a n v).wf = true := by
  induction n with
  | zero => intro m a v w; exact w
  | succ n ih => intro m a v w; exact ih _ _ _ (Mem.write_wf m a _ w)

theorem Mem.writeBytes_wf (l : List Byte) : ∀ (m : Mem) (a : Nat), m.wf = true → (m.writeBytes a l).wf = true := by
  induction l with
  | nil => intro m a w; exact w
  | cons b r ih => intro m a w; exact ih _ _ (Mem.write_wf m a b w)

/-- Leaving entries out keeps the canonical form. -/
theorem Mem.filter_wf (p : Host.Cell → Bool) (m : Mem) (w : m.wf = true) : Mem.wf (m.filter p) = true := by
  induction m with
  | nil => rfl
  | cons e r ih =>
    obtain ⟨k, b⟩ := e
    obtain ⟨hb, ha, w'⟩ := (Mem.wf_cons k b r).1 w
    by_cases h : p (k, b) = true
    · rw [List.filter_cons_of_pos h]
      exact (Mem.wf_cons ..).2 ⟨hb, fun e he => ha e (List.mem_filter.1 he).1, ih w'⟩
    · rw [List.filter_cons_of_neg h]
      exact ih w'

end Sys2Proof.Machine
end

