-- ==== Sys2Proof/Laws/State.lean ====
section
/-! SUPPORT. What each update of one part of the state leaves: one lemma per field per update, and what reading a part
finds after an update of the same or of another part. -/

namespace Sys2Proof.Machine

theorem modMe_def (s : State) (f : Cluster → Cluster) : s.modMe f = s.modClu s.cur f := rfl
theorem modMyCtx_def (s : State) (f : Ctx → Ctx) : s.modMyCtx f = s.modCtx s.cur f := rfl
theorem modMyCore_def (s : State) (f : Core → Core) : s.modMyCore f = s.modCore s.cur.core f := rfl
theorem me_def (s : State) : s.me = s.clu s.cur := rfl
theorem myCtx_def (s : State) : s.myCtx = s.ctxOf s.cur := rfl
theorem myCore_def (s : State) : s.myCore = s.core s.cur.core := rfl

@[simp] theorem modCore_scan (s : State) (n : Nat) (f : Core → Core) : (s.modCore n f).scan = s.scan := rfl
@[simp] theorem modCore_skip (s : State) (n : Nat) (f : Core → Core) : (s.modCore n f).skip = s.skip := rfl
@[simp] theorem modCore_cur (s : State) (n : Nat) (f : Core → Core) : (s.modCore n f).cur = s.cur := rfl
@[simp] theorem modCore_entered (s : State) (n : Nat) (f : Core → Core) : (s.modCore n f).entered = s.entered := rfl
@[simp] theorem modCore_walked (s : State) (n : Nat) (f : Core → Core) : (s.modCore n f).walked = s.walked := rfl
@[simp] theorem modCore_offered (s : State) (n : Nat) (f : Core → Core) : (s.modCore n f).offered = s.offered := rfl
@[simp] theorem modCore_agenda (s : State) (n : Nat) (f : Core → Core) : (s.modCore n f).agenda = s.agenda := rfl
@[simp] theorem modCore_free (s : State) (n : Nat) (f : Core → Core) : (s.modCore n f).free = s.free := rfl
@[simp] theorem modCore_dies (s : State) (n : Nat) (f : Core → Core) : (s.modCore n f).dies = s.dies := rfl
@[simp] theorem modCore_parts (s : State) (n : Nat) (f : Core → Core) : (s.modCore n f).parts = s.parts := rfl
@[simp] theorem modCore_tqs (s : State) (n : Nat) (f : Core → Core) : (s.modCore n f).tqs = s.tqs := rfl
@[simp] theorem modCore_mem (s : State) (n : Nat) (f : Core → Core) : (s.modCore n f).mem = s.mem := rfl
@[simp] theorem modCore_shaSyn (s : State) (n : Nat) (f : Core → Core) : (s.modCore n f).shaSyn = s.shaSyn := rfl
@[simp] theorem modCore_hbmErr (s : State) (n : Nat) (f : Core → Core) : (s.modCore n f).hbmErr = s.hbmErr := rfl
@[simp] theorem modCore_hbmPois (s : State) (n : Nat) (f : Core → Core) : (s.modCore n f).hbmPois = s.hbmPois := rfl
@[simp] theorem modCore_rewrite (s : State) (n : Nat) (f : Core → Core) : (s.modCore n f).rewrite = s.rewrite := rfl
@[simp] theorem modCore_rows (s : State) (n : Nat) (f : Core → Core) : (s.modCore n f).rows = s.rows := rfl
@[simp] theorem modCore_accs (s : State) (n : Nat) (f : Core → Core) : (s.modCore n f).accs = s.accs := rfl
@[simp] theorem modCore_accNext (s : State) (n : Nat) (f : Core → Core) : (s.modCore n f).accNext = s.accNext := rfl
@[simp] theorem modCore_known (s : State) (n : Nat) (f : Core → Core) : (s.modCore n f).known = s.known := rfl
@[simp] theorem modCore_postg (s : State) (n : Nat) (f : Core → Core) : (s.modCore n f).postg = s.postg := rfl
@[simp] theorem modCore_postgNext (s : State) (n : Nat) (f : Core → Core) : (s.modCore n f).postgNext = s.postgNext := rfl
@[simp] theorem modCore_deps (s : State) (n : Nat) (f : Core → Core) : (s.modCore n f).deps = s.deps := rfl
@[simp] theorem modCore_depNext (s : State) (n : Nat) (f : Core → Core) : (s.modCore n f).depNext = s.depNext := rfl
@[simp] theorem modCore_launches (s : State) (n : Nat) (f : Core → Core) : (s.modCore n f).launches = s.launches := rfl
@[simp] theorem modCore_launchNext (s : State) (n : Nat) (f : Core → Core) : (s.modCore n f).launchNext = s.launchNext := rfl
@[simp] theorem modCore_dcount (s : State) (n : Nat) (f : Core → Core) : (s.modCore n f).dcount = s.dcount := rfl
@[simp] theorem modCore_colls (s : State) (n : Nat) (f : Core → Core) : (s.modCore n f).colls = s.colls := rfl
@[simp] theorem modCore_collNext (s : State) (n : Nat) (f : Core → Core) : (s.modCore n f).collNext = s.collNext := rfl
@[simp] theorem modCore_groups (s : State) (n : Nat) (f : Core → Core) : (s.modCore n f).groups = s.groups := rfl
@[simp] theorem modCore_pins (s : State) (n : Nat) (f : Core → Core) : (s.modCore n f).pins = s.pins := rfl
@[simp] theorem modCore_swaps (s : State) (n : Nat) (f : Core → Core) : (s.modCore n f).swaps = s.swaps := rfl
@[simp] theorem modCore_acts (s : State) (n : Nat) (f : Core → Core) : (s.modCore n f).acts = s.acts := rfl
@[simp] theorem modCore_actWidth (s : State) (n : Nat) (f : Core → Core) : (s.modCore n f).actWidth = s.actWidth := rfl
@[simp] theorem modCore_rowInd (s : State) (n : Nat) (f : Core → Core) : (s.modCore n f).rowInd = s.rowInd := rfl
@[simp] theorem modCore_swapThr (s : State) (n : Nat) (f : Core → Core) : (s.modCore n f).swapThr = s.swapThr := rfl
@[simp] theorem modCore_erase (s : State) (n : Nat) (f : Core → Core) : (s.modCore n f).erase = s.erase := rfl
@[simp] theorem modCore_seeds (s : State) (n : Nat) (f : Core → Core) : (s.modCore n f).seeds = s.seeds := rfl
@[simp] theorem modCore_spare (s : State) (n : Nat) (f : Core → Core) : (s.modCore n f).spare = s.spare := rfl
@[simp] theorem modCore_retired (s : State) (n : Nat) (f : Core → Core) : (s.modCore n f).retired = s.retired := rfl
@[simp] theorem modCore_errCnt (s : State) (n : Nat) (f : Core → Core) : (s.modCore n f).errCnt = s.errCnt := rfl
@[simp] theorem modCore_flogs (s : State) (n : Nat) (f : Core → Core) : (s.modCore n f).flogs = s.flogs := rfl
@[simp] theorem modCore_errEvts (s : State) (n : Nat) (f : Core → Core) : (s.modCore n f).errEvts = s.errEvts := rfl
@[simp] theorem modCore_score (s : State) (n : Nat) (f : Core → Core) : (s.modCore n f).score = s.score := rfl
@[simp] theorem modCore_scoreNew (s : State) (n : Nat) (f : Core → Core) : (s.modCore n f).scoreNew = s.scoreNew := rfl
@[simp] theorem modCore_scoreSet (s : State) (n : Nat) (f : Core → Core) : (s.modCore n f).scoreSet = s.scoreSet := rfl
@[simp] theorem modCore_dth (s : State) (n : Nat) (f : Core → Core) : (s.modCore n f).dth = s.dth := rfl
@[simp] theorem modCore_cth (s : State) (n : Nat) (f : Core → Core) : (s.modCore n f).cth = s.cth := rfl
@[simp] theorem modCore_pend (s : State) (n : Nat) (f : Core → Core) : (s.modCore n f).pend = s.pend := rfl
@[simp] theorem modCore_maskV (s : State) (n : Nat) (f : Core → Core) : (s.modCore n f).maskV = s.maskV := rfl
@[simp] theorem modCore_sent (s : State) (n : Nat) (f : Core → Core) : (s.modCore n f).sent = s.sent := rfl
@[simp] theorem modCore_causes (s : State) (n : Nat) (f : Core → Core) : (s.modCore n f).causes = s.causes := rfl
@[simp] theorem modCore_form (s : State) (n : Nat) (f : Core → Core) : (s.modCore n f).form = s.form := rfl
@[simp] theorem modCore_strapErr (s : State) (n : Nat) (f : Core → Core) : (s.modCore n f).strapErr = s.strapErr := rfl
@[simp] theorem modCore_bootMbx (s : State) (n : Nat) (f : Core → Core) : (s.modCore n f).bootMbx = s.bootMbx := rfl
@[simp] theorem modCore_dbg (s : State) (n : Nat) (f : Core → Core) : (s.modCore n f).dbg = s.dbg := rfl
@[simp] theorem modCore_stage (s : State) (n : Nat) (f : Core → Core) : (s.modCore n f).stage = s.stage := rfl
@[simp] theorem modCore_mailbox (s : State) (n : Nat) (f : Core → Core) : (s.modCore n f).mailbox = s.mailbox := rfl
@[simp] theorem modCore_fwLoaded (s : State) (n : Nat) (f : Core → Core) : (s.modCore n f).fwLoaded = s.fwLoaded := rfl
@[simp] theorem modCore_flashA (s : State) (n : Nat) (f : Core → Core) : (s.modCore n f).flashA = s.flashA := rfl
@[simp] theorem modCore_flashB (s : State) (n : Nat) (f : Core → Core) : (s.modCore n f).flashB = s.flashB := rfl
@[simp] theorem modCore_flashUse (s : State) (n : Nat) (f : Core → Core) : (s.modCore n f).flashUse = s.flashUse := rfl
@[simp] theorem modCore_trims (s : State) (n : Nat) (f : Core → Core) : (s.modCore n f).trims = s.trims := rfl
@[simp] theorem modCore_budget (s : State) (n : Nat) (f : Core → Core) : (s.modCore n f).budget = s.budget := rfl
@[simp] theorem modCore_scrubRate (s : State) (n : Nat) (f : Core → Core) : (s.modCore n f).scrubRate = s.scrubRate := rfl
@[simp] theorem modCore_skipRun (s : State) (n : Nat) (f : Core → Core) : (s.modCore n f).skipRun = s.skipRun := rfl
@[simp] theorem modCore_regErr (s : State) (n : Nat) (f : Core → Core) : (s.modCore n f).regErr = s.regErr := rfl
@[simp] theorem modCore_qpairs (s : State) (n : Nat) (f : Core → Core) : (s.modCore n f).qpairs = s.qpairs := rfl
@[simp] theorem modCore_devId (s : State) (n : Nat) (f : Core → Core) : (s.modCore n f).devId = s.devId := rfl
@[simp] theorem modCore_extBase (s : State) (n : Nat) (f : Core → Core) : (s.modCore n f).extBase = s.extBase := rfl
@[simp] theorem modCore_extSize (s : State) (n : Nat) (f : Core → Core) : (s.modCore n f).extSize = s.extSize := rfl
@[simp] theorem modCore_fabric (s : State) (n : Nat) (f : Core → Core) : (s.modCore n f).fabric = s.fabric := rfl
@[simp] theorem modCore_nseq (s : State) (n : Nat) (f : Core → Core) : (s.modCore n f).nseq = s.nseq := rfl
@[simp] theorem modCore_unacked (s : State) (n : Nat) (f : Core → Core) : (s.modCore n f).unacked = s.unacked := rfl
@[simp] theorem modCore_routes (s : State) (n : Nat) (f : Core → Core) : (s.modCore n f).routes = s.routes := rfl
@[simp] theorem modCore_routeUs (s : State) (n : Nat) (f : Core → Core) : (s.modCore n f).routeUs = s.routeUs := rfl
@[simp] theorem modCore_windows (s : State) (n : Nat) (f : Core → Core) : (s.modCore n f).windows = s.windows := rfl
@[simp] theorem modCore_ports (s : State) (n : Nat) (f : Core → Core) : (s.modCore n f).ports = s.ports := rfl
@[simp] theorem modCore_acksOut (s : State) (n : Nat) (f : Core → Core) : (s.modCore n f).acksOut = s.acksOut := rfl
@[simp] theorem modCore_hubActive (s : State) (n : Nat) (f : Core → Core) : (s.modCore n f).hubActive = s.hubActive := rfl
@[simp] theorem modCore_rdmaErr (s : State) (n : Nat) (f : Core → Core) : (s.modCore n f).rdmaErr = s.rdmaErr := rfl
@[simp] theorem modCore_blocks (s : State) (n : Nat) (f : Core → Core) : (s.modCore n f).blocks = s.blocks := rfl

@[simp] theorem modCtx_scan (s : State) (k : Who) (f : Ctx → Ctx) : (s.modCtx k f).scan = s.scan := rfl
@[simp] theorem modCtx_skip (s : State) (k : Who) (f : Ctx → Ctx) : (s.modCtx k f).skip = s.skip := rfl
@[simp] theorem modCtx_cur (s : State) (k : Who) (f : Ctx → Ctx) : (s.modCtx k f).cur = s.cur := rfl
@[simp] theorem modCtx_entered (s : State) (k : Who) (f : Ctx → Ctx) : (s.modCtx k f).entered = s.entered := rfl
@[simp] theorem modCtx_walked (s : State) (k : Who) (f : Ctx → Ctx) : (s.modCtx k f).walked = s.walked := rfl
@[simp] theorem modCtx_offered (s : State) (k : Who) (f : Ctx → Ctx) : (s.modCtx k f).offered = s.offered := rfl
@[simp] theorem modCtx_agenda (s : State) (k : Who) (f : Ctx → Ctx) : (s.modCtx k f).agenda = s.agenda := rfl
@[simp] theorem modCtx_free (s : State) (k : Who) (f : Ctx → Ctx) : (s.modCtx k f).free = s.free := rfl
@[simp] theorem modCtx_dies (s : State) (k : Who) (f : Ctx → Ctx) : (s.modCtx k f).dies = s.dies := rfl
@[simp] theorem modCtx_parts (s : State) (k : Who) (f : Ctx → Ctx) : (s.modCtx k f).parts = s.parts := rfl
@[simp] theorem modCtx_tqs (s : State) (k : Who) (f : Ctx → Ctx) : (s.modCtx k f).tqs = s.tqs := rfl
@[simp] theorem modCtx_mem (s : State) (k : Who) (f : Ctx → Ctx) : (s.modCtx k f).mem = s.mem := rfl
@[simp] theorem modCtx_shaSyn (s : State) (k : Who) (f : Ctx → Ctx) : (s.modCtx k f).shaSyn = s.shaSyn := rfl
@[simp] theorem modCtx_hbmErr (s : State) (k : Who) (f : Ctx → Ctx) : (s.modCtx k f).hbmErr = s.hbmErr := rfl
@[simp] theorem modCtx_hbmPois (s : State) (k : Who) (f : Ctx → Ctx) : (s.modCtx k f).hbmPois = s.hbmPois := rfl
@[simp] theorem modCtx_rewrite (s : State) (k : Who) (f : Ctx → Ctx) : (s.modCtx k f).rewrite = s.rewrite := rfl
@[simp] theorem modCtx_rows (s : State) (k : Who) (f : Ctx → Ctx) : (s.modCtx k f).rows = s.rows := rfl
@[simp] theorem modCtx_accs (s : State) (k : Who) (f : Ctx → Ctx) : (s.modCtx k f).accs = s.accs := rfl
@[simp] theorem modCtx_accNext (s : State) (k : Who) (f : Ctx → Ctx) : (s.modCtx k f).accNext = s.accNext := rfl
@[simp] theorem modCtx_known (s : State) (k : Who) (f : Ctx → Ctx) : (s.modCtx k f).known = s.known := rfl
@[simp] theorem modCtx_postg (s : State) (k : Who) (f : Ctx → Ctx) : (s.modCtx k f).postg = s.postg := rfl
@[simp] theorem modCtx_postgNext (s : State) (k : Who) (f : Ctx → Ctx) : (s.modCtx k f).postgNext = s.postgNext := rfl
@[simp] theorem modCtx_deps (s : State) (k : Who) (f : Ctx → Ctx) : (s.modCtx k f).deps = s.deps := rfl
@[simp] theorem modCtx_depNext (s : State) (k : Who) (f : Ctx → Ctx) : (s.modCtx k f).depNext = s.depNext := rfl
@[simp] theorem modCtx_launches (s : State) (k : Who) (f : Ctx → Ctx) : (s.modCtx k f).launches = s.launches := rfl
@[simp] theorem modCtx_launchNext (s : State) (k : Who) (f : Ctx → Ctx) : (s.modCtx k f).launchNext = s.launchNext := rfl
@[simp] theorem modCtx_dcount (s : State) (k : Who) (f : Ctx → Ctx) : (s.modCtx k f).dcount = s.dcount := rfl
@[simp] theorem modCtx_colls (s : State) (k : Who) (f : Ctx → Ctx) : (s.modCtx k f).colls = s.colls := rfl
@[simp] theorem modCtx_collNext (s : State) (k : Who) (f : Ctx → Ctx) : (s.modCtx k f).collNext = s.collNext := rfl
@[simp] theorem modCtx_groups (s : State) (k : Who) (f : Ctx → Ctx) : (s.modCtx k f).groups = s.groups := rfl
@[simp] theorem modCtx_pins (s : State) (k : Who) (f : Ctx → Ctx) : (s.modCtx k f).pins = s.pins := rfl
@[simp] theorem modCtx_swaps (s : State) (k : Who) (f : Ctx → Ctx) : (s.modCtx k f).swaps = s.swaps := rfl
@[simp] theorem modCtx_acts (s : State) (k : Who) (f : Ctx → Ctx) : (s.modCtx k f).acts = s.acts := rfl
@[simp] theorem modCtx_actWidth (s : State) (k : Who) (f : Ctx → Ctx) : (s.modCtx k f).actWidth = s.actWidth := rfl
@[simp] theorem modCtx_rowInd (s : State) (k : Who) (f : Ctx → Ctx) : (s.modCtx k f).rowInd = s.rowInd := rfl
@[simp] theorem modCtx_swapThr (s : State) (k : Who) (f : Ctx → Ctx) : (s.modCtx k f).swapThr = s.swapThr := rfl
@[simp] theorem modCtx_erase (s : State) (k : Who) (f : Ctx → Ctx) : (s.modCtx k f).erase = s.erase := rfl
@[simp] theorem modCtx_seeds (s : State) (k : Who) (f : Ctx → Ctx) : (s.modCtx k f).seeds = s.seeds := rfl
@[simp] theorem modCtx_spare (s : State) (k : Who) (f : Ctx → Ctx) : (s.modCtx k f).spare = s.spare := rfl
@[simp] theorem modCtx_retired (s : State) (k : Who) (f : Ctx → Ctx) : (s.modCtx k f).retired = s.retired := rfl
@[simp] theorem modCtx_errCnt (s : State) (k : Who) (f : Ctx → Ctx) : (s.modCtx k f).errCnt = s.errCnt := rfl
@[simp] theorem modCtx_flogs (s : State) (k : Who) (f : Ctx → Ctx) : (s.modCtx k f).flogs = s.flogs := rfl
@[simp] theorem modCtx_errEvts (s : State) (k : Who) (f : Ctx → Ctx) : (s.modCtx k f).errEvts = s.errEvts := rfl
@[simp] theorem modCtx_score (s : State) (k : Who) (f : Ctx → Ctx) : (s.modCtx k f).score = s.score := rfl
@[simp] theorem modCtx_scoreNew (s : State) (k : Who) (f : Ctx → Ctx) : (s.modCtx k f).scoreNew = s.scoreNew := rfl
@[simp] theorem modCtx_scoreSet (s : State) (k : Who) (f : Ctx → Ctx) : (s.modCtx k f).scoreSet = s.scoreSet := rfl
@[simp] theorem modCtx_dth (s : State) (k : Who) (f : Ctx → Ctx) : (s.modCtx k f).dth = s.dth := rfl
@[simp] theorem modCtx_cth (s : State) (k : Who) (f : Ctx → Ctx) : (s.modCtx k f).cth = s.cth := rfl
@[simp] theorem modCtx_pend (s : State) (k : Who) (f : Ctx → Ctx) : (s.modCtx k f).pend = s.pend := rfl
@[simp] theorem modCtx_maskV (s : State) (k : Who) (f : Ctx → Ctx) : (s.modCtx k f).maskV = s.maskV := rfl
@[simp] theorem modCtx_sent (s : State) (k : Who) (f : Ctx → Ctx) : (s.modCtx k f).sent = s.sent := rfl
@[simp] theorem modCtx_causes (s : State) (k : Who) (f : Ctx → Ctx) : (s.modCtx k f).causes = s.causes := rfl
@[simp] theorem modCtx_form (s : State) (k : Who) (f : Ctx → Ctx) : (s.modCtx k f).form = s.form := rfl
@[simp] theorem modCtx_strapErr (s : State) (k : Who) (f : Ctx → Ctx) : (s.modCtx k f).strapErr = s.strapErr := rfl
@[simp] theorem modCtx_bootMbx (s : State) (k : Who) (f : Ctx → Ctx) : (s.modCtx k f).bootMbx = s.bootMbx := rfl
@[simp] theorem modCtx_dbg (s : State) (k : Who) (f : Ctx → Ctx) : (s.modCtx k f).dbg = s.dbg := rfl
@[simp] theorem modCtx_stage (s : State) (k : Who) (f : Ctx → Ctx) : (s.modCtx k f).stage = s.stage := rfl
@[simp] theorem modCtx_mailbox (s : State) (k : Who) (f : Ctx → Ctx) : (s.modCtx k f).mailbox = s.mailbox := rfl
@[simp] theorem modCtx_fwLoaded (s : State) (k : Who) (f : Ctx → Ctx) : (s.modCtx k f).fwLoaded = s.fwLoaded := rfl
@[simp] theorem modCtx_flashA (s : State) (k : Who) (f : Ctx → Ctx) : (s.modCtx k f).flashA = s.flashA := rfl
@[simp] theorem modCtx_flashB (s : State) (k : Who) (f : Ctx → Ctx) : (s.modCtx k f).flashB = s.flashB := rfl
@[simp] theorem modCtx_flashUse (s : State) (k : Who) (f : Ctx → Ctx) : (s.modCtx k f).flashUse = s.flashUse := rfl
@[simp] theorem modCtx_trims (s : State) (k : Who) (f : Ctx → Ctx) : (s.modCtx k f).trims = s.trims := rfl
@[simp] theorem modCtx_budget (s : State) (k : Who) (f : Ctx → Ctx) : (s.modCtx k f).budget = s.budget := rfl
@[simp] theorem modCtx_scrubRate (s : State) (k : Who) (f : Ctx → Ctx) : (s.modCtx k f).scrubRate = s.scrubRate := rfl
@[simp] theorem modCtx_skipRun (s : State) (k : Who) (f : Ctx → Ctx) : (s.modCtx k f).skipRun = s.skipRun := rfl
@[simp] theorem modCtx_regErr (s : State) (k : Who) (f : Ctx → Ctx) : (s.modCtx k f).regErr = s.regErr := rfl
@[simp] theorem modCtx_qpairs (s : State) (k : Who) (f : Ctx → Ctx) : (s.modCtx k f).qpairs = s.qpairs := rfl
@[simp] theorem modCtx_devId (s : State) (k : Who) (f : Ctx → Ctx) : (s.modCtx k f).devId = s.devId := rfl
@[simp] theorem modCtx_extBase (s : State) (k : Who) (f : Ctx → Ctx) : (s.modCtx k f).extBase = s.extBase := rfl
@[simp] theorem modCtx_extSize (s : State) (k : Who) (f : Ctx → Ctx) : (s.modCtx k f).extSize = s.extSize := rfl
@[simp] theorem modCtx_fabric (s : State) (k : Who) (f : Ctx → Ctx) : (s.modCtx k f).fabric = s.fabric := rfl
@[simp] theorem modCtx_nseq (s : State) (k : Who) (f : Ctx → Ctx) : (s.modCtx k f).nseq = s.nseq := rfl
@[simp] theorem modCtx_unacked (s : State) (k : Who) (f : Ctx → Ctx) : (s.modCtx k f).unacked = s.unacked := rfl
@[simp] theorem modCtx_routes (s : State) (k : Who) (f : Ctx → Ctx) : (s.modCtx k f).routes = s.routes := rfl
@[simp] theorem modCtx_routeUs (s : State) (k : Who) (f : Ctx → Ctx) : (s.modCtx k f).routeUs = s.routeUs := rfl
@[simp] theorem modCtx_windows (s : State) (k : Who) (f : Ctx → Ctx) : (s.modCtx k f).windows = s.windows := rfl
@[simp] theorem modCtx_ports (s : State) (k : Who) (f : Ctx → Ctx) : (s.modCtx k f).ports = s.ports := rfl
@[simp] theorem modCtx_acksOut (s : State) (k : Who) (f : Ctx → Ctx) : (s.modCtx k f).acksOut = s.acksOut := rfl
@[simp] theorem modCtx_hubActive (s : State) (k : Who) (f : Ctx → Ctx) : (s.modCtx k f).hubActive = s.hubActive := rfl
@[simp] theorem modCtx_rdmaErr (s : State) (k : Who) (f : Ctx → Ctx) : (s.modCtx k f).rdmaErr = s.rdmaErr := rfl
@[simp] theorem modCtx_blocks (s : State) (k : Who) (f : Ctx → Ctx) : (s.modCtx k f).blocks = s.blocks := rfl

@[simp] theorem modClu_scan (s : State) (k : Who) (f : Cluster → Cluster) : (s.modClu k f).scan = s.scan := rfl
@[simp] theorem modClu_skip (s : State) (k : Who) (f : Cluster → Cluster) : (s.modClu k f).skip = s.skip := rfl
@[simp] theorem modClu_cur (s : State) (k : Who) (f : Cluster → Cluster) : (s.modClu k f).cur = s.cur := rfl
@[simp] theorem modClu_entered (s : State) (k : Who) (f : Cluster → Cluster) : (s.modClu k f).entered = s.entered := rfl
@[simp] theorem modClu_walked (s : State) (k : Who) (f : Cluster → Cluster) : (s.modClu k f).walked = s.walked := rfl
@[simp] theorem modClu_offered (s : State) (k : Who) (f : Cluster → Cluster) : (s.modClu k f).offered = s.offered := rfl
@[simp] theorem modClu_agenda (s : State) (k : Who) (f : Cluster → Cluster) : (s.modClu k f).agenda = s.agenda := rfl
@[simp] theorem modClu_free (s : State) (k : Who) (f : Cluster → Cluster) : (s.modClu k f).free = s.free := rfl
@[simp] theorem modClu_dies (s : State) (k : Who) (f : Cluster → Cluster) : (s.modClu k f).dies = s.dies := rfl
@[simp] theorem modClu_parts (s : State) (k : Who) (f : Cluster → Cluster) : (s.modClu k f).parts = s.parts := rfl
@[simp] theorem modClu_tqs (s : State) (k : Who) (f : Cluster → Cluster) : (s.modClu k f).tqs = s.tqs := rfl
@[simp] theorem modClu_mem (s : State) (k : Who) (f : Cluster → Cluster) : (s.modClu k f).mem = s.mem := rfl
@[simp] theorem modClu_shaSyn (s : State) (k : Who) (f : Cluster → Cluster) : (s.modClu k f).shaSyn = s.shaSyn := rfl
@[simp] theorem modClu_hbmErr (s : State) (k : Who) (f : Cluster → Cluster) : (s.modClu k f).hbmErr = s.hbmErr := rfl
@[simp] theorem modClu_hbmPois (s : State) (k : Who) (f : Cluster → Cluster) : (s.modClu k f).hbmPois = s.hbmPois := rfl
@[simp] theorem modClu_rewrite (s : State) (k : Who) (f : Cluster → Cluster) : (s.modClu k f).rewrite = s.rewrite := rfl
@[simp] theorem modClu_rows (s : State) (k : Who) (f : Cluster → Cluster) : (s.modClu k f).rows = s.rows := rfl
@[simp] theorem modClu_accs (s : State) (k : Who) (f : Cluster → Cluster) : (s.modClu k f).accs = s.accs := rfl
@[simp] theorem modClu_accNext (s : State) (k : Who) (f : Cluster → Cluster) : (s.modClu k f).accNext = s.accNext := rfl
@[simp] theorem modClu_known (s : State) (k : Who) (f : Cluster → Cluster) : (s.modClu k f).known = s.known := rfl
@[simp] theorem modClu_postg (s : State) (k : Who) (f : Cluster → Cluster) : (s.modClu k f).postg = s.postg := rfl
@[simp] theorem modClu_postgNext (s : State) (k : Who) (f : Cluster → Cluster) : (s.modClu k f).postgNext = s.postgNext := rfl
@[simp] theorem modClu_deps (s : State) (k : Who) (f : Cluster → Cluster) : (s.modClu k f).deps = s.deps := rfl
@[simp] theorem modClu_depNext (s : State) (k : Who) (f : Cluster → Cluster) : (s.modClu k f).depNext = s.depNext := rfl
@[simp] theorem modClu_launches (s : State) (k : Who) (f : Cluster → Cluster) : (s.modClu k f).launches = s.launches := rfl
@[simp] theorem modClu_launchNext (s : State) (k : Who) (f : Cluster → Cluster) : (s.modClu k f).launchNext = s.launchNext := rfl
@[simp] theorem modClu_dcount (s : State) (k : Who) (f : Cluster → Cluster) : (s.modClu k f).dcount = s.dcount := rfl
@[simp] theorem modClu_colls (s : State) (k : Who) (f : Cluster → Cluster) : (s.modClu k f).colls = s.colls := rfl
@[simp] theorem modClu_collNext (s : State) (k : Who) (f : Cluster → Cluster) : (s.modClu k f).collNext = s.collNext := rfl
@[simp] theorem modClu_groups (s : State) (k : Who) (f : Cluster → Cluster) : (s.modClu k f).groups = s.groups := rfl
@[simp] theorem modClu_pins (s : State) (k : Who) (f : Cluster → Cluster) : (s.modClu k f).pins = s.pins := rfl
@[simp] theorem modClu_swaps (s : State) (k : Who) (f : Cluster → Cluster) : (s.modClu k f).swaps = s.swaps := rfl
@[simp] theorem modClu_acts (s : State) (k : Who) (f : Cluster → Cluster) : (s.modClu k f).acts = s.acts := rfl
@[simp] theorem modClu_actWidth (s : State) (k : Who) (f : Cluster → Cluster) : (s.modClu k f).actWidth = s.actWidth := rfl
@[simp] theorem modClu_rowInd (s : State) (k : Who) (f : Cluster → Cluster) : (s.modClu k f).rowInd = s.rowInd := rfl
@[simp] theorem modClu_swapThr (s : State) (k : Who) (f : Cluster → Cluster) : (s.modClu k f).swapThr = s.swapThr := rfl
@[simp] theorem modClu_erase (s : State) (k : Who) (f : Cluster → Cluster) : (s.modClu k f).erase = s.erase := rfl
@[simp] theorem modClu_seeds (s : State) (k : Who) (f : Cluster → Cluster) : (s.modClu k f).seeds = s.seeds := rfl
@[simp] theorem modClu_spare (s : State) (k : Who) (f : Cluster → Cluster) : (s.modClu k f).spare = s.spare := rfl
@[simp] theorem modClu_retired (s : State) (k : Who) (f : Cluster → Cluster) : (s.modClu k f).retired = s.retired := rfl
@[simp] theorem modClu_errCnt (s : State) (k : Who) (f : Cluster → Cluster) : (s.modClu k f).errCnt = s.errCnt := rfl
@[simp] theorem modClu_flogs (s : State) (k : Who) (f : Cluster → Cluster) : (s.modClu k f).flogs = s.flogs := rfl
@[simp] theorem modClu_errEvts (s : State) (k : Who) (f : Cluster → Cluster) : (s.modClu k f).errEvts = s.errEvts := rfl
@[simp] theorem modClu_score (s : State) (k : Who) (f : Cluster → Cluster) : (s.modClu k f).score = s.score := rfl
@[simp] theorem modClu_scoreNew (s : State) (k : Who) (f : Cluster → Cluster) : (s.modClu k f).scoreNew = s.scoreNew := rfl
@[simp] theorem modClu_scoreSet (s : State) (k : Who) (f : Cluster → Cluster) : (s.modClu k f).scoreSet = s.scoreSet := rfl
@[simp] theorem modClu_dth (s : State) (k : Who) (f : Cluster → Cluster) : (s.modClu k f).dth = s.dth := rfl
@[simp] theorem modClu_cth (s : State) (k : Who) (f : Cluster → Cluster) : (s.modClu k f).cth = s.cth := rfl
@[simp] theorem modClu_pend (s : State) (k : Who) (f : Cluster → Cluster) : (s.modClu k f).pend = s.pend := rfl
@[simp] theorem modClu_maskV (s : State) (k : Who) (f : Cluster → Cluster) : (s.modClu k f).maskV = s.maskV := rfl
@[simp] theorem modClu_sent (s : State) (k : Who) (f : Cluster → Cluster) : (s.modClu k f).sent = s.sent := rfl
@[simp] theorem modClu_causes (s : State) (k : Who) (f : Cluster → Cluster) : (s.modClu k f).causes = s.causes := rfl
@[simp] theorem modClu_form (s : State) (k : Who) (f : Cluster → Cluster) : (s.modClu k f).form = s.form := rfl
@[simp] theorem modClu_strapErr (s : State) (k : Who) (f : Cluster → Cluster) : (s.modClu k f).strapErr = s.strapErr := rfl
@[simp] theorem modClu_bootMbx (s : State) (k : Who) (f : Cluster → Cluster) : (s.modClu k f).bootMbx = s.bootMbx := rfl
@[simp] theorem modClu_dbg (s : State) (k : Who) (f : Cluster → Cluster) : (s.modClu k f).dbg = s.dbg := rfl
@[simp] theorem modClu_stage (s : State) (k : Who) (f : Cluster → Cluster) : (s.modClu k f).stage = s.stage := rfl
@[simp] theorem modClu_mailbox (s : State) (k : Who) (f : Cluster → Cluster) : (s.modClu k f).mailbox = s.mailbox := rfl
@[simp] theorem modClu_fwLoaded (s : State) (k : Who) (f : Cluster → Cluster) : (s.modClu k f).fwLoaded = s.fwLoaded := rfl
@[simp] theorem modClu_flashA (s : State) (k : Who) (f : Cluster → Cluster) : (s.modClu k f).flashA = s.flashA := rfl
@[simp] theorem modClu_flashB (s : State) (k : Who) (f : Cluster → Cluster) : (s.modClu k f).flashB = s.flashB := rfl
@[simp] theorem modClu_flashUse (s : State) (k : Who) (f : Cluster → Cluster) : (s.modClu k f).flashUse = s.flashUse := rfl
@[simp] theorem modClu_trims (s : State) (k : Who) (f : Cluster → Cluster) : (s.modClu k f).trims = s.trims := rfl
@[simp] theorem modClu_budget (s : State) (k : Who) (f : Cluster → Cluster) : (s.modClu k f).budget = s.budget := rfl
@[simp] theorem modClu_scrubRate (s : State) (k : Who) (f : Cluster → Cluster) : (s.modClu k f).scrubRate = s.scrubRate := rfl
@[simp] theorem modClu_skipRun (s : State) (k : Who) (f : Cluster → Cluster) : (s.modClu k f).skipRun = s.skipRun := rfl
@[simp] theorem modClu_regErr (s : State) (k : Who) (f : Cluster → Cluster) : (s.modClu k f).regErr = s.regErr := rfl
@[simp] theorem modClu_qpairs (s : State) (k : Who) (f : Cluster → Cluster) : (s.modClu k f).qpairs = s.qpairs := rfl
@[simp] theorem modClu_devId (s : State) (k : Who) (f : Cluster → Cluster) : (s.modClu k f).devId = s.devId := rfl
@[simp] theorem modClu_extBase (s : State) (k : Who) (f : Cluster → Cluster) : (s.modClu k f).extBase = s.extBase := rfl
@[simp] theorem modClu_extSize (s : State) (k : Who) (f : Cluster → Cluster) : (s.modClu k f).extSize = s.extSize := rfl
@[simp] theorem modClu_fabric (s : State) (k : Who) (f : Cluster → Cluster) : (s.modClu k f).fabric = s.fabric := rfl
@[simp] theorem modClu_nseq (s : State) (k : Who) (f : Cluster → Cluster) : (s.modClu k f).nseq = s.nseq := rfl
@[simp] theorem modClu_unacked (s : State) (k : Who) (f : Cluster → Cluster) : (s.modClu k f).unacked = s.unacked := rfl
@[simp] theorem modClu_routes (s : State) (k : Who) (f : Cluster → Cluster) : (s.modClu k f).routes = s.routes := rfl
@[simp] theorem modClu_routeUs (s : State) (k : Who) (f : Cluster → Cluster) : (s.modClu k f).routeUs = s.routeUs := rfl
@[simp] theorem modClu_windows (s : State) (k : Who) (f : Cluster → Cluster) : (s.modClu k f).windows = s.windows := rfl
@[simp] theorem modClu_ports (s : State) (k : Who) (f : Cluster → Cluster) : (s.modClu k f).ports = s.ports := rfl
@[simp] theorem modClu_acksOut (s : State) (k : Who) (f : Cluster → Cluster) : (s.modClu k f).acksOut = s.acksOut := rfl
@[simp] theorem modClu_hubActive (s : State) (k : Who) (f : Cluster → Cluster) : (s.modClu k f).hubActive = s.hubActive := rfl
@[simp] theorem modClu_rdmaErr (s : State) (k : Who) (f : Cluster → Cluster) : (s.modClu k f).rdmaErr = s.rdmaErr := rfl
@[simp] theorem modClu_blocks (s : State) (k : Who) (f : Cluster → Cluster) : (s.modClu k f).blocks = s.blocks := rfl

@[simp] theorem modMe_scan (s : State) (f : Cluster → Cluster) : (s.modMe f).scan = s.scan := rfl
@[simp] theorem modMe_skip (s : State) (f : Cluster → Cluster) : (s.modMe f).skip = s.skip := rfl
@[simp] theorem modMe_cur (s : State) (f : Cluster → Cluster) : (s.modMe f).cur = s.cur := rfl
@[simp] theorem modMe_entered (s : State) (f : Cluster → Cluster) : (s.modMe f).entered = s.entered := rfl
@[simp] theorem modMe_walked (s : State) (f : Cluster → Cluster) : (s.modMe f).walked = s.walked := rfl
@[simp] theorem modMe_offered (s : State) (f : Cluster → Cluster) : (s.modMe f).offered = s.offered := rfl
@[simp] theorem modMe_agenda (s : State) (f : Cluster → Cluster) : (s.modMe f).agenda = s.agenda := rfl
@[simp] theorem modMe_free (s : State) (f : Cluster → Cluster) : (s.modMe f).free = s.free := rfl
@[simp] theorem modMe_dies (s : State) (f : Cluster → Cluster) : (s.modMe f).dies = s.dies := rfl
@[simp] theorem modMe_parts (s : State) (f : Cluster → Cluster) : (s.modMe f).parts = s.parts := rfl
@[simp] theorem modMe_tqs (s : State) (f : Cluster → Cluster) : (s.modMe f).tqs = s.tqs := rfl
@[simp] theorem modMe_mem (s : State) (f : Cluster → Cluster) : (s.modMe f).mem = s.mem := rfl
@[simp] theorem modMe_shaSyn (s : State) (f : Cluster → Cluster) : (s.modMe f).shaSyn = s.shaSyn := rfl
@[simp] theorem modMe_hbmErr (s : State) (f : Cluster → Cluster) : (s.modMe f).hbmErr = s.hbmErr := rfl
@[simp] theorem modMe_hbmPois (s : State) (f : Cluster → Cluster) : (s.modMe f).hbmPois = s.hbmPois := rfl
@[simp] theorem modMe_rewrite (s : State) (f : Cluster → Cluster) : (s.modMe f).rewrite = s.rewrite := rfl
@[simp] theorem modMe_rows (s : State) (f : Cluster → Cluster) : (s.modMe f).rows = s.rows := rfl
@[simp] theorem modMe_accs (s : State) (f : Cluster → Cluster) : (s.modMe f).accs = s.accs := rfl
@[simp] theorem modMe_accNext (s : State) (f : Cluster → Cluster) : (s.modMe f).accNext = s.accNext := rfl
@[simp] theorem modMe_known (s : State) (f : Cluster → Cluster) : (s.modMe f).known = s.known := rfl
@[simp] theorem modMe_postg (s : State) (f : Cluster → Cluster) : (s.modMe f).postg = s.postg := rfl
@[simp] theorem modMe_postgNext (s : State) (f : Cluster → Cluster) : (s.modMe f).postgNext = s.postgNext := rfl
@[simp] theorem modMe_deps (s : State) (f : Cluster → Cluster) : (s.modMe f).deps = s.deps := rfl
@[simp] theorem modMe_depNext (s : State) (f : Cluster → Cluster) : (s.modMe f).depNext = s.depNext := rfl
@[simp] theorem modMe_launches (s : State) (f : Cluster → Cluster) : (s.modMe f).launches = s.launches := rfl
@[simp] theorem modMe_launchNext (s : State) (f : Cluster → Cluster) : (s.modMe f).launchNext = s.launchNext := rfl
@[simp] theorem modMe_dcount (s : State) (f : Cluster → Cluster) : (s.modMe f).dcount = s.dcount := rfl
@[simp] theorem modMe_colls (s : State) (f : Cluster → Cluster) : (s.modMe f).colls = s.colls := rfl
@[simp] theorem modMe_collNext (s : State) (f : Cluster → Cluster) : (s.modMe f).collNext = s.collNext := rfl
@[simp] theorem modMe_groups (s : State) (f : Cluster → Cluster) : (s.modMe f).groups = s.groups := rfl
@[simp] theorem modMe_pins (s : State) (f : Cluster → Cluster) : (s.modMe f).pins = s.pins := rfl
@[simp] theorem modMe_swaps (s : State) (f : Cluster → Cluster) : (s.modMe f).swaps = s.swaps := rfl
@[simp] theorem modMe_acts (s : State) (f : Cluster → Cluster) : (s.modMe f).acts = s.acts := rfl
@[simp] theorem modMe_actWidth (s : State) (f : Cluster → Cluster) : (s.modMe f).actWidth = s.actWidth := rfl
@[simp] theorem modMe_rowInd (s : State) (f : Cluster → Cluster) : (s.modMe f).rowInd = s.rowInd := rfl
@[simp] theorem modMe_swapThr (s : State) (f : Cluster → Cluster) : (s.modMe f).swapThr = s.swapThr := rfl
@[simp] theorem modMe_erase (s : State) (f : Cluster → Cluster) : (s.modMe f).erase = s.erase := rfl
@[simp] theorem modMe_seeds (s : State) (f : Cluster → Cluster) : (s.modMe f).seeds = s.seeds := rfl
@[simp] theorem modMe_spare (s : State) (f : Cluster → Cluster) : (s.modMe f).spare = s.spare := rfl
@[simp] theorem modMe_retired (s : State) (f : Cluster → Cluster) : (s.modMe f).retired = s.retired := rfl
@[simp] theorem modMe_errCnt (s : State) (f : Cluster → Cluster) : (s.modMe f).errCnt = s.errCnt := rfl
@[simp] theorem modMe_flogs (s : State) (f : Cluster → Cluster) : (s.modMe f).flogs = s.flogs := rfl
@[simp] theorem modMe_errEvts (s : State) (f : Cluster → Cluster) : (s.modMe f).errEvts = s.errEvts := rfl
@[simp] theorem modMe_score (s : State) (f : Cluster → Cluster) : (s.modMe f).score = s.score := rfl
@[simp] theorem modMe_scoreNew (s : State) (f : Cluster → Cluster) : (s.modMe f).scoreNew = s.scoreNew := rfl
@[simp] theorem modMe_scoreSet (s : State) (f : Cluster → Cluster) : (s.modMe f).scoreSet = s.scoreSet := rfl
@[simp] theorem modMe_dth (s : State) (f : Cluster → Cluster) : (s.modMe f).dth = s.dth := rfl
@[simp] theorem modMe_cth (s : State) (f : Cluster → Cluster) : (s.modMe f).cth = s.cth := rfl
@[simp] theorem modMe_pend (s : State) (f : Cluster → Cluster) : (s.modMe f).pend = s.pend := rfl
@[simp] theorem modMe_maskV (s : State) (f : Cluster → Cluster) : (s.modMe f).maskV = s.maskV := rfl
@[simp] theorem modMe_sent (s : State) (f : Cluster → Cluster) : (s.modMe f).sent = s.sent := rfl
@[simp] theorem modMe_causes (s : State) (f : Cluster → Cluster) : (s.modMe f).causes = s.causes := rfl
@[simp] theorem modMe_form (s : State) (f : Cluster → Cluster) : (s.modMe f).form = s.form := rfl
@[simp] theorem modMe_strapErr (s : State) (f : Cluster → Cluster) : (s.modMe f).strapErr = s.strapErr := rfl
@[simp] theorem modMe_bootMbx (s : State) (f : Cluster → Cluster) : (s.modMe f).bootMbx = s.bootMbx := rfl
@[simp] theorem modMe_dbg (s : State) (f : Cluster → Cluster) : (s.modMe f).dbg = s.dbg := rfl
@[simp] theorem modMe_stage (s : State) (f : Cluster → Cluster) : (s.modMe f).stage = s.stage := rfl
@[simp] theorem modMe_mailbox (s : State) (f : Cluster → Cluster) : (s.modMe f).mailbox = s.mailbox := rfl
@[simp] theorem modMe_fwLoaded (s : State) (f : Cluster → Cluster) : (s.modMe f).fwLoaded = s.fwLoaded := rfl
@[simp] theorem modMe_flashA (s : State) (f : Cluster → Cluster) : (s.modMe f).flashA = s.flashA := rfl
@[simp] theorem modMe_flashB (s : State) (f : Cluster → Cluster) : (s.modMe f).flashB = s.flashB := rfl
@[simp] theorem modMe_flashUse (s : State) (f : Cluster → Cluster) : (s.modMe f).flashUse = s.flashUse := rfl
@[simp] theorem modMe_trims (s : State) (f : Cluster → Cluster) : (s.modMe f).trims = s.trims := rfl
@[simp] theorem modMe_budget (s : State) (f : Cluster → Cluster) : (s.modMe f).budget = s.budget := rfl
@[simp] theorem modMe_scrubRate (s : State) (f : Cluster → Cluster) : (s.modMe f).scrubRate = s.scrubRate := rfl
@[simp] theorem modMe_skipRun (s : State) (f : Cluster → Cluster) : (s.modMe f).skipRun = s.skipRun := rfl
@[simp] theorem modMe_regErr (s : State) (f : Cluster → Cluster) : (s.modMe f).regErr = s.regErr := rfl
@[simp] theorem modMe_qpairs (s : State) (f : Cluster → Cluster) : (s.modMe f).qpairs = s.qpairs := rfl
@[simp] theorem modMe_devId (s : State) (f : Cluster → Cluster) : (s.modMe f).devId = s.devId := rfl
@[simp] theorem modMe_extBase (s : State) (f : Cluster → Cluster) : (s.modMe f).extBase = s.extBase := rfl
@[simp] theorem modMe_extSize (s : State) (f : Cluster → Cluster) : (s.modMe f).extSize = s.extSize := rfl
@[simp] theorem modMe_fabric (s : State) (f : Cluster → Cluster) : (s.modMe f).fabric = s.fabric := rfl
@[simp] theorem modMe_nseq (s : State) (f : Cluster → Cluster) : (s.modMe f).nseq = s.nseq := rfl
@[simp] theorem modMe_unacked (s : State) (f : Cluster → Cluster) : (s.modMe f).unacked = s.unacked := rfl
@[simp] theorem modMe_routes (s : State) (f : Cluster → Cluster) : (s.modMe f).routes = s.routes := rfl
@[simp] theorem modMe_routeUs (s : State) (f : Cluster → Cluster) : (s.modMe f).routeUs = s.routeUs := rfl
@[simp] theorem modMe_windows (s : State) (f : Cluster → Cluster) : (s.modMe f).windows = s.windows := rfl
@[simp] theorem modMe_ports (s : State) (f : Cluster → Cluster) : (s.modMe f).ports = s.ports := rfl
@[simp] theorem modMe_acksOut (s : State) (f : Cluster → Cluster) : (s.modMe f).acksOut = s.acksOut := rfl
@[simp] theorem modMe_hubActive (s : State) (f : Cluster → Cluster) : (s.modMe f).hubActive = s.hubActive := rfl
@[simp] theorem modMe_rdmaErr (s : State) (f : Cluster → Cluster) : (s.modMe f).rdmaErr = s.rdmaErr := rfl
@[simp] theorem modMe_blocks (s : State) (f : Cluster → Cluster) : (s.modMe f).blocks = s.blocks := rfl

@[simp] theorem modMyCtx_scan (s : State) (f : Ctx → Ctx) : (s.modMyCtx f).scan = s.scan := rfl
@[simp] theorem modMyCtx_skip (s : State) (f : Ctx → Ctx) : (s.modMyCtx f).skip = s.skip := rfl
@[simp] theorem modMyCtx_cur (s : State) (f : Ctx → Ctx) : (s.modMyCtx f).cur = s.cur := rfl
@[simp] theorem modMyCtx_entered (s : State) (f : Ctx → Ctx) : (s.modMyCtx f).entered = s.entered := rfl
@[simp] theorem modMyCtx_walked (s : State) (f : Ctx → Ctx) : (s.modMyCtx f).walked = s.walked := rfl
@[simp] theorem modMyCtx_offered (s : State) (f : Ctx → Ctx) : (s.modMyCtx f).offered = s.offered := rfl
@[simp] theorem modMyCtx_agenda (s : State) (f : Ctx → Ctx) : (s.modMyCtx f).agenda = s.agenda := rfl
@[simp] theorem modMyCtx_free (s : State) (f : Ctx → Ctx) : (s.modMyCtx f).free = s.free := rfl
@[simp] theorem modMyCtx_dies (s : State) (f : Ctx → Ctx) : (s.modMyCtx f).dies = s.dies := rfl
@[simp] theorem modMyCtx_parts (s : State) (f : Ctx → Ctx) : (s.modMyCtx f).parts = s.parts := rfl
@[simp] theorem modMyCtx_tqs (s : State) (f : Ctx → Ctx) : (s.modMyCtx f).tqs = s.tqs := rfl
@[simp] theorem modMyCtx_mem (s : State) (f : Ctx → Ctx) : (s.modMyCtx f).mem = s.mem := rfl
@[simp] theorem modMyCtx_shaSyn (s : State) (f : Ctx → Ctx) : (s.modMyCtx f).shaSyn = s.shaSyn := rfl
@[simp] theorem modMyCtx_hbmErr (s : State) (f : Ctx → Ctx) : (s.modMyCtx f).hbmErr = s.hbmErr := rfl
@[simp] theorem modMyCtx_hbmPois (s : State) (f : Ctx → Ctx) : (s.modMyCtx f).hbmPois = s.hbmPois := rfl
@[simp] theorem modMyCtx_rewrite (s : State) (f : Ctx → Ctx) : (s.modMyCtx f).rewrite = s.rewrite := rfl
@[simp] theorem modMyCtx_rows (s : State) (f : Ctx → Ctx) : (s.modMyCtx f).rows = s.rows := rfl
@[simp] theorem modMyCtx_accs (s : State) (f : Ctx → Ctx) : (s.modMyCtx f).accs = s.accs := rfl
@[simp] theorem modMyCtx_accNext (s : State) (f : Ctx → Ctx) : (s.modMyCtx f).accNext = s.accNext := rfl
@[simp] theorem modMyCtx_known (s : State) (f : Ctx → Ctx) : (s.modMyCtx f).known = s.known := rfl
@[simp] theorem modMyCtx_postg (s : State) (f : Ctx → Ctx) : (s.modMyCtx f).postg = s.postg := rfl
@[simp] theorem modMyCtx_postgNext (s : State) (f : Ctx → Ctx) : (s.modMyCtx f).postgNext = s.postgNext := rfl
@[simp] theorem modMyCtx_deps (s : State) (f : Ctx → Ctx) : (s.modMyCtx f).deps = s.deps := rfl
@[simp] theorem modMyCtx_depNext (s : State) (f : Ctx → Ctx) : (s.modMyCtx f).depNext = s.depNext := rfl
@[simp] theorem modMyCtx_launches (s : State) (f : Ctx → Ctx) : (s.modMyCtx f).launches = s.launches := rfl
@[simp] theorem modMyCtx_launchNext (s : State) (f : Ctx → Ctx) : (s.modMyCtx f).launchNext = s.launchNext := rfl
@[simp] theorem modMyCtx_dcount (s : State) (f : Ctx → Ctx) : (s.modMyCtx f).dcount = s.dcount := rfl
@[simp] theorem modMyCtx_colls (s : State) (f : Ctx → Ctx) : (s.modMyCtx f).colls = s.colls := rfl
@[simp] theorem modMyCtx_collNext (s : State) (f : Ctx → Ctx) : (s.modMyCtx f).collNext = s.collNext := rfl
@[simp] theorem modMyCtx_groups (s : State) (f : Ctx → Ctx) : (s.modMyCtx f).groups = s.groups := rfl
@[simp] theorem modMyCtx_pins (s : State) (f : Ctx → Ctx) : (s.modMyCtx f).pins = s.pins := rfl
@[simp] theorem modMyCtx_swaps (s : State) (f : Ctx → Ctx) : (s.modMyCtx f).swaps = s.swaps := rfl
@[simp] theorem modMyCtx_acts (s : State) (f : Ctx → Ctx) : (s.modMyCtx f).acts = s.acts := rfl
@[simp] theorem modMyCtx_actWidth (s : State) (f : Ctx → Ctx) : (s.modMyCtx f).actWidth = s.actWidth := rfl
@[simp] theorem modMyCtx_rowInd (s : State) (f : Ctx → Ctx) : (s.modMyCtx f).rowInd = s.rowInd := rfl
@[simp] theorem modMyCtx_swapThr (s : State) (f : Ctx → Ctx) : (s.modMyCtx f).swapThr = s.swapThr := rfl
@[simp] theorem modMyCtx_erase (s : State) (f : Ctx → Ctx) : (s.modMyCtx f).erase = s.erase := rfl
@[simp] theorem modMyCtx_seeds (s : State) (f : Ctx → Ctx) : (s.modMyCtx f).seeds = s.seeds := rfl
@[simp] theorem modMyCtx_spare (s : State) (f : Ctx → Ctx) : (s.modMyCtx f).spare = s.spare := rfl
@[simp] theorem modMyCtx_retired (s : State) (f : Ctx → Ctx) : (s.modMyCtx f).retired = s.retired := rfl
@[simp] theorem modMyCtx_errCnt (s : State) (f : Ctx → Ctx) : (s.modMyCtx f).errCnt = s.errCnt := rfl
@[simp] theorem modMyCtx_flogs (s : State) (f : Ctx → Ctx) : (s.modMyCtx f).flogs = s.flogs := rfl
@[simp] theorem modMyCtx_errEvts (s : State) (f : Ctx → Ctx) : (s.modMyCtx f).errEvts = s.errEvts := rfl
@[simp] theorem modMyCtx_score (s : State) (f : Ctx → Ctx) : (s.modMyCtx f).score = s.score := rfl
@[simp] theorem modMyCtx_scoreNew (s : State) (f : Ctx → Ctx) : (s.modMyCtx f).scoreNew = s.scoreNew := rfl
@[simp] theorem modMyCtx_scoreSet (s : State) (f : Ctx → Ctx) : (s.modMyCtx f).scoreSet = s.scoreSet := rfl
@[simp] theorem modMyCtx_dth (s : State) (f : Ctx → Ctx) : (s.modMyCtx f).dth = s.dth := rfl
@[simp] theorem modMyCtx_cth (s : State) (f : Ctx → Ctx) : (s.modMyCtx f).cth = s.cth := rfl
@[simp] theorem modMyCtx_pend (s : State) (f : Ctx → Ctx) : (s.modMyCtx f).pend = s.pend := rfl
@[simp] theorem modMyCtx_maskV (s : State) (f : Ctx → Ctx) : (s.modMyCtx f).maskV = s.maskV := rfl
@[simp] theorem modMyCtx_sent (s : State) (f : Ctx → Ctx) : (s.modMyCtx f).sent = s.sent := rfl
@[simp] theorem modMyCtx_causes (s : State) (f : Ctx → Ctx) : (s.modMyCtx f).causes = s.causes := rfl
@[simp] theorem modMyCtx_form (s : State) (f : Ctx → Ctx) : (s.modMyCtx f).form = s.form := rfl
@[simp] theorem modMyCtx_strapErr (s : State) (f : Ctx → Ctx) : (s.modMyCtx f).strapErr = s.strapErr := rfl
@[simp] theorem modMyCtx_bootMbx (s : State) (f : Ctx → Ctx) : (s.modMyCtx f).bootMbx = s.bootMbx := rfl
@[simp] theorem modMyCtx_dbg (s : State) (f : Ctx → Ctx) : (s.modMyCtx f).dbg = s.dbg := rfl
@[simp] theorem modMyCtx_stage (s : State) (f : Ctx → Ctx) : (s.modMyCtx f).stage = s.stage := rfl
@[simp] theorem modMyCtx_mailbox (s : State) (f : Ctx → Ctx) : (s.modMyCtx f).mailbox = s.mailbox := rfl
@[simp] theorem modMyCtx_fwLoaded (s : State) (f : Ctx → Ctx) : (s.modMyCtx f).fwLoaded = s.fwLoaded := rfl
@[simp] theorem modMyCtx_flashA (s : State) (f : Ctx → Ctx) : (s.modMyCtx f).flashA = s.flashA := rfl
@[simp] theorem modMyCtx_flashB (s : State) (f : Ctx → Ctx) : (s.modMyCtx f).flashB = s.flashB := rfl
@[simp] theorem modMyCtx_flashUse (s : State) (f : Ctx → Ctx) : (s.modMyCtx f).flashUse = s.flashUse := rfl
@[simp] theorem modMyCtx_trims (s : State) (f : Ctx → Ctx) : (s.modMyCtx f).trims = s.trims := rfl
@[simp] theorem modMyCtx_budget (s : State) (f : Ctx → Ctx) : (s.modMyCtx f).budget = s.budget := rfl
@[simp] theorem modMyCtx_scrubRate (s : State) (f : Ctx → Ctx) : (s.modMyCtx f).scrubRate = s.scrubRate := rfl
@[simp] theorem modMyCtx_skipRun (s : State) (f : Ctx → Ctx) : (s.modMyCtx f).skipRun = s.skipRun := rfl
@[simp] theorem modMyCtx_regErr (s : State) (f : Ctx → Ctx) : (s.modMyCtx f).regErr = s.regErr := rfl
@[simp] theorem modMyCtx_qpairs (s : State) (f : Ctx → Ctx) : (s.modMyCtx f).qpairs = s.qpairs := rfl
@[simp] theorem modMyCtx_devId (s : State) (f : Ctx → Ctx) : (s.modMyCtx f).devId = s.devId := rfl
@[simp] theorem modMyCtx_extBase (s : State) (f : Ctx → Ctx) : (s.modMyCtx f).extBase = s.extBase := rfl
@[simp] theorem modMyCtx_extSize (s : State) (f : Ctx → Ctx) : (s.modMyCtx f).extSize = s.extSize := rfl
@[simp] theorem modMyCtx_fabric (s : State) (f : Ctx → Ctx) : (s.modMyCtx f).fabric = s.fabric := rfl
@[simp] theorem modMyCtx_nseq (s : State) (f : Ctx → Ctx) : (s.modMyCtx f).nseq = s.nseq := rfl
@[simp] theorem modMyCtx_unacked (s : State) (f : Ctx → Ctx) : (s.modMyCtx f).unacked = s.unacked := rfl
@[simp] theorem modMyCtx_routes (s : State) (f : Ctx → Ctx) : (s.modMyCtx f).routes = s.routes := rfl
@[simp] theorem modMyCtx_routeUs (s : State) (f : Ctx → Ctx) : (s.modMyCtx f).routeUs = s.routeUs := rfl
@[simp] theorem modMyCtx_windows (s : State) (f : Ctx → Ctx) : (s.modMyCtx f).windows = s.windows := rfl
@[simp] theorem modMyCtx_ports (s : State) (f : Ctx → Ctx) : (s.modMyCtx f).ports = s.ports := rfl
@[simp] theorem modMyCtx_acksOut (s : State) (f : Ctx → Ctx) : (s.modMyCtx f).acksOut = s.acksOut := rfl
@[simp] theorem modMyCtx_hubActive (s : State) (f : Ctx → Ctx) : (s.modMyCtx f).hubActive = s.hubActive := rfl
@[simp] theorem modMyCtx_rdmaErr (s : State) (f : Ctx → Ctx) : (s.modMyCtx f).rdmaErr = s.rdmaErr := rfl
@[simp] theorem modMyCtx_blocks (s : State) (f : Ctx → Ctx) : (s.modMyCtx f).blocks = s.blocks := rfl

@[simp] theorem modDie_scan (s : State) (d : Nat) (f : Die → Die) : (s.modDie d f).scan = s.scan := rfl
@[simp] theorem modDie_skip (s : State) (d : Nat) (f : Die → Die) : (s.modDie d f).skip = s.skip := rfl
@[simp] theorem modDie_cur (s : State) (d : Nat) (f : Die → Die) : (s.modDie d f).cur = s.cur := rfl
@[simp] theorem modDie_entered (s : State) (d : Nat) (f : Die → Die) : (s.modDie d f).entered = s.entered := rfl
@[simp] theorem modDie_walked (s : State) (d : Nat) (f : Die → Die) : (s.modDie d f).walked = s.walked := rfl
@[simp] theorem modDie_offered (s : State) (d : Nat) (f : Die → Die) : (s.modDie d f).offered = s.offered := rfl
@[simp] theorem modDie_agenda (s : State) (d : Nat) (f : Die → Die) : (s.modDie d f).agenda = s.agenda := rfl
@[simp] theorem modDie_free (s : State) (d : Nat) (f : Die → Die) : (s.modDie d f).free = s.free := rfl
@[simp] theorem modDie_cores (s : State) (d : Nat) (f : Die → Die) : (s.modDie d f).cores = s.cores := rfl
@[simp] theorem modDie_parts (s : State) (d : Nat) (f : Die → Die) : (s.modDie d f).parts = s.parts := rfl
@[simp] theorem modDie_tqs (s : State) (d : Nat) (f : Die → Die) : (s.modDie d f).tqs = s.tqs := rfl
@[simp] theorem modDie_mem (s : State) (d : Nat) (f : Die → Die) : (s.modDie d f).mem = s.mem := rfl
@[simp] theorem modDie_shaSyn (s : State) (d : Nat) (f : Die → Die) : (s.modDie d f).shaSyn = s.shaSyn := rfl
@[simp] theorem modDie_hbmErr (s : State) (d : Nat) (f : Die → Die) : (s.modDie d f).hbmErr = s.hbmErr := rfl
@[simp] theorem modDie_hbmPois (s : State) (d : Nat) (f : Die → Die) : (s.modDie d f).hbmPois = s.hbmPois := rfl
@[simp] theorem modDie_rewrite (s : State) (d : Nat) (f : Die → Die) : (s.modDie d f).rewrite = s.rewrite := rfl
@[simp] theorem modDie_rows (s : State) (d : Nat) (f : Die → Die) : (s.modDie d f).rows = s.rows := rfl
@[simp] theorem modDie_accs (s : State) (d : Nat) (f : Die → Die) : (s.modDie d f).accs = s.accs := rfl
@[simp] theorem modDie_accNext (s : State) (d : Nat) (f : Die → Die) : (s.modDie d f).accNext = s.accNext := rfl
@[simp] theorem modDie_known (s : State) (d : Nat) (f : Die → Die) : (s.modDie d f).known = s.known := rfl
@[simp] theorem modDie_postg (s : State) (d : Nat) (f : Die → Die) : (s.modDie d f).postg = s.postg := rfl
@[simp] theorem modDie_postgNext (s : State) (d : Nat) (f : Die → Die) : (s.modDie d f).postgNext = s.postgNext := rfl
@[simp] theorem modDie_deps (s : State) (d : Nat) (f : Die → Die) : (s.modDie d f).deps = s.deps := rfl
@[simp] theorem modDie_depNext (s : State) (d : Nat) (f : Die → Die) : (s.modDie d f).depNext = s.depNext := rfl
@[simp] theorem modDie_launches (s : State) (d : Nat) (f : Die → Die) : (s.modDie d f).launches = s.launches := rfl
@[simp] theorem modDie_launchNext (s : State) (d : Nat) (f : Die → Die) : (s.modDie d f).launchNext = s.launchNext := rfl
@[simp] theorem modDie_dcount (s : State) (d : Nat) (f : Die → Die) : (s.modDie d f).dcount = s.dcount := rfl
@[simp] theorem modDie_colls (s : State) (d : Nat) (f : Die → Die) : (s.modDie d f).colls = s.colls := rfl
@[simp] theorem modDie_collNext (s : State) (d : Nat) (f : Die → Die) : (s.modDie d f).collNext = s.collNext := rfl
@[simp] theorem modDie_groups (s : State) (d : Nat) (f : Die → Die) : (s.modDie d f).groups = s.groups := rfl
@[simp] theorem modDie_pins (s : State) (d : Nat) (f : Die → Die) : (s.modDie d f).pins = s.pins := rfl
@[simp] theorem modDie_swaps (s : State) (d : Nat) (f : Die → Die) : (s.modDie d f).swaps = s.swaps := rfl
@[simp] theorem modDie_acts (s : State) (d : Nat) (f : Die → Die) : (s.modDie d f).acts = s.acts := rfl
@[simp] theorem modDie_actWidth (s : State) (d : Nat) (f : Die → Die) : (s.modDie d f).actWidth = s.actWidth := rfl
@[simp] theorem modDie_rowInd (s : State) (d : Nat) (f : Die → Die) : (s.modDie d f).rowInd = s.rowInd := rfl
@[simp] theorem modDie_swapThr (s : State) (d : Nat) (f : Die → Die) : (s.modDie d f).swapThr = s.swapThr := rfl
@[simp] theorem modDie_erase (s : State) (d : Nat) (f : Die → Die) : (s.modDie d f).erase = s.erase := rfl
@[simp] theorem modDie_seeds (s : State) (d : Nat) (f : Die → Die) : (s.modDie d f).seeds = s.seeds := rfl
@[simp] theorem modDie_spare (s : State) (d : Nat) (f : Die → Die) : (s.modDie d f).spare = s.spare := rfl
@[simp] theorem modDie_retired (s : State) (d : Nat) (f : Die → Die) : (s.modDie d f).retired = s.retired := rfl
@[simp] theorem modDie_errCnt (s : State) (d : Nat) (f : Die → Die) : (s.modDie d f).errCnt = s.errCnt := rfl
@[simp] theorem modDie_flogs (s : State) (d : Nat) (f : Die → Die) : (s.modDie d f).flogs = s.flogs := rfl
@[simp] theorem modDie_errEvts (s : State) (d : Nat) (f : Die → Die) : (s.modDie d f).errEvts = s.errEvts := rfl
@[simp] theorem modDie_score (s : State) (d : Nat) (f : Die → Die) : (s.modDie d f).score = s.score := rfl
@[simp] theorem modDie_scoreNew (s : State) (d : Nat) (f : Die → Die) : (s.modDie d f).scoreNew = s.scoreNew := rfl
@[simp] theorem modDie_scoreSet (s : State) (d : Nat) (f : Die → Die) : (s.modDie d f).scoreSet = s.scoreSet := rfl
@[simp] theorem modDie_dth (s : State) (d : Nat) (f : Die → Die) : (s.modDie d f).dth = s.dth := rfl
@[simp] theorem modDie_cth (s : State) (d : Nat) (f : Die → Die) : (s.modDie d f).cth = s.cth := rfl
@[simp] theorem modDie_pend (s : State) (d : Nat) (f : Die → Die) : (s.modDie d f).pend = s.pend := rfl
@[simp] theorem modDie_maskV (s : State) (d : Nat) (f : Die → Die) : (s.modDie d f).maskV = s.maskV := rfl
@[simp] theorem modDie_sent (s : State) (d : Nat) (f : Die → Die) : (s.modDie d f).sent = s.sent := rfl
@[simp] theorem modDie_causes (s : State) (d : Nat) (f : Die → Die) : (s.modDie d f).causes = s.causes := rfl
@[simp] theorem modDie_form (s : State) (d : Nat) (f : Die → Die) : (s.modDie d f).form = s.form := rfl
@[simp] theorem modDie_strapErr (s : State) (d : Nat) (f : Die → Die) : (s.modDie d f).strapErr = s.strapErr := rfl
@[simp] theorem modDie_bootMbx (s : State) (d : Nat) (f : Die → Die) : (s.modDie d f).bootMbx = s.bootMbx := rfl
@[simp] theorem modDie_dbg (s : State) (d : Nat) (f : Die → Die) : (s.modDie d f).dbg = s.dbg := rfl
@[simp] theorem modDie_stage (s : State) (d : Nat) (f : Die → Die) : (s.modDie d f).stage = s.stage := rfl
@[simp] theorem modDie_mailbox (s : State) (d : Nat) (f : Die → Die) : (s.modDie d f).mailbox = s.mailbox := rfl
@[simp] theorem modDie_fwLoaded (s : State) (d : Nat) (f : Die → Die) : (s.modDie d f).fwLoaded = s.fwLoaded := rfl
@[simp] theorem modDie_flashA (s : State) (d : Nat) (f : Die → Die) : (s.modDie d f).flashA = s.flashA := rfl
@[simp] theorem modDie_flashB (s : State) (d : Nat) (f : Die → Die) : (s.modDie d f).flashB = s.flashB := rfl
@[simp] theorem modDie_flashUse (s : State) (d : Nat) (f : Die → Die) : (s.modDie d f).flashUse = s.flashUse := rfl
@[simp] theorem modDie_trims (s : State) (d : Nat) (f : Die → Die) : (s.modDie d f).trims = s.trims := rfl
@[simp] theorem modDie_budget (s : State) (d : Nat) (f : Die → Die) : (s.modDie d f).budget = s.budget := rfl
@[simp] theorem modDie_scrubRate (s : State) (d : Nat) (f : Die → Die) : (s.modDie d f).scrubRate = s.scrubRate := rfl
@[simp] theorem modDie_skipRun (s : State) (d : Nat) (f : Die → Die) : (s.modDie d f).skipRun = s.skipRun := rfl
@[simp] theorem modDie_regErr (s : State) (d : Nat) (f : Die → Die) : (s.modDie d f).regErr = s.regErr := rfl
@[simp] theorem modDie_qpairs (s : State) (d : Nat) (f : Die → Die) : (s.modDie d f).qpairs = s.qpairs := rfl
@[simp] theorem modDie_devId (s : State) (d : Nat) (f : Die → Die) : (s.modDie d f).devId = s.devId := rfl
@[simp] theorem modDie_extBase (s : State) (d : Nat) (f : Die → Die) : (s.modDie d f).extBase = s.extBase := rfl
@[simp] theorem modDie_extSize (s : State) (d : Nat) (f : Die → Die) : (s.modDie d f).extSize = s.extSize := rfl
@[simp] theorem modDie_fabric (s : State) (d : Nat) (f : Die → Die) : (s.modDie d f).fabric = s.fabric := rfl
@[simp] theorem modDie_nseq (s : State) (d : Nat) (f : Die → Die) : (s.modDie d f).nseq = s.nseq := rfl
@[simp] theorem modDie_unacked (s : State) (d : Nat) (f : Die → Die) : (s.modDie d f).unacked = s.unacked := rfl
@[simp] theorem modDie_routes (s : State) (d : Nat) (f : Die → Die) : (s.modDie d f).routes = s.routes := rfl
@[simp] theorem modDie_routeUs (s : State) (d : Nat) (f : Die → Die) : (s.modDie d f).routeUs = s.routeUs := rfl
@[simp] theorem modDie_windows (s : State) (d : Nat) (f : Die → Die) : (s.modDie d f).windows = s.windows := rfl
@[simp] theorem modDie_ports (s : State) (d : Nat) (f : Die → Die) : (s.modDie d f).ports = s.ports := rfl
@[simp] theorem modDie_acksOut (s : State) (d : Nat) (f : Die → Die) : (s.modDie d f).acksOut = s.acksOut := rfl
@[simp] theorem modDie_hubActive (s : State) (d : Nat) (f : Die → Die) : (s.modDie d f).hubActive = s.hubActive := rfl
@[simp] theorem modDie_rdmaErr (s : State) (d : Nat) (f : Die → Die) : (s.modDie d f).rdmaErr = s.rdmaErr := rfl
@[simp] theorem modDie_blocks (s : State) (d : Nat) (f : Die → Die) : (s.modDie d f).blocks = s.blocks := rfl

@[simp] theorem modPart_scan (s : State) (p : Nat) (f : Part → Part) : (s.modPart p f).scan = s.scan := rfl
@[simp] theorem modPart_skip (s : State) (p : Nat) (f : Part → Part) : (s.modPart p f).skip = s.skip := rfl
@[simp] theorem modPart_cur (s : State) (p : Nat) (f : Part → Part) : (s.modPart p f).cur = s.cur := rfl
@[simp] theorem modPart_entered (s : State) (p : Nat) (f : Part → Part) : (s.modPart p f).entered = s.entered := rfl
@[simp] theorem modPart_walked (s : State) (p : Nat) (f : Part → Part) : (s.modPart p f).walked = s.walked := rfl
@[simp] theorem modPart_offered (s : State) (p : Nat) (f : Part → Part) : (s.modPart p f).offered = s.offered := rfl
@[simp] theorem modPart_agenda (s : State) (p : Nat) (f : Part → Part) : (s.modPart p f).agenda = s.agenda := rfl
@[simp] theorem modPart_free (s : State) (p : Nat) (f : Part → Part) : (s.modPart p f).free = s.free := rfl
@[simp] theorem modPart_cores (s : State) (p : Nat) (f : Part → Part) : (s.modPart p f).cores = s.cores := rfl
@[simp] theorem modPart_dies (s : State) (p : Nat) (f : Part → Part) : (s.modPart p f).dies = s.dies := rfl
@[simp] theorem modPart_tqs (s : State) (p : Nat) (f : Part → Part) : (s.modPart p f).tqs = s.tqs := rfl
@[simp] theorem modPart_mem (s : State) (p : Nat) (f : Part → Part) : (s.modPart p f).mem = s.mem := rfl
@[simp] theorem modPart_shaSyn (s : State) (p : Nat) (f : Part → Part) : (s.modPart p f).shaSyn = s.shaSyn := rfl
@[simp] theorem modPart_hbmErr (s : State) (p : Nat) (f : Part → Part) : (s.modPart p f).hbmErr = s.hbmErr := rfl
@[simp] theorem modPart_hbmPois (s : State) (p : Nat) (f : Part → Part) : (s.modPart p f).hbmPois = s.hbmPois := rfl
@[simp] theorem modPart_rewrite (s : State) (p : Nat) (f : Part → Part) : (s.modPart p f).rewrite = s.rewrite := rfl
@[simp] theorem modPart_rows (s : State) (p : Nat) (f : Part → Part) : (s.modPart p f).rows = s.rows := rfl
@[simp] theorem modPart_accs (s : State) (p : Nat) (f : Part → Part) : (s.modPart p f).accs = s.accs := rfl
@[simp] theorem modPart_accNext (s : State) (p : Nat) (f : Part → Part) : (s.modPart p f).accNext = s.accNext := rfl
@[simp] theorem modPart_known (s : State) (p : Nat) (f : Part → Part) : (s.modPart p f).known = s.known := rfl
@[simp] theorem modPart_postg (s : State) (p : Nat) (f : Part → Part) : (s.modPart p f).postg = s.postg := rfl
@[simp] theorem modPart_postgNext (s : State) (p : Nat) (f : Part → Part) : (s.modPart p f).postgNext = s.postgNext := rfl
@[simp] theorem modPart_deps (s : State) (p : Nat) (f : Part → Part) : (s.modPart p f).deps = s.deps := rfl
@[simp] theorem modPart_depNext (s : State) (p : Nat) (f : Part → Part) : (s.modPart p f).depNext = s.depNext := rfl
@[simp] theorem modPart_launches (s : State) (p : Nat) (f : Part → Part) : (s.modPart p f).launches = s.launches := rfl
@[simp] theorem modPart_launchNext (s : State) (p : Nat) (f : Part → Part) : (s.modPart p f).launchNext = s.launchNext := rfl
@[simp] theorem modPart_dcount (s : State) (p : Nat) (f : Part → Part) : (s.modPart p f).dcount = s.dcount := rfl
@[simp] theorem modPart_colls (s : State) (p : Nat) (f : Part → Part) : (s.modPart p f).colls = s.colls := rfl
@[simp] theorem modPart_collNext (s : State) (p : Nat) (f : Part → Part) : (s.modPart p f).collNext = s.collNext := rfl
@[simp] theorem modPart_groups (s : State) (p : Nat) (f : Part → Part) : (s.modPart p f).groups = s.groups := rfl
@[simp] theorem modPart_pins (s : State) (p : Nat) (f : Part → Part) : (s.modPart p f).pins = s.pins := rfl
@[simp] theorem modPart_swaps (s : State) (p : Nat) (f : Part → Part) : (s.modPart p f).swaps = s.swaps := rfl
@[simp] theorem modPart_acts (s : State) (p : Nat) (f : Part → Part) : (s.modPart p f).acts = s.acts := rfl
@[simp] theorem modPart_actWidth (s : State) (p : Nat) (f : Part → Part) : (s.modPart p f).actWidth = s.actWidth := rfl
@[simp] theorem modPart_rowInd (s : State) (p : Nat) (f : Part → Part) : (s.modPart p f).rowInd = s.rowInd := rfl
@[simp] theorem modPart_swapThr (s : State) (p : Nat) (f : Part → Part) : (s.modPart p f).swapThr = s.swapThr := rfl
@[simp] theorem modPart_erase (s : State) (p : Nat) (f : Part → Part) : (s.modPart p f).erase = s.erase := rfl
@[simp] theorem modPart_seeds (s : State) (p : Nat) (f : Part → Part) : (s.modPart p f).seeds = s.seeds := rfl
@[simp] theorem modPart_spare (s : State) (p : Nat) (f : Part → Part) : (s.modPart p f).spare = s.spare := rfl
@[simp] theorem modPart_retired (s : State) (p : Nat) (f : Part → Part) : (s.modPart p f).retired = s.retired := rfl
@[simp] theorem modPart_errCnt (s : State) (p : Nat) (f : Part → Part) : (s.modPart p f).errCnt = s.errCnt := rfl
@[simp] theorem modPart_flogs (s : State) (p : Nat) (f : Part → Part) : (s.modPart p f).flogs = s.flogs := rfl
@[simp] theorem modPart_errEvts (s : State) (p : Nat) (f : Part → Part) : (s.modPart p f).errEvts = s.errEvts := rfl
@[simp] theorem modPart_score (s : State) (p : Nat) (f : Part → Part) : (s.modPart p f).score = s.score := rfl
@[simp] theorem modPart_scoreNew (s : State) (p : Nat) (f : Part → Part) : (s.modPart p f).scoreNew = s.scoreNew := rfl
@[simp] theorem modPart_scoreSet (s : State) (p : Nat) (f : Part → Part) : (s.modPart p f).scoreSet = s.scoreSet := rfl
@[simp] theorem modPart_dth (s : State) (p : Nat) (f : Part → Part) : (s.modPart p f).dth = s.dth := rfl
@[simp] theorem modPart_cth (s : State) (p : Nat) (f : Part → Part) : (s.modPart p f).cth = s.cth := rfl
@[simp] theorem modPart_pend (s : State) (p : Nat) (f : Part → Part) : (s.modPart p f).pend = s.pend := rfl
@[simp] theorem modPart_maskV (s : State) (p : Nat) (f : Part → Part) : (s.modPart p f).maskV = s.maskV := rfl
@[simp] theorem modPart_sent (s : State) (p : Nat) (f : Part → Part) : (s.modPart p f).sent = s.sent := rfl
@[simp] theorem modPart_causes (s : State) (p : Nat) (f : Part → Part) : (s.modPart p f).causes = s.causes := rfl
@[simp] theorem modPart_form (s : State) (p : Nat) (f : Part → Part) : (s.modPart p f).form = s.form := rfl
@[simp] theorem modPart_strapErr (s : State) (p : Nat) (f : Part → Part) : (s.modPart p f).strapErr = s.strapErr := rfl
@[simp] theorem modPart_bootMbx (s : State) (p : Nat) (f : Part → Part) : (s.modPart p f).bootMbx = s.bootMbx := rfl
@[simp] theorem modPart_dbg (s : State) (p : Nat) (f : Part → Part) : (s.modPart p f).dbg = s.dbg := rfl
@[simp] theorem modPart_stage (s : State) (p : Nat) (f : Part → Part) : (s.modPart p f).stage = s.stage := rfl
@[simp] theorem modPart_mailbox (s : State) (p : Nat) (f : Part → Part) : (s.modPart p f).mailbox = s.mailbox := rfl
@[simp] theorem modPart_fwLoaded (s : State) (p : Nat) (f : Part → Part) : (s.modPart p f).fwLoaded = s.fwLoaded := rfl
@[simp] theorem modPart_flashA (s : State) (p : Nat) (f : Part → Part) : (s.modPart p f).flashA = s.flashA := rfl
@[simp] theorem modPart_flashB (s : State) (p : Nat) (f : Part → Part) : (s.modPart p f).flashB = s.flashB := rfl
@[simp] theorem modPart_flashUse (s : State) (p : Nat) (f : Part → Part) : (s.modPart p f).flashUse = s.flashUse := rfl
@[simp] theorem modPart_trims (s : State) (p : Nat) (f : Part → Part) : (s.modPart p f).trims = s.trims := rfl
@[simp] theorem modPart_budget (s : State) (p : Nat) (f : Part → Part) : (s.modPart p f).budget = s.budget := rfl
@[simp] theorem modPart_scrubRate (s : State) (p : Nat) (f : Part → Part) : (s.modPart p f).scrubRate = s.scrubRate := rfl
@[simp] theorem modPart_skipRun (s : State) (p : Nat) (f : Part → Part) : (s.modPart p f).skipRun = s.skipRun := rfl
@[simp] theorem modPart_regErr (s : State) (p : Nat) (f : Part → Part) : (s.modPart p f).regErr = s.regErr := rfl
@[simp] theorem modPart_qpairs (s : State) (p : Nat) (f : Part → Part) : (s.modPart p f).qpairs = s.qpairs := rfl
@[simp] theorem modPart_devId (s : State) (p : Nat) (f : Part → Part) : (s.modPart p f).devId = s.devId := rfl
@[simp] theorem modPart_extBase (s : State) (p : Nat) (f : Part → Part) : (s.modPart p f).extBase = s.extBase := rfl
@[simp] theorem modPart_extSize (s : State) (p : Nat) (f : Part → Part) : (s.modPart p f).extSize = s.extSize := rfl
@[simp] theorem modPart_fabric (s : State) (p : Nat) (f : Part → Part) : (s.modPart p f).fabric = s.fabric := rfl
@[simp] theorem modPart_nseq (s : State) (p : Nat) (f : Part → Part) : (s.modPart p f).nseq = s.nseq := rfl
@[simp] theorem modPart_unacked (s : State) (p : Nat) (f : Part → Part) : (s.modPart p f).unacked = s.unacked := rfl
@[simp] theorem modPart_routes (s : State) (p : Nat) (f : Part → Part) : (s.modPart p f).routes = s.routes := rfl
@[simp] theorem modPart_routeUs (s : State) (p : Nat) (f : Part → Part) : (s.modPart p f).routeUs = s.routeUs := rfl
@[simp] theorem modPart_windows (s : State) (p : Nat) (f : Part → Part) : (s.modPart p f).windows = s.windows := rfl
@[simp] theorem modPart_ports (s : State) (p : Nat) (f : Part → Part) : (s.modPart p f).ports = s.ports := rfl
@[simp] theorem modPart_acksOut (s : State) (p : Nat) (f : Part → Part) : (s.modPart p f).acksOut = s.acksOut := rfl
@[simp] theorem modPart_hubActive (s : State) (p : Nat) (f : Part → Part) : (s.modPart p f).hubActive = s.hubActive := rfl
@[simp] theorem modPart_rdmaErr (s : State) (p : Nat) (f : Part → Part) : (s.modPart p f).rdmaErr = s.rdmaErr := rfl
@[simp] theorem modPart_blocks (s : State) (p : Nat) (f : Part → Part) : (s.modPart p f).blocks = s.blocks := rfl

@[simp] theorem modTq_scan (s : State) (q : Nat) (f : TaskQ → TaskQ) : (s.modTq q f).scan = s.scan := rfl
@[simp] theorem modTq_skip (s : State) (q : Nat) (f : TaskQ → TaskQ) : (s.modTq q f).skip = s.skip := rfl
@[simp] theorem modTq_cur (s : State) (q : Nat) (f : TaskQ → TaskQ) : (s.modTq q f).cur = s.cur := rfl
@[simp] theorem modTq_entered (s : State) (q : Nat) (f : TaskQ → TaskQ) : (s.modTq q f).entered = s.entered := rfl
@[simp] theorem modTq_walked (s : State) (q : Nat) (f : TaskQ → TaskQ) : (s.modTq q f).walked = s.walked := rfl
@[simp] theorem modTq_offered (s : State) (q : Nat) (f : TaskQ → TaskQ) : (s.modTq q f).offered = s.offered := rfl
@[simp] theorem modTq_agenda (s : State) (q : Nat) (f : TaskQ → TaskQ) : (s.modTq q f).agenda = s.agenda := rfl
@[simp] theorem modTq_free (s : State) (q : Nat) (f : TaskQ → TaskQ) : (s.modTq q f).free = s.free := rfl
@[simp] theorem modTq_cores (s : State) (q : Nat) (f : TaskQ → TaskQ) : (s.modTq q f).cores = s.cores := rfl
@[simp] theorem modTq_dies (s : State) (q : Nat) (f : TaskQ → TaskQ) : (s.modTq q f).dies = s.dies := rfl
@[simp] theorem modTq_parts (s : State) (q : Nat) (f : TaskQ → TaskQ) : (s.modTq q f).parts = s.parts := rfl
@[simp] theorem modTq_mem (s : State) (q : Nat) (f : TaskQ → TaskQ) : (s.modTq q f).mem = s.mem := rfl
@[simp] theorem modTq_shaSyn (s : State) (q : Nat) (f : TaskQ → TaskQ) : (s.modTq q f).shaSyn = s.shaSyn := rfl
@[simp] theorem modTq_hbmErr (s : State) (q : Nat) (f : TaskQ → TaskQ) : (s.modTq q f).hbmErr = s.hbmErr := rfl
@[simp] theorem modTq_hbmPois (s : State) (q : Nat) (f : TaskQ → TaskQ) : (s.modTq q f).hbmPois = s.hbmPois := rfl
@[simp] theorem modTq_rewrite (s : State) (q : Nat) (f : TaskQ → TaskQ) : (s.modTq q f).rewrite = s.rewrite := rfl
@[simp] theorem modTq_rows (s : State) (q : Nat) (f : TaskQ → TaskQ) : (s.modTq q f).rows = s.rows := rfl
@[simp] theorem modTq_accs (s : State) (q : Nat) (f : TaskQ → TaskQ) : (s.modTq q f).accs = s.accs := rfl
@[simp] theorem modTq_accNext (s : State) (q : Nat) (f : TaskQ → TaskQ) : (s.modTq q f).accNext = s.accNext := rfl
@[simp] theorem modTq_known (s : State) (q : Nat) (f : TaskQ → TaskQ) : (s.modTq q f).known = s.known := rfl
@[simp] theorem modTq_postg (s : State) (q : Nat) (f : TaskQ → TaskQ) : (s.modTq q f).postg = s.postg := rfl
@[simp] theorem modTq_postgNext (s : State) (q : Nat) (f : TaskQ → TaskQ) : (s.modTq q f).postgNext = s.postgNext := rfl
@[simp] theorem modTq_deps (s : State) (q : Nat) (f : TaskQ → TaskQ) : (s.modTq q f).deps = s.deps := rfl
@[simp] theorem modTq_depNext (s : State) (q : Nat) (f : TaskQ → TaskQ) : (s.modTq q f).depNext = s.depNext := rfl
@[simp] theorem modTq_launches (s : State) (q : Nat) (f : TaskQ → TaskQ) : (s.modTq q f).launches = s.launches := rfl
@[simp] theorem modTq_launchNext (s : State) (q : Nat) (f : TaskQ → TaskQ) : (s.modTq q f).launchNext = s.launchNext := rfl
@[simp] theorem modTq_dcount (s : State) (q : Nat) (f : TaskQ → TaskQ) : (s.modTq q f).dcount = s.dcount := rfl
@[simp] theorem modTq_colls (s : State) (q : Nat) (f : TaskQ → TaskQ) : (s.modTq q f).colls = s.colls := rfl
@[simp] theorem modTq_collNext (s : State) (q : Nat) (f : TaskQ → TaskQ) : (s.modTq q f).collNext = s.collNext := rfl
@[simp] theorem modTq_groups (s : State) (q : Nat) (f : TaskQ → TaskQ) : (s.modTq q f).groups = s.groups := rfl
@[simp] theorem modTq_pins (s : State) (q : Nat) (f : TaskQ → TaskQ) : (s.modTq q f).pins = s.pins := rfl
@[simp] theorem modTq_swaps (s : State) (q : Nat) (f : TaskQ → TaskQ) : (s.modTq q f).swaps = s.swaps := rfl
@[simp] theorem modTq_acts (s : State) (q : Nat) (f : TaskQ → TaskQ) : (s.modTq q f).acts = s.acts := rfl
@[simp] theorem modTq_actWidth (s : State) (q : Nat) (f : TaskQ → TaskQ) : (s.modTq q f).actWidth = s.actWidth := rfl
@[simp] theorem modTq_rowInd (s : State) (q : Nat) (f : TaskQ → TaskQ) : (s.modTq q f).rowInd = s.rowInd := rfl
@[simp] theorem modTq_swapThr (s : State) (q : Nat) (f : TaskQ → TaskQ) : (s.modTq q f).swapThr = s.swapThr := rfl
@[simp] theorem modTq_erase (s : State) (q : Nat) (f : TaskQ → TaskQ) : (s.modTq q f).erase = s.erase := rfl
@[simp] theorem modTq_seeds (s : State) (q : Nat) (f : TaskQ → TaskQ) : (s.modTq q f).seeds = s.seeds := rfl
@[simp] theorem modTq_spare (s : State) (q : Nat) (f : TaskQ → TaskQ) : (s.modTq q f).spare = s.spare := rfl
@[simp] theorem modTq_retired (s : State) (q : Nat) (f : TaskQ → TaskQ) : (s.modTq q f).retired = s.retired := rfl
@[simp] theorem modTq_errCnt (s : State) (q : Nat) (f : TaskQ → TaskQ) : (s.modTq q f).errCnt = s.errCnt := rfl
@[simp] theorem modTq_flogs (s : State) (q : Nat) (f : TaskQ → TaskQ) : (s.modTq q f).flogs = s.flogs := rfl
@[simp] theorem modTq_errEvts (s : State) (q : Nat) (f : TaskQ → TaskQ) : (s.modTq q f).errEvts = s.errEvts := rfl
@[simp] theorem modTq_score (s : State) (q : Nat) (f : TaskQ → TaskQ) : (s.modTq q f).score = s.score := rfl
@[simp] theorem modTq_scoreNew (s : State) (q : Nat) (f : TaskQ → TaskQ) : (s.modTq q f).scoreNew = s.scoreNew := rfl
@[simp] theorem modTq_scoreSet (s : State) (q : Nat) (f : TaskQ → TaskQ) : (s.modTq q f).scoreSet = s.scoreSet := rfl
@[simp] theorem modTq_dth (s : State) (q : Nat) (f : TaskQ → TaskQ) : (s.modTq q f).dth = s.dth := rfl
@[simp] theorem modTq_cth (s : State) (q : Nat) (f : TaskQ → TaskQ) : (s.modTq q f).cth = s.cth := rfl
@[simp] theorem modTq_pend (s : State) (q : Nat) (f : TaskQ → TaskQ) : (s.modTq q f).pend = s.pend := rfl
@[simp] theorem modTq_maskV (s : State) (q : Nat) (f : TaskQ → TaskQ) : (s.modTq q f).maskV = s.maskV := rfl
@[simp] theorem modTq_sent (s : State) (q : Nat) (f : TaskQ → TaskQ) : (s.modTq q f).sent = s.sent := rfl
@[simp] theorem modTq_causes (s : State) (q : Nat) (f : TaskQ → TaskQ) : (s.modTq q f).causes = s.causes := rfl
@[simp] theorem modTq_form (s : State) (q : Nat) (f : TaskQ → TaskQ) : (s.modTq q f).form = s.form := rfl
@[simp] theorem modTq_strapErr (s : State) (q : Nat) (f : TaskQ → TaskQ) : (s.modTq q f).strapErr = s.strapErr := rfl
@[simp] theorem modTq_bootMbx (s : State) (q : Nat) (f : TaskQ → TaskQ) : (s.modTq q f).bootMbx = s.bootMbx := rfl
@[simp] theorem modTq_dbg (s : State) (q : Nat) (f : TaskQ → TaskQ) : (s.modTq q f).dbg = s.dbg := rfl
@[simp] theorem modTq_stage (s : State) (q : Nat) (f : TaskQ → TaskQ) : (s.modTq q f).stage = s.stage := rfl
@[simp] theorem modTq_mailbox (s : State) (q : Nat) (f : TaskQ → TaskQ) : (s.modTq q f).mailbox = s.mailbox := rfl
@[simp] theorem modTq_fwLoaded (s : State) (q : Nat) (f : TaskQ → TaskQ) : (s.modTq q f).fwLoaded = s.fwLoaded := rfl
@[simp] theorem modTq_flashA (s : State) (q : Nat) (f : TaskQ → TaskQ) : (s.modTq q f).flashA = s.flashA := rfl
@[simp] theorem modTq_flashB (s : State) (q : Nat) (f : TaskQ → TaskQ) : (s.modTq q f).flashB = s.flashB := rfl
@[simp] theorem modTq_flashUse (s : State) (q : Nat) (f : TaskQ → TaskQ) : (s.modTq q f).flashUse = s.flashUse := rfl
@[simp] theorem modTq_trims (s : State) (q : Nat) (f : TaskQ → TaskQ) : (s.modTq q f).trims = s.trims := rfl
@[simp] theorem modTq_budget (s : State) (q : Nat) (f : TaskQ → TaskQ) : (s.modTq q f).budget = s.budget := rfl
@[simp] theorem modTq_scrubRate (s : State) (q : Nat) (f : TaskQ → TaskQ) : (s.modTq q f).scrubRate = s.scrubRate := rfl
@[simp] theorem modTq_skipRun (s : State) (q : Nat) (f : TaskQ → TaskQ) : (s.modTq q f).skipRun = s.skipRun := rfl
@[simp] theorem modTq_regErr (s : State) (q : Nat) (f : TaskQ → TaskQ) : (s.modTq q f).regErr = s.regErr := rfl
@[simp] theorem modTq_qpairs (s : State) (q : Nat) (f : TaskQ → TaskQ) : (s.modTq q f).qpairs = s.qpairs := rfl
@[simp] theorem modTq_devId (s : State) (q : Nat) (f : TaskQ → TaskQ) : (s.modTq q f).devId = s.devId := rfl
@[simp] theorem modTq_extBase (s : State) (q : Nat) (f : TaskQ → TaskQ) : (s.modTq q f).extBase = s.extBase := rfl
@[simp] theorem modTq_extSize (s : State) (q : Nat) (f : TaskQ → TaskQ) : (s.modTq q f).extSize = s.extSize := rfl
@[simp] theorem modTq_fabric (s : State) (q : Nat) (f : TaskQ → TaskQ) : (s.modTq q f).fabric = s.fabric := rfl
@[simp] theorem modTq_nseq (s : State) (q : Nat) (f : TaskQ → TaskQ) : (s.modTq q f).nseq = s.nseq := rfl
@[simp] theorem modTq_unacked (s : State) (q : Nat) (f : TaskQ → TaskQ) : (s.modTq q f).unacked = s.unacked := rfl
@[simp] theorem modTq_routes (s : State) (q : Nat) (f : TaskQ → TaskQ) : (s.modTq q f).routes = s.routes := rfl
@[simp] theorem modTq_routeUs (s : State) (q : Nat) (f : TaskQ → TaskQ) : (s.modTq q f).routeUs = s.routeUs := rfl
@[simp] theorem modTq_windows (s : State) (q : Nat) (f : TaskQ → TaskQ) : (s.modTq q f).windows = s.windows := rfl
@[simp] theorem modTq_ports (s : State) (q : Nat) (f : TaskQ → TaskQ) : (s.modTq q f).ports = s.ports := rfl
@[simp] theorem modTq_acksOut (s : State) (q : Nat) (f : TaskQ → TaskQ) : (s.modTq q f).acksOut = s.acksOut := rfl
@[simp] theorem modTq_hubActive (s : State) (q : Nat) (f : TaskQ → TaskQ) : (s.modTq q f).hubActive = s.hubActive := rfl
@[simp] theorem modTq_rdmaErr (s : State) (q : Nat) (f : TaskQ → TaskQ) : (s.modTq q f).rdmaErr = s.rdmaErr := rfl
@[simp] theorem modTq_blocks (s : State) (q : Nat) (f : TaskQ → TaskQ) : (s.modTq q f).blocks = s.blocks := rfl

theorem modCore_congr (s : State) (n : Nat) (f g : Core → Core) (h : f (s.core n) = g (s.core n)) :
    s.modCore n f = s.modCore n g := by
  unfold State.modCore; rw [h]

theorem core_modCtx_congr (c : Core) (n : Nat) (f g : Ctx → Ctx) (h : f (c.ctx n) = g (c.ctx n)) :
    c.modCtx n f = c.modCtx n g := by
  unfold Core.modCtx; rw [h]

theorem modCtx_congr (s : State) (k : Who) (f g : Ctx → Ctx) (h : f (s.ctxOf k) = g (s.ctxOf k)) :
    s.modCtx k f = s.modCtx k g :=
  modCore_congr _ _ _ _ (core_modCtx_congr _ _ _ _ h)

@[simp] theorem core_modCore (s : State) (n m : Nat) (f : Core → Core) :
    (s.modCore n f).core m = if m = n then f (s.core n) else s.core m := by
  simp only [State.modCore, State.core, tblGet_tblPut]

@[simp] theorem ctx_modCtx (c : Core) (n m : Nat) (f : Ctx → Ctx) :
    (c.modCtx n f).ctx m = if m = n then f (c.ctx n) else c.ctx m := by
  simp only [Core.modCtx, Core.ctx, tblGet_tblPut]

theorem clu_num_inj {x y : Clu} (h : x.num = y.num) : x = y := by
  cases x <;> cases y <;> first | rfl | exact absurd h (by decide)

@[simp] theorem ctx_clu_modClu (x : Ctx) (u w : Clu) (f : Cluster → Cluster) :
    (x.modClu u f).clu w = if w = u then f (x.clu u) else x.clu w := by
  simp only [Ctx.modClu, Ctx.clu, tblGet_tblPut]
  by_cases h : w = u
  · simp [h]
  · rw [if_neg h, if_neg fun e => h (clu_num_inj e)]

/-- The same context of the same core. -/
def SameCtx (j k : Who) : Prop := j.core = k.core ∧ j.ctx = k.ctx

@[simp] theorem ctxOf_modCtx (s : State) (k : Who) (f : Ctx → Ctx) : (s.modCtx k f).ctxOf k = f (s.ctxOf k) := by
  simp [State.ctxOf, State.modCtx]

theorem ctxOf_modCtx_same (s : State) (j k : Who) (f : Ctx → Ctx) (h : SameCtx j k) :
    (s.modCtx k f).ctxOf j = f (s.ctxOf k) := by
  simp [State.ctxOf, State.modCtx, h.1, h.2]

theorem ctxOf_modCtx_other (s : State) (j k : Who) (f : Ctx → Ctx) (h : ¬SameCtx j k) :
    (s.modCtx k f).ctxOf j = s.ctxOf j := by
  simp only [State.ctxOf, State.modCtx, core_modCore]
  by_cases g : j.core = k.core
  · rw [if_pos g, ctx_modCtx, if_neg fun e => h ⟨g, e⟩, g]
  · rw [if_neg g]

@[simp] theorem clu_modClu (s : State) (k : Who) (f : Cluster → Cluster) : (s.modClu k f).clu k = f (s.clu k) := by
  simp [State.clu, State.modClu]

theorem clu_modClu_other (s : State) (j k : Who) (f : Cluster → Cluster) (h : j ≠ k) :
    (s.modClu k f).clu j = s.clu j := by
  unfold State.clu State.modClu
  by_cases g : SameCtx j k
  · rw [ctxOf_modCtx_same _ _ _ _ g, ctx_clu_modClu]
    have e : j.clu ≠ k.clu := by
      intro e
      obtain ⟨j1, j2, j3⟩ := j
      obtain ⟨k1, k2, k3⟩ := k
      obtain ⟨g1, g2⟩ := g
      simp only at g1 g2 e
      subst g1; subst g2; subst e
      exact h rfl
    rw [if_neg e]
    unfold State.ctxOf
    rw [g.1, g.2]
  · rw [ctxOf_modCtx_other _ _ _ _ g]

@[simp] theorem me_modMe (s : State) (f : Cluster → Cluster) : (s.modMe f).me = f s.me := clu_modClu s s.cur f
@[simp] theorem myCtx_modMyCtx (s : State) (f : Ctx → Ctx) : (s.modMyCtx f).myCtx = f s.myCtx := ctxOf_modCtx s s.cur f
@[simp] theorem myCtx_modMe (s : State) (f : Cluster → Cluster) :
    (s.modMe f).myCtx = s.myCtx.modClu s.cur.clu f := ctxOf_modCtx s s.cur _

@[simp] theorem die_modDie (s : State) (d e : Nat) (f : Die → Die) :
    (s.modDie d f).die e = if e = d then f (s.die d) else s.die e := by
  simp only [State.modDie, State.die, tblGet_tblPut]
@[simp] theorem part_modPart (s : State) (p q : Nat) (f : Part → Part) :
    (s.modPart p f).part q = if q = p then f (s.part p) else s.part q := by
  simp only [State.modPart, State.part, tblGet_tblPut]
@[simp] theorem tq_modTq (s : State) (p q : Nat) (f : TaskQ → TaskQ) :
    (s.modTq p f).tq q = if q = p then f (s.tq p) else s.tq q := by
  simp only [State.modTq, State.tq, tblGet_tblPut]

@[simp] theorem die_modCore (s : State) (n d : Nat) (f : Core → Core) : (s.modCore n f).die d = s.die d := rfl
@[simp] theorem die_modCtx (s : State) (k : Who) (d : Nat) (f : Ctx → Ctx) : (s.modCtx k f).die d = s.die d := rfl
@[simp] theorem die_modClu (s : State) (k : Who) (d : Nat) (f : Cluster → Cluster) : (s.modClu k f).die d = s.die d := rfl
@[simp] theorem part_modCore (s : State) (n p : Nat) (f : Core → Core) : (s.modCore n f).part p = s.part p := rfl
@[simp] theorem part_modCtx (s : State) (k : Who) (p : Nat) (f : Ctx → Ctx) : (s.modCtx k f).part p = s.part p := rfl
@[simp] theorem part_modClu (s : State) (k : Who) (p : Nat) (f : Cluster → Cluster) :
    (s.modClu k f).part p = s.part p := rfl
@[simp] theorem core_modDie (s : State) (n d : Nat) (f : Die → Die) : (s.modDie d f).core n = s.core n := rfl
@[simp] theorem core_modPart (s : State) (n p : Nat) (f : Part → Part) : (s.modPart p f).core n = s.core n := rfl
@[simp] theorem core_modTq (s : State) (n q : Nat) (f : TaskQ → TaskQ) : (s.modTq q f).core n = s.core n := rfl
@[simp] theorem ctxOf_modDie (s : State) (k : Who) (d : Nat) (f : Die → Die) : (s.modDie d f).ctxOf k = s.ctxOf k := rfl
@[simp] theorem ctxOf_modPart (s : State) (k : Who) (p : Nat) (f : Part → Part) :
    (s.modPart p f).ctxOf k = s.ctxOf k := rfl
@[simp] theorem clu_modDie (s : State) (k : Who) (d : Nat) (f : Die → Die) : (s.modDie d f).clu k = s.clu k := rfl
@[simp] theorem clu_modPart (s : State) (k : Who) (p : Nat) (f : Part → Part) : (s.modPart p f).clu k = s.clu k := rfl

/-- A write to s0 or p0 is discarded; any other register holds what was written (Table 4.1). -/
theorem sreg_setS (c : Cluster) (r q : Nat) (v : Word) :
    (c.setS r v).sreg q = if q = r ∧ r ≠ 0 then v else c.sreg q := by
  by_cases h : r = 0
  · subst h
    have g : ¬(q = 0 ∧ 0 ≠ 0) := fun g => g.2 rfl
    rw [if_neg g]; rfl
  · unfold Cluster.setS Cluster.sreg
    rw [if_neg h]
    by_cases e : q = r
    · subst e
      simp [h]
    · simp [e]
theorem preg_setP (c : Cluster) (r q : Nat) (v : Bool) :
    (c.setP r v).preg q = if q = r ∧ r ≠ 0 then v else c.preg q := by
  by_cases h : r = 0
  · subst h
    have g : ¬(q = 0 ∧ 0 ≠ 0) := fun g => g.2 rfl
    rw [if_neg g]; rfl
  · unfold Cluster.setP Cluster.preg
    rw [if_neg h]
    by_cases e : q = r
    · subst e
      simp [h]
    · simp [e]

end Sys2Proof.Machine
end

