-- ==== Sys2Proof/Laws/Issue.lean ====
section
/-! SUPPORT. How a word issues: what popping tokens leaves, when no stall stands before the effect, and the one
lemma that every completion goes through: a word that issues and whose effect is done ends in State.issued. -/

namespace Sys2Proof.Machine

/-- Popping tokens changes token counts only. -/
theorem popTok_foldl (l : List Nat) (x : Ctx) : ∃ tk, l.foldl Ctx.popTok x = { x with tok := tk } := by
  induction l generalizing x with
  | nil => exact ⟨x.tok, rfl⟩
  | cons q r ih =>
    obtain ⟨tk, h⟩ := ih (x.popTok q)
    exact ⟨tk, by rw [List.foldl_cons, h]; rfl⟩

/-- Handing on what happens before changes the model's own bookkeeping only. -/
theorem teach_eq (s : State) (l : List Nat) (p : Party) : ∃ kn, s.teach l p = { s with known := kn } := by
  unfold State.teach
  dsimp only
  split
  · exact ⟨s.known, rfl⟩
  · exact ⟨_, rfl⟩

theorem hands_eq {α : Type} (f g : α → Party) (l : List α) (s : State) :
    ∃ kn, l.foldl (fun t q => t.hand (f q) (g q)) s = { s with known := kn } := by
  induction l generalizing s with
  | nil => exact ⟨s.known, rfl⟩
  | cons q r ih =>
    obtain ⟨k1, h1⟩ := teach_eq s (s.past (f q)) (g q)
    obtain ⟨k2, h2⟩ := ih (s.hand (f q) (g q))
    exact ⟨k2, by rw [List.foldl_cons, h2, State.hand, h1]⟩

/-- Popping a word's tokens changes token counts, and what the cluster has acquired with them (R240). -/
theorem taken_eq (s : State) (h : Hdr) :
    ∃ tk kn, s.taken h = { s.modMyCtx (fun x => { x with tok := tk }) with known := kn } := by
  obtain ⟨tk, e⟩ := popTok_foldl (waitQueues s.cur.clu h.wait) s.myCtx
  obtain ⟨kn, k⟩ := hands_eq (fun q => .tok s.cur.core s.cur.ctx q 0) (fun _ => .clu s.cur)
    (waitQueues s.cur.clu h.wait) (s.modMyCtx fun x => (waitQueues s.cur.clu h.wait).foldl Ctx.popTok x)
  refine ⟨tk, kn, k.trans ?_⟩
  rw [show s.modMyCtx (fun x => (waitQueues s.cur.clu h.wait).foldl Ctx.popTok x) = s.modMyCtx fun x => { x with tok := tk }
    from modCtx_congr _ _ _ _ e]

/-- It keeps every part of the state that is neither. -/
theorem taken_fld {α : Type} (g : State → α) (hg : ∀ s f kn, g { State.modMyCtx s f with known := kn } = g s)
    (s : State) (h : Hdr) : g (s.taken h) = g s := by
  obtain ⟨tk, kn, e⟩ := taken_eq s h
  rw [e, hg]

@[simp] theorem taken_cur (s : State) (h : Hdr) : (s.taken h).cur = s.cur := taken_fld _ (fun _ _ _ => rfl) s h
@[simp] theorem taken_mem (s : State) (h : Hdr) : (s.taken h).mem = s.mem := taken_fld _ (fun _ _ _ => rfl) s h
@[simp] theorem taken_accs (s : State) (h : Hdr) : (s.taken h).accs = s.accs := taken_fld _ (fun _ _ _ => rfl) s h
@[simp] theorem taken_dies (s : State) (h : Hdr) : (s.taken h).dies = s.dies := taken_fld _ (fun _ _ _ => rfl) s h
@[simp] theorem taken_die (s : State) (h : Hdr) (d : Nat) : (s.taken h).die d = s.die d :=
  taken_fld (fun s => s.die d) (fun _ _ _ => rfl) s h
@[simp] theorem taken_part (s : State) (h : Hdr) (p : Nat) : (s.taken h).part p = s.part p :=
  taken_fld (fun s => s.part p) (fun _ _ _ => rfl) s h

/-- The context after tokens are popped: all but the token counts is as it was. -/
theorem taken_ctx (s : State) (h : Hdr) : ∃ tk, (s.taken h).myCtx = { s.myCtx with tok := tk } := by
  obtain ⟨tk, kn, e⟩ := taken_eq s h
  refine ⟨tk, ?_⟩
  rw [e]
  exact myCtx_modMyCtx s _

@[simp] theorem taken_me (s : State) (h : Hdr) : (s.taken h).me = s.me := by
  obtain ⟨tk, e⟩ := taken_ctx s h
  show (s.taken h).myCtx.clu (s.taken h).cur.clu = s.myCtx.clu s.cur.clu
  rw [e, taken_cur]; rfl

@[simp] theorem taken_task (s : State) (h : Hdr) : (s.taken h).myTask = s.myTask := by
  obtain ⟨tk, e⟩ := taken_ctx s h
  show ((s.taken h).myCtx.task).getD _ = (s.myCtx.task).getD _
  rw [e]

/-- A calm cluster waits for no register. -/
theorem calm_interlocked (c : Cluster) (h : c.calm) (reads : List Loc) : c.interlocked reads = false := by
  unfold Cluster.interlocked
  rw [List.any_eq_false]
  intro f hf
  rcases h f hf with g | g <;> simp <;> omega

/-- A word that issues lies in no group of a stage that is off, and none of its prefixes ends a stage. -/
theorem issues_stage (s : State) (i : Instr) (h : Hdr) (k : s.Issues i h) :
    s.me.idleGroup (leadOf i) (s.wordPc i) = false ∧ s.me.idlePrefix (leadOf i) = none := by
  refine ⟨by simp [Cluster.idleGroup, k.stage], ?_⟩
  have hp : s.me.prefixAtEnd (leadOf i) = false := by
    have c := k.checks
    unfold State.wordFault at c
    split at c
    · cases c
    · split at c
      · cases c
      · split at c
        · cases c
        · exact Bool.eq_false_iff.2 ‹_›
  have hn : ((List.range (leadOf i)).map fun j => s.me.pc.toNat + 4 * j).find? (fun w => s.me.endsStage w) = none := by
    rw [List.find?_eq_none]
    intro w hw e
    obtain ⟨j, hj, rfl⟩ := List.mem_map.1 hw
    unfold Cluster.prefixAtEnd at hp
    rw [List.any_eq_false] at hp
    exact hp j hj (by simp [e])
  unfold Cluster.idlePrefix
  rw [hn]

/-- Nothing keeps the cluster of a word that issues from issuing. -/
theorem issues_noIssue (s : State) (i : Instr) (h : Hdr) (k : s.Issues i h) : s.me.noIssue = none := by
  simp [Cluster.noIssue, k.free, k.pushed]

/-- A word that issues, and whose effect on the state with its tokens popped is done, has issued. -/
theorem runWord_done (s : State) (i : Instr) (h : Hdr) (m : Meaning) (t : State) (n : Next)
    (k : s.Issues i h) (e : m.act (s.taken h) = .done t n) :
    runWord i h m s = .next (s.issued i h m.sig t n) := by
  unfold runWord State.issue
  simp [k.running, issues_stage s i h k, k.checks, issues_noIssue s i h k, k.tokens, calm_interlocked s.me k.calm, e, k.sync]

/-- A word that issues and only computes results gives them. -/
theorem runWord_compute (s : State) (i : Instr) (h : Hdr) (reads : List Loc) (cls : Nat) (f : State → List Res)
    (k : s.Issues i h) : runWord i h (compute reads cls f) s = .next (s.gives i h cls (f (s.taken h))) :=
  runWord_done s i h _ _ _ k rfl

/-- A word that faults when it would issue takes the fault. -/
theorem runWord_fault (s : State) (i : Instr) (h : Hdr) (m : Meaning) (f : FaultInfo)
    (k : s.Issues i h) (e : m.act (s.taken h) = .fault f) : runWord i h m s = .next (s.precise f) := by
  unfold runWord State.issue
  simp [k.running, issues_stage s i h k, k.checks, issues_noIssue s i h k, k.tokens, calm_interlocked s.me k.calm, e, k.sync]

/-- A word that waits takes the sc; its tokens are put back. -/
theorem runWord_stall (s : State) (i : Instr) (h : Hdr) (m : Meaning) (w : Wait) (t : State)
    (k : s.Issues i h) (e : m.act (s.taken h) = .stall w t) :
    runWord i h m s = .next ((t.modMyCtx fun x => { x with tok := s.myCtx.tok }).stallOn w) := by
  unfold runWord State.issue
  simp [k.running, issues_stage s i h k, k.checks, issues_noIssue s i h k, k.tokens, calm_interlocked s.me k.calm, e, k.sync]

end Sys2Proof.Machine
end

