-- ==== Sys2Proof/Laws/Memory.lean ====
section
/-! SUPPORT. The canonical form of the memories: every operation that reads or writes rows keeps it, and so does every
update that leaves the memories of a core alone. -/

namespace Sys2Proof.Machine

theorem memWf_iff (s : State) :
    s.memWf = true ↔ s.mem.wf = true ∧ ∀ e ∈ s.cores, e.2.frame.wf = true ∧ e.2.spm.wf = true := by
  simp [State.memWf]

theorem memWf_of_same (s t : State) (hm : t.mem = s.mem) (hc : t.cores = s.cores) (w : s.memWf = true) :
    t.memWf = true := by
  simp only [State.memWf, hm, hc] at *
  exact w

/-- A core of a state whose memories are canonical has canonical memories. -/
theorem core_wf (s : State) (n : Nat) (w : s.memWf = true) :
    (s.core n).frame.wf = true ∧ (s.core n).spm.wf = true := by
  have h := ((memWf_iff s).1 w).2
  unfold State.core tblGet
  cases hf : tblFind s.cores n with
  | none => exact ⟨rfl, rfl⟩
  | some c =>
    obtain ⟨e, he, rfl⟩ : ∃ e ∈ s.cores, e.2 = c := by
      clear h w
      generalize s.cores = l at hf
      induction l with
      | nil => simp [tblFind] at hf
      | cons e r ih =>
        obtain ⟨k, v⟩ := e
        unfold tblFind at hf
        split at hf
        · exact ⟨(k, v), List.mem_cons_self, by simpa using hf⟩
        · obtain ⟨e, he, h⟩ := ih hf
          exact ⟨e, List.mem_cons_of_mem _ he, h⟩
    exact h e he

/-- Changing a core keeps the form where the change keeps the core's two memories in it. -/
theorem memWf_modCore (s : State) (n : Nat) (f : Core → Core) (w : s.memWf = true)
    (hf : (f (s.core n)).frame.wf = true ∧ (f (s.core n)).spm.wf = true) : (s.modCore n f).memWf = true := by
  refine (memWf_iff _).2 ⟨((memWf_iff s).1 w).1, fun e he => ?_⟩
  rcases mem_tblPut s.cores n (f (s.core n)) e he with h | h
  · subst h
    exact hf
  · exact ((memWf_iff s).1 w).2 e h

theorem memWf_modCore_same (s : State) (n : Nat) (f : Core → Core) (w : s.memWf = true)
    (hf : (f (s.core n)).frame = (s.core n).frame) (hs : (f (s.core n)).spm = (s.core n).spm) :
    (s.modCore n f).memWf = true := by
  refine memWf_modCore s n f w ?_
  rw [hf, hs]
  exact core_wf s n w

@[simp] theorem memWf_modCtx (s : State) (k : Who) (f : Ctx → Ctx) (w : s.memWf = true) : (s.modCtx k f).memWf = true :=
  memWf_modCore_same s k.core _ w rfl rfl
@[simp] theorem memWf_modClu (s : State) (k : Who) (f : Cluster → Cluster) (w : s.memWf = true) :
    (s.modClu k f).memWf = true := memWf_modCtx s k _ w
@[simp] theorem memWf_modMe (s : State) (f : Cluster → Cluster) (w : s.memWf = true) : (s.modMe f).memWf = true :=
  memWf_modClu s s.cur f w
@[simp] theorem memWf_modMyCtx (s : State) (f : Ctx → Ctx) (w : s.memWf = true) : (s.modMyCtx f).memWf = true :=
  memWf_modCtx s s.cur f w
@[simp] theorem memWf_modDie (s : State) (d : Nat) (f : Die → Die) : (s.modDie d f).memWf = s.memWf := rfl
@[simp] theorem memWf_modPart (s : State) (p : Nat) (f : Part → Part) : (s.modPart p f).memWf = s.memWf := rfl

/-- The contents of the memory may change to any canonical ones. -/
theorem memWf_mem (s t : State) (hc : t.cores = s.cores) (hm : t.mem.wf = true) (w : s.memWf = true) :
    t.memWf = true := by
  rw [memWf_iff] at *
  rw [hc]
  exact ⟨hm, w.2⟩

theorem eccRead_wf (n : Nat) : ∀ (m : Mem) (y : Tbl (BitVec 7)) (a : Nat), m.wf = true →
    (eccRead n m y a).2.2.1.wf = true := by
  induction n with
  | zero => intro m y a w; exact w
  | succ n ih =>
    intro m y a w
    unfold eccRead
    refine ih _ _ _ ?_
    split
    · exact w
    · exact w
    · exact Mem.writeN_wf _ _ _ _ w
    · exact w

theorem eccWrite_wf (n : Nat) : ∀ (m : Mem) (y : Tbl (BitVec 7)) (a mask data pois : Nat), m.wf = true →
    (eccWrite n m y a mask data pois).1.wf = true := by
  induction n with
  | zero => intro m y a mask data pois w; exact w
  | succ n ih =>
    intro m y a mask data pois w
    unfold eccWrite
    refine ih _ _ _ _ _ _ ?_
    split
    · exact w
    · split
      · exact Mem.writeN_wf _ _ _ _ w
      · exact Mem.writeN_wf _ _ _ _ w

@[simp] theorem errEvent_mem (s : State) (e : ErrEvt) : (s.errEvent e).mem = s.mem := rfl
@[simp] theorem errEvent_cores (s : State) (e : ErrEvt) : (s.errEvent e).cores = s.cores := rfl

theorem foldl_same {α : Type} (f : State → α → State) (h : ∀ s e, (f s e).mem = s.mem ∧ (f s e).cores = s.cores)
    (l : List α) : ∀ s : State, (l.foldl f s).mem = s.mem ∧ (l.foldl f s).cores = s.cores := by
  induction l with
  | nil => intro s; exact ⟨rfl, rfl⟩
  | cons e r ih => intro s; exact ⟨(ih _).1.trans (h s e).1, (ih _).2.trans (h s e).2⟩

theorem spmEvents_same (s : State) (n tag : Nat) (l : List (Nat × BitVec 7 × Bool)) :
    (s.spmEvents n tag l).mem = s.mem ∧ (s.spmEvents n tag l).cores = s.cores := by
  unfold State.spmEvents
  exact foldl_same (fun s e => s.errEvent _) (fun _ _ => ⟨rfl, rfl⟩) l s

theorem shaEvents_same (s : State) (kind tag : Nat) (l : List (Nat × BitVec 7 × Bool)) :
    (s.shaEvents kind tag l).mem = s.mem ∧ (s.shaEvents kind tag l).cores = s.cores := by
  unfold State.shaEvents
  exact foldl_same (fun s e => s.errEvent _) (fun _ _ => ⟨rfl, rfl⟩) l s

/-- Reading a row of a scratchpad keeps the form (a corrected word is written back). -/
theorem spmRead_wf (s : State) (n a tag : Nat) (w : s.memWf = true) : (s.spmRead n a tag).1.memWf = true := by
  unfold State.spmRead
  simp only
  split
  · exact w
  · have h := eccRead_wf 16 (s.core n).spm (s.core n).syn (a % 2 ^ 20 / 64 * 64) (core_wf s n w).2
    revert h
    generalize eccRead 16 (s.core n).spm (s.core n).syn (a % 2 ^ 20 / 64 * 64) = r
    obtain ⟨d, p, m, y, ev⟩ := r
    intro h
    refine memWf_of_same _ _ (spmEvents_same ..).1 (spmEvents_same ..).2 ?_
    exact memWf_modCore s n _ w ⟨(core_wf s n w).1, h⟩

theorem spmWrite_wf (s : State) (n a mask data pois : Nat) (w : s.memWf = true) :
    (s.spmWrite n a mask data pois).memWf = true :=
  memWf_modCore s n _ w ⟨(core_wf s n w).1, eccWrite_wf 16 _ _ _ _ _ _ (core_wf s n w).2⟩

theorem spoilLine_wf (s : State) (sa : Nat) (w : s.memWf = true) : (s.spoilLine sa).memWf = true :=
  memWf_mem s _ rfl (Mem.writeN_wf 64 _ _ _ ((memWf_iff s).1 w).1) w

theorem hbmEvent_wf (s : State) (sa kind tag detail : Nat) (w : s.memWf = true) :
    (s.hbmEvent sa kind tag detail).memWf = true := memWf_of_same _ _ rfl rfl w

/-- Counting an activation changes no memory. -/
theorem activate_wf (s : State) (sa : Nat) (w : s.memWf = true) : (s.activate sa).memWf = true := by
  unfold State.activate
  split
  · exact w
  · exact memWf_of_same s _ rfl rfl w

theorem hbmRead_wf (s : State) (sa tag : Nat) (w : s.memWf = true) : (s.hbmRead sa tag).1.memWf = true := by
  unfold State.hbmRead
  have w := activate_wf s sa w
  revert w
  generalize s.activate sa = t
  intro w
  simp only
  split
  · exact w
  · exact memWf_of_same t _ rfl rfl w
  · exact spoilLine_wf _ _ (hbmEvent_wf _ _ _ _ _ w)

theorem hbmWrite_wf (s : State) (sa mask data pois tag : Nat) (w : s.memWf = true) :
    (s.hbmWrite sa mask data pois tag).memWf = true := by
  have put (t : State) (h : t.memWf = true) (v : Nat) : ({ t with mem := t.mem.writeN sa 64 v } : State).memWf = true :=
    memWf_mem t _ rfl (Mem.writeN_wf 64 _ _ _ ((memWf_iff t).1 h).1) h
  unfold State.hbmWrite
  have w := activate_wf s sa w
  revert w
  generalize s.activate sa = t
  intro w
  simp only
  have key : ∀ t : State, t.memWf = true →
      (if pois = 0 then t else { t with hbmPois := sa :: t.hbmPois.filter (· ≠ sa) }).memWf = true := by
    intro t h
    split
    · exact h
    · exact memWf_of_same t _ rfl rfl h
  refine key _ ?_
  split
  · exact put _ (memWf_of_same t _ rfl rfl w) _
  · split
    · exact put _ w _
    · exact put _ (memWf_of_same t _ rfl rfl w) _
    · exact put _ (spoilLine_wf _ _ (hbmEvent_wf _ _ _ _ _ w)) _

/-- Reading a row of the device's own memory keeps the form. -/
theorem sysRead_wf (s : State) (sa tag : Nat) (w : s.memWf = true) : (s.sysRead sa tag).1.memWf = true := by
  unfold State.sysRead
  simp only
  split
  · exact hbmRead_wf _ _ _ w
  · split
    · split
      · exact w
      · have h := eccRead_wf 16 s.mem s.shaSyn (sa / 64 * 64) ((memWf_iff s).1 w).1
        revert h
        generalize eccRead 16 s.mem s.shaSyn (sa / 64 * 64) = r
        obtain ⟨d, p, m, y, ev⟩ := r
        intro h
        refine memWf_of_same _ _ (shaEvents_same ..).1 (shaEvents_same ..).2 ?_
        exact memWf_mem s _ rfl h w
    · split
      · exact memWf_of_same s _ rfl rfl w
      · exact memWf_of_same s _ rfl rfl w

/-- Writing a row of the device's own memory keeps the form. -/
theorem sysWrite_wf (s : State) (sa mask data pois tag : Nat) (w : s.memWf = true) :
    (s.sysWrite sa mask data pois tag).memWf = true := by
  unfold State.sysWrite
  simp only
  split
  · exact hbmWrite_wf _ _ _ _ _ _ w
  · split
    · have h := eccWrite_wf 16 s.mem s.shaSyn (sa / 64 * 64) mask data pois ((memWf_iff s).1 w).1
      revert h
      generalize eccWrite 16 s.mem s.shaSyn (sa / 64 * 64) mask data pois = r
      obtain ⟨m, y, ev⟩ := r
      intro h
      refine memWf_of_same _ _ (shaEvents_same ..).1 (shaEvents_same ..).2 ?_
      exact memWf_mem s _ rfl h w
    · split
      · exact memWf_of_same s _ rfl rfl w
      · exact memWf_mem s _ rfl (Mem.writeN_wf 64 _ _ _ ((memWf_iff s).1 w).1) w

/-- What reset leaves has the form: no memory lists anything. -/
theorem reset_wf : State.reset.memWf = true := rfl

end Sys2Proof.Machine
end

