-- ==== Sys2Proof/Laws/Frames.lean ====
section
/-! SUPPORT. What the two operations that every word goes through leave alone: counting in a performance counter
(State.perf) changes a core's counters only, popping tokens (State.taken) changes a context's token counts only; and
what reserving a load-queue row keeps. -/

namespace Sys2Proof.Machine

/-- A fold of steps that each change a core's performance counters only changes them only. -/
theorem foldPcs {α : Type} (f : Core → α → Core)
    (hf : ∀ c e, ∃ p o, f c e = { c with pcs := p, pcovf := o }) :
    ∀ (l : List α) (c : Core), ∃ p o, l.foldl f c = { c with pcs := p, pcovf := o }
  | [], c => ⟨c.pcs, c.pcovf, rfl⟩
  | e :: r, c => by
    obtain ⟨p, o, h⟩ := hf c e
    obtain ⟨p', o', h'⟩ := foldPcs f hf r (f c e)
    exact ⟨p', o', by rw [List.foldl_cons, h', h]⟩

/-- Counting an event changes the core's performance counters and their overflow bits only. -/
theorem perf_core (s : State) (n ev x : Nat) (u : Option Clu) (b : Nat) :
    s.perf n ev x u b = s ∨ ∃ p o, s.perf n ev x u b = s.modCore n fun c => { c with pcs := p, pcovf := o } := by
  unfold State.perf
  split
  · exact .inl rfl
  · right
    have key : ∀ c : Core, ∃ p o, (fun c : Core => c.pcsel.foldl (fun c (i, sel) =>
      let v := sel.toNat
      let on := bitN v 16 && v % 256 = ev && (ev = 0 || ev = 12 || ev = 18 || bitN v (8 + x)) &&
        (match u with | none => true | some k => bitN v (12 + k.num))
      if on then
        let x := tblGet 0 c.pcs i + b
        let c := { c with pcs := tblPut c.pcs i (x % 2 ^ 48) }
        if 2 ^ 48 ≤ x then { c with pcovf := setBits c.pcovf i 1 1 } else c
      else c) c) c = { c with pcs := p, pcovf := o } := by
      intro c
      refine foldPcs _ ?_ c.pcsel c
      intro c e
      dsimp only
      repeat' split
      all_goals first | exact ⟨c.pcs, c.pcovf, rfl⟩ | exact ⟨_, c.pcovf, rfl⟩ | exact ⟨_, _, rfl⟩
    obtain ⟨p, o, h⟩ := key (s.core n)
    exact ⟨p, o, modCore_congr _ _ _ _ h⟩


/-- Counting keeps every part of a core but the counters. -/
theorem perf_coreFld {α : Type} (g : Core → α) (hg : ∀ c p o, g { c with pcs := p, pcovf := o } = g c)
    (s : State) (n ev x : Nat) (u : Option Clu) (b m : Nat) : g ((s.perf n ev x u b).core m) = g (s.core m) := by
  obtain h | ⟨p, o, h⟩ := perf_core s n ev x u b
  · rw [h]
  · rw [h, core_modCore]
    split
    · next e => rw [hg, e]
    · rfl

/-- Counting keeps every part of the state outside the cores. -/
theorem perf_fld {α : Type} (g : State → α) (hg : ∀ s n f, g (State.modCore s n f) = g s)
    (s : State) (n ev x : Nat) (u : Option Clu) (b : Nat) : g (s.perf n ev x u b) = g s := by
  obtain h | ⟨p, o, h⟩ := perf_core s n ev x u b
  · rw [h]
  · rw [h, hg]

variable (s : State) (n ev x : Nat) (u : Option Clu) (b : Nat)

@[simp] theorem perf_cur : (s.perf n ev x u b).cur = s.cur :=
  perf_fld _ (fun _ _ _ => rfl) s n ev x u b
@[simp] theorem perf_accNext : (s.perf n ev x u b).accNext = s.accNext :=
  perf_fld _ (fun _ _ _ => rfl) s n ev x u b
@[simp] theorem perf_accs : (s.perf n ev x u b).accs = s.accs :=
  perf_fld _ (fun _ _ _ => rfl) s n ev x u b
@[simp] theorem perf_devId : (s.perf n ev x u b).devId = s.devId :=
  perf_fld _ (fun _ _ _ => rfl) s n ev x u b
@[simp] theorem perf_ctxOf (k : Who) : (s.perf n ev x u b).ctxOf k = s.ctxOf k :=
  perf_coreFld (fun c => c.ctx k.ctx) (fun _ _ _ => rfl) s n ev x u b k.core
@[simp] theorem perf_clu (k : Who) : (s.perf n ev x u b).clu k = s.clu k := by
  simp [State.clu]
@[simp] theorem perf_me : (s.perf n ev x u b).me = s.me := by
  simp [State.me]
@[simp] theorem perf_taskOf (k : Who) : (s.perf n ev x u b).taskOf k = s.taskOf k := by
  simp [State.taskOf]
@[simp] theorem perf_myTask : (s.perf n ev x u b).myTask = s.myTask := by
  simp [State.myTask]
@[simp] theorem perfCtx_cur (s : State) (ev : Nat) : (s.perfCtx ev).cur = s.cur := by simp [State.perfCtx]
@[simp] theorem perfCtx_me (s : State) (ev : Nat) : (s.perfCtx ev).me = s.me := by simp [State.perfCtx]
@[simp] theorem perfCtx_accNext (s : State) (ev : Nat) : (s.perfCtx ev).accNext = s.accNext := by simp [State.perfCtx]
@[simp] theorem perfMe_cur (s : State) (ev : Nat) : (s.perfMe ev).cur = s.cur := by simp [State.perfMe]
@[simp] theorem perfMe_me (s : State) (ev : Nat) : (s.perfMe ev).me = s.me := by simp [State.perfMe]
@[simp] theorem perfMe_accNext (s : State) (ev : Nat) : (s.perfMe ev).accNext = s.accNext := by simp [State.perfMe]
@[simp] theorem perfMe_myTask (s : State) (ev : Nat) : (s.perfMe ev).myTask = s.myTask := by simp [State.perfMe]
@[simp] theorem perfCtx_myTask (s : State) (ev : Nat) : (s.perfCtx ev).myTask = s.myTask := by simp [State.perfCtx]

/-- Popping tokens keeps every part of a context but its token counts. -/
theorem taken_ctxFld {α : Type} (g : Ctx → α) (hg : ∀ c tk, g { c with tok := tk } = g c)
    (s : State) (h : Hdr) (k : Who) :
    g ((s.taken h).ctxOf k) = g (s.ctxOf k) := by
  obtain ⟨tk, kn, e⟩ := taken_eq s h
  rw [e]
  show g ((s.modMyCtx _).ctxOf k) = _
  by_cases c : SameCtx k s.cur
  · rw [modMyCtx_def, ctxOf_modCtx_same _ _ _ _ c, hg]
    unfold State.ctxOf; rw [c.1, c.2]
  · rw [modMyCtx_def, ctxOf_modCtx_other _ _ _ _ c]

/-- Popping tokens keeps every part of a core outside its contexts. -/
theorem taken_coreFld {α : Type} (g : Core → α) (hg : ∀ c n f, g (Core.modCtx c n f) = g c)
    (s : State) (h : Hdr) (n : Nat) :
    g ((s.taken h).core n) = g (s.core n) := by
  obtain ⟨tk, kn, e⟩ := taken_eq s h
  rw [e]
  show g ((s.modCore s.cur.core fun c => c.modCtx s.cur.ctx fun x => { x with tok := tk }).core n) = _
  rw [core_modCore]
  split
  · next e => rw [hg, e]
  · rfl
@[simp] theorem taken_clu (s : State) (h : Hdr) (k : Who) : (s.taken h).clu k = s.clu k :=
  taken_ctxFld (fun x => x.clu k.clu) (fun _ _ => rfl) s h k
@[simp] theorem taken_taskOf (s : State) (h : Hdr) (k : Who) : (s.taken h).taskOf k = s.taskOf k :=
  taken_ctxFld (fun x => x.task.getD ⟨0, 0, 0, 0, 0, 0, 0, Snap.none⟩) (fun _ _ => rfl) s h k
@[simp] theorem taken_ctxTask (s : State) (h : Hdr) (k : Who) : ((s.taken h).ctxOf k).task = (s.ctxOf k).task :=
  taken_ctxFld (fun x => x.task) (fun _ _ => rfl) s h k
@[simp] theorem taken_frozen (s : State) (h : Hdr) (k : Who) : ((s.taken h).ctxOf k).frozen = (s.ctxOf k).frozen :=
  taken_ctxFld (fun x => x.frozen) (fun _ _ => rfl) s h k
@[simp] theorem taken_preempt (s : State) (h : Hdr) (k : Who) : ((s.taken h).ctxOf k).preempt = (s.ctxOf k).preempt :=
  taken_ctxFld (fun x => x.preempt) (fun _ _ => rfl) s h k
@[simp] theorem taken_lrows (s : State) (h : Hdr) (k : Who) (q : Nat) :
    ((s.taken h).ctxOf k).lrows q = (s.ctxOf k).lrows q :=
  taken_ctxFld (fun x => x.lrows q) (fun _ _ => rfl) s h k
@[simp] theorem taken_myLrows (s : State) (h : Hdr) (q : Nat) : (s.taken h).myCtx.lrows q = s.myCtx.lrows q :=
  (congrArg (fun k => ((s.taken h).ctxOf k).lrows q) (taken_cur s h)).trans (taken_lrows s h s.cur q)
@[simp] theorem taken_srows (s : State) (h : Hdr) (q : Nat) : (s.taken h).myCtx.srows q = s.myCtx.srows q :=
  (congrArg (fun k => ((s.taken h).ctxOf k).srows q) (taken_cur s h)).trans
    (taken_ctxFld (fun x => x.srows q) (fun _ _ => rfl) s h s.cur)
@[simp] theorem taken_flag (s : State) (h : Hdr) (k : Who) (q : Nat) :
    ((s.taken h).ctxOf k).flag q = (s.ctxOf k).flag q :=
  taken_ctxFld (fun x => x.flag q) (fun _ _ => rfl) s h k
@[simp] theorem taken_fclears (s : State) (h : Hdr) (k : Who) : ((s.taken h).ctxOf k).fclears = (s.ctxOf k).fclears :=
  taken_ctxFld (fun x => x.fclears) (fun _ _ => rfl) s h k
@[simp] theorem taken_setter (s : State) (h : Hdr) (k : Who) : ((s.taken h).ctxOf k).setter = (s.ctxOf k).setter :=
  taken_ctxFld (fun x => x.setter) (fun _ _ => rfl) s h k
@[simp] theorem taken_view (s : State) (h : Hdr) (k : Who) (n : Nat) :
    ((s.taken h).ctxOf k).view n = (s.ctxOf k).view n :=
  taken_ctxFld (fun x => x.view n) (fun _ _ => rfl) s h k
@[simp] theorem taken_fmtq (s : State) (h : Hdr) (k : Who) : ((s.taken h).ctxOf k).fmtq = (s.ctxOf k).fmtq :=
  taken_ctxFld (fun x => x.fmtq) (fun _ _ => rfl) s h k
@[simp] theorem taken_fmtIn (s : State) (h : Hdr) (k : Who) : ((s.taken h).ctxOf k).fmtIn = (s.ctxOf k).fmtIn :=
  taken_ctxFld (fun x => x.fmtIn) (fun _ _ => rfl) s h k
@[simp] theorem taken_qid (s : State) (h : Hdr) (k : Who) : ((s.taken h).ctxOf k).qid = (s.ctxOf k).qid :=
  taken_ctxFld (fun x => x.qid) (fun _ _ => rfl) s h k
@[simp] theorem taken_ctok (s : State) (h : Hdr) (k : Who) (t : Nat) :
    ((s.taken h).ctxOf k).ctok t = (s.ctxOf k).ctok t :=
  taken_ctxFld (fun x => x.ctok t) (fun _ _ => rfl) s h k
@[simp] theorem taken_remF (s : State) (h : Hdr) (k : Who) : ((s.taken h).ctxOf k).remF = (s.ctxOf k).remF :=
  taken_ctxFld (fun x => x.remF) (fun _ _ => rfl) s h k
@[simp] theorem taken_colF (s : State) (h : Hdr) (k : Who) : ((s.taken h).ctxOf k).colF = (s.ctxOf k).colF :=
  taken_ctxFld (fun x => x.colF) (fun _ _ => rfl) s h k
@[simp] theorem taken_cir (s : State) (h : Hdr) (k : Who) : ((s.taken h).ctxOf k).cir = (s.ctxOf k).cir :=
  taken_ctxFld (fun x => x.cir) (fun _ _ => rfl) s h k
@[simp] theorem taken_cirNew (s : State) (h : Hdr) (k : Who) : ((s.taken h).ctxOf k).cirNew = (s.ctxOf k).cirNew :=
  taken_ctxFld (fun x => x.cirNew) (fun _ _ => rfl) s h k
@[simp] theorem taken_provOf (s : State) (h : Hdr) (k : Who) (n : Nat) :
    ((s.taken h).ctxOf k).provOf n = (s.ctxOf k).provOf n :=
  taken_ctxFld (fun x => x.provOf n) (fun _ _ => rfl) s h k
@[simp] theorem taken_cksOf (s : State) (h : Hdr) (k : Who) (n : Nat) :
    ((s.taken h).ctxOf k).cksOf n = (s.ctxOf k).cksOf n :=
  taken_ctxFld (fun x => x.cksOf n) (fun _ _ => rfl) s h k
theorem taken_fo (s : State) (h : Hdr) (k : Who) : ((s.taken h).ctxOf k).fo = (s.ctxOf k).fo :=
  taken_ctxFld (fun x => x.fo) (fun _ _ => rfl) s h k
@[simp] theorem taken_tlb (s : State) (h : Hdr) (n : Nat) : ((s.taken h).core n).tlb = (s.core n).tlb :=
  taken_coreFld (fun c => c.tlb) (fun _ _ _ => rfl) s h n
@[simp] theorem taken_walkBad (s : State) (h : Hdr) (n : Nat) : ((s.taken h).core n).walkBad = (s.core n).walkBad :=
  taken_coreFld (fun c => c.walkBad) (fun _ _ _ => rfl) s h n
@[simp] theorem taken_used (s : State) (h : Hdr) (n : Nat) : ((s.taken h).core n).used = (s.core n).used :=
  taken_coreFld (fun c => c.used) (fun _ _ _ => rfl) s h n
@[simp] theorem taken_mxq (s : State) (h : Hdr) (n : Nat) : ((s.taken h).core n).mxq = (s.core n).mxq :=
  taken_coreFld (fun c => c.mxq) (fun _ _ _ => rfl) s h n
@[simp] theorem taken_mxRun (s : State) (h : Hdr) (n : Nat) : ((s.taken h).core n).mxRun = (s.core n).mxRun :=
  taken_coreFld (fun c => c.mxRun) (fun _ _ _ => rfl) s h n
@[simp] theorem taken_locks (s : State) (h : Hdr) (n : Nat) : ((s.taken h).core n).locks = (s.core n).locks :=
  taken_coreFld (fun c => c.locks) (fun _ _ _ => rfl) s h n
@[simp] theorem taken_slotNext (s : State) (h : Hdr) (n : Nat) :
    ((s.taken h).core n).slotNext = (s.core n).slotNext :=
  taken_coreFld (fun c => c.slotNext) (fun _ _ _ => rfl) s h n
@[simp] theorem taken_power (s : State) (h : Hdr) (n : Nat) : ((s.taken h).core n).power = (s.core n).power :=
  taken_coreFld (fun c => c.power) (fun _ _ _ => rfl) s h n
@[simp] theorem taken_tracker (s : State) (h : Hdr) (n : Nat) : ((s.taken h).core n).tracker = (s.core n).tracker :=
  taken_coreFld (fun c => c.tracker) (fun _ _ _ => rfl) s h n
@[simp] theorem taken_land (s : State) (h : Hdr) (n : Nat) : ((s.taken h).core n).land = (s.core n).land :=
  taken_coreFld (fun c => c.land) (fun _ _ _ => rfl) s h n
@[simp] theorem taken_rows (s : State) (h : Hdr) : (s.taken h).rows = s.rows := taken_fld _ (fun _ _ _ => rfl) s h
@[simp] theorem taken_free (s : State) (h : Hdr) : (s.taken h).free = s.free := taken_fld _ (fun _ _ _ => rfl) s h
@[simp] theorem taken_accNext (s : State) (h : Hdr) : (s.taken h).accNext = s.accNext := taken_fld _ (fun _ _ _ => rfl) s h
@[simp] theorem taken_devId (s : State) (h : Hdr) : (s.taken h).devId = s.devId := taken_fld _ (fun _ _ _ => rfl) s h
@[simp] theorem taken_leafAddr (s : State) (h : Hdr) (t : Task) (e : TlbE) (va : Nat) :
    (s.taken h).leafAddr t e va = s.leafAddr t e va :=
  taken_fld (fun s => s.leafAddr t e va) (fun _ _ _ => rfl) s h
@[simp] theorem taken_tq (s : State) (h : Hdr) (q : Nat) : (s.taken h).tq q = s.tq q :=
  taken_fld (fun s => s.tq q) (fun _ _ _ => rfl) s h
@[simp] theorem taken_deps (s : State) (h : Hdr) : (s.taken h).deps = s.deps := taken_fld _ (fun _ _ _ => rfl) s h
@[simp] theorem taken_isDirect (s : State) (h : Hdr) (a : Nat) : (s.taken h).isDirect a = s.isDirect a :=
  taken_fld (fun s => s.isDirect a) (fun _ _ _ => rfl) s h
@[simp] theorem taken_inRenamed (s : State) (h : Hdr) (t : Task) (a : Nat) :
    (s.taken h).inRenamed t a = s.inRenamed t a := taken_fld (fun s => s.inRenamed t a) (fun _ _ _ => rfl) s h
@[simp] theorem taken_inst (s : State) (h : Hdr) (t : Task) : (s.taken h).inst? t = s.inst? t :=
  taken_fld (fun s => s.inst? t) (fun _ _ _ => rfl) s h
@[simp] theorem taken_containedRow (s : State) (h : Hdr) (a : Nat) :
    (s.taken h).containedRow a = s.containedRow a := by
  unfold State.containedRow; rw [taken_task, taken_inst]
@[simp] theorem reserveLq_me (s : State) (q n : Nat) : (s.reserveLq s.cur q n).1.me = s.me := by
  show (s.modMyCtx _).myCtx.clu s.cur.clu = _
  rw [myCtx_modMyCtx]; rfl
@[simp] theorem reserveLq_cur (s : State) (k : Who) (q n : Nat) : (s.reserveLq k q n).1.cur = s.cur := rfl
@[simp] theorem reserveLq_accNext (s : State) (k : Who) (q n : Nat) : (s.reserveLq k q n).1.accNext = s.accNext := rfl
@[simp] theorem reserveLq_isDirect (s : State) (k : Who) (q n a : Nat) :
    (s.reserveLq k q n).1.isDirect a = s.isDirect a := rfl
@[simp] theorem reserveLq_devId (s : State) (k : Who) (q n : Nat) : (s.reserveLq k q n).1.devId = s.devId := rfl
@[simp] theorem reserveLq_die (s : State) (k : Who) (q n d : Nat) : (s.reserveLq k q n).1.die d = s.die d := rfl
@[simp] theorem reserveLq_task (s : State) (q n : Nat) : (s.reserveLq s.cur q n).1.myTask = s.myTask := by
  show ((s.modMyCtx _).myCtx.task).getD _ = _
  rw [myCtx_modMyCtx]; rfl
@[simp] theorem tReserve_me (s : State) (h : Hdr) (q n : Nat) : ((s.taken h).reserveLq s.cur q n).1.me = s.me :=
  (congrArg (fun k => ((s.taken h).reserveLq k q n).1.me) (taken_cur s h)).symm.trans
    ((reserveLq_me (s.taken h) q n).trans (taken_me s h))
@[simp] theorem tReserve_task (s : State) (h : Hdr) (q n : Nat) :
    ((s.taken h).reserveLq s.cur q n).1.myTask = s.myTask :=
  (congrArg (fun k => ((s.taken h).reserveLq k q n).1.myTask) (taken_cur s h)).symm.trans
    ((reserveLq_task (s.taken h) q n).trans (taken_task s h))
@[simp] theorem later_me (s : State) (c : Nat) (r : List Res) : ∃ d, (s.later c r).me = { s.me with dl := d } := by
  unfold State.later State.laterBy
  split
  · exact ⟨s.me.dl, rfl⟩
  · exact ⟨_, me_modMe _ _⟩
end Sys2Proof.Machine
end

