-- ==== Sys2Proof/Laws/PerInstr.lean ====
section
/-! SUPPORT. The encoding of each instruction, one lemma per constructor: the word that the encoder gives it decodes to
it, with its leading words; a step of the device has no word. -/

/-- What the encoding of an instruction owes: its word, after its leading words, decodes to it (R62 to R79). -/
def Sys2Proof.Laws.Encoding.Statement (i : Sys2Proof.Instr) : Prop :=
  match Sys2Proof.encodeWord i with
  | some w => Sys2Proof.decodeWord i.imm i.modf w = .ok i
  | none => i.hdr? = none

namespace Sys2Proof

/-- The header of a word (Table 3.1). -/
theorem decodeHdr_mkWord (u : BitVec 3) (h : Hdr) (p : BitVec 22) : decodeHdr (mkWord u h p) = h := by
  show (⟨BitVec.extractLsb' 28 1 (u ++ h.sync ++ h.wait ++ h.sig ++ h.iss ++ p),
    BitVec.extractLsb' 26 2 (u ++ h.sync ++ h.wait ++ h.sig ++ h.iss ++ p),
    BitVec.extractLsb' 24 2 (u ++ h.sync ++ h.wait ++ h.sig ++ h.iss ++ p),
    BitVec.extractLsb' 22 2 (u ++ h.sync ++ h.wait ++ h.sig ++ h.iss ++ p)⟩ : Hdr) = h
  simp (disch := decide) only [BitVec.extractLsb'_append_eq_of_le, BitVec.extractLsb'_append_eq_of_add_le,
    BitVec.extractLsb'_eq_self, Nat.reduceSub]

/-- The unit of a word. -/
theorem unit_mkWord (u : BitVec 3) (h : Hdr) (p : BitVec 22) : (mkWord u h p).fld 29 3 = u := by
  show BitVec.extractLsb' 29 3 (u ++ h.sync ++ h.wait ++ h.sig ++ h.iss ++ p) = u
  simp (disch := decide) only [BitVec.extractLsb'_append_eq_of_le, BitVec.extractLsb'_eq_self, Nat.reduceSub]

/-- A field of the payload. -/
theorem fld_mkWord (u : BitVec 3) (h : Hdr) (p : BitVec 22) (lo n : Nat) (hl : lo + n ≤ 22) :
    (mkWord u h p).fld lo n = p.extractLsb' lo n := by
  show BitVec.extractLsb' lo n (u ++ h.sync ++ h.wait ++ h.sig ++ h.iss ++ p) = _
  rw [BitVec.extractLsb'_append_eq_of_add_le hl]

/-- Unused bits of the payload. -/
theorem mask_mkWord (u : BitVec 3) (h : Hdr) (p m : BitVec 22) (hm : p &&& m = 0#22) :
    mkWord u h p &&& ((0#10 ++ m : BitVec (10 + 22)) : BitVec 32) = 0#32 := by
  have z : (0#10 : BitVec 10) = (0#3 ++ 0#1 ++ 0#2 ++ 0#2 ++ 0#2) := by decide
  rw [z]
  show (u ++ h.sync ++ h.wait ++ h.sig ++ h.iss ++ p) &&& (0#3 ++ 0#1 ++ 0#2 ++ 0#2 ++ 0#2 ++ m) = 0#32
  simp only [BitVec.and_append, BitVec.and_zero, hm]
  rfl

/-! The unit picks the table; OP, fields and unused bits of each layout of a payload. -/

theorem decodeWord_unit0 (x : Option ImmF) (md : Option ModF) (h : Hdr) (p : BitVec 22) :
    decodeWord x md (mkWord 0#3 h p) = decodeSC h x md (mkWord 0#3 h p) := by
  unfold decodeWord
  rw [unit_mkWord, decodeHdr_mkWord]
  rfl

theorem decodeWord_unit1 (x : Option ImmF) (md : Option ModF) (h : Hdr) (p : BitVec 22) :
    decodeWord x md (mkWord 1#3 h p) = decodeAC h x md (mkWord 1#3 h p) := by
  unfold decodeWord
  rw [unit_mkWord, decodeHdr_mkWord]
  rfl

theorem decodeWord_unit2 (x : Option ImmF) (md : Option ModF) (h : Hdr) (p : BitVec 22) :
    decodeWord x md (mkWord 2#3 h p) = decodeVE h x md (mkWord 2#3 h p) := by
  unfold decodeWord
  rw [unit_mkWord, decodeHdr_mkWord]
  rfl

theorem decodeWord_unit3 (x : Option ImmF) (md : Option ModF) (h : Hdr) (p : BitVec 22) :
    decodeWord x md (mkWord 3#3 h p) = decodeMX h x md (mkWord 3#3 h p) := by
  unfold decodeWord
  rw [unit_mkWord, decodeHdr_mkWord]
  rfl

theorem decodeWord_unit4 (x : Option ImmF) (md : Option ModF) (h : Hdr) (p : BitVec 22) :
    decodeWord x md (mkWord 4#3 h p) = decodeEN h x md (mkWord 4#3 h p) := by
  unfold decodeWord
  rw [unit_mkWord, decodeHdr_mkWord]
  rfl

theorem decodeWord_unit5 (x : Option ImmF) (md : Option ModF) (h : Hdr) (p : BitVec 22) :
    decodeWord x md (mkWord 5#3 h p) = decodeCK h x md (mkWord 5#3 h p) := by
  unfold decodeWord
  rw [unit_mkWord, decodeHdr_mkWord]
  rfl

theorem decodeWord_unit6 (x : Option ImmF) (md : Option ModF) (h : Hdr) (p : BitVec 22) :
    decodeWord x md (mkWord 6#3 h p) = decodeSY h x md (mkWord 6#3 h p) := by
  unfold decodeWord
  rw [unit_mkWord, decodeHdr_mkWord]
  rfl

theorem op_of_22 (u : BitVec 3) (h : Hdr) (a : BitVec 22) : (mkWord u h (a)).fld 15 7 = a.extractLsb' 15 7 := by
  rw [fld_mkWord _ _ _ 15 7 (by decide)]

theorem op_of_7_5_5_5 (u : BitVec 3) (h : Hdr) (a : BitVec 7) (b : BitVec 5) (c : BitVec 5) (d : BitVec 5) : (mkWord u h (a ++ b ++ c ++ d)).fld 15 7 = a := by
  rw [fld_mkWord _ _ _ 15 7 (by decide)]
  show BitVec.extractLsb' 15 7 (a ++ b ++ c ++ d) = _
  simp (disch := decide) only [BitVec.extractLsb'_append_eq_of_le, BitVec.extractLsb'_eq_self, Nat.reduceSub]

theorem op_of_7_5_10 (u : BitVec 3) (h : Hdr) (a : BitVec 7) (b : BitVec 5) (c : BitVec 10) : (mkWord u h (a ++ b ++ c)).fld 15 7 = a := by
  rw [fld_mkWord _ _ _ 15 7 (by decide)]
  show BitVec.extractLsb' 15 7 (a ++ b ++ c) = _
  simp (disch := decide) only [BitVec.extractLsb'_append_eq_of_le, BitVec.extractLsb'_eq_self, Nat.reduceSub]

theorem op_of_7_5_5_2_3 (u : BitVec 3) (h : Hdr) (a : BitVec 7) (b : BitVec 5) (c : BitVec 5) (d : BitVec 2) (e : BitVec 3) : (mkWord u h (a ++ b ++ c ++ d ++ e)).fld 15 7 = a := by
  rw [fld_mkWord _ _ _ 15 7 (by decide)]
  show BitVec.extractLsb' 15 7 (a ++ b ++ c ++ d ++ e) = _
  simp (disch := decide) only [BitVec.extractLsb'_append_eq_of_le, BitVec.extractLsb'_eq_self, Nat.reduceSub]

theorem op_of_9_3_5_5 (u : BitVec 3) (h : Hdr) (a : BitVec 9) (b : BitVec 3) (c : BitVec 5) (d : BitVec 5) : (mkWord u h (a ++ b ++ c ++ d)).fld 15 7 = a.extractLsb' 2 7 := by
  rw [fld_mkWord _ _ _ 15 7 (by decide)]
  show BitVec.extractLsb' 15 7 (a ++ b ++ c ++ d) = _
  simp (disch := decide) only [BitVec.extractLsb'_append_eq_of_le, Nat.reduceSub]

theorem op_of_9_3_2_3_2_3 (u : BitVec 3) (h : Hdr) (a : BitVec 9) (b : BitVec 3) (c : BitVec 2) (d : BitVec 3) (e : BitVec 2) (f : BitVec 3) : (mkWord u h (a ++ b ++ c ++ d ++ e ++ f)).fld 15 7 = a.extractLsb' 2 7 := by
  rw [fld_mkWord _ _ _ 15 7 (by decide)]
  show BitVec.extractLsb' 15 7 (a ++ b ++ c ++ d ++ e ++ f) = _
  simp (disch := decide) only [BitVec.extractLsb'_append_eq_of_le, Nat.reduceSub]

theorem op_of_7_3_1_11 (u : BitVec 3) (h : Hdr) (a : BitVec 7) (b : BitVec 3) (c : BitVec 1) (d : BitVec 11) : (mkWord u h (a ++ b ++ c ++ d)).fld 15 7 = a := by
  rw [fld_mkWord _ _ _ 15 7 (by decide)]
  show BitVec.extractLsb' 15 7 (a ++ b ++ c ++ d) = _
  simp (disch := decide) only [BitVec.extractLsb'_append_eq_of_le, BitVec.extractLsb'_eq_self, Nat.reduceSub]

theorem op_of_11_11 (u : BitVec 3) (h : Hdr) (a : BitVec 11) (b : BitVec 11) : (mkWord u h (a ++ b)).fld 15 7 = a.extractLsb' 4 7 := by
  rw [fld_mkWord _ _ _ 15 7 (by decide)]
  show BitVec.extractLsb' 15 7 (a ++ b) = _
  simp (disch := decide) only [BitVec.extractLsb'_append_eq_of_le, Nat.reduceSub]

theorem op_of_12_5_5 (u : BitVec 3) (h : Hdr) (a : BitVec 12) (b : BitVec 5) (c : BitVec 5) : (mkWord u h (a ++ b ++ c)).fld 15 7 = a.extractLsb' 5 7 := by
  rw [fld_mkWord _ _ _ 15 7 (by decide)]
  show BitVec.extractLsb' 15 7 (a ++ b ++ c) = _
  simp (disch := decide) only [BitVec.extractLsb'_append_eq_of_le, Nat.reduceSub]

theorem op_of_7_5_3_7 (u : BitVec 3) (h : Hdr) (a : BitVec 7) (b : BitVec 5) (c : BitVec 3) (d : BitVec 7) : (mkWord u h (a ++ b ++ c ++ d)).fld 15 7 = a := by
  rw [fld_mkWord _ _ _ 15 7 (by decide)]
  show BitVec.extractLsb' 15 7 (a ++ b ++ c ++ d) = _
  simp (disch := decide) only [BitVec.extractLsb'_append_eq_of_le, BitVec.extractLsb'_eq_self, Nat.reduceSub]

theorem op_of_17_5 (u : BitVec 3) (h : Hdr) (a : BitVec 17) (b : BitVec 5) : (mkWord u h (a ++ b)).fld 15 7 = a.extractLsb' 10 7 := by
  rw [fld_mkWord _ _ _ 15 7 (by decide)]
  show BitVec.extractLsb' 15 7 (a ++ b) = _
  simp (disch := decide) only [BitVec.extractLsb'_append_eq_of_le, Nat.reduceSub]

theorem op_of_18_4 (u : BitVec 3) (h : Hdr) (a : BitVec 18) (b : BitVec 4) : (mkWord u h (a ++ b)).fld 15 7 = a.extractLsb' 11 7 := by
  rw [fld_mkWord _ _ _ 15 7 (by decide)]
  show BitVec.extractLsb' 15 7 (a ++ b) = _
  simp (disch := decide) only [BitVec.extractLsb'_append_eq_of_le, Nat.reduceSub]

theorem op_of_18_2_2 (u : BitVec 3) (h : Hdr) (a : BitVec 18) (b : BitVec 2) (c : BitVec 2) : (mkWord u h (a ++ b ++ c)).fld 15 7 = a.extractLsb' 11 7 := by
  rw [fld_mkWord _ _ _ 15 7 (by decide)]
  show BitVec.extractLsb' 15 7 (a ++ b ++ c) = _
  simp (disch := decide) only [BitVec.extractLsb'_append_eq_of_le, Nat.reduceSub]

theorem op_of_20_2 (u : BitVec 3) (h : Hdr) (a : BitVec 20) (b : BitVec 2) : (mkWord u h (a ++ b)).fld 15 7 = a.extractLsb' 13 7 := by
  rw [fld_mkWord _ _ _ 15 7 (by decide)]
  show BitVec.extractLsb' 15 7 (a ++ b) = _
  simp (disch := decide) only [BitVec.extractLsb'_append_eq_of_le, Nat.reduceSub]

theorem op_of_10_2_5_5 (u : BitVec 3) (h : Hdr) (a : BitVec 10) (b : BitVec 2) (c : BitVec 5) (d : BitVec 5) : (mkWord u h (a ++ b ++ c ++ d)).fld 15 7 = a.extractLsb' 3 7 := by
  rw [fld_mkWord _ _ _ 15 7 (by decide)]
  show BitVec.extractLsb' 15 7 (a ++ b ++ c ++ d) = _
  simp (disch := decide) only [BitVec.extractLsb'_append_eq_of_le, Nat.reduceSub]

theorem op_of_12_10 (u : BitVec 3) (h : Hdr) (a : BitVec 12) (b : BitVec 10) : (mkWord u h (a ++ b)).fld 15 7 = a.extractLsb' 5 7 := by
  rw [fld_mkWord _ _ _ 15 7 (by decide)]
  show BitVec.extractLsb' 15 7 (a ++ b) = _
  simp (disch := decide) only [BitVec.extractLsb'_append_eq_of_le, Nat.reduceSub]

theorem op_of_9_3_10 (u : BitVec 3) (h : Hdr) (a : BitVec 9) (b : BitVec 3) (c : BitVec 10) : (mkWord u h (a ++ b ++ c)).fld 15 7 = a.extractLsb' 2 7 := by
  rw [fld_mkWord _ _ _ 15 7 (by decide)]
  show BitVec.extractLsb' 15 7 (a ++ b ++ c) = _
  simp (disch := decide) only [BitVec.extractLsb'_append_eq_of_le, Nat.reduceSub]

theorem op_of_7_3_2_5_5 (u : BitVec 3) (h : Hdr) (a : BitVec 7) (b : BitVec 3) (c : BitVec 2) (d : BitVec 5) (e : BitVec 5) : (mkWord u h (a ++ b ++ c ++ d ++ e)).fld 15 7 = a := by
  rw [fld_mkWord _ _ _ 15 7 (by decide)]
  show BitVec.extractLsb' 15 7 (a ++ b ++ c ++ d ++ e) = _
  simp (disch := decide) only [BitVec.extractLsb'_append_eq_of_le, BitVec.extractLsb'_eq_self, Nat.reduceSub]

theorem op_of_5_2_3_2_5_1_1_3 (u : BitVec 3) (h : Hdr) (a : BitVec 5) (b : BitVec 2) (c : BitVec 3) (d : BitVec 2) (e : BitVec 5) (f : BitVec 1) (g : BitVec 1) (i : BitVec 3) : (mkWord u h (a ++ b ++ c ++ d ++ e ++ f ++ g ++ i)).fld 15 7 = a ++ b := by
  rw [fld_mkWord _ _ _ 15 7 (by decide)]
  show BitVec.extractLsb' 15 7 (a ++ b ++ c ++ d ++ e ++ f ++ g ++ i) = _
  simp (disch := decide) only [BitVec.extractLsb'_append_eq_of_le, BitVec.extractLsb'_eq_self, Nat.reduceSub]

theorem op_of_11_1_5_5 (u : BitVec 3) (h : Hdr) (a : BitVec 11) (b : BitVec 1) (c : BitVec 5) (d : BitVec 5) : (mkWord u h (a ++ b ++ c ++ d)).fld 15 7 = a.extractLsb' 4 7 := by
  rw [fld_mkWord _ _ _ 15 7 (by decide)]
  show BitVec.extractLsb' 15 7 (a ++ b ++ c ++ d) = _
  simp (disch := decide) only [BitVec.extractLsb'_append_eq_of_le, Nat.reduceSub]

theorem op_of_7_5_4_1_5 (u : BitVec 3) (h : Hdr) (a : BitVec 7) (b : BitVec 5) (c : BitVec 4) (d : BitVec 1) (e : BitVec 5) : (mkWord u h (a ++ b ++ c ++ d ++ e)).fld 15 7 = a := by
  rw [fld_mkWord _ _ _ 15 7 (by decide)]
  show BitVec.extractLsb' 15 7 (a ++ b ++ c ++ d ++ e) = _
  simp (disch := decide) only [BitVec.extractLsb'_append_eq_of_le, BitVec.extractLsb'_eq_self, Nat.reduceSub]

theorem op_of_7_3_1_2_2_4_3 (u : BitVec 3) (h : Hdr) (a : BitVec 7) (b : BitVec 3) (c : BitVec 1) (d : BitVec 2) (e : BitVec 2) (f : BitVec 4) (g : BitVec 3) : (mkWord u h (a ++ b ++ c ++ d ++ e ++ f ++ g)).fld 15 7 = a := by
  rw [fld_mkWord _ _ _ 15 7 (by decide)]
  show BitVec.extractLsb' 15 7 (a ++ b ++ c ++ d ++ e ++ f ++ g) = _
  simp (disch := decide) only [BitVec.extractLsb'_append_eq_of_le, BitVec.extractLsb'_eq_self, Nat.reduceSub]

theorem op_of_10_1_2_2_4_3 (u : BitVec 3) (h : Hdr) (a : BitVec 10) (b : BitVec 1) (c : BitVec 2) (d : BitVec 2) (e : BitVec 4) (f : BitVec 3) : (mkWord u h (a ++ b ++ c ++ d ++ e ++ f)).fld 15 7 = a.extractLsb' 3 7 := by
  rw [fld_mkWord _ _ _ 15 7 (by decide)]
  show BitVec.extractLsb' 15 7 (a ++ b ++ c ++ d ++ e ++ f) = _
  simp (disch := decide) only [BitVec.extractLsb'_append_eq_of_le, Nat.reduceSub]

theorem op_of_5_2_5_5_5 (u : BitVec 3) (h : Hdr) (a : BitVec 5) (b : BitVec 2) (c : BitVec 5) (d : BitVec 5) (e : BitVec 5) : (mkWord u h (a ++ b ++ c ++ d ++ e)).fld 15 7 = a ++ b := by
  rw [fld_mkWord _ _ _ 15 7 (by decide)]
  show BitVec.extractLsb' 15 7 (a ++ b ++ c ++ d ++ e) = _
  simp (disch := decide) only [BitVec.extractLsb'_append_eq_of_le, BitVec.extractLsb'_eq_self, Nat.reduceSub]

theorem op_of_9_3_2_3_5 (u : BitVec 3) (h : Hdr) (a : BitVec 9) (b : BitVec 3) (c : BitVec 2) (d : BitVec 3) (e : BitVec 5) : (mkWord u h (a ++ b ++ c ++ d ++ e)).fld 15 7 = a.extractLsb' 2 7 := by
  rw [fld_mkWord _ _ _ 15 7 (by decide)]
  show BitVec.extractLsb' 15 7 (a ++ b ++ c ++ d ++ e) = _
  simp (disch := decide) only [BitVec.extractLsb'_append_eq_of_le, Nat.reduceSub]

theorem op_of_7_5_2_3_5 (u : BitVec 3) (h : Hdr) (a : BitVec 7) (b : BitVec 5) (c : BitVec 2) (d : BitVec 3) (e : BitVec 5) : (mkWord u h (a ++ b ++ c ++ d ++ e)).fld 15 7 = a := by
  rw [fld_mkWord _ _ _ 15 7 (by decide)]
  show BitVec.extractLsb' 15 7 (a ++ b ++ c ++ d ++ e) = _
  simp (disch := decide) only [BitVec.extractLsb'_append_eq_of_le, BitVec.extractLsb'_eq_self, Nat.reduceSub]

theorem op_of_7_4_1_3_7 (u : BitVec 3) (h : Hdr) (a : BitVec 7) (b : BitVec 4) (c : BitVec 1) (d : BitVec 3) (e : BitVec 7) : (mkWord u h (a ++ b ++ c ++ d ++ e)).fld 15 7 = a := by
  rw [fld_mkWord _ _ _ 15 7 (by decide)]
  show BitVec.extractLsb' 15 7 (a ++ b ++ c ++ d ++ e) = _
  simp (disch := decide) only [BitVec.extractLsb'_append_eq_of_le, BitVec.extractLsb'_eq_self, Nat.reduceSub]

theorem op_of_7_3_4_4_1_1_1_1 (u : BitVec 3) (h : Hdr) (a : BitVec 7) (b : BitVec 3) (c : BitVec 4) (d : BitVec 4) (e : BitVec 1) (f : BitVec 1) (g : BitVec 1) (i : BitVec 1) : (mkWord u h (a ++ b ++ c ++ d ++ e ++ f ++ g ++ i)).fld 15 7 = a := by
  rw [fld_mkWord _ _ _ 15 7 (by decide)]
  show BitVec.extractLsb' 15 7 (a ++ b ++ c ++ d ++ e ++ f ++ g ++ i) = _
  simp (disch := decide) only [BitVec.extractLsb'_append_eq_of_le, BitVec.extractLsb'_eq_self, Nat.reduceSub]

theorem op_of_7_3_12 (u : BitVec 3) (h : Hdr) (a : BitVec 7) (b : BitVec 3) (c : BitVec 12) : (mkWord u h (a ++ b ++ c)).fld 15 7 = a := by
  rw [fld_mkWord _ _ _ 15 7 (by decide)]
  show BitVec.extractLsb' 15 7 (a ++ b ++ c) = _
  simp (disch := decide) only [BitVec.extractLsb'_append_eq_of_le, BitVec.extractLsb'_eq_self, Nat.reduceSub]

theorem op_of_7_3_4_7_1 (u : BitVec 3) (h : Hdr) (a : BitVec 7) (b : BitVec 3) (c : BitVec 4) (d : BitVec 7) (e : BitVec 1) : (mkWord u h (a ++ b ++ c ++ d ++ e)).fld 15 7 = a := by
  rw [fld_mkWord _ _ _ 15 7 (by decide)]
  show BitVec.extractLsb' 15 7 (a ++ b ++ c ++ d ++ e) = _
  simp (disch := decide) only [BitVec.extractLsb'_append_eq_of_le, BitVec.extractLsb'_eq_self, Nat.reduceSub]

theorem op_of_7_3_4_8 (u : BitVec 3) (h : Hdr) (a : BitVec 7) (b : BitVec 3) (c : BitVec 4) (d : BitVec 8) : (mkWord u h (a ++ b ++ c ++ d)).fld 15 7 = a := by
  rw [fld_mkWord _ _ _ 15 7 (by decide)]
  show BitVec.extractLsb' 15 7 (a ++ b ++ c ++ d) = _
  simp (disch := decide) only [BitVec.extractLsb'_append_eq_of_le, BitVec.extractLsb'_eq_self, Nat.reduceSub]

theorem op_of_8_1_3_5_5 (u : BitVec 3) (h : Hdr) (a : BitVec 8) (b : BitVec 1) (c : BitVec 3) (d : BitVec 5) (e : BitVec 5) : (mkWord u h (a ++ b ++ c ++ d ++ e)).fld 15 7 = a.extractLsb' 1 7 := by
  rw [fld_mkWord _ _ _ 15 7 (by decide)]
  show BitVec.extractLsb' 15 7 (a ++ b ++ c ++ d ++ e) = _
  simp (disch := decide) only [BitVec.extractLsb'_append_eq_of_le, Nat.reduceSub]

theorem op_of_7_5_3_2_5 (u : BitVec 3) (h : Hdr) (a : BitVec 7) (b : BitVec 5) (c : BitVec 3) (d : BitVec 2) (e : BitVec 5) : (mkWord u h (a ++ b ++ c ++ d ++ e)).fld 15 7 = a := by
  rw [fld_mkWord _ _ _ 15 7 (by decide)]
  show BitVec.extractLsb' 15 7 (a ++ b ++ c ++ d ++ e) = _
  simp (disch := decide) only [BitVec.extractLsb'_append_eq_of_le, BitVec.extractLsb'_eq_self, Nat.reduceSub]

theorem op_of_10_2_10 (u : BitVec 3) (h : Hdr) (a : BitVec 10) (b : BitVec 2) (c : BitVec 10) : (mkWord u h (a ++ b ++ c)).fld 15 7 = a.extractLsb' 3 7 := by
  rw [fld_mkWord _ _ _ 15 7 (by decide)]
  show BitVec.extractLsb' 15 7 (a ++ b ++ c) = _
  simp (disch := decide) only [BitVec.extractLsb'_append_eq_of_le, Nat.reduceSub]

theorem field_of_7_5_5_5_10 (u : BitVec 3) (h : Hdr) (a : BitVec 7) (b : BitVec 5) (c : BitVec 5) (d : BitVec 5) : (mkWord u h (a ++ b ++ c ++ d)).fld 10 5 = b := by
  rw [fld_mkWord _ _ _ 10 5 (by decide)]
  show BitVec.extractLsb' 10 5 (a ++ b ++ c ++ d) = _
  simp (disch := decide) only [BitVec.extractLsb'_append_eq_of_le, BitVec.extractLsb'_append_eq_of_add_le,
    BitVec.extractLsb'_eq_self, Nat.reduceSub]

theorem field_of_7_5_5_5_5 (u : BitVec 3) (h : Hdr) (a : BitVec 7) (b : BitVec 5) (c : BitVec 5) (d : BitVec 5) : (mkWord u h (a ++ b ++ c ++ d)).fld 5 5 = c := by
  rw [fld_mkWord _ _ _ 5 5 (by decide)]
  show BitVec.extractLsb' 5 5 (a ++ b ++ c ++ d) = _
  simp (disch := decide) only [BitVec.extractLsb'_append_eq_of_le, BitVec.extractLsb'_append_eq_of_add_le,
    BitVec.extractLsb'_eq_self, Nat.reduceSub]

theorem field_of_7_5_5_5_0 (u : BitVec 3) (h : Hdr) (a : BitVec 7) (b : BitVec 5) (c : BitVec 5) (d : BitVec 5) : (mkWord u h (a ++ b ++ c ++ d)).fld 0 5 = d := by
  rw [fld_mkWord _ _ _ 0 5 (by decide)]
  show BitVec.extractLsb' 0 5 (a ++ b ++ c ++ d) = _
  simp (disch := decide) only [BitVec.extractLsb'_append_eq_of_add_le, BitVec.extractLsb'_eq_self]

theorem field_of_7_5_10_10 (u : BitVec 3) (h : Hdr) (a : BitVec 7) (b : BitVec 5) (c : BitVec 10) : (mkWord u h (a ++ b ++ c)).fld 10 5 = b := by
  rw [fld_mkWord _ _ _ 10 5 (by decide)]
  show BitVec.extractLsb' 10 5 (a ++ b ++ c) = _
  simp (disch := decide) only [BitVec.extractLsb'_append_eq_of_le, BitVec.extractLsb'_append_eq_of_add_le,
    BitVec.extractLsb'_eq_self, Nat.reduceSub]

theorem field_of_7_5_10_0 (u : BitVec 3) (h : Hdr) (a : BitVec 7) (b : BitVec 5) (c : BitVec 10) : (mkWord u h (a ++ b ++ c)).fld 0 10 = c := by
  rw [fld_mkWord _ _ _ 0 10 (by decide)]
  show BitVec.extractLsb' 0 10 (a ++ b ++ c) = _
  simp (disch := decide) only [BitVec.extractLsb'_append_eq_of_add_le, BitVec.extractLsb'_eq_self]

theorem field_of_7_5_5_2_3_10 (u : BitVec 3) (h : Hdr) (a : BitVec 7) (b : BitVec 5) (c : BitVec 5) (d : BitVec 2) (e : BitVec 3) : (mkWord u h (a ++ b ++ c ++ d ++ e)).fld 10 5 = b := by
  rw [fld_mkWord _ _ _ 10 5 (by decide)]
  show BitVec.extractLsb' 10 5 (a ++ b ++ c ++ d ++ e) = _
  simp (disch := decide) only [BitVec.extractLsb'_append_eq_of_le, BitVec.extractLsb'_append_eq_of_add_le,
    BitVec.extractLsb'_eq_self, Nat.reduceSub]

theorem field_of_7_5_5_2_3_5 (u : BitVec 3) (h : Hdr) (a : BitVec 7) (b : BitVec 5) (c : BitVec 5) (d : BitVec 2) (e : BitVec 3) : (mkWord u h (a ++ b ++ c ++ d ++ e)).fld 5 5 = c := by
  rw [fld_mkWord _ _ _ 5 5 (by decide)]
  show BitVec.extractLsb' 5 5 (a ++ b ++ c ++ d ++ e) = _
  simp (disch := decide) only [BitVec.extractLsb'_append_eq_of_le, BitVec.extractLsb'_append_eq_of_add_le,
    BitVec.extractLsb'_eq_self, Nat.reduceSub]

theorem field_of_7_5_5_2_3_0 (u : BitVec 3) (h : Hdr) (a : BitVec 7) (b : BitVec 5) (c : BitVec 5) (d : BitVec 2) (e : BitVec 3) : (mkWord u h (a ++ b ++ c ++ d ++ e)).fld 0 3 = e := by
  rw [fld_mkWord _ _ _ 0 3 (by decide)]
  show BitVec.extractLsb' 0 3 (a ++ b ++ c ++ d ++ e) = _
  simp (disch := decide) only [BitVec.extractLsb'_append_eq_of_add_le, BitVec.extractLsb'_eq_self]

theorem field_of_9_3_5_5_10 (u : BitVec 3) (h : Hdr) (a : BitVec 9) (b : BitVec 3) (c : BitVec 5) (d : BitVec 5) : (mkWord u h (a ++ b ++ c ++ d)).fld 10 3 = b := by
  rw [fld_mkWord _ _ _ 10 3 (by decide)]
  show BitVec.extractLsb' 10 3 (a ++ b ++ c ++ d) = _
  simp (disch := decide) only [BitVec.extractLsb'_append_eq_of_le, BitVec.extractLsb'_append_eq_of_add_le,
    BitVec.extractLsb'_eq_self, Nat.reduceSub]

theorem field_of_9_3_5_5_5 (u : BitVec 3) (h : Hdr) (a : BitVec 9) (b : BitVec 3) (c : BitVec 5) (d : BitVec 5) : (mkWord u h (a ++ b ++ c ++ d)).fld 5 5 = c := by
  rw [fld_mkWord _ _ _ 5 5 (by decide)]
  show BitVec.extractLsb' 5 5 (a ++ b ++ c ++ d) = _
  simp (disch := decide) only [BitVec.extractLsb'_append_eq_of_le, BitVec.extractLsb'_append_eq_of_add_le,
    BitVec.extractLsb'_eq_self, Nat.reduceSub]

theorem field_of_9_3_5_5_0 (u : BitVec 3) (h : Hdr) (a : BitVec 9) (b : BitVec 3) (c : BitVec 5) (d : BitVec 5) : (mkWord u h (a ++ b ++ c ++ d)).fld 0 5 = d := by
  rw [fld_mkWord _ _ _ 0 5 (by decide)]
  show BitVec.extractLsb' 0 5 (a ++ b ++ c ++ d) = _
  simp (disch := decide) only [BitVec.extractLsb'_append_eq_of_add_le, BitVec.extractLsb'_eq_self]

theorem field_of_9_3_2_3_2_3_10 (u : BitVec 3) (h : Hdr) (a : BitVec 9) (b : BitVec 3) (c : BitVec 2) (d : BitVec 3) (e : BitVec 2) (f : BitVec 3) : (mkWord u h (a ++ b ++ c ++ d ++ e ++ f)).fld 10 3 = b := by
  rw [fld_mkWord _ _ _ 10 3 (by decide)]
  show BitVec.extractLsb' 10 3 (a ++ b ++ c ++ d ++ e ++ f) = _
  simp (disch := decide) only [BitVec.extractLsb'_append_eq_of_le, BitVec.extractLsb'_append_eq_of_add_le,
    BitVec.extractLsb'_eq_self, Nat.reduceSub]

theorem field_of_9_3_2_3_2_3_5 (u : BitVec 3) (h : Hdr) (a : BitVec 9) (b : BitVec 3) (c : BitVec 2) (d : BitVec 3) (e : BitVec 2) (f : BitVec 3) : (mkWord u h (a ++ b ++ c ++ d ++ e ++ f)).fld 5 3 = d := by
  rw [fld_mkWord _ _ _ 5 3 (by decide)]
  show BitVec.extractLsb' 5 3 (a ++ b ++ c ++ d ++ e ++ f) = _
  simp (disch := decide) only [BitVec.extractLsb'_append_eq_of_le, BitVec.extractLsb'_append_eq_of_add_le,
    BitVec.extractLsb'_eq_self, Nat.reduceSub]

theorem field_of_9_3_2_3_2_3_0 (u : BitVec 3) (h : Hdr) (a : BitVec 9) (b : BitVec 3) (c : BitVec 2) (d : BitVec 3) (e : BitVec 2) (f : BitVec 3) : (mkWord u h (a ++ b ++ c ++ d ++ e ++ f)).fld 0 3 = f := by
  rw [fld_mkWord _ _ _ 0 3 (by decide)]
  show BitVec.extractLsb' 0 3 (a ++ b ++ c ++ d ++ e ++ f) = _
  simp (disch := decide) only [BitVec.extractLsb'_append_eq_of_add_le, BitVec.extractLsb'_eq_self]

theorem field_of_7_3_1_11_12 (u : BitVec 3) (h : Hdr) (a : BitVec 7) (b : BitVec 3) (c : BitVec 1) (d : BitVec 11) : (mkWord u h (a ++ b ++ c ++ d)).fld 12 3 = b := by
  rw [fld_mkWord _ _ _ 12 3 (by decide)]
  show BitVec.extractLsb' 12 3 (a ++ b ++ c ++ d) = _
  simp (disch := decide) only [BitVec.extractLsb'_append_eq_of_le, BitVec.extractLsb'_append_eq_of_add_le,
    BitVec.extractLsb'_eq_self, Nat.reduceSub]

theorem field_of_7_3_1_11_11 (u : BitVec 3) (h : Hdr) (a : BitVec 7) (b : BitVec 3) (c : BitVec 1) (d : BitVec 11) : (mkWord u h (a ++ b ++ c ++ d)).fld 11 1 = c := by
  rw [fld_mkWord _ _ _ 11 1 (by decide)]
  show BitVec.extractLsb' 11 1 (a ++ b ++ c ++ d) = _
  simp (disch := decide) only [BitVec.extractLsb'_append_eq_of_le, BitVec.extractLsb'_append_eq_of_add_le,
    BitVec.extractLsb'_eq_self, Nat.reduceSub]

theorem field_of_7_3_1_11_0 (u : BitVec 3) (h : Hdr) (a : BitVec 7) (b : BitVec 3) (c : BitVec 1) (d : BitVec 11) : (mkWord u h (a ++ b ++ c ++ d)).fld 0 11 = d := by
  rw [fld_mkWord _ _ _ 0 11 (by decide)]
  show BitVec.extractLsb' 0 11 (a ++ b ++ c ++ d) = _
  simp (disch := decide) only [BitVec.extractLsb'_append_eq_of_add_le, BitVec.extractLsb'_eq_self]

theorem field_of_11_11_0 (u : BitVec 3) (h : Hdr) (a : BitVec 11) (b : BitVec 11) : (mkWord u h (a ++ b)).fld 0 11 = b := by
  rw [fld_mkWord _ _ _ 0 11 (by decide)]
  show BitVec.extractLsb' 0 11 (a ++ b) = _
  simp (disch := decide) only [BitVec.extractLsb'_append_eq_of_add_le, BitVec.extractLsb'_eq_self]

theorem field_of_12_5_5_5 (u : BitVec 3) (h : Hdr) (a : BitVec 12) (b : BitVec 5) (c : BitVec 5) : (mkWord u h (a ++ b ++ c)).fld 5 5 = b := by
  rw [fld_mkWord _ _ _ 5 5 (by decide)]
  show BitVec.extractLsb' 5 5 (a ++ b ++ c) = _
  simp (disch := decide) only [BitVec.extractLsb'_append_eq_of_le, BitVec.extractLsb'_append_eq_of_add_le,
    BitVec.extractLsb'_eq_self, Nat.reduceSub]

theorem field_of_7_5_3_7_10 (u : BitVec 3) (h : Hdr) (a : BitVec 7) (b : BitVec 5) (c : BitVec 3) (d : BitVec 7) : (mkWord u h (a ++ b ++ c ++ d)).fld 10 5 = b := by
  rw [fld_mkWord _ _ _ 10 5 (by decide)]
  show BitVec.extractLsb' 10 5 (a ++ b ++ c ++ d) = _
  simp (disch := decide) only [BitVec.extractLsb'_append_eq_of_le, BitVec.extractLsb'_append_eq_of_add_le,
    BitVec.extractLsb'_eq_self, Nat.reduceSub]

theorem field_of_7_5_3_7_7 (u : BitVec 3) (h : Hdr) (a : BitVec 7) (b : BitVec 5) (c : BitVec 3) (d : BitVec 7) : (mkWord u h (a ++ b ++ c ++ d)).fld 7 3 = c := by
  rw [fld_mkWord _ _ _ 7 3 (by decide)]
  show BitVec.extractLsb' 7 3 (a ++ b ++ c ++ d) = _
  simp (disch := decide) only [BitVec.extractLsb'_append_eq_of_le, BitVec.extractLsb'_append_eq_of_add_le,
    BitVec.extractLsb'_eq_self, Nat.reduceSub]

theorem field_of_7_5_3_7_0 (u : BitVec 3) (h : Hdr) (a : BitVec 7) (b : BitVec 5) (c : BitVec 3) (d : BitVec 7) : (mkWord u h (a ++ b ++ c ++ d)).fld 0 7 = d := by
  rw [fld_mkWord _ _ _ 0 7 (by decide)]
  show BitVec.extractLsb' 0 7 (a ++ b ++ c ++ d) = _
  simp (disch := decide) only [BitVec.extractLsb'_append_eq_of_add_le, BitVec.extractLsb'_eq_self]

theorem field_of_17_5_0 (u : BitVec 3) (h : Hdr) (a : BitVec 17) (b : BitVec 5) : (mkWord u h (a ++ b)).fld 0 5 = b := by
  rw [fld_mkWord _ _ _ 0 5 (by decide)]
  show BitVec.extractLsb' 0 5 (a ++ b) = _
  simp (disch := decide) only [BitVec.extractLsb'_append_eq_of_add_le, BitVec.extractLsb'_eq_self]

theorem field_of_18_4_0 (u : BitVec 3) (h : Hdr) (a : BitVec 18) (b : BitVec 4) : (mkWord u h (a ++ b)).fld 0 4 = b := by
  rw [fld_mkWord _ _ _ 0 4 (by decide)]
  show BitVec.extractLsb' 0 4 (a ++ b) = _
  simp (disch := decide) only [BitVec.extractLsb'_append_eq_of_add_le, BitVec.extractLsb'_eq_self]

theorem field_of_18_2_2_2 (u : BitVec 3) (h : Hdr) (a : BitVec 18) (b : BitVec 2) (c : BitVec 2) : (mkWord u h (a ++ b ++ c)).fld 2 2 = b := by
  rw [fld_mkWord _ _ _ 2 2 (by decide)]
  show BitVec.extractLsb' 2 2 (a ++ b ++ c) = _
  simp (disch := decide) only [BitVec.extractLsb'_append_eq_of_le, BitVec.extractLsb'_append_eq_of_add_le,
    BitVec.extractLsb'_eq_self, Nat.reduceSub]

theorem field_of_18_2_2_0 (u : BitVec 3) (h : Hdr) (a : BitVec 18) (b : BitVec 2) (c : BitVec 2) : (mkWord u h (a ++ b ++ c)).fld 0 2 = c := by
  rw [fld_mkWord _ _ _ 0 2 (by decide)]
  show BitVec.extractLsb' 0 2 (a ++ b ++ c) = _
  simp (disch := decide) only [BitVec.extractLsb'_append_eq_of_add_le, BitVec.extractLsb'_eq_self]

theorem field_of_20_2_0 (u : BitVec 3) (h : Hdr) (a : BitVec 20) (b : BitVec 2) : (mkWord u h (a ++ b)).fld 0 2 = b := by
  rw [fld_mkWord _ _ _ 0 2 (by decide)]
  show BitVec.extractLsb' 0 2 (a ++ b) = _
  simp (disch := decide) only [BitVec.extractLsb'_append_eq_of_add_le, BitVec.extractLsb'_eq_self]

theorem field_of_12_5_5_0 (u : BitVec 3) (h : Hdr) (a : BitVec 12) (b : BitVec 5) (c : BitVec 5) : (mkWord u h (a ++ b ++ c)).fld 0 5 = c := by
  rw [fld_mkWord _ _ _ 0 5 (by decide)]
  show BitVec.extractLsb' 0 5 (a ++ b ++ c) = _
  simp (disch := decide) only [BitVec.extractLsb'_append_eq_of_add_le, BitVec.extractLsb'_eq_self]

theorem field_of_10_2_5_5_10 (u : BitVec 3) (h : Hdr) (a : BitVec 10) (b : BitVec 2) (c : BitVec 5) (d : BitVec 5) : (mkWord u h (a ++ b ++ c ++ d)).fld 10 2 = b := by
  rw [fld_mkWord _ _ _ 10 2 (by decide)]
  show BitVec.extractLsb' 10 2 (a ++ b ++ c ++ d) = _
  simp (disch := decide) only [BitVec.extractLsb'_append_eq_of_le, BitVec.extractLsb'_append_eq_of_add_le,
    BitVec.extractLsb'_eq_self, Nat.reduceSub]

theorem field_of_10_2_5_5_5 (u : BitVec 3) (h : Hdr) (a : BitVec 10) (b : BitVec 2) (c : BitVec 5) (d : BitVec 5) : (mkWord u h (a ++ b ++ c ++ d)).fld 5 5 = c := by
  rw [fld_mkWord _ _ _ 5 5 (by decide)]
  show BitVec.extractLsb' 5 5 (a ++ b ++ c ++ d) = _
  simp (disch := decide) only [BitVec.extractLsb'_append_eq_of_le, BitVec.extractLsb'_append_eq_of_add_le,
    BitVec.extractLsb'_eq_self, Nat.reduceSub]

theorem field_of_10_2_5_5_0 (u : BitVec 3) (h : Hdr) (a : BitVec 10) (b : BitVec 2) (c : BitVec 5) (d : BitVec 5) : (mkWord u h (a ++ b ++ c ++ d)).fld 0 5 = d := by
  rw [fld_mkWord _ _ _ 0 5 (by decide)]
  show BitVec.extractLsb' 0 5 (a ++ b ++ c ++ d) = _
  simp (disch := decide) only [BitVec.extractLsb'_append_eq_of_add_le, BitVec.extractLsb'_eq_self]

theorem field_of_12_10_0 (u : BitVec 3) (h : Hdr) (a : BitVec 12) (b : BitVec 10) : (mkWord u h (a ++ b)).fld 0 10 = b := by
  rw [fld_mkWord _ _ _ 0 10 (by decide)]
  show BitVec.extractLsb' 0 10 (a ++ b) = _
  simp (disch := decide) only [BitVec.extractLsb'_append_eq_of_add_le, BitVec.extractLsb'_eq_self]

theorem field_of_9_3_10_10 (u : BitVec 3) (h : Hdr) (a : BitVec 9) (b : BitVec 3) (c : BitVec 10) : (mkWord u h (a ++ b ++ c)).fld 10 3 = b := by
  rw [fld_mkWord _ _ _ 10 3 (by decide)]
  show BitVec.extractLsb' 10 3 (a ++ b ++ c) = _
  simp (disch := decide) only [BitVec.extractLsb'_append_eq_of_le, BitVec.extractLsb'_append_eq_of_add_le,
    BitVec.extractLsb'_eq_self, Nat.reduceSub]

theorem field_of_9_3_10_0 (u : BitVec 3) (h : Hdr) (a : BitVec 9) (b : BitVec 3) (c : BitVec 10) : (mkWord u h (a ++ b ++ c)).fld 0 10 = c := by
  rw [fld_mkWord _ _ _ 0 10 (by decide)]
  show BitVec.extractLsb' 0 10 (a ++ b ++ c) = _
  simp (disch := decide) only [BitVec.extractLsb'_append_eq_of_add_le, BitVec.extractLsb'_eq_self]

theorem field_of_7_3_2_5_5_12 (u : BitVec 3) (h : Hdr) (a : BitVec 7) (b : BitVec 3) (c : BitVec 2) (d : BitVec 5) (e : BitVec 5) : (mkWord u h (a ++ b ++ c ++ d ++ e)).fld 12 3 = b := by
  rw [fld_mkWord _ _ _ 12 3 (by decide)]
  show BitVec.extractLsb' 12 3 (a ++ b ++ c ++ d ++ e) = _
  simp (disch := decide) only [BitVec.extractLsb'_append_eq_of_le, BitVec.extractLsb'_append_eq_of_add_le,
    BitVec.extractLsb'_eq_self, Nat.reduceSub]

theorem field_of_7_3_2_5_5_10 (u : BitVec 3) (h : Hdr) (a : BitVec 7) (b : BitVec 3) (c : BitVec 2) (d : BitVec 5) (e : BitVec 5) : (mkWord u h (a ++ b ++ c ++ d ++ e)).fld 10 2 = c := by
  rw [fld_mkWord _ _ _ 10 2 (by decide)]
  show BitVec.extractLsb' 10 2 (a ++ b ++ c ++ d ++ e) = _
  simp (disch := decide) only [BitVec.extractLsb'_append_eq_of_le, BitVec.extractLsb'_append_eq_of_add_le,
    BitVec.extractLsb'_eq_self, Nat.reduceSub]

theorem field_of_7_3_2_5_5_5 (u : BitVec 3) (h : Hdr) (a : BitVec 7) (b : BitVec 3) (c : BitVec 2) (d : BitVec 5) (e : BitVec 5) : (mkWord u h (a ++ b ++ c ++ d ++ e)).fld 5 5 = d := by
  rw [fld_mkWord _ _ _ 5 5 (by decide)]
  show BitVec.extractLsb' 5 5 (a ++ b ++ c ++ d ++ e) = _
  simp (disch := decide) only [BitVec.extractLsb'_append_eq_of_le, BitVec.extractLsb'_append_eq_of_add_le,
    BitVec.extractLsb'_eq_self, Nat.reduceSub]

theorem field_of_7_3_2_5_5_0 (u : BitVec 3) (h : Hdr) (a : BitVec 7) (b : BitVec 3) (c : BitVec 2) (d : BitVec 5) (e : BitVec 5) : (mkWord u h (a ++ b ++ c ++ d ++ e)).fld 0 5 = e := by
  rw [fld_mkWord _ _ _ 0 5 (by decide)]
  show BitVec.extractLsb' 0 5 (a ++ b ++ c ++ d ++ e) = _
  simp (disch := decide) only [BitVec.extractLsb'_append_eq_of_add_le, BitVec.extractLsb'_eq_self]

theorem field_of_5_2_3_2_5_1_1_3_15 (u : BitVec 3) (h : Hdr) (a : BitVec 5) (b : BitVec 2) (c : BitVec 3) (d : BitVec 2) (e : BitVec 5) (f : BitVec 1) (g : BitVec 1) (i : BitVec 3) : (mkWord u h (a ++ b ++ c ++ d ++ e ++ f ++ g ++ i)).fld 15 2 = b := by
  rw [fld_mkWord _ _ _ 15 2 (by decide)]
  show BitVec.extractLsb' 15 2 (a ++ b ++ c ++ d ++ e ++ f ++ g ++ i) = _
  simp (disch := decide) only [BitVec.extractLsb'_append_eq_of_le, BitVec.extractLsb'_append_eq_of_add_le,
    BitVec.extractLsb'_eq_self, Nat.reduceSub]

theorem field_of_5_2_3_2_5_1_1_3_12 (u : BitVec 3) (h : Hdr) (a : BitVec 5) (b : BitVec 2) (c : BitVec 3) (d : BitVec 2) (e : BitVec 5) (f : BitVec 1) (g : BitVec 1) (i : BitVec 3) : (mkWord u h (a ++ b ++ c ++ d ++ e ++ f ++ g ++ i)).fld 12 3 = c := by
  rw [fld_mkWord _ _ _ 12 3 (by decide)]
  show BitVec.extractLsb' 12 3 (a ++ b ++ c ++ d ++ e ++ f ++ g ++ i) = _
  simp (disch := decide) only [BitVec.extractLsb'_append_eq_of_le, BitVec.extractLsb'_append_eq_of_add_le,
    BitVec.extractLsb'_eq_self, Nat.reduceSub]

theorem field_of_5_2_3_2_5_1_1_3_10 (u : BitVec 3) (h : Hdr) (a : BitVec 5) (b : BitVec 2) (c : BitVec 3) (d : BitVec 2) (e : BitVec 5) (f : BitVec 1) (g : BitVec 1) (i : BitVec 3) : (mkWord u h (a ++ b ++ c ++ d ++ e ++ f ++ g ++ i)).fld 10 2 = d := by
  rw [fld_mkWord _ _ _ 10 2 (by decide)]
  show BitVec.extractLsb' 10 2 (a ++ b ++ c ++ d ++ e ++ f ++ g ++ i) = _
  simp (disch := decide) only [BitVec.extractLsb'_append_eq_of_le, BitVec.extractLsb'_append_eq_of_add_le,
    BitVec.extractLsb'_eq_self, Nat.reduceSub]

theorem field_of_5_2_3_2_5_1_1_3_5 (u : BitVec 3) (h : Hdr) (a : BitVec 5) (b : BitVec 2) (c : BitVec 3) (d : BitVec 2) (e : BitVec 5) (f : BitVec 1) (g : BitVec 1) (i : BitVec 3) : (mkWord u h (a ++ b ++ c ++ d ++ e ++ f ++ g ++ i)).fld 5 5 = e := by
  rw [fld_mkWord _ _ _ 5 5 (by decide)]
  show BitVec.extractLsb' 5 5 (a ++ b ++ c ++ d ++ e ++ f ++ g ++ i) = _
  simp (disch := decide) only [BitVec.extractLsb'_append_eq_of_le, BitVec.extractLsb'_append_eq_of_add_le,
    BitVec.extractLsb'_eq_self, Nat.reduceSub]

theorem field_of_5_2_3_2_5_1_1_3_4 (u : BitVec 3) (h : Hdr) (a : BitVec 5) (b : BitVec 2) (c : BitVec 3) (d : BitVec 2) (e : BitVec 5) (f : BitVec 1) (g : BitVec 1) (i : BitVec 3) : (mkWord u h (a ++ b ++ c ++ d ++ e ++ f ++ g ++ i)).fld 4 1 = f := by
  rw [fld_mkWord _ _ _ 4 1 (by decide)]
  show BitVec.extractLsb' 4 1 (a ++ b ++ c ++ d ++ e ++ f ++ g ++ i) = _
  simp (disch := decide) only [BitVec.extractLsb'_append_eq_of_le, BitVec.extractLsb'_append_eq_of_add_le,
    BitVec.extractLsb'_eq_self, Nat.reduceSub]

theorem field_of_5_2_3_2_5_1_1_3_3 (u : BitVec 3) (h : Hdr) (a : BitVec 5) (b : BitVec 2) (c : BitVec 3) (d : BitVec 2) (e : BitVec 5) (f : BitVec 1) (g : BitVec 1) (i : BitVec 3) : (mkWord u h (a ++ b ++ c ++ d ++ e ++ f ++ g ++ i)).fld 3 1 = g := by
  rw [fld_mkWord _ _ _ 3 1 (by decide)]
  show BitVec.extractLsb' 3 1 (a ++ b ++ c ++ d ++ e ++ f ++ g ++ i) = _
  simp (disch := decide) only [BitVec.extractLsb'_append_eq_of_le, BitVec.extractLsb'_append_eq_of_add_le,
    BitVec.extractLsb'_eq_self, Nat.reduceSub]

theorem field_of_5_2_3_2_5_1_1_3_0 (u : BitVec 3) (h : Hdr) (a : BitVec 5) (b : BitVec 2) (c : BitVec 3) (d : BitVec 2) (e : BitVec 5) (f : BitVec 1) (g : BitVec 1) (i : BitVec 3) : (mkWord u h (a ++ b ++ c ++ d ++ e ++ f ++ g ++ i)).fld 0 3 = i := by
  rw [fld_mkWord _ _ _ 0 3 (by decide)]
  show BitVec.extractLsb' 0 3 (a ++ b ++ c ++ d ++ e ++ f ++ g ++ i) = _
  simp (disch := decide) only [BitVec.extractLsb'_append_eq_of_add_le, BitVec.extractLsb'_eq_self]

theorem field_of_11_1_5_5_10 (u : BitVec 3) (h : Hdr) (a : BitVec 11) (b : BitVec 1) (c : BitVec 5) (d : BitVec 5) : (mkWord u h (a ++ b ++ c ++ d)).fld 10 1 = b := by
  rw [fld_mkWord _ _ _ 10 1 (by decide)]
  show BitVec.extractLsb' 10 1 (a ++ b ++ c ++ d) = _
  simp (disch := decide) only [BitVec.extractLsb'_append_eq_of_le, BitVec.extractLsb'_append_eq_of_add_le,
    BitVec.extractLsb'_eq_self, Nat.reduceSub]

theorem field_of_11_1_5_5_5 (u : BitVec 3) (h : Hdr) (a : BitVec 11) (b : BitVec 1) (c : BitVec 5) (d : BitVec 5) : (mkWord u h (a ++ b ++ c ++ d)).fld 5 5 = c := by
  rw [fld_mkWord _ _ _ 5 5 (by decide)]
  show BitVec.extractLsb' 5 5 (a ++ b ++ c ++ d) = _
  simp (disch := decide) only [BitVec.extractLsb'_append_eq_of_le, BitVec.extractLsb'_append_eq_of_add_le,
    BitVec.extractLsb'_eq_self, Nat.reduceSub]

theorem field_of_11_1_5_5_0 (u : BitVec 3) (h : Hdr) (a : BitVec 11) (b : BitVec 1) (c : BitVec 5) (d : BitVec 5) : (mkWord u h (a ++ b ++ c ++ d)).fld 0 5 = d := by
  rw [fld_mkWord _ _ _ 0 5 (by decide)]
  show BitVec.extractLsb' 0 5 (a ++ b ++ c ++ d) = _
  simp (disch := decide) only [BitVec.extractLsb'_append_eq_of_add_le, BitVec.extractLsb'_eq_self]

theorem field_of_7_5_4_1_5_10 (u : BitVec 3) (h : Hdr) (a : BitVec 7) (b : BitVec 5) (c : BitVec 4) (d : BitVec 1) (e : BitVec 5) : (mkWord u h (a ++ b ++ c ++ d ++ e)).fld 10 5 = b := by
  rw [fld_mkWord _ _ _ 10 5 (by decide)]
  show BitVec.extractLsb' 10 5 (a ++ b ++ c ++ d ++ e) = _
  simp (disch := decide) only [BitVec.extractLsb'_append_eq_of_le, BitVec.extractLsb'_append_eq_of_add_le,
    BitVec.extractLsb'_eq_self, Nat.reduceSub]

theorem field_of_7_5_4_1_5_5 (u : BitVec 3) (h : Hdr) (a : BitVec 7) (b : BitVec 5) (c : BitVec 4) (d : BitVec 1) (e : BitVec 5) : (mkWord u h (a ++ b ++ c ++ d ++ e)).fld 5 1 = d := by
  rw [fld_mkWord _ _ _ 5 1 (by decide)]
  show BitVec.extractLsb' 5 1 (a ++ b ++ c ++ d ++ e) = _
  simp (disch := decide) only [BitVec.extractLsb'_append_eq_of_le, BitVec.extractLsb'_append_eq_of_add_le,
    BitVec.extractLsb'_eq_self, Nat.reduceSub]

theorem field_of_7_5_4_1_5_0 (u : BitVec 3) (h : Hdr) (a : BitVec 7) (b : BitVec 5) (c : BitVec 4) (d : BitVec 1) (e : BitVec 5) : (mkWord u h (a ++ b ++ c ++ d ++ e)).fld 0 5 = e := by
  rw [fld_mkWord _ _ _ 0 5 (by decide)]
  show BitVec.extractLsb' 0 5 (a ++ b ++ c ++ d ++ e) = _
  simp (disch := decide) only [BitVec.extractLsb'_append_eq_of_add_le, BitVec.extractLsb'_eq_self]

theorem field_of_7_3_1_2_2_4_3_12 (u : BitVec 3) (h : Hdr) (a : BitVec 7) (b : BitVec 3) (c : BitVec 1) (d : BitVec 2) (e : BitVec 2) (f : BitVec 4) (g : BitVec 3) : (mkWord u h (a ++ b ++ c ++ d ++ e ++ f ++ g)).fld 12 3 = b := by
  rw [fld_mkWord _ _ _ 12 3 (by decide)]
  show BitVec.extractLsb' 12 3 (a ++ b ++ c ++ d ++ e ++ f ++ g) = _
  simp (disch := decide) only [BitVec.extractLsb'_append_eq_of_le, BitVec.extractLsb'_append_eq_of_add_le,
    BitVec.extractLsb'_eq_self, Nat.reduceSub]

theorem field_of_7_3_1_2_2_4_3_11 (u : BitVec 3) (h : Hdr) (a : BitVec 7) (b : BitVec 3) (c : BitVec 1) (d : BitVec 2) (e : BitVec 2) (f : BitVec 4) (g : BitVec 3) : (mkWord u h (a ++ b ++ c ++ d ++ e ++ f ++ g)).fld 11 1 = c := by
  rw [fld_mkWord _ _ _ 11 1 (by decide)]
  show BitVec.extractLsb' 11 1 (a ++ b ++ c ++ d ++ e ++ f ++ g) = _
  simp (disch := decide) only [BitVec.extractLsb'_append_eq_of_le, BitVec.extractLsb'_append_eq_of_add_le,
    BitVec.extractLsb'_eq_self, Nat.reduceSub]

theorem field_of_7_3_1_2_2_4_3_9 (u : BitVec 3) (h : Hdr) (a : BitVec 7) (b : BitVec 3) (c : BitVec 1) (d : BitVec 2) (e : BitVec 2) (f : BitVec 4) (g : BitVec 3) : (mkWord u h (a ++ b ++ c ++ d ++ e ++ f ++ g)).fld 9 2 = d := by
  rw [fld_mkWord _ _ _ 9 2 (by decide)]
  show BitVec.extractLsb' 9 2 (a ++ b ++ c ++ d ++ e ++ f ++ g) = _
  simp (disch := decide) only [BitVec.extractLsb'_append_eq_of_le, BitVec.extractLsb'_append_eq_of_add_le,
    BitVec.extractLsb'_eq_self, Nat.reduceSub]

theorem field_of_7_3_1_2_2_4_3_7 (u : BitVec 3) (h : Hdr) (a : BitVec 7) (b : BitVec 3) (c : BitVec 1) (d : BitVec 2) (e : BitVec 2) (f : BitVec 4) (g : BitVec 3) : (mkWord u h (a ++ b ++ c ++ d ++ e ++ f ++ g)).fld 7 2 = e := by
  rw [fld_mkWord _ _ _ 7 2 (by decide)]
  show BitVec.extractLsb' 7 2 (a ++ b ++ c ++ d ++ e ++ f ++ g) = _
  simp (disch := decide) only [BitVec.extractLsb'_append_eq_of_le, BitVec.extractLsb'_append_eq_of_add_le,
    BitVec.extractLsb'_eq_self, Nat.reduceSub]

theorem field_of_7_3_1_2_2_4_3_3 (u : BitVec 3) (h : Hdr) (a : BitVec 7) (b : BitVec 3) (c : BitVec 1) (d : BitVec 2) (e : BitVec 2) (f : BitVec 4) (g : BitVec 3) : (mkWord u h (a ++ b ++ c ++ d ++ e ++ f ++ g)).fld 3 4 = f := by
  rw [fld_mkWord _ _ _ 3 4 (by decide)]
  show BitVec.extractLsb' 3 4 (a ++ b ++ c ++ d ++ e ++ f ++ g) = _
  simp (disch := decide) only [BitVec.extractLsb'_append_eq_of_le, BitVec.extractLsb'_append_eq_of_add_le,
    BitVec.extractLsb'_eq_self, Nat.reduceSub]

theorem field_of_7_3_1_2_2_4_3_0 (u : BitVec 3) (h : Hdr) (a : BitVec 7) (b : BitVec 3) (c : BitVec 1) (d : BitVec 2) (e : BitVec 2) (f : BitVec 4) (g : BitVec 3) : (mkWord u h (a ++ b ++ c ++ d ++ e ++ f ++ g)).fld 0 3 = g := by
  rw [fld_mkWord _ _ _ 0 3 (by decide)]
  show BitVec.extractLsb' 0 3 (a ++ b ++ c ++ d ++ e ++ f ++ g) = _
  simp (disch := decide) only [BitVec.extractLsb'_append_eq_of_add_le, BitVec.extractLsb'_eq_self]

theorem field_of_10_1_2_2_4_3_11 (u : BitVec 3) (h : Hdr) (a : BitVec 10) (b : BitVec 1) (c : BitVec 2) (d : BitVec 2) (e : BitVec 4) (f : BitVec 3) : (mkWord u h (a ++ b ++ c ++ d ++ e ++ f)).fld 11 1 = b := by
  rw [fld_mkWord _ _ _ 11 1 (by decide)]
  show BitVec.extractLsb' 11 1 (a ++ b ++ c ++ d ++ e ++ f) = _
  simp (disch := decide) only [BitVec.extractLsb'_append_eq_of_le, BitVec.extractLsb'_append_eq_of_add_le,
    BitVec.extractLsb'_eq_self, Nat.reduceSub]

theorem field_of_10_1_2_2_4_3_9 (u : BitVec 3) (h : Hdr) (a : BitVec 10) (b : BitVec 1) (c : BitVec 2) (d : BitVec 2) (e : BitVec 4) (f : BitVec 3) : (mkWord u h (a ++ b ++ c ++ d ++ e ++ f)).fld 9 2 = c := by
  rw [fld_mkWord _ _ _ 9 2 (by decide)]
  show BitVec.extractLsb' 9 2 (a ++ b ++ c ++ d ++ e ++ f) = _
  simp (disch := decide) only [BitVec.extractLsb'_append_eq_of_le, BitVec.extractLsb'_append_eq_of_add_le,
    BitVec.extractLsb'_eq_self, Nat.reduceSub]

theorem field_of_10_1_2_2_4_3_7 (u : BitVec 3) (h : Hdr) (a : BitVec 10) (b : BitVec 1) (c : BitVec 2) (d : BitVec 2) (e : BitVec 4) (f : BitVec 3) : (mkWord u h (a ++ b ++ c ++ d ++ e ++ f)).fld 7 2 = d := by
  rw [fld_mkWord _ _ _ 7 2 (by decide)]
  show BitVec.extractLsb' 7 2 (a ++ b ++ c ++ d ++ e ++ f) = _
  simp (disch := decide) only [BitVec.extractLsb'_append_eq_of_le, BitVec.extractLsb'_append_eq_of_add_le,
    BitVec.extractLsb'_eq_self, Nat.reduceSub]

theorem field_of_10_1_2_2_4_3_3 (u : BitVec 3) (h : Hdr) (a : BitVec 10) (b : BitVec 1) (c : BitVec 2) (d : BitVec 2) (e : BitVec 4) (f : BitVec 3) : (mkWord u h (a ++ b ++ c ++ d ++ e ++ f)).fld 3 4 = e := by
  rw [fld_mkWord _ _ _ 3 4 (by decide)]
  show BitVec.extractLsb' 3 4 (a ++ b ++ c ++ d ++ e ++ f) = _
  simp (disch := decide) only [BitVec.extractLsb'_append_eq_of_le, BitVec.extractLsb'_append_eq_of_add_le,
    BitVec.extractLsb'_eq_self, Nat.reduceSub]

theorem field_of_10_1_2_2_4_3_0 (u : BitVec 3) (h : Hdr) (a : BitVec 10) (b : BitVec 1) (c : BitVec 2) (d : BitVec 2) (e : BitVec 4) (f : BitVec 3) : (mkWord u h (a ++ b ++ c ++ d ++ e ++ f)).fld 0 3 = f := by
  rw [fld_mkWord _ _ _ 0 3 (by decide)]
  show BitVec.extractLsb' 0 3 (a ++ b ++ c ++ d ++ e ++ f) = _
  simp (disch := decide) only [BitVec.extractLsb'_append_eq_of_add_le, BitVec.extractLsb'_eq_self]

theorem field_of_5_2_5_5_5_15 (u : BitVec 3) (h : Hdr) (a : BitVec 5) (b : BitVec 2) (c : BitVec 5) (d : BitVec 5) (e : BitVec 5) : (mkWord u h (a ++ b ++ c ++ d ++ e)).fld 15 2 = b := by
  rw [fld_mkWord _ _ _ 15 2 (by decide)]
  show BitVec.extractLsb' 15 2 (a ++ b ++ c ++ d ++ e) = _
  simp (disch := decide) only [BitVec.extractLsb'_append_eq_of_le, BitVec.extractLsb'_append_eq_of_add_le,
    BitVec.extractLsb'_eq_self, Nat.reduceSub]

theorem field_of_5_2_5_5_5_10 (u : BitVec 3) (h : Hdr) (a : BitVec 5) (b : BitVec 2) (c : BitVec 5) (d : BitVec 5) (e : BitVec 5) : (mkWord u h (a ++ b ++ c ++ d ++ e)).fld 10 5 = c := by
  rw [fld_mkWord _ _ _ 10 5 (by decide)]
  show BitVec.extractLsb' 10 5 (a ++ b ++ c ++ d ++ e) = _
  simp (disch := decide) only [BitVec.extractLsb'_append_eq_of_le, BitVec.extractLsb'_append_eq_of_add_le,
    BitVec.extractLsb'_eq_self, Nat.reduceSub]

theorem field_of_5_2_5_5_5_5 (u : BitVec 3) (h : Hdr) (a : BitVec 5) (b : BitVec 2) (c : BitVec 5) (d : BitVec 5) (e : BitVec 5) : (mkWord u h (a ++ b ++ c ++ d ++ e)).fld 5 5 = d := by
  rw [fld_mkWord _ _ _ 5 5 (by decide)]
  show BitVec.extractLsb' 5 5 (a ++ b ++ c ++ d ++ e) = _
  simp (disch := decide) only [BitVec.extractLsb'_append_eq_of_le, BitVec.extractLsb'_append_eq_of_add_le,
    BitVec.extractLsb'_eq_self, Nat.reduceSub]

theorem field_of_5_2_5_5_5_0 (u : BitVec 3) (h : Hdr) (a : BitVec 5) (b : BitVec 2) (c : BitVec 5) (d : BitVec 5) (e : BitVec 5) : (mkWord u h (a ++ b ++ c ++ d ++ e)).fld 0 5 = e := by
  rw [fld_mkWord _ _ _ 0 5 (by decide)]
  show BitVec.extractLsb' 0 5 (a ++ b ++ c ++ d ++ e) = _
  simp (disch := decide) only [BitVec.extractLsb'_append_eq_of_add_le, BitVec.extractLsb'_eq_self]

theorem field_of_9_3_2_3_5_10 (u : BitVec 3) (h : Hdr) (a : BitVec 9) (b : BitVec 3) (c : BitVec 2) (d : BitVec 3) (e : BitVec 5) : (mkWord u h (a ++ b ++ c ++ d ++ e)).fld 10 3 = b := by
  rw [fld_mkWord _ _ _ 10 3 (by decide)]
  show BitVec.extractLsb' 10 3 (a ++ b ++ c ++ d ++ e) = _
  simp (disch := decide) only [BitVec.extractLsb'_append_eq_of_le, BitVec.extractLsb'_append_eq_of_add_le,
    BitVec.extractLsb'_eq_self, Nat.reduceSub]

theorem field_of_9_3_2_3_5_5 (u : BitVec 3) (h : Hdr) (a : BitVec 9) (b : BitVec 3) (c : BitVec 2) (d : BitVec 3) (e : BitVec 5) : (mkWord u h (a ++ b ++ c ++ d ++ e)).fld 5 3 = d := by
  rw [fld_mkWord _ _ _ 5 3 (by decide)]
  show BitVec.extractLsb' 5 3 (a ++ b ++ c ++ d ++ e) = _
  simp (disch := decide) only [BitVec.extractLsb'_append_eq_of_le, BitVec.extractLsb'_append_eq_of_add_le,
    BitVec.extractLsb'_eq_self, Nat.reduceSub]

theorem field_of_7_5_2_3_5_10 (u : BitVec 3) (h : Hdr) (a : BitVec 7) (b : BitVec 5) (c : BitVec 2) (d : BitVec 3) (e : BitVec 5) : (mkWord u h (a ++ b ++ c ++ d ++ e)).fld 10 5 = b := by
  rw [fld_mkWord _ _ _ 10 5 (by decide)]
  show BitVec.extractLsb' 10 5 (a ++ b ++ c ++ d ++ e) = _
  simp (disch := decide) only [BitVec.extractLsb'_append_eq_of_le, BitVec.extractLsb'_append_eq_of_add_le,
    BitVec.extractLsb'_eq_self, Nat.reduceSub]

theorem field_of_7_5_2_3_5_5 (u : BitVec 3) (h : Hdr) (a : BitVec 7) (b : BitVec 5) (c : BitVec 2) (d : BitVec 3) (e : BitVec 5) : (mkWord u h (a ++ b ++ c ++ d ++ e)).fld 5 3 = d := by
  rw [fld_mkWord _ _ _ 5 3 (by decide)]
  show BitVec.extractLsb' 5 3 (a ++ b ++ c ++ d ++ e) = _
  simp (disch := decide) only [BitVec.extractLsb'_append_eq_of_le, BitVec.extractLsb'_append_eq_of_add_le,
    BitVec.extractLsb'_eq_self, Nat.reduceSub]

theorem field_of_7_4_1_3_7_11 (u : BitVec 3) (h : Hdr) (a : BitVec 7) (b : BitVec 4) (c : BitVec 1) (d : BitVec 3) (e : BitVec 7) : (mkWord u h (a ++ b ++ c ++ d ++ e)).fld 11 4 = b := by
  rw [fld_mkWord _ _ _ 11 4 (by decide)]
  show BitVec.extractLsb' 11 4 (a ++ b ++ c ++ d ++ e) = _
  simp (disch := decide) only [BitVec.extractLsb'_append_eq_of_le, BitVec.extractLsb'_append_eq_of_add_le,
    BitVec.extractLsb'_eq_self, Nat.reduceSub]

theorem field_of_7_4_1_3_7_10 (u : BitVec 3) (h : Hdr) (a : BitVec 7) (b : BitVec 4) (c : BitVec 1) (d : BitVec 3) (e : BitVec 7) : (mkWord u h (a ++ b ++ c ++ d ++ e)).fld 10 1 = c := by
  rw [fld_mkWord _ _ _ 10 1 (by decide)]
  show BitVec.extractLsb' 10 1 (a ++ b ++ c ++ d ++ e) = _
  simp (disch := decide) only [BitVec.extractLsb'_append_eq_of_le, BitVec.extractLsb'_append_eq_of_add_le,
    BitVec.extractLsb'_eq_self, Nat.reduceSub]

theorem field_of_7_4_1_3_7_0 (u : BitVec 3) (h : Hdr) (a : BitVec 7) (b : BitVec 4) (c : BitVec 1) (d : BitVec 3) (e : BitVec 7) : (mkWord u h (a ++ b ++ c ++ d ++ e)).fld 0 7 = e := by
  rw [fld_mkWord _ _ _ 0 7 (by decide)]
  show BitVec.extractLsb' 0 7 (a ++ b ++ c ++ d ++ e) = _
  simp (disch := decide) only [BitVec.extractLsb'_append_eq_of_add_le, BitVec.extractLsb'_eq_self]

theorem field_of_7_3_4_4_1_1_1_1_12 (u : BitVec 3) (h : Hdr) (a : BitVec 7) (b : BitVec 3) (c : BitVec 4) (d : BitVec 4) (e : BitVec 1) (f : BitVec 1) (g : BitVec 1) (i : BitVec 1) : (mkWord u h (a ++ b ++ c ++ d ++ e ++ f ++ g ++ i)).fld 12 3 = b := by
  rw [fld_mkWord _ _ _ 12 3 (by decide)]
  show BitVec.extractLsb' 12 3 (a ++ b ++ c ++ d ++ e ++ f ++ g ++ i) = _
  simp (disch := decide) only [BitVec.extractLsb'_append_eq_of_le, BitVec.extractLsb'_append_eq_of_add_le,
    BitVec.extractLsb'_eq_self, Nat.reduceSub]

theorem field_of_7_3_4_4_1_1_1_1_8 (u : BitVec 3) (h : Hdr) (a : BitVec 7) (b : BitVec 3) (c : BitVec 4) (d : BitVec 4) (e : BitVec 1) (f : BitVec 1) (g : BitVec 1) (i : BitVec 1) : (mkWord u h (a ++ b ++ c ++ d ++ e ++ f ++ g ++ i)).fld 8 4 = c := by
  rw [fld_mkWord _ _ _ 8 4 (by decide)]
  show BitVec.extractLsb' 8 4 (a ++ b ++ c ++ d ++ e ++ f ++ g ++ i) = _
  simp (disch := decide) only [BitVec.extractLsb'_append_eq_of_le, BitVec.extractLsb'_append_eq_of_add_le,
    BitVec.extractLsb'_eq_self, Nat.reduceSub]

theorem field_of_7_3_4_4_1_1_1_1_4 (u : BitVec 3) (h : Hdr) (a : BitVec 7) (b : BitVec 3) (c : BitVec 4) (d : BitVec 4) (e : BitVec 1) (f : BitVec 1) (g : BitVec 1) (i : BitVec 1) : (mkWord u h (a ++ b ++ c ++ d ++ e ++ f ++ g ++ i)).fld 4 4 = d := by
  rw [fld_mkWord _ _ _ 4 4 (by decide)]
  show BitVec.extractLsb' 4 4 (a ++ b ++ c ++ d ++ e ++ f ++ g ++ i) = _
  simp (disch := decide) only [BitVec.extractLsb'_append_eq_of_le, BitVec.extractLsb'_append_eq_of_add_le,
    BitVec.extractLsb'_eq_self, Nat.reduceSub]

theorem field_of_7_3_4_4_1_1_1_1_3 (u : BitVec 3) (h : Hdr) (a : BitVec 7) (b : BitVec 3) (c : BitVec 4) (d : BitVec 4) (e : BitVec 1) (f : BitVec 1) (g : BitVec 1) (i : BitVec 1) : (mkWord u h (a ++ b ++ c ++ d ++ e ++ f ++ g ++ i)).fld 3 1 = e := by
  rw [fld_mkWord _ _ _ 3 1 (by decide)]
  show BitVec.extractLsb' 3 1 (a ++ b ++ c ++ d ++ e ++ f ++ g ++ i) = _
  simp (disch := decide) only [BitVec.extractLsb'_append_eq_of_le, BitVec.extractLsb'_append_eq_of_add_le,
    BitVec.extractLsb'_eq_self, Nat.reduceSub]

theorem field_of_7_3_4_4_1_1_1_1_2 (u : BitVec 3) (h : Hdr) (a : BitVec 7) (b : BitVec 3) (c : BitVec 4) (d : BitVec 4) (e : BitVec 1) (f : BitVec 1) (g : BitVec 1) (i : BitVec 1) : (mkWord u h (a ++ b ++ c ++ d ++ e ++ f ++ g ++ i)).fld 2 1 = f := by
  rw [fld_mkWord _ _ _ 2 1 (by decide)]
  show BitVec.extractLsb' 2 1 (a ++ b ++ c ++ d ++ e ++ f ++ g ++ i) = _
  simp (disch := decide) only [BitVec.extractLsb'_append_eq_of_le, BitVec.extractLsb'_append_eq_of_add_le,
    BitVec.extractLsb'_eq_self, Nat.reduceSub]

theorem field_of_7_3_4_4_1_1_1_1_0 (u : BitVec 3) (h : Hdr) (a : BitVec 7) (b : BitVec 3) (c : BitVec 4) (d : BitVec 4) (e : BitVec 1) (f : BitVec 1) (g : BitVec 1) (i : BitVec 1) : (mkWord u h (a ++ b ++ c ++ d ++ e ++ f ++ g ++ i)).fld 0 1 = i := by
  rw [fld_mkWord _ _ _ 0 1 (by decide)]
  show BitVec.extractLsb' 0 1 (a ++ b ++ c ++ d ++ e ++ f ++ g ++ i) = _
  simp (disch := decide) only [BitVec.extractLsb'_append_eq_of_add_le, BitVec.extractLsb'_eq_self]

theorem field_of_7_3_12_12 (u : BitVec 3) (h : Hdr) (a : BitVec 7) (b : BitVec 3) (c : BitVec 12) : (mkWord u h (a ++ b ++ c)).fld 12 3 = b := by
  rw [fld_mkWord _ _ _ 12 3 (by decide)]
  show BitVec.extractLsb' 12 3 (a ++ b ++ c) = _
  simp (disch := decide) only [BitVec.extractLsb'_append_eq_of_le, BitVec.extractLsb'_append_eq_of_add_le,
    BitVec.extractLsb'_eq_self, Nat.reduceSub]

theorem field_of_7_3_4_7_1_12 (u : BitVec 3) (h : Hdr) (a : BitVec 7) (b : BitVec 3) (c : BitVec 4) (d : BitVec 7) (e : BitVec 1) : (mkWord u h (a ++ b ++ c ++ d ++ e)).fld 12 3 = b := by
  rw [fld_mkWord _ _ _ 12 3 (by decide)]
  show BitVec.extractLsb' 12 3 (a ++ b ++ c ++ d ++ e) = _
  simp (disch := decide) only [BitVec.extractLsb'_append_eq_of_le, BitVec.extractLsb'_append_eq_of_add_le,
    BitVec.extractLsb'_eq_self, Nat.reduceSub]

theorem field_of_7_3_4_7_1_8 (u : BitVec 3) (h : Hdr) (a : BitVec 7) (b : BitVec 3) (c : BitVec 4) (d : BitVec 7) (e : BitVec 1) : (mkWord u h (a ++ b ++ c ++ d ++ e)).fld 8 4 = c := by
  rw [fld_mkWord _ _ _ 8 4 (by decide)]
  show BitVec.extractLsb' 8 4 (a ++ b ++ c ++ d ++ e) = _
  simp (disch := decide) only [BitVec.extractLsb'_append_eq_of_le, BitVec.extractLsb'_append_eq_of_add_le,
    BitVec.extractLsb'_eq_self, Nat.reduceSub]

theorem field_of_7_3_4_7_1_0 (u : BitVec 3) (h : Hdr) (a : BitVec 7) (b : BitVec 3) (c : BitVec 4) (d : BitVec 7) (e : BitVec 1) : (mkWord u h (a ++ b ++ c ++ d ++ e)).fld 0 1 = e := by
  rw [fld_mkWord _ _ _ 0 1 (by decide)]
  show BitVec.extractLsb' 0 1 (a ++ b ++ c ++ d ++ e) = _
  simp (disch := decide) only [BitVec.extractLsb'_append_eq_of_add_le, BitVec.extractLsb'_eq_self]

theorem field_of_7_3_4_8_12 (u : BitVec 3) (h : Hdr) (a : BitVec 7) (b : BitVec 3) (c : BitVec 4) (d : BitVec 8) : (mkWord u h (a ++ b ++ c ++ d)).fld 12 3 = b := by
  rw [fld_mkWord _ _ _ 12 3 (by decide)]
  show BitVec.extractLsb' 12 3 (a ++ b ++ c ++ d) = _
  simp (disch := decide) only [BitVec.extractLsb'_append_eq_of_le, BitVec.extractLsb'_append_eq_of_add_le,
    BitVec.extractLsb'_eq_self, Nat.reduceSub]

theorem field_of_7_3_4_8_8 (u : BitVec 3) (h : Hdr) (a : BitVec 7) (b : BitVec 3) (c : BitVec 4) (d : BitVec 8) : (mkWord u h (a ++ b ++ c ++ d)).fld 8 4 = c := by
  rw [fld_mkWord _ _ _ 8 4 (by decide)]
  show BitVec.extractLsb' 8 4 (a ++ b ++ c ++ d) = _
  simp (disch := decide) only [BitVec.extractLsb'_append_eq_of_le, BitVec.extractLsb'_append_eq_of_add_le,
    BitVec.extractLsb'_eq_self, Nat.reduceSub]

theorem field_of_8_1_3_5_5_13 (u : BitVec 3) (h : Hdr) (a : BitVec 8) (b : BitVec 1) (c : BitVec 3) (d : BitVec 5) (e : BitVec 5) : (mkWord u h (a ++ b ++ c ++ d ++ e)).fld 13 1 = b := by
  rw [fld_mkWord _ _ _ 13 1 (by decide)]
  show BitVec.extractLsb' 13 1 (a ++ b ++ c ++ d ++ e) = _
  simp (disch := decide) only [BitVec.extractLsb'_append_eq_of_le, BitVec.extractLsb'_append_eq_of_add_le,
    BitVec.extractLsb'_eq_self, Nat.reduceSub]

theorem field_of_8_1_3_5_5_10 (u : BitVec 3) (h : Hdr) (a : BitVec 8) (b : BitVec 1) (c : BitVec 3) (d : BitVec 5) (e : BitVec 5) : (mkWord u h (a ++ b ++ c ++ d ++ e)).fld 10 3 = c := by
  rw [fld_mkWord _ _ _ 10 3 (by decide)]
  show BitVec.extractLsb' 10 3 (a ++ b ++ c ++ d ++ e) = _
  simp (disch := decide) only [BitVec.extractLsb'_append_eq_of_le, BitVec.extractLsb'_append_eq_of_add_le,
    BitVec.extractLsb'_eq_self, Nat.reduceSub]

theorem field_of_8_1_3_5_5_5 (u : BitVec 3) (h : Hdr) (a : BitVec 8) (b : BitVec 1) (c : BitVec 3) (d : BitVec 5) (e : BitVec 5) : (mkWord u h (a ++ b ++ c ++ d ++ e)).fld 5 5 = d := by
  rw [fld_mkWord _ _ _ 5 5 (by decide)]
  show BitVec.extractLsb' 5 5 (a ++ b ++ c ++ d ++ e) = _
  simp (disch := decide) only [BitVec.extractLsb'_append_eq_of_le, BitVec.extractLsb'_append_eq_of_add_le,
    BitVec.extractLsb'_eq_self, Nat.reduceSub]

theorem field_of_8_1_3_5_5_0 (u : BitVec 3) (h : Hdr) (a : BitVec 8) (b : BitVec 1) (c : BitVec 3) (d : BitVec 5) (e : BitVec 5) : (mkWord u h (a ++ b ++ c ++ d ++ e)).fld 0 5 = e := by
  rw [fld_mkWord _ _ _ 0 5 (by decide)]
  show BitVec.extractLsb' 0 5 (a ++ b ++ c ++ d ++ e) = _
  simp (disch := decide) only [BitVec.extractLsb'_append_eq_of_add_le, BitVec.extractLsb'_eq_self]

theorem field_of_7_5_3_2_5_10 (u : BitVec 3) (h : Hdr) (a : BitVec 7) (b : BitVec 5) (c : BitVec 3) (d : BitVec 2) (e : BitVec 5) : (mkWord u h (a ++ b ++ c ++ d ++ e)).fld 10 5 = b := by
  rw [fld_mkWord _ _ _ 10 5 (by decide)]
  show BitVec.extractLsb' 10 5 (a ++ b ++ c ++ d ++ e) = _
  simp (disch := decide) only [BitVec.extractLsb'_append_eq_of_le, BitVec.extractLsb'_append_eq_of_add_le,
    BitVec.extractLsb'_eq_self, Nat.reduceSub]

theorem field_of_7_5_3_2_5_5 (u : BitVec 3) (h : Hdr) (a : BitVec 7) (b : BitVec 5) (c : BitVec 3) (d : BitVec 2) (e : BitVec 5) : (mkWord u h (a ++ b ++ c ++ d ++ e)).fld 5 2 = d := by
  rw [fld_mkWord _ _ _ 5 2 (by decide)]
  show BitVec.extractLsb' 5 2 (a ++ b ++ c ++ d ++ e) = _
  simp (disch := decide) only [BitVec.extractLsb'_append_eq_of_le, BitVec.extractLsb'_append_eq_of_add_le,
    BitVec.extractLsb'_eq_self, Nat.reduceSub]

theorem field_of_10_2_10_10 (u : BitVec 3) (h : Hdr) (a : BitVec 10) (b : BitVec 2) (c : BitVec 10) : (mkWord u h (a ++ b ++ c)).fld 10 2 = b := by
  rw [fld_mkWord _ _ _ 10 2 (by decide)]
  show BitVec.extractLsb' 10 2 (a ++ b ++ c) = _
  simp (disch := decide) only [BitVec.extractLsb'_append_eq_of_le, BitVec.extractLsb'_append_eq_of_add_le,
    BitVec.extractLsb'_eq_self, Nat.reduceSub]

theorem field_of_7_5_3_2_5_0 (u : BitVec 3) (h : Hdr) (a : BitVec 7) (b : BitVec 5) (c : BitVec 3) (d : BitVec 2) (e : BitVec 5) : (mkWord u h (a ++ b ++ c ++ d ++ e)).fld 0 5 = e := by
  rw [fld_mkWord _ _ _ 0 5 (by decide)]
  show BitVec.extractLsb' 0 5 (a ++ b ++ c ++ d ++ e) = _
  simp (disch := decide) only [BitVec.extractLsb'_append_eq_of_add_le, BitVec.extractLsb'_eq_self]

theorem unused_0 (u : BitVec 3) (h : Hdr)  : mkWord u h (0x0#22) &&& 0x7fff#32 = 0#32 :=
  mask_mkWord u h _ 0x7fff#22 (by decide)

theorem unused_1 (u : BitVec 3) (h : Hdr) (a : BitVec 7) (b : BitVec 5) (c : BitVec 5) (d : BitVec 5) : mkWord u h (a ++ b ++ c ++ d) &&& 0#32 = 0#32 := BitVec.and_zero

theorem unused_2 (u : BitVec 3) (h : Hdr) (a : BitVec 7) (b : BitVec 5) (c : BitVec 5) : mkWord u h (a ++ b ++ c ++ 0x0#5) &&& 0x1f#32 = 0#32 := by
  refine mask_mkWord u h _ 0x1f#22 ?_
  show (a ++ b ++ c ++ 0x0#5) &&& (0x0#7 ++ 0x0#5 ++ 0x0#5 ++ 0x1F#5) = 0#22
  simp only [BitVec.and_append, BitVec.and_zero]
  rfl

theorem unused_3 (u : BitVec 3) (h : Hdr) (a : BitVec 7) (b : BitVec 5) (c : BitVec 10) : mkWord u h (a ++ b ++ c) &&& 0#32 = 0#32 := BitVec.and_zero

theorem unused_4 (u : BitVec 3) (h : Hdr) (a : BitVec 7) (b : BitVec 5) : mkWord u h (a ++ b ++ 0x0#10) &&& 0x3ff#32 = 0#32 := by
  refine mask_mkWord u h _ 0x3ff#22 ?_
  show (a ++ b ++ 0x0#10) &&& (0x0#7 ++ 0x0#5 ++ 0x3FF#10) = 0#22
  simp only [BitVec.and_append, BitVec.and_zero]
  rfl

theorem unused_5 (u : BitVec 3) (h : Hdr) (a : BitVec 7) (b : BitVec 5) (c : BitVec 5) (e : BitVec 3) : mkWord u h (a ++ b ++ c ++ 0x0#2 ++ e) &&& 0x18#32 = 0#32 := by
  refine mask_mkWord u h _ 0x18#22 ?_
  show (a ++ b ++ c ++ 0x0#2 ++ e) &&& (0x0#7 ++ 0x0#5 ++ 0x0#5 ++ 0x3#2 ++ 0x0#3) = 0#22
  simp only [BitVec.and_append, BitVec.and_zero]
  rfl

theorem unused_6 (u : BitVec 3) (h : Hdr) (b : BitVec 3) (c : BitVec 5) (d : BitVec 5) : mkWord u h (0x8C#9 ++ b ++ c ++ d) &&& 0x6000#32 = 0#32 := by
  refine mask_mkWord u h _ 0x6000#22 ?_
  show (0x8C#9 ++ b ++ c ++ d) &&& (0x3#9 ++ 0x0#3 ++ 0x0#5 ++ 0x0#5) = 0#22
  simp only [BitVec.and_append, BitVec.and_zero]
  rfl

theorem unused_7 (u : BitVec 3) (h : Hdr) (b : BitVec 3) (c : BitVec 5) (d : BitVec 5) : mkWord u h (0x90#9 ++ b ++ c ++ d) &&& 0x6000#32 = 0#32 := by
  refine mask_mkWord u h _ 0x6000#22 ?_
  show (0x90#9 ++ b ++ c ++ d) &&& (0x3#9 ++ 0x0#3 ++ 0x0#5 ++ 0x0#5) = 0#22
  simp only [BitVec.and_append, BitVec.and_zero]
  rfl

theorem unused_8 (u : BitVec 3) (h : Hdr) (b : BitVec 3) (c : BitVec 5) (d : BitVec 5) : mkWord u h (0x94#9 ++ b ++ c ++ d) &&& 0x6000#32 = 0#32 := by
  refine mask_mkWord u h _ 0x6000#22 ?_
  show (0x94#9 ++ b ++ c ++ d) &&& (0x3#9 ++ 0x0#3 ++ 0x0#5 ++ 0x0#5) = 0#22
  simp only [BitVec.and_append, BitVec.and_zero]
  rfl

theorem unused_9 (u : BitVec 3) (h : Hdr) (b : BitVec 3) (c : BitVec 5) (d : BitVec 5) : mkWord u h (0x98#9 ++ b ++ c ++ d) &&& 0x6000#32 = 0#32 := by
  refine mask_mkWord u h _ 0x6000#22 ?_
  show (0x98#9 ++ b ++ c ++ d) &&& (0x3#9 ++ 0x0#3 ++ 0x0#5 ++ 0x0#5) = 0#22
  simp only [BitVec.and_append, BitVec.and_zero]
  rfl

theorem unused_10 (u : BitVec 3) (h : Hdr) (b : BitVec 3) (c : BitVec 5) (d : BitVec 5) : mkWord u h (0x9C#9 ++ b ++ c ++ d) &&& 0x6000#32 = 0#32 := by
  refine mask_mkWord u h _ 0x6000#22 ?_
  show (0x9C#9 ++ b ++ c ++ d) &&& (0x3#9 ++ 0x0#3 ++ 0x0#5 ++ 0x0#5) = 0#22
  simp only [BitVec.and_append, BitVec.and_zero]
  rfl

theorem unused_11 (u : BitVec 3) (h : Hdr) (b : BitVec 3) (c : BitVec 5) (d : BitVec 5) : mkWord u h (0xA0#9 ++ b ++ c ++ d) &&& 0x6000#32 = 0#32 := by
  refine mask_mkWord u h _ 0x6000#22 ?_
  show (0xA0#9 ++ b ++ c ++ d) &&& (0x3#9 ++ 0x0#3 ++ 0x0#5 ++ 0x0#5) = 0#22
  simp only [BitVec.and_append, BitVec.and_zero]
  rfl

theorem unused_12 (u : BitVec 3) (h : Hdr) (b : BitVec 3) (d : BitVec 3) (f : BitVec 3) : mkWord u h (0xA8#9 ++ b ++ 0x0#2 ++ d ++ 0x0#2 ++ f) &&& 0x6318#32 = 0#32 := by
  refine mask_mkWord u h _ 0x6318#22 ?_
  show (0xA8#9 ++ b ++ 0x0#2 ++ d ++ 0x0#2 ++ f) &&& (0x3#9 ++ 0x0#3 ++ 0x3#2 ++ 0x0#3 ++ 0x3#2 ++ 0x0#3) = 0#22
  simp only [BitVec.and_append, BitVec.and_zero]
  rfl

theorem unused_13 (u : BitVec 3) (h : Hdr) (b : BitVec 3) (d : BitVec 3) (f : BitVec 3) : mkWord u h (0xAC#9 ++ b ++ 0x0#2 ++ d ++ 0x0#2 ++ f) &&& 0x6318#32 = 0#32 := by
  refine mask_mkWord u h _ 0x6318#22 ?_
  show (0xAC#9 ++ b ++ 0x0#2 ++ d ++ 0x0#2 ++ f) &&& (0x3#9 ++ 0x0#3 ++ 0x3#2 ++ 0x0#3 ++ 0x3#2 ++ 0x0#3) = 0#22
  simp only [BitVec.and_append, BitVec.and_zero]
  rfl

theorem unused_14 (u : BitVec 3) (h : Hdr) (b : BitVec 3) (d : BitVec 3) (f : BitVec 3) : mkWord u h (0xB0#9 ++ b ++ 0x0#2 ++ d ++ 0x0#2 ++ f) &&& 0x6318#32 = 0#32 := by
  refine mask_mkWord u h _ 0x6318#22 ?_
  show (0xB0#9 ++ b ++ 0x0#2 ++ d ++ 0x0#2 ++ f) &&& (0x3#9 ++ 0x0#3 ++ 0x3#2 ++ 0x0#3 ++ 0x3#2 ++ 0x0#3) = 0#22
  simp only [BitVec.and_append, BitVec.and_zero]
  rfl

theorem unused_15 (u : BitVec 3) (h : Hdr) (a : BitVec 7) (b : BitVec 3) (c : BitVec 1) (d : BitVec 11) : mkWord u h (a ++ b ++ c ++ d) &&& 0#32 = 0#32 := BitVec.and_zero

theorem unused_16 (u : BitVec 3) (h : Hdr) (b : BitVec 11) : mkWord u h (0x310#11 ++ b) &&& 0x7800#32 = 0#32 := by
  refine mask_mkWord u h _ 0x7800#22 ?_
  show (0x310#11 ++ b) &&& (0xF#11 ++ 0x0#11) = 0#22
  simp only [BitVec.and_append, BitVec.and_zero]
  rfl

theorem unused_17 (u : BitVec 3) (h : Hdr) (b : BitVec 5) : mkWord u h (0x640#12 ++ b ++ 0x0#5) &&& 0x7c1f#32 = 0#32 := by
  refine mask_mkWord u h _ 0x7c1f#22 ?_
  show (0x640#12 ++ b ++ 0x0#5) &&& (0x1F#12 ++ 0x0#5 ++ 0x1F#5) = 0#22
  simp only [BitVec.and_append, BitVec.and_zero]
  rfl

theorem unused_18 (u : BitVec 3) (h : Hdr) (b : BitVec 11) : mkWord u h (0x330#11 ++ b) &&& 0x7800#32 = 0#32 := by
  refine mask_mkWord u h _ 0x7800#22 ?_
  show (0x330#11 ++ b) &&& (0xF#11 ++ 0x0#11) = 0#22
  simp only [BitVec.and_append, BitVec.and_zero]
  rfl

theorem unused_19 (u : BitVec 3) (h : Hdr)  : mkWord u h (0x1A0000#22) &&& 0x7fff#32 = 0#32 :=
  mask_mkWord u h _ 0x7fff#22 (by decide)

theorem unused_20 (u : BitVec 3) (h : Hdr) (a : BitVec 7) (b : BitVec 5) (c : BitVec 3) (d : BitVec 7) : mkWord u h (a ++ b ++ c ++ d) &&& 0#32 = 0#32 := BitVec.and_zero

theorem unused_21 (u : BitVec 3) (h : Hdr) (a : BitVec 7) (b : BitVec 3) (c : BitVec 1) : mkWord u h (a ++ b ++ c ++ 0x0#11) &&& 0x7ff#32 = 0#32 := by
  refine mask_mkWord u h _ 0x7ff#22 ?_
  show (a ++ b ++ c ++ 0x0#11) &&& (0x0#7 ++ 0x0#3 ++ 0x0#1 ++ 0x7FF#11) = 0#22
  simp only [BitVec.and_append, BitVec.and_zero]
  rfl

theorem unused_22 (u : BitVec 3) (h : Hdr)  : mkWord u h (0x1C8000#22) &&& 0x7fff#32 = 0#32 :=
  mask_mkWord u h _ 0x7fff#22 (by decide)

theorem unused_23 (u : BitVec 3) (h : Hdr)  : mkWord u h (0x1D0000#22) &&& 0x7fff#32 = 0#32 :=
  mask_mkWord u h _ 0x7fff#22 (by decide)

theorem unused_24 (u : BitVec 3) (h : Hdr) (b : BitVec 5) : mkWord u h (0x10000#17 ++ b) &&& 0x7fe0#32 = 0#32 := by
  refine mask_mkWord u h _ 0x7fe0#22 ?_
  show (0x10000#17 ++ b) &&& (0x3FF#17 ++ 0x0#5) = 0#22
  simp only [BitVec.and_append, BitVec.and_zero]
  rfl

theorem unused_25 (u : BitVec 3) (h : Hdr) (b : BitVec 5) : mkWord u h (0x10400#17 ++ b) &&& 0x7fe0#32 = 0#32 := by
  refine mask_mkWord u h _ 0x7fe0#22 ?_
  show (0x10400#17 ++ b) &&& (0x3FF#17 ++ 0x0#5) = 0#22
  simp only [BitVec.and_append, BitVec.and_zero]
  rfl

theorem unused_26 (u : BitVec 3) (h : Hdr) (b : BitVec 4) : mkWord u h (0x21800#18 ++ b) &&& 0x7ff0#32 = 0#32 := by
  refine mask_mkWord u h _ 0x7ff0#22 ?_
  show (0x21800#18 ++ b) &&& (0x7FF#18 ++ 0x0#4) = 0#22
  simp only [BitVec.and_append, BitVec.and_zero]
  rfl

theorem unused_27 (u : BitVec 3) (h : Hdr) (b : BitVec 2) (c : BitVec 2) : mkWord u h (0x22000#18 ++ b ++ c) &&& 0x7ff0#32 = 0#32 := by
  refine mask_mkWord u h _ 0x7ff0#22 ?_
  show (0x22000#18 ++ b ++ c) &&& (0x7FF#18 ++ 0x0#2 ++ 0x0#2) = 0#22
  simp only [BitVec.and_append, BitVec.and_zero]
  rfl

theorem unused_28 (u : BitVec 3) (h : Hdr) (b : BitVec 2) : mkWord u h (0x94000#20 ++ b) &&& 0x7ffc#32 = 0#32 := by
  refine mask_mkWord u h _ 0x7ffc#22 ?_
  show (0x94000#20 ++ b) &&& (0x1FFF#20 ++ 0x0#2) = 0#22
  simp only [BitVec.and_append, BitVec.and_zero]
  rfl

theorem unused_29 (u : BitVec 3) (h : Hdr) (b : BitVec 5) (c : BitVec 5) : mkWord u h (0x960#12 ++ b ++ c) &&& 0x7c00#32 = 0#32 := by
  refine mask_mkWord u h _ 0x7c00#22 ?_
  show (0x960#12 ++ b ++ c) &&& (0x1F#12 ++ 0x0#5 ++ 0x0#5) = 0#22
  simp only [BitVec.and_append, BitVec.and_zero]
  rfl

theorem unused_30 (u : BitVec 3) (h : Hdr) (b : BitVec 2) (c : BitVec 5) (d : BitVec 5) : mkWord u h (0x260#10 ++ b ++ c ++ d) &&& 0x7000#32 = 0#32 := by
  refine mask_mkWord u h _ 0x7000#22 ?_
  show (0x260#10 ++ b ++ c ++ d) &&& (0x7#10 ++ 0x0#2 ++ 0x0#5 ++ 0x0#5) = 0#22
  simp only [BitVec.and_append, BitVec.and_zero]
  rfl

theorem unused_31 (u : BitVec 3) (h : Hdr) (b : BitVec 10) : mkWord u h (0x9A0#12 ++ b) &&& 0x7c00#32 = 0#32 := by
  refine mask_mkWord u h _ 0x7c00#22 ?_
  show (0x9A0#12 ++ b) &&& (0x1F#12 ++ 0x0#10) = 0#22
  simp only [BitVec.and_append, BitVec.and_zero]
  rfl

theorem unused_32 (u : BitVec 3) (h : Hdr) (b : BitVec 3) (c : BitVec 10) : mkWord u h (0x138#9 ++ b ++ c) &&& 0x6000#32 = 0#32 := by
  refine mask_mkWord u h _ 0x6000#22 ?_
  show (0x138#9 ++ b ++ c) &&& (0x3#9 ++ 0x0#3 ++ 0x0#10) = 0#22
  simp only [BitVec.and_append, BitVec.and_zero]
  rfl

theorem unused_33 (u : BitVec 3) (h : Hdr) (b : BitVec 10) : mkWord u h (0x9E0#12 ++ b) &&& 0x7c00#32 = 0#32 := by
  refine mask_mkWord u h _ 0x7c00#22 ?_
  show (0x9E0#12 ++ b) &&& (0x1F#12 ++ 0x0#10) = 0#22
  simp only [BitVec.and_append, BitVec.and_zero]
  rfl

theorem unused_34 (u : BitVec 3) (h : Hdr)  : mkWord u h (0x280000#22) &&& 0x7fff#32 = 0#32 :=
  mask_mkWord u h _ 0x7fff#22 (by decide)

theorem unused_35 (u : BitVec 3) (h : Hdr) (b : BitVec 2) (c : BitVec 5) (d : BitVec 5) : mkWord u h (0x80#10 ++ b ++ c ++ d) &&& 0x7000#32 = 0#32 := by
  refine mask_mkWord u h _ 0x7000#22 ?_
  show (0x80#10 ++ b ++ c ++ d) &&& (0x7#10 ++ 0x0#2 ++ 0x0#5 ++ 0x0#5) = 0#22
  simp only [BitVec.and_append, BitVec.and_zero]
  rfl

theorem unused_36 (u : BitVec 3) (h : Hdr) (a : BitVec 7) (b : BitVec 3) (c : BitVec 2) (d : BitVec 5) (e : BitVec 5) : mkWord u h (a ++ b ++ c ++ d ++ e) &&& 0#32 = 0#32 := BitVec.and_zero

theorem unused_37 (u : BitVec 3) (h : Hdr) (b : BitVec 2) (c : BitVec 5) (d : BitVec 5) : mkWord u h (0x98#10 ++ b ++ c ++ d) &&& 0x7000#32 = 0#32 := by
  refine mask_mkWord u h _ 0x7000#22 ?_
  show (0x98#10 ++ b ++ c ++ d) &&& (0x7#10 ++ 0x0#2 ++ 0x0#5 ++ 0x0#5) = 0#22
  simp only [BitVec.and_append, BitVec.and_zero]
  rfl

theorem unused_38 (u : BitVec 3) (h : Hdr) (b : BitVec 2) (c : BitVec 5) (d : BitVec 5) : mkWord u h (0xC0#10 ++ b ++ c ++ d) &&& 0x7000#32 = 0#32 := by
  refine mask_mkWord u h _ 0x7000#22 ?_
  show (0xC0#10 ++ b ++ c ++ d) &&& (0x7#10 ++ 0x0#2 ++ 0x0#5 ++ 0x0#5) = 0#22
  simp only [BitVec.and_append, BitVec.and_zero]
  rfl

theorem unused_39 (u : BitVec 3) (h : Hdr) (a : BitVec 5) (b : BitVec 2) (c : BitVec 3) (d : BitVec 2) (e : BitVec 5) (f : BitVec 1) (g : BitVec 1) (i : BitVec 3) : mkWord u h (a ++ b ++ c ++ d ++ e ++ f ++ g ++ i) &&& 0#32 = 0#32 := BitVec.and_zero

theorem unused_40 (u : BitVec 3) (h : Hdr) (b : BitVec 1) (c : BitVec 5) (d : BitVec 5) : mkWord u h (0x200#11 ++ b ++ c ++ d) &&& 0x7800#32 = 0#32 := by
  refine mask_mkWord u h _ 0x7800#22 ?_
  show (0x200#11 ++ b ++ c ++ d) &&& (0xF#11 ++ 0x0#1 ++ 0x0#5 ++ 0x0#5) = 0#22
  simp only [BitVec.and_append, BitVec.and_zero]
  rfl

theorem unused_41 (u : BitVec 3) (h : Hdr) (b : BitVec 1) (c : BitVec 5) (d : BitVec 5) : mkWord u h (0x210#11 ++ b ++ c ++ d) &&& 0x7800#32 = 0#32 := by
  refine mask_mkWord u h _ 0x7800#22 ?_
  show (0x210#11 ++ b ++ c ++ d) &&& (0xF#11 ++ 0x0#1 ++ 0x0#5 ++ 0x0#5) = 0#22
  simp only [BitVec.and_append, BitVec.and_zero]
  rfl

theorem unused_42 (u : BitVec 3) (h : Hdr) (b : BitVec 2) (c : BitVec 5) : mkWord u h (0x110#10 ++ b ++ c ++ 0x0#5) &&& 0x701f#32 = 0#32 := by
  refine mask_mkWord u h _ 0x701f#22 ?_
  show (0x110#10 ++ b ++ c ++ 0x0#5) &&& (0x7#10 ++ 0x0#2 ++ 0x0#5 ++ 0x1F#5) = 0#22
  simp only [BitVec.and_append, BitVec.and_zero]
  rfl

theorem unused_43 (u : BitVec 3) (h : Hdr) (b : BitVec 1) (c : BitVec 5) (d : BitVec 5) : mkWord u h (0x230#11 ++ b ++ c ++ d) &&& 0x7800#32 = 0#32 := by
  refine mask_mkWord u h _ 0x7800#22 ?_
  show (0x230#11 ++ b ++ c ++ d) &&& (0xF#11 ++ 0x0#1 ++ 0x0#5 ++ 0x0#5) = 0#22
  simp only [BitVec.and_append, BitVec.and_zero]
  rfl

theorem unused_44 (u : BitVec 3) (h : Hdr) (a : BitVec 7) (b : BitVec 5) (d : BitVec 1) (e : BitVec 5) : mkWord u h (a ++ b ++ 0x0#4 ++ d ++ e) &&& 0x3c0#32 = 0#32 := by
  refine mask_mkWord u h _ 0x3c0#22 ?_
  show (a ++ b ++ 0x0#4 ++ d ++ e) &&& (0x0#7 ++ 0x0#5 ++ 0xF#4 ++ 0x0#1 ++ 0x0#5) = 0#22
  simp only [BitVec.and_append, BitVec.and_zero]
  rfl

theorem unused_45 (u : BitVec 3) (h : Hdr) (b : BitVec 2) (c : BitVec 5) (d : BitVec 5) : mkWord u h (0x140#10 ++ b ++ c ++ d) &&& 0x7000#32 = 0#32 := by
  refine mask_mkWord u h _ 0x7000#22 ?_
  show (0x140#10 ++ b ++ c ++ d) &&& (0x7#10 ++ 0x0#2 ++ 0x0#5 ++ 0x0#5) = 0#22
  simp only [BitVec.and_append, BitVec.and_zero]
  rfl

theorem unused_46 (u : BitVec 3) (h : Hdr) (b : BitVec 2) (c : BitVec 5) (d : BitVec 5) : mkWord u h (0x148#10 ++ b ++ c ++ d) &&& 0x7000#32 = 0#32 := by
  refine mask_mkWord u h _ 0x7000#22 ?_
  show (0x148#10 ++ b ++ c ++ d) &&& (0x7#10 ++ 0x0#2 ++ 0x0#5 ++ 0x0#5) = 0#22
  simp only [BitVec.and_append, BitVec.and_zero]
  rfl

theorem unused_47 (u : BitVec 3) (h : Hdr) (b : BitVec 5) (c : BitVec 5) : mkWord u h (0x580#12 ++ b ++ c) &&& 0x7c00#32 = 0#32 := by
  refine mask_mkWord u h _ 0x7c00#22 ?_
  show (0x580#12 ++ b ++ c) &&& (0x1F#12 ++ 0x0#5 ++ 0x0#5) = 0#22
  simp only [BitVec.and_append, BitVec.and_zero]
  rfl

theorem unused_48 (u : BitVec 3) (h : Hdr) (b : BitVec 2) (c : BitVec 5) (d : BitVec 5) : mkWord u h (0x180#10 ++ b ++ c ++ d) &&& 0x7000#32 = 0#32 := by
  refine mask_mkWord u h _ 0x7000#22 ?_
  show (0x180#10 ++ b ++ c ++ d) &&& (0x7#10 ++ 0x0#2 ++ 0x0#5 ++ 0x0#5) = 0#22
  simp only [BitVec.and_append, BitVec.and_zero]
  rfl

theorem unused_49 (u : BitVec 3) (h : Hdr) (b : BitVec 2) (c : BitVec 5) (d : BitVec 5) : mkWord u h (0x188#10 ++ b ++ c ++ d) &&& 0x7000#32 = 0#32 := by
  refine mask_mkWord u h _ 0x7000#22 ?_
  show (0x188#10 ++ b ++ c ++ d) &&& (0x7#10 ++ 0x0#2 ++ 0x0#5 ++ 0x0#5) = 0#22
  simp only [BitVec.and_append, BitVec.and_zero]
  rfl

theorem unused_50 (u : BitVec 3) (h : Hdr) (a : BitVec 7) (b : BitVec 3) (c : BitVec 1) (d : BitVec 2) (e : BitVec 2) (f : BitVec 4) (g : BitVec 3) : mkWord u h (a ++ b ++ c ++ d ++ e ++ f ++ g) &&& 0#32 = 0#32 := BitVec.and_zero

theorem unused_51 (u : BitVec 3) (h : Hdr) (b : BitVec 1) (c : BitVec 2) (d : BitVec 2) (e : BitVec 4) (f : BitVec 3) : mkWord u h (0x198#10 ++ b ++ c ++ d ++ e ++ f) &&& 0x7000#32 = 0#32 := by
  refine mask_mkWord u h _ 0x7000#22 ?_
  show (0x198#10 ++ b ++ c ++ d ++ e ++ f) &&& (0x7#10 ++ 0x0#1 ++ 0x0#2 ++ 0x0#2 ++ 0x0#4 ++ 0x0#3) = 0#22
  simp only [BitVec.and_append, BitVec.and_zero]
  rfl

theorem unused_52 (u : BitVec 3) (h : Hdr) (a : BitVec 5) (b : BitVec 2) (c : BitVec 5) (d : BitVec 5) (e : BitVec 5) : mkWord u h (a ++ b ++ c ++ d ++ e) &&& 0#32 = 0#32 := BitVec.and_zero

theorem unused_53 (u : BitVec 3) (h : Hdr) (a : BitVec 5) (b : BitVec 2) (c : BitVec 5) (d : BitVec 5) : mkWord u h (a ++ b ++ c ++ d ++ 0x0#5) &&& 0x1f#32 = 0#32 := by
  refine mask_mkWord u h _ 0x1f#22 ?_
  show (a ++ b ++ c ++ d ++ 0x0#5) &&& (0x0#5 ++ 0x0#2 ++ 0x0#5 ++ 0x0#5 ++ 0x1F#5) = 0#22
  simp only [BitVec.and_append, BitVec.and_zero]
  rfl

theorem unused_54 (u : BitVec 3) (h : Hdr) (b : BitVec 3) (c : BitVec 5) (d : BitVec 5) : mkWord u h (0xA4#9 ++ b ++ c ++ d) &&& 0x6000#32 = 0#32 := by
  refine mask_mkWord u h _ 0x6000#22 ?_
  show (0xA4#9 ++ b ++ c ++ d) &&& (0x3#9 ++ 0x0#3 ++ 0x0#5 ++ 0x0#5) = 0#22
  simp only [BitVec.and_append, BitVec.and_zero]
  rfl

theorem unused_55 (u : BitVec 3) (h : Hdr) (b : BitVec 3) (c : BitVec 5) (d : BitVec 5) : mkWord u h (0xA8#9 ++ b ++ c ++ d) &&& 0x6000#32 = 0#32 := by
  refine mask_mkWord u h _ 0x6000#22 ?_
  show (0xA8#9 ++ b ++ c ++ d) &&& (0x3#9 ++ 0x0#3 ++ 0x0#5 ++ 0x0#5) = 0#22
  simp only [BitVec.and_append, BitVec.and_zero]
  rfl

theorem unused_56 (u : BitVec 3) (h : Hdr) (b : BitVec 3) (c : BitVec 5) (d : BitVec 5) : mkWord u h (0x114#9 ++ b ++ c ++ d) &&& 0x6000#32 = 0#32 := by
  refine mask_mkWord u h _ 0x6000#22 ?_
  show (0x114#9 ++ b ++ c ++ d) &&& (0x3#9 ++ 0x0#3 ++ 0x0#5 ++ 0x0#5) = 0#22
  simp only [BitVec.and_append, BitVec.and_zero]
  rfl

theorem unused_57 (u : BitVec 3) (h : Hdr) (b : BitVec 3) (c : BitVec 5) (d : BitVec 5) : mkWord u h (0x118#9 ++ b ++ c ++ d) &&& 0x6000#32 = 0#32 := by
  refine mask_mkWord u h _ 0x6000#22 ?_
  show (0x118#9 ++ b ++ c ++ d) &&& (0x3#9 ++ 0x0#3 ++ 0x0#5 ++ 0x0#5) = 0#22
  simp only [BitVec.and_append, BitVec.and_zero]
  rfl

theorem unused_58 (u : BitVec 3) (h : Hdr) (b : BitVec 3) (c : BitVec 5) (d : BitVec 5) : mkWord u h (0x11C#9 ++ b ++ c ++ d) &&& 0x6000#32 = 0#32 := by
  refine mask_mkWord u h _ 0x6000#22 ?_
  show (0x11C#9 ++ b ++ c ++ d) &&& (0x3#9 ++ 0x0#3 ++ 0x0#5 ++ 0x0#5) = 0#22
  simp only [BitVec.and_append, BitVec.and_zero]
  rfl

theorem unused_59 (u : BitVec 3) (h : Hdr) (b : BitVec 3) (c : BitVec 5) (d : BitVec 5) : mkWord u h (0x128#9 ++ b ++ c ++ d) &&& 0x6000#32 = 0#32 := by
  refine mask_mkWord u h _ 0x6000#22 ?_
  show (0x128#9 ++ b ++ c ++ d) &&& (0x3#9 ++ 0x0#3 ++ 0x0#5 ++ 0x0#5) = 0#22
  simp only [BitVec.and_append, BitVec.and_zero]
  rfl

theorem unused_60 (u : BitVec 3) (h : Hdr)  : mkWord u h (0x2E8000#22) &&& 0x7fff#32 = 0#32 :=
  mask_mkWord u h _ 0x7fff#22 (by decide)

theorem unused_61 (u : BitVec 3) (h : Hdr) (b : BitVec 3) (d : BitVec 3) (f : BitVec 3) : mkWord u h (0x180#9 ++ b ++ 0x0#2 ++ d ++ 0x0#2 ++ f) &&& 0x6318#32 = 0#32 := by
  refine mask_mkWord u h _ 0x6318#22 ?_
  show (0x180#9 ++ b ++ 0x0#2 ++ d ++ 0x0#2 ++ f) &&& (0x3#9 ++ 0x0#3 ++ 0x3#2 ++ 0x0#3 ++ 0x3#2 ++ 0x0#3) = 0#22
  simp only [BitVec.and_append, BitVec.and_zero]
  rfl

theorem unused_62 (u : BitVec 3) (h : Hdr) (b : BitVec 3) (d : BitVec 3) (f : BitVec 3) : mkWord u h (0x184#9 ++ b ++ 0x0#2 ++ d ++ 0x0#2 ++ f) &&& 0x6318#32 = 0#32 := by
  refine mask_mkWord u h _ 0x6318#22 ?_
  show (0x184#9 ++ b ++ 0x0#2 ++ d ++ 0x0#2 ++ f) &&& (0x3#9 ++ 0x0#3 ++ 0x3#2 ++ 0x0#3 ++ 0x3#2 ++ 0x0#3) = 0#22
  simp only [BitVec.and_append, BitVec.and_zero]
  rfl

theorem unused_63 (u : BitVec 3) (h : Hdr) (b : BitVec 3) (d : BitVec 3) (f : BitVec 3) : mkWord u h (0x188#9 ++ b ++ 0x0#2 ++ d ++ 0x0#2 ++ f) &&& 0x6318#32 = 0#32 := by
  refine mask_mkWord u h _ 0x6318#22 ?_
  show (0x188#9 ++ b ++ 0x0#2 ++ d ++ 0x0#2 ++ f) &&& (0x3#9 ++ 0x0#3 ++ 0x3#2 ++ 0x0#3 ++ 0x3#2 ++ 0x0#3) = 0#22
  simp only [BitVec.and_append, BitVec.and_zero]
  rfl

theorem unused_64 (u : BitVec 3) (h : Hdr) (b : BitVec 3) (d : BitVec 3) : mkWord u h (0x18C#9 ++ b ++ 0x0#2 ++ d ++ 0x0#5) &&& 0x631f#32 = 0#32 := by
  refine mask_mkWord u h _ 0x631f#22 ?_
  show (0x18C#9 ++ b ++ 0x0#2 ++ d ++ 0x0#5) &&& (0x3#9 ++ 0x0#3 ++ 0x3#2 ++ 0x0#3 ++ 0x1F#5) = 0#22
  simp only [BitVec.and_append, BitVec.and_zero]
  rfl

theorem unused_65 (u : BitVec 3) (h : Hdr) (a : BitVec 7) (b : BitVec 5) (d : BitVec 3) : mkWord u h (a ++ b ++ 0x0#2 ++ d ++ 0x0#5) &&& 0x31f#32 = 0#32 := by
  refine mask_mkWord u h _ 0x31f#22 ?_
  show (a ++ b ++ 0x0#2 ++ d ++ 0x0#5) &&& (0x0#7 ++ 0x0#5 ++ 0x3#2 ++ 0x0#3 ++ 0x1F#5) = 0#22
  simp only [BitVec.and_append, BitVec.and_zero]
  rfl

theorem unused_66 (u : BitVec 3) (h : Hdr) (b : BitVec 5) : mkWord u h (0x1A000#17 ++ b) &&& 0x7fe0#32 = 0#32 := by
  refine mask_mkWord u h _ 0x7fe0#22 ?_
  show (0x1A000#17 ++ b) &&& (0x3FF#17 ++ 0x0#5) = 0#22
  simp only [BitVec.and_append, BitVec.and_zero]
  rfl

theorem unused_67 (u : BitVec 3) (h : Hdr) (a : BitVec 7) (b : BitVec 4) (c : BitVec 1) (e : BitVec 7) : mkWord u h (a ++ b ++ c ++ 0x0#3 ++ e) &&& 0x380#32 = 0#32 := by
  refine mask_mkWord u h _ 0x380#22 ?_
  show (a ++ b ++ c ++ 0x0#3 ++ e) &&& (0x0#7 ++ 0x0#4 ++ 0x0#1 ++ 0x7#3 ++ 0x0#7) = 0#22
  simp only [BitVec.and_append, BitVec.and_zero]
  rfl

theorem unused_68 (u : BitVec 3) (h : Hdr) (a : BitVec 7) (b : BitVec 3) (c : BitVec 4) (d : BitVec 4) (e : BitVec 1) (f : BitVec 1) (i : BitVec 1) : mkWord u h (a ++ b ++ c ++ d ++ e ++ f ++ 0x0#1 ++ i) &&& 0x2#32 = 0#32 := by
  refine mask_mkWord u h _ 0x2#22 ?_
  show (a ++ b ++ c ++ d ++ e ++ f ++ 0x0#1 ++ i) &&& (0x0#7 ++ 0x0#3 ++ 0x0#4 ++ 0x0#4 ++ 0x0#1 ++ 0x0#1 ++ 0x1#1 ++ 0x0#1) = 0#22
  simp only [BitVec.and_append, BitVec.and_zero]
  rfl

theorem unused_69 (u : BitVec 3) (h : Hdr) (a : BitVec 7) (b : BitVec 3) (c : BitVec 4) (d : BitVec 4) (f : BitVec 1) (i : BitVec 1) : mkWord u h (a ++ b ++ c ++ d ++ 0x0#1 ++ f ++ 0x0#1 ++ i) &&& 0xa#32 = 0#32 := by
  refine mask_mkWord u h _ 0xa#22 ?_
  show (a ++ b ++ c ++ d ++ 0x0#1 ++ f ++ 0x0#1 ++ i) &&& (0x0#7 ++ 0x0#3 ++ 0x0#4 ++ 0x0#4 ++ 0x1#1 ++ 0x0#1 ++ 0x1#1 ++ 0x0#1) = 0#22
  simp only [BitVec.and_append, BitVec.and_zero]
  rfl

theorem unused_70 (u : BitVec 3) (h : Hdr) (a : BitVec 7) (b : BitVec 3) : mkWord u h (a ++ b ++ 0x0#12) &&& 0xfff#32 = 0#32 := by
  refine mask_mkWord u h _ 0xfff#22 ?_
  show (a ++ b ++ 0x0#12) &&& (0x0#7 ++ 0x0#3 ++ 0xFFF#12) = 0#22
  simp only [BitVec.and_append, BitVec.and_zero]
  rfl

theorem unused_71 (u : BitVec 3) (h : Hdr) (a : BitVec 7) (b : BitVec 3) (c : BitVec 4) (e : BitVec 1) : mkWord u h (a ++ b ++ c ++ 0x0#7 ++ e) &&& 0xfe#32 = 0#32 := by
  refine mask_mkWord u h _ 0xfe#22 ?_
  show (a ++ b ++ c ++ 0x0#7 ++ e) &&& (0x0#7 ++ 0x0#3 ++ 0x0#4 ++ 0x7F#7 ++ 0x0#1) = 0#22
  simp only [BitVec.and_append, BitVec.and_zero]
  rfl

theorem unused_72 (u : BitVec 3) (h : Hdr) (a : BitVec 7) (b : BitVec 3) (c : BitVec 4) : mkWord u h (a ++ b ++ c ++ 0x0#8) &&& 0xff#32 = 0#32 := by
  refine mask_mkWord u h _ 0xff#22 ?_
  show (a ++ b ++ c ++ 0x0#8) &&& (0x0#7 ++ 0x0#3 ++ 0x0#4 ++ 0xFF#8) = 0#22
  simp only [BitVec.and_append, BitVec.and_zero]
  rfl

theorem unused_73 (u : BitVec 3) (h : Hdr)  : mkWord u h (0x30000#22) &&& 0x7fff#32 = 0#32 :=
  mask_mkWord u h _ 0x7fff#22 (by decide)

theorem unused_74 (u : BitVec 3) (h : Hdr) (b : BitVec 5) (c : BitVec 5) : mkWord u h (0x0#12 ++ b ++ c) &&& 0x7c00#32 = 0#32 := by
  refine mask_mkWord u h _ 0x7c00#22 ?_
  show (0x0#12 ++ b ++ c) &&& (0x1F#12 ++ 0x0#5 ++ 0x0#5) = 0#22
  simp only [BitVec.and_append, BitVec.and_zero]
  rfl

theorem unused_75 (u : BitVec 3) (h : Hdr) (b : BitVec 3) (c : BitVec 5) : mkWord u h (0x2C#9 ++ b ++ c ++ 0x0#5) &&& 0x601f#32 = 0#32 := by
  refine mask_mkWord u h _ 0x601f#22 ?_
  show (0x2C#9 ++ b ++ c ++ 0x0#5) &&& (0x3#9 ++ 0x0#3 ++ 0x0#5 ++ 0x1F#5) = 0#22
  simp only [BitVec.and_append, BitVec.and_zero]
  rfl

theorem unused_76 (u : BitVec 3) (h : Hdr) (b : BitVec 1) (c : BitVec 3) (d : BitVec 5) (e : BitVec 5) : mkWord u h (0x24#8 ++ b ++ c ++ d ++ e) &&& 0x4000#32 = 0#32 := by
  refine mask_mkWord u h _ 0x4000#22 ?_
  show (0x24#8 ++ b ++ c ++ d ++ e) &&& (0x1#8 ++ 0x0#1 ++ 0x0#3 ++ 0x0#5 ++ 0x0#5) = 0#22
  simp only [BitVec.and_append, BitVec.and_zero]
  rfl

theorem unused_77 (u : BitVec 3) (h : Hdr)  : mkWord u h (0x98000#22) &&& 0x7fff#32 = 0#32 :=
  mask_mkWord u h _ 0x7fff#22 (by decide)

theorem unused_78 (u : BitVec 3) (h : Hdr) (b : BitVec 2) (c : BitVec 5) : mkWord u h (0xC0#10 ++ b ++ c ++ 0x0#5) &&& 0x701f#32 = 0#32 := by
  refine mask_mkWord u h _ 0x701f#22 ?_
  show (0xC0#10 ++ b ++ c ++ 0x0#5) &&& (0x7#10 ++ 0x0#2 ++ 0x0#5 ++ 0x1F#5) = 0#22
  simp only [BitVec.and_append, BitVec.and_zero]
  rfl

theorem unused_79 (u : BitVec 3) (h : Hdr) (b : BitVec 5) : mkWord u h (0x320#12 ++ b ++ 0x0#5) &&& 0x7c1f#32 = 0#32 := by
  refine mask_mkWord u h _ 0x7c1f#22 ?_
  show (0x320#12 ++ b ++ 0x0#5) &&& (0x1F#12 ++ 0x0#5 ++ 0x1F#5) = 0#22
  simp only [BitVec.and_append, BitVec.and_zero]
  rfl

theorem unused_80 (u : BitVec 3) (h : Hdr) (b : BitVec 5) (c : BitVec 5) : mkWord u h (0x400#12 ++ b ++ c) &&& 0x7c00#32 = 0#32 := by
  refine mask_mkWord u h _ 0x7c00#22 ?_
  show (0x400#12 ++ b ++ c) &&& (0x1F#12 ++ 0x0#5 ++ 0x0#5) = 0#22
  simp only [BitVec.and_append, BitVec.and_zero]
  rfl

theorem unused_81 (u : BitVec 3) (h : Hdr) (b : BitVec 5) : mkWord u h (0x440#12 ++ b ++ 0x0#5) &&& 0x7c1f#32 = 0#32 := by
  refine mask_mkWord u h _ 0x7c1f#22 ?_
  show (0x440#12 ++ b ++ 0x0#5) &&& (0x1F#12 ++ 0x0#5 ++ 0x1F#5) = 0#22
  simp only [BitVec.and_append, BitVec.and_zero]
  rfl

theorem unused_82 (u : BitVec 3) (h : Hdr) (b : BitVec 5) (c : BitVec 5) : mkWord u h (0x500#12 ++ b ++ c) &&& 0x7c00#32 = 0#32 := by
  refine mask_mkWord u h _ 0x7c00#22 ?_
  show (0x500#12 ++ b ++ c) &&& (0x1F#12 ++ 0x0#5 ++ 0x0#5) = 0#22
  simp only [BitVec.and_append, BitVec.and_zero]
  rfl

theorem unused_83 (u : BitVec 3) (h : Hdr)  : mkWord u h (0x148000#22) &&& 0x7fff#32 = 0#32 :=
  mask_mkWord u h _ 0x7fff#22 (by decide)

theorem unused_84 (u : BitVec 3) (h : Hdr) (a : BitVec 7) (b : BitVec 5) (d : BitVec 2) : mkWord u h (a ++ b ++ 0x0#3 ++ d ++ 0x0#5) &&& 0x39f#32 = 0#32 := by
  refine mask_mkWord u h _ 0x39f#22 ?_
  show (a ++ b ++ 0x0#3 ++ d ++ 0x0#5) &&& (0x0#7 ++ 0x0#5 ++ 0x7#3 ++ 0x0#2 ++ 0x1F#5) = 0#22
  simp only [BitVec.and_append, BitVec.and_zero]
  rfl

theorem unused_85 (u : BitVec 3) (h : Hdr) (b : BitVec 5) : mkWord u h (0x620#12 ++ b ++ 0x0#5) &&& 0x7c1f#32 = 0#32 := by
  refine mask_mkWord u h _ 0x7c1f#22 ?_
  show (0x620#12 ++ b ++ 0x0#5) &&& (0x1F#12 ++ 0x0#5 ++ 0x1F#5) = 0#22
  simp only [BitVec.and_append, BitVec.and_zero]
  rfl

theorem unused_86 (u : BitVec 3) (h : Hdr) (b : BitVec 2) : mkWord u h (0x0#10 ++ b ++ 0x0#10) &&& 0x73ff#32 = 0#32 := by
  refine mask_mkWord u h _ 0x73ff#22 ?_
  show (0x0#10 ++ b ++ 0x0#10) &&& (0x7#10 ++ 0x0#2 ++ 0x3FF#10) = 0#22
  simp only [BitVec.and_append, BitVec.and_zero]
  rfl

theorem unused_87 (u : BitVec 3) (h : Hdr) (b : BitVec 2) (c : BitVec 5) : mkWord u h (0x8#10 ++ b ++ c ++ 0x0#5) &&& 0x701f#32 = 0#32 := by
  refine mask_mkWord u h _ 0x701f#22 ?_
  show (0x8#10 ++ b ++ c ++ 0x0#5) &&& (0x7#10 ++ 0x0#2 ++ 0x0#5 ++ 0x1F#5) = 0#22
  simp only [BitVec.and_append, BitVec.and_zero]
  rfl

theorem unused_88 (u : BitVec 3) (h : Hdr) (b : BitVec 3) (c : BitVec 5) : mkWord u h (0x8#9 ++ b ++ c ++ 0x0#5) &&& 0x601f#32 = 0#32 := by
  refine mask_mkWord u h _ 0x601f#22 ?_
  show (0x8#9 ++ b ++ c ++ 0x0#5) &&& (0x3#9 ++ 0x0#3 ++ 0x0#5 ++ 0x1F#5) = 0#22
  simp only [BitVec.and_append, BitVec.and_zero]
  rfl

theorem unused_89 (u : BitVec 3) (h : Hdr) (b : BitVec 3) (c : BitVec 5) : mkWord u h (0xC#9 ++ b ++ c ++ 0x0#5) &&& 0x601f#32 = 0#32 := by
  refine mask_mkWord u h _ 0x601f#22 ?_
  show (0xC#9 ++ b ++ c ++ 0x0#5) &&& (0x3#9 ++ 0x0#3 ++ 0x0#5 ++ 0x1F#5) = 0#22
  simp only [BitVec.and_append, BitVec.and_zero]
  rfl

theorem unused_90 (u : BitVec 3) (h : Hdr)  : mkWord u h (0x20000#22) &&& 0x7fff#32 = 0#32 :=
  mask_mkWord u h _ 0x7fff#22 (by decide)

theorem unused_91 (u : BitVec 3) (h : Hdr) (a : BitVec 7) (b : BitVec 5) (d : BitVec 2) (e : BitVec 5) : mkWord u h (a ++ b ++ 0x0#3 ++ d ++ e) &&& 0x380#32 = 0#32 := by
  refine mask_mkWord u h _ 0x380#22 ?_
  show (a ++ b ++ 0x0#3 ++ d ++ e) &&& (0x0#7 ++ 0x0#5 ++ 0x7#3 ++ 0x0#2 ++ 0x0#5) = 0#22
  simp only [BitVec.and_append, BitVec.and_zero]
  rfl

theorem unused_92 (u : BitVec 3) (h : Hdr) (b : BitVec 2) : mkWord u h (0x30#10 ++ b ++ 0x0#10) &&& 0x73ff#32 = 0#32 := by
  refine mask_mkWord u h _ 0x73ff#22 ?_
  show (0x30#10 ++ b ++ 0x0#10) &&& (0x7#10 ++ 0x0#2 ++ 0x3FF#10) = 0#22
  simp only [BitVec.and_append, BitVec.and_zero]
  rfl

theorem unused_93 (u : BitVec 3) (h : Hdr) (b : BitVec 5) (c : BitVec 5) : mkWord u h (0x20#12 ++ b ++ c) &&& 0x7c00#32 = 0#32 := by
  refine mask_mkWord u h _ 0x7c00#22 ?_
  show (0x20#12 ++ b ++ c) &&& (0x1F#12 ++ 0x0#5 ++ 0x0#5) = 0#22
  simp only [BitVec.and_append, BitVec.and_zero]
  rfl

theorem unused_94 (u : BitVec 3) (h : Hdr) (b : BitVec 5) : mkWord u h (0x120#12 ++ b ++ 0x0#5) &&& 0x7c1f#32 = 0#32 := by
  refine mask_mkWord u h _ 0x7c1f#22 ?_
  show (0x120#12 ++ b ++ 0x0#5) &&& (0x1F#12 ++ 0x0#5 ++ 0x1F#5) = 0#22
  simp only [BitVec.and_append, BitVec.and_zero]
  rfl

theorem unused_95 (u : BitVec 3) (h : Hdr) (b : BitVec 5) (c : BitVec 5) : mkWord u h (0x180#12 ++ b ++ c) &&& 0x7c00#32 = 0#32 := by
  refine mask_mkWord u h _ 0x7c00#22 ?_
  show (0x180#12 ++ b ++ c) &&& (0x1F#12 ++ 0x0#5 ++ 0x0#5) = 0#22
  simp only [BitVec.and_append, BitVec.and_zero]
  rfl

theorem unused_96 (u : BitVec 3) (h : Hdr) (b : BitVec 5) (c : BitVec 5) : mkWord u h (0x1A0#12 ++ b ++ c) &&& 0x7c00#32 = 0#32 := by
  refine mask_mkWord u h _ 0x7c00#22 ?_
  show (0x1A0#12 ++ b ++ c) &&& (0x1F#12 ++ 0x0#5 ++ 0x0#5) = 0#22
  simp only [BitVec.and_append, BitVec.and_zero]
  rfl

end Sys2Proof

open Sys2Proof Sys2Proof.Laws.Encoding

theorem Sys2Proof.Laws.Encoding.nop (h : Hdr) :
    Statement (.nop h) := by
  refine (decodeWord_unit0 none none h (0x0#22)).trans ?_
  unfold decodeSC
  rw [show (mkWord 0#3 h (0x0#22)).fld 15 7 = 0x0#7 from op_of_22 ..]
  refine (if_pos (unused_0 ..)).trans ?_
  rfl

theorem Sys2Proof.Laws.Encoding.add (h : Hdr) (d a b : BitVec 5) :
    Statement (.add h d a b) := by
  refine (decodeWord_unit0 none none h (0x1#7 ++ d ++ a ++ b)).trans ?_
  unfold decodeSC
  rw [op_of_7_5_5_5]
  refine (if_pos (unused_1 ..)).trans ?_
  rw [field_of_7_5_5_5_10, field_of_7_5_5_5_5, field_of_7_5_5_5_0]

theorem Sys2Proof.Laws.Encoding.sub (h : Hdr) (d a b : BitVec 5) :
    Statement (.sub h d a b) := by
  refine (decodeWord_unit0 none none h (0x2#7 ++ d ++ a ++ b)).trans ?_
  unfold decodeSC
  rw [op_of_7_5_5_5]
  refine (if_pos (unused_1 ..)).trans ?_
  rw [field_of_7_5_5_5_10, field_of_7_5_5_5_5, field_of_7_5_5_5_0]

theorem Sys2Proof.Laws.Encoding.mul (h : Hdr) (d a b : BitVec 5) :
    Statement (.mul h d a b) := by
  refine (decodeWord_unit0 none none h (0x3#7 ++ d ++ a ++ b)).trans ?_
  unfold decodeSC
  rw [op_of_7_5_5_5]
  refine (if_pos (unused_1 ..)).trans ?_
  rw [field_of_7_5_5_5_10, field_of_7_5_5_5_5, field_of_7_5_5_5_0]

theorem Sys2Proof.Laws.Encoding.mulhs (h : Hdr) (d a b : BitVec 5) :
    Statement (.mulhs h d a b) := by
  refine (decodeWord_unit0 none none h (0x4#7 ++ d ++ a ++ b)).trans ?_
  unfold decodeSC
  rw [op_of_7_5_5_5]
  refine (if_pos (unused_1 ..)).trans ?_
  rw [field_of_7_5_5_5_10, field_of_7_5_5_5_5, field_of_7_5_5_5_0]

theorem Sys2Proof.Laws.Encoding.mulhn (h : Hdr) (d a b : BitVec 5) :
    Statement (.mulhn h d a b) := by
  refine (decodeWord_unit0 none none h (0x5#7 ++ d ++ a ++ b)).trans ?_
  unfold decodeSC
  rw [op_of_7_5_5_5]
  refine (if_pos (unused_1 ..)).trans ?_
  rw [field_of_7_5_5_5_10, field_of_7_5_5_5_5, field_of_7_5_5_5_0]

theorem Sys2Proof.Laws.Encoding.divs (h : Hdr) (d a b : BitVec 5) :
    Statement (.divs h d a b) := by
  refine (decodeWord_unit0 none none h (0x6#7 ++ d ++ a ++ b)).trans ?_
  unfold decodeSC
  rw [op_of_7_5_5_5]
  refine (if_pos (unused_1 ..)).trans ?_
  rw [field_of_7_5_5_5_10, field_of_7_5_5_5_5, field_of_7_5_5_5_0]

theorem Sys2Proof.Laws.Encoding.divn (h : Hdr) (d a b : BitVec 5) :
    Statement (.divn h d a b) := by
  refine (decodeWord_unit0 none none h (0x7#7 ++ d ++ a ++ b)).trans ?_
  unfold decodeSC
  rw [op_of_7_5_5_5]
  refine (if_pos (unused_1 ..)).trans ?_
  rw [field_of_7_5_5_5_10, field_of_7_5_5_5_5, field_of_7_5_5_5_0]

theorem Sys2Proof.Laws.Encoding.rems (h : Hdr) (d a b : BitVec 5) :
    Statement (.rems h d a b) := by
  refine (decodeWord_unit0 none none h (0x8#7 ++ d ++ a ++ b)).trans ?_
  unfold decodeSC
  rw [op_of_7_5_5_5]
  refine (if_pos (unused_1 ..)).trans ?_
  rw [field_of_7_5_5_5_10, field_of_7_5_5_5_5, field_of_7_5_5_5_0]

theorem Sys2Proof.Laws.Encoding.remn (h : Hdr) (d a b : BitVec 5) :
    Statement (.remn h d a b) := by
  refine (decodeWord_unit0 none none h (0x9#7 ++ d ++ a ++ b)).trans ?_
  unfold decodeSC
  rw [op_of_7_5_5_5]
  refine (if_pos (unused_1 ..)).trans ?_
  rw [field_of_7_5_5_5_10, field_of_7_5_5_5_5, field_of_7_5_5_5_0]

theorem Sys2Proof.Laws.Encoding.and (h : Hdr) (d a b : BitVec 5) :
    Statement (.and h d a b) := by
  refine (decodeWord_unit0 none none h (0xA#7 ++ d ++ a ++ b)).trans ?_
  unfold decodeSC
  rw [op_of_7_5_5_5]
  refine (if_pos (unused_1 ..)).trans ?_
  rw [field_of_7_5_5_5_10, field_of_7_5_5_5_5, field_of_7_5_5_5_0]

theorem Sys2Proof.Laws.Encoding.or (h : Hdr) (d a b : BitVec 5) :
    Statement (.or h d a b) := by
  refine (decodeWord_unit0 none none h (0xB#7 ++ d ++ a ++ b)).trans ?_
  unfold decodeSC
  rw [op_of_7_5_5_5]
  refine (if_pos (unused_1 ..)).trans ?_
  rw [field_of_7_5_5_5_10, field_of_7_5_5_5_5, field_of_7_5_5_5_0]

theorem Sys2Proof.Laws.Encoding.xor (h : Hdr) (d a b : BitVec 5) :
    Statement (.xor h d a b) := by
  refine (decodeWord_unit0 none none h (0xC#7 ++ d ++ a ++ b)).trans ?_
  unfold decodeSC
  rw [op_of_7_5_5_5]
  refine (if_pos (unused_1 ..)).trans ?_
  rw [field_of_7_5_5_5_10, field_of_7_5_5_5_5, field_of_7_5_5_5_0]

theorem Sys2Proof.Laws.Encoding.andn (h : Hdr) (d a b : BitVec 5) :
    Statement (.andn h d a b) := by
  refine (decodeWord_unit0 none none h (0xD#7 ++ d ++ a ++ b)).trans ?_
  unfold decodeSC
  rw [op_of_7_5_5_5]
  refine (if_pos (unused_1 ..)).trans ?_
  rw [field_of_7_5_5_5_10, field_of_7_5_5_5_5, field_of_7_5_5_5_0]

theorem Sys2Proof.Laws.Encoding.shl (h : Hdr) (d a b : BitVec 5) :
    Statement (.shl h d a b) := by
  refine (decodeWord_unit0 none none h (0xE#7 ++ d ++ a ++ b)).trans ?_
  unfold decodeSC
  rw [op_of_7_5_5_5]
  refine (if_pos (unused_1 ..)).trans ?_
  rw [field_of_7_5_5_5_10, field_of_7_5_5_5_5, field_of_7_5_5_5_0]

theorem Sys2Proof.Laws.Encoding.shr (h : Hdr) (d a b : BitVec 5) :
    Statement (.shr h d a b) := by
  refine (decodeWord_unit0 none none h (0xF#7 ++ d ++ a ++ b)).trans ?_
  unfold decodeSC
  rw [op_of_7_5_5_5]
  refine (if_pos (unused_1 ..)).trans ?_
  rw [field_of_7_5_5_5_10, field_of_7_5_5_5_5, field_of_7_5_5_5_0]

theorem Sys2Proof.Laws.Encoding.sha (h : Hdr) (d a b : BitVec 5) :
    Statement (.sha h d a b) := by
  refine (decodeWord_unit0 none none h (0x10#7 ++ d ++ a ++ b)).trans ?_
  unfold decodeSC
  rw [op_of_7_5_5_5]
  refine (if_pos (unused_1 ..)).trans ?_
  rw [field_of_7_5_5_5_10, field_of_7_5_5_5_5, field_of_7_5_5_5_0]

theorem Sys2Proof.Laws.Encoding.rol (h : Hdr) (d a b : BitVec 5) :
    Statement (.rol h d a b) := by
  refine (decodeWord_unit0 none none h (0x11#7 ++ d ++ a ++ b)).trans ?_
  unfold decodeSC
  rw [op_of_7_5_5_5]
  refine (if_pos (unused_1 ..)).trans ?_
  rw [field_of_7_5_5_5_10, field_of_7_5_5_5_5, field_of_7_5_5_5_0]

theorem Sys2Proof.Laws.Encoding.min (h : Hdr) (d a b : BitVec 5) :
    Statement (.min h d a b) := by
  refine (decodeWord_unit0 none none h (0x12#7 ++ d ++ a ++ b)).trans ?_
  unfold decodeSC
  rw [op_of_7_5_5_5]
  refine (if_pos (unused_1 ..)).trans ?_
  rw [field_of_7_5_5_5_10, field_of_7_5_5_5_5, field_of_7_5_5_5_0]

theorem Sys2Proof.Laws.Encoding.max (h : Hdr) (d a b : BitVec 5) :
    Statement (.max h d a b) := by
  refine (decodeWord_unit0 none none h (0x13#7 ++ d ++ a ++ b)).trans ?_
  unfold decodeSC
  rw [op_of_7_5_5_5]
  refine (if_pos (unused_1 ..)).trans ?_
  rw [field_of_7_5_5_5_10, field_of_7_5_5_5_5, field_of_7_5_5_5_0]

theorem Sys2Proof.Laws.Encoding.minn (h : Hdr) (d a b : BitVec 5) :
    Statement (.minn h d a b) := by
  refine (decodeWord_unit0 none none h (0x14#7 ++ d ++ a ++ b)).trans ?_
  unfold decodeSC
  rw [op_of_7_5_5_5]
  refine (if_pos (unused_1 ..)).trans ?_
  rw [field_of_7_5_5_5_10, field_of_7_5_5_5_5, field_of_7_5_5_5_0]

theorem Sys2Proof.Laws.Encoding.maxn (h : Hdr) (d a b : BitVec 5) :
    Statement (.maxn h d a b) := by
  refine (decodeWord_unit0 none none h (0x15#7 ++ d ++ a ++ b)).trans ?_
  unfold decodeSC
  rw [op_of_7_5_5_5]
  refine (if_pos (unused_1 ..)).trans ?_
  rw [field_of_7_5_5_5_10, field_of_7_5_5_5_5, field_of_7_5_5_5_0]

theorem Sys2Proof.Laws.Encoding.clz (h : Hdr) (d a : BitVec 5) :
    Statement (.clz h d a) := by
  refine (decodeWord_unit0 none none h (0x16#7 ++ d ++ a ++ 0x0#5)).trans ?_
  unfold decodeSC
  rw [op_of_7_5_5_5]
  refine (if_pos (unused_2 ..)).trans ?_
  rw [field_of_7_5_5_5_10, field_of_7_5_5_5_5]

theorem Sys2Proof.Laws.Encoding.popc (h : Hdr) (d a : BitVec 5) :
    Statement (.popc h d a) := by
  refine (decodeWord_unit0 none none h (0x17#7 ++ d ++ a ++ 0x0#5)).trans ?_
  unfold decodeSC
  rw [op_of_7_5_5_5]
  refine (if_pos (unused_2 ..)).trans ?_
  rw [field_of_7_5_5_5_10, field_of_7_5_5_5_5]

theorem Sys2Proof.Laws.Encoding.bfx (h : Hdr) (d a b : BitVec 5) :
    Statement (.bfx h d a b) := by
  refine (decodeWord_unit0 none none h (0x18#7 ++ d ++ a ++ b)).trans ?_
  unfold decodeSC
  rw [op_of_7_5_5_5]
  refine (if_pos (unused_1 ..)).trans ?_
  rw [field_of_7_5_5_5_10, field_of_7_5_5_5_5, field_of_7_5_5_5_0]

theorem Sys2Proof.Laws.Encoding.bfi (h : Hdr) (d a b : BitVec 5) :
    Statement (.bfi h d a b) := by
  refine (decodeWord_unit0 none none h (0x19#7 ++ d ++ a ++ b)).trans ?_
  unfold decodeSC
  rw [op_of_7_5_5_5]
  refine (if_pos (unused_1 ..)).trans ?_
  rw [field_of_7_5_5_5_10, field_of_7_5_5_5_5, field_of_7_5_5_5_0]

theorem Sys2Proof.Laws.Encoding.addi (h : Hdr) (x : Option ImmF) (d a m : BitVec 5) :
    Statement (.addi h x d a m) := by
  refine (decodeWord_unit0 x none h (0x1A#7 ++ d ++ a ++ m)).trans ?_
  unfold decodeSC
  rw [op_of_7_5_5_5]
  refine (if_pos (unused_1 ..)).trans ?_
  rw [field_of_7_5_5_5_10, field_of_7_5_5_5_5, field_of_7_5_5_5_0]

theorem Sys2Proof.Laws.Encoding.shli (h : Hdr) (x : Option ImmF) (d a m : BitVec 5) :
    Statement (.shli h x d a m) := by
  refine (decodeWord_unit0 x none h (0x1B#7 ++ d ++ a ++ m)).trans ?_
  unfold decodeSC
  rw [op_of_7_5_5_5]
  refine (if_pos (unused_1 ..)).trans ?_
  rw [field_of_7_5_5_5_10, field_of_7_5_5_5_5, field_of_7_5_5_5_0]

theorem Sys2Proof.Laws.Encoding.shri (h : Hdr) (x : Option ImmF) (d a m : BitVec 5) :
    Statement (.shri h x d a m) := by
  refine (decodeWord_unit0 x none h (0x1C#7 ++ d ++ a ++ m)).trans ?_
  unfold decodeSC
  rw [op_of_7_5_5_5]
  refine (if_pos (unused_1 ..)).trans ?_
  rw [field_of_7_5_5_5_10, field_of_7_5_5_5_5, field_of_7_5_5_5_0]

theorem Sys2Proof.Laws.Encoding.shai (h : Hdr) (x : Option ImmF) (d a m : BitVec 5) :
    Statement (.shai h x d a m) := by
  refine (decodeWord_unit0 x none h (0x1D#7 ++ d ++ a ++ m)).trans ?_
  unfold decodeSC
  rw [op_of_7_5_5_5]
  refine (if_pos (unused_1 ..)).trans ?_
  rw [field_of_7_5_5_5_10, field_of_7_5_5_5_5, field_of_7_5_5_5_0]

theorem Sys2Proof.Laws.Encoding.andi (h : Hdr) (x : Option ImmF) (d a m : BitVec 5) :
    Statement (.andi h x d a m) := by
  refine (decodeWord_unit0 x none h (0x1E#7 ++ d ++ a ++ m)).trans ?_
  unfold decodeSC
  rw [op_of_7_5_5_5]
  refine (if_pos (unused_1 ..)).trans ?_
  rw [field_of_7_5_5_5_10, field_of_7_5_5_5_5, field_of_7_5_5_5_0]

theorem Sys2Proof.Laws.Encoding.li (h : Hdr) (x : Option ImmF) (d : BitVec 5) (m : BitVec 10) :
    Statement (.li h x d m) := by
  refine (decodeWord_unit0 x none h (0x1F#7 ++ d ++ m)).trans ?_
  unfold decodeSC
  rw [op_of_7_5_10]
  refine (if_pos (unused_3 ..)).trans ?_
  rw [field_of_7_5_10_10, field_of_7_5_10_0]

theorem Sys2Proof.Laws.Encoding.lih (h : Hdr) (x : Option ImmF) (d : BitVec 5) :
    Statement (.lih h x d) := by
  refine (decodeWord_unit0 x none h (0x20#7 ++ d ++ 0x0#10)).trans ?_
  unfold decodeSC
  rw [op_of_7_5_10]
  refine (if_pos (unused_4 ..)).trans ?_
  rw [field_of_7_5_10_10]

theorem Sys2Proof.Laws.Encoding.mov (h : Hdr) (d a : BitVec 5) :
    Statement (.mov h d a) := by
  refine (decodeWord_unit0 none none h (0x21#7 ++ d ++ a ++ 0x0#5)).trans ?_
  unfold decodeSC
  rw [op_of_7_5_5_5]
  refine (if_pos (unused_2 ..)).trans ?_
  rw [field_of_7_5_5_5_10, field_of_7_5_5_5_5]

theorem Sys2Proof.Laws.Encoding.cmov (h : Hdr) (d a : BitVec 5) (p : BitVec 3) :
    Statement (.cmov h d a p) := by
  refine (decodeWord_unit0 none none h (0x22#7 ++ d ++ a ++ 0x0#2 ++ p)).trans ?_
  unfold decodeSC
  rw [op_of_7_5_5_2_3]
  refine (if_pos (unused_5 ..)).trans ?_
  rw [field_of_7_5_5_2_3_10, field_of_7_5_5_2_3_5, field_of_7_5_5_2_3_0]

theorem Sys2Proof.Laws.Encoding.cmpeq (h : Hdr) (p : BitVec 3) (a b : BitVec 5) :
    Statement (.cmpeq h p a b) := by
  refine (decodeWord_unit0 none none h (0x8C#9 ++ p ++ a ++ b)).trans ?_
  unfold decodeSC
  rw [show (mkWord 0#3 h (0x8C#9 ++ p ++ a ++ b)).fld 15 7 = 0x23#7 from op_of_9_3_5_5 ..]
  refine (if_pos (unused_6 ..)).trans ?_
  rw [field_of_9_3_5_5_10, field_of_9_3_5_5_5, field_of_9_3_5_5_0]

theorem Sys2Proof.Laws.Encoding.cmpne (h : Hdr) (p : BitVec 3) (a b : BitVec 5) :
    Statement (.cmpne h p a b) := by
  refine (decodeWord_unit0 none none h (0x90#9 ++ p ++ a ++ b)).trans ?_
  unfold decodeSC
  rw [show (mkWord 0#3 h (0x90#9 ++ p ++ a ++ b)).fld 15 7 = 0x24#7 from op_of_9_3_5_5 ..]
  refine (if_pos (unused_7 ..)).trans ?_
  rw [field_of_9_3_5_5_10, field_of_9_3_5_5_5, field_of_9_3_5_5_0]

theorem Sys2Proof.Laws.Encoding.cmplt (h : Hdr) (p : BitVec 3) (a b : BitVec 5) :
    Statement (.cmplt h p a b) := by
  refine (decodeWord_unit0 none none h (0x94#9 ++ p ++ a ++ b)).trans ?_
  unfold decodeSC
  rw [show (mkWord 0#3 h (0x94#9 ++ p ++ a ++ b)).fld 15 7 = 0x25#7 from op_of_9_3_5_5 ..]
  refine (if_pos (unused_8 ..)).trans ?_
  rw [field_of_9_3_5_5_10, field_of_9_3_5_5_5, field_of_9_3_5_5_0]

theorem Sys2Proof.Laws.Encoding.cmple (h : Hdr) (p : BitVec 3) (a b : BitVec 5) :
    Statement (.cmple h p a b) := by
  refine (decodeWord_unit0 none none h (0x98#9 ++ p ++ a ++ b)).trans ?_
  unfold decodeSC
  rw [show (mkWord 0#3 h (0x98#9 ++ p ++ a ++ b)).fld 15 7 = 0x26#7 from op_of_9_3_5_5 ..]
  refine (if_pos (unused_9 ..)).trans ?_
  rw [field_of_9_3_5_5_10, field_of_9_3_5_5_5, field_of_9_3_5_5_0]

theorem Sys2Proof.Laws.Encoding.cmpltn (h : Hdr) (p : BitVec 3) (a b : BitVec 5) :
    Statement (.cmpltn h p a b) := by
  refine (decodeWord_unit0 none none h (0x9C#9 ++ p ++ a ++ b)).trans ?_
  unfold decodeSC
  rw [show (mkWord 0#3 h (0x9C#9 ++ p ++ a ++ b)).fld 15 7 = 0x27#7 from op_of_9_3_5_5 ..]
  refine (if_pos (unused_10 ..)).trans ?_
  rw [field_of_9_3_5_5_10, field_of_9_3_5_5_5, field_of_9_3_5_5_0]

theorem Sys2Proof.Laws.Encoding.cmplen (h : Hdr) (p : BitVec 3) (a b : BitVec 5) :
    Statement (.cmplen h p a b) := by
  refine (decodeWord_unit0 none none h (0xA0#9 ++ p ++ a ++ b)).trans ?_
  unfold decodeSC
  rw [show (mkWord 0#3 h (0xA0#9 ++ p ++ a ++ b)).fld 15 7 = 0x28#7 from op_of_9_3_5_5 ..]
  refine (if_pos (unused_11 ..)).trans ?_
  rw [field_of_9_3_5_5_10, field_of_9_3_5_5_5, field_of_9_3_5_5_0]

theorem Sys2Proof.Laws.Encoding.pand (h : Hdr) (d a b : BitVec 3) :
    Statement (.pand h d a b) := by
  refine (decodeWord_unit0 none none h (0xA8#9 ++ d ++ 0x0#2 ++ a ++ 0x0#2 ++ b)).trans ?_
  unfold decodeSC
  rw [show (mkWord 0#3 h (0xA8#9 ++ d ++ 0x0#2 ++ a ++ 0x0#2 ++ b)).fld 15 7 = 0x2A#7 from op_of_9_3_2_3_2_3 ..]
  refine (if_pos (unused_12 ..)).trans ?_
  rw [field_of_9_3_2_3_2_3_10, field_of_9_3_2_3_2_3_5, field_of_9_3_2_3_2_3_0]

theorem Sys2Proof.Laws.Encoding.por (h : Hdr) (d a b : BitVec 3) :
    Statement (.por h d a b) := by
  refine (decodeWord_unit0 none none h (0xAC#9 ++ d ++ 0x0#2 ++ a ++ 0x0#2 ++ b)).trans ?_
  unfold decodeSC
  rw [show (mkWord 0#3 h (0xAC#9 ++ d ++ 0x0#2 ++ a ++ 0x0#2 ++ b)).fld 15 7 = 0x2B#7 from op_of_9_3_2_3_2_3 ..]
  refine (if_pos (unused_13 ..)).trans ?_
  rw [field_of_9_3_2_3_2_3_10, field_of_9_3_2_3_2_3_5, field_of_9_3_2_3_2_3_0]

theorem Sys2Proof.Laws.Encoding.pxor (h : Hdr) (d a b : BitVec 3) :
    Statement (.pxor h d a b) := by
  refine (decodeWord_unit0 none none h (0xB0#9 ++ d ++ 0x0#2 ++ a ++ 0x0#2 ++ b)).trans ?_
  unfold decodeSC
  rw [show (mkWord 0#3 h (0xB0#9 ++ d ++ 0x0#2 ++ a ++ 0x0#2 ++ b)).fld 15 7 = 0x2C#7 from op_of_9_3_2_3_2_3 ..]
  refine (if_pos (unused_14 ..)).trans ?_
  rw [field_of_9_3_2_3_2_3_10, field_of_9_3_2_3_2_3_5, field_of_9_3_2_3_2_3_0]

theorem Sys2Proof.Laws.Encoding.br (h : Hdr) (x : Option ImmF) (p : BitVec 3) (n : BitVec 1) (o : BitVec 11) :
    Statement (.br h x p n o) := by
  refine (decodeWord_unit0 x none h (0x30#7 ++ p ++ n ++ o)).trans ?_
  unfold decodeSC
  rw [op_of_7_3_1_11]
  refine (if_pos (unused_15 ..)).trans ?_
  rw [field_of_7_3_1_11_12, field_of_7_3_1_11_11, field_of_7_3_1_11_0]

theorem Sys2Proof.Laws.Encoding.jmp (h : Hdr) (x : Option ImmF) (o : BitVec 11) :
    Statement (.jmp h x o) := by
  refine (decodeWord_unit0 x none h (0x310#11 ++ o)).trans ?_
  unfold decodeSC
  rw [show (mkWord 0#3 h (0x310#11 ++ o)).fld 15 7 = 0x31#7 from op_of_11_11 ..]
  refine (if_pos (unused_16 ..)).trans ?_
  rw [field_of_11_11_0]

theorem Sys2Proof.Laws.Encoding.jmpr (h : Hdr) (a : BitVec 5) :
    Statement (.jmpr h a) := by
  refine (decodeWord_unit0 none none h (0x640#12 ++ a ++ 0x0#5)).trans ?_
  unfold decodeSC
  rw [show (mkWord 0#3 h (0x640#12 ++ a ++ 0x0#5)).fld 15 7 = 0x32#7 from op_of_12_5_5 ..]
  refine (if_pos (unused_17 ..)).trans ?_
  rw [field_of_12_5_5_5]

theorem Sys2Proof.Laws.Encoding.call (h : Hdr) (x : Option ImmF) (o : BitVec 11) :
    Statement (.call h x o) := by
  refine (decodeWord_unit0 x none h (0x330#11 ++ o)).trans ?_
  unfold decodeSC
  rw [show (mkWord 0#3 h (0x330#11 ++ o)).fld 15 7 = 0x33#7 from op_of_11_11 ..]
  refine (if_pos (unused_18 ..)).trans ?_
  rw [field_of_11_11_0]

theorem Sys2Proof.Laws.Encoding.ret (h : Hdr) :
    Statement (.ret h) := by
  refine (decodeWord_unit0 none none h (0x1A0000#22)).trans ?_
  unfold decodeSC
  rw [show (mkWord 0#3 h (0x1A0000#22)).fld 15 7 = 0x34#7 from op_of_22 ..]
  refine (if_pos (unused_19 ..)).trans ?_
  rfl

theorem Sys2Proof.Laws.Encoding.loop (h : Hdr) (d : BitVec 5) (l : BitVec 10) :
    Statement (.loop h d l) := by
  refine (decodeWord_unit0 none none h (0x35#7 ++ d ++ l)).trans ?_
  unfold decodeSC
  rw [op_of_7_5_10]
  refine (if_pos (unused_3 ..)).trans ?_
  rw [field_of_7_5_10_10, field_of_7_5_10_0]

theorem Sys2Proof.Laws.Encoding.loopi (h : Hdr) (x : Option ImmF) (c : BitVec 5) (l : BitVec 10) :
    Statement (.loopi h x c l) := by
  refine (decodeWord_unit0 x none h (0x36#7 ++ c ++ l)).trans ?_
  unfold decodeSC
  rw [op_of_7_5_10]
  refine (if_pos (unused_3 ..)).trans ?_
  rw [field_of_7_5_10_10, field_of_7_5_10_0]

theorem Sys2Proof.Laws.Encoding.loopp (h : Hdr) (d : BitVec 5) (s : BitVec 3) (k : BitVec 7) :
    Statement (.loopp h d s k) := by
  refine (decodeWord_unit0 none none h (0x37#7 ++ d ++ s ++ k)).trans ?_
  unfold decodeSC
  rw [op_of_7_5_3_7]
  refine (if_pos (unused_20 ..)).trans ?_
  rw [field_of_7_5_3_7_10, field_of_7_5_3_7_7, field_of_7_5_3_7_0]

theorem Sys2Proof.Laws.Encoding.brkl (h : Hdr) (p : BitVec 3) (n : BitVec 1) :
    Statement (.brkl h p n) := by
  refine (decodeWord_unit0 none none h (0x38#7 ++ p ++ n ++ 0x0#11)).trans ?_
  unfold decodeSC
  rw [op_of_7_3_1_11]
  refine (if_pos (unused_21 ..)).trans ?_
  rw [field_of_7_3_1_11_12, field_of_7_3_1_11_11]

theorem Sys2Proof.Laws.Encoding.endStream (h : Hdr) :
    Statement (.endStream h) := by
  refine (decodeWord_unit0 none none h (0x1C8000#22)).trans ?_
  unfold decodeSC
  rw [show (mkWord 0#3 h (0x1C8000#22)).fld 15 7 = 0x39#7 from op_of_22 ..]
  refine (if_pos (unused_22 ..)).trans ?_
  rfl

theorem Sys2Proof.Laws.Encoding.tail (h : Hdr) :
    Statement (.tail h) := by
  refine (decodeWord_unit0 none none h (0x1D0000#22)).trans ?_
  unfold decodeSC
  rw [show (mkWord 0#3 h (0x1D0000#22)).fld 15 7 = 0x3A#7 from op_of_22 ..]
  refine (if_pos (unused_23 ..)).trans ?_
  rfl

theorem Sys2Proof.Laws.Encoding.post (h : Hdr) (f : BitVec 5) :
    Statement (.post h f) := by
  refine (decodeWord_unit0 none none h (0x10000#17 ++ f)).trans ?_
  unfold decodeSC
  rw [show (mkWord 0#3 h (0x10000#17 ++ f)).fld 15 7 = 0x40#7 from op_of_17_5 ..]
  refine (if_pos (unused_24 ..)).trans ?_
  rw [field_of_17_5_0]

theorem Sys2Proof.Laws.Encoding.await (h : Hdr) (f : BitVec 5) :
    Statement (.await h f) := by
  refine (decodeWord_unit0 none none h (0x10400#17 ++ f)).trans ?_
  unfold decodeSC
  rw [show (mkWord 0#3 h (0x10400#17 ++ f)).fld 15 7 = 0x41#7 from op_of_17_5 ..]
  refine (if_pos (unused_25 ..)).trans ?_
  rw [field_of_17_5_0]

theorem Sys2Proof.Laws.Encoding.postg (h : Hdr) (f a : BitVec 5) :
    Statement (.postg h f a) := by
  refine (decodeWord_unit0 none none h (0x42#7 ++ f ++ a ++ 0x0#5)).trans ?_
  unfold decodeSC
  rw [op_of_7_5_5_5]
  refine (if_pos (unused_2 ..)).trans ?_
  rw [field_of_7_5_5_5_10, field_of_7_5_5_5_5]

theorem Sys2Proof.Laws.Encoding.bar (h : Hdr) (n : BitVec 4) :
    Statement (.bar h n) := by
  refine (decodeWord_unit0 none none h (0x21800#18 ++ n)).trans ?_
  unfold decodeSC
  rw [show (mkWord 0#3 h (0x21800#18 ++ n)).fld 15 7 = 0x43#7 from op_of_18_4 ..]
  refine (if_pos (unused_26 ..)).trans ?_
  rw [field_of_18_4_0]

theorem Sys2Proof.Laws.Encoding.fence (h : Hdr) (c o : BitVec 2) :
    Statement (.fence h c o) := by
  refine (decodeWord_unit0 none none h (0x22000#18 ++ c ++ o)).trans ?_
  unfold decodeSC
  rw [show (mkWord 0#3 h (0x22000#18 ++ c ++ o)).fld 15 7 = 0x44#7 from op_of_18_2_2 ..]
  refine (if_pos (unused_27 ..)).trans ?_
  rw [field_of_18_2_2_2, field_of_18_2_2_0]

theorem Sys2Proof.Laws.Encoding.rds (h : Hdr) (d : BitVec 5) (r : BitVec 10) :
    Statement (.rds h d r) := by
  refine (decodeWord_unit0 none none h (0x48#7 ++ d ++ r)).trans ?_
  unfold decodeSC
  rw [op_of_7_5_10]
  refine (if_pos (unused_3 ..)).trans ?_
  rw [field_of_7_5_10_10, field_of_7_5_10_0]

theorem Sys2Proof.Laws.Encoding.wrs (h : Hdr) (d : BitVec 5) (r : BitVec 10) :
    Statement (.wrs h d r) := by
  refine (decodeWord_unit0 none none h (0x49#7 ++ d ++ r)).trans ?_
  unfold decodeSC
  rw [op_of_7_5_10]
  refine (if_pos (unused_3 ..)).trans ?_
  rw [field_of_7_5_10_10, field_of_7_5_10_0]

theorem Sys2Proof.Laws.Encoding.setrm (h : Hdr) (r : BitVec 2) :
    Statement (.setrm h r) := by
  refine (decodeWord_unit0 none none h (0x94000#20 ++ r)).trans ?_
  unfold decodeSC
  rw [show (mkWord 0#3 h (0x94000#20 ++ r)).fld 15 7 = 0x4A#7 from op_of_20_2 ..]
  refine (if_pos (unused_28 ..)).trans ?_
  rw [field_of_20_2_0]

theorem Sys2Proof.Laws.Encoding.seed (h : Hdr) (a b : BitVec 5) :
    Statement (.seed h a b) := by
  refine (decodeWord_unit0 none none h (0x960#12 ++ a ++ b)).trans ?_
  unfold decodeSC
  rw [show (mkWord 0#3 h (0x960#12 ++ a ++ b)).fld 15 7 = 0x4B#7 from op_of_12_5_5 ..]
  refine (if_pos (unused_29 ..)).trans ?_
  rw [field_of_12_5_5_5, field_of_12_5_5_0]

theorem Sys2Proof.Laws.Encoding.view (h : Hdr) (v : BitVec 2) (a b : BitVec 5) :
    Statement (.view h v a b) := by
  refine (decodeWord_unit0 none none h (0x260#10 ++ v ++ a ++ b)).trans ?_
  unfold decodeSC
  rw [show (mkWord 0#3 h (0x260#10 ++ v ++ a ++ b)).fld 15 7 = 0x4C#7 from op_of_10_2_5_5 ..]
  refine (if_pos (unused_30 ..)).trans ?_
  rw [field_of_10_2_5_5_10, field_of_10_2_5_5_5, field_of_10_2_5_5_0]

theorem Sys2Proof.Laws.Encoding.mark (h : Hdr) (n : BitVec 10) :
    Statement (.mark h n) := by
  refine (decodeWord_unit0 none none h (0x9A0#12 ++ n)).trans ?_
  unfold decodeSC
  rw [show (mkWord 0#3 h (0x9A0#12 ++ n)).fld 15 7 = 0x4D#7 from op_of_12_10 ..]
  refine (if_pos (unused_31 ..)).trans ?_
  rw [field_of_12_10_0]

theorem Sys2Proof.Laws.Encoding.markq (h : Hdr) (p : BitVec 3) (n : BitVec 10) :
    Statement (.markq h p n) := by
  refine (decodeWord_unit0 none none h (0x138#9 ++ p ++ n)).trans ?_
  unfold decodeSC
  rw [show (mkWord 0#3 h (0x138#9 ++ p ++ n)).fld 15 7 = 0x4E#7 from op_of_9_3_10 ..]
  refine (if_pos (unused_32 ..)).trans ?_
  rw [field_of_9_3_10_10, field_of_9_3_10_0]

theorem Sys2Proof.Laws.Encoding.trap (h : Hdr) (c : BitVec 10) :
    Statement (.trap h c) := by
  refine (decodeWord_unit0 none none h (0x9E0#12 ++ c)).trans ?_
  unfold decodeSC
  rw [show (mkWord 0#3 h (0x9E0#12 ++ c)).fld 15 7 = 0x4F#7 from op_of_12_10 ..]
  refine (if_pos (unused_33 ..)).trans ?_
  rw [field_of_12_10_0]

theorem Sys2Proof.Laws.Encoding.bkpt (h : Hdr) :
    Statement (.bkpt h) := by
  refine (decodeWord_unit0 none none h (0x280000#22)).trans ?_
  unfold decodeSC
  rw [show (mkWord 0#3 h (0x280000#22)).fld 15 7 = 0x50#7 from op_of_22 ..]
  refine (if_pos (unused_34 ..)).trans ?_
  rfl

theorem Sys2Proof.Laws.Encoding.aadd (h : Hdr) (d a b : BitVec 5) :
    Statement (.aadd h d a b) := by
  refine (decodeWord_unit1 none none h (0x0#7 ++ d ++ a ++ b)).trans ?_
  unfold decodeAC
  rw [op_of_7_5_5_5]
  refine (if_pos (unused_1 ..)).trans ?_
  rw [field_of_7_5_5_5_10, field_of_7_5_5_5_5, field_of_7_5_5_5_0]

theorem Sys2Proof.Laws.Encoding.aaddi (h : Hdr) (x : Option ImmF) (d a m : BitVec 5) :
    Statement (.aaddi h x d a m) := by
  refine (decodeWord_unit1 x none h (0x1#7 ++ d ++ a ++ m)).trans ?_
  unfold decodeAC
  rw [op_of_7_5_5_5]
  refine (if_pos (unused_1 ..)).trans ?_
  rw [field_of_7_5_5_5_10, field_of_7_5_5_5_5, field_of_7_5_5_5_0]

theorem Sys2Proof.Laws.Encoding.asub (h : Hdr) (d a b : BitVec 5) :
    Statement (.asub h d a b) := by
  refine (decodeWord_unit1 none none h (0x2#7 ++ d ++ a ++ b)).trans ?_
  unfold decodeAC
  rw [op_of_7_5_5_5]
  refine (if_pos (unused_1 ..)).trans ?_
  rw [field_of_7_5_5_5_10, field_of_7_5_5_5_5, field_of_7_5_5_5_0]

theorem Sys2Proof.Laws.Encoding.amov (h : Hdr) (d a : BitVec 5) :
    Statement (.amov h d a) := by
  refine (decodeWord_unit1 none none h (0x3#7 ++ d ++ a ++ 0x0#5)).trans ?_
  unfold decodeAC
  rw [op_of_7_5_5_5]
  refine (if_pos (unused_2 ..)).trans ?_
  rw [field_of_7_5_5_5_10, field_of_7_5_5_5_5]

theorem Sys2Proof.Laws.Encoding.ali (h : Hdr) (x : Option ImmF) (d : BitVec 5) (m : BitVec 10) :
    Statement (.ali h x d m) := by
  refine (decodeWord_unit1 x none h (0x4#7 ++ d ++ m)).trans ?_
  unfold decodeAC
  rw [op_of_7_5_10]
  refine (if_pos (unused_3 ..)).trans ?_
  rw [field_of_7_5_10_10, field_of_7_5_10_0]

theorem Sys2Proof.Laws.Encoding.amode (h : Hdr) (d a : BitVec 5) :
    Statement (.amode h d a) := by
  refine (decodeWord_unit1 none none h (0x5#7 ++ d ++ a ++ 0x0#5)).trans ?_
  unfold decodeAC
  rw [op_of_7_5_5_5]
  refine (if_pos (unused_2 ..)).trans ?_
  rw [field_of_7_5_5_5_10, field_of_7_5_5_5_5]

theorem Sys2Proof.Laws.Encoding.abase (h : Hdr) (d a : BitVec 5) :
    Statement (.abase h d a) := by
  refine (decodeWord_unit1 none none h (0x6#7 ++ d ++ a ++ 0x0#5)).trans ?_
  unfold decodeAC
  rw [op_of_7_5_5_5]
  refine (if_pos (unused_2 ..)).trans ?_
  rw [field_of_7_5_5_5_10, field_of_7_5_5_5_5]

theorem Sys2Proof.Laws.Encoding.ainc (h : Hdr) (d a : BitVec 5) :
    Statement (.ainc h d a) := by
  refine (decodeWord_unit1 none none h (0x7#7 ++ d ++ a ++ 0x0#5)).trans ?_
  unfold decodeAC
  rw [op_of_7_5_5_5]
  refine (if_pos (unused_2 ..)).trans ?_
  rw [field_of_7_5_5_5_10, field_of_7_5_5_5_5]

theorem Sys2Proof.Laws.Encoding.ldq (h : Hdr) (q : BitVec 2) (a b : BitVec 5) :
    Statement (.ldq h q a b) := by
  refine (decodeWord_unit1 none none h (0x80#10 ++ q ++ a ++ b)).trans ?_
  unfold decodeAC
  rw [show (mkWord 1#3 h (0x80#10 ++ q ++ a ++ b)).fld 15 7 = 0x10#7 from op_of_10_2_5_5 ..]
  refine (if_pos (unused_35 ..)).trans ?_
  rw [field_of_10_2_5_5_10, field_of_10_2_5_5_5, field_of_10_2_5_5_0]

theorem Sys2Proof.Laws.Encoding.ldqx (h : Hdr) (md : Option ModF) (c : BitVec 3) (q : BitVec 2) (a b : BitVec 5) :
    Statement (.ldqx h md c q a b) := by
  refine (decodeWord_unit1 none md h (0x11#7 ++ c ++ q ++ a ++ b)).trans ?_
  unfold decodeAC
  rw [op_of_7_3_2_5_5]
  refine (if_pos (unused_36 ..)).trans ?_
  rw [field_of_7_3_2_5_5_12, field_of_7_3_2_5_5_10, field_of_7_3_2_5_5_5, field_of_7_3_2_5_5_0]

theorem Sys2Proof.Laws.Encoding.lds (h : Hdr) (d a b : BitVec 5) :
    Statement (.lds h d a b) := by
  refine (decodeWord_unit1 none none h (0x12#7 ++ d ++ a ++ b)).trans ?_
  unfold decodeAC
  rw [op_of_7_5_5_5]
  refine (if_pos (unused_1 ..)).trans ?_
  rw [field_of_7_5_5_5_10, field_of_7_5_5_5_5, field_of_7_5_5_5_0]

theorem Sys2Proof.Laws.Encoding.ldb (h : Hdr) (q : BitVec 2) (a b : BitVec 5) :
    Statement (.ldb h q a b) := by
  refine (decodeWord_unit1 none none h (0x98#10 ++ q ++ a ++ b)).trans ?_
  unfold decodeAC
  rw [show (mkWord 1#3 h (0x98#10 ++ q ++ a ++ b)).fld 15 7 = 0x13#7 from op_of_10_2_5_5 ..]
  refine (if_pos (unused_37 ..)).trans ?_
  rw [field_of_10_2_5_5_10, field_of_10_2_5_5_5, field_of_10_2_5_5_0]

theorem Sys2Proof.Laws.Encoding.stq (h : Hdr) (q : BitVec 2) (a b : BitVec 5) :
    Statement (.stq h q a b) := by
  refine (decodeWord_unit1 none none h (0xC0#10 ++ q ++ a ++ b)).trans ?_
  unfold decodeAC
  rw [show (mkWord 1#3 h (0xC0#10 ++ q ++ a ++ b)).fld 15 7 = 0x18#7 from op_of_10_2_5_5 ..]
  refine (if_pos (unused_38 ..)).trans ?_
  rw [field_of_10_2_5_5_10, field_of_10_2_5_5_5, field_of_10_2_5_5_0]

theorem Sys2Proof.Laws.Encoding.stqx (h : Hdr) (md : Option ModF) (r : BitVec 2) (c : BitVec 3) (q : BitVec 2) (a : BitVec 5) (p e : BitVec 1) (hist : BitVec 3) :
    Statement (.stqx h md r c q a p e hist) := by
  have hr : r = 0#2 ∨ r = 1#2 ∨ r = 2#2 ∨ r = 3#2 := by revert r; decide
  rcases hr with rfl | rfl | rfl | rfl
  · refine (decodeWord_unit1 none md h (0x7#5 ++ 0#2 ++ c ++ q ++ a ++ p ++ e ++ hist)).trans ?_
    unfold decodeAC
    rw [show (mkWord 1#3 h (0x7#5 ++ 0#2 ++ c ++ q ++ a ++ p ++ e ++ hist)).fld 15 7 = 0x1C#7 from op_of_5_2_3_2_5_1_1_3 ..]
    refine (if_pos (unused_39 ..)).trans ?_
    rw [field_of_5_2_3_2_5_1_1_3_15, field_of_5_2_3_2_5_1_1_3_12, field_of_5_2_3_2_5_1_1_3_10, field_of_5_2_3_2_5_1_1_3_5, field_of_5_2_3_2_5_1_1_3_4, field_of_5_2_3_2_5_1_1_3_3, field_of_5_2_3_2_5_1_1_3_0]
  · refine (decodeWord_unit1 none md h (0x7#5 ++ 1#2 ++ c ++ q ++ a ++ p ++ e ++ hist)).trans ?_
    unfold decodeAC
    rw [show (mkWord 1#3 h (0x7#5 ++ 1#2 ++ c ++ q ++ a ++ p ++ e ++ hist)).fld 15 7 = 0x1D#7 from op_of_5_2_3_2_5_1_1_3 ..]
    refine (if_pos (unused_39 ..)).trans ?_
    rw [field_of_5_2_3_2_5_1_1_3_15, field_of_5_2_3_2_5_1_1_3_12, field_of_5_2_3_2_5_1_1_3_10, field_of_5_2_3_2_5_1_1_3_5, field_of_5_2_3_2_5_1_1_3_4, field_of_5_2_3_2_5_1_1_3_3, field_of_5_2_3_2_5_1_1_3_0]
  · refine (decodeWord_unit1 none md h (0x7#5 ++ 2#2 ++ c ++ q ++ a ++ p ++ e ++ hist)).trans ?_
    unfold decodeAC
    rw [show (mkWord 1#3 h (0x7#5 ++ 2#2 ++ c ++ q ++ a ++ p ++ e ++ hist)).fld 15 7 = 0x1E#7 from op_of_5_2_3_2_5_1_1_3 ..]
    refine (if_pos (unused_39 ..)).trans ?_
    rw [field_of_5_2_3_2_5_1_1_3_15, field_of_5_2_3_2_5_1_1_3_12, field_of_5_2_3_2_5_1_1_3_10, field_of_5_2_3_2_5_1_1_3_5, field_of_5_2_3_2_5_1_1_3_4, field_of_5_2_3_2_5_1_1_3_3, field_of_5_2_3_2_5_1_1_3_0]
  · refine (decodeWord_unit1 none md h (0x7#5 ++ 3#2 ++ c ++ q ++ a ++ p ++ e ++ hist)).trans ?_
    unfold decodeAC
    rw [show (mkWord 1#3 h (0x7#5 ++ 3#2 ++ c ++ q ++ a ++ p ++ e ++ hist)).fld 15 7 = 0x1F#7 from op_of_5_2_3_2_5_1_1_3 ..]
    refine (if_pos (unused_39 ..)).trans ?_
    rw [field_of_5_2_3_2_5_1_1_3_15, field_of_5_2_3_2_5_1_1_3_12, field_of_5_2_3_2_5_1_1_3_10, field_of_5_2_3_2_5_1_1_3_5, field_of_5_2_3_2_5_1_1_3_4, field_of_5_2_3_2_5_1_1_3_3, field_of_5_2_3_2_5_1_1_3_0]

theorem Sys2Proof.Laws.Encoding.ldm (h : Hdr) (m : BitVec 1) (a b : BitVec 5) :
    Statement (.ldm h m a b) := by
  refine (decodeWord_unit1 none none h (0x200#11 ++ m ++ a ++ b)).trans ?_
  unfold decodeAC
  rw [show (mkWord 1#3 h (0x200#11 ++ m ++ a ++ b)).fld 15 7 = 0x20#7 from op_of_11_1_5_5 ..]
  refine (if_pos (unused_40 ..)).trans ?_
  rw [field_of_11_1_5_5_10, field_of_11_1_5_5_5, field_of_11_1_5_5_0]

theorem Sys2Proof.Laws.Encoding.stm (h : Hdr) (m : BitVec 1) (a b : BitVec 5) :
    Statement (.stm h m a b) := by
  refine (decodeWord_unit1 none none h (0x210#11 ++ m ++ a ++ b)).trans ?_
  unfold decodeAC
  rw [show (mkWord 1#3 h (0x210#11 ++ m ++ a ++ b)).fld 15 7 = 0x21#7 from op_of_11_1_5_5 ..]
  refine (if_pos (unused_41 ..)).trans ?_
  rw [field_of_11_1_5_5_10, field_of_11_1_5_5_5, field_of_11_1_5_5_0]

theorem Sys2Proof.Laws.Encoding.rmerge (h : Hdr) (q : BitVec 2) (a : BitVec 5) :
    Statement (.rmerge h q a) := by
  refine (decodeWord_unit1 none none h (0x110#10 ++ q ++ a ++ 0x0#5)).trans ?_
  unfold decodeAC
  rw [show (mkWord 1#3 h (0x110#10 ++ q ++ a ++ 0x0#5)).fld 15 7 = 0x22#7 from op_of_10_2_5_5 ..]
  refine (if_pos (unused_42 ..)).trans ?_
  rw [field_of_10_2_5_5_10, field_of_10_2_5_5_5]

theorem Sys2Proof.Laws.Encoding.mbput (h : Hdr) (m : BitVec 1) (a b : BitVec 5) :
    Statement (.mbput h m a b) := by
  refine (decodeWord_unit1 none none h (0x230#11 ++ m ++ a ++ b)).trans ?_
  unfold decodeAC
  rw [show (mkWord 1#3 h (0x230#11 ++ m ++ a ++ b)).fld 15 7 = 0x23#7 from op_of_11_1_5_5 ..]
  refine (if_pos (unused_43 ..)).trans ?_
  rw [field_of_11_1_5_5_10, field_of_11_1_5_5_5, field_of_11_1_5_5_0]

theorem Sys2Proof.Laws.Encoding.mbget (h : Hdr) (d : BitVec 5) (m : BitVec 1) (b : BitVec 5) :
    Statement (.mbget h d m b) := by
  refine (decodeWord_unit1 none none h (0x24#7 ++ d ++ 0x0#4 ++ m ++ b)).trans ?_
  unfold decodeAC
  rw [op_of_7_5_4_1_5]
  refine (if_pos (unused_44 ..)).trans ?_
  rw [field_of_7_5_4_1_5_10, field_of_7_5_4_1_5_5, field_of_7_5_4_1_5_0]

theorem Sys2Proof.Laws.Encoding.ldg (h : Hdr) (q : BitVec 2) (a b : BitVec 5) :
    Statement (.ldg h q a b) := by
  refine (decodeWord_unit1 none none h (0x140#10 ++ q ++ a ++ b)).trans ?_
  unfold decodeAC
  rw [show (mkWord 1#3 h (0x140#10 ++ q ++ a ++ b)).fld 15 7 = 0x28#7 from op_of_10_2_5_5 ..]
  refine (if_pos (unused_45 ..)).trans ?_
  rw [field_of_10_2_5_5_10, field_of_10_2_5_5_5, field_of_10_2_5_5_0]

theorem Sys2Proof.Laws.Encoding.stg (h : Hdr) (q : BitVec 2) (a b : BitVec 5) :
    Statement (.stg h q a b) := by
  refine (decodeWord_unit1 none none h (0x148#10 ++ q ++ a ++ b)).trans ?_
  unfold decodeAC
  rw [show (mkWord 1#3 h (0x148#10 ++ q ++ a ++ b)).fld 15 7 = 0x29#7 from op_of_10_2_5_5 ..]
  refine (if_pos (unused_46 ..)).trans ?_
  rw [field_of_10_2_5_5_10, field_of_10_2_5_5_5, field_of_10_2_5_5_0]

theorem Sys2Proof.Laws.Encoding.ldgx (h : Hdr) (md : Option ModF) (c : BitVec 3) (q : BitVec 2) (a b : BitVec 5) :
    Statement (.ldgx h md c q a b) := by
  refine (decodeWord_unit1 none md h (0x2A#7 ++ c ++ q ++ a ++ b)).trans ?_
  unfold decodeAC
  rw [op_of_7_3_2_5_5]
  refine (if_pos (unused_36 ..)).trans ?_
  rw [field_of_7_3_2_5_5_12, field_of_7_3_2_5_5_10, field_of_7_3_2_5_5_5, field_of_7_3_2_5_5_0]

theorem Sys2Proof.Laws.Encoding.stgx (h : Hdr) (md : Option ModF) (c : BitVec 3) (q : BitVec 2) (a b : BitVec 5) :
    Statement (.stgx h md c q a b) := by
  refine (decodeWord_unit1 none md h (0x2B#7 ++ c ++ q ++ a ++ b)).trans ?_
  unfold decodeAC
  rw [op_of_7_3_2_5_5]
  refine (if_pos (unused_36 ..)).trans ?_
  rw [field_of_7_3_2_5_5_12, field_of_7_3_2_5_5_10, field_of_7_3_2_5_5_5, field_of_7_3_2_5_5_0]

theorem Sys2Proof.Laws.Encoding.pfg (h : Hdr) (a b : BitVec 5) :
    Statement (.pfg h a b) := by
  refine (decodeWord_unit1 none none h (0x580#12 ++ a ++ b)).trans ?_
  unfold decodeAC
  rw [show (mkWord 1#3 h (0x580#12 ++ a ++ b)).fld 15 7 = 0x2C#7 from op_of_12_5_5 ..]
  refine (if_pos (unused_47 ..)).trans ?_
  rw [field_of_12_5_5_5, field_of_12_5_5_0]

theorem Sys2Proof.Laws.Encoding.ldl (h : Hdr) (q : BitVec 2) (a b : BitVec 5) :
    Statement (.ldl h q a b) := by
  refine (decodeWord_unit1 none none h (0x180#10 ++ q ++ a ++ b)).trans ?_
  unfold decodeAC
  rw [show (mkWord 1#3 h (0x180#10 ++ q ++ a ++ b)).fld 15 7 = 0x30#7 from op_of_10_2_5_5 ..]
  refine (if_pos (unused_48 ..)).trans ?_
  rw [field_of_10_2_5_5_10, field_of_10_2_5_5_5, field_of_10_2_5_5_0]

theorem Sys2Proof.Laws.Encoding.stu (h : Hdr) (q : BitVec 2) (a b : BitVec 5) :
    Statement (.stu h q a b) := by
  refine (decodeWord_unit1 none none h (0x188#10 ++ q ++ a ++ b)).trans ?_
  unfold decodeAC
  rw [show (mkWord 1#3 h (0x188#10 ++ q ++ a ++ b)).fld 15 7 = 0x31#7 from op_of_10_2_5_5 ..]
  refine (if_pos (unused_49 ..)).trans ?_
  rw [field_of_10_2_5_5_10, field_of_10_2_5_5_5, field_of_10_2_5_5_0]

theorem Sys2Proof.Laws.Encoding.atomg (h : Hdr) (o : BitVec 3) (z : BitVec 1) (r c : BitVec 2) (s : BitVec 4) (x : BitVec 3) :
    Statement (.atomg h o z r c s x) := by
  refine (decodeWord_unit1 none none h (0x32#7 ++ o ++ z ++ r ++ c ++ s ++ x)).trans ?_
  unfold decodeAC
  rw [op_of_7_3_1_2_2_4_3]
  refine (if_pos (unused_50 ..)).trans ?_
  rw [field_of_7_3_1_2_2_4_3_12, field_of_7_3_1_2_2_4_3_11, field_of_7_3_1_2_2_4_3_9, field_of_7_3_1_2_2_4_3_7, field_of_7_3_1_2_2_4_3_3, field_of_7_3_1_2_2_4_3_0]

theorem Sys2Proof.Laws.Encoding.casg (h : Hdr) (z : BitVec 1) (r c : BitVec 2) (s : BitVec 4) (x : BitVec 3) :
    Statement (.casg h z r c s x) := by
  refine (decodeWord_unit1 none none h (0x198#10 ++ z ++ r ++ c ++ s ++ x)).trans ?_
  unfold decodeAC
  rw [show (mkWord 1#3 h (0x198#10 ++ z ++ r ++ c ++ s ++ x)).fld 15 7 = 0x33#7 from op_of_10_1_2_2_4_3 ..]
  refine (if_pos (unused_51 ..)).trans ?_
  rw [field_of_10_1_2_2_4_3_11, field_of_10_1_2_2_4_3_9, field_of_10_1_2_2_4_3_7, field_of_10_1_2_2_4_3_3, field_of_10_1_2_2_4_3_0]

theorem Sys2Proof.Laws.Encoding.fadd (h : Hdr) (md : Option ModF) (r : BitVec 2) (d a b : BitVec 5) :
    Statement (.fadd h md r d a b) := by
  have hr : r = 0#2 ∨ r = 1#2 ∨ r = 2#2 ∨ r = 3#2 := by revert r; decide
  rcases hr with rfl | rfl | rfl | rfl
  · refine (decodeWord_unit2 none md h (0x0#5 ++ 0#2 ++ d ++ a ++ b)).trans ?_
    unfold decodeVE
    rw [show (mkWord 2#3 h (0x0#5 ++ 0#2 ++ d ++ a ++ b)).fld 15 7 = 0x0#7 from op_of_5_2_5_5_5 ..]
    refine (if_pos (unused_52 ..)).trans ?_
    rw [field_of_5_2_5_5_5_15, field_of_5_2_5_5_5_10, field_of_5_2_5_5_5_5, field_of_5_2_5_5_5_0]
  · refine (decodeWord_unit2 none md h (0x0#5 ++ 1#2 ++ d ++ a ++ b)).trans ?_
    unfold decodeVE
    rw [show (mkWord 2#3 h (0x0#5 ++ 1#2 ++ d ++ a ++ b)).fld 15 7 = 0x1#7 from op_of_5_2_5_5_5 ..]
    refine (if_pos (unused_52 ..)).trans ?_
    rw [field_of_5_2_5_5_5_15, field_of_5_2_5_5_5_10, field_of_5_2_5_5_5_5, field_of_5_2_5_5_5_0]
  · refine (decodeWord_unit2 none md h (0x0#5 ++ 2#2 ++ d ++ a ++ b)).trans ?_
    unfold decodeVE
    rw [show (mkWord 2#3 h (0x0#5 ++ 2#2 ++ d ++ a ++ b)).fld 15 7 = 0x2#7 from op_of_5_2_5_5_5 ..]
    refine (if_pos (unused_52 ..)).trans ?_
    rw [field_of_5_2_5_5_5_15, field_of_5_2_5_5_5_10, field_of_5_2_5_5_5_5, field_of_5_2_5_5_5_0]
  · refine (decodeWord_unit2 none md h (0x0#5 ++ 3#2 ++ d ++ a ++ b)).trans ?_
    unfold decodeVE
    rw [show (mkWord 2#3 h (0x0#5 ++ 3#2 ++ d ++ a ++ b)).fld 15 7 = 0x3#7 from op_of_5_2_5_5_5 ..]
    refine (if_pos (unused_52 ..)).trans ?_
    rw [field_of_5_2_5_5_5_15, field_of_5_2_5_5_5_10, field_of_5_2_5_5_5_5, field_of_5_2_5_5_5_0]

theorem Sys2Proof.Laws.Encoding.fsub (h : Hdr) (md : Option ModF) (r : BitVec 2) (d a b : BitVec 5) :
    Statement (.fsub h md r d a b) := by
  have hr : r = 0#2 ∨ r = 1#2 ∨ r = 2#2 ∨ r = 3#2 := by revert r; decide
  rcases hr with rfl | rfl | rfl | rfl
  · refine (decodeWord_unit2 none md h (0x1#5 ++ 0#2 ++ d ++ a ++ b)).trans ?_
    unfold decodeVE
    rw [show (mkWord 2#3 h (0x1#5 ++ 0#2 ++ d ++ a ++ b)).fld 15 7 = 0x4#7 from op_of_5_2_5_5_5 ..]
    refine (if_pos (unused_52 ..)).trans ?_
    rw [field_of_5_2_5_5_5_15, field_of_5_2_5_5_5_10, field_of_5_2_5_5_5_5, field_of_5_2_5_5_5_0]
  · refine (decodeWord_unit2 none md h (0x1#5 ++ 1#2 ++ d ++ a ++ b)).trans ?_
    unfold decodeVE
    rw [show (mkWord 2#3 h (0x1#5 ++ 1#2 ++ d ++ a ++ b)).fld 15 7 = 0x5#7 from op_of_5_2_5_5_5 ..]
    refine (if_pos (unused_52 ..)).trans ?_
    rw [field_of_5_2_5_5_5_15, field_of_5_2_5_5_5_10, field_of_5_2_5_5_5_5, field_of_5_2_5_5_5_0]
  · refine (decodeWord_unit2 none md h (0x1#5 ++ 2#2 ++ d ++ a ++ b)).trans ?_
    unfold decodeVE
    rw [show (mkWord 2#3 h (0x1#5 ++ 2#2 ++ d ++ a ++ b)).fld 15 7 = 0x6#7 from op_of_5_2_5_5_5 ..]
    refine (if_pos (unused_52 ..)).trans ?_
    rw [field_of_5_2_5_5_5_15, field_of_5_2_5_5_5_10, field_of_5_2_5_5_5_5, field_of_5_2_5_5_5_0]
  · refine (decodeWord_unit2 none md h (0x1#5 ++ 3#2 ++ d ++ a ++ b)).trans ?_
    unfold decodeVE
    rw [show (mkWord 2#3 h (0x1#5 ++ 3#2 ++ d ++ a ++ b)).fld 15 7 = 0x7#7 from op_of_5_2_5_5_5 ..]
    refine (if_pos (unused_52 ..)).trans ?_
    rw [field_of_5_2_5_5_5_15, field_of_5_2_5_5_5_10, field_of_5_2_5_5_5_5, field_of_5_2_5_5_5_0]

theorem Sys2Proof.Laws.Encoding.fmul (h : Hdr) (md : Option ModF) (r : BitVec 2) (d a b : BitVec 5) :
    Statement (.fmul h md r d a b) := by
  have hr : r = 0#2 ∨ r = 1#2 ∨ r = 2#2 ∨ r = 3#2 := by revert r; decide
  rcases hr with rfl | rfl | rfl | rfl
  · refine (decodeWord_unit2 none md h (0x2#5 ++ 0#2 ++ d ++ a ++ b)).trans ?_
    unfold decodeVE
    rw [show (mkWord 2#3 h (0x2#5 ++ 0#2 ++ d ++ a ++ b)).fld 15 7 = 0x8#7 from op_of_5_2_5_5_5 ..]
    refine (if_pos (unused_52 ..)).trans ?_
    rw [field_of_5_2_5_5_5_15, field_of_5_2_5_5_5_10, field_of_5_2_5_5_5_5, field_of_5_2_5_5_5_0]
  · refine (decodeWord_unit2 none md h (0x2#5 ++ 1#2 ++ d ++ a ++ b)).trans ?_
    unfold decodeVE
    rw [show (mkWord 2#3 h (0x2#5 ++ 1#2 ++ d ++ a ++ b)).fld 15 7 = 0x9#7 from op_of_5_2_5_5_5 ..]
    refine (if_pos (unused_52 ..)).trans ?_
    rw [field_of_5_2_5_5_5_15, field_of_5_2_5_5_5_10, field_of_5_2_5_5_5_5, field_of_5_2_5_5_5_0]
  · refine (decodeWord_unit2 none md h (0x2#5 ++ 2#2 ++ d ++ a ++ b)).trans ?_
    unfold decodeVE
    rw [show (mkWord 2#3 h (0x2#5 ++ 2#2 ++ d ++ a ++ b)).fld 15 7 = 0xA#7 from op_of_5_2_5_5_5 ..]
    refine (if_pos (unused_52 ..)).trans ?_
    rw [field_of_5_2_5_5_5_15, field_of_5_2_5_5_5_10, field_of_5_2_5_5_5_5, field_of_5_2_5_5_5_0]
  · refine (decodeWord_unit2 none md h (0x2#5 ++ 3#2 ++ d ++ a ++ b)).trans ?_
    unfold decodeVE
    rw [show (mkWord 2#3 h (0x2#5 ++ 3#2 ++ d ++ a ++ b)).fld 15 7 = 0xB#7 from op_of_5_2_5_5_5 ..]
    refine (if_pos (unused_52 ..)).trans ?_
    rw [field_of_5_2_5_5_5_15, field_of_5_2_5_5_5_10, field_of_5_2_5_5_5_5, field_of_5_2_5_5_5_0]

theorem Sys2Proof.Laws.Encoding.fma (h : Hdr) (md : Option ModF) (r : BitVec 2) (d a b : BitVec 5) :
    Statement (.fma h md r d a b) := by
  have hr : r = 0#2 ∨ r = 1#2 ∨ r = 2#2 ∨ r = 3#2 := by revert r; decide
  rcases hr with rfl | rfl | rfl | rfl
  · refine (decodeWord_unit2 none md h (0x3#5 ++ 0#2 ++ d ++ a ++ b)).trans ?_
    unfold decodeVE
    rw [show (mkWord 2#3 h (0x3#5 ++ 0#2 ++ d ++ a ++ b)).fld 15 7 = 0xC#7 from op_of_5_2_5_5_5 ..]
    refine (if_pos (unused_52 ..)).trans ?_
    rw [field_of_5_2_5_5_5_15, field_of_5_2_5_5_5_10, field_of_5_2_5_5_5_5, field_of_5_2_5_5_5_0]
  · refine (decodeWord_unit2 none md h (0x3#5 ++ 1#2 ++ d ++ a ++ b)).trans ?_
    unfold decodeVE
    rw [show (mkWord 2#3 h (0x3#5 ++ 1#2 ++ d ++ a ++ b)).fld 15 7 = 0xD#7 from op_of_5_2_5_5_5 ..]
    refine (if_pos (unused_52 ..)).trans ?_
    rw [field_of_5_2_5_5_5_15, field_of_5_2_5_5_5_10, field_of_5_2_5_5_5_5, field_of_5_2_5_5_5_0]
  · refine (decodeWord_unit2 none md h (0x3#5 ++ 2#2 ++ d ++ a ++ b)).trans ?_
    unfold decodeVE
    rw [show (mkWord 2#3 h (0x3#5 ++ 2#2 ++ d ++ a ++ b)).fld 15 7 = 0xE#7 from op_of_5_2_5_5_5 ..]
    refine (if_pos (unused_52 ..)).trans ?_
    rw [field_of_5_2_5_5_5_15, field_of_5_2_5_5_5_10, field_of_5_2_5_5_5_5, field_of_5_2_5_5_5_0]
  · refine (decodeWord_unit2 none md h (0x3#5 ++ 3#2 ++ d ++ a ++ b)).trans ?_
    unfold decodeVE
    rw [show (mkWord 2#3 h (0x3#5 ++ 3#2 ++ d ++ a ++ b)).fld 15 7 = 0xF#7 from op_of_5_2_5_5_5 ..]
    refine (if_pos (unused_52 ..)).trans ?_
    rw [field_of_5_2_5_5_5_15, field_of_5_2_5_5_5_10, field_of_5_2_5_5_5_5, field_of_5_2_5_5_5_0]

theorem Sys2Proof.Laws.Encoding.fms (h : Hdr) (md : Option ModF) (r : BitVec 2) (d a b : BitVec 5) :
    Statement (.fms h md r d a b) := by
  have hr : r = 0#2 ∨ r = 1#2 ∨ r = 2#2 ∨ r = 3#2 := by revert r; decide
  rcases hr with rfl | rfl | rfl | rfl
  · refine (decodeWord_unit2 none md h (0x4#5 ++ 0#2 ++ d ++ a ++ b)).trans ?_
    unfold decodeVE
    rw [show (mkWord 2#3 h (0x4#5 ++ 0#2 ++ d ++ a ++ b)).fld 15 7 = 0x10#7 from op_of_5_2_5_5_5 ..]
    refine (if_pos (unused_52 ..)).trans ?_
    rw [field_of_5_2_5_5_5_15, field_of_5_2_5_5_5_10, field_of_5_2_5_5_5_5, field_of_5_2_5_5_5_0]
  · refine (decodeWord_unit2 none md h (0x4#5 ++ 1#2 ++ d ++ a ++ b)).trans ?_
    unfold decodeVE
    rw [show (mkWord 2#3 h (0x4#5 ++ 1#2 ++ d ++ a ++ b)).fld 15 7 = 0x11#7 from op_of_5_2_5_5_5 ..]
    refine (if_pos (unused_52 ..)).trans ?_
    rw [field_of_5_2_5_5_5_15, field_of_5_2_5_5_5_10, field_of_5_2_5_5_5_5, field_of_5_2_5_5_5_0]
  · refine (decodeWord_unit2 none md h (0x4#5 ++ 2#2 ++ d ++ a ++ b)).trans ?_
    unfold decodeVE
    rw [show (mkWord 2#3 h (0x4#5 ++ 2#2 ++ d ++ a ++ b)).fld 15 7 = 0x12#7 from op_of_5_2_5_5_5 ..]
    refine (if_pos (unused_52 ..)).trans ?_
    rw [field_of_5_2_5_5_5_15, field_of_5_2_5_5_5_10, field_of_5_2_5_5_5_5, field_of_5_2_5_5_5_0]
  · refine (decodeWord_unit2 none md h (0x4#5 ++ 3#2 ++ d ++ a ++ b)).trans ?_
    unfold decodeVE
    rw [show (mkWord 2#3 h (0x4#5 ++ 3#2 ++ d ++ a ++ b)).fld 15 7 = 0x13#7 from op_of_5_2_5_5_5 ..]
    refine (if_pos (unused_52 ..)).trans ?_
    rw [field_of_5_2_5_5_5_15, field_of_5_2_5_5_5_10, field_of_5_2_5_5_5_5, field_of_5_2_5_5_5_0]

theorem Sys2Proof.Laws.Encoding.fnma (h : Hdr) (md : Option ModF) (r : BitVec 2) (d a b : BitVec 5) :
    Statement (.fnma h md r d a b) := by
  have hr : r = 0#2 ∨ r = 1#2 ∨ r = 2#2 ∨ r = 3#2 := by revert r; decide
  rcases hr with rfl | rfl | rfl | rfl
  · refine (decodeWord_unit2 none md h (0x5#5 ++ 0#2 ++ d ++ a ++ b)).trans ?_
    unfold decodeVE
    rw [show (mkWord 2#3 h (0x5#5 ++ 0#2 ++ d ++ a ++ b)).fld 15 7 = 0x14#7 from op_of_5_2_5_5_5 ..]
    refine (if_pos (unused_52 ..)).trans ?_
    rw [field_of_5_2_5_5_5_15, field_of_5_2_5_5_5_10, field_of_5_2_5_5_5_5, field_of_5_2_5_5_5_0]
  · refine (decodeWord_unit2 none md h (0x5#5 ++ 1#2 ++ d ++ a ++ b)).trans ?_
    unfold decodeVE
    rw [show (mkWord 2#3 h (0x5#5 ++ 1#2 ++ d ++ a ++ b)).fld 15 7 = 0x15#7 from op_of_5_2_5_5_5 ..]
    refine (if_pos (unused_52 ..)).trans ?_
    rw [field_of_5_2_5_5_5_15, field_of_5_2_5_5_5_10, field_of_5_2_5_5_5_5, field_of_5_2_5_5_5_0]
  · refine (decodeWord_unit2 none md h (0x5#5 ++ 2#2 ++ d ++ a ++ b)).trans ?_
    unfold decodeVE
    rw [show (mkWord 2#3 h (0x5#5 ++ 2#2 ++ d ++ a ++ b)).fld 15 7 = 0x16#7 from op_of_5_2_5_5_5 ..]
    refine (if_pos (unused_52 ..)).trans ?_
    rw [field_of_5_2_5_5_5_15, field_of_5_2_5_5_5_10, field_of_5_2_5_5_5_5, field_of_5_2_5_5_5_0]
  · refine (decodeWord_unit2 none md h (0x5#5 ++ 3#2 ++ d ++ a ++ b)).trans ?_
    unfold decodeVE
    rw [show (mkWord 2#3 h (0x5#5 ++ 3#2 ++ d ++ a ++ b)).fld 15 7 = 0x17#7 from op_of_5_2_5_5_5 ..]
    refine (if_pos (unused_52 ..)).trans ?_
    rw [field_of_5_2_5_5_5_15, field_of_5_2_5_5_5_10, field_of_5_2_5_5_5_5, field_of_5_2_5_5_5_0]

theorem Sys2Proof.Laws.Encoding.fdiv (h : Hdr) (md : Option ModF) (r : BitVec 2) (d a b : BitVec 5) :
    Statement (.fdiv h md r d a b) := by
  have hr : r = 0#2 ∨ r = 1#2 ∨ r = 2#2 ∨ r = 3#2 := by revert r; decide
  rcases hr with rfl | rfl | rfl | rfl
  · refine (decodeWord_unit2 none md h (0x6#5 ++ 0#2 ++ d ++ a ++ b)).trans ?_
    unfold decodeVE
    rw [show (mkWord 2#3 h (0x6#5 ++ 0#2 ++ d ++ a ++ b)).fld 15 7 = 0x18#7 from op_of_5_2_5_5_5 ..]
    refine (if_pos (unused_52 ..)).trans ?_
    rw [field_of_5_2_5_5_5_15, field_of_5_2_5_5_5_10, field_of_5_2_5_5_5_5, field_of_5_2_5_5_5_0]
  · refine (decodeWord_unit2 none md h (0x6#5 ++ 1#2 ++ d ++ a ++ b)).trans ?_
    unfold decodeVE
    rw [show (mkWord 2#3 h (0x6#5 ++ 1#2 ++ d ++ a ++ b)).fld 15 7 = 0x19#7 from op_of_5_2_5_5_5 ..]
    refine (if_pos (unused_52 ..)).trans ?_
    rw [field_of_5_2_5_5_5_15, field_of_5_2_5_5_5_10, field_of_5_2_5_5_5_5, field_of_5_2_5_5_5_0]
  · refine (decodeWord_unit2 none md h (0x6#5 ++ 2#2 ++ d ++ a ++ b)).trans ?_
    unfold decodeVE
    rw [show (mkWord 2#3 h (0x6#5 ++ 2#2 ++ d ++ a ++ b)).fld 15 7 = 0x1A#7 from op_of_5_2_5_5_5 ..]
    refine (if_pos (unused_52 ..)).trans ?_
    rw [field_of_5_2_5_5_5_15, field_of_5_2_5_5_5_10, field_of_5_2_5_5_5_5, field_of_5_2_5_5_5_0]
  · refine (decodeWord_unit2 none md h (0x6#5 ++ 3#2 ++ d ++ a ++ b)).trans ?_
    unfold decodeVE
    rw [show (mkWord 2#3 h (0x6#5 ++ 3#2 ++ d ++ a ++ b)).fld 15 7 = 0x1B#7 from op_of_5_2_5_5_5 ..]
    refine (if_pos (unused_52 ..)).trans ?_
    rw [field_of_5_2_5_5_5_15, field_of_5_2_5_5_5_10, field_of_5_2_5_5_5_5, field_of_5_2_5_5_5_0]

theorem Sys2Proof.Laws.Encoding.fsqrt (h : Hdr) (md : Option ModF) (r : BitVec 2) (d a : BitVec 5) :
    Statement (.fsqrt h md r d a) := by
  have hr : r = 0#2 ∨ r = 1#2 ∨ r = 2#2 ∨ r = 3#2 := by revert r; decide
  rcases hr with rfl | rfl | rfl | rfl
  · refine (decodeWord_unit2 none md h (0x7#5 ++ 0#2 ++ d ++ a ++ 0x0#5)).trans ?_
    unfold decodeVE
    rw [show (mkWord 2#3 h (0x7#5 ++ 0#2 ++ d ++ a ++ 0x0#5)).fld 15 7 = 0x1C#7 from op_of_5_2_5_5_5 ..]
    refine (if_pos (unused_53 ..)).trans ?_
    rw [field_of_5_2_5_5_5_15, field_of_5_2_5_5_5_10, field_of_5_2_5_5_5_5]
  · refine (decodeWord_unit2 none md h (0x7#5 ++ 1#2 ++ d ++ a ++ 0x0#5)).trans ?_
    unfold decodeVE
    rw [show (mkWord 2#3 h (0x7#5 ++ 1#2 ++ d ++ a ++ 0x0#5)).fld 15 7 = 0x1D#7 from op_of_5_2_5_5_5 ..]
    refine (if_pos (unused_53 ..)).trans ?_
    rw [field_of_5_2_5_5_5_15, field_of_5_2_5_5_5_10, field_of_5_2_5_5_5_5]
  · refine (decodeWord_unit2 none md h (0x7#5 ++ 2#2 ++ d ++ a ++ 0x0#5)).trans ?_
    unfold decodeVE
    rw [show (mkWord 2#3 h (0x7#5 ++ 2#2 ++ d ++ a ++ 0x0#5)).fld 15 7 = 0x1E#7 from op_of_5_2_5_5_5 ..]
    refine (if_pos (unused_53 ..)).trans ?_
    rw [field_of_5_2_5_5_5_15, field_of_5_2_5_5_5_10, field_of_5_2_5_5_5_5]
  · refine (decodeWord_unit2 none md h (0x7#5 ++ 3#2 ++ d ++ a ++ 0x0#5)).trans ?_
    unfold decodeVE
    rw [show (mkWord 2#3 h (0x7#5 ++ 3#2 ++ d ++ a ++ 0x0#5)).fld 15 7 = 0x1F#7 from op_of_5_2_5_5_5 ..]
    refine (if_pos (unused_53 ..)).trans ?_
    rw [field_of_5_2_5_5_5_15, field_of_5_2_5_5_5_10, field_of_5_2_5_5_5_5]

theorem Sys2Proof.Laws.Encoding.fcvt (h : Hdr) (md : Option ModF) (r : BitVec 2) (d a : BitVec 5) :
    Statement (.fcvt h md r d a) := by
  have hr : r = 0#2 ∨ r = 1#2 ∨ r = 2#2 ∨ r = 3#2 := by revert r; decide
  rcases hr with rfl | rfl | rfl | rfl
  · refine (decodeWord_unit2 none md h (0x8#5 ++ 0#2 ++ d ++ a ++ 0x0#5)).trans ?_
    unfold decodeVE
    rw [show (mkWord 2#3 h (0x8#5 ++ 0#2 ++ d ++ a ++ 0x0#5)).fld 15 7 = 0x20#7 from op_of_5_2_5_5_5 ..]
    refine (if_pos (unused_53 ..)).trans ?_
    rw [field_of_5_2_5_5_5_15, field_of_5_2_5_5_5_10, field_of_5_2_5_5_5_5]
  · refine (decodeWord_unit2 none md h (0x8#5 ++ 1#2 ++ d ++ a ++ 0x0#5)).trans ?_
    unfold decodeVE
    rw [show (mkWord 2#3 h (0x8#5 ++ 1#2 ++ d ++ a ++ 0x0#5)).fld 15 7 = 0x21#7 from op_of_5_2_5_5_5 ..]
    refine (if_pos (unused_53 ..)).trans ?_
    rw [field_of_5_2_5_5_5_15, field_of_5_2_5_5_5_10, field_of_5_2_5_5_5_5]
  · refine (decodeWord_unit2 none md h (0x8#5 ++ 2#2 ++ d ++ a ++ 0x0#5)).trans ?_
    unfold decodeVE
    rw [show (mkWord 2#3 h (0x8#5 ++ 2#2 ++ d ++ a ++ 0x0#5)).fld 15 7 = 0x22#7 from op_of_5_2_5_5_5 ..]
    refine (if_pos (unused_53 ..)).trans ?_
    rw [field_of_5_2_5_5_5_15, field_of_5_2_5_5_5_10, field_of_5_2_5_5_5_5]
  · refine (decodeWord_unit2 none md h (0x8#5 ++ 3#2 ++ d ++ a ++ 0x0#5)).trans ?_
    unfold decodeVE
    rw [show (mkWord 2#3 h (0x8#5 ++ 3#2 ++ d ++ a ++ 0x0#5)).fld 15 7 = 0x23#7 from op_of_5_2_5_5_5 ..]
    refine (if_pos (unused_53 ..)).trans ?_
    rw [field_of_5_2_5_5_5_15, field_of_5_2_5_5_5_10, field_of_5_2_5_5_5_5]

theorem Sys2Proof.Laws.Encoding.fmin (h : Hdr) (md : Option ModF) (d a b : BitVec 5) :
    Statement (.fmin h md d a b) := by
  refine (decodeWord_unit2 none md h (0x24#7 ++ d ++ a ++ b)).trans ?_
  unfold decodeVE
  rw [op_of_7_5_5_5]
  refine (if_pos (unused_1 ..)).trans ?_
  rw [field_of_7_5_5_5_10, field_of_7_5_5_5_5, field_of_7_5_5_5_0]

theorem Sys2Proof.Laws.Encoding.fmax (h : Hdr) (md : Option ModF) (d a b : BitVec 5) :
    Statement (.fmax h md d a b) := by
  refine (decodeWord_unit2 none md h (0x25#7 ++ d ++ a ++ b)).trans ?_
  unfold decodeVE
  rw [op_of_7_5_5_5]
  refine (if_pos (unused_1 ..)).trans ?_
  rw [field_of_7_5_5_5_10, field_of_7_5_5_5_5, field_of_7_5_5_5_0]

theorem Sys2Proof.Laws.Encoding.fabs (h : Hdr) (md : Option ModF) (d a : BitVec 5) :
    Statement (.fabs h md d a) := by
  refine (decodeWord_unit2 none md h (0x26#7 ++ d ++ a ++ 0x0#5)).trans ?_
  unfold decodeVE
  rw [op_of_7_5_5_5]
  refine (if_pos (unused_2 ..)).trans ?_
  rw [field_of_7_5_5_5_10, field_of_7_5_5_5_5]

theorem Sys2Proof.Laws.Encoding.fneg (h : Hdr) (md : Option ModF) (d a : BitVec 5) :
    Statement (.fneg h md d a) := by
  refine (decodeWord_unit2 none md h (0x27#7 ++ d ++ a ++ 0x0#5)).trans ?_
  unfold decodeVE
  rw [op_of_7_5_5_5]
  refine (if_pos (unused_2 ..)).trans ?_
  rw [field_of_7_5_5_5_10, field_of_7_5_5_5_5]

theorem Sys2Proof.Laws.Encoding.fcmpeq (h : Hdr) (md : Option ModF) (k : BitVec 3) (a b : BitVec 5) :
    Statement (.fcmpeq h md k a b) := by
  refine (decodeWord_unit2 none md h (0xA0#9 ++ k ++ a ++ b)).trans ?_
  unfold decodeVE
  rw [show (mkWord 2#3 h (0xA0#9 ++ k ++ a ++ b)).fld 15 7 = 0x28#7 from op_of_9_3_5_5 ..]
  refine (if_pos (unused_11 ..)).trans ?_
  rw [field_of_9_3_5_5_10, field_of_9_3_5_5_5, field_of_9_3_5_5_0]

theorem Sys2Proof.Laws.Encoding.fcmplt (h : Hdr) (md : Option ModF) (k : BitVec 3) (a b : BitVec 5) :
    Statement (.fcmplt h md k a b) := by
  refine (decodeWord_unit2 none md h (0xA4#9 ++ k ++ a ++ b)).trans ?_
  unfold decodeVE
  rw [show (mkWord 2#3 h (0xA4#9 ++ k ++ a ++ b)).fld 15 7 = 0x29#7 from op_of_9_3_5_5 ..]
  refine (if_pos (unused_54 ..)).trans ?_
  rw [field_of_9_3_5_5_10, field_of_9_3_5_5_5, field_of_9_3_5_5_0]

theorem Sys2Proof.Laws.Encoding.fcmple (h : Hdr) (md : Option ModF) (k : BitVec 3) (a b : BitVec 5) :
    Statement (.fcmple h md k a b) := by
  refine (decodeWord_unit2 none md h (0xA8#9 ++ k ++ a ++ b)).trans ?_
  unfold decodeVE
  rw [show (mkWord 2#3 h (0xA8#9 ++ k ++ a ++ b)).fld 15 7 = 0x2A#7 from op_of_9_3_5_5 ..]
  refine (if_pos (unused_55 ..)).trans ?_
  rw [field_of_9_3_5_5_10, field_of_9_3_5_5_5, field_of_9_3_5_5_0]

theorem Sys2Proof.Laws.Encoding.fclass (h : Hdr) (md : Option ModF) (d a : BitVec 5) :
    Statement (.fclass h md d a) := by
  refine (decodeWord_unit2 none md h (0x2B#7 ++ d ++ a ++ 0x0#5)).trans ?_
  unfold decodeVE
  rw [op_of_7_5_5_5]
  refine (if_pos (unused_2 ..)).trans ?_
  rw [field_of_7_5_5_5_10, field_of_7_5_5_5_5]

theorem Sys2Proof.Laws.Encoding.frcp (h : Hdr) (md : Option ModF) (d a : BitVec 5) :
    Statement (.frcp h md d a) := by
  refine (decodeWord_unit2 none md h (0x2C#7 ++ d ++ a ++ 0x0#5)).trans ?_
  unfold decodeVE
  rw [op_of_7_5_5_5]
  refine (if_pos (unused_2 ..)).trans ?_
  rw [field_of_7_5_5_5_10, field_of_7_5_5_5_5]

theorem Sys2Proof.Laws.Encoding.frsq (h : Hdr) (md : Option ModF) (d a : BitVec 5) :
    Statement (.frsq h md d a) := by
  refine (decodeWord_unit2 none md h (0x2D#7 ++ d ++ a ++ 0x0#5)).trans ?_
  unfold decodeVE
  rw [op_of_7_5_5_5]
  refine (if_pos (unused_2 ..)).trans ?_
  rw [field_of_7_5_5_5_10, field_of_7_5_5_5_5]

theorem Sys2Proof.Laws.Encoding.fexp2 (h : Hdr) (md : Option ModF) (d a : BitVec 5) :
    Statement (.fexp2 h md d a) := by
  refine (decodeWord_unit2 none md h (0x2E#7 ++ d ++ a ++ 0x0#5)).trans ?_
  unfold decodeVE
  rw [op_of_7_5_5_5]
  refine (if_pos (unused_2 ..)).trans ?_
  rw [field_of_7_5_5_5_10, field_of_7_5_5_5_5]

theorem Sys2Proof.Laws.Encoding.flog2 (h : Hdr) (md : Option ModF) (d a : BitVec 5) :
    Statement (.flog2 h md d a) := by
  refine (decodeWord_unit2 none md h (0x2F#7 ++ d ++ a ++ 0x0#5)).trans ?_
  unfold decodeVE
  rw [op_of_7_5_5_5]
  refine (if_pos (unused_2 ..)).trans ?_
  rw [field_of_7_5_5_5_10, field_of_7_5_5_5_5]

theorem Sys2Proof.Laws.Encoding.ftanh (h : Hdr) (md : Option ModF) (d a : BitVec 5) :
    Statement (.ftanh h md d a) := by
  refine (decodeWord_unit2 none md h (0x30#7 ++ d ++ a ++ 0x0#5)).trans ?_
  unfold decodeVE
  rw [op_of_7_5_5_5]
  refine (if_pos (unused_2 ..)).trans ?_
  rw [field_of_7_5_5_5_10, field_of_7_5_5_5_5]

theorem Sys2Proof.Laws.Encoding.fsigm (h : Hdr) (md : Option ModF) (d a : BitVec 5) :
    Statement (.fsigm h md d a) := by
  refine (decodeWord_unit2 none md h (0x31#7 ++ d ++ a ++ 0x0#5)).trans ?_
  unfold decodeVE
  rw [op_of_7_5_5_5]
  refine (if_pos (unused_2 ..)).trans ?_
  rw [field_of_7_5_5_5_10, field_of_7_5_5_5_5]

theorem Sys2Proof.Laws.Encoding.fsin (h : Hdr) (md : Option ModF) (d a : BitVec 5) :
    Statement (.fsin h md d a) := by
  refine (decodeWord_unit2 none md h (0x32#7 ++ d ++ a ++ 0x0#5)).trans ?_
  unfold decodeVE
  rw [op_of_7_5_5_5]
  refine (if_pos (unused_2 ..)).trans ?_
  rw [field_of_7_5_5_5_10, field_of_7_5_5_5_5]

theorem Sys2Proof.Laws.Encoding.fcos (h : Hdr) (md : Option ModF) (d a : BitVec 5) :
    Statement (.fcos h md d a) := by
  refine (decodeWord_unit2 none md h (0x33#7 ++ d ++ a ++ 0x0#5)).trans ?_
  unfold decodeVE
  rw [op_of_7_5_5_5]
  refine (if_pos (unused_2 ..)).trans ?_
  rw [field_of_7_5_5_5_10, field_of_7_5_5_5_5]

theorem Sys2Proof.Laws.Encoding.iadd (h : Hdr) (md : Option ModF) (d a b : BitVec 5) :
    Statement (.iadd h md d a b) := by
  refine (decodeWord_unit2 none md h (0x38#7 ++ d ++ a ++ b)).trans ?_
  unfold decodeVE
  rw [op_of_7_5_5_5]
  refine (if_pos (unused_1 ..)).trans ?_
  rw [field_of_7_5_5_5_10, field_of_7_5_5_5_5, field_of_7_5_5_5_0]

theorem Sys2Proof.Laws.Encoding.isub (h : Hdr) (md : Option ModF) (d a b : BitVec 5) :
    Statement (.isub h md d a b) := by
  refine (decodeWord_unit2 none md h (0x39#7 ++ d ++ a ++ b)).trans ?_
  unfold decodeVE
  rw [op_of_7_5_5_5]
  refine (if_pos (unused_1 ..)).trans ?_
  rw [field_of_7_5_5_5_10, field_of_7_5_5_5_5, field_of_7_5_5_5_0]

theorem Sys2Proof.Laws.Encoding.imul (h : Hdr) (md : Option ModF) (d a b : BitVec 5) :
    Statement (.imul h md d a b) := by
  refine (decodeWord_unit2 none md h (0x3A#7 ++ d ++ a ++ b)).trans ?_
  unfold decodeVE
  rw [op_of_7_5_5_5]
  refine (if_pos (unused_1 ..)).trans ?_
  rw [field_of_7_5_5_5_10, field_of_7_5_5_5_5, field_of_7_5_5_5_0]

theorem Sys2Proof.Laws.Encoding.imulh (h : Hdr) (md : Option ModF) (d a b : BitVec 5) :
    Statement (.imulh h md d a b) := by
  refine (decodeWord_unit2 none md h (0x3B#7 ++ d ++ a ++ b)).trans ?_
  unfold decodeVE
  rw [op_of_7_5_5_5]
  refine (if_pos (unused_1 ..)).trans ?_
  rw [field_of_7_5_5_5_10, field_of_7_5_5_5_5, field_of_7_5_5_5_0]

theorem Sys2Proof.Laws.Encoding.imad (h : Hdr) (md : Option ModF) (d a b : BitVec 5) :
    Statement (.imad h md d a b) := by
  refine (decodeWord_unit2 none md h (0x3C#7 ++ d ++ a ++ b)).trans ?_
  unfold decodeVE
  rw [op_of_7_5_5_5]
  refine (if_pos (unused_1 ..)).trans ?_
  rw [field_of_7_5_5_5_10, field_of_7_5_5_5_5, field_of_7_5_5_5_0]

theorem Sys2Proof.Laws.Encoding.imin (h : Hdr) (md : Option ModF) (d a b : BitVec 5) :
    Statement (.imin h md d a b) := by
  refine (decodeWord_unit2 none md h (0x3D#7 ++ d ++ a ++ b)).trans ?_
  unfold decodeVE
  rw [op_of_7_5_5_5]
  refine (if_pos (unused_1 ..)).trans ?_
  rw [field_of_7_5_5_5_10, field_of_7_5_5_5_5, field_of_7_5_5_5_0]

theorem Sys2Proof.Laws.Encoding.imax (h : Hdr) (md : Option ModF) (d a b : BitVec 5) :
    Statement (.imax h md d a b) := by
  refine (decodeWord_unit2 none md h (0x3E#7 ++ d ++ a ++ b)).trans ?_
  unfold decodeVE
  rw [op_of_7_5_5_5]
  refine (if_pos (unused_1 ..)).trans ?_
  rw [field_of_7_5_5_5_10, field_of_7_5_5_5_5, field_of_7_5_5_5_0]

theorem Sys2Proof.Laws.Encoding.iand (h : Hdr) (md : Option ModF) (d a b : BitVec 5) :
    Statement (.iand h md d a b) := by
  refine (decodeWord_unit2 none md h (0x3F#7 ++ d ++ a ++ b)).trans ?_
  unfold decodeVE
  rw [op_of_7_5_5_5]
  refine (if_pos (unused_1 ..)).trans ?_
  rw [field_of_7_5_5_5_10, field_of_7_5_5_5_5, field_of_7_5_5_5_0]

theorem Sys2Proof.Laws.Encoding.ior (h : Hdr) (md : Option ModF) (d a b : BitVec 5) :
    Statement (.ior h md d a b) := by
  refine (decodeWord_unit2 none md h (0x40#7 ++ d ++ a ++ b)).trans ?_
  unfold decodeVE
  rw [op_of_7_5_5_5]
  refine (if_pos (unused_1 ..)).trans ?_
  rw [field_of_7_5_5_5_10, field_of_7_5_5_5_5, field_of_7_5_5_5_0]

theorem Sys2Proof.Laws.Encoding.ixor (h : Hdr) (md : Option ModF) (d a b : BitVec 5) :
    Statement (.ixor h md d a b) := by
  refine (decodeWord_unit2 none md h (0x41#7 ++ d ++ a ++ b)).trans ?_
  unfold decodeVE
  rw [op_of_7_5_5_5]
  refine (if_pos (unused_1 ..)).trans ?_
  rw [field_of_7_5_5_5_10, field_of_7_5_5_5_5, field_of_7_5_5_5_0]

theorem Sys2Proof.Laws.Encoding.ishl (h : Hdr) (md : Option ModF) (d a b : BitVec 5) :
    Statement (.ishl h md d a b) := by
  refine (decodeWord_unit2 none md h (0x42#7 ++ d ++ a ++ b)).trans ?_
  unfold decodeVE
  rw [op_of_7_5_5_5]
  refine (if_pos (unused_1 ..)).trans ?_
  rw [field_of_7_5_5_5_10, field_of_7_5_5_5_5, field_of_7_5_5_5_0]

theorem Sys2Proof.Laws.Encoding.ishr (h : Hdr) (md : Option ModF) (d a b : BitVec 5) :
    Statement (.ishr h md d a b) := by
  refine (decodeWord_unit2 none md h (0x43#7 ++ d ++ a ++ b)).trans ?_
  unfold decodeVE
  rw [op_of_7_5_5_5]
  refine (if_pos (unused_1 ..)).trans ?_
  rw [field_of_7_5_5_5_10, field_of_7_5_5_5_5, field_of_7_5_5_5_0]

theorem Sys2Proof.Laws.Encoding.isha (h : Hdr) (md : Option ModF) (d a b : BitVec 5) :
    Statement (.isha h md d a b) := by
  refine (decodeWord_unit2 none md h (0x44#7 ++ d ++ a ++ b)).trans ?_
  unfold decodeVE
  rw [op_of_7_5_5_5]
  refine (if_pos (unused_1 ..)).trans ?_
  rw [field_of_7_5_5_5_10, field_of_7_5_5_5_5, field_of_7_5_5_5_0]

theorem Sys2Proof.Laws.Encoding.icmpeq (h : Hdr) (md : Option ModF) (k : BitVec 3) (a b : BitVec 5) :
    Statement (.icmpeq h md k a b) := by
  refine (decodeWord_unit2 none md h (0x114#9 ++ k ++ a ++ b)).trans ?_
  unfold decodeVE
  rw [show (mkWord 2#3 h (0x114#9 ++ k ++ a ++ b)).fld 15 7 = 0x45#7 from op_of_9_3_5_5 ..]
  refine (if_pos (unused_56 ..)).trans ?_
  rw [field_of_9_3_5_5_10, field_of_9_3_5_5_5, field_of_9_3_5_5_0]

theorem Sys2Proof.Laws.Encoding.icmplt (h : Hdr) (md : Option ModF) (k : BitVec 3) (a b : BitVec 5) :
    Statement (.icmplt h md k a b) := by
  refine (decodeWord_unit2 none md h (0x118#9 ++ k ++ a ++ b)).trans ?_
  unfold decodeVE
  rw [show (mkWord 2#3 h (0x118#9 ++ k ++ a ++ b)).fld 15 7 = 0x46#7 from op_of_9_3_5_5 ..]
  refine (if_pos (unused_57 ..)).trans ?_
  rw [field_of_9_3_5_5_10, field_of_9_3_5_5_5, field_of_9_3_5_5_0]

theorem Sys2Proof.Laws.Encoding.icmpltn (h : Hdr) (md : Option ModF) (k : BitVec 3) (a b : BitVec 5) :
    Statement (.icmpltn h md k a b) := by
  refine (decodeWord_unit2 none md h (0x11C#9 ++ k ++ a ++ b)).trans ?_
  unfold decodeVE
  rw [show (mkWord 2#3 h (0x11C#9 ++ k ++ a ++ b)).fld 15 7 = 0x47#7 from op_of_9_3_5_5 ..]
  refine (if_pos (unused_58 ..)).trans ?_
  rw [field_of_9_3_5_5_10, field_of_9_3_5_5_5, field_of_9_3_5_5_0]

theorem Sys2Proof.Laws.Encoding.iadds (h : Hdr) (md : Option ModF) (d a b : BitVec 5) :
    Statement (.iadds h md d a b) := by
  refine (decodeWord_unit2 none md h (0x48#7 ++ d ++ a ++ b)).trans ?_
  unfold decodeVE
  rw [op_of_7_5_5_5]
  refine (if_pos (unused_1 ..)).trans ?_
  rw [field_of_7_5_5_5_10, field_of_7_5_5_5_5, field_of_7_5_5_5_0]

theorem Sys2Proof.Laws.Encoding.idot4 (h : Hdr) (md : Option ModF) (d a b : BitVec 5) :
    Statement (.idot4 h md d a b) := by
  refine (decodeWord_unit2 none md h (0x49#7 ++ d ++ a ++ b)).trans ?_
  unfold decodeVE
  rw [op_of_7_5_5_5]
  refine (if_pos (unused_1 ..)).trans ?_
  rw [field_of_7_5_5_5_10, field_of_7_5_5_5_5, field_of_7_5_5_5_0]

theorem Sys2Proof.Laws.Encoding.tcmplt (h : Hdr) (md : Option ModF) (k : BitVec 3) (a b : BitVec 5) :
    Statement (.tcmplt h md k a b) := by
  refine (decodeWord_unit2 none md h (0x128#9 ++ k ++ a ++ b)).trans ?_
  unfold decodeVE
  rw [show (mkWord 2#3 h (0x128#9 ++ k ++ a ++ b)).fld 15 7 = 0x4A#7 from op_of_9_3_5_5 ..]
  refine (if_pos (unused_59 ..)).trans ?_
  rw [field_of_9_3_5_5_10, field_of_9_3_5_5_5, field_of_9_3_5_5_0]

theorem Sys2Proof.Laws.Encoding.vmov (h : Hdr) (md : Option ModF) (d a : BitVec 5) :
    Statement (.vmov h md d a) := by
  refine (decodeWord_unit2 none md h (0x50#7 ++ d ++ a ++ 0x0#5)).trans ?_
  unfold decodeVE
  rw [op_of_7_5_5_5]
  refine (if_pos (unused_2 ..)).trans ?_
  rw [field_of_7_5_5_5_10, field_of_7_5_5_5_5]

theorem Sys2Proof.Laws.Encoding.vbcast (h : Hdr) (md : Option ModF) (d a : BitVec 5) :
    Statement (.vbcast h md d a) := by
  refine (decodeWord_unit2 none md h (0x51#7 ++ d ++ a ++ 0x0#5)).trans ?_
  unfold decodeVE
  rw [op_of_7_5_5_5]
  refine (if_pos (unused_2 ..)).trans ?_
  rw [field_of_7_5_5_5_10, field_of_7_5_5_5_5]

theorem Sys2Proof.Laws.Encoding.vperm (h : Hdr) (md : Option ModF) (d a b : BitVec 5) :
    Statement (.vperm h md d a b) := by
  refine (decodeWord_unit2 none md h (0x52#7 ++ d ++ a ++ b)).trans ?_
  unfold decodeVE
  rw [op_of_7_5_5_5]
  refine (if_pos (unused_1 ..)).trans ?_
  rw [field_of_7_5_5_5_10, field_of_7_5_5_5_5, field_of_7_5_5_5_0]

theorem Sys2Proof.Laws.Encoding.vshuf (h : Hdr) (md : Option ModF) (d a b : BitVec 5) :
    Statement (.vshuf h md d a b) := by
  refine (decodeWord_unit2 none md h (0x53#7 ++ d ++ a ++ b)).trans ?_
  unfold decodeVE
  rw [op_of_7_5_5_5]
  refine (if_pos (unused_1 ..)).trans ?_
  rw [field_of_7_5_5_5_10, field_of_7_5_5_5_5, field_of_7_5_5_5_0]

theorem Sys2Proof.Laws.Encoding.vsel (h : Hdr) (md : Option ModF) (d a b : BitVec 5) :
    Statement (.vsel h md d a b) := by
  refine (decodeWord_unit2 none md h (0x54#7 ++ d ++ a ++ b)).trans ?_
  unfold decodeVE
  rw [op_of_7_5_5_5]
  refine (if_pos (unused_1 ..)).trans ?_
  rw [field_of_7_5_5_5_10, field_of_7_5_5_5_5, field_of_7_5_5_5_0]

theorem Sys2Proof.Laws.Encoding.vext (h : Hdr) (md : Option ModF) (d a b : BitVec 5) :
    Statement (.vext h md d a b) := by
  refine (decodeWord_unit2 none md h (0x55#7 ++ d ++ a ++ b)).trans ?_
  unfold decodeVE
  rw [op_of_7_5_5_5]
  refine (if_pos (unused_1 ..)).trans ?_
  rw [field_of_7_5_5_5_10, field_of_7_5_5_5_5, field_of_7_5_5_5_0]

theorem Sys2Proof.Laws.Encoding.vins (h : Hdr) (md : Option ModF) (d a b : BitVec 5) :
    Statement (.vins h md d a b) := by
  refine (decodeWord_unit2 none md h (0x56#7 ++ d ++ a ++ b)).trans ?_
  unfold decodeVE
  rw [op_of_7_5_5_5]
  refine (if_pos (unused_1 ..)).trans ?_
  rw [field_of_7_5_5_5_10, field_of_7_5_5_5_5, field_of_7_5_5_5_0]

theorem Sys2Proof.Laws.Encoding.vli (h : Hdr) (x : Option ImmF) (md : Option ModF) (d : BitVec 5) (m : BitVec 10) :
    Statement (.vli h x md d m) := by
  refine (decodeWord_unit2 x md h (0x57#7 ++ d ++ m)).trans ?_
  unfold decodeVE
  rw [op_of_7_5_10]
  refine (if_pos (unused_3 ..)).trans ?_
  rw [field_of_7_5_10_10, field_of_7_5_10_0]

theorem Sys2Proof.Laws.Encoding.vrsum (h : Hdr) (md : Option ModF) (d a : BitVec 5) :
    Statement (.vrsum h md d a) := by
  refine (decodeWord_unit2 none md h (0x58#7 ++ d ++ a ++ 0x0#5)).trans ?_
  unfold decodeVE
  rw [op_of_7_5_5_5]
  refine (if_pos (unused_2 ..)).trans ?_
  rw [field_of_7_5_5_5_10, field_of_7_5_5_5_5]

theorem Sys2Proof.Laws.Encoding.vrmax (h : Hdr) (md : Option ModF) (d a : BitVec 5) :
    Statement (.vrmax h md d a) := by
  refine (decodeWord_unit2 none md h (0x59#7 ++ d ++ a ++ 0x0#5)).trans ?_
  unfold decodeVE
  rw [op_of_7_5_5_5]
  refine (if_pos (unused_2 ..)).trans ?_
  rw [field_of_7_5_5_5_10, field_of_7_5_5_5_5]

theorem Sys2Proof.Laws.Encoding.vrmin (h : Hdr) (md : Option ModF) (d a : BitVec 5) :
    Statement (.vrmin h md d a) := by
  refine (decodeWord_unit2 none md h (0x5A#7 ++ d ++ a ++ 0x0#5)).trans ?_
  unfold decodeVE
  rw [op_of_7_5_5_5]
  refine (if_pos (unused_2 ..)).trans ?_
  rw [field_of_7_5_5_5_10, field_of_7_5_5_5_5]

theorem Sys2Proof.Laws.Encoding.vrowsum (h : Hdr) (md : Option ModF) (d : BitVec 5) :
    Statement (.vrowsum h md d) := by
  refine (decodeWord_unit2 none md h (0x5B#7 ++ d ++ 0x0#10)).trans ?_
  unfold decodeVE
  rw [op_of_7_5_10]
  refine (if_pos (unused_4 ..)).trans ?_
  rw [field_of_7_5_10_10]

theorem Sys2Proof.Laws.Encoding.vcolsum (h : Hdr) (md : Option ModF) (d : BitVec 5) :
    Statement (.vcolsum h md d) := by
  refine (decodeWord_unit2 none md h (0x5C#7 ++ d ++ 0x0#10)).trans ?_
  unfold decodeVE
  rw [op_of_7_5_10]
  refine (if_pos (unused_4 ..)).trans ?_
  rw [field_of_7_5_10_10]

theorem Sys2Proof.Laws.Encoding.vtrans (h : Hdr) (md : Option ModF) :
    Statement (.vtrans h md) := by
  refine (decodeWord_unit2 none md h (0x2E8000#22)).trans ?_
  unfold decodeVE
  rw [show (mkWord 2#3 h (0x2E8000#22)).fld 15 7 = 0x5D#7 from op_of_22 ..]
  refine (if_pos (unused_60 ..)).trans ?_
  rfl

theorem Sys2Proof.Laws.Encoding.kand (h : Hdr) (md : Option ModF) (d a b : BitVec 3) :
    Statement (.kand h md d a b) := by
  refine (decodeWord_unit2 none md h (0x180#9 ++ d ++ 0x0#2 ++ a ++ 0x0#2 ++ b)).trans ?_
  unfold decodeVE
  rw [show (mkWord 2#3 h (0x180#9 ++ d ++ 0x0#2 ++ a ++ 0x0#2 ++ b)).fld 15 7 = 0x60#7 from op_of_9_3_2_3_2_3 ..]
  refine (if_pos (unused_61 ..)).trans ?_
  rw [field_of_9_3_2_3_2_3_10, field_of_9_3_2_3_2_3_5, field_of_9_3_2_3_2_3_0]

theorem Sys2Proof.Laws.Encoding.kor (h : Hdr) (md : Option ModF) (d a b : BitVec 3) :
    Statement (.kor h md d a b) := by
  refine (decodeWord_unit2 none md h (0x184#9 ++ d ++ 0x0#2 ++ a ++ 0x0#2 ++ b)).trans ?_
  unfold decodeVE
  rw [show (mkWord 2#3 h (0x184#9 ++ d ++ 0x0#2 ++ a ++ 0x0#2 ++ b)).fld 15 7 = 0x61#7 from op_of_9_3_2_3_2_3 ..]
  refine (if_pos (unused_62 ..)).trans ?_
  rw [field_of_9_3_2_3_2_3_10, field_of_9_3_2_3_2_3_5, field_of_9_3_2_3_2_3_0]

theorem Sys2Proof.Laws.Encoding.kxor (h : Hdr) (md : Option ModF) (d a b : BitVec 3) :
    Statement (.kxor h md d a b) := by
  refine (decodeWord_unit2 none md h (0x188#9 ++ d ++ 0x0#2 ++ a ++ 0x0#2 ++ b)).trans ?_
  unfold decodeVE
  rw [show (mkWord 2#3 h (0x188#9 ++ d ++ 0x0#2 ++ a ++ 0x0#2 ++ b)).fld 15 7 = 0x62#7 from op_of_9_3_2_3_2_3 ..]
  refine (if_pos (unused_63 ..)).trans ?_
  rw [field_of_9_3_2_3_2_3_10, field_of_9_3_2_3_2_3_5, field_of_9_3_2_3_2_3_0]

theorem Sys2Proof.Laws.Encoding.knot (h : Hdr) (md : Option ModF) (d a : BitVec 3) :
    Statement (.knot h md d a) := by
  refine (decodeWord_unit2 none md h (0x18C#9 ++ d ++ 0x0#2 ++ a ++ 0x0#5)).trans ?_
  unfold decodeVE
  rw [show (mkWord 2#3 h (0x18C#9 ++ d ++ 0x0#2 ++ a ++ 0x0#5)).fld 15 7 = 0x63#7 from op_of_9_3_2_3_5 ..]
  refine (if_pos (unused_64 ..)).trans ?_
  rw [field_of_9_3_2_3_5_10, field_of_9_3_2_3_5_5]

theorem Sys2Proof.Laws.Encoding.kpopc (h : Hdr) (md : Option ModF) (d : BitVec 5) (a : BitVec 3) :
    Statement (.kpopc h md d a) := by
  refine (decodeWord_unit2 none md h (0x64#7 ++ d ++ 0x0#2 ++ a ++ 0x0#5)).trans ?_
  unfold decodeVE
  rw [op_of_7_5_2_3_5]
  refine (if_pos (unused_65 ..)).trans ?_
  rw [field_of_7_5_2_3_5_10, field_of_7_5_2_3_5_5]

theorem Sys2Proof.Laws.Encoding.commit (h : Hdr) (t : BitVec 5) :
    Statement (.commit h t) := by
  refine (decodeWord_unit2 none none h (0x1A000#17 ++ t)).trans ?_
  unfold decodeVE
  rw [show (mkWord 2#3 h (0x1A000#17 ++ t)).fld 15 7 = 0x68#7 from op_of_17_5 ..]
  refine (if_pos (unused_66 ..)).trans ?_
  rw [field_of_17_5_0]

theorem Sys2Proof.Laws.Encoding.vwin (h : Hdr) (t : BitVec 4) (x : BitVec 1) (b : BitVec 7) :
    Statement (.vwin h t x b) := by
  refine (decodeWord_unit2 none none h (0x6A#7 ++ t ++ x ++ 0x0#3 ++ b)).trans ?_
  unfold decodeVE
  rw [op_of_7_4_1_3_7]
  refine (if_pos (unused_67 ..)).trans ?_
  rw [field_of_7_4_1_3_7_11, field_of_7_4_1_3_7_10, field_of_7_4_1_3_7_0]

theorem Sys2Proof.Laws.Encoding.mma (h : Hdr) (c : BitVec 3) (t u : BitVec 4) (e f r : BitVec 1) :
    Statement (.mma h c t u e f r) := by
  refine (decodeWord_unit3 none none h (0x0#7 ++ c ++ t ++ u ++ e ++ f ++ 0x0#1 ++ r)).trans ?_
  unfold decodeMX
  rw [op_of_7_3_4_4_1_1_1_1]
  refine (if_pos (unused_68 ..)).trans ?_
  rw [field_of_7_3_4_4_1_1_1_1_12, field_of_7_3_4_4_1_1_1_1_8, field_of_7_3_4_4_1_1_1_1_4, field_of_7_3_4_4_1_1_1_1_3, field_of_7_3_4_4_1_1_1_1_2, field_of_7_3_4_4_1_1_1_1_0]

theorem Sys2Proof.Laws.Encoding.mmas (h : Hdr) (c : BitVec 3) (t u : BitVec 4) (f r : BitVec 1) :
    Statement (.mmas h c t u f r) := by
  refine (decodeWord_unit3 none none h (0x1#7 ++ c ++ t ++ u ++ 0x0#1 ++ f ++ 0x0#1 ++ r)).trans ?_
  unfold decodeMX
  rw [op_of_7_3_4_4_1_1_1_1]
  refine (if_pos (unused_69 ..)).trans ?_
  rw [field_of_7_3_4_4_1_1_1_1_12, field_of_7_3_4_4_1_1_1_1_8, field_of_7_3_4_4_1_1_1_1_4, field_of_7_3_4_4_1_1_1_1_2, field_of_7_3_4_4_1_1_1_1_0]

theorem Sys2Proof.Laws.Encoding.mzero (h : Hdr) (c : BitVec 3) :
    Statement (.mzero h c) := by
  refine (decodeWord_unit3 none none h (0x2#7 ++ c ++ 0x0#12)).trans ?_
  unfold decodeMX
  rw [op_of_7_3_12]
  refine (if_pos (unused_70 ..)).trans ?_
  rw [field_of_7_3_12_12]

theorem Sys2Proof.Laws.Encoding.mldacc (h : Hdr) (c : BitVec 3) (t : BitVec 4) (r : BitVec 1) :
    Statement (.mldacc h c t r) := by
  refine (decodeWord_unit3 none none h (0x3#7 ++ c ++ t ++ 0x0#7 ++ r)).trans ?_
  unfold decodeMX
  rw [op_of_7_3_4_7_1]
  refine (if_pos (unused_71 ..)).trans ?_
  rw [field_of_7_3_4_7_1_12, field_of_7_3_4_7_1_8, field_of_7_3_4_7_1_0]

theorem Sys2Proof.Laws.Encoding.mstacc (h : Hdr) (c : BitVec 3) (t : BitVec 4) :
    Statement (.mstacc h c t) := by
  refine (decodeWord_unit3 none none h (0x4#7 ++ c ++ t ++ 0x0#8)).trans ?_
  unfold decodeMX
  rw [op_of_7_3_4_8]
  refine (if_pos (unused_72 ..)).trans ?_
  rw [field_of_7_3_4_8_12, field_of_7_3_4_8_8]

theorem Sys2Proof.Laws.Encoding.mckrd (h : Hdr) (c : BitVec 3) (t : BitVec 4) :
    Statement (.mckrd h c t) := by
  refine (decodeWord_unit3 none none h (0x5#7 ++ c ++ t ++ 0x0#8)).trans ?_
  unfold decodeMX
  rw [op_of_7_3_4_8]
  refine (if_pos (unused_72 ..)).trans ?_
  rw [field_of_7_3_4_8_12, field_of_7_3_4_8_8]

theorem Sys2Proof.Laws.Encoding.mdrain (h : Hdr) :
    Statement (.mdrain h) := by
  refine (decodeWord_unit3 none none h (0x30000#22)).trans ?_
  unfold decodeMX
  rw [show (mkWord 3#3 h (0x30000#22)).fld 15 7 = 0x6#7 from op_of_22 ..]
  refine (if_pos (unused_73 ..)).trans ?_
  rfl

theorem Sys2Proof.Laws.Encoding.fmtpush (h : Hdr) (a b : BitVec 5) :
    Statement (.fmtpush h a b) := by
  refine (decodeWord_unit4 none none h (0x0#12 ++ a ++ b)).trans ?_
  unfold decodeEN
  rw [show (mkWord 4#3 h (0x0#12 ++ a ++ b)).fld 15 7 = 0x0#7 from op_of_12_5_5 ..]
  refine (if_pos (unused_74 ..)).trans ?_
  rw [field_of_12_5_5_5, field_of_12_5_5_0]

theorem Sys2Proof.Laws.Encoding.cpy (h : Hdr) (t a b : BitVec 5) :
    Statement (.cpy h t a b) := by
  refine (decodeWord_unit4 none none h (0x8#7 ++ t ++ a ++ b)).trans ?_
  unfold decodeEN
  rw [op_of_7_5_5_5]
  refine (if_pos (unused_1 ..)).trans ?_
  rw [field_of_7_5_5_5_10, field_of_7_5_5_5_5, field_of_7_5_5_5_0]

theorem Sys2Proof.Laws.Encoding.cpyl (h : Hdr) (t a b : BitVec 5) :
    Statement (.cpyl h t a b) := by
  refine (decodeWord_unit4 none none h (0x9#7 ++ t ++ a ++ b)).trans ?_
  unfold decodeEN
  rw [op_of_7_5_5_5]
  refine (if_pos (unused_1 ..)).trans ?_
  rw [field_of_7_5_5_5_10, field_of_7_5_5_5_5, field_of_7_5_5_5_0]

theorem Sys2Proof.Laws.Encoding.cpyw (h : Hdr) (t : BitVec 5) :
    Statement (.cpyw h t) := by
  refine (decodeWord_unit4 none none h (0xA#7 ++ t ++ 0x0#10)).trans ?_
  unfold decodeEN
  rw [op_of_7_5_10]
  refine (if_pos (unused_4 ..)).trans ?_
  rw [field_of_7_5_10_10]

theorem Sys2Proof.Laws.Encoding.cpyq (h : Hdr) (p : BitVec 3) (t : BitVec 5) :
    Statement (.cpyq h p t) := by
  refine (decodeWord_unit4 none none h (0x2C#9 ++ p ++ t ++ 0x0#5)).trans ?_
  unfold decodeEN
  rw [show (mkWord 4#3 h (0x2C#9 ++ p ++ t ++ 0x0#5)).fld 15 7 = 0xB#7 from op_of_9_3_5_5 ..]
  refine (if_pos (unused_75 ..)).trans ?_
  rw [field_of_9_3_5_5_10, field_of_9_3_5_5_5]

theorem Sys2Proof.Laws.Encoding.rput (h : Hdr) (d a b : BitVec 5) :
    Statement (.rput h d a b) := by
  refine (decodeWord_unit4 none none h (0x10#7 ++ d ++ a ++ b)).trans ?_
  unfold decodeEN
  rw [op_of_7_5_5_5]
  refine (if_pos (unused_1 ..)).trans ?_
  rw [field_of_7_5_5_5_10, field_of_7_5_5_5_5, field_of_7_5_5_5_0]

theorem Sys2Proof.Laws.Encoding.rget (h : Hdr) (d a b : BitVec 5) :
    Statement (.rget h d a b) := by
  refine (decodeWord_unit4 none none h (0x11#7 ++ d ++ a ++ b)).trans ?_
  unfold decodeEN
  rw [op_of_7_5_5_5]
  refine (if_pos (unused_1 ..)).trans ?_
  rw [field_of_7_5_5_5_10, field_of_7_5_5_5_5, field_of_7_5_5_5_0]

theorem Sys2Proof.Laws.Encoding.ratom (h : Hdr) (z : BitVec 1) (o : BitVec 3) (a b : BitVec 5) :
    Statement (.ratom h z o a b) := by
  refine (decodeWord_unit4 none none h (0x24#8 ++ z ++ o ++ a ++ b)).trans ?_
  unfold decodeEN
  rw [show (mkWord 4#3 h (0x24#8 ++ z ++ o ++ a ++ b)).fld 15 7 = 0x12#7 from op_of_8_1_3_5_5 ..]
  refine (if_pos (unused_76 ..)).trans ?_
  rw [field_of_8_1_3_5_5_13, field_of_8_1_3_5_5_10, field_of_8_1_3_5_5_5, field_of_8_1_3_5_5_0]

theorem Sys2Proof.Laws.Encoding.rfence (h : Hdr) :
    Statement (.rfence h) := by
  refine (decodeWord_unit4 none none h (0x98000#22)).trans ?_
  unfold decodeEN
  rw [show (mkWord 4#3 h (0x98000#22)).fld 15 7 = 0x13#7 from op_of_22 ..]
  refine (if_pos (unused_77 ..)).trans ?_
  rfl

theorem Sys2Proof.Laws.Encoding.cred (h : Hdr) (o : BitVec 2) (a : BitVec 5) :
    Statement (.cred h o a) := by
  refine (decodeWord_unit4 none none h (0xC0#10 ++ o ++ a ++ 0x0#5)).trans ?_
  unfold decodeEN
  rw [show (mkWord 4#3 h (0xC0#10 ++ o ++ a ++ 0x0#5)).fld 15 7 = 0x18#7 from op_of_10_2_5_5 ..]
  refine (if_pos (unused_78 ..)).trans ?_
  rw [field_of_10_2_5_5_10, field_of_10_2_5_5_5]

theorem Sys2Proof.Laws.Encoding.cbcast (h : Hdr) (a : BitVec 5) :
    Statement (.cbcast h a) := by
  refine (decodeWord_unit4 none none h (0x320#12 ++ a ++ 0x0#5)).trans ?_
  unfold decodeEN
  rw [show (mkWord 4#3 h (0x320#12 ++ a ++ 0x0#5)).fld 15 7 = 0x19#7 from op_of_12_5_5 ..]
  refine (if_pos (unused_79 ..)).trans ?_
  rw [field_of_12_5_5_5]

theorem Sys2Proof.Laws.Encoding.taskq (h : Hdr) (a b : BitVec 5) :
    Statement (.taskq h a b) := by
  refine (decodeWord_unit4 none none h (0x400#12 ++ a ++ b)).trans ?_
  unfold decodeEN
  rw [show (mkWord 4#3 h (0x400#12 ++ a ++ b)).fld 15 7 = 0x20#7 from op_of_12_5_5 ..]
  refine (if_pos (unused_80 ..)).trans ?_
  rw [field_of_12_5_5_5, field_of_12_5_5_0]

theorem Sys2Proof.Laws.Encoding.launch (h : Hdr) (a : BitVec 5) :
    Statement (.launch h a) := by
  refine (decodeWord_unit4 none none h (0x440#12 ++ a ++ 0x0#5)).trans ?_
  unfold decodeEN
  rw [show (mkWord 4#3 h (0x440#12 ++ a ++ 0x0#5)).fld 15 7 = 0x22#7 from op_of_12_5_5 ..]
  refine (if_pos (unused_81 ..)).trans ?_
  rw [field_of_12_5_5_5]

theorem Sys2Proof.Laws.Encoding.almld (h : Hdr) (a b : BitVec 5) :
    Statement (.almld h a b) := by
  refine (decodeWord_unit4 none none h (0x500#12 ++ a ++ b)).trans ?_
  unfold decodeEN
  rw [show (mkWord 4#3 h (0x500#12 ++ a ++ b)).fld 15 7 = 0x28#7 from op_of_12_5_5 ..]
  refine (if_pos (unused_82 ..)).trans ?_
  rw [field_of_12_5_5_5, field_of_12_5_5_0]

theorem Sys2Proof.Laws.Encoding.almclr (h : Hdr) :
    Statement (.almclr h) := by
  refine (decodeWord_unit4 none none h (0x148000#22)).trans ?_
  unfold decodeEN
  rw [show (mkWord 4#3 h (0x148000#22)).fld 15 7 = 0x29#7 from op_of_22 ..]
  refine (if_pos (unused_83 ..)).trans ?_
  rfl

theorem Sys2Proof.Laws.Encoding.eres (h : Hdr) (d : BitVec 5) (f : BitVec 2) :
    Statement (.eres h d f) := by
  refine (decodeWord_unit4 none none h (0x30#7 ++ d ++ 0x0#3 ++ f ++ 0x0#5)).trans ?_
  unfold decodeEN
  rw [op_of_7_5_3_2_5]
  refine (if_pos (unused_84 ..)).trans ?_
  rw [field_of_7_5_3_2_5_10, field_of_7_5_3_2_5_5]

theorem Sys2Proof.Laws.Encoding.cbld (h : Hdr) (a : BitVec 5) :
    Statement (.cbld h a) := by
  refine (decodeWord_unit4 none none h (0x620#12 ++ a ++ 0x0#5)).trans ?_
  unfold decodeEN
  rw [show (mkWord 4#3 h (0x620#12 ++ a ++ 0x0#5)).fld 15 7 = 0x31#7 from op_of_12_5_5 ..]
  refine (if_pos (unused_85 ..)).trans ?_
  rw [field_of_12_5_5_5]

theorem Sys2Proof.Laws.Encoding.sigclr (h : Hdr) (n : BitVec 2) :
    Statement (.sigclr h n) := by
  refine (decodeWord_unit5 none none h (0x0#10 ++ n ++ 0x0#10)).trans ?_
  unfold decodeCK
  rw [show (mkWord 5#3 h (0x0#10 ++ n ++ 0x0#10)).fld 15 7 = 0x0#7 from op_of_10_2_10 ..]
  refine (if_pos (unused_86 ..)).trans ?_
  rw [field_of_10_2_10_10]

theorem Sys2Proof.Laws.Encoding.sigfold (h : Hdr) (n : BitVec 2) (a : BitVec 5) :
    Statement (.sigfold h n a) := by
  refine (decodeWord_unit5 none none h (0x8#10 ++ n ++ a ++ 0x0#5)).trans ?_
  unfold decodeCK
  rw [show (mkWord 5#3 h (0x8#10 ++ n ++ a ++ 0x0#5)).fld 15 7 = 0x1#7 from op_of_10_2_5_5 ..]
  refine (if_pos (unused_87 ..)).trans ?_
  rw [field_of_10_2_5_5_10, field_of_10_2_5_5_5]

theorem Sys2Proof.Laws.Encoding.csacc (h : Hdr) (n : BitVec 3) (a : BitVec 5) :
    Statement (.csacc h n a) := by
  refine (decodeWord_unit5 none none h (0x8#9 ++ n ++ a ++ 0x0#5)).trans ?_
  unfold decodeCK
  rw [show (mkWord 5#3 h (0x8#9 ++ n ++ a ++ 0x0#5)).fld 15 7 = 0x2#7 from op_of_9_3_5_5 ..]
  refine (if_pos (unused_88 ..)).trans ?_
  rw [field_of_9_3_5_5_10, field_of_9_3_5_5_5]

theorem Sys2Proof.Laws.Encoding.cschk (h : Hdr) (n : BitVec 3) (a : BitVec 5) :
    Statement (.cschk h n a) := by
  refine (decodeWord_unit5 none none h (0xC#9 ++ n ++ a ++ 0x0#5)).trans ?_
  unfold decodeCK
  rw [show (mkWord 5#3 h (0xC#9 ++ n ++ a ++ 0x0#5)).fld 15 7 = 0x3#7 from op_of_9_3_5_5 ..]
  refine (if_pos (unused_89 ..)).trans ?_
  rw [field_of_9_3_5_5_10, field_of_9_3_5_5_5]

theorem Sys2Proof.Laws.Encoding.chkerr (h : Hdr) :
    Statement (.chkerr h) := by
  refine (decodeWord_unit5 none none h (0x20000#22)).trans ?_
  unfold decodeCK
  rw [show (mkWord 5#3 h (0x20000#22)).fld 15 7 = 0x4#7 from op_of_22 ..]
  refine (if_pos (unused_90 ..)).trans ?_
  rfl

theorem Sys2Proof.Laws.Encoding.provrd (h : Hdr) (d : BitVec 5) (n : BitVec 2) (b : BitVec 5) :
    Statement (.provrd h d n b) := by
  refine (decodeWord_unit5 none none h (0x5#7 ++ d ++ 0x0#3 ++ n ++ b)).trans ?_
  unfold decodeCK
  rw [op_of_7_5_3_2_5]
  refine (if_pos (unused_91 ..)).trans ?_
  rw [field_of_7_5_3_2_5_10, field_of_7_5_3_2_5_5, field_of_7_5_3_2_5_0]

theorem Sys2Proof.Laws.Encoding.provclr (h : Hdr) (n : BitVec 2) :
    Statement (.provclr h n) := by
  refine (decodeWord_unit5 none none h (0x30#10 ++ n ++ 0x0#10)).trans ?_
  unfold decodeCK
  rw [show (mkWord 5#3 h (0x30#10 ++ n ++ 0x0#10)).fld 15 7 = 0x6#7 from op_of_10_2_10 ..]
  refine (if_pos (unused_92 ..)).trans ?_
  rw [field_of_10_2_10_10]

theorem Sys2Proof.Laws.Encoding.slotw (h : Hdr) (d a : BitVec 5) :
    Statement (.slotw h d a) := by
  refine (decodeWord_unit6 none none h (0x0#7 ++ d ++ a ++ 0x0#5)).trans ?_
  unfold decodeSY
  rw [op_of_7_5_5_5]
  refine (if_pos (unused_2 ..)).trans ?_
  rw [field_of_7_5_5_5_10, field_of_7_5_5_5_5]

theorem Sys2Proof.Laws.Encoding.tlbinv (h : Hdr) (a b : BitVec 5) :
    Statement (.tlbinv h a b) := by
  refine (decodeWord_unit6 none none h (0x20#12 ++ a ++ b)).trans ?_
  unfold decodeSY
  rw [show (mkWord 6#3 h (0x20#12 ++ a ++ b)).fld 15 7 = 0x1#7 from op_of_12_5_5 ..]
  refine (if_pos (unused_93 ..)).trans ?_
  rw [field_of_12_5_5_5, field_of_12_5_5_0]

theorem Sys2Proof.Laws.Encoding.ctxsave (h : Hdr) (d a b : BitVec 5) :
    Statement (.ctxsave h d a b) := by
  refine (decodeWord_unit6 none none h (0x2#7 ++ d ++ a ++ b)).trans ?_
  unfold decodeSY
  rw [op_of_7_5_5_5]
  refine (if_pos (unused_1 ..)).trans ?_
  rw [field_of_7_5_5_5_10, field_of_7_5_5_5_5, field_of_7_5_5_5_0]

theorem Sys2Proof.Laws.Encoding.ctxload (h : Hdr) (d a b : BitVec 5) :
    Statement (.ctxload h d a b) := by
  refine (decodeWord_unit6 none none h (0x3#7 ++ d ++ a ++ b)).trans ?_
  unfold decodeSY
  rw [op_of_7_5_5_5]
  refine (if_pos (unused_1 ..)).trans ?_
  rw [field_of_7_5_5_5_10, field_of_7_5_5_5_5, field_of_7_5_5_5_0]

theorem Sys2Proof.Laws.Encoding.stoprd (h : Hdr) (d a b : BitVec 5) :
    Statement (.stoprd h d a b) := by
  refine (decodeWord_unit6 none none h (0x4#7 ++ d ++ a ++ b)).trans ?_
  unfold decodeSY
  rw [op_of_7_5_5_5]
  refine (if_pos (unused_1 ..)).trans ?_
  rw [field_of_7_5_5_5_10, field_of_7_5_5_5_5, field_of_7_5_5_5_0]

theorem Sys2Proof.Laws.Encoding.inject (h : Hdr) (d a : BitVec 5) :
    Statement (.inject h d a) := by
  refine (decodeWord_unit6 none none h (0x5#7 ++ d ++ a ++ 0x0#5)).trans ?_
  unfold decodeSY
  rw [op_of_7_5_5_5]
  refine (if_pos (unused_2 ..)).trans ?_
  rw [field_of_7_5_5_5_10, field_of_7_5_5_5_5]

theorem Sys2Proof.Laws.Encoding.haltp (h : Hdr) (d a : BitVec 5) :
    Statement (.haltp h d a) := by
  refine (decodeWord_unit6 none none h (0x6#7 ++ d ++ a ++ 0x0#5)).trans ?_
  unfold decodeSY
  rw [op_of_7_5_5_5]
  refine (if_pos (unused_2 ..)).trans ?_
  rw [field_of_7_5_5_5_10, field_of_7_5_5_5_5]

theorem Sys2Proof.Laws.Encoding.resumep (h : Hdr) (d a : BitVec 5) :
    Statement (.resumep h d a) := by
  refine (decodeWord_unit6 none none h (0x7#7 ++ d ++ a ++ 0x0#5)).trans ?_
  unfold decodeSY
  rw [op_of_7_5_5_5]
  refine (if_pos (unused_2 ..)).trans ?_
  rw [field_of_7_5_5_5_10, field_of_7_5_5_5_5]

theorem Sys2Proof.Laws.Encoding.gate (h : Hdr) (d a : BitVec 5) :
    Statement (.gate h d a) := by
  refine (decodeWord_unit6 none none h (0x8#7 ++ d ++ a ++ 0x0#5)).trans ?_
  unfold decodeSY
  rw [op_of_7_5_5_5]
  refine (if_pos (unused_2 ..)).trans ?_
  rw [field_of_7_5_5_5_10, field_of_7_5_5_5_5]

theorem Sys2Proof.Laws.Encoding.wake (h : Hdr) (a : BitVec 5) :
    Statement (.wake h a) := by
  refine (decodeWord_unit6 none none h (0x120#12 ++ a ++ 0x0#5)).trans ?_
  unfold decodeSY
  rw [show (mkWord 6#3 h (0x120#12 ++ a ++ 0x0#5)).fld 15 7 = 0x9#7 from op_of_12_5_5 ..]
  refine (if_pos (unused_94 ..)).trans ?_
  rw [field_of_12_5_5_5]

theorem Sys2Proof.Laws.Encoding.retire (h : Hdr) (d a : BitVec 5) :
    Statement (.retire h d a) := by
  refine (decodeWord_unit6 none none h (0xA#7 ++ d ++ a ++ 0x0#5)).trans ?_
  unfold decodeSY
  rw [op_of_7_5_5_5]
  refine (if_pos (unused_2 ..)).trans ?_
  rw [field_of_7_5_5_5_10, field_of_7_5_5_5_5]

theorem Sys2Proof.Laws.Encoding.spare (h : Hdr) (d a b : BitVec 5) :
    Statement (.spare h d a b) := by
  refine (decodeWord_unit6 none none h (0xB#7 ++ d ++ a ++ b)).trans ?_
  unfold decodeSY
  rw [op_of_7_5_5_5]
  refine (if_pos (unused_1 ..)).trans ?_
  rw [field_of_7_5_5_5_10, field_of_7_5_5_5_5, field_of_7_5_5_5_0]

theorem Sys2Proof.Laws.Encoding.wdset (h : Hdr) (a b : BitVec 5) :
    Statement (.wdset h a b) := by
  refine (decodeWord_unit6 none none h (0x180#12 ++ a ++ b)).trans ?_
  unfold decodeSY
  rw [show (mkWord 6#3 h (0x180#12 ++ a ++ b)).fld 15 7 = 0xC#7 from op_of_12_5_5 ..]
  refine (if_pos (unused_95 ..)).trans ?_
  rw [field_of_12_5_5_5, field_of_12_5_5_0]

theorem Sys2Proof.Laws.Encoding.errinj (h : Hdr) (a b : BitVec 5) :
    Statement (.errinj h a b) := by
  refine (decodeWord_unit6 none none h (0x1A0#12 ++ a ++ b)).trans ?_
  unfold decodeSY
  rw [show (mkWord 6#3 h (0x1A0#12 ++ a ++ b)).fld 15 7 = 0xD#7 from op_of_12_5_5 ..]
  refine (if_pos (unused_96 ..)).trans ?_
  rw [field_of_12_5_5_5, field_of_12_5_5_0]

theorem Sys2Proof.Laws.Encoding.postgDelivery (i : Nat) :
    Statement (.postgDelivery i) := rfl

theorem Sys2Proof.Laws.Encoding.resultVisible (k : Who) :
    Statement (.resultVisible k) := rfl

theorem Sys2Proof.Laws.Encoding.heldTokenPush (k : Who) :
    Statement (.heldTokenPush k) := rfl

theorem Sys2Proof.Laws.Encoding.instructionFetch (k : Who) :
    Statement (.instructionFetch k) := rfl

theorem Sys2Proof.Laws.Encoding.pageWalk (core : Nat) (va : Nat) :
    Statement (.pageWalk core va) := rfl

theorem Sys2Proof.Laws.Encoding.directPathServe (i : Nat) :
    Statement (.directPathServe i) := rfl

theorem Sys2Proof.Laws.Encoding.loadRowFill (i : Nat) :
    Statement (.loadRowFill i) := rfl

theorem Sys2Proof.Laws.Encoding.globalStorePerform (i : Nat) :
    Statement (.globalStorePerform i) := rfl

theorem Sys2Proof.Laws.Encoding.dieWindowStorePerform (i : Nat) :
    Statement (.dieWindowStorePerform i) := rfl

theorem Sys2Proof.Laws.Encoding.atomicPerform (i : Nat) :
    Statement (.atomicPerform i) := rfl

theorem Sys2Proof.Laws.Encoding.copyStart (core : Nat) :
    Statement (.copyStart core) := rfl

theorem Sys2Proof.Laws.Encoding.copyRowGroup (core : Nat) (run : Nat) :
    Statement (.copyRowGroup core run) := rfl

theorem Sys2Proof.Laws.Encoding.copyComplete (core : Nat) (run : Nat) :
    Statement (.copyComplete core run) := rfl

theorem Sys2Proof.Laws.Encoding.matrixCommandStart (core : Nat) :
    Statement (.matrixCommandStart core) := rfl

theorem Sys2Proof.Laws.Encoding.ringStageRelease (core : Nat) :
    Statement (.ringStageRelease core) := rfl

theorem Sys2Proof.Laws.Encoding.matrixCommandComplete (core : Nat) :
    Statement (.matrixCommandComplete core) := rfl

theorem Sys2Proof.Laws.Encoding.remoteCommandStart (core : Nat) :
    Statement (.remoteCommandStart core) := rfl

theorem Sys2Proof.Laws.Encoding.packetSend (core : Nat) :
    Statement (.packetSend core) := rfl

theorem Sys2Proof.Laws.Encoding.packetReceive (pk : Packet) :
    Statement (.packetReceive pk) := rfl

theorem Sys2Proof.Laws.Encoding.acknowledgement (ak : Ack) :
    Statement (.acknowledgement ak) := rfl

theorem Sys2Proof.Laws.Encoding.routeTimeout (route : Nat) :
    Statement (.routeTimeout route) := rfl

theorem Sys2Proof.Laws.Encoding.routeFailure (route : Nat) :
    Statement (.routeFailure route) := rfl

theorem Sys2Proof.Laws.Encoding.laneLoss (port : Nat) (lane : Nat) :
    Statement (.laneLoss port lane) := rfl

theorem Sys2Proof.Laws.Encoding.collectiveContribution (pk : Packet) :
    Statement (.collectiveContribution pk) := rfl

theorem Sys2Proof.Laws.Encoding.collectiveComplete (core : Nat) :
    Statement (.collectiveComplete core) := rfl

theorem Sys2Proof.Laws.Encoding.walkerTaskCreate (launch : Nat) :
    Statement (.walkerTaskCreate launch) := rfl

theorem Sys2Proof.Laws.Encoding.taskEnqueue (q : Nat) :
    Statement (.taskEnqueue q) := rfl

theorem Sys2Proof.Laws.Encoding.taskEntry (part : Nat) (q : Nat) :
    Statement (.taskEntry part q) := rfl

theorem Sys2Proof.Laws.Encoding.dispatch (tid : Word) (places : List Place) :
    Statement (.dispatch tid places) := rfl

theorem Sys2Proof.Laws.Encoding.contextFree (core : Nat) (ctx : Nat) :
    Statement (.contextFree core ctx) := rfl

theorem Sys2Proof.Laws.Encoding.taskRetirement (core : Nat) (ctx : Nat) :
    Statement (.taskRetirement core ctx) := rfl

theorem Sys2Proof.Laws.Encoding.vigilDecision (tid : Word) (place : Option Place) :
    Statement (.vigilDecision tid place) := rfl

theorem Sys2Proof.Laws.Encoding.overlayFold (part : Nat) (i : Nat) :
    Statement (.overlayFold part i) := rfl

theorem Sys2Proof.Laws.Encoding.fetch (launch : Nat) (entry : Nat) :
    Statement (.fetch launch entry) := rfl

theorem Sys2Proof.Laws.Encoding.evict (launch : Nat) (entry : Nat) :
    Statement (.evict launch entry) := rfl

theorem Sys2Proof.Laws.Encoding.pin (launch : Nat) (entry : Nat) :
    Statement (.pin launch entry) := rfl

theorem Sys2Proof.Laws.Encoding.drop (launch : Nat) (entry : Nat) :
    Statement (.drop launch entry) := rfl

theorem Sys2Proof.Laws.Encoding.almanacActionFinish (launch : Nat) (entry : Nat) :
    Statement (.almanacActionFinish launch entry) := rfl

theorem Sys2Proof.Laws.Encoding.almanacRelease (launch : Nat) :
    Statement (.almanacRelease launch) := rfl

theorem Sys2Proof.Laws.Encoding.launchCompletion (launch : Nat) :
    Statement (.launchCompletion launch) := rfl

theorem Sys2Proof.Laws.Encoding.launchQueueDoorbell (part : Nat) (lq : Nat) (tail : Nat) :
    Statement (.launchQueueDoorbell part lq tail) := rfl

theorem Sys2Proof.Laws.Encoding.launchAcceptance (part : Nat) (lq : Nat) :
    Statement (.launchAcceptance part lq) := rfl

theorem Sys2Proof.Laws.Encoding.launchQueueHeadWrite (part : Nat) (lq : Nat) (head : Nat) :
    Statement (.launchQueueHeadWrite part lq head) := rfl

theorem Sys2Proof.Laws.Encoding.completionHeadWrite (part : Nat) (lq : Nat) (ch : Nat) :
    Statement (.completionHeadWrite part lq ch) := rfl

theorem Sys2Proof.Laws.Encoding.faultLogTailWrite (log : Nat) (n : Nat) :
    Statement (.faultLogTailWrite log n) := rfl

theorem Sys2Proof.Laws.Encoding.histogramClear (core : Nat) :
    Statement (.histogramClear core) := rfl

theorem Sys2Proof.Laws.Encoding.traceRingReadIndex (die : Nat) (index : Nat) :
    Statement (.traceRingReadIndex die index) := rfl

theorem Sys2Proof.Laws.Encoding.holdWrite (q : Nat) (hold : Bool) :
    Statement (.holdWrite q hold) := rfl

theorem Sys2Proof.Laws.Encoding.pcselWrite (core : Nat) (n : Nat) (v : Word) :
    Statement (.pcselWrite core n v) := rfl

theorem Sys2Proof.Laws.Encoding.scoreWrite (u : ScoreUnit) (v : Nat) :
    Statement (.scoreWrite u v) := rfl

theorem Sys2Proof.Laws.Encoding.vectorUnmask (v : Nat) :
    Statement (.vectorUnmask v) := rfl

theorem Sys2Proof.Laws.Encoding.managementWrite (host : Bool) (r : MgmtReg) :
    Statement (.managementWrite host r) := rfl

theorem Sys2Proof.Laws.Encoding.watchdogExpiry (core : Nat) (ctx : Nat) :
    Statement (.watchdogExpiry core ctx) := rfl

theorem Sys2Proof.Laws.Encoding.haltLineArrival (part : Nat) (die : Option Nat) :
    Statement (.haltLineArrival part die) := rfl

theorem Sys2Proof.Laws.Encoding.engineStop (core : Nat) (unit : Nat) :
    Statement (.engineStop core unit) := rfl

theorem Sys2Proof.Laws.Encoding.contextRemoval (core : Nat) (ctx : Nat) :
    Statement (.contextRemoval core ctx) := rfl

theorem Sys2Proof.Laws.Encoding.preemptionTrap (k : Who) :
    Statement (.preemptionTrap k) := rfl

theorem Sys2Proof.Laws.Encoding.savedImageWrite (core : Nat) (ctx : Nat) :
    Statement (.savedImageWrite core ctx) := rfl

theorem Sys2Proof.Laws.Encoding.stopAreaWrite (core : Nat) (ctx : Nat) :
    Statement (.stopAreaWrite core ctx) := rfl

theorem Sys2Proof.Laws.Encoding.powerGateCommit (core : Nat) :
    Statement (.powerGateCommit core) := rfl

theorem Sys2Proof.Laws.Encoding.powerUp (core : Nat) :
    Statement (.powerUp core) := rfl

theorem Sys2Proof.Laws.Encoding.clockSkip (die : Nat) :
    Statement (.clockSkip die) := rfl

theorem Sys2Proof.Laws.Encoding.thermalTrip (island : Nat) :
    Statement (.thermalTrip island) := rfl

theorem Sys2Proof.Laws.Encoding.hubTakeover  :
    Statement (.hubTakeover) := rfl

theorem Sys2Proof.Laws.Encoding.powerOnReset (form : BitVec 2) (boot : Bool) (dbg : Bool) :
    Statement (.powerOnReset form boot dbg) := rfl

theorem Sys2Proof.Laws.Encoding.stage0  :
    Statement (.stage0) := rfl

theorem Sys2Proof.Laws.Encoding.stage1 (fw : FirmwareStart) :
    Statement (.stage1 fw) := rfl

theorem Sys2Proof.Laws.Encoding.stage2  :
    Statement (.stage2) := rfl

theorem Sys2Proof.Laws.Encoding.stage3 (dev : Nat) (links : Bool) :
    Statement (.stage3 dev links) := rfl

theorem Sys2Proof.Laws.Encoding.rowSwap (bank : Nat) (a : Nat) (b : Nat) :
    Statement (.rowSwap bank a b) := rfl

theorem Sys2Proof.Laws.Encoding.scrub (word : Nat) :
    Statement (.scrub word) := rfl

theorem Sys2Proof.Laws.Encoding.correctedLineRewrite (line : Nat) :
    Statement (.correctedLineRewrite line) := rfl

theorem Sys2Proof.Laws.Encoding.traceDrain (die : Nat) :
    Statement (.traceDrain die) := rfl

theorem Sys2Proof.Laws.Encoding.rdmaWrite (addr : Nat) (bytes : List Byte) :
    Statement (.rdmaWrite addr bytes) := rfl

theorem Sys2Proof.Laws.Encoding.rdmaRead (addr : Nat) (len : Nat) :
    Statement (.rdmaRead addr len) := rfl

theorem Sys2Proof.Laws.Encoding.mailboxRequest (m : MailboxMsg) :
    Statement (.mailboxRequest m) := rfl

theorem Sys2Proof.Laws.Encoding.frameCheckFailure (port : Nat) :
    Statement (.frameCheckFailure port) := rfl
end

