-- ==== Sys2Proof/Tests/Slice0.lean ====
section
/-! SUPPORT. Tests: words written out from the encoding tables decode; the words that the spec's own examples give; an
ill-formed term for each check of well-formedness; conversions of Tables 2.4 and 2.8 and other worked examples; and, for
every statement with hypotheses, states and operands that meet them. -/

open Sys2Proof Sys2Proof.Machine

namespace Sys2Proof.Tests

-- one theorem after the other: each waits for those before it
set_option Elab.async false

/-- Neither token nor push, no spacing. -/
def h0 : Hdr := ⟨0, 0, 0, 0⟩

/-- A device past its staged start, with one system task in context 0 of core 0 of die 0, whose cluster u runs and is
the one whose word is executed; f, g and k change the cluster, the context and the core. -/
def dev (u : Clu) (f : Cluster → Cluster) (g : Ctx → Ctx) (k : Core → Core) : State :=
  let c := f { Cluster.start with run := .run, sc := 10 }
  let x := g { Ctx.reset with task := some slotTask, clus := [(u.num, c)] }
  { State.reset with
    scan := u.num, cur := ⟨0, 0, u⟩, stage := 4, cores := [(0, k { Core.reset with ctxs := [(0, x)] })],
    parts := [(0, { Part.reset with dies := [0] })] }

/-- The same with nothing changed. -/
def plain (u : Clu) : State := dev u id id id

/-- The hypotheses of State.Issues together with a condition, as a test. -/
def ready (s : State) (i : Instr) (c : Bool) : Bool :=
  match i.hdr? with
  | none => false
  | some h =>
    s.me.run = .run && !s.me.idleStage (s.wordPc i) && s.wordFault i = none && !s.me.blocked && s.me.held = [] &&
    s.myCtx.hasTok (waitQueues s.cur.clu h.wait) && (s.me.dl.all fun f => s.me.sc < f.vis || f.real ≤ s.me.sc) &&
    !s.syncWaits h && c

/-- The test is what it stands for. -/
theorem ready_issues (s : State) (i : Instr) (c : Bool) (r : ready s i c = true) :
    ∃ h, s.Issues i h ∧ c = true := by
  unfold ready at r
  cases hh : i.hdr? with
  | none => simp [hh] at r
  | some h =>
    simp only [hh, Bool.and_eq_true, decide_eq_true_eq, Bool.not_eq_true', List.all_eq_true, Bool.or_eq_true] at r
    obtain ⟨⟨⟨⟨⟨⟨⟨⟨r1, r2⟩, r3⟩, r4⟩, r5⟩, r6⟩, r7⟩, r8⟩, r9⟩ := r
    exact ⟨h, ⟨hh, r1, r2, r3, r4, r5, r6, r7, r8⟩, r9⟩


/-- All four clusters. -/
def cluAll : List Clu := [.c, .a, .v, .m]
/-- A condition on what is there. -/
def whenSome {α : Type} (o : Option α) (f : α → Bool) : Bool := match o with | some a => f a | none => false
/-- The same for a pair. -/
def whenSome2 {α β : Type} (o : Option (α × β)) (f : α → β → Bool) : Bool := match o with | some (a, b) => f a b | none => false
/-- No other core has the row open (R252). -/
def rowFreeB (s : State) (key : Nat) : Bool := match tblFind s.rows key with | some o => o.1 = s.cur.core | none => true
/-- The row is free for a plain store of this core (R252). -/
def freeFor (s : State) (key place : Nat) : Bool := rowFreeB (s.settleRow s.cur.core key place) key
/-- The store queue gives its rows, and the row is free for their store (R252, R286). -/
def storeOk (s : State) (q n key place : Nat) : Bool :=
  match (s.taken h0).popStore q n with
  | some (t, _) => freeFor t key place
  | none => false

/-- Two results of the decoder are the same. -/
def isDec (a b : Except DecErr (Instr × Nat)) : Bool :=
  match a, b with | .ok x, .ok y => x == y | .error x, .error y => x == y | _, _ => false

/-- Each group of words decodes, whole, to its instruction; and the encoder writes these words for it. -/
def groupsOk (l : List (List W32 × Instr)) : Bool :=
  l.all fun p => isDec (decodeGroup p.1) (.ok (p.2, p.1.length)) && encode p.2 == some p.1

/-- The header of the written-out words: SYNC 1, WAIT 10, SIG 01, ISS 01. -/
def hw : Hdr := ⟨1, 2, 1, 1⟩

/-- Words of unit SC, from their rows of the encoding tables. -/
theorem test_words_SC_a : groupsOk [
  ([0b00011001010000000000000000000000#32], .nop hw),
  ([0b00011001010000001101100110111010#32], .add hw 22 13 26),
  ([0b00011001010000010101100110111010#32], .sub hw 22 13 26),
  ([0b00011001010000011101100110111010#32], .mul hw 22 13 26),
  ([0b00011001010000100101100110111010#32], .mulhs hw 22 13 26),
  ([0b00011001010000101101100110111010#32], .mulhn hw 22 13 26),
  ([0b00011001010000110101100110111010#32], .divs hw 22 13 26),
  ([0b00011001010000111101100110111010#32], .divn hw 22 13 26),
  ([0b00011001010001000101100110111010#32], .rems hw 22 13 26),
  ([0b00011001010001001101100110111010#32], .remn hw 22 13 26),
  ([0b00011001010001010101100110111010#32], .and hw 22 13 26),
  ([0b00011001010001011101100110111010#32], .or hw 22 13 26),
  ([0b00011001010001100101100110111010#32], .xor hw 22 13 26),
  ([0b00011001010001101101100110111010#32], .andn hw 22 13 26),
  ([0b00011001010001110101100110111010#32], .shl hw 22 13 26),
  ([0b00011001010001111101100110111010#32], .shr hw 22 13 26),
  ([0b00011001010010000101100110111010#32], .sha hw 22 13 26),
  ([0b00011001010010001101100110111010#32], .rol hw 22 13 26),
  ([0b00011001010010010101100110111010#32], .min hw 22 13 26),
  ([0b00011001010010011101100110111010#32], .max hw 22 13 26),
  ([0b00011001010010100101100110111010#32], .minn hw 22 13 26),
  ([0b00011001010010101101100110111010#32], .maxn hw 22 13 26),
  ([0b00011001010010110101100110100000#32], .clz hw 22 13),
  ([0b00011001010010111101100110100000#32], .popc hw 22 13)] = true := by decide +kernel

/-- Words of unit SC, from their rows of the encoding tables. -/
theorem test_words_SC_b : groupsOk [
  ([0b00011001010011000101100110111010#32], .bfx hw 22 13 26),
  ([0b00011001010011001101100110111010#32], .bfi hw 22 13 26),
  ([0b00011001010011010101100110111010#32], .addi hw none 22 13 26),
  ([0b00011001010011011101100110111010#32], .shli hw none 22 13 26),
  ([0b00011001010011100101100110111010#32], .shri hw none 22 13 26),
  ([0b00011001010011101101100110111010#32], .shai hw none 22 13 26),
  ([0b00011001010011110101100110111010#32], .andi hw none 22 13 26),
  ([0b00011001010011111101101011001101#32], .li hw none 22 717),
  ([0b00011001010100000101100000000000#32], .lih hw none 22),
  ([0b00011001010100001101100110100000#32], .mov hw 22 13),
  ([0b00011001010100010101100110100010#32], .cmov hw 22 13 2),
  ([0b00011001010100011001100110111010#32], .cmpeq hw 6 13 26),
  ([0b00011001010100100001100110111010#32], .cmpne hw 6 13 26),
  ([0b00011001010100101001100110111010#32], .cmplt hw 6 13 26),
  ([0b00011001010100110001100110111010#32], .cmple hw 6 13 26),
  ([0b00011001010100111001100110111010#32], .cmpltn hw 6 13 26),
  ([0b00011001010101000001100110111010#32], .cmplen hw 6 13 26),
  ([0b00011001010101010001100010100010#32], .pand hw 6 5 2),
  ([0b00011001010101011001100010100010#32], .por hw 6 5 2),
  ([0b00011001010101100001100010100010#32], .pxor hw 6 5 2),
  ([0b00011001010110000110110110011010#32], .br hw none 6 1 1434),
  ([0b00011001010110001000010110011010#32], .jmp hw none 1434),
  ([0b00011001010110010000001011000000#32], .jmpr hw 22),
  ([0b00011001010110011000010110011010#32], .call hw none 1434)] = true := by decide +kernel

/-- Words of unit SC, from their rows of the encoding tables. -/
theorem test_words_SC_c : groupsOk [
  ([0b00011001010110100000000000000000#32], .ret hw),
  ([0b00011001010110101101101011001101#32], .loop hw 22 717),
  ([0b00011001010110110101101011001101#32], .loopi hw none 22 717),
  ([0b00011001010110111101101011011001#32], .loopp hw 22 5 89),
  ([0b00011001010111000110100000000000#32], .brkl hw 6 1),
  ([0b00011001010111001000000000000000#32], .endStream hw),
  ([0b00011001010111010000000000000000#32], .tail hw),
  ([0b00011001011000000000000000010110#32], .post hw 22),
  ([0b00011001011000001000000000010110#32], .await hw 22),
  ([0b00011001011000010101100110100000#32], .postg hw 22 13),
  ([0b00011001011000011000000000000110#32], .bar hw 6),
  ([0b00011001011000100000000000001001#32], .fence hw 2 1),
  ([0b00011001011001000101101011001101#32], .rds hw 22 717),
  ([0b00011001011001001101101011001101#32], .wrs hw 22 717),
  ([0b00011001011001010000000000000010#32], .setrm hw 2),
  ([0b00011001011001011000001011001101#32], .seed hw 22 13),
  ([0b00011001011001100000100110111010#32], .view hw 2 13 26),
  ([0b00011001011001101000001011001101#32], .mark hw 717),
  ([0b00011001011001110001101011001101#32], .markq hw 6 717),
  ([0b00011001011001111000001011001101#32], .trap hw 717),
  ([0b00011001011010000000000000000000#32], .bkpt hw)] = true := by decide +kernel

/-- Words of unit AC, from their rows of the encoding tables. -/
theorem test_words_AC_a : groupsOk [
  ([0b00111001010000000101100110111010#32], .aadd hw 22 13 26),
  ([0b00111001010000001101100110111010#32], .aaddi hw none 22 13 26),
  ([0b00111001010000010101100110111010#32], .asub hw 22 13 26),
  ([0b00111001010000011101100110100000#32], .amov hw 22 13),
  ([0b00111001010000100101101011001101#32], .ali hw none 22 717),
  ([0b00111001010000101101100110100000#32], .amode hw 22 13),
  ([0b00111001010000110101100110100000#32], .abase hw 22 13),
  ([0b00111001010000111101100110100000#32], .ainc hw 22 13),
  ([0b00111001010010000000100110111010#32], .ldq hw 2 13 26),
  ([0b00111001010010001110011101000111#32], .ldqx hw none 6 1 26 7),
  ([0b00111001010010010101100110111010#32], .lds hw 22 13 26),
  ([0b00111001010010011000100110111010#32], .ldb hw 2 13 26),
  ([0b00111001010011000000100110111010#32], .stq hw 2 13 26),
  ([0b00111001010011110101100011111001#32], .stqx hw none 2 5 2 7 1 1 1),
  ([0b00111001010100000000000110111010#32], .ldm hw 0 13 26),
  ([0b00111001010100001000000110111010#32], .stm hw 0 13 26),
  ([0b00111001010100010000100110100000#32], .rmerge hw 2 13),
  ([0b00111001010100011000000110111010#32], .mbput hw 0 13 26),
  ([0b00111001010100100101100000111010#32], .mbget hw 22 1 26),
  ([0b00111001010101000000100110111010#32], .ldg hw 2 13 26),
  ([0b00111001010101001000100110111010#32], .stg hw 2 13 26),
  ([0b00111001010101010110011101000111#32], .ldgx hw none 6 1 26 7),
  ([0b00111001010101011110011101000111#32], .stgx hw none 6 1 26 7),
  ([0b00111001010101100000001011001101#32], .pfg hw 22 13)] = true := by decide +kernel

/-- Words of unit AC, from their rows of the encoding tables. -/
theorem test_words_AC_b : groupsOk [
  ([0b00111001010110000000100110111010#32], .ldl hw 2 13 26),
  ([0b00111001010110001000100110111010#32], .stu hw 2 13 26),
  ([0b00111001010110010110110110011011#32], .atomg hw 6 1 2 3 3 3),
  ([0b00111001010110011000001100111011#32], .casg hw 0 1 2 7 3)] = true := by decide +kernel

/-- Words of unit VE, from their rows of the encoding tables. -/
theorem test_words_VE_a : groupsOk [
  ([0b01011001010000010011011101000111#32], .fadd hw none 2 13 26 7),
  ([0b01011001010000110011011101000111#32], .fsub hw none 2 13 26 7),
  ([0b01011001010001010011011101000111#32], .fmul hw none 2 13 26 7),
  ([0b01011001010001110011011101000111#32], .fma hw none 2 13 26 7),
  ([0b01011001010010010011011101000111#32], .fms hw none 2 13 26 7),
  ([0b01011001010010110011011101000111#32], .fnma hw none 2 13 26 7),
  ([0b01011001010011010011011101000111#32], .fdiv hw none 2 13 26 7),
  ([0b01011001010011110011011101000000#32], .fsqrt hw none 2 13 26),
  ([0b01011001010100010011011101000000#32], .fcvt hw none 2 13 26),
  ([0b01011001010100100101100110111010#32], .fmin hw none 22 13 26),
  ([0b01011001010100101101100110111010#32], .fmax hw none 22 13 26),
  ([0b01011001010100110101100110100000#32], .fabs hw none 22 13),
  ([0b01011001010100111101100110100000#32], .fneg hw none 22 13),
  ([0b01011001010101000001100110111010#32], .fcmpeq hw none 6 13 26),
  ([0b01011001010101001001100110111010#32], .fcmplt hw none 6 13 26),
  ([0b01011001010101010001100110111010#32], .fcmple hw none 6 13 26),
  ([0b01011001010101011101100110100000#32], .fclass hw none 22 13),
  ([0b01011001010101100101100110100000#32], .frcp hw none 22 13),
  ([0b01011001010101101101100110100000#32], .frsq hw none 22 13),
  ([0b01011001010101110101100110100000#32], .fexp2 hw none 22 13),
  ([0b01011001010101111101100110100000#32], .flog2 hw none 22 13),
  ([0b01011001010110000101100110100000#32], .ftanh hw none 22 13),
  ([0b01011001010110001101100110100000#32], .fsigm hw none 22 13),
  ([0b01011001010110010101100110100000#32], .fsin hw none 22 13)] = true := by decide +kernel

/-- Words of unit VE, from their rows of the encoding tables. -/
theorem test_words_VE_b : groupsOk [
  ([0b01011001010110011101100110100000#32], .fcos hw none 22 13),
  ([0b01011001010111000101100110111010#32], .iadd hw none 22 13 26),
  ([0b01011001010111001101100110111010#32], .isub hw none 22 13 26),
  ([0b01011001010111010101100110111010#32], .imul hw none 22 13 26),
  ([0b01011001010111011101100110111010#32], .imulh hw none 22 13 26),
  ([0b01011001010111100101100110111010#32], .imad hw none 22 13 26),
  ([0b01011001010111101101100110111010#32], .imin hw none 22 13 26),
  ([0b01011001010111110101100110111010#32], .imax hw none 22 13 26),
  ([0b01011001010111111101100110111010#32], .iand hw none 22 13 26),
  ([0b01011001011000000101100110111010#32], .ior hw none 22 13 26),
  ([0b01011001011000001101100110111010#32], .ixor hw none 22 13 26),
  ([0b01011001011000010101100110111010#32], .ishl hw none 22 13 26),
  ([0b01011001011000011101100110111010#32], .ishr hw none 22 13 26),
  ([0b01011001011000100101100110111010#32], .isha hw none 22 13 26),
  ([0b01011001011000101001100110111010#32], .icmpeq hw none 6 13 26),
  ([0b01011001011000110001100110111010#32], .icmplt hw none 6 13 26),
  ([0b01011001011000111001100110111010#32], .icmpltn hw none 6 13 26),
  ([0b01011001011001000101100110111010#32], .iadds hw none 22 13 26),
  ([0b01011001011001001101100110111010#32], .idot4 hw none 22 13 26),
  ([0b01011001011001010001100110111010#32], .tcmplt hw none 6 13 26),
  ([0b01011001011010000101100110100000#32], .vmov hw none 22 13),
  ([0b01011001011010001101100110100000#32], .vbcast hw none 22 13),
  ([0b01011001011010010101100110111010#32], .vperm hw none 22 13 26),
  ([0b01011001011010011101100110111010#32], .vshuf hw none 22 13 26)] = true := by decide +kernel

/-- Words of unit VE, from their rows of the encoding tables. -/
theorem test_words_VE_c : groupsOk [
  ([0b01011001011010100101100110111010#32], .vsel hw none 22 13 26),
  ([0b01011001011010101101100110111010#32], .vext hw none 22 13 26),
  ([0b01011001011010110101100110111010#32], .vins hw none 22 13 26),
  ([0b01011001011010111101101011001101#32], .vli hw none none 22 717),
  ([0b01011001011011000101100110100000#32], .vrsum hw none 22 13),
  ([0b01011001011011001101100110100000#32], .vrmax hw none 22 13),
  ([0b01011001011011010101100110100000#32], .vrmin hw none 22 13),
  ([0b01011001011011011101100000000000#32], .vrowsum hw none 22),
  ([0b01011001011011100101100000000000#32], .vcolsum hw none 22),
  ([0b01011001011011101000000000000000#32], .vtrans hw none),
  ([0b01011001011100000001100010100010#32], .kand hw none 6 5 2),
  ([0b01011001011100001001100010100010#32], .kor hw none 6 5 2),
  ([0b01011001011100010001100010100010#32], .kxor hw none 6 5 2),
  ([0b01011001011100011001100010100000#32], .knot hw none 6 5),
  ([0b01011001011100100101100010100000#32], .kpopc hw none 22 5),
  ([0b01011001011101000000000000010110#32], .commit hw 22),
  ([0b01011001011101010011010001011001#32], .vwin hw 6 1 89)] = true := by decide +kernel

/-- Words of unit MX, from their rows of the encoding tables. -/
theorem test_words_MX : groupsOk [
  ([0b01111001010000000110110110101101#32], .mma hw 6 13 10 1 1 1),
  ([0b01111001010000001110110110100101#32], .mmas hw 6 13 10 1 1),
  ([0b01111001010000010110000000000000#32], .mzero hw 6),
  ([0b01111001010000011110110100000000#32], .mldacc hw 6 13 0),
  ([0b01111001010000100110110100000000#32], .mstacc hw 6 13),
  ([0b01111001010000101110110100000000#32], .mckrd hw 6 13),
  ([0b01111001010000110000000000000000#32], .mdrain hw)] = true := by decide +kernel

/-- Words of unit EN, from their rows of the encoding tables. -/
theorem test_words_EN : groupsOk [
  ([0b10011001010000000000001011001101#32], .fmtpush hw 22 13),
  ([0b10011001010001000101100110111010#32], .cpy hw 22 13 26),
  ([0b10011001010001001101100110111010#32], .cpyl hw 22 13 26),
  ([0b10011001010001010101100000000000#32], .cpyw hw 22),
  ([0b10011001010001011001100110100000#32], .cpyq hw 6 13),
  ([0b10011001010010000101100110111010#32], .rput hw 22 13 26),
  ([0b10011001010010001101100110111010#32], .rget hw 22 13 26),
  ([0b10011001010010010001011101000111#32], .ratom hw 0 5 26 7),
  ([0b10011001010010011000000000000000#32], .rfence hw),
  ([0b10011001010011000000100110100000#32], .cred hw 2 13),
  ([0b10011001010011001000001011000000#32], .cbcast hw 22),
  ([0b10011001010100000000001011001101#32], .taskq hw 22 13),
  ([0b10011001010100010000001011000000#32], .launch hw 22),
  ([0b10011001010101000000001011001101#32], .almld hw 22 13),
  ([0b10011001010101001000000000000000#32], .almclr hw),
  ([0b10011001010110000101100000100000#32], .eres hw 22 1),
  ([0b10011001010110001000001011000000#32], .cbld hw 22)] = true := by decide +kernel

/-- Words of unit CK, from their rows of the encoding tables. -/
theorem test_words_CK : groupsOk [
  ([0b10111001010000000000100000000000#32], .sigclr hw 2),
  ([0b10111001010000001000100110100000#32], .sigfold hw 2 13),
  ([0b10111001010000010001100110100000#32], .csacc hw 6 13),
  ([0b10111001010000011001100110100000#32], .cschk hw 6 13),
  ([0b10111001010000100000000000000000#32], .chkerr hw),
  ([0b10111001010000101101100000111010#32], .provrd hw 22 1 26),
  ([0b10111001010000110000100000000000#32], .provclr hw 2)] = true := by decide +kernel

/-- Words of unit SY, from their rows of the encoding tables. -/
theorem test_words_SY : groupsOk [
  ([0b11011001010000000101100110100000#32], .slotw hw 22 13),
  ([0b11011001010000001000001011001101#32], .tlbinv hw 22 13),
  ([0b11011001010000010101100110111010#32], .ctxsave hw 22 13 26),
  ([0b11011001010000011101100110111010#32], .ctxload hw 22 13 26),
  ([0b11011001010000100101100110111010#32], .stoprd hw 22 13 26),
  ([0b11011001010000101101100110100000#32], .inject hw 22 13),
  ([0b11011001010000110101100110100000#32], .haltp hw 22 13),
  ([0b11011001010000111101100110100000#32], .resumep hw 22 13),
  ([0b11011001010001000101100110100000#32], .gate hw 22 13),
  ([0b11011001010001001000001011000000#32], .wake hw 22),
  ([0b11011001010001010101100110100000#32], .retire hw 22 13),
  ([0b11011001010001011101100110111010#32], .spare hw 22 13 26),
  ([0b11011001010001100000001011001101#32], .wdset hw 22 13),
  ([0b11011001010001101000001011001101#32], .errinj hw 22 13)] = true := by decide +kernel

/-- Worked encodings of 03. -/
theorem test_examples_03 : groupsOk [
  ([0x56468C3C#32], .fma ⟨1, 1, 2, 1⟩ none 1 3 1 28),
  ([0xE0000048#32, 0x000FA745#32], .li h0 (some 0x48) 9 0x345),
  ([0xF4000000#32, 0x40008443#32], .fadd h0 (some ⟨2, 0, 0, 0, 0⟩) 1 1 2 3)] = true := by decide +kernel

/-- Worked encodings of 04. -/
theorem test_examples_04 : groupsOk [
  ([0x001288A6#32], .cmplt h0 2 5 6),
  ([0x00182804#32], .br h0 none 2 1 4),
  ([0x001BA583#32], .loopp h0 9 3 3)] = true := by decide +kernel

/-- Worked encodings of 05 to 08. -/
theorem test_examples_05_08 : groupsOk [
  ([0x40350410#32], .vwin h0 0 1 16),
  ([0x40350800#32], .vwin h0 1 0 0),
  ([0xA0008920#32], .sigfold h0 2 9),
  ([0xA0018D80#32], .cschk h0 3 12),
  ([0xA0020000#32], .chkerr h0),
  ([0xA0029C28#32], .provrd h0 7 1 8),
  ([0x20080479#32], .ldq h0 1 3 25),
  ([0x200E247D#32], .stqx h0 none 0 2 1 3 1 1 5),
  ([0x20190F22#32], .atomg h0 0 1 3 2 4 2),
  ([0x0022000A#32], .fence h0 2 2),
  ([0x0022000F#32], .fence h0 3 3),
  ([0x20196529#32], .atomg h0 6 0 2 2 5 1)] = true := by decide +kernel

/-- Worked encodings of 09. -/
theorem test_examples_09 : groupsOk [
  ([0x68002451#32], .mma ⟨0, 2, 0, 0⟩ 2 4 5 0 0 1),
  ([0x62020600#32], .mstacc ⟨0, 0, 2, 0⟩ 0 6),
  ([0x81000140#32], .fmtpush ⟨0, 0, 1, 0⟩ 10 0),
  ([0xE0001350#32, 0x000FA977#32], .li h0 (some 0x1350) 10 0x177)] = true := by decide +kernel

/-- Worked encodings of 10. -/
theorem test_examples_10 : groupsOk [
  ([0x8004154B#32], .cpy h0 5 10 11),
  ([0x80051400#32], .cpyw h0 5),
  ([0x800588A0#32], .cpyq h0 2 5),
  ([0x800920A6#32], .ratom h0 1 0 5 6),
  ([0x80098000#32], .rfence h0),
  ([0x80181C00#32], .eres h0 7 0),
  ([0x800C0120#32], .cred h0 0 9),
  ([0x800C8120#32], .cbcast h0 9),
  ([0x8010018D#32], .taskq h0 12 13)] = true := by decide +kernel

/-- Worked encodings of 11 and 12. -/
theorem test_examples_11_12 : groupsOk [
  ([0xC0002180#32], .slotw h0 8 12),
  ([0xC0008085#32], .tlbinv h0 4 5),
  ([0x80110180#32], .launch h0 12),
  ([0x80188120#32], .cbld h0 9),
  ([0xC0060085#32], .wdset h0 4 5)] = true := by decide +kernel

/-- R70, Table 3.7: what is no instruction: an opcode the tables do not list, a used bit that must be zero, a leading
word that the word does not accept, two of one kind, three, and a group that ends too soon. -/
theorem test_refused_words :
    isDec (decodeGroup [0x003F8000]) (.error .unassigned) = true ∧
    isDec (decodeGroup [0x00000001]) (.error .unusedBits) = true ∧
    isDec (decodeGroup [0xF0000000, 0x00008000]) (.error .leadWords) = true ∧
    isDec (decodeGroup [0xE0000000, 0xE0000000, 0x000F8000]) (.error .leadWords) = true ∧
    isDec (decodeGroup [0xE0000000, 0xF0000000, 0xE0000000]) (.error .leadWords) = true ∧
    isDec (decodeGroup [0xE0000000]) (.error .truncated) = true ∧
    isDec (decodeGroup [0xF0000001, 0x40008000]) (.error .unusedBits) = true := by decide +kernel

/-- Terms that hold a value no field permits, one for each check, and a step that no word encodes. -/
theorem test_ill_formed : ([
  .lih h0 none 1,
  .lih h0 (some 0x4000000) 1,
  .loop h0 1 0,
  .loopi h0 none 5 0,
  .loopp h0 1 0 1,
  .loopp h0 1 1 0,
  .fence h0 1 0,
  .rds h0 1 0x3FF,
  .wrs h0 1 0,
  .aadd h0 16 0 0,
  .amode h0 0 0,
  .ldq h0 0 16 0,
  .ldq h0 0 0 2,
  .lds h0 0 0 0,
  .ldqx h0 (some ⟨1, 0, 0, 0, 0⟩) 0 0 0 0,
  .rmerge h0 0 0,
  .mbput h0 0 0 16,
  .mbget h0 0 0 16,
  .atomg h0 7 0 0 0 0 0,
  .casg h0 0 0 0 15 0,
  .fma h0 none 0 28 0 0,
  .fadd h0 (some ⟨0, 0, 0, 0, 1⟩) 0 0 0 0,
  .fabs h0 (some ⟨0, 0, 1, 0, 0⟩) 0 0,
  .iadd h0 (some ⟨0, 0, 0, 1, 0⟩) 0 0 0,
  .kand h0 (some ⟨1, 0, 0, 0, 0⟩) 0 0 0,
  .vsel h0 none 0 0 0,
  .vrsum h0 (some ⟨0, 1, 0, 0, 0⟩) 1 0,
  .vwin h0 10 0 0,
  .ratom h0 0 5 0 0,
  .ratom h0 0 4 0 31,
  .cred h0 3 0,
  .eres h0 0 2,
  .slotw h0 29 0,
  .stage0] : List Instr).all (fun i => !i.wf) = true := by decide +kernel

/-- The results that a word puts into its cluster's delay line. -/
def resOf (i : Instr) (s : State) : List Res :=
  match exec i s with | .next t => t.me.dl.flatMap fun f => f.res | _ => []

/-- Scalars s1 and s2. -/
def two (a b : Word) : State := dev .c (fun c => { c with s := [(1, a), (2, b)] }) id id

/-- A conversion of FP32, as a pattern and whether it clamps. -/
def from32 (f : Fmt) (rm : Rnd) (sat : Bool) (x : Nat) : Nat × Bool :=
  let r := roundTo f rm 0 sat (Fmt.decode .fp32 x)
  (r.1, r.2.clamped)

/-- Table 2.4: TF16 patterns of 1.0, 3.0, -3.0, 1000, 2^-20, 2^-47 and 1.5 x 2^47. -/
theorem test_tf16_patterns :
    ([(Val.fin false 1 0, 0x4000), (.fin false 3 0, 0x4C00), (.fin true 3 0, 0xB400), (.fin false 1000 0, 0x73E8),
      (.fin false 1 (-20), 0x0200), (.fin false 1 (-47), 0x0002), (.fin false 3 46, 0x7FFF)] : List (Val × Nat)).all
      (fun p => (roundTo .tf16 .rne 0 false p.1).1 = p.2 && (roundTo .tf16 .rne 0 false (Fmt.decode .tf16 p.2)).1 = p.2) = true := by
  decide +kernel

/-- Table 2.8: worked conversions. -/
theorem test_worked_conversions :
    from32 .tf8 .rne false 0x453B8000 = (0x7F, true) ∧ from32 .tf8 .rtz false 0x358637BD = (0x01, false) ∧
    from32 .tf8 .rne false 0xB58637BD = (0xFF, false) ∧ (from32 .tf16 .rne false 0x7F800000).1 = 0x8000 ∧
    from32 .tf8 .rne false 0x80000000 = (0x00, false) ∧ from32 .tf8 .rne false 0x43C00000 = (0x7C, false) ∧
    from32 .tf8 .rna false 0x43C00000 = (0x7D, false) ∧ from32 .tf8 .rne false 0x3F840000 = (0x40, false) ∧
    from32 .tf8 .rup false 0x3F840000 = (0x41, false) ∧ from32 .tf16 .rtz false 0x447A0000 = (0x73E8, false) ∧
    (roundTo .fp32 .rne 0 false (Fmt.decode .tf8 0x80)).1 = 0x7FC00000 ∧
    (roundTo .fp32 .rne 0 false (Fmt.decode .tf8 0xB0)).1 = 0xC0000000 ∧
    (from32 .e4m3 .rne false 0x43FA0000).1 = 0x7F ∧ from32 .e4m3 .rne true 0x43FA0000 = (0x7E, true) ∧
    (from32 .e5m2 .rne false 0x7F800000).1 = 0x7C ∧ from32 .bf16 .rne false 0x3F804000 = (0x3F80, false) := by decide +kernel

/-- 02, stochastic rounding: elements 0, 1 and 2 of the worked conversion to BF16. -/
theorem test_stochastic_rounding :
    ((List.range 3).map fun j => (roundTo .bf16 .sr (srBits 0 0 0 j) false (Fmt.decode .fp32 0x3F804000)).1) =
      [0x3F80, 0x3F81, 0x3F80] := by decide +kernel

/-- 05, VROWSUM and VCOLSUM: sums of the worked tile, rounded once. -/
theorem test_exact_sums :
    ([[0x3F800000, 0x30800000, 0xBF800000], [0x40400000, 0x40800000, 0x40A00000], [0x30800000, 0x40800000]].map fun l =>
      (exactSum .fp32 .rne 0 false (l.map (Fmt.decode .fp32))).1) = [0x30800000, 0x41400000, 0x40800000] := by decide +kernel

/-- 06: the signature of 5 and then 7, and of 7 and then 5. -/
theorem test_signature_order :
    sigFold (sigFold 0 5) 7 = 0x28000003E ∧ sigFold (sigFold 0 7) 5 = 0x380000052 := by decide +kernel

/-- 07: syndromes 0, 0x0B (bit d1), 0x0C and 0x7F. -/
theorem test_word_codes :
    [0, 0x0B, 0x0C, 0x7F].map eccDecode = [.clean, .fix (some 1), .bad, .poison] := by decide +kernel

/-- 07, the home-stack slot of core 5 on pseudo-channel 3: a load in its slot, and one after the slot has been used. -/
theorem test_direct_path_slots :
    slotStart 5 3 22 [] = (22, 22) ∧ slotStart 5 3 23 [3 * 2 ^ 64 + 22] = (86, 86) := by decide +kernel

/-- 03: LI of 0x1_2345 with its leading word. -/
theorem test_li_with_leading_word :
    resOf (.li h0 (some 0x48) 9 0x345) (plain .c) = [.scal 9 0x12345] := by decide +kernel

/-- R105: sums and products modulo 2^64; a sum that is a source too. -/
theorem test_sums_wrap :
    resOf (.add h0 1 1 2) (two 0xFFFFFFFFFFFFFFFF 2) = [.scal 1 1] ∧
    resOf (.sub h0 3 1 2) (two 0 1) = [.scal 3 0xFFFFFFFFFFFFFFFF] ∧
    resOf (.mulhn h0 3 1 2) (two 0xFFFFFFFFFFFFFFFF 0xFFFFFFFFFFFFFFFF) = [.scal 3 0xFFFFFFFFFFFFFFFE] ∧
    resOf (.mulhs h0 3 1 2) (two 0xFFFFFFFFFFFFFFFF 0xFFFFFFFFFFFFFFFF) = [.scal 3 0] := by decide +kernel

/-- R108: shifts use b[5:0] only; SHA copies the sign. -/
theorem test_shifts :
    resOf (.shl h0 3 1 2) (two 1 0xFFFFFFFFFFFFFFFF) = [.scal 3 0x8000000000000000] ∧
    resOf (.sha h0 3 1 2) (two 0x8000000000000000 63) = [.scal 3 0xFFFFFFFFFFFFFFFF] ∧
    resOf (.shr h0 3 1 2) (two 0x8000000000000000 127) = [.scal 3 1] ∧
    resOf (.shli h0 none 3 1 31) (two 1 0) = [.scal 3 0x8000000000000000] := by decide +kernel

/-- Comparisons of signed and of natural numbers. -/
theorem test_comparisons :
    resOf (.cmplt h0 1 1 2) (two 0xFFFFFFFFFFFFFFFF 0) = [.pred 1 true] ∧
    resOf (.cmpltn h0 1 1 2) (two 0xFFFFFFFFFFFFFFFF 0) = [.pred 1 false] := by decide +kernel

/-- 07: the addresses of the modulo example and of the bit-reversed example, one post-update after the other. -/
theorem test_address_modes :
    (let c := fun x : Word => postAddr (1 + 0x140 * 2 ^ 8) 0x1000 x 64
     [c 0x1000, c 0x10C0, c 0x1100] = [0x1040, 0x1100, 0x1000]) ∧
    (let c := fun x : Word => postAddr (3 + 3 * 4) 0 x 64
     [c 0x2000, c 0x2100, c 0x2080, c 0x2180, c 0x2040, c 0x2140, c 0x20C0] =
       [0x2100, 0x2080, 0x2180, 0x2040, 0x2140, 0x20C0, 0x21C0]) := by decide +kernel


/-- States and operands that meet the hypotheses of ScalarWordsGiveTheirResults, clause by clause. -/
theorem witness_ScalarWordsGiveTheirResults :
    (let s : State := (dev .c (fun c => { c with s := [(1, 5), (2, 7), (3, 0x104), (31, 8)], p := [(1, true)] }) id id)
     let i : Instr := .add h0 1 2 3
     ready s i ((s.scalarResult i).isSome)) = true ∧
    (let s : State := plain .a
     let i : Instr := .mbput h0 1 17 18
     ready s i ((s.fieldResult i).isSome)) = true ∧
    (let s : State := plain .v
     let i : Instr := .knot h0 none 1 2
     ready s i ((s.fieldResult i).isSome)) = true := by decide +kernel

/-- States and operands that meet the hypotheses of ScalarResultLands, clause by clause. -/
theorem witness_ScalarResultLands :
    (let s : State := plain .c
     s.me.dl = [] ∧ s.me.sc + s.lat 0 ≤ 1000 ∧ s.me.sc + s.ownLatency (dieOf s.cur.core) 0 ≤ 1000) ∧
    (let s : State := plain .c
     s.me.dl = [] ∧ (10 < s.me.sc + s.lat 0 ∨ 10 < s.me.sc + s.ownLatency (dieOf s.cur.core) 0)) := by decide +kernel

/-- States and operands that meet the hypotheses of BranchesGoToTheirTargets, clause by clause. -/
theorem witness_BranchesGoToTheirTargets :
    (let s : State := (dev .c (fun c => { c with s := [(1, 5), (2, 7), (3, 0x104), (31, 8)], p := [(1, true)] }) id id)
     let i : Instr := .br h0 none 1 1 5
     ready s i (s.me.preg 1 ≠ decide ((0 : BitVec 1) = 1))) = true ∧
    (let s : State := (dev .c (fun c => { c with s := [(1, 5), (2, 7), (3, 0x104), (31, 8)], p := [(1, true)] }) id id)
     let i : Instr := .br h0 none 1 0 5
     ready s i (true)) = true ∧
    (let s : State := (dev .c (fun c => { c with s := [(1, 5), (2, 7), (3, 0x104), (31, 8)], p := [(1, true)] }) id id)
     let i : Instr := .jmp h0 none 5
     ready s i (true)) = true ∧
    (let s : State := (dev .c (fun c => { c with s := [(1, 5), (2, 7), (3, 0x104), (31, 8)], p := [(1, true)] }) id id)
     let i : Instr := .call h0 none 5
     ready s i (true)) = true ∧
    (let s : State := (dev .c (fun c => { c with s := [(1, 5), (2, 7), (3, 0x104), (31, 8)], p := [(1, true)] }) id id)
     let i : Instr := .jmpr h0 2
     ready s i ((s.me.sreg 2).toNat < 2 ^ 32)) = true ∧
    (let s : State := (dev .c (fun c => { c with s := [(1, 5), (2, 7), (3, 0x104), (31, 8)], p := [(1, true)] }) id id)
     let i : Instr := .ret h0
     ready s i ((s.me.sreg 31).toNat < 2 ^ 32)) = true ∧
    (let s : State := dev .c (fun c => { c with s := [(1, 4294967296)] }) id id
     let i : Instr := .jmpr h0 1
     ready s i (2 ^ 32 ≤ (s.me.sreg 1).toNat)) = true ∧
    (let s : State := dev .c (fun c => { c with s := [(31, 4294967296)] }) id id
     let i : Instr := .ret h0
     ready s i (2 ^ 32 ≤ (s.me.sreg 31).toNat)) = true := by decide +kernel

/-- States and operands that meet the hypotheses of LoopsStartAndStreamsEnd, clause by clause. -/
theorem witness_LoopsStartAndStreamsEnd_a :
    (let s : State := (dev .c (fun c => { c with s := [(1, 5), (2, 7), (3, 0x104), (31, 8)], p := [(1, true)] }) id id)
     let i : Instr := .loop h0 1 3
     ready s i (s.me.loopp = none ∧ s.me.ldepth = 0)) = true ∧
    (let s : State := (dev .c (fun c => { c with s := [(1, 5), (2, 7), (3, 0x104), (31, 8)], p := [(1, true)] }) id id)
     let i : Instr := .loop h0 4 3
     ready s i (s.me.loopp = none ∧ s.me.ldepth = 0 ∧ s.me.sreg 4 = 0)) = true ∧
    (let s : State := dev .c (fun c => { c with ldepth := 1, lc := [(0, 3)], ls := [(0, 0)], le := [(0, 12)], p := [(1, true)], s := [(1, 5)] }) id id
     let i : Instr := .loopi h0 none 31 3
     ready s i (s.me.loopp = none ∧ s.me.ldepth = 1 ∧ s.wordPc i + 4 * 3 ≤ (s.me.leOf 0).toNat)) = true ∧
    (let s : State := (dev .c (fun c => { c with s := [(1, 5), (2, 7), (3, 0x104), (31, 8)], p := [(1, true)] }) id id)
     let i : Instr := .loopp h0 1 1 1
     ready s i (s.me.loopp = none ∧ s.me.ldepth = 0)) = true ∧
    (let s : State := (dev .c (fun c => { c with s := [(1, 5), (2, 7), (3, 0x104), (31, 8)], p := [(1, true)] }) id id)
     let i : Instr := .brkl h0 1 1
     ready s i (s.me.preg 1 = decide ((1 : BitVec 1) = 1) ∨ s.me.ldepth = 0)) = true ∧
    (let s : State := dev .c (fun c => { c with ldepth := 1, lc := [(0, 3)], ls := [(0, 0)], le := [(0, 8)], p := [(1, true)], s := [(1, 5)] }) id id
     let i : Instr := .brkl h0 1 0
     ready s i (s.me.preg 1 ≠ false ∧ s.me.ldepth = 1 ∧ s.me.loopp = none)) = true ∧
    (let s : State := dev .c (fun c => { c with ldepth := 1, lc := [(0, 3)], ls := [(0, 0)], le := [(0, 8)], loopp := some (0, 3, 1), stg := 1, p := [(1, true)] }) id id
     let i : Instr := .brkl h0 1 0
     ready s i (s.me.preg 1 ≠ false ∧ s.me.ldepth = 1 ∧ s.me.loopp = some (0, 3, 1))) = true ∧
    (let s : State := (dev .c (fun c => { c with s := [(1, 5), (2, 7), (3, 0x104), (31, 8)], p := [(1, true)] }) id id)
     let i : Instr := .endStream h0
     ready s i (true)) = true := by decide +kernel

/-- States and operands that meet the hypotheses of LoopsStartAndStreamsEnd, clause by clause. -/
theorem witness_LoopsStartAndStreamsEnd_b :
    (let s : State := plain .m
     let i : Instr := .tail h0
     ready s i (s.me.dl = [] ∧ s.accs = [] ∧ s.mxOf s.cur = false ∧ s.myCore.tracker.length < 8)) = true ∧
    (let s : State := dev .c (fun c => { c with ldepth := 3, p := [(1, true)], s := [(1, 5)] }) id id
     let i : Instr := .loop h0 1 3
     ready s i (s.me.ldepth = 3)) = true ∧
    (let s : State := dev .c (fun c => { c with ldepth := 1, lc := [(0, 3)], ls := [(0, 0)], le := [(0, 8)], p := [(1, true)], s := [(1, 5)] }) id id
     let i : Instr := .loopi h0 none 31 3
     ready s i (0 < s.me.ldepth ∧ (s.me.leOf (s.me.ldepth - 1)).toNat < s.wordPc i + 4 * 3)) = true ∧
    (let s : State := dev .c (fun c => { c with ldepth := 1, lc := [(0, 3)], ls := [(0, 0)], le := [(0, 8)], loopp := some (0, 3, 1), stg := 1, p := [(1, true)] }) id id
     let i : Instr := .loop h0 1 1
     ready s i (s.me.loopp = some (0, 3, 1) ∧ (s.me.lsOf 0).toNat ≤ s.wordPc i + 4 ∧ s.wordPc i + 4 * 1 ≤ (s.me.leOf 0).toNat)) = true ∧
    (let s : State := dev .c (fun c => { c with ldepth := 1, lc := [(0, 3)], ls := [(0, 0)], le := [(0, 8)], loopp := some (0, 2, 1), stg := 3, p := [(1, true)], s := [(1, 5)] }) id id
     let i : Instr := .loopp h0 1 1 1
     ready s i (s.me.loopp = some (0, 2, 1))) = true := by decide +kernel

/-- States and operands that meet the hypotheses of LoopsComeBack, clause by clause. -/
theorem witness_LoopsComeBack_a :
    (let s : State := dev .c (fun c => { c with ldepth := 1, lc := [(0, 3)], ls := [(0, 0)], le := [(0, 8)], p := [(1, true)], s := [(1, 5)] }) id id
     s.me.ldepth = 0 + 1 ∧ s.me.loopp = none ∧ (s.me.leOf 0).toNat = 8 ∧ 1 < (s.me.lcOf 0).toNat) ∧
    (let s : State := dev .c (fun c => { c with ldepth := 1, lc := [(0, 1)], le := [(0, 8)] }) id id
     s.me.ldepth = 0 + 1 ∧ s.me.loopp = none ∧ (s.me.leOf 0).toNat = 8 ∧ (s.me.lcOf 0).toNat ≤ 1) ∧
    (let s : State := dev .c (fun c => { c with ldepth := 2, lc := [(0, 5), (1, 1)], le := [(0, 8), (1, 8)] }) id id
     s.me.ldepth = 1 + 1 ∧ s.me.loopp = none ∧ (s.me.leOf 1).toNat = 8 ∧ (s.me.lcOf 1).toNat ≤ 1 ∧ (s.me.leOf 0).toNat = 8 ∧ 1 < (s.me.lcOf 0).toNat) ∧
    (let s : State := dev .c (fun c => { c with ldepth := 2, lc := [(0, 1), (1, 0)], le := [(0, 8), (1, 8)] }) id id
     s.me.ldepth = 1 + 1 ∧ s.me.loopp = none ∧ (s.me.leOf 1).toNat = 8 ∧ (s.me.lcOf 1).toNat ≤ 1 ∧ (s.me.leOf 0).toNat = 8 ∧ (s.me.lcOf 0).toNat ≤ 1) ∧
    (let s : State := dev .c (fun c => { c with ldepth := 2, lc := [(0, 5), (1, 1)], le := [(0, 12), (1, 8)] }) id id
     s.me.ldepth = 1 + 1 ∧ s.me.loopp = none ∧ (s.me.leOf 1).toNat = 8 ∧ (s.me.lcOf 1).toNat ≤ 1 ∧ (s.me.leOf 0).toNat ≠ 8) ∧
    (let s : State := dev .c (fun c => { c with ldepth := 1, loopp := some (0, 8, 1), stg := 128, lc := [(0, 3)], le := [(0, 8)] }) id id
     s.me.ldepth = 0 + 1 ∧ s.me.loopp = some (0, 8, 1) ∧ (s.me.leOf 0).toNat = 8 ∧ s.me.lcOf 0 ≠ 0 ∧ s.me.stopping = false ∧ s.me.draining = false ∧ (2 * s.me.stg.toNat + 1) % 2 ^ 8 ≠ 0) ∧
    (let s : State := dev .c (fun c => { c with ldepth := 1, loopp := some (0, 2, 1), stg := 2, lc := [(0, 0)], le := [(0, 8)] }) id id
     s.me.ldepth = 0 + 1 ∧ s.me.loopp = some (0, 2, 1) ∧ (s.me.leOf 0).toNat = 8 ∧ s.me.lcOf 0 = 0 ∧ (2 * s.me.stg.toNat + 0) % 2 ^ 2 = 0) ∧
    (let s : State := dev .c (fun c => { c with ldepth := 2, loopp := some (1, 2, 1), stg := 2, lc := [(0, 5), (1, 0)], le := [(0, 8), (1, 8)] }) id id
     s.me.ldepth = 1 + 1 ∧ s.me.loopp = some (1, 2, 1) ∧ (s.me.leOf 1).toNat = 8 ∧ (2 * s.me.stg.toNat + 0) % 2 ^ 2 = 0 ∧ (s.me.leOf 0).toNat = 8 ∧ s.me.lcOf 1 = 0 ∧ 1 < (s.me.lcOf 0).toNat) := by decide +kernel

/-- States and operands that meet the hypotheses of LoopsComeBack, clause by clause. -/
theorem witness_LoopsComeBack_b :
    (let s : State := dev .c (fun c => { c with ldepth := 1, loopp := some (0, 2, 1), stg := 2, draining := true, lc := [(0, 3)], le := [(0, 8)] }) id id
     s.me.ldepth = 0 + 1 ∧ s.me.loopp = some (0, 2, 1) ∧ (s.me.leOf 0).toNat = 8 ∧ s.me.lcOf 0 ≠ 0 ∧ s.me.stopping = false ∧ s.me.draining = true ∧ (2 * s.me.stg.toNat + 0) % 2 ^ 2 = 0) := by decide +kernel

/-- States and operands that meet the hypotheses of FlagsAndBarriers, clause by clause. -/
theorem witness_FlagsAndBarriers :
    (let s : State := (dev .c (fun c => { c with s := [(1, 5), (2, 7), (3, 0x104), (31, 8)], p := [(1, true)] }) id id)
     let i : Instr := .post h0 31
     ready s i (true)) = true ∧
    (let s : State := dev .c id (fun x => { x with flags := [(31, true)] }) id
     let i : Instr := .await h0 31
     ready s i (s.myCtx.flag 31 = true ∧ 31 ∉ s.myCtx.fclears)) = true ∧
    (let s : State := dev .c (fun c => { c with s := [(1, 15)] }) id id
     let i : Instr := .postg h0 3 1
     ready s i (s.myTask.cls = 0 ∧ (s.me.sreg 1).toNat < 16 ∧ ((s.taken h0).release s.cur 1).isSome)) = true ∧
    (let s : State := dev .c (fun c => { c with barGo := true }) id id
     let i : Instr := .bar h0 15
     ready s i (s.myTask.cls = 0 ∧ s.me.barGo = true)) = true ∧
    (let s : State := plain .m
     let i : Instr := .fence h0 2 3
     ready s i (s.loadsDone s.cur = true ∧ s.cmdsOf s.cur (fun k => k = s.cur.clu) = false ∧ s.mxOf s.cur = false ∧ ((s.taken h0).release s.cur 2).isSome)) = true ∧
    (let s : State := plain .c
     let i : Instr := .bar h0 15
     ready s i (s.myTask.cls = 0 ∧ s.me.barGo = false ∧ s.me.asked = false ∧ ((s.taken h0).release s.cur 1).isSome)) = true ∧
    (let s : State := { plain .c with dies := [(0, { Die.reset with bcnt := [(15, 1)] })] }
     let i : Instr := .bar h0 15
     ready s i (s.myTask.cls = 0 ∧ s.me.barGo = false ∧ s.me.asked = false ∧ ((s.taken h0).release s.cur 1).isSome ∧ (s.die 0).barCount 15 ≤ ((s.die 0).arrivers 15).length + 1)) = true := by decide +kernel

/-- States and operands that meet the hypotheses of BarriersOpenAndFlagsChange, clause by clause. -/
theorem witness_BarriersOpenAndFlagsChange :
    (let s : State := { plain .c with dies := [(0, { Die.reset with bcnt := [(15, 1)], barr := [(15, [⟨0, 0, .c⟩])] })] }
     (s.die 0).arrivers 15 ≠ [] ∧ (s.die 0).barCount 15 ≤ ((s.die 0).arrivers 15).length) := by decide +kernel

/-- States and operands that meet the hypotheses of SpecialRegistersAreReadAndWritten, clause by clause. -/
theorem witness_SpecialRegistersAreReadAndWritten :
    (let s : State := (dev .c (fun c => { c with s := [(1, 5), (2, 7), (3, 0x104), (31, 8)], p := [(1, true)] }) id id)
     let i : Instr := .rds h0 1 1
     ready s i (true)) = true ∧
    (let s : State := dev .c (fun c => { c with s := [(1, 3)] }) id id
     let i : Instr := .wrs h0 1 1
     ready s i ((s.me.sreg 1).toNat < 2 ^ specialBits 1)) = true ∧
    (let s : State := dev .c (fun c => { c with s := [(1, 64)] }) id id
     let i : Instr := .wrs h0 1 0x100
     ready s i ((s.me.sreg 1).toNat < 2 ^ specialBits 0x100 ∧ 1 ≤ (s.me.sreg 1).toNat ∧ (s.me.sreg 1).toNat ≤ 64)) = true ∧
    (let s : State := (dev .c (fun c => { c with s := [(1, 5), (2, 7), (3, 0x104), (31, 8)], p := [(1, true)] }) id id)
     let i : Instr := .setrm h0 2
     ready s i (true)) = true ∧
    (let s : State := (dev .c (fun c => { c with s := [(1, 5), (2, 7), (3, 0x104), (31, 8)], p := [(1, true)] }) id id)
     let i : Instr := .seed h0 1 2
     ready s i ((s.me.sreg 2).toNat < 2 ^ 32)) = true ∧
    (let s : State := plain .c
     let i : Instr := .view h0 0 1 0
     ready s i (viewOk 0 ((s.me.sreg 1 &&& ~~~s.me.sreg 0) ||| (s.myCtx.view 0 &&& s.me.sreg 0)) s.myTask.snap.frame = true)) = true := by decide +kernel

/-- States and operands that meet the hypotheses of AlmanacMarkersAndEntries, clause by clause. -/
theorem witness_AlmanacMarkersAndEntries_a :
    (let s : State := { plain .c with parts := [(0, { Part.reset with dies := [0], root := 0x30000, rootn := 1 })], pins := [], launches := [(7, ({ part := 0, lq := none, words := [], snap := { Snap.none with img := 0x100000, size := 65536, frame := 16384, codeOff := 256, codeSize := 64, entry := [256, 260, 264, 268] }, total := 0, seq := 0, tqCount := 0, alive := 0, alm := [({ control := BitVec.ofNat 64 (0 + 1 * 4 + 1 * 16), object := BitVec.ofNat 64 1, dest := 0x80000, st := .fired 0 } : AEnt)], arr := [], fireNo := 1, hasAlm := false, released := false, unresolved := false } : Launch))], mem := ((((Mem.writeN [] 0x30000 8 0x30101).writeN 0x30100 8 0x31001).writeN 0x31000 8 0x32001).writeN 0x32008 8 (0x60000 + 7)).writeN 0x60010 2 0x1234 }
     let e := ({ control := BitVec.ofNat 64 (0 + 1 * 4 + 1 * 16), object := BitVec.ofNat 64 1, dest := 0x80000, st := .fired 0 } : AEnt); whenSome (s.launch? 7) (fun l => l.alm = [e] && s.entMayStart l e 0 && !e.shape && (s.tileAt l.part e.tile (lvOf e.lvFrom)).2) = true ∧ e.action = 0 ∧ (s.tileAt 0 e.tile (lvOf e.lvFrom)).1.blockOk e.dest.toNat e.tile.2 (lvOf e.lvTo) = true) ∧
    (let s : State := { plain .c with parts := [(0, { Part.reset with dies := [0], root := 0x30000, rootn := 1 })], pins := [], launches := [(7, ({ part := 0, lq := none, words := [], snap := { Snap.none with img := 0x100000, size := 65536, frame := 16384, codeOff := 256, codeSize := 64, entry := [256, 260, 264, 268] }, total := 0, seq := 0, tqCount := 0, alive := 0, alm := [({ control := BitVec.ofNat 64 (1 + 1 * 4 + 1 * 16), object := BitVec.ofNat 64 1, dest := 0x80000, st := .fired 0 } : AEnt)], arr := [], fireNo := 1, hasAlm := false, released := false, unresolved := false } : Launch))], mem := ((((Mem.writeN [] 0x30000 8 0x30101).writeN 0x30100 8 0x31001).writeN 0x31000 8 0x32001).writeN 0x32008 8 (0x60000 + 7)).writeN 0x60010 2 0x1234 }
     let e := ({ control := BitVec.ofNat 64 (1 + 1 * 4 + 1 * 16), object := BitVec.ofNat 64 1, dest := 0x80000, st := .fired 0 } : AEnt); whenSome (s.launch? 7) (fun l => l.alm = [e] && s.entMayStart l e 0 && !e.shape && (s.tileAt l.part e.tile (lvOf e.lvFrom)).2) = true ∧ e.action = 1 ∧ (s.tileAt 0 e.tile (lvOf e.lvFrom)).1.blockOk e.dest.toNat e.tile.2 (lvOf e.lvTo) = true ∧ s.isPinned 0 e.object = false) ∧
    (let s : State := { plain .c with parts := [(0, { Part.reset with dies := [0], root := 0x30000, rootn := 1 })], pins := [(7, 1)], launches := [(7, ({ part := 0, lq := none, words := [], snap := { Snap.none with img := 0x100000, size := 65536, frame := 16384, codeOff := 256, codeSize := 64, entry := [256, 260, 264, 268] }, total := 0, seq := 0, tqCount := 0, alive := 0, alm := [({ control := BitVec.ofNat 64 (1 + 1 * 4 + 1 * 16), object := BitVec.ofNat 64 1, dest := 0x80000, st := .fired 0 } : AEnt)], arr := [], fireNo := 1, hasAlm := false, released := false, unresolved := false } : Launch))], mem := ((((Mem.writeN [] 0x30000 8 0x30101).writeN 0x30100 8 0x31001).writeN 0x31000 8 0x32001).writeN 0x32008 8 (0x60000 + 7)).writeN 0x60010 2 0x1234 }
     let e := ({ control := BitVec.ofNat 64 (1 + 1 * 4 + 1 * 16), object := BitVec.ofNat 64 1, dest := 0x80000, st := .fired 0 } : AEnt); whenSome (s.launch? 7) (fun l => l.alm = [e] && s.entMayStart l e 0 && !e.shape && (s.tileAt l.part e.tile (lvOf e.lvFrom)).2) = true ∧ e.action = 1 ∧ (s.tileAt 0 e.tile (lvOf e.lvFrom)).1.blockOk e.dest.toNat e.tile.2 (lvOf e.lvTo) = true ∧ s.isPinned 0 e.object = true) ∧
    (let s : State := { plain .c with parts := [(0, { Part.reset with dies := [0], root := 0x30000, rootn := 1 })], pins := [], launches := [(7, ({ part := 0, lq := none, words := [], snap := { Snap.none with img := 0x100000, size := 65536, frame := 16384, codeOff := 256, codeSize := 64, entry := [256, 260, 264, 268] }, total := 0, seq := 0, tqCount := 0, alive := 0, alm := [({ control := BitVec.ofNat 64 (2 + 1 * 4 + 1 * 16), object := BitVec.ofNat 64 1, dest := 0x80000, st := .fired 0 } : AEnt)], arr := [], fireNo := 1, hasAlm := false, released := false, unresolved := false } : Launch))], mem := ((((Mem.writeN [] 0x30000 8 0x30101).writeN 0x30100 8 0x31001).writeN 0x31000 8 0x32001).writeN 0x32008 8 (0x60000 + 7)).writeN 0x60010 2 0x1234 }
     let e := ({ control := BitVec.ofNat 64 (2 + 1 * 4 + 1 * 16), object := BitVec.ofNat 64 1, dest := 0x80000, st := .fired 0 } : AEnt); whenSome (s.launch? 7) (fun l => l.alm = [e] && s.entMayStart l e 0 && !e.shape && (s.tileAt l.part e.tile (lvOf e.lvFrom)).2) = true ∧ e.action = 2) ∧
    (let s : State := { plain .c with parts := [(0, { Part.reset with dies := [0], root := 0x30000, rootn := 1 })], pins := [(7, 1)], launches := [(7, ({ part := 0, lq := none, words := [], snap := { Snap.none with img := 0x100000, size := 65536, frame := 16384, codeOff := 256, codeSize := 64, entry := [256, 260, 264, 268] }, total := 0, seq := 0, tqCount := 0, alive := 0, alm := [({ control := BitVec.ofNat 64 (3 + 1 * 4 + 1 * 16), object := BitVec.ofNat 64 1, dest := 0x80000, st := .fired 0 } : AEnt)], arr := [], fireNo := 1, hasAlm := false, released := false, unresolved := false } : Launch))], mem := ((((Mem.writeN [] 0x30000 8 0x30101).writeN 0x30100 8 0x31001).writeN 0x31000 8 0x32001).writeN 0x32008 8 (0x60000 + 7)).writeN 0x60010 2 0x1234 }
     let e := ({ control := BitVec.ofNat 64 (3 + 1 * 4 + 1 * 16), object := BitVec.ofNat 64 1, dest := 0x80000, st := .fired 0 } : AEnt); whenSome (s.launch? 7) (fun l => l.alm = [e] && s.entMayStart l e 0 && !e.shape && (s.tileAt l.part e.tile (lvOf e.lvFrom)).2) = true ∧ e.action = 3 ∧ e.lvTo = e.lvFrom) ∧
    (({ sbit := 0, dbit := 0x10000, q := 0, sfmt := 0, dfmt := 0, rm := 0, sat := false, sswz := 0, dswz := 0, sspace := 1, dspace := 1, dims := [(16, 0, 0)] } : Shape).count ≤ 16) ∧
    (let s : State := plain .c
     let i : Instr := .mark h0 5
     ready s i (s.me.answer = none)) = true ∧
    (let s : State := plain .c
     let i : Instr := .markq h0 1 5
     ready s i (s.me.answer = none)) = true := by decide +kernel

/-- States and operands that meet the hypotheses of AlmanacMarkersAndEntries, clause by clause. -/
theorem witness_AlmanacMarkersAndEntries_b :
    (let s : State := dev .c (fun c => { c with answer := some 3, asked := true }) id id
     let i : Instr := .mark h0 5
     ready s i (s.me.answer = some 3 ∧ (3 : Word).getLsbD 0 = true)) = true ∧
    (let s : State := dev .c (fun c => { c with answer := some 2, asked := true }) id id
     let i : Instr := .mark h0 5
     ready s i (s.me.answer = some 2 ∧ (2 : Word).getLsbD 0 = false)) = true ∧
    (let s : State := dev .c (fun c => { c with answer := some 1, asked := true }) id id
     let i : Instr := .markq h0 1 5
     ready s i (s.me.answer = some 1)) = true ∧
    (let s : State := (dev .c (fun c => { c with wait := some .mark, asked := true }) id (fun k => { k with icache := [(lineKey slotTask 0, bytesOfNat 64 2523141)] }))
     (s.clu s.cur).run = .run ∧ (s.clu s.cur).wait = some .mark ∧ (s.clu s.cur).asked = true ∧ (s.clu s.cur).answer = none ∧ s.nextGroup s.cur = .ok (.mark h0 5) ∧ (s.launch? (s.taskOf s.cur).launch).isNone = true) ∧
    (let s : State := { (dev .c (fun c => { c with wait := some .mark, asked := true }) id (fun k => { k with icache := [(lineKey slotTask 0, bytesOfNat 64 2523141)] })) with launches := [(0, { part := 0, lq := none, words := [], snap := Snap.none, total := 0, seq := 0, tqCount := 0, alive := 1, alm := [], arr := [], fireNo := 1, hasAlm := false, released := false, unresolved := false })] }
     (s.clu s.cur).run = .run ∧ (s.clu s.cur).wait = some .mark ∧ (s.clu s.cur).asked = true ∧ (s.clu s.cur).answer = none ∧ s.nextGroup s.cur = .ok (.mark h0 5) ∧ whenSome (s.launch? (s.taskOf s.cur).launch) (fun l => !l.hasAlm) = true) ∧
    (let s : State := { (dev .c (fun c => { c with wait := some .mark, asked := true }) id (fun k => { k with icache := [(lineKey slotTask 0, bytesOfNat 64 2523141)] })) with launches := [(0, { part := 0, lq := none, words := [], snap := Snap.none, total := 0, seq := 0, tqCount := 0, alive := 1, alm := [{ control := BitVec.ofNat 64 (5 * 2 ^ 17 + 2 ^ 27 + 2 ^ 32), object := 0, dest := 0, st := .done }], arr := [], fireNo := 1, hasAlm := true, released := false, unresolved := false })] }
     (s.clu s.cur).run = .run ∧ (s.clu s.cur).wait = some .mark ∧ (s.clu s.cur).asked = true ∧ (s.clu s.cur).answer = none ∧ s.nextGroup s.cur = .ok (.mark h0 5) ∧ whenSome (s.launch? (s.taskOf s.cur).launch) (fun l => l.hasAlm && l.resident 5) = true ∧ (s.taskOf s.cur).cls = 0) ∧
    (let s : State := { (dev .c (fun c => { c with wait := some .mark, asked := true }) id (fun k => { k with icache := [(lineKey slotTask 0, bytesOfNat 64 2523141)] })) with launches := [(0, { part := 0, lq := none, words := [], snap := Snap.none, total := 0, seq := 0, tqCount := 0, alive := 1, alm := [{ control := BitVec.ofNat 64 (5 * 2 ^ 17 + 2 ^ 27 + 2 ^ 32), object := 0, dest := 0, st := .idle }], arr := [], fireNo := 1, hasAlm := true, released := false, unresolved := false })] }
     (s.clu s.cur).run = .run ∧ (s.clu s.cur).wait = some .mark ∧ (s.clu s.cur).asked = true ∧ (s.clu s.cur).answer = none ∧ s.nextGroup s.cur = .ok (.mark h0 5) ∧ whenSome (s.launch? (s.taskOf s.cur).launch) (fun l => l.hasAlm && !l.resident 5) = true) ∧
    (let s : State := { (dev .c (fun c => { c with wait := some .mark, asked := true }) (fun x => { x with task := some { slotTask with cls := 1 } }) (fun k => { k with icache := [(lineKey slotTask 0, bytesOfNat 64 2523141)] })) with launches := [(0, { part := 0, lq := none, words := [], snap := Snap.none, total := 0, seq := 0, tqCount := 0, alive := 1, alm := [], arr := [], fireNo := 1, hasAlm := true, released := false, unresolved := false })] }
     (s.clu s.cur).run = .run ∧ (s.clu s.cur).wait = some .mark ∧ (s.clu s.cur).asked = true ∧ (s.clu s.cur).answer = none ∧ s.nextGroup s.cur = .ok (.mark h0 5) ∧ whenSome (s.launch? (s.taskOf s.cur).launch) (fun l => l.hasAlm && l.resident 5) = true) := by decide +kernel

/-- States and operands that meet the hypotheses of AlmanacMarkersAndEntries, clause by clause. -/
theorem witness_AlmanacMarkersAndEntries_c :
    (let s : State := { (dev .c (fun c => { c with wait := some .mark, asked := true }) id (fun k => { k with icache := [(lineKey slotTask 0, bytesOfNat 64 (match encode (.markq h0 1 5) with | some [w] => w.toNat | _ => 0))] })) with launches := [(0, { part := 0, lq := none, words := [], snap := Snap.none, total := 0, seq := 0, tqCount := 0, alive := 1, alm := [{ control := BitVec.ofNat 64 (5 * 2 ^ 17 + 2 ^ 27 + 2 ^ 32), object := 0, dest := 0, st := .done }], arr := [], fireNo := 1, hasAlm := true, released := false, unresolved := false })] }
     (s.clu s.cur).run = .run ∧ (s.clu s.cur).wait = some .mark ∧ (s.clu s.cur).asked = true ∧ (s.clu s.cur).answer = none ∧ s.nextGroup s.cur = .ok (.markq h0 1 5) ∧ whenSome (s.launch? (s.taskOf s.cur).launch) (fun l => l.hasAlm && l.resident 5) = true ∧ (s.taskOf s.cur).cls = 0) ∧
    (let s : State := { (dev .c (fun c => { c with wait := some .mark, asked := true }) id (fun k => { k with icache := [(lineKey slotTask 0, bytesOfNat 64 (match encode (.markq h0 1 5) with | some [w] => w.toNat | _ => 0))] })) with launches := [(0, { part := 0, lq := none, words := [], snap := Snap.none, total := 0, seq := 0, tqCount := 0, alive := 1, alm := [{ control := BitVec.ofNat 64 (5 * 2 ^ 17 + 2 ^ 27 + 2 ^ 32), object := 0, dest := 0, st := .idle }], arr := [], fireNo := 1, hasAlm := true, released := false, unresolved := false })] }
     (s.clu s.cur).run = .run ∧ (s.clu s.cur).wait = some .mark ∧ (s.clu s.cur).asked = true ∧ (s.clu s.cur).answer = none ∧ s.nextGroup s.cur = .ok (.markq h0 1 5) ∧ whenSome (s.launch? (s.taskOf s.cur).launch) (fun l => l.hasAlm && !l.resident 5) = true ∧ (s.taskOf s.cur).cls = 0) := by decide +kernel

/-- States and operands that meet the hypotheses of TrapsAreTaken, clause by clause. -/
theorem witness_TrapsAreTaken :
    (let s : State := (dev .c (fun c => { c with s := [(1, 5), (2, 7), (3, 0x104), (31, 8)], p := [(1, true)] }) id id)
     let i : Instr := .trap h0 1023
     ready s i (true)) = true ∧
    (let s : State := (dev .c (fun c => { c with s := [(1, 5), (2, 7), (3, 0x104), (31, 8)], p := [(1, true)] }) id id)
     let i : Instr := .bkpt h0
     ready s i ((s.part s.myTask.part).debug = false)) = true ∧
    (let s : State := { plain .c with parts := [(0, { Part.reset with dies := [0], debug := true })] }
     let i : Instr := .bkpt h0
     ready s i ((s.part s.myTask.part).debug = true)) = true ∧
    (let s : State := dev .c (fun c => { c with pc := 8 }) (fun x => { x with bkpt := true }) id
     s.myCtx.bkpt = true) := by decide +kernel

/-- States and operands that meet the hypotheses of ScratchpadLoadsReadTheirRow, clause by clause. -/
theorem witness_ScratchpadLoadsReadTheirRow_a :
    (let s : State := dev .a (fun c => { c with a := [(0, 0x48)], mb := [(1, 77)] }) (fun x => { x with sq := [(0, [⟨0, true, 5, 0⟩])] }) (fun k => { k with spm := [(0x48, 9)] })
     let i : Instr := .ldq h0 3 0 0
     ready s i (s.spmAddr (s.me.areg 0) = some (0, false) ∧ rowFreeB (((s.taken h0).windowWakes 0 false).loadingRow (s.me.areg 0) 0) (spmKey 0 (s.me.areg 0).toNat) ∧ roomRows (s.myCtx.lrows 3) 1 = true)) = true ∧
    (let s : State := dev .a (fun c => { c with a := [(0, 0x48)], mb := [(1, 77)] }) (fun x => { x with sq := [(0, [⟨0, true, 5, 0⟩])] }) (fun k => { k with spm := [(0x48, 9)] })
     let i : Instr := .ldb h0 3 0 0
     ready s i (s.spmAddr (s.me.areg 0) = some (0, false) ∧ rowFreeB (((s.taken h0).windowWakes 0 false).loadingRow (s.me.areg 0) 0) (spmKey 0 (s.me.areg 0).toNat) ∧ roomRows (s.myCtx.lrows 3) 8 = true)) = true ∧
    (let s : State := dev .a (fun c => { c with a := [(0, 0x48)], mb := [(1, 77)] }) (fun x => { x with sq := [(0, [⟨0, true, 5, 0⟩])] }) (fun k => { k with spm := [(0x48, 9)] })
     let i : Instr := .ldqx h0 none 6 3 0 0
     ready s i (s.spmAddr (s.me.areg 0) = some (0, false) ∧ rowFreeB (((s.taken h0).windowWakes 0 false).loadingRow (s.me.areg 0) 0) (spmKey 0 (s.me.areg 0).toNat) ∧ roomRows (s.myCtx.lrows 3) (loadRows 6) = true)) = true ∧
    (let s : State := dev .a (fun c => { c with a := [(0, 0x48)], mb := [(1, 77)] }) (fun x => { x with sq := [(0, [⟨0, true, 5, 0⟩])] }) (fun k => { k with spm := [(0x48, 9)] })
     let i : Instr := .lds h0 17 0 0
     ready s i (s.spmAddr (s.me.areg 0) = some (0, false) ∧ rowFreeB (((s.taken h0).windowWakes 0 false).loadingRow (s.me.areg 0) 0) (spmKey 0 (s.me.areg 0).toNat))) = true ∧
    (let s : State := dev .a (fun c => { c with a := [(0, 0x48)], mb := [(1, 77)] }) (fun x => { x with sq := [(0, [⟨0, true, 5, 0⟩])] }) (fun k => { k with spm := [(0x48, 9)] })
     let i : Instr := .ldm h0 1 0 0
     ready s i (s.spmAddr (s.me.areg 0) = some (0, false) ∧ rowFreeB (((s.taken h0).windowWakes 0 false).loadingRow (s.me.areg 0) 0) (spmKey 0 (s.me.areg 0).toNat))) = true ∧
    (let s : State := dev .a (fun c => { c with a := [(0, 0x48)], mb := [(1, 77)] }) (fun x => { x with sq := [(0, [⟨0, true, 5, 0⟩])] }) (fun k => { k with spm := [(0x48, 9)] })
     let i : Instr := .ldl h0 3 0 0
     ready s i (s.spmAddr (s.me.areg 0) = some (0, false) ∧ roomRows ((((s.taken h0).windowWakes 0 false).performUnlocks 0 (s.me.areg 0).toNat).myCtx.lrows 3) 1 = true ∧ tblFind ((((s.taken h0).windowWakes 0 false).performUnlocks 0 (s.me.areg 0).toNat).core 0).locks (lockKey (s.me.areg 0).toNat) = none)) = true ∧
    (let s : State := dev .a (fun c => { c with a := [(0, 0x48)] }) id (fun k => { k with locks := [(lockKey 0x48, (0, 0))] })
     let i : Instr := .ldl h0 3 0 0
     ready s i (s.spmAddr (s.me.areg 0) = some (0, false) ∧ roomRows ((((s.taken h0).windowWakes 0 false).performUnlocks 0 (s.me.areg 0).toNat).myCtx.lrows 3) 1 = true ∧ tblFind ((((s.taken h0).windowWakes 0 false).performUnlocks 0 (s.me.areg 0).toNat).core 0).locks (lockKey (s.me.areg 0).toNat) = some (0, 0))) = true ∧
    (let s : State := dev .a (fun c => { c with a := [(0, 0x1100048)] }) id id
     let i : Instr := .ldq h0 3 0 0
     ready s i (s.spmAddr (s.me.areg 0) = some (1, true) ∧ s.me.barGo = false ∧ roomRows (s.myCtx.lrows 3) 1 = true ∧ (s.core 1).power ≠ .off)) = true := by decide +kernel

/-- States and operands that meet the hypotheses of ScratchpadLoadsReadTheirRow, clause by clause. -/
theorem witness_ScratchpadLoadsReadTheirRow_b :
    (let s : State := dev .a (fun c => { c with a := [(0, 0x1100048)] }) id id
     let i : Instr := .lds h0 17 0 0
     ready s i (s.spmAddr (s.me.areg 0) = some (1, true) ∧ s.me.barGo = false ∧ (s.core 1).power ≠ .off)) = true ∧
    (let s : State := dev .a (fun c => { c with a := [(0, 0x1100048)] }) id id
     let i : Instr := .ldm h0 1 0 0
     ready s i (s.spmAddr (s.me.areg 0) = some (1, true) ∧ s.me.barGo = false ∧ (s.core 1).power ≠ .off)) = true ∧
    (let s : State := dev .a (fun c => { c with barGo := true, a := [(0, 0x1100048)] }) id id
     let i : Instr := .ldq h0 3 0 0
     ready s i (s.spmAddr (s.me.areg 0) = some (1, true) ∧ s.me.barGo = true ∧ roomRows (s.myCtx.lrows 3) 1 = true ∧ rowFreeB (((s.taken h0).windowWakes 1 true).loadingRow (s.me.areg 0) 1) (spmKey 1 (s.me.areg 0).toNat) ∧ (s.core 1).power ≠ .off)) = true ∧
    (let s : State := dev .a (fun c => { c with a := [(0, 0x1100048)] }) id id
     let i : Instr := .ldb h0 3 0 0
     ready s i (s.spmAddr (s.me.areg 0) = some (1, true) ∧ s.me.barGo = false ∧ roomRows (s.myCtx.lrows 3) 8 = true ∧ (s.core 1).power ≠ .off)) = true ∧
    (let s : State := dev .a (fun c => { c with a := [(0, 0x1100048)] }) id id
     let i : Instr := .ldqx h0 none 6 3 0 0
     ready s i (s.spmAddr (s.me.areg 0) = some (1, true) ∧ s.me.barGo = false ∧ roomRows (s.myCtx.lrows 3) (loadRows 6) = true ∧ (s.core 1).power ≠ .off)) = true ∧
    (let s : State := State.modCore (dev .a (fun c => { c with a := [(0, 0x1100048)] }) id id) 1 fun k => { k with power := .off }
     let i : Instr := .ldq h0 3 0 0
     ready s i (s.spmAddr (s.me.areg 0) = some (1, true) ∧ (s.core 1).power = .off ∧ roomRows (s.myCtx.lrows 3) 1 = true)) = true ∧
    (let s : State := State.modCore (dev .a (fun c => { c with a := [(0, 0x1100048)] }) id id) 1 fun k => { k with power := .off }
     let i : Instr := .ldb h0 3 0 0
     ready s i (s.spmAddr (s.me.areg 0) = some (1, true) ∧ (s.core 1).power = .off ∧ roomRows (s.myCtx.lrows 3) 8 = true)) = true ∧
    (let s : State := State.modCore (dev .a (fun c => { c with a := [(0, 0x1100048)] }) id id) 1 fun k => { k with power := .off }
     let i : Instr := .ldqx h0 none 6 3 0 0
     ready s i (s.spmAddr (s.me.areg 0) = some (1, true) ∧ (s.core 1).power = .off ∧ roomRows (s.myCtx.lrows 3) (loadRows 6) = true)) = true := by decide +kernel

/-- States and operands that meet the hypotheses of ScratchpadLoadsReadTheirRow, clause by clause. -/
theorem witness_ScratchpadLoadsReadTheirRow_c :
    (let s : State := State.modCore (dev .a (fun c => { c with a := [(0, 0x1100048)] }) id id) 1 fun k => { k with power := .off }
     let i : Instr := .lds h0 17 0 0
     ready s i (s.spmAddr (s.me.areg 0) = some (1, true) ∧ (s.core 1).power = .off)) = true ∧
    (let s : State := State.modCore (dev .a (fun c => { c with a := [(0, 0x1100048)] }) id id) 1 fun k => { k with power := .off }
     let i : Instr := .ldm h0 1 0 0
     ready s i (s.spmAddr (s.me.areg 0) = some (1, true) ∧ (s.core 1).power = .off)) = true ∧
    (let s : State := State.modCore (dev .a (fun c => { c with a := [(0, 0x1100048)] }) id id) 1 fun k => { k with power := .off }
     let i : Instr := .ldl h0 3 0 0
     ready s i (s.spmAddr (s.me.areg 0) = some (1, true) ∧ (s.core 1).power = .off)) = true ∧
    (let s : State := dev .a (fun c => { c with a := [(0, 0x1100048)] }) id id
     let i : Instr := .ldl h0 3 0 0
     ready s i (s.spmAddr (s.me.areg 0) = some (1, true) ∧ (s.core 1).power ≠ .off ∧ roomRows (((s.taken h0).windowWakes 1 true).performUnlocks 1 (s.me.areg 0).toNat |>.myCtx.lrows 3) 1 = true ∧ tblFind (((s.taken h0).windowWakes 1 true).performUnlocks 1 (s.me.areg 0).toNat |>.core 1).locks (lockKey (s.me.areg 0).toNat) = none)) = true := by decide +kernel

/-- States and operands that meet the hypotheses of ScratchpadStoresWriteTheirRowOnly, clause by clause. -/
theorem witness_ScratchpadStoresWriteTheirRowOnly_a :
    (let s : State := dev .a (fun c => { c with a := [(0, 0x48)], mb := [(1, 77)] }) (fun x => { x with sq := [(0, [⟨0, true, 5, 0⟩])] }) (fun k => { k with spm := [(0x48, 9)] })
     let i : Instr := .stq h0 0 0 0
     ready s i (s.spmAddr (s.me.areg 0) = some (0, false) ∧ (false = true → s.myTask.cls = 0) ∧ storeOk s 0 1 (spmKey 0 (s.me.areg 0).toNat) (2 ^ 64 + spmKey 0 (s.me.areg 0).toNat) = true)) = true ∧
    (let s : State := dev .a (fun c => { c with a := [(0, 0x48)], mb := [(1, 77)] }) (fun x => { x with sq := [(0, [⟨0, true, 5, 0⟩])] }) (fun k => { k with spm := [(0x48, 9)] })
     let i : Instr := .stm h0 1 0 0
     ready s i (s.spmAddr (s.me.areg 0) = some (0, false) ∧ (false = true → s.myTask.cls = 0) ∧ freeFor (s.taken h0) (spmKey 0 (s.me.areg 0).toNat) (2 ^ 64 + spmKey 0 (s.me.areg 0).toNat) = true)) = true ∧
    (let s : State := dev .a (fun c => { c with a := [(0, 0x48)] }) (fun x => { x with sq := [(0, [⟨0, true, 5, 0⟩, ⟨1, true, 0x3F800000, 0⟩, ⟨2, true, 7, 0⟩, ⟨3, true, 7, 0⟩])] }) id
     let i : Instr := .stqx h0 none 2 1 0 0 1 1 0
     ready s i (s.spmAddr (s.me.areg 0) = some (0, false) ∧ (false = true → s.myTask.cls = 0) ∧ storeOk s 0 (storeRows 1) (spmKey 0 (s.me.areg 0).toNat) (2 ^ 64 + spmKey 0 (s.me.areg 0).toNat) = true)) = true ∧
    (let s : State := dev .a (fun c => { c with a := [(0, 0x48)] }) (fun x => { x with sq := [(0, [⟨0, true, 5, 0⟩])] }) (fun k => { k with locks := [(lockKey 0x48, (0, 0))] })
     let i : Instr := .stu h0 0 0 0
     ready s i (s.spmAddr (s.me.areg 0) = some (0, false) ∧ (false = true → s.myTask.cls = 0) ∧ tblFind (s.core 0).locks (lockKey (s.me.areg 0).toNat) = some (0, 0) ∧ (match (s.taken h0).release s.cur 1 with | some v => (v.popStore 0 1).isSome | none => false) = true)) = true ∧
    (let s : State := dev .a (fun c => { c with a := [(0, 0x48)], mb := [(1, 77)] }) (fun x => { x with sq := [(0, [⟨0, true, 5, 0⟩])] }) (fun k => { k with spm := [(0x48, 9)] })
     s.accs = []) ∧
    (let s : State := dev .a (fun c => { c with a := [(0, 0x1100048)], barGo := true }) (fun x => { x with sq := [(0, [⟨0, true, 5, 0⟩, ⟨1, true, 0x3F800000, 0⟩, ⟨2, true, 7, 0⟩, ⟨3, true, 7, 0⟩])] }) id
     let i : Instr := .stq h0 0 0 0
     ready s i (s.spmAddr (s.me.areg 0) = some (1, true) ∧ s.myTask.cls = 0 ∧ (s.core 1).power ≠ .off ∧ s.me.barGo = true ∧ storeOk s 0 1 (spmKey 1 (s.me.areg 0).toNat) (2 ^ 64 + spmKey 1 (s.me.areg 0).toNat) = true)) = true ∧
    (let s : State := dev .a (fun c => { c with a := [(0, 0x1100048)], barGo := true }) (fun x => { x with sq := [(0, [⟨0, true, 5, 0⟩, ⟨1, true, 0x3F800000, 0⟩, ⟨2, true, 7, 0⟩, ⟨3, true, 7, 0⟩])] }) id
     let i : Instr := .stm h0 1 0 0
     ready s i (s.spmAddr (s.me.areg 0) = some (1, true) ∧ s.myTask.cls = 0 ∧ (s.core 1).power ≠ .off ∧ s.me.barGo = true ∧ freeFor (s.taken h0) (spmKey 1 (s.me.areg 0).toNat) (2 ^ 64 + spmKey 1 (s.me.areg 0).toNat) = true)) = true ∧
    (let s : State := dev .a (fun c => { c with a := [(0, 0x1100048)], barGo := true }) (fun x => { x with sq := [(0, [⟨0, true, 5, 0⟩, ⟨1, true, 0x3F800000, 0⟩, ⟨2, true, 7, 0⟩, ⟨3, true, 7, 0⟩])] }) id
     let i : Instr := .stqx h0 none 2 1 0 0 1 1 0
     ready s i (s.spmAddr (s.me.areg 0) = some (1, true) ∧ s.myTask.cls = 0 ∧ (s.core 1).power ≠ .off ∧ s.me.barGo = true ∧ storeOk s 0 (storeRows 1) (spmKey 1 (s.me.areg 0).toNat) (2 ^ 64 + spmKey 1 (s.me.areg 0).toNat) = true)) = true := by decide +kernel

/-- States and operands that meet the hypotheses of ScratchpadStoresWriteTheirRowOnly, clause by clause. -/
theorem witness_ScratchpadStoresWriteTheirRowOnly_b :
    (let s : State := State.modCore (dev .a (fun c => { c with a := [(0, 0x1100048)], barGo := false }) (fun x => { x with sq := [(0, [⟨0, true, 5, 0⟩, ⟨1, true, 0x3F800000, 0⟩, ⟨2, true, 7, 0⟩, ⟨3, true, 7, 0⟩])] }) id) 1 fun k => { k with locks := [(lockKey 0x48, (0, 0))] }
     let i : Instr := .stu h0 0 0 0
     ready s i (s.spmAddr (s.me.areg 0) = some (1, true) ∧ s.myTask.cls = 0 ∧ (s.core 1).power ≠ .off ∧ tblFind (s.core 1).locks (lockKey (s.me.areg 0).toNat) = some (0, 0) ∧ (match (s.taken h0).release s.cur 1 with | some v => (v.popStore 0 1).isSome | none => false) = true)) = true ∧
    (let s : State := dev .a (fun c => { c with a := [(0, 0x1100048)], barGo := false }) (fun x => { x with sq := [(0, [⟨0, true, 5, 0⟩, ⟨1, true, 0x3F800000, 0⟩, ⟨2, true, 7, 0⟩, ⟨3, true, 7, 0⟩])] }) id
     let i : Instr := .stq h0 0 0 0
     ready s i (s.spmAddr (s.me.areg 0) = some (1, true) ∧ s.myTask.cls = 0 ∧ (s.core 1).power ≠ .off ∧ s.me.barGo = false ∧ ((s.taken h0).popStore 0 1).isSome = true)) = true ∧
    (let s : State := dev .a (fun c => { c with a := [(0, 0x1100048)], barGo := false }) (fun x => { x with sq := [(0, [⟨0, true, 5, 0⟩, ⟨1, true, 0x3F800000, 0⟩, ⟨2, true, 7, 0⟩, ⟨3, true, 7, 0⟩])] }) id
     let i : Instr := .stqx h0 none 2 1 0 0 1 1 0
     ready s i (s.spmAddr (s.me.areg 0) = some (1, true) ∧ s.myTask.cls = 0 ∧ (s.core 1).power ≠ .off ∧ s.me.barGo = false ∧ ((s.taken h0).popStore 0 (storeRows 1)).isSome = true)) = true ∧
    (let s : State := dev .a (fun c => { c with a := [(0, 0x1100048)], barGo := false }) (fun x => { x with sq := [(0, [⟨0, true, 5, 0⟩, ⟨1, true, 0x3F800000, 0⟩, ⟨2, true, 7, 0⟩, ⟨3, true, 7, 0⟩])] }) id
     let i : Instr := .stm h0 1 0 0
     ready s i (s.spmAddr (s.me.areg 0) = some (1, true) ∧ s.myTask.cls = 0 ∧ (s.core 1).power ≠ .off ∧ s.me.barGo = false)) = true ∧
    (let s : State := State.modCore (dev .a (fun c => { c with a := [(0, 0x1100048)], barGo := false }) (fun x => { x with sq := [(0, [⟨0, true, 5, 0⟩, ⟨1, true, 0x3F800000, 0⟩, ⟨2, true, 7, 0⟩, ⟨3, true, 7, 0⟩])] }) id) 1 fun k => { k with power := .off }
     let i : Instr := .stq h0 0 0 0
     ready s i (s.spmAddr (s.me.areg 0) = some (1, true) ∧ s.myTask.cls = 0 ∧ (s.core 1).power = .off ∧ ((s.taken h0).popStore 0 1).isSome = true)) = true ∧
    (let s : State := State.modCore (dev .a (fun c => { c with a := [(0, 0x1100048)], barGo := false }) (fun x => { x with sq := [(0, [⟨0, true, 5, 0⟩, ⟨1, true, 0x3F800000, 0⟩, ⟨2, true, 7, 0⟩, ⟨3, true, 7, 0⟩])] }) id) 1 fun k => { k with power := .off }
     let i : Instr := .stqx h0 none 2 1 0 0 1 1 0
     ready s i (s.spmAddr (s.me.areg 0) = some (1, true) ∧ s.myTask.cls = 0 ∧ (s.core 1).power = .off ∧ ((s.taken h0).popStore 0 (storeRows 1)).isSome = true)) = true ∧
    (let s : State := State.modCore (dev .a (fun c => { c with a := [(0, 0x1100048)], barGo := false }) (fun x => { x with sq := [(0, [⟨0, true, 5, 0⟩, ⟨1, true, 0x3F800000, 0⟩, ⟨2, true, 7, 0⟩, ⟨3, true, 7, 0⟩])] }) id) 1 fun k => { k with power := .off }
     let i : Instr := .stm h0 1 0 0
     ready s i (s.spmAddr (s.me.areg 0) = some (1, true) ∧ s.myTask.cls = 0 ∧ (s.core 1).power = .off)) = true ∧
    (let s : State := State.modCore (dev .a (fun c => { c with a := [(0, 0x1100048)], barGo := false }) (fun x => { x with sq := [(0, [⟨0, true, 5, 0⟩, ⟨1, true, 0x3F800000, 0⟩, ⟨2, true, 7, 0⟩, ⟨3, true, 7, 0⟩])] }) id) 1 fun k => { k with locks := [(lockKey 0x48, (0, 0))], power := .off }
     let i : Instr := .stu h0 0 0 0
     ready s i (s.spmAddr (s.me.areg 0) = some (1, true) ∧ s.myTask.cls = 0 ∧ (s.core 1).power = .off ∧ tblFind (s.core 1).locks (lockKey (s.me.areg 0).toNat) = some (0, 0))) = true := by decide +kernel

/-- States and operands that meet the hypotheses of RacesAreFound, clause by clause. -/
theorem witness_RacesAreFound :
    (let s : State := { plain .a with rows := [(5, (1, false))] }
     tblFind s.rows 5 = some (1, false) ∧ s.plain 0 5 false false = none) ∧
    (let s : State := plain .a
     (s.plain 0 5 true false).isSome = true) := by decide +kernel

/-- States and operands that meet the hypotheses of MergePushesAWindowOfTheBuffers, clause by clause. -/
theorem witness_MergePushesAWindowOfTheBuffers :
    (let s : State := dev .a (fun c => { c with mb := [(0, 3), (1, 77)], s := [(1, 63)] }) id id
     let i : Instr := .rmerge h0 0 17
     ready s i (roomRows (s.myCtx.lrows 0) 1 = true)) = true := by decide +kernel

/-- States and operands that meet the hypotheses of GlobalWordsStartAccesses, clause by clause. -/
theorem witness_GlobalWordsStartAccesses_a :
    (let s : State := dev .a (fun c => { c with a := [(0, 0x2000000040)] }) (fun x => { x with sq := [(0, [⟨0, true, 5, 0⟩, ⟨1, true, 5, 0⟩, ⟨2, true, 5, 0⟩, ⟨3, true, 5, 0⟩])] }) (fun k => { k with tlb := [⟨0, 0x2000000000, 65536, (2 ^ 36), true⟩] })
     let i : Instr := .ldg h0 0 0 0
     ready s i ((s.me.areg 0).toNat < 2 ^ 57 ∧ (tlbFind s.myCore.tlb s.myTask.part (s.me.areg 0).toNat).isSome = true ∧ s.myTask.cls = 0 ∧ saLevel (2 ^ 36 + 64) ≠ 1 ∧ s.isDirect (2 ^ 36 + 64) = false ∧ roomRows (s.myCtx.lrows 0) 1 = true)) = true ∧
    (let s : State := dev .a (fun c => { c with a := [(0, 0x2000000040)] }) (fun x => { x with sq := [(0, [⟨0, true, 5, 0⟩, ⟨1, true, 5, 0⟩, ⟨2, true, 5, 0⟩, ⟨3, true, 5, 0⟩])] }) (fun k => { k with tlb := [⟨0, 0x2000000000, 65536, (2 ^ 36), true⟩] })
     let i : Instr := .ldgx h0 none 6 0 0 0
     ready s i ((s.me.areg 0).toNat < 2 ^ 57 ∧ (tlbFind s.myCore.tlb s.myTask.part (s.me.areg 0).toNat).isSome = true ∧ s.myTask.cls = 0 ∧ saLevel (2 ^ 36 + 64) ≠ 1 ∧ s.isDirect (2 ^ 36 + 64) = false ∧ roomRows (s.myCtx.lrows 0) (loadRows 6) = true)) = true ∧
    (let s : State := dev .a (fun c => { c with a := [(0, 0x2000000040)] }) (fun x => { x with sq := [(0, [⟨0, true, 5, 0⟩, ⟨1, true, 5, 0⟩, ⟨2, true, 5, 0⟩, ⟨3, true, 5, 0⟩])] }) (fun k => { k with tlb := [⟨0, 0x2000000000, 65536, (2 ^ 36), true⟩] })
     let i : Instr := .stg h0 0 0 0
     ready s i ((s.me.areg 0).toNat < 2 ^ 57 ∧ (tlbFind s.myCore.tlb s.myTask.part (s.me.areg 0).toNat).isSome = true ∧ s.myTask.cls = 0 ∧ saLevel (2 ^ 36 + 64) ≠ 1 ∧ s.isDirect (2 ^ 36 + 64) = false ∧ ((s.taken h0).popStore 0 1).isSome = true ∧ s.inCode s.myTask 0x2000000040 64 = false ∧ whenSome (tlbFind s.myCore.tlb s.myTask.part (s.me.areg 0).toNat) (fun e => (s.leafAddr s.myTask e (s.me.areg 0).toNat).2) = true)) = true ∧
    (let s : State := dev .a (fun c => { c with a := [(0, 0x2000000040)] }) (fun x => { x with sq := [(0, [⟨0, true, 5, 0⟩, ⟨1, true, 5, 0⟩, ⟨2, true, 5, 0⟩, ⟨3, true, 5, 0⟩])] }) (fun k => { k with tlb := [⟨0, 0x2000000000, 65536, (2 ^ 36), true⟩] })
     let i : Instr := .stgx h0 none 1 0 0 0
     ready s i ((s.me.areg 0).toNat < 2 ^ 57 ∧ (tlbFind s.myCore.tlb s.myTask.part (s.me.areg 0).toNat).isSome = true ∧ s.myTask.cls = 0 ∧ saLevel (2 ^ 36 + 64) ≠ 1 ∧ s.isDirect (2 ^ 36 + 64) = false ∧ ((s.taken h0).popStore 0 (storeRows 1)).isSome = true ∧ s.inCode s.myTask 0x2000000040 64 = false ∧ whenSome (tlbFind s.myCore.tlb s.myTask.part (s.me.areg 0).toNat) (fun e => (s.leafAddr s.myTask e (s.me.areg 0).toNat).2) = true ∧ whenSome (tlbFind s.myCore.tlb s.myTask.part (s.me.areg 0).toNat) (fun e => (s.leafAddr s.myTask e (s.me.areg 0).toNat).2) = true)) = true ∧
    (let s : State := dev .a (fun c => { c with a := [(0, 0x2000000040)] }) (fun x => { x with sq := [(0, [⟨0, true, 5, 0⟩, ⟨1, true, 5, 0⟩, ⟨2, true, 5, 0⟩, ⟨3, true, 5, 0⟩])] }) (fun k => { k with tlb := [⟨0, 0x2000000000, 65536, (2 ^ 36), true⟩] })
     let i : Instr := .pfg h0 0 0
     ready s i ((s.me.areg 0).toNat < 2 ^ 57 ∧ (tlbFind s.myCore.tlb s.myTask.part (s.me.areg 0).toNat).isSome = true ∧ s.myTask.cls = 0 ∧ saLevel (2 ^ 36 + 64) ≠ 1 ∧ s.isDirect (2 ^ 36 + 64) = false ∧ s.myCore.walkBad = [])) = true ∧
    (let s : State := dev .a (fun c => { c with a := [(0, 2 ^ 57)] }) (fun x => { x with sq := [(0, [⟨0, true, 5, 0⟩, ⟨1, true, 5, 0⟩, ⟨2, true, 5, 0⟩, ⟨3, true, 5, 0⟩])] }) (fun k => { k with tlb := [⟨0, 0x2000000000, 65536, (2 ^ 36), true⟩] })
     let i : Instr := .ldg h0 0 0 0
     ready s i (roomRows (s.myCtx.lrows 0) 1 = true ∧ 2 ^ 57 ≤ (s.me.areg 0).toNat)) = true ∧
    (let s : State := dev .a (fun c => { c with a := [(0, 0x2000000040)] }) (fun x => { x with sq := [(0, [⟨0, true, 5, 0⟩, ⟨1, true, 5, 0⟩, ⟨2, true, 5, 0⟩, ⟨3, true, 5, 0⟩])] }) (fun k => { k with tlb := [⟨0, 0x2000000000, 65536, (2 ^ 36), false⟩] })
     let i : Instr := .stg h0 0 0 0
     ready s i ((s.me.areg 0).toNat < 2 ^ 57 ∧ (tlbFind s.myCore.tlb s.myTask.part (s.me.areg 0).toNat).isSome = true ∧ s.myTask.cls = 0 ∧ ((s.taken h0).popStore 0 1).isSome = true)) = true ∧
    (let s : State := { ((dev .a (fun c => { c with a := [(0, 0x2000000040)] }) (fun x => { x with task := some { slotTask with cls := 1 }, sq := [(0, [⟨0, true, 5, 0⟩, ⟨1, true, 5, 0⟩, ⟨2, true, 5, 0⟩, ⟨3, true, 5, 0⟩])] }) (fun k => { k with tlb := [⟨0, 0x2000000000, 65536, (2 ^ 36), true⟩] }))) with deps := [({ rcd := ({ words := [BitVec.ofNat 64 (0 + 1 * 2 ^ 12 + 0 * 2 ^ 14)] ++ [], tid := 1, launch := 7, snap := { Snap.none with img := 0x100000, size := 65536, frame := 16384, codeOff := 256, codeSize := 64, entry := [256, 260, 264, 268] }, pin := none } : TRec), part := 0, tq := 2, order := 3, st := .running, conf := [], ren := [], insts := [⟨0, 0, 0, .running, 0, [], 0, 0, []⟩], marks := [], nextInst := 1 } : Dep)] }
     let i : Instr := .stg h0 0 0 0
     ready s i (((s.taken h0).popStore 0 1).isSome = true ∧ (s.me.areg 0).toNat < 2 ^ 57 ∧ (tlbFind s.myCore.tlb s.myTask.part (s.me.areg 0).toNat).isSome = true ∧ s.myTask.cls ≠ 0 ∧ s.inRenamed s.myTask 0x2000000040 = false ∧ s.inCode s.myTask 0x2000000040 64 = false ∧ (match s.contain s.myTask (2 ^ 36 + 64) 0x2000000040 fullMask 5 0 with | .ok _ => true | _ => false) = true ∧ whenSome (tlbFind s.myCore.tlb s.myTask.part (s.me.areg 0).toNat) (fun e => (s.leafAddr s.myTask e (s.me.areg 0).toNat).2) = true)) = true := by decide +kernel

/-- States and operands that meet the hypotheses of GlobalWordsStartAccesses, clause by clause. -/
theorem witness_GlobalWordsStartAccesses_b :
    (let s : State := { ((dev .a (fun c => { c with a := [(0, 0x2000000040)] }) (fun x => { x with task := some { slotTask with cls := 1 }, sq := [(0, [⟨0, true, 5, 0⟩, ⟨1, true, 5, 0⟩, ⟨2, true, 5, 0⟩, ⟨3, true, 5, 0⟩])] }) (fun k => { k with tlb := [⟨0, 0x2000000000, 65536, (2 ^ 36), true⟩] }))) with deps := [({ rcd := ({ words := [BitVec.ofNat 64 (0 + 1 * 2 ^ 12 + 0 * 2 ^ 14)] ++ [], tid := 1, launch := 7, snap := { Snap.none with img := 0x100000, size := 65536, frame := 16384, codeOff := 256, codeSize := 64, entry := [256, 260, 264, 268] }, pin := none } : TRec), part := 0, tq := 2, order := 3, st := .running, conf := [], ren := [], insts := [⟨0, 0, 0, .running, 0, [], 0, 0, []⟩], marks := [], nextInst := 1 } : Dep)] }
     let i : Instr := .stgx h0 none 1 0 0 0
     ready s i (((s.taken h0).popStore 0 (storeRows 1)).isSome = true ∧ (s.me.areg 0).toNat < 2 ^ 57 ∧ (tlbFind s.myCore.tlb s.myTask.part (s.me.areg 0).toNat).isSome = true ∧ s.myTask.cls ≠ 0 ∧ s.inRenamed s.myTask 0x2000000040 = false ∧ s.inCode s.myTask 0x2000000040 64 = false ∧ (match s.contain s.myTask (2 ^ 36 + 64) 0x2000000040 fullMask 5 0 with | .ok _ => true | _ => false) = true ∧ whenSome (tlbFind s.myCore.tlb s.myTask.part (s.me.areg 0).toNat) (fun e => (s.leafAddr s.myTask e (s.me.areg 0).toNat).2) = true ∧ whenSome (tlbFind s.myCore.tlb s.myTask.part (s.me.areg 0).toNat) (fun e => (s.leafAddr s.myTask e (s.me.areg 0).toNat).2) = true)) = true ∧
    (let s : State := dev .a (fun c => { c with a := [(0, 0x3000000040)] }) (fun x => { x with sq := [(0, [⟨0, true, 5, 0⟩, ⟨1, true, 5, 0⟩, ⟨2, true, 5, 0⟩, ⟨3, true, 5, 0⟩])] }) (fun k => { k with tlb := [⟨0, 0x2000000000, 65536, (2 ^ 36), true⟩] })
     let i : Instr := .ldg h0 0 0 0
     ready s i (roomRows (s.myCtx.lrows 0) 1 = true ∧ (s.me.areg 0).toNat < 2 ^ 57 ∧ (tlbFind s.myCore.tlb s.myTask.part (s.me.areg 0).toNat).isNone = true ∧ s.myCore.walkBad = [])) = true ∧
    (let s : State := dev .a (fun c => { c with a := [(0, 0x3000000040)] }) (fun x => { x with sq := [(0, [⟨0, true, 5, 0⟩, ⟨1, true, 5, 0⟩, ⟨2, true, 5, 0⟩, ⟨3, true, 5, 0⟩])] }) (fun k => { k with tlb := [⟨0, 0x2000000000, 65536, (2 ^ 36), true⟩] })
     let i : Instr := .pfg h0 0 0
     ready s i ((s.me.areg 0).toNat < 2 ^ 57 ∧ (tlbFind s.myCore.tlb s.myTask.part (s.me.areg 0).toNat).isNone = true ∧ s.myCore.walkBad = [])) = true := by decide +kernel

/-- States and operands that meet the hypotheses of AtomicsStartAndBlock, clause by clause. -/
theorem witness_AtomicsStartAndBlock :
    (let s : State := dev .a (fun c => { c with a := [(1, 0x2000000048)], s := [(2, 5), (3, 6)] }) id (fun k => { k with tlb := [⟨0, 0x2000000000, 65536, 0x100000, true⟩] })
     let i : Instr := .atomg h0 0 1 0 1 2 1
     ready s i ((s.me.areg 1).toNat < 2 ^ 57 ∧ (tlbFind s.myCore.tlb s.myTask.part (s.me.areg 1).toNat).isSome = true ∧ s.myTask.cls = 0 ∧ s.inCode s.myTask 0x2000000048 8 = false ∧ s.openElsewhere 0x100048 = false ∧ whenSome (tlbFind s.myCore.tlb s.myTask.part (s.me.areg 1).toNat) (fun e => (s.leafAddr s.myTask e (s.me.areg 1).toNat).2) = true ∧ saDev 0x100048 = s.devId)) = true ∧
    (let s : State := dev .a (fun c => { c with a := [(1, 0x2000000048)], s := [(2, 5), (3, 6)] }) id (fun k => { k with tlb := [⟨0, 0x2000000000, 65536, 0x100000, true⟩] })
     let i : Instr := .atomg h0 6 0 2 1 2 1
     ready s i ((s.me.areg 1).toNat < 2 ^ 57 ∧ (tlbFind s.myCore.tlb s.myTask.part (s.me.areg 1).toNat).isSome = true ∧ s.myTask.cls = 0 ∧ s.inCode s.myTask 0x2000000048 8 = false ∧ s.openElsewhere 0x100048 = false ∧ ((s.taken h0).release s.cur 1).isSome = true ∧ whenSome (tlbFind s.myCore.tlb s.myTask.part (s.me.areg 1).toNat) (fun e => (s.leafAddr s.myTask e (s.me.areg 1).toNat).2) = true ∧ saDev 0x100048 = s.devId)) = true ∧
    (let s : State := dev .a (fun c => { c with a := [(1, 0x2000000048)], s := [(2, 5), (3, 6)] }) id (fun k => { k with tlb := [⟨0, 0x2000000000, 65536, 0x100000, true⟩] })
     let i : Instr := .casg h0 1 0 1 2 1
     ready s i ((s.me.areg 1).toNat < 2 ^ 57 ∧ (tlbFind s.myCore.tlb s.myTask.part (s.me.areg 1).toNat).isSome = true ∧ s.myTask.cls = 0 ∧ s.inCode s.myTask 0x2000000048 8 = false ∧ s.openElsewhere 0x100048 = false ∧ whenSome (tlbFind s.myCore.tlb s.myTask.part (s.me.areg 1).toNat) (fun e => (s.leafAddr s.myTask e (s.me.areg 1).toNat).2) = true ∧ saDev 0x100048 = s.devId)) = true := by decide +kernel

/-- States and operands that meet the hypotheses of DirectAndSharedArrayWords, clause by clause. -/
theorem witness_DirectAndSharedArrayWords_a :
    (let s : State := { (dev .a (fun c => { c with a := [(0, 0x2000000040)] }) (fun x => { x with sq := [(0, [⟨0, true, 5, 0⟩, ⟨1, true, 5, 0⟩, ⟨2, true, 5, 0⟩, ⟨3, true, 5, 0⟩])] }) (fun k => { k with tlb := [⟨0, 0x2000000000, 65536, 0x100000, true⟩] })) with dies := [(0, { Die.reset with dcc := 1 })] }
     let i : Instr := .ldg h0 0 0 0
     ready s i ((s.me.areg 0).toNat < 2 ^ 57 ∧ (tlbFind s.myCore.tlb s.myTask.part (s.me.areg 0).toNat).isSome = true ∧ s.myTask.cls = 0 ∧ roomRows (s.myCtx.lrows 0) 1 = true ∧ s.isDirect 0x100040 = true ∧ (slotStart 0 1 1 []).1 ≠ 1)) = true ∧
    (let s : State := { (dev .a (fun c => { c with a := [(0, 0x2000000040)] }) (fun x => { x with sq := [(0, [⟨0, true, 5, 0⟩, ⟨1, true, 5, 0⟩, ⟨2, true, 5, 0⟩, ⟨3, true, 5, 0⟩])] }) (fun k => { k with tlb := [⟨0, 0x2000000000, 65536, 0x100000, true⟩] })) with dies := [(0, { Die.reset with dcc := 4 })] }
     let i : Instr := .ldg h0 0 0 0
     ready s i ((s.me.areg 0).toNat < 2 ^ 57 ∧ (tlbFind s.myCore.tlb s.myTask.part (s.me.areg 0).toNat).isSome = true ∧ s.myTask.cls = 0 ∧ roomRows (s.myCtx.lrows 0) 1 = true ∧ s.isDirect 0x100040 = true ∧ (slotStart 0 1 4 []).1 = 4)) = true ∧
    (let s : State := dev .a (fun c => { c with a := [(0, 0x2000000040)] }) (fun x => { x with sq := [(0, [⟨0, true, 5, 0⟩, ⟨1, true, 5, 0⟩, ⟨2, true, 5, 0⟩, ⟨3, true, 5, 0⟩])] }) (fun k => { k with tlb := [⟨0, 0x2000000000, 65536, (2 ^ 50), true⟩] })
     let i : Instr := .stg h0 0 0 0
     ready s i ((s.me.areg 0).toNat < 2 ^ 57 ∧ (tlbFind s.myCore.tlb s.myTask.part (s.me.areg 0).toNat).isSome = true ∧ s.myTask.cls = 0 ∧ ((s.taken h0).popStore 0 1).isSome = true ∧ s.inCode s.myTask 0x2000000040 64 = false ∧ saLevel (2 ^ 50 + 64) = 1 ∧ saDev (2 ^ 50 + 64) = s.devId ∧ (s.plain 0 (shaKey (2 ^ 50 + 64)) true false).isSome = true ∧ whenSome (tlbFind s.myCore.tlb s.myTask.part (s.me.areg 0).toNat) (fun e => (s.leafAddr s.myTask e (s.me.areg 0).toNat).2) = true ∧ storeOk s 0 1 (shaKey (2 ^ 50 + 64)) ((2 ^ 50 + 64) / 64) = true)) = true ∧
    (let s : State := dev .a (fun c => { c with a := [(0, 0x2000000040)] }) (fun x => { x with sq := [(0, [⟨0, true, 5, 0⟩, ⟨1, true, 5, 0⟩, ⟨2, true, 5, 0⟩, ⟨3, true, 5, 0⟩])] }) (fun k => { k with tlb := [⟨0, 0x2000000000, 65536, (2 ^ 50), true⟩] })
     let i : Instr := .ldg h0 0 0 0
     ready s i ((s.me.areg 0).toNat < 2 ^ 57 ∧ (tlbFind s.myCore.tlb s.myTask.part (s.me.areg 0).toNat).isSome = true ∧ s.myTask.cls = 0 ∧ roomRows (s.myCtx.lrows 0) 1 = true ∧ saLevel (2 ^ 50 + 64) = 1 ∧ saDev (2 ^ 50 + 64) = s.devId ∧ rowFreeB s (shaKey (2 ^ 50 + 64)) = true)) = true ∧
    (let s : State := { (dev .a (fun c => { c with a := [(0, 0x2000000040)] }) (fun x => { x with sq := [(0, [⟨0, true, 5, 0⟩, ⟨1, true, 5, 0⟩, ⟨2, true, 5, 0⟩, ⟨3, true, 5, 0⟩])] }) (fun k => { k with tlb := [⟨0, 0x2000000000, 65536, 0x100000, true⟩] })) with dies := [(0, { Die.reset with dcc := 1 })] }
     let i : Instr := .ldgx h0 none 6 0 0 0
     ready s i ((s.me.areg 0).toNat < 2 ^ 57 ∧ (tlbFind s.myCore.tlb s.myTask.part (s.me.areg 0).toNat).isSome = true ∧ s.myTask.cls = 0 ∧ roomRows (s.myCtx.lrows 0) (loadRows 6) = true ∧ s.isDirect 0x100040 = true)) = true ∧
    (let s : State := dev .a (fun c => { c with a := [(0, 0x2000000040)] }) (fun x => { x with sq := [(0, [⟨0, true, 5, 0⟩, ⟨1, true, 5, 0⟩, ⟨2, true, 5, 0⟩, ⟨3, true, 5, 0⟩])] }) (fun k => { k with tlb := [⟨0, 0x2000000000, 65536, (2 ^ 50), true⟩] })
     let i : Instr := .ldgx h0 none 6 0 0 0
     ready s i ((s.me.areg 0).toNat < 2 ^ 57 ∧ (tlbFind s.myCore.tlb s.myTask.part (s.me.areg 0).toNat).isSome = true ∧ s.myTask.cls = 0 ∧ roomRows (s.myCtx.lrows 0) (loadRows 6) = true ∧ saLevel (2 ^ 50 + 64) = 1 ∧ saDev (2 ^ 50 + 64) = s.devId ∧ rowFreeB s (shaKey (2 ^ 50 + 64)) = true)) = true ∧
    (let s : State := dev .a (fun c => { c with a := [(0, 0x2000000040)] }) (fun x => { x with sq := [(0, [⟨0, true, 5, 0⟩, ⟨1, true, 5, 0⟩, ⟨2, true, 5, 0⟩, ⟨3, true, 5, 0⟩])] }) (fun k => { k with tlb := [⟨0, 0x2000000000, 65536, (2 ^ 50), true⟩] })
     let i : Instr := .stgx h0 none 1 0 0 0
     ready s i ((s.me.areg 0).toNat < 2 ^ 57 ∧ (tlbFind s.myCore.tlb s.myTask.part (s.me.areg 0).toNat).isSome = true ∧ s.myTask.cls = 0 ∧ ((s.taken h0).popStore 0 (storeRows 1)).isSome = true ∧ s.inCode s.myTask 0x2000000040 64 = false ∧ whenSome (tlbFind s.myCore.tlb s.myTask.part (s.me.areg 0).toNat) (fun e => (s.leafAddr s.myTask e (s.me.areg 0).toNat).2) = true ∧ saLevel (2 ^ 50 + 64) = 1 ∧ saDev (2 ^ 50 + 64) = s.devId ∧ storeOk s 0 (storeRows 1) (shaKey (2 ^ 50 + 64)) ((2 ^ 50 + 64) / 64) = true)) = true ∧
    (let s : State := { (dev .a (fun c => { c with a := [(0, 0x2000000040)] }) (fun x => { x with sq := [(0, [⟨0, true, 5, 0⟩, ⟨1, true, 5, 0⟩, ⟨2, true, 5, 0⟩, ⟨3, true, 5, 0⟩])] }) (fun k => { k with tlb := [⟨0, 0x2000000000, 65536, (2 ^ 50), true⟩] })) with rows := [(shaKey (2 ^ 50 + 64), (9, true))] }
     let i : Instr := .stg h0 0 0 0
     ready s i ((s.me.areg 0).toNat < 2 ^ 57 ∧ (tlbFind s.myCore.tlb s.myTask.part (s.me.areg 0).toNat).isSome = true ∧ s.myTask.cls = 0 ∧ ((s.taken h0).popStore 0 1).isSome = true ∧ s.inCode s.myTask 0x2000000040 64 = false ∧ whenSome (tlbFind s.myCore.tlb s.myTask.part (s.me.areg 0).toNat) (fun e => (s.leafAddr s.myTask e (s.me.areg 0).toNat).2) = true ∧ saLevel (2 ^ 50 + 64) = 1 ∧ saDev (2 ^ 50 + 64) = s.devId ∧ storeOk s 0 1 (shaKey (2 ^ 50 + 64)) ((2 ^ 50 + 64) / 64) = false)) = true := by decide +kernel

/-- States and operands that meet the hypotheses of DirectAndSharedArrayWords, clause by clause. -/
theorem witness_DirectAndSharedArrayWords_b :
    (let s : State := { (dev .a (fun c => { c with a := [(0, 0x2000000040)] }) (fun x => { x with sq := [(0, [⟨0, true, 5, 0⟩, ⟨1, true, 5, 0⟩, ⟨2, true, 5, 0⟩, ⟨3, true, 5, 0⟩])] }) (fun k => { k with tlb := [⟨0, 0x2000000000, 65536, (2 ^ 50), true⟩] })) with rows := [(shaKey (2 ^ 50 + 64), (9, true))] }
     let i : Instr := .ldg h0 0 0 0
     ready s i ((s.me.areg 0).toNat < 2 ^ 57 ∧ (tlbFind s.myCore.tlb s.myTask.part (s.me.areg 0).toNat).isSome = true ∧ s.myTask.cls = 0 ∧ roomRows (s.myCtx.lrows 0) 1 = true ∧ saLevel (2 ^ 50 + 64) = 1 ∧ saDev (2 ^ 50 + 64) = s.devId ∧ rowFreeB s (shaKey (2 ^ 50 + 64)) = false)) = true ∧
    (let s : State := { ({ (dev .a (fun c => { c with a := [(0, 0x2000000040)] }) (fun x => { x with sq := [(0, [⟨0, true, 5, 0⟩, ⟨1, true, 5, 0⟩, ⟨2, true, 5, 0⟩, ⟨3, true, 5, 0⟩])] }) (fun k => { k with tlb := [⟨0, 0x2000000000, 65536, 0x100000, true⟩] })) with dies := [(0, { Die.reset with dcc := 4 })] }) with accs := [(0, (⟨⟨0, 1, .a⟩, 0, 0x100040, .direct ⟨0, [0], 8, .rne, false, 0, 0, 0, none⟩ 70, false, slotTask, 0, true, false, 0, none, []⟩ : Acc)), (1, (⟨⟨0, 1, .a⟩, 0, 0x100040, .store 5, false, slotTask, 0, true, false, 0, none, []⟩ : Acc))], accNext := 2 }
     let i : Instr := .ldg h0 0 0 0
     ready s i ((s.me.areg 0).toNat < 2 ^ 57 ∧ (tlbFind s.myCore.tlb s.myTask.part (s.me.areg 0).toNat).isSome = true ∧ s.myTask.cls = 0 ∧ roomRows (s.myCtx.lrows 0) 1 = true ∧ s.isDirect 0x100040 = true ∧ (slotStart 0 1 4 []).1 = 4 ∧ (s.performOlder 2 0 (0x100040 / 64)).olderLeft 2 0 (0x100040 / 64) = true)) = true := by decide +kernel

/-- States and operands that meet the hypotheses of ElementWordsComputeEveryElement, clause by clause. -/
theorem witness_ElementWordsComputeEveryElement :
    (let s : State := dev .v (fun c => { c with s := [(1, 3), (2, 0x40)] }) (fun x => { x with views := [(0, 0), (1, 0), (2, 2 ^ 27)], lq := [(0, (List.range 8).map fun j => ⟨j, true, 7, 0⟩)] }) (fun k => { k with frame := Mem.writeN [] 0 1024 (0x3F80000040000000 + 2 ^ 4100 * 12345) })
     let i : Instr := .fadd h0 none 0 3 0 28
     ready s i (match elementWord i with
    | none => false
    | some (md, d, v) =>
      match s.myCtx.srcFmt (v.srcs.map vop) with
      | none => false
      | some ts =>
        match s.myCtx.dstFmt (vop d) v.qdst ts with
        | none => false
        | some td => v.ok ts td && (v.groups d ts td).all (fun g => groupOk g.1 g.2) && groupOk (vop d) (elemCount ts td / td.lanes) && s.dstRoom (vop d) (elemCount ts td / td.lanes) && ((s.taken h0).sources (v.groups d ts td)).isSome)) = true ∧
    (let s : State := dev .v (fun c => { c with s := [(1, 3), (2, 0x40)] }) (fun x => { x with views := [(0, 256), (1, 256), (2, 2 ^ 27)] }) (fun k => { k with frame := Mem.writeN [] 0 1024 (0x3F80000040000000 + 2 ^ 4100 * 12345) })
     let i : Instr := .iadd h0 none 27 0 13
     ready s i (match elementWord i with
    | none => false
    | some (md, d, v) =>
      match s.myCtx.srcFmt (v.srcs.map vop) with
      | none => false
      | some ts =>
        match s.myCtx.dstFmt (vop d) v.qdst ts with
        | none => false
        | some td => v.ok ts td && (v.groups d ts td).all (fun g => groupOk g.1 g.2) && groupOk (vop d) (elemCount ts td / td.lanes) && s.dstRoom (vop d) (elemCount ts td / td.lanes) && ((s.taken h0).sources (v.groups d ts td)).isSome)) = true ∧
    (let s : State := dev .v (fun c => { c with s := [(1, 3), (2, 0x40)] }) (fun x => { x with views := [(0, 0), (1, 128), (2, 2 ^ 27)] }) (fun k => { k with frame := Mem.writeN [] 0 1024 (0x3F80000040000000 + 2 ^ 4100 * 12345) })
     let i : Instr := .fcvt h0 none 0 14 0
     ready s i (match elementWord i with
    | none => false
    | some (md, d, v) =>
      match s.myCtx.srcFmt (v.srcs.map vop) with
      | none => false
      | some ts =>
        match s.myCtx.dstFmt (vop d) v.qdst ts with
        | none => false
        | some td => v.ok ts td && (v.groups d ts td).all (fun g => groupOk g.1 g.2) && groupOk (vop d) (elemCount ts td / td.lanes) && s.dstRoom (vop d) (elemCount ts td / td.lanes) && ((s.taken h0).sources (v.groups d ts td)).isSome)) = true ∧
    (let s : State := dev .v (fun c => { c with s := [(1, 3), (2, 0x40)] }) (fun x => { x with views := [(0, 256), (1, 256), (2, 2 ^ 27)] }) (fun k => { k with frame := Mem.writeN [] 0 1024 (0x3F80000040000000 + 2 ^ 4100 * 12345) })
     let i : Instr := .fadd h0 none 0 3 0 1
     ready s i (match elementWord i with
    | none => false
    | some (_, _, v) => s.myCtx.srcFmt (v.srcs.map vop) = none || (match s.myCtx.srcFmt (v.srcs.map vop) with
      | some ts => (match s.myCtx.dstFmt (vop 3) v.qdst ts with | some td => v.ok ts td = false || groupOk (vop 3) (elemCount ts td / td.lanes) = false | none => false)
      | none => false))) = true ∧
    (let s : State := dev .v (fun c => { c with s := [(1, 3), (2, 0x40)] }) (fun x => { x with views := [(0, 0), (1, 256), (2, 2 ^ 27)] }) (fun k => { k with frame := Mem.writeN [] 0 1024 (0x3F80000040000000 + 2 ^ 4100 * 12345) })
     let i : Instr := .fadd h0 none 0 3 0 14
     ready s i (match elementWord i with
    | none => false
    | some (_, _, v) => s.myCtx.srcFmt (v.srcs.map vop) = none || (match s.myCtx.srcFmt (v.srcs.map vop) with
      | some ts => (match s.myCtx.dstFmt (vop 3) v.qdst ts with | some td => v.ok ts td = false || groupOk (vop 3) (elemCount ts td / td.lanes) = false | none => false)
      | none => false))) = true ∧
    (let s : State := dev .v (fun c => { c with s := [(1, 3), (2, 0x40)] }) (fun x => { x with views := [(0, 128), (1, 0), (2, 2 ^ 27)] }) (fun k => { k with frame := Mem.writeN [] 0 1024 (0x3F80000040000000 + 2 ^ 4100 * 12345) })
     let i : Instr := .fcvt h0 none 0 15 0
     ready s i (match elementWord i with
    | none => false
    | some (_, _, v) => s.myCtx.srcFmt (v.srcs.map vop) = none || (match s.myCtx.srcFmt (v.srcs.map vop) with
      | some ts => (match s.myCtx.dstFmt (vop 15) v.qdst ts with | some td => v.ok ts td = false || groupOk (vop 15) (elemCount ts td / td.lanes) = false | none => false)
      | none => false))) = true := by decide +kernel

/-- States and operands that meet the hypotheses of CompareWordsSetTheirMask, clause by clause. -/
theorem witness_CompareWordsSetTheirMask :
    (let s : State := dev .v (fun c => { c with s := [(1, 3), (2, 0x40)] }) (fun x => { x with views := [(0, 0), (1, 0), (2, 2 ^ 27)], lq := [(0, (List.range 8).map fun j => ⟨j, true, 7, 0⟩)] }) (fun k => { k with frame := Mem.writeN [] 0 1024 (0x3F80000040000000 + 2 ^ 4100 * 12345) })
     let i : Instr := .fcmplt h0 none 1 0 28
     ready s i (match compareWord i with
    | none => false
    | some w => whenSome (s.myCtx.srcFmt [vop w.a, vop w.b]) fun ts => w.ok ts && whenSome ((s.taken h0).sources [(vop w.a, 1), (vop w.b, 1)]) fun _ => true)) = true ∧
    (let s : State := dev .v (fun c => { c with s := [(1, 3), (2, 0x40)] }) (fun x => { x with views := [(0, 768), (1, 768), (2, 2 ^ 27)] }) (fun k => { k with frame := Mem.writeN [] 0 1024 (0x3F80000040000000 + 2 ^ 4100 * 12345) })
     let i : Instr := .tcmplt h0 none 7 0 27
     ready s i (match compareWord i with
    | none => false
    | some w => whenSome (s.myCtx.srcFmt [vop w.a, vop w.b]) fun ts => w.ok ts && whenSome ((s.taken h0).sources [(vop w.a, 1), (vop w.b, 1)]) fun _ => true)) = true := by decide +kernel

/-- States and operands that meet the hypotheses of MovesAndPermutes, clause by clause. -/
theorem witness_MovesAndPermutes_a :
    (let s : State := dev .v (fun c => { c with s := [(1, 3), (2, 0x40)] }) (fun x => { x with views := [(0, 0), (1, 0), (2, 2 ^ 27)], lq := [(0, (List.range 8).map fun j => ⟨j, true, 7, 0⟩)] }) (fun k => { k with frame := Mem.writeN [] 0 1024 (0x3F80000040000000 + 2 ^ 4100 * 12345) })
     let i : Instr := .vmov h0 none 3 28
     ready s i (s.dstRoom (vop 3) 1 = true ∧ ((s.taken h0).sources [(vop 28, 1)]).isSome = true ∧ (s.myCtx.srcFmt [vop 28]).isSome = true ∧ (s.myCtx.dstFmt (vop 3) .source .fp32).isSome = true)) = true ∧
    (let s : State := dev .v (fun c => { c with s := [(1, 3), (2, 0x40)] }) (fun x => { x with views := [(0, 0), (1, 0), (2, 2 ^ 27)] }) (fun k => { k with frame := Mem.writeN [] 0 1024 (0x3F80000040000000 + 2 ^ 4100 * 12345) })
     let i : Instr := .vbcast h0 none 3 1
     ready s i (s.dstRoom (vop 3) 1 = true ∧ (s.myCtx.freeDst (vop 3)).isSome = true)) = true ∧
    (let s : State := dev .v (fun c => { c with s := [(1, 3), (2, 0x40)] }) (fun x => { x with views := [(0, 0), (1, 0), (2, 2 ^ 27)] }) (fun k => { k with frame := Mem.writeN [] 0 1024 (0x3F80000040000000 + 2 ^ 4100 * 12345) })
     let i : Instr := .vli h0 none none 3 1023
     ready s i (s.dstRoom (vop 3) 1 = true ∧ (s.myCtx.freeDst (vop 3)).isSome = true)) = true ∧
    (let s : State := dev .v (fun c => { c with s := [(1, 3), (2, 0x40)] }) (fun x => { x with views := [(0, 0), (1, 256), (2, 2 ^ 27)] }) (fun k => { k with frame := Mem.writeN [] 0 1024 (0x3F80000040000000 + 2 ^ 4100 * 12345) })
     let i : Instr := .vperm h0 none 3 0 14
     ready s i (s.dstRoom (vop 3) 1 = true ∧ ((s.taken h0).sources [(vop 0, 1), (vop 14, 1)]).isSome = true ∧ s.myCtx.winFmt (winOf 14) = some (.int true 32) ∧ groupOk (vop 14) 1 = true ∧ whenSome (s.myCtx.srcFmt [vop 0]) (fun ts => decide (s.myCtx.dstFmt (vop 3) .source ts = some ts)) = true)) = true ∧
    (let s : State := dev .v (fun c => { c with s := [(1, 3), (2, 0x40)] }) (fun x => { x with views := [(0, 128), (1, 256), (2, 2 ^ 27)] }) (fun k => { k with frame := Mem.writeN [] 0 1024 (0x3F80000040000000 + 2 ^ 4100 * 12345) })
     let i : Instr := .vperm h0 none 3 0 14
     ready s i (s.dstRoom (vop 3) 1 = true ∧ ((s.taken h0).sources [(vop 0, 1), (vop 14, 2)]).isSome = true ∧ s.myCtx.winFmt (winOf 14) = some (.int true 32) ∧ groupOk (vop 14) 2 = true ∧ whenSome (s.myCtx.srcFmt [vop 0]) (fun ts => decide (s.myCtx.dstFmt (vop 3) .source ts = some ts)) = true)) = true ∧
    (let s : State := dev .v (fun c => { c with s := [(1, 3), (2, 0x40)] }) (fun x => { x with views := [(0, 0), (1, 0), (2, 2 ^ 27)] }) (fun k => { k with frame := Mem.writeN [] 0 1024 (0x3F80000040000000 + 2 ^ 4100 * 12345) })
     let i : Instr := .vshuf h0 none 3 0 1
     ready s i (s.dstRoom (vop 3) 1 = true ∧ ((s.taken h0).sources [(vop 0, 1), (vop 1, 1)]).isSome = true ∧ (s.myCtx.srcFmt [vop 0, vop 1]).isSome = true ∧ whenSome (s.myCtx.srcFmt [vop 0]) (fun ts => decide (s.myCtx.dstFmt (vop 3) .source ts = some ts)) = true)) = true ∧
    (let s : State := dev .v (fun c => { c with s := [(1, 3), (2, 0x40)] }) (fun x => { x with views := [(0, 0), (1, 0), (2, 2 ^ 27)] }) (fun k => { k with frame := Mem.writeN [] 0 1024 (0x3F80000040000000 + 2 ^ 4100 * 12345) })
     let i : Instr := .vsel h0 (some ⟨1, 0, 0, 0, 0⟩) 3 0 1
     ready s i (s.dstRoom (vop 3) 1 = true ∧ ((s.taken h0).sources [(vop 0, 1), (vop 1, 1)]).isSome = true ∧ (s.myCtx.srcFmt [vop 0, vop 1]).isSome = true ∧ whenSome (s.myCtx.srcFmt [vop 0]) (fun ts => decide (s.myCtx.dstFmt (vop 3) .source ts = some ts)) = true)) = true ∧
    (let s : State := dev .v (fun c => { c with s := [(1, 3), (2, 0x40)] }) (fun x => { x with views := [(0, 512), (1, 0), (2, 2 ^ 27)] }) (fun k => { k with frame := Mem.writeN [] 0 1024 (0x3F80000040000000 + 2 ^ 4100 * 12345) })
     let i : Instr := .vext h0 none 3 0 1
     ready s i (((s.taken h0).source (vop 0) 1).isSome = true ∧ s.myCtx.srcFmt [vop 0] = some (.int true 16))) = true := by decide +kernel

/-- States and operands that meet the hypotheses of MovesAndPermutes, clause by clause. -/
theorem witness_MovesAndPermutes_b :
    (let s : State := dev .v (fun c => { c with s := [(1, 3), (2, 0x40)] }) (fun x => { x with views := [(0, 0), (1, 0), (2, 2 ^ 27)] }) (fun k => { k with frame := Mem.writeN [] 0 1024 (0x3F80000040000000 + 2 ^ 4100 * 12345) })
     let i : Instr := .vins h0 none 3 1 2
     ready s i (s.dstRoom (vop 3) 1 = true ∧ (s.myCtx.freeDst (vop 3)).isSome = true)) = true ∧
    (let s : State := dev .v (fun c => { c with s := [(1, 3), (2, 0x40)] }) (fun x => { x with views := [(0, 768), (1, 256), (2, 2 ^ 27)] }) (fun k => { k with frame := Mem.writeN [] 0 1024 (0x3F80000040000000 + 2 ^ 4100 * 12345) })
     let i : Instr := .idot4 h0 none 14 0 1
     ready s i (s.dstRoom (vop 14) 1 = true ∧ ((s.taken h0).sources [(vop 0, 1), (vop 1, 1), (vop 14, 1)]).isSome = true ∧ s.myCtx.srcFmt [vop 0, vop 1] = some (.int true 8) ∧ s.myCtx.dstFmt (vop 14) .source (.int true 8) = some (.int true 32))) = true := by decide +kernel

/-- States and operands that meet the hypotheses of ReductionsAndTileWords, clause by clause. -/
theorem witness_ReductionsAndTileWords :
    (let s : State := dev .v (fun c => { c with s := [(1, 3), (2, 0x40)] }) (fun x => { x with views := [(0, 0), (1, 0), (2, 2 ^ 27 + 2 ^ 17 + 2 ^ 10)] }) (fun k => { k with frame := Mem.writeN [] 0 1024 (0x3F80000040000000 + 2 ^ 4100 * 12345) })
     let i : Instr := .vrsum h0 none 14 0
     ready s i (s.dstRoom (vop 14) 1 = true ∧ s.myCtx.srcFmt [vop 0] = some .fp32 ∧ s.myCtx.dstFmt (vop 14) .vw1 .fp32 = some .fp32 ∧ ((s.taken h0).sources [(vop 0, 1)]).isSome = true)) = true ∧
    (let s : State := dev .v (fun c => { c with s := [(1, 3), (2, 0x40)] }) (fun x => { x with views := [(0, 0), (1, 0), (2, 2 ^ 27 + 2 ^ 17 + 2 ^ 10)] }) (fun k => { k with frame := Mem.writeN [] 0 1024 (0x3F80000040000000 + 2 ^ 4100 * 12345) })
     let i : Instr := .vrmax h0 none 14 0
     ready s i (s.dstRoom (vop 14) 1 = true ∧ s.myCtx.srcFmt [vop 0] = some .fp32 ∧ s.myCtx.dstFmt (vop 14) .vw1 .fp32 = some .fp32 ∧ ((s.taken h0).sources [(vop 0, 1)]).isSome = true)) = true ∧
    (let s : State := dev .v (fun c => { c with s := [(1, 3), (2, 0x40)] }) (fun x => { x with views := [(0, 0), (1, 0), (2, 2 ^ 27 + 2 ^ 17 + 2 ^ 10)] }) (fun k => { k with frame := Mem.writeN [] 0 1024 (0x3F80000040000000 + 2 ^ 4100 * 12345) })
     let i : Instr := .vrmin h0 none 14 0
     ready s i (s.dstRoom (vop 14) 1 = true ∧ s.myCtx.srcFmt [vop 0] = some .fp32 ∧ s.myCtx.dstFmt (vop 14) .vw1 .fp32 = some .fp32 ∧ ((s.taken h0).sources [(vop 0, 1)]).isSome = true)) = true ∧
    (let s : State := dev .v (fun c => { c with s := [(1, 3), (2, 0x40)] }) (fun x => { x with views := [(0, 0), (1, 0), (2, 2 ^ 27 + 2 ^ 17 + 2 ^ 10)] }) (fun k => { k with frame := Mem.writeN [] 0 1024 (0x3F80000040000000 + 2 ^ 4100 * 12345) })
     let i : Instr := .vrowsum h0 none 14
     ready s i (s.dstRoom (vop 14) 1 = true ∧ typeFmt (tvType (s.myCtx.view 2)) = some .fp32 ∧ s.myCtx.dstFmt (vop 14) .vw1 .fp32 = some .fp32 ∧ tvRows (s.myCtx.view 2) ≤ 128)) = true ∧
    (let s : State := dev .v (fun c => { c with s := [(1, 3), (2, 0x40)] }) (fun x => { x with views := [(0, 0), (1, 0), (2, 2 ^ 27 + 2 ^ 17 + 2 ^ 10)] }) (fun k => { k with frame := Mem.writeN [] 0 1024 (0x3F80000040000000 + 2 ^ 4100 * 12345) })
     let i : Instr := .vcolsum h0 none 14
     ready s i (s.dstRoom (vop 14) 1 = true ∧ typeFmt (tvType (s.myCtx.view 2)) = some .fp32 ∧ s.myCtx.dstFmt (vop 14) .vw1 .fp32 = some .fp32 ∧ tvCols (s.myCtx.view 2) ≤ 128)) = true ∧
    (let s : State := dev .v (fun c => { c with s := [(1, 3), (2, 0x40)] }) (fun x => { x with views := [(0, 0), (1, 0), (2, 2 ^ 27 + 2 ^ 17 + 2 ^ 10)] }) (fun k => { k with frame := Mem.writeN [] 0 1024 (0x3F80000040000000 + 2 ^ 4100 * 12345) })
     let i : Instr := .vtrans h0 none
     ready s i (typeFmt (tvType (s.myCtx.view 2)) = some .fp32 ∧ tvRows (s.myCtx.view 2) = tvCols (s.myCtx.view 2))) = true := by decide +kernel

/-- States and operands that meet the hypotheses of WindowsAndLandingSlots, clause by clause. -/
theorem witness_WindowsAndLandingSlots :
    (let s : State := dev .v (fun c => { c with s := [(1, 3), (2, 0x40)] }) (fun x => { x with views := [(0, 0), (1, 0), (2, 2 ^ 27)] }) (fun k => { k with frame := Mem.writeN [] 0 1024 (0x3F80000040000000 + 2 ^ 4100 * 12345) })
     let i : Instr := .vwin h0 9 1 0
     ready s i (viewOk 1 (BitVec.ofNat 64 (9 * 128)) s.myTask.snap.frame = true)) = true ∧
    (let s : State := dev .v id id (fun k => { k with land := [(0, { ctx := 0, tok := 31, off := 65472, len := 64, data := 77, poison := 1, done := true, stat := 0, age := 0 })] })
     let i : Instr := .commit h0 31
     ready s i (whenSome (s.myCore.landOf s.cur.ctx 31) fun l => l.2.done = true ∧ l.2.stat = 0 ∧ l.2.off.toNat + l.2.len ≤ s.myTask.snap.frame)) = true := by decide +kernel

/-- States and operands that meet the hypotheses of MatrixWordsPushCommands, clause by clause. -/
theorem witness_MatrixWordsPushCommands_a :
    (let s : State := dev .m (fun c => { c with s := [(1, 0), (2, 0x80000)] }) (fun x => { x with fmtq := [0x177] }) id
     let i : Instr := .mma h0 7 1 2 0 0 0
     ready s i (s.myCore.mxq.length < 8 ∧ s.myCtx.fmtq = [0x177] ∧ fwMma (0x177) false false false false = true ∧ (fwC (0x177) = 2 → 7 % 2 = 0) ∧ accOff (s.myCtx.view 3) 7 (fwC (0x177) = 2) + accLen (fwC (0x177) = 2) ≤ s.myTask.snap.frame ∧ mmaAddrOk (0x177) (s.me.sreg 1) (s.me.sreg 2) = true)) = true ∧
    (let s : State := dev .m (fun c => { c with s := [(1, 0), (2, 0x80000)] }) (fun x => { x with fmtq := [0x233] }) id
     let i : Instr := .mma h0 6 1 2 0 0 0
     ready s i (s.myCore.mxq.length < 8 ∧ s.myCtx.fmtq = [0x233] ∧ fwMma (0x233) false false false false = true ∧ (fwC (0x233) = 2 → 6 % 2 = 0) ∧ accOff (s.myCtx.view 3) 6 (fwC (0x233) = 2) + accLen (fwC (0x233) = 2) ≤ s.myTask.snap.frame ∧ mmaAddrOk (0x233) (s.me.sreg 1) (s.me.sreg 2) = true)) = true ∧
    (let s : State := dev .m (fun c => { c with s := [(1, 0), (2, 0x80000)] }) (fun x => { x with fmtq := [0x8177] }) id
     let i : Instr := .mmas h0 1 1 2 0 0
     ready s i (s.myCore.mxq.length < 8 ∧ s.myCtx.fmtq = [0x8177] ∧ fwMma (0x8177) true false false false = true ∧ (fwC (0x8177) = 2 → 1 % 2 = 0) ∧ accOff (s.myCtx.view 3) 1 (fwC (0x8177) = 2) + accLen (fwC (0x8177) = 2) ≤ s.myTask.snap.frame ∧ mmaAddrOk (0x8177) (s.me.sreg 1) (s.me.sreg 2) = true)) = true ∧
    (let s : State := dev .m (fun c => { c with s := [(1, 0), (2, 0x80000)] }) (fun x => { x with fmtq := [0x10C] }) id
     let i : Instr := .mldacc h0 1 1 0
     ready s i (s.myCore.mxq.length < 8 ∧ s.myCtx.fmtq = [0x10C] ∧ fwLoad (0x10C) false = true ∧ (fwC (0x10C) = 2 → 1 % 2 = 0) ∧ accOff (s.myCtx.view 3) 1 (fwC (0x10C) = 2) + accLen (fwC (0x10C) = 2) ≤ s.myTask.snap.frame ∧ accAddrOk (s.me.sreg 1) (accLen (fwC (0x10C) = 2)) = true)) = true ∧
    (let s : State := dev .m (fun c => { c with s := [(1, 0), (2, 0x80000)] }) (fun x => { x with fmtq := [12] }) id
     let i : Instr := .mstacc h0 1 1
     ready s i (s.myCore.mxq.length < 8 ∧ s.myCtx.fmtq = [12] ∧ fwStore (12) = true ∧ (fwC (12) = 2 → 1 % 2 = 0) ∧ accOff (s.myCtx.view 3) 1 (fwC (12) = 2) + accLen (fwC (12) = 2) ≤ s.myTask.snap.frame ∧ accAddrOk (s.me.sreg 1) (128 * mxWidth (fwA (12))) = true)) = true ∧
    (let s : State := plain .m
     let i : Instr := .mzero h0 7
     ready s i (s.myCore.mxq.length < 8 ∧ accOff (s.myCtx.view 3) 7 false + 4096 ≤ s.myTask.snap.frame)) = true ∧
    (let s : State := plain .m
     let i : Instr := .mdrain h0
     ready s i (s.myCore.mxq.length < 8)) = true ∧
    (let s : State := (dev .c (fun c => { c with s := [(1, 5), (2, 7), (3, 0x104), (31, 8)], p := [(1, true)] }) id id)
     let i : Instr := .fmtpush h0 1 2
     ready s i (s.myCtx.fmtq.length + s.myCtx.fmtIn.length < 16)) = true := by decide +kernel

/-- States and operands that meet the hypotheses of MatrixWordsPushCommands, clause by clause. -/
theorem witness_MatrixWordsPushCommands_b :
    (let s : State := plain .m
     let i : Instr := .mma h0 7 1 2 0 0 0
     ready s i (s.myCore.mxq.length < 8 ∧ s.myCtx.fmtq = [])) = true ∧
    (let s : State := dev .m (fun c => { c with s := [(1, 0), (2, 0x80000)] }) (fun x => { x with fmtq := [0x8000000000000000] }) id
     let i : Instr := .mma h0 7 1 2 0 0 0
     ready s i (s.myCore.mxq.length < 8 ∧ s.myCtx.fmtq = [0x8000000000000000] ∧ fwMma 0x8000000000000000 false false false false = false)) = true ∧
    (let s : State := dev .m (fun c => { c with s := [(1, 0), (2, 0x80000)] }) (fun x => { x with fmtq := [0x233] }) id
     let i : Instr := .mma h0 7 1 2 0 0 0
     ready s i (s.myCore.mxq.length < 8 ∧ s.myCtx.fmtq = [0x233] ∧ (fwMma (0x233) false false false false && !(fwC (0x233) = 2 && 7 % 2 = 1)) = false)) = true ∧
    (let s : State := dev .m (fun c => { c with s := [(1, 0), (2, 0x80000)] }) (fun x => { x with fmtq := [0x177], task := some { slotTask with snap := { slotTask.snap with frame := 16384 } } }) id
     let i : Instr := .mma h0 7 1 2 0 0 0
     ready s i (s.myCore.mxq.length < 8 ∧ s.myCtx.fmtq = [0x177] ∧ fwMma (0x177) false false false false = true ∧ s.myTask.snap.frame < accOff (s.myCtx.view 3) 7 false + 4096)) = true ∧
    (let s : State := dev .m (fun c => { c with s := [(1, 0), (2, 0)] }) (fun x => { x with fmtq := [0x177] }) id
     let i : Instr := .mma h0 7 1 2 0 0 0
     ready s i (s.myCore.mxq.length < 8 ∧ s.myCtx.fmtq = [0x177] ∧ fwMma (0x177) false false false false = true ∧ mmaAddrOk (0x177) (s.me.sreg 1) (s.me.sreg 2) = false)) = true ∧
    (let s : State := plain .m
     let i : Instr := .mckrd h0 7 1
     ready s i (accOff (s.myCtx.view 3) 7 false + 4096 ≤ s.myTask.snap.frame ∧ s.mxOf s.cur = false ∧ s.myCtx.mxBad = false)) = true ∧
    (let s : State := dev .m id (fun x => { x with task := some { slotTask with snap := { slotTask.snap with frame := 16384 } } }) id
     let i : Instr := .mckrd h0 7 1
     ready s i (s.myTask.snap.frame < accOff (s.myCtx.view 3) 7 false + 4096 ∧ s.myCtx.mxBad = false)) = true := by decide +kernel

/-- States and operands that meet the hypotheses of EngineWordsPushCommands, clause by clause. -/
theorem witness_EngineWordsPushCommands_a :
    (let s : State := { (dev .a (fun c => { c with s := [(1, 3), (2, 63), (3, 2 ^ 20), (4, 2 ^ 20 + 1), (5, 4096), (6, 9), (7, 64)] }) (fun x => { x with remF := [⟨7, 0, 0, false, []⟩], colF := [⟨8, 0, 0, false, []⟩], ct := [(31, ⟨14, 0, 0, 0, false⟩), (2, ⟨0, 9, 5, 6, false⟩)] }) id) with tqs := [(63, { TaskQ.reset with part := some 0 })] }
     let i : Instr := .rput h0 3 1 2
     ready s i (match s.enCommand i with | some (q, _) => s.enRefusal i = none && s.myCore.enFull q = false | none => false)) = true ∧
    (let s : State := { (dev .a (fun c => { c with s := [(1, 3), (2, 63), (3, 2 ^ 20), (4, 2 ^ 20 + 1), (5, 4096), (6, 9), (7, 64)] }) (fun x => { x with remF := [⟨7, 0, 0, false, []⟩], colF := [⟨8, 0, 0, false, []⟩], ct := [(31, ⟨14, 0, 0, 0, false⟩), (2, ⟨0, 9, 5, 6, false⟩)] }) id) with tqs := [(63, { TaskQ.reset with part := some 0 })] }
     let i : Instr := .rget h0 3 1 2
     ready s i (match s.enCommand i with | some (q, _) => s.enRefusal i = none && s.myCore.enFull q = false | none => false)) = true ∧
    (let s : State := { (dev .a (fun c => { c with s := [(1, 3), (2, 63), (3, 2 ^ 20), (4, 2 ^ 20 + 1), (5, 4096), (6, 9), (7, 64)] }) (fun x => { x with remF := [⟨7, 0, 0, false, []⟩], colF := [⟨8, 0, 0, false, []⟩], ct := [(31, ⟨14, 0, 0, 0, false⟩), (2, ⟨0, 9, 5, 6, false⟩)] }) id) with tqs := [(63, { TaskQ.reset with part := some 0 })] }
     let i : Instr := .ratom h0 1 4 1 2
     ready s i (match s.enCommand i with | some (q, _) => s.enRefusal i = none && s.myCore.enFull q = false | none => false)) = true ∧
    (let s : State := { (dev .a (fun c => { c with s := [(1, 3), (2, 63), (3, 2 ^ 20), (4, 2 ^ 20 + 1), (5, 4096), (6, 9), (7, 64)] }) (fun x => { x with remF := [⟨7, 0, 0, false, []⟩], colF := [⟨8, 0, 0, false, []⟩], ct := [(31, ⟨14, 0, 0, 0, false⟩), (2, ⟨0, 9, 5, 6, false⟩)] }) id) with tqs := [(63, { TaskQ.reset with part := some 0 })] }
     let i : Instr := .rfence h0
     ready s i (match s.enCommand i with | some (q, _) => s.enRefusal i = none && s.myCore.enFull q = false | none => false)) = true ∧
    (let s : State := { (dev .a (fun c => { c with s := [(1, 3), (2, 63), (3, 2 ^ 20), (4, 2 ^ 20 + 1), (5, 4096), (6, 9), (7, 64)] }) (fun x => { x with remF := [⟨7, 0, 0, false, []⟩], colF := [⟨8, 0, 0, false, []⟩], ct := [(31, ⟨14, 0, 0, 0, false⟩), (2, ⟨0, 9, 5, 6, false⟩)] }) id) with tqs := [(63, { TaskQ.reset with part := some 0 })] }
     let i : Instr := .cred h0 2 1
     ready s i (match s.enCommand i with | some (q, _) => s.enRefusal i = none && s.myCore.enFull q = false | none => false)) = true ∧
    (let s : State := { (dev .a (fun c => { c with s := [(1, 3), (2, 63), (3, 2 ^ 20), (4, 2 ^ 20 + 1), (5, 4096), (6, 9), (7, 64)] }) (fun x => { x with remF := [⟨7, 0, 0, false, []⟩], colF := [⟨8, 0, 0, false, []⟩], ct := [(31, ⟨14, 0, 0, 0, false⟩), (2, ⟨0, 9, 5, 6, false⟩)] }) id) with tqs := [(63, { TaskQ.reset with part := some 0 })] }
     let i : Instr := .cbcast h0 1
     ready s i (match s.enCommand i with | some (q, _) => s.enRefusal i = none && s.myCore.enFull q = false | none => false)) = true ∧
    (let s : State := { (dev .a (fun c => { c with s := [(1, 3), (2, 63), (3, 2 ^ 20), (4, 2 ^ 20 + 1), (5, 4096), (6, 9), (7, 64)] }) (fun x => { x with remF := [⟨7, 0, 0, false, []⟩], colF := [⟨8, 0, 0, false, []⟩], ct := [(31, ⟨14, 0, 0, 0, false⟩), (2, ⟨0, 9, 5, 6, false⟩)] }) id) with tqs := [(63, { TaskQ.reset with part := some 0 })] }
     let i : Instr := .taskq h0 1 2
     ready s i (match s.enCommand i with | some (q, _) => s.enRefusal i = none && s.myCore.enFull q = false | none => false)) = true ∧
    (let s : State := { (dev .a (fun c => { c with s := [(1, 3), (2, 63), (3, 2 ^ 20), (4, 2 ^ 20 + 1), (5, 4096), (6, 9), (7, 64)] }) (fun x => { x with remF := [⟨7, 0, 0, false, []⟩], colF := [⟨8, 0, 0, false, []⟩], ct := [(31, ⟨14, 0, 0, 0, false⟩), (2, ⟨0, 9, 5, 6, false⟩)] }) id) with tqs := [(63, { TaskQ.reset with part := some 0 })] }
     let i : Instr := .launch h0 1
     ready s i (match s.enCommand i with | some (q, _) => s.enRefusal i = none && s.myCore.enFull q = false | none => false)) = true := by decide +kernel

/-- States and operands that meet the hypotheses of EngineWordsPushCommands, clause by clause. -/
theorem witness_EngineWordsPushCommands_b :
    (let s : State := { (dev .a (fun c => { c with s := [(1, 3), (2, 63), (3, 2 ^ 20), (4, 2 ^ 20 + 1), (5, 4096), (6, 9), (7, 64)] }) (fun x => { x with remF := [⟨7, 0, 0, false, []⟩], colF := [⟨8, 0, 0, false, []⟩], ct := [(31, ⟨14, 0, 0, 0, false⟩), (2, ⟨0, 9, 5, 6, false⟩)] }) id) with tqs := [(63, { TaskQ.reset with part := some 0 })] }
     let i : Instr := .almld h0 1 5
     ready s i (match s.enCommand i with | some (q, _) => s.enRefusal i = none && s.myCore.enFull q = false | none => false)) = true ∧
    (let s : State := { (dev .a (fun c => { c with s := [(1, 3), (2, 63), (3, 2 ^ 20), (4, 2 ^ 20 + 1), (5, 4096), (6, 9), (7, 64)] }) (fun x => { x with remF := [⟨7, 0, 0, false, []⟩], colF := [⟨8, 0, 0, false, []⟩], ct := [(31, ⟨14, 0, 0, 0, false⟩), (2, ⟨0, 9, 5, 6, false⟩)] }) id) with tqs := [(63, { TaskQ.reset with part := some 0 })] }
     let i : Instr := .almclr h0
     ready s i (match s.enCommand i with | some (q, _) => s.enRefusal i = none && s.myCore.enFull q = false | none => false)) = true ∧
    (let s : State := { (dev .a (fun c => { c with s := [(1, 3), (2, 63), (3, 2 ^ 20), (4, 2 ^ 20 + 1), (5, 4096), (6, 9), (7, 64)] }) (fun x => { x with remF := [⟨7, 0, 0, false, []⟩], colF := [⟨8, 0, 0, false, []⟩], ct := [(31, ⟨14, 0, 0, 0, false⟩), (2, ⟨0, 9, 5, 6, false⟩)] }) id) with tqs := [(63, { TaskQ.reset with part := some 0 })] }
     let i : Instr := .cbld h0 1
     ready s i (match s.enCommand i with | some (q, _) => s.enRefusal i = none && s.myCore.enFull q = false | none => false)) = true ∧
    (let s : State := dev .a (fun c => { c with s := [(1, 3), (2, 63), (3, 2 ^ 20), (4, 2 ^ 20 + 1), (5, 4096), (6, 9), (7, 64)] }) (fun x => { x with remF := [⟨7, 0, 0, false, []⟩], colF := [⟨8, 0, 0, false, []⟩], ct := [(31, ⟨14, 0, 0, 0, false⟩), (2, ⟨0, 9, 5, 6, false⟩)] }) id
     let i : Instr := .rput h0 4 1 2
     ready s i (match s.enCommand i with | some _ => s.enRefusal i = some 1 | none => false)) = true ∧
    (let s : State := dev .a (fun c => { c with s := [(1, 3), (2, 63), (3, 2 ^ 20), (4, 2 ^ 20 + 1), (5, 4096), (6, 9), (7, 64)] }) (fun x => { x with remF := [⟨7, 0, 0, false, []⟩], colF := [⟨8, 0, 0, false, []⟩], ct := [(31, ⟨14, 0, 0, 0, false⟩), (2, ⟨0, 9, 5, 6, false⟩)] }) id
     let i : Instr := .taskq h0 1 7
     ready s i (match s.enCommand i with | some _ => s.enRefusal i = some 1 | none => false)) = true ∧
    (let s : State := dev .a (fun c => { c with s := [(1, 3), (2, 63), (3, 2 ^ 20), (4, 2 ^ 20 + 1), (5, 4096), (6, 9), (7, 64)] }) (fun x => { x with remF := [⟨7, 0, 0, false, []⟩], colF := [⟨8, 0, 0, false, []⟩], ct := [(31, ⟨14, 0, 0, 0, false⟩), (2, ⟨0, 9, 5, 6, false⟩)] }) id
     let i : Instr := .taskq h0 1 2
     ready s i (match s.enCommand i with | some _ => s.enRefusal i = some 9 | none => false)) = true ∧
    (let s : State := dev .a (fun c => { c with s := [(1, 3), (2, 63), (3, 2 ^ 20), (4, 2 ^ 20 + 1), (5, 4096), (6, 9), (7, 64)] }) (fun x => { x with remF := [⟨7, 0, 0, false, []⟩], colF := [⟨8, 0, 0, false, []⟩], ct := [(31, ⟨14, 0, 0, 0, false⟩), (2, ⟨0, 9, 5, 6, false⟩)] }) id
     let i : Instr := .almld h0 1 0
     ready s i (match s.enCommand i with | some _ => s.enRefusal i = some 1 | none => false)) = true ∧
    (let s : State := dev .a id (fun x => { x with task := some { slotTask with cls := 1 } }) id
     let i : Instr := .launch h0 1
     ready s i (match s.enCommand i with | some _ => s.enRefusal i = some 9 | none => false)) = true := by decide +kernel

/-- States and operands that meet the hypotheses of EngineWordsPushCommands, clause by clause. -/
theorem witness_EngineWordsPushCommands_c :
    (let s : State := dev .a (fun c => { c with s := [(1, 3), (2, 63), (3, 2 ^ 20), (4, 2 ^ 20 + 1), (5, 4096), (6, 9), (7, 64)] }) (fun x => { x with remF := [⟨7, 0, 0, false, []⟩], colF := [⟨8, 0, 0, false, []⟩], ct := [(31, ⟨14, 0, 0, 0, false⟩), (2, ⟨0, 9, 5, 6, false⟩)] }) id
     let i : Instr := .cpy h0 31 1 2
     ready s i ((s.myCtx.ctok 31).pend < 15 ∧ s.myCore.cpq.length < 32)) = true ∧
    (let s : State := dev .a (fun c => { c with s := [(1, 3), (2, 63), (3, 2 ^ 20), (4, 2 ^ 20 + 1), (5, 4096), (6, 9), (7, 64)] }) (fun x => { x with remF := [⟨7, 0, 0, false, []⟩], colF := [⟨8, 0, 0, false, []⟩], ct := [(31, ⟨14, 0, 0, 0, false⟩), (2, ⟨0, 9, 5, 6, false⟩)] }) id
     let i : Instr := .cpyl h0 31 1 2
     ready s i ((s.myCtx.ctok 31).pend < 15 ∧ s.myCore.cpq.length < 32)) = true ∧
    (let s : State := dev .a (fun c => { c with s := [(1, 3), (2, 63), (3, 2 ^ 20), (4, 2 ^ 20 + 1), (5, 4096), (6, 9), (7, 64)] }) (fun x => { x with remF := [⟨7, 0, 0, false, []⟩], colF := [⟨8, 0, 0, false, []⟩], ct := [(31, ⟨14, 0, 0, 0, false⟩), (2, ⟨0, 9, 5, 6, false⟩)] }) id
     let i : Instr := .cpyw h0 1
     ready s i ((s.myCtx.ctok 1).pend = 0 ∧ (s.myCtx.ctok 1).stat = 0)) = true ∧
    (let s : State := dev .a (fun c => { c with s := [(1, 3), (2, 63), (3, 2 ^ 20), (4, 2 ^ 20 + 1), (5, 4096), (6, 9), (7, 64)] }) (fun x => { x with remF := [⟨7, 0, 0, false, []⟩], colF := [⟨8, 0, 0, false, []⟩], ct := [(31, ⟨14, 0, 0, 0, false⟩), (2, ⟨0, 9, 5, 6, false⟩)] }) id
     let i : Instr := .cpyw h0 2
     ready s i ((s.myCtx.ctok 2).pend = 0 ∧ (s.myCtx.ctok 2).stat ≠ 0)) = true ∧
    (let s : State := dev .a (fun c => { c with s := [(1, 3), (2, 63), (3, 2 ^ 20), (4, 2 ^ 20 + 1), (5, 4096), (6, 9), (7, 64)] }) (fun x => { x with remF := [⟨7, 0, 0, false, []⟩], colF := [⟨8, 0, 0, false, []⟩], ct := [(31, ⟨14, 0, 0, 0, false⟩), (2, ⟨0, 9, 5, 6, false⟩)] }) id
     let i : Instr := .cpyq h0 1 31
     ready s i ((s.myCtx.ctok 31).pend ≠ 0)) = true ∧
    (let s : State := dev .a (fun c => { c with s := [(1, 3), (2, 63), (3, 2 ^ 20), (4, 2 ^ 20 + 1), (5, 4096), (6, 9), (7, 64)] }) (fun x => { x with remF := [⟨7, 0, 0, false, []⟩], colF := [⟨8, 0, 0, false, []⟩], ct := [(31, ⟨14, 0, 0, 0, false⟩), (2, ⟨0, 9, 5, 6, false⟩)] }) id
     let i : Instr := .cpyq h0 1 1
     ready s i ((s.myCtx.ctok 1).pend = 0 ∧ (s.myCtx.ctok 1).stat = 0)) = true ∧
    (let s : State := dev .a (fun c => { c with s := [(1, 3), (2, 63), (3, 2 ^ 20), (4, 2 ^ 20 + 1), (5, 4096), (6, 9), (7, 64)] }) (fun x => { x with remF := [⟨7, 0, 0, false, []⟩], colF := [⟨8, 0, 0, false, []⟩], ct := [(31, ⟨14, 0, 0, 0, false⟩), (2, ⟨0, 9, 5, 6, false⟩)] }) id
     let i : Instr := .cpyq h0 1 2
     ready s i ((s.myCtx.ctok 2).pend = 0 ∧ (s.myCtx.ctok 2).stat ≠ 0)) = true ∧
    (let s : State := dev .a (fun c => { c with s := [(1, 3), (2, 63), (3, 2 ^ 20), (4, 2 ^ 20 + 1), (5, 4096), (6, 9), (7, 64)] }) (fun x => { x with remF := [⟨7, 0, 0, false, []⟩], colF := [⟨8, 0, 0, false, []⟩], ct := [(31, ⟨14, 0, 0, 0, false⟩), (2, ⟨0, 9, 5, 6, false⟩)] }) id
     let i : Instr := .eres h0 1 0
     ready s i (s.myCtx.remF = [⟨7, 0, 0, false, []⟩])) = true := by decide +kernel

/-- States and operands that meet the hypotheses of EngineWordsPushCommands, clause by clause. -/
theorem witness_EngineWordsPushCommands_d :
    (let s : State := dev .a (fun c => { c with s := [(1, 3), (2, 63), (3, 2 ^ 20), (4, 2 ^ 20 + 1), (5, 4096), (6, 9), (7, 64)] }) (fun x => { x with remF := [⟨7, 0, 0, false, []⟩], colF := [⟨8, 0, 0, false, []⟩], ct := [(31, ⟨14, 0, 0, 0, false⟩), (2, ⟨0, 9, 5, 6, false⟩)] }) id
     let i : Instr := .eres h0 1 1
     ready s i (s.myCtx.colF = [⟨8, 0, 0, false, []⟩])) = true ∧
    (let s : State := dev .a (fun c => { c with s := [(1, 3), (2, 63), (3, 2 ^ 20), (4, 2 ^ 20 + 1), (5, 4096), (6, 9), (7, 64)] }) (fun x => { x with remF := [⟨7, 9, 5, true, []⟩], colF := [⟨8, 0, 0, false, []⟩], ct := [(31, ⟨14, 0, 0, 0, false⟩), (2, ⟨0, 9, 5, 6, false⟩)] }) id
     let i : Instr := .eres h0 1 0
     ready s i (s.myCtx.remF = [⟨7, 9, 5, true, []⟩])) = true ∧
    (let s : State := dev .a (fun c => { c with s := [(1, 3), (2, 63), (3, 2 ^ 20), (4, 2 ^ 20 + 1), (5, 4096), (6, 9), (7, 64)] }) (fun x => { x with remF := [⟨7, 0, 0, false, []⟩], colF := [⟨8, 14, 5, false, []⟩], ct := [(31, ⟨14, 0, 0, 0, false⟩), (2, ⟨0, 9, 5, 6, false⟩)] }) id
     let i : Instr := .eres h0 1 1
     ready s i (s.myCtx.colF = [⟨8, 14, 5, false, []⟩])) = true := by decide +kernel

/-- States and operands that meet the hypotheses of CheckWords, clause by clause. -/
theorem witness_CheckWords_a :
    (let s : State := (dev .c (fun c => { c with s := [(1, 5), (2, 7), (3, 0x104), (31, 8)], p := [(1, true)] }) id id)
     let i : Instr := .sigfold h0 3 1
     ready s i (s.cur.clu ≠ .v)) = true ∧
    (let s : State := plain .v
     let i : Instr := .sigfold h0 3 27
     ready s i (s.cur.clu = .v ∧ ((s.taken h0).source (vop 27) 1).isSome)) = true ∧
    (let s : State := (dev .c (fun c => { c with s := [(1, 5), (2, 7), (3, 0x104), (31, 8)], p := [(1, true)] }) id id)
     let i : Instr := .csacc h0 7 1
     ready s i (s.cur.clu ≠ .v ∧ (s.me.invOf 7).n < 2 ^ 56 - 1)) = true ∧
    (let s : State := plain .v
     let i : Instr := .csacc h0 7 0
     ready s i (s.cur.clu = .v ∧ s.myCtx.srcFmt [vop 0] = some .fp32 ∧ (s.me.invOf 7).n + 128 ≤ 2 ^ 56 - 1 ∧ ((s.taken h0).source (vop 0) 1).isSome)) = true ∧
    (let s : State := plain .c
     let i : Instr := .cschk h0 7 0
     ready s i ((s.me.invOf 7).check (s.me.sreg 0) = true)) = true ∧
    (let s : State := (dev .c (fun c => { c with s := [(1, 5), (2, 7), (3, 0x104), (31, 8)], p := [(1, true)] }) id id)
     let i : Instr := .cschk h0 7 1
     ready s i ((s.me.invOf 7).check (s.me.sreg 1) = false)) = true ∧
    (let s : State := dev .c (fun c => { c with barGo := true }) (fun x => { x with cir := 4 }) id
     let i : Instr := .chkerr h0
     ready s i (s.me.dl = [] ∧ s.me.barGo = true ∧ s.myCtx.cir % 2 = 0)) = true ∧
    (let s : State := dev .c (fun c => { c with barGo := true }) (fun x => { x with cir := 1 }) id
     let i : Instr := .chkerr h0
     ready s i (s.me.dl = [] ∧ s.me.barGo = true ∧ s.myCtx.cir % 2 = 1)) = true := by decide +kernel

/-- States and operands that meet the hypotheses of CheckWords, clause by clause. -/
theorem witness_CheckWords_b :
    (let s : State := dev .c (fun c => { c with s := [(1, 3)] }) (fun x => { x with prov := [(3, [1, 2, 3, 4])] }) id
     let i : Instr := .provrd h0 2 3 1
     ready s i ((s.me.sreg 1).toNat < 4)) = true ∧
    (let s : State := dev .c (fun c => { c with s := [(1, 4)] }) (fun x => { x with cir := 5 }) id
     let i : Instr := .provrd h0 2 3 1
     ready s i ((s.me.sreg 1).toNat = 4)) = true ∧
    (let s : State := plain .c
     let i : Instr := .chkerr h0
     ready s i (s.me.dl = [] ∧ s.me.barGo = false)) = true := by decide +kernel

/-- States and operands that meet the hypotheses of WordsAreCheckedBeforeTheyIssue, clause by clause. -/
theorem witness_WordsAreCheckedBeforeTheyIssue :
    (let s : State := plain .c
     s.me.run = .run ∧ s.me.idleGroup (leadOf (.mdrain h0)) (s.wordPc (.mdrain h0)) = false ∧ unitOk s.cur.clu (.mdrain h0) = false ∧ s.me.idlePrefix (leadOf (.mdrain h0)) = none ∧ s.me.noIssue = none) ∧
    (let s : State := plain .a
     s.me.run = .run ∧ s.me.idleGroup (leadOf (.amode h0 16 0)) (s.wordPc (.amode h0 16 0)) = false ∧ unitOk s.cur.clu (.amode h0 16 0) = true ∧ reservedOk (.amode h0 16 0) = false ∧ s.me.idlePrefix (leadOf (.amode h0 16 0)) = none ∧ s.me.noIssue = none) ∧
    (let s : State := dev .c id (fun x => { x with task := some { slotTask with snap := { slotTask.snap with sys := false } } }) id
     s.me.run = .run ∧ s.me.idleGroup (leadOf (.wake h0 1)) (s.wordPc (.wake h0 1)) = false ∧ unitOk s.cur.clu (.wake h0 1) = true ∧ reservedOk (.wake h0 1) = true ∧ s.me.prefixAtEnd 0 = false ∧ s.myTask.snap.sys = false ∧ s.me.idlePrefix (leadOf (.wake h0 1)) = none ∧ s.me.noIssue = none) := by decide +kernel

/-- States and operands that meet the hypotheses of SystemWordsThatActAtOnce, clause by clause. -/
theorem witness_SystemWordsThatActAtOnce :
    (let s : State := dev .c (fun c => { c with s := [(1, 0x1C00), (2, 7)], asked := false, answer := none, barGo := false }) id id
     let i : Instr := .stoprd h0 3 1 2
     ready s i ((s.me.sreg 1).toNat < 2 ^ 13 ∧ (s.me.sreg 2).toNat < 8)) = true ∧
    (let s : State := dev .c (fun c => { c with s := [(1, 0xFF), (2, 0)], asked := false, answer := none, barGo := false }) id id
     let i : Instr := .wake h0 1
     ready s i ((s.me.sreg 1).toNat < 2 ^ 8)) = true ∧
    (let s : State := dev .c (fun c => { c with s := [(1, 2 + 65 * 2 ^ 16), (2, 0)], asked := false, answer := none, barGo := false }) id id
     let i : Instr := .retire h0 3 1
     ready s i ((unitDesc (s.me.sreg 1)).ok (s.me.sreg 1) false = true ∧ (unitDesc (s.me.sreg 1)).type = 2 ∧ s.backs (unitDesc (s.me.sreg 1)) (unitDesc (s.me.sreg 1)).minor = false)) = true ∧
    (let s : State := dev .c (fun c => { c with s := [(1, 2 + 63 * 2 ^ 16), (2, 0)], asked := false, answer := none, barGo := false }) id id
     let i : Instr := .retire h0 3 1
     ready s i ((unitDesc (s.me.sreg 1)).ok (s.me.sreg 1) false = true ∧ (unitDesc (s.me.sreg 1)).type = 2 ∧ s.backs (unitDesc (s.me.sreg 1)) (unitDesc (s.me.sreg 1)).minor = true)) = true ∧
    (let s : State := dev .c (fun c => { c with s := [(1, 2 + 63 * 2 ^ 16), (2, 65)], asked := false, answer := none, barGo := false }) id id
     let i : Instr := .spare h0 3 1 2
     ready s i ((unitDesc (s.me.sreg 1)).ok (s.me.sreg 1) true = true ∧ (unitDesc (s.me.sreg 1)).type = 2 ∧ s.spareUnit (unitDesc (s.me.sreg 1)) 65 = some (65, 65) ∧ s.backs (unitDesc (s.me.sreg 1)) 65 = false ∧ (2, 65) ∉ s.retired)) = true ∧
    (let s : State := dev .c (fun c => { c with s := [(1, 2 + 63 * 2 ^ 16), (2, 66)], asked := false, answer := none, barGo := false }) id id
     let i : Instr := .spare h0 3 1 2
     ready s i ((unitDesc (s.me.sreg 1)).ok (s.me.sreg 1) true = true ∧ (unitDesc (s.me.sreg 1)).type = 2 ∧ s.spareUnit (unitDesc (s.me.sreg 1)) 66 = none)) = true ∧
    (let s : State := dev .c (fun c => { c with s := [(1, 1 + 38 * 2 ^ 16 + 2 ^ 24), (2, 1048572)], asked := false, answer := none, barGo := false }) id id
     let i : Instr := .errinj h0 1 2
     ready s i (s.injectOk (s.me.sreg 1).toNat (s.me.sreg 2).toNat = true)) = true := by decide +kernel

/-- States and operands that meet the hypotheses of SystemWordsAskAndWait, clause by clause. -/
theorem witness_SystemWordsAskAndWait_a :
    (let s : State := dev .c (fun c => { c with s := [(1, 15), (4, 0x8888888888888888), (5, 0x3333333333333333)], asked := false }) id id
     let i : Instr := .slotw h0 4 1
     ready s i (s.me.asked = false ∧ s.me.answer = none ∧ (s.me.sreg 1).toNat < 16 ∧ (s.me.slotEntries 4).all (fun e => e < 4 || e = 8) = true)) = true ∧
    (let s : State := dev .c (fun c => { c with s := [(1, 63), (2, 2 ^ 40 - 1)], asked := false, answer := none, barGo := false }) id id
     let i : Instr := .wdset h0 1 2
     ready s i (s.me.asked = false ∧ s.me.answer = none ∧ (s.me.sreg 1).toNat < 64 ∧ (s.me.sreg 2).toNat < 2 ^ 40)) = true ∧
    (let s : State := dev .c (fun c => { c with s := [(1, 0x100), (2, 2 ^ 63)], asked := false, answer := none }) id (fun k => { k with ctxs := tblPut k.ctxs 1 { Ctx.reset with task := some slotTask } })
     let i : Instr := .ctxsave h0 3 1 2
     ready s i (s.me.asked = false ∧ s.me.answer = none ∧ (s.me.sreg 1).toNat < 2 ^ 10 ∧ (s.me.sreg 2).toNat % 65536 = 0 ∧ s.hasDie 0 = true ∧ (s.ctxOf ⟨0, 1, .c⟩).task.isSome = true ∧ (s.ctxOf ⟨0, 1, .c⟩).frozen = false ∧ (s.ctxOf ⟨0, 1, .c⟩).preempt = false ∧ (cluAll.all fun u => (s.clu ⟨0, 1, u⟩).run ≠ .stopped) = true ∧ ((s.taken h0).imgFault s.cur.core s.myTask (2 ^ 63) true).2 = none)) = true ∧
    (let s : State := dev .c (fun c => { c with s := [(1, 0), (2, 0)], asked := false, answer := none, barGo := false }) id id
     let i : Instr := .haltp h0 3 1
     ready s i (s.me.asked = false ∧ s.me.answer = none ∧ (s.me.sreg 1).toNat < 16 ∧ (s.part 0).dies ≠ [] ∧ (s.part 0).run = .running)) = true ∧
    (let s : State := dev .c (fun c => { c with s := [(1, 0xF0), (2, 0)], asked := false, answer := none, barGo := false }) id id
     let i : Instr := .gate h0 3 1
     ready s i (s.me.asked = false ∧ s.me.answer = none ∧ (s.me.sreg 1).toNat < 2 ^ 8 ∧ s.hasDie 0 = true ∧ (s.core (selCore (s.me.sreg 1))).power = .on ∧ ((List.range 4).all fun x => ((s.core (selCore (s.me.sreg 1))).ctx x).task = none) = true ∧ (s.core (selCore (s.me.sreg 1))).busy = false)) = true ∧
    (let s : State := dev .c (fun c => { c with s := [(1, 15), (4, 0x8888888888888888), (5, 0x3333333333333333)], asked := true }) id id
     let i : Instr := .slotw h0 4 1
     ready s i ((s.me.sreg 1).toNat < 16 ∧ (s.me.slotEntries 4).all (fun e => e < 4 || e = 8) = true ∧ s.me.asked = true ∧ (s.core 15).slotNext = none)) = true ∧
    (let s : State := dev .c (fun c => { c with s := [(1, 0), (2, 31)], asked := true, answer := some 0, barGo := false }) id id
     let i : Instr := .tlbinv h0 1 2
     ready s i ((s.me.sreg 2).toNat < 32 ∧ s.me.answer = some 0 ∧ s.tlbBusy 15 0 0 0 = false)) = true ∧
    (let s : State := dev .c (fun c => { c with s := [(1, 63), (2, 2 ^ 40 - 1)], asked := true, answer := none, barGo := false }) id id
     let i : Instr := .wdset h0 1 2
     ready s i ((s.me.sreg 1).toNat < 64 ∧ (s.me.sreg 2).toNat < 2 ^ 40 ∧ s.me.asked = true ∧ (s.tq 63).wlNext = none)) = true := by decide +kernel

/-- States and operands that meet the hypotheses of SystemWordsAskAndWait, clause by clause. -/
theorem witness_SystemWordsAskAndWait_b :
    (let s : State := dev .c (fun c => { c with s := [(1, 0x3FF), (2, 65536)], asked := true, answer := some 0, barGo := false }) id id
     let i : Instr := .ctxsave h0 3 1 2
     ready s i ((s.me.sreg 1).toNat < 2 ^ 10 ∧ (s.me.sreg 2).toNat % 65536 = 0 ∧ s.me.asked = true ∧ s.me.answer = some 0)) = true ∧
    (let s : State := { (dev .c (fun c => { c with s := [(1, 0), (2, 0)], asked := false, answer := none, barGo := false }) id id) with parts := [(0, { Part.reset with dies := [0], run := .halted })] }
     let i : Instr := .haltp h0 3 1
     ready s i ((s.me.sreg 1).toNat < 16 ∧ (s.part 0).dies ≠ [] ∧ (s.part 0).run = .halted)) = true ∧
    (let s : State := dev .c (fun c => { c with s := [(1, 16), (2, 0)], asked := true, answer := none, barGo := false }) id id
     let i : Instr := .haltp h0 3 1
     ready s i (16 ≤ (s.me.sreg 1).toNat ∧ (s.me.sreg 1).toNat < 32 ∧ (s.part 0).dies ≠ [] ∧ s.me.asked = true ∧ (s.part 0).stopDies = [])) = true ∧
    (let s : State := dev .c (fun c => { c with s := [(1, 0xF0), (2, 0)], asked := true, answer := none, barGo := true }) id id
     let i : Instr := .gate h0 3 1
     ready s i ((s.me.sreg 1).toNat < 2 ^ 8 ∧ s.hasDie (dieOf (selCore (s.me.sreg 1))) = true ∧ s.me.asked = true ∧ s.me.barGo = true)) = true ∧
    (let s : State := dev .c (fun c => { c with s := [(1, 0), (2, 31)], asked := false, answer := none, barGo := false }) id id
     let i : Instr := .tlbinv h0 1 2
     ready s i (s.me.asked = false ∧ s.me.answer = none ∧ (s.me.sreg 2).toNat < 32 ∧ ((s.taken h0).release s.cur 2).isSome = true)) = true ∧
    (let s : State := dev .c (fun c => { c with s := [(1, 16), (2, 0)], asked := false, answer := none, barGo := false }) id id
     let i : Instr := .haltp h0 3 1
     ready s i (s.me.asked = false ∧ s.me.answer = none ∧ 16 ≤ (s.me.sreg 1).toNat ∧ (s.me.sreg 1).toNat < 32 ∧ (s.part 0).dies ≠ [])) = true ∧
    (let s : State := dev .c (fun c => { c with s := [(1, 31)], asked := true }) id id
     let i : Instr := .slotw h0 4 1
     ready s i (16 ≤ (s.me.sreg 1).toNat ∧ (s.me.sreg 1).toNat < 32 ∧ s.me.asked = true ∧ (s.core 15).slotNext = none)) = true ∧
    (let s : State := dev .c (fun c => { c with s := [(1, 64), (2, 2 ^ 40 - 1)], asked := true, answer := none, barGo := false }) id id
     let i : Instr := .wdset h0 1 2
     ready s i ((s.me.sreg 1).toNat = 64 ∧ (s.me.sreg 2).toNat < 2 ^ 40 ∧ s.me.asked = true ∧ ((List.range 64).all fun q => (s.tq q).wlNext = none) = true)) = true := by decide +kernel

/-- States and operands that meet the hypotheses of SystemWordsAskAndWait, clause by clause. -/
theorem witness_SystemWordsAskAndWait_c :
    (let s : State := dev .c (fun c => { c with s := [(1, 0x3FF), (2, 65536)], asked := false, answer := none, barGo := false }) id id
     let i : Instr := .ctxsave h0 3 1 2
     ready s i ((s.me.sreg 1).toNat < 2 ^ 10 ∧ (s.me.sreg 2).toNat % 65536 = 0 ∧ s.me.asked = false ∧ (s.ctxOf ⟨selCore (s.me.sreg 1), selCtx (s.me.sreg 1), .c⟩).task = none)) = true ∧
    (let s : State := dev .c (fun c => { c with s := [(1, 0x100), (2, 2 ^ 63)], asked := false, answer := none }) id (fun k => { k with ctxs := tblPut k.ctxs 1 { Ctx.reset with task := some slotTask, frozen := true } })
     let i : Instr := .ctxsave h0 3 1 2
     ready s i ((s.me.sreg 1).toNat < 2 ^ 10 ∧ (s.me.sreg 2).toNat % 65536 = 0 ∧ s.me.asked = false ∧ s.hasDie 0 = true ∧ (s.ctxOf ⟨0, 1, .c⟩).task.isSome = true ∧ (s.ctxOf ⟨0, 1, .c⟩).frozen = true)) = true ∧
    (let s : State := dev .c (fun c => { c with s := [(1, 31), (2, 0)], asked := false, answer := none, barGo := false }) id id
     let i : Instr := .haltp h0 3 1
     ready s i ((s.me.sreg 1).toNat < 32 ∧ (s.part 15).dies = [])) = true ∧
    (let s : State := dev .c (fun c => { c with s := [(1, 0), (2, 0)], asked := true, answer := some 0, barGo := false }) id id
     let i : Instr := .haltp h0 3 1
     ready s i ((s.me.sreg 1).toNat < 16 ∧ (s.part 0).dies ≠ [] ∧ s.me.answer.isSome = true)) = true ∧
    (let s : State := dev .c (fun c => { c with s := [(1, 0)] }) id id
     let i : Instr := .gate h0 3 1
     ready s i ((s.me.sreg 1).toNat < 2 ^ 8 ∧ s.hasDie 0 = true ∧ s.me.asked = false ∧ (s.core (selCore (s.me.sreg 1))).power = .on ∧ (((s.core (selCore (s.me.sreg 1))).ctx 0).task.isSome = true))) = true ∧
    (let s : State := { (dev .c (fun c => { c with s := [(1, 0xF0)] }) id id) with cores := (dev .c (fun c => { c with s := [(1, 0xF0)] }) id id).cores ++ [(selCore 0xF0, { Core.reset with power := .off })] }
     let i : Instr := .gate h0 3 1
     ready s i ((s.me.sreg 1).toNat < 2 ^ 8 ∧ s.hasDie (dieOf (selCore (s.me.sreg 1))) = true ∧ s.me.asked = false ∧ (s.core (selCore (s.me.sreg 1))).power = .off)) = true := by decide +kernel

/-- States and operands that meet the hypotheses of ResumingAndLoading, clause by clause. -/
theorem witness_ResumingAndLoading :
    (let s : State := dev .c (fun c => { c with s := [(1, 0), (2, 2 ^ 63)], asked := false, answer := none, barGo := false }) id id
     let i : Instr := .ctxload h0 3 1 2
     ready s i ((s.me.sreg 1).toNat < 2 ^ 8 ∧ (s.me.sreg 2).toNat % 65536 = 0 ∧ s.hasDie 0 = true ∧ ((s.taken h0).imgFault s.cur.core s.myTask (2 ^ 63) false).2 = none ∧ (s.core 0).power = .on ∧ ((((s.taken h0).imgFault s.cur.core s.myTask (2 ^ 63) false).1).imgSettle s.cur.core s.myTask (2 ^ 63)).2 = true)) = true ∧
    (let s : State := dev .c (fun c => { c with s := [(1, 0x100), (2, 2 ^ 63)], asked := false, answer := none }) id (fun k => { k with ctxs := tblPut k.ctxs 1 { Ctx.reset with task := some slotTask, frozen := true, dumped := true } })
     let i : Instr := .inject h0 3 1
     ready s i ((s.me.sreg 1).toNat < 2 ^ 10 ∧ s.hasDie 0 = true ∧ (s.ctxOf ⟨0, 1, .c⟩).task.isSome = true ∧ (s.ctxOf ⟨0, 1, .c⟩).frozen = true ∧ (s.ctxOf ⟨0, 1, .c⟩).dumped = true)) = true ∧
    (let s : State := dev .c id id (fun k => { k with ctxs := tblPut k.ctxs 1 { Ctx.reset with task := some slotTask, frozen := true, dumped := true } })
     let i : Instr := .resumep h0 3 1
     ready s i ((s.me.sreg 1).toNat < 16 ∧ (s.part 0).dies ≠ [] ∧ (s.part 0).run = .running ∧ (((s.taken h0).ctxsOf 0).filter fun j => ((s.taken h0).ctxOf j).frozen).all (fun j => ((s.taken h0).ctxOf j).dumped) = true ∧ (((s.taken h0).ctxsOf 0).filter fun j => ((s.taken h0).ctxOf j).frozen) ≠ [])) = true ∧
    (let s : State := { (dev .c (fun c => { c with s := [(1, 17), (2, 0)], asked := false, answer := none, barGo := false }) id id) with parts := [(0, { Part.reset with dies := [0] }), (1, { Part.reset with dies := [1], run := .halted })] }
     let i : Instr := .resumep h0 3 1
     ready s i (16 ≤ (s.me.sreg 1).toNat ∧ (s.me.sreg 1).toNat < 32 ∧ (s.part 1).dies ≠ [] ∧ (s.part 1).run = .halted ∧ s.almBusy 1 = false)) = true ∧
    (let s : State := dev .c (fun c => { c with s := [(1, 31), (2, 0)], asked := false, answer := none, barGo := false }) id id
     let i : Instr := .resumep h0 3 1
     ready s i ((s.me.sreg 1).toNat < 32 ∧ (s.part 15).dies = [])) = true ∧
    (let s : State := { (dev .c (fun c => { c with s := [(1, 0xFF), (2, 2 ^ 63)], asked := false, answer := none, barGo := false }) id id) with form := 2 }
     let i : Instr := .ctxload h0 3 1 2
     ready s i ((s.me.sreg 1).toNat < 2 ^ 8 ∧ (s.me.sreg 2).toNat % 65536 = 0 ∧ s.hasDie (dieOf (selCore (s.me.sreg 1))) = false)) = true ∧
    (let s : State := { (dev .c (fun c => { c with s := [(1, 17), (2, 0)], asked := true, answer := none, barGo := false }) id id) with parts := [(0, { Part.reset with dies := [0] }), (1, { Part.reset with dies := [1], run := .resetting })] }
     let i : Instr := .resumep h0 3 1
     ready s i (16 ≤ (s.me.sreg 1).toNat ∧ (s.me.sreg 1).toNat < 32 ∧ (s.part 1).dies ≠ [] ∧ (s.part 1).run = .resetting ∧ s.me.asked = true ∧ s.almBusy 1 = false)) = true := by decide +kernel

/-- States and operands that meet the hypotheses of PostsAndResultsArrive, clause by clause. -/
theorem witness_PostsAndResultsArrive :
    (let s : State := { (dev .c id (fun x => { x with task := some { slotTask with launch := 7 } }) id) with postg := [(0, (0, 31, 7, 16))] }
     tblFind s.postg 0 = some (0, 31, 7, 16) ∧ (s.core 0).power = .on ∧ (s.core 0).power = .on) ∧
    (let s : State := { (dev .c id (fun x => { x with task := some { slotTask with launch := 6 } }) id) with postg := [(0, (0, 31, 7, 16))] }
     tblFind s.postg 0 = some (0, 31, 7, 16) ∧ (s.core 0).power = .on ∧ (s.core 0).power = .on) ∧
    (let s : State := dev .c (fun c => { c with held := [3] }) id id
     (s.clu s.cur).held = [3] ∧ (s.ctxOf s.cur).roomTok (sigQueues .c 3) = true) := by decide +kernel

/-- States and operands that meet the hypotheses of CodeLinesWalksAndLoadsArrive, clause by clause. -/
theorem witness_CodeLinesWalksAndLoadsArrive :
    (let s : State := dev .c id (fun x => { x with fetch := some 0x40 }) (fun k => { k with tlb := [⟨0, 0, 65536, 0x30000, false⟩] })
     (s.ctxOf s.cur).fetch = some 0x40 ∧ (match s.translate 0 (s.taskOf s.cur) 0x40 with | (t, some (sa, _)) => decide (saDev sa = t.devId) | _ => false) = true) ∧
    (let s : State := { (dev .a (fun c => { c with a := [(0, 0x20000)], wait := some .tlb, asked := true, answer := some 0x20000 }) id (fun k => { k with icache := [(lineKey slotTask 0, bytesOfNat 64 0x20148000)] })) with dies := [(0, { Die.reset with tlb := [⟨0, 0x20000, 65536, 0x40000, true⟩] })] }
     (whenSome ((List.range 4).find? fun x => ((s.core 0).ctx x).task.isSome && ((s.core 0).ctx x).walksFor 0x20000) fun x => (s.walkFill 0 x (s.taskOf ⟨0, x, .a⟩).part 0x20000).2.isSome) = true) ∧
    (let s : State := dev .a (fun c => { c with a := [(0, 0x20000)], wait := some .tlb, asked := true, answer := some 0x20000 }) id (fun k => { k with icache := [(lineKey slotTask 0, bytesOfNat 64 0x20148000)] })
     (whenSome ((List.range 4).find? fun x => ((s.core 0).ctx x).task.isSome && ((s.core 0).ctx x).walksFor 0x20000) fun x => (s.walkFill 0 x (s.taskOf ⟨0, x, .a⟩).part 0x20000).2.isNone) = true) ∧
    (let s : State := { ({ (dev .a id (fun x => { x with lq := [(0, [⟨0, false, 0, 0⟩])], cir := 4 }) id) with dies := [(0, { Die.reset with dcc := 5 })] }) with accs := [(3, (⟨⟨0, 0, .a⟩, 0x2000, 0x1000, .direct ⟨0, [0], 8, .rne, false, 0, 0, 0, none⟩ 5, false, slotTask, 0, true, false, 0, none, []⟩ : Acc))] }
     tblFind s.accs 3 = some (⟨⟨0, 0, .a⟩, 0x2000, 0x1000, .direct ⟨0, [0], 8, .rne, false, 0, 0, 0, none⟩ 5, false, slotTask, 0, true, false, 0, none, []⟩ : Acc) ∧ 5 ≤ (s.die 0).dcc) ∧
    (let s : State := { (dev .a id (fun x => { x with lq := [(0, [⟨0, false, 0, 0⟩])], cir := 4 }) id) with accs := [(3, (⟨⟨0, 0, .a⟩, 0x2000, 0x1000, .served 0 [(0, 7, 0)] 1 (some 1), false, slotTask, 0, true, false, 0, none, []⟩ : Acc))] }
     tblFind s.accs 3 = some (⟨⟨0, 0, .a⟩, 0x2000, 0x1000, .served 0 [(0, 7, 0)] 1 (some 1), false, slotTask, 0, true, false, 0, none, []⟩ : Acc) ∧ 1 ≤ (s.die 0).dcc + 1 ∧ (s.ctxOf ⟨0, 0, .a⟩).frozen = false) ∧
    (let s : State := { (dev .a id (fun x => { x with lq := [(0, [⟨0, false, 0, 0⟩])], cir := 4 }) id) with accs := [(3, (⟨⟨0, 0, .a⟩, 0x2000, 0x1000, .load ⟨0, [0], 8, .rne, false, 0, 0, 0, none⟩, false, slotTask, 0, true, false, 0, none, []⟩ : Acc))] }
     tblFind s.accs 3 = some (⟨⟨0, 0, .a⟩, 0x2000, 0x1000, .load ⟨0, [0], 8, .rne, false, 0, 0, 0, none⟩, false, slotTask, 0, true, false, 0, none, []⟩ : Acc) ∧ saDev 0x1000 = s.devId ∧ s.accWaits 3 (⟨⟨0, 0, .a⟩, 0x2000, 0x1000, .load ⟨0, [0], 8, .rne, false, 0, 0, 0, none⟩, false, slotTask, 0, true, false, 0, none, []⟩ : Acc) = false) ∧
    (let s : State := { (dev .a id (fun x => { x with lq := [(0, [⟨0, false, 0, 0⟩])], cir := 4 }) id) with accs := [(3, (⟨⟨0, 0, .a⟩, 0x2000, 0x1000, .served 0 [(0, 7, 1)] 1 none, false, slotTask, 0, true, false, 0, none, []⟩ : Acc))] }
     tblFind s.accs 3 = some (⟨⟨0, 0, .a⟩, 0x2000, 0x1000, .served 0 [(0, 7, 1)] 1 none, false, slotTask, 0, true, false, 0, none, []⟩ : Acc) ∧ (s.ctxOf ⟨0, 0, .a⟩).frozen = false) ∧
    (let s : State := { ({ (dev .a id (fun x => { x with lq := [(0, [⟨0, false, 0, 0⟩])], cir := 4 }) id) with dies := [(0, { Die.reset with dcc := 1 })] }) with accs := [(3, (⟨⟨0, 0, .a⟩, 0x2000, 0x1000, .served 0 [(0, 7, 0)] 1 (some 1), false, slotTask, 0, true, false, 0, none, []⟩ : Acc))] }
     tblFind s.accs 3 = some (⟨⟨0, 0, .a⟩, 0x2000, 0x1000, .served 0 [(0, 7, 0)] 1 (some 1), false, slotTask, 0, true, false, 0, none, []⟩ : Acc) ∧ 1 ≤ (s.die 0).dcc ∧ (s.ctxOf ⟨0, 0, .a⟩).frozen = false ∧ (s.ctxOf ⟨0, 0, .a⟩).fetch = none) := by decide +kernel

/-- States and operands that meet the hypotheses of StoresAndAtomicsArePerformed, clause by clause. -/
theorem witness_StoresAndAtomicsArePerformed :
    (let s : State := { ({ plain .a with mem := [(0xFFF, 3), (0x1001, 4), (0x1040, 5)] }) with accs := [(3, (⟨⟨0, 0, .a⟩, 0x2000, 0x1000, .store (2 ^ 511 + 9), false, slotTask, 0, true, false, 0, none, []⟩ : Acc))] }
     tblFind s.accs 3 = some (⟨⟨0, 0, .a⟩, 0x2000, 0x1000, .store (2 ^ 511 + 9), false, slotTask, 0, true, false, 0, none, []⟩ : Acc) ∧ s.accWaits 3 (⟨⟨0, 0, .a⟩, 0x2000, 0x1000, .store (2 ^ 511 + 9), false, slotTask, 0, true, false, 0, none, []⟩ : Acc) = false ∧ saDev 0x1000 = s.devId ∧ saLevel 0x1000 = 0) ∧
    (let s : State := { ({ (dev .a (fun c => { c with blocked := true }) id id) with mem := [(0x1000, 7)] }) with accs := [(3, (⟨⟨0, 0, .a⟩, 0x2000, 0x1000, .atom 0 true 5 0 2, false, slotTask, 0, true, false, 0, none, []⟩ : Acc))] }
     tblFind s.accs 3 = some (⟨⟨0, 0, .a⟩, 0x2000, 0x1000, .atom 0 true 5 0 2, false, slotTask, 0, true, false, 0, none, []⟩ : Acc) ∧ s.accWaits 3 (⟨⟨0, 0, .a⟩, 0x2000, 0x1000, .atom 0 true 5 0 2, false, slotTask, 0, true, false, 0, none, []⟩ : Acc) = false ∧ (s.ctxOf ⟨0, 0, .a⟩).frozen = false ∧ saLevel 0x1000 ≠ 1) ∧
    (let s : State := { (plain .a) with accs := [(3, (⟨⟨0, 0, .a⟩, 0x2000, 0x1000, .win 15 0x40 9 true, false, slotTask, 0, true, false, 0, none, []⟩ : Acc))] }
     tblFind s.accs 3 = some (⟨⟨0, 0, .a⟩, 0x2000, 0x1000, .win 15 0x40 9 true, false, slotTask, 0, true, false, 0, none, []⟩ : Acc) ∧ s.accWaits 3 (⟨⟨0, 0, .a⟩, 0x2000, 0x1000, .win 15 0x40 9 true, false, slotTask, 0, true, false, 0, none, []⟩ : Acc) = false ∧ (s.core 15).power = .on ∧ (s.core 15).touched 0x40 = false) ∧
    (let s : State := { ({ plain .a with cores := (plain .a).cores ++ [(15, { Core.reset with power := .off })] }) with accs := [(3, (⟨⟨0, 0, .a⟩, 0x2000, 0x1000, .win 15 0x40 9 true, false, slotTask, 0, true, false, 0, none, []⟩ : Acc))] }
     tblFind s.accs 3 = some (⟨⟨0, 0, .a⟩, 0x2000, 0x1000, .win 15 0x40 9 true, false, slotTask, 0, true, false, 0, none, []⟩ : Acc) ∧ s.accWaits 3 (⟨⟨0, 0, .a⟩, 0x2000, 0x1000, .win 15 0x40 9 true, false, slotTask, 0, true, false, 0, none, []⟩ : Acc) = false ∧ (s.core 15).power = .off) := by decide +kernel

set_option maxRecDepth 100000 in
/-- States and operands that meet the hypotheses of CopiesRunToTheirEnd, clause by clause. -/
theorem witness_CopiesRunToTheirEnd :
    (let s : State := dev .a id (fun x => { x with ct := [(31, ⟨2, 0, 0, 0, false⟩)] }) (fun k => { k with cpq := [(⟨0, .a, .cpy h0 31 1 2, 0, 1, 0, 0, 0, slotTask, []⟩ : EnCmd)] })
     (s.core 0).engHalt = false ∧ (s.core 0).cpRun.length < 4 ∧ s.cpHeld 0 = false ∧ s.cmdAlive 0 (⟨0, .a, .cpy h0 31 1 2, 0, 1, 0, 0, 0, slotTask, []⟩ : EnCmd) = true ∧ ((s.cpStartCopy 0 (⟨0, .a, .cpy h0 31 1 2, 0, 1, 0, 0, 0, slotTask, []⟩ : EnCmd) false).core 0).cpRun.length ≠ (s.core 0).cpRun.length) ∧
    (let s : State := dev .a id (fun x => { x with ct := [(31, ⟨2, 0, 0, 0, false⟩)] }) (fun k => { k with cpq := [(⟨0, .a, .cpyl h0 31 1 2, 0, 1, 0, 0, 0, slotTask, []⟩ : EnCmd)] })
     (s.core 0).engHalt = false ∧ (s.core 0).cpRun.length < 4 ∧ s.cpHeld 0 = false ∧ s.cmdAlive 0 (⟨0, .a, .cpyl h0 31 1 2, 0, 1, 0, 0, 0, slotTask, []⟩ : EnCmd) = true ∧ ((s.cpStartCopy 0 (⟨0, .a, .cpyl h0 31 1 2, 0, 1, 0, 0, 0, slotTask, []⟩ : EnCmd) true).core 0).cpRun.length ≠ (s.core 0).cpRun.length) ∧
    (let s : State := dev .a id (fun x => { x with ct := [(31, ⟨2, 0, 0, 0, false⟩)] }) (fun k => { k with cpq := [(⟨0, .a, .cbld h0 1, 0, 0x8000000000000000, 0, 0, 0, slotTask, []⟩ : EnCmd)] })
     (s.core 0).engHalt = false ∧ (s.core 0).cpRun.length < 4 ∧ s.cpHeld 0 = false ∧ s.cmdAlive 0 (⟨0, .a, .cbld h0 1, 0, 0x8000000000000000, 0, 0, 0, slotTask, []⟩ : EnCmd) = true ∧ ((s.cpStartCb 0 (⟨0, .a, .cbld h0 1, 0, 0x8000000000000000, 0, 0, 0, slotTask, []⟩ : EnCmd)).core 0).cpRun.length ≠ (s.core 0).cpRun.length) ∧
    (let s : State := (let r : CpRun := { cmd := (⟨0, .a, .cpy h0 31 1 2, 0, 0, 0, 0, 0, slotTask, []⟩ : EnCmd), shape := none, next := 0, slot := none, rows := [], cbits := 0, stat := 8, fidx := 3, addr := 9, cb := [], peer := [], out := 0 }; dev .a id (fun x => { x with ct := [(31, ⟨2, 0, 0, 0, false⟩)] }) (fun k => { k with cpRun := [(5, r)] }))
     (match tblFind (s.core 0).cpRun 5 with | some r => r.moved && s.cmdRoom 0 r.cmd && s.cmdAlive 0 r.cmd && s.inCtx 0 r.cmd && r.cmd.copyTok = some 31 && r.stat = 8 | none => false) = true) ∧
    (let s : State := (let h : Shape := { sbit := 0, dbit := 0x10000, q := 0, sfmt := 0, dfmt := 0, rm := 0, sat := false, sswz := 0, dswz := 0, sspace := 1, dspace := 1, dims := [(16, 0, 0)] }; let r : CpRun := { cmd := (⟨0, .a, .cpy h0 31 1 2, 0, 0, 0, 0, 0, slotTask, []⟩ : EnCmd), shape := some h, next := 0, slot := none, rows := [], cbits := 0, stat := 0, fidx := 0, addr := 0, cb := [], peer := [], out := 0 }; dev .a id (fun x => { x with ct := [(31, ⟨2, 0, 0, 0, false⟩)] }) (fun k => { k with cpRun := [(5, r)] }))
     (match tblFind (s.core 0).cpRun 5 with
    | some r => (match r.shape with
      | some h => r.next < h.count && s.cmdAlive 0 r.cmd && !(s.core 0).engHalt && r.put.isNone && (match gather 0 5 r h (h.dstRows r.next) (h.count - r.next) ⟨s, none, r.next, [], [], 0⟩ with | .ok _ => true | _ => false)
      | none => false)
    | none => false) = true) ∧
    (let s : State := dev .a id (fun x => { x with ct := [(31, ⟨2, 0, 0, 0, false⟩)] }) (fun k => { k with spm := [(0x409, 0x10), (0x411, 0x80), (0x412, 0x28), (0x420, 16), (0x424, 1), (0x42A, 1), (0x4FE, 0x41), (0x4FF, 0xD6)], cpq := [(⟨0, .a, .cpy h0 31 1 2, 0, 0x8000000000000400, 0, 0, 0, slotTask, []⟩ : EnCmd)] })
     (s.core 0).engHalt = false ∧ (s.core 0).cpRun = [] ∧ s.cpHeld 0 = false ∧ s.cmdAlive 0 (⟨0, .a, .cpy h0 31 1 2, 0, 0x8000000000000400, 0, 0, 0, slotTask, []⟩ : EnCmd) = true ∧ (match s.localRows 0 slotTask 4 0x8000000000000400 with | .ok _ d _ => (match parseShape d false 0 with | some h => h.dspace ≠ 2 | none => false) | _ => false) = true) := by decide +kernel

/-- States and operands that meet the hypotheses of MatrixCommandsRunToTheirEnd, clause by clause. -/
theorem witness_MatrixCommandsRunToTheirEnd :
    (let s : State := dev .m id id (fun k => { k with mxq := [(⟨0, .mma h0 7 1 2 0 0 0, 0, 0x80000, 0x177, [], 0, 0, 0, 0, 3, []⟩ : MxCmd)] })
     let c := (⟨0, .mma h0 7 1 2 0 0 0, 0, 0x80000, 0x177, [], 0, 0, 0, 0, 3, []⟩ : MxCmd); (s.core 0).engHalt = false ∧ (s.core 0).mxRun = none ∧ takeFirst (s.mxAlive 0) (s.core 0).mxq = some (c, []) ∧ ((s.core 0).ctx 0).frozen = false ∧ (State.engRegions 0 (s.taskOf (c.who 0)).tag c.regions (s.modCore 0 fun k => { k with mxq := [] }) [] false).1.isSome = true) ∧
    (let s : State := dev .m id id (fun k => { k with mxRun := some ({ cmd := (⟨0, .mma h0 7 1 2 0 0 1, 0, 0x80000, 0x4A0177, [], 0, 0, 0, 0, 3, []⟩ : MxCmd), input := MxIn.none, released := false } : MxRun) })
     whenSome (s.core 0).mxRun (fun r => !r.released && r.cmd.rel) = true ∧ ((s.core 0).ctx 0).frozen = false) ∧
    (let s : State := dev .m id id (fun k => { k with mxRun := some ({ cmd := (⟨0, .mma h0 7 1 2 0 0 0, 0, 0x80000, 0x177, [], 0, 0, 0, 0, 3, []⟩ : MxCmd), input := MxIn.none, released := false } : MxRun) })
     ((s.core 0).ctx 0).frozen = false ∧ ((s.core 0).ctx 0).roomTok (sigQueues .m h0.sig) = true) ∧
    (let s : State := dev .m id id (fun k => { k with mxRun := some ({ cmd := (⟨0, .mmas h0 7 1 2 0 0, 0, 0x80000, 0x8177, [], 0, 0, 0, 0, 3, []⟩ : MxCmd), input := MxIn.none, released := false } : MxRun) })
     ((s.core 0).ctx 0).frozen = false ∧ ((s.core 0).ctx 0).roomTok (sigQueues .m h0.sig) = true) ∧
    (let s : State := dev .m id id (fun k => { k with mxRun := some ({ cmd := (⟨0, .mldacc h0 7 1 0, 0, 0x80000, 0x10C, [], 0, 0, 0, 0, 3, []⟩ : MxCmd), input := MxIn.none, released := false } : MxRun) })
     ((s.core 0).ctx 0).frozen = false ∧ ((s.core 0).ctx 0).roomTok (sigQueues .m h0.sig) = true) ∧
    (let s : State := dev .m id id (fun k => { k with mxRun := some ({ cmd := (⟨0, .mstacc h0 7 1, 0, 0x80000, 12, [], 0, 0, 0, 0, 3, []⟩ : MxCmd), input := MxIn.none, released := false } : MxRun) })
     ((s.core 0).ctx 0).frozen = false ∧ ((s.core 0).ctx 0).roomTok (sigQueues .m h0.sig) = true ∧ whenSome (s.core 0).mxRun (fun r => (s.mxStore 0 r.cmd).2) = true ∧ whenSome (s.core 0).mxRun (fun r => r.cmd.storeAddrs.all fun x => !(s.core 0).readNow x) = true) ∧
    (let s : State := dev .m id id (fun k => { k with frame := [(0x6FFF, 3), (0x7000, 4), (0x7FFF, 5), (0x8000, 6)], mxRun := some ({ cmd := (⟨0, .mzero h0 7, 0, 0x80000, 0, [], 0, 0, 0, 0, 3, []⟩ : MxCmd), input := MxIn.none, released := false } : MxRun) })
     ((s.core 0).ctx 0).frozen = false ∧ ((s.core 0).ctx 0).roomTok (sigQueues .m h0.sig) = true) := by decide +kernel

/-- States and operands that meet the hypotheses of RemoteCommandsStartAndComplete, clause by clause. -/
theorem witness_RemoteCommandsStartAndComplete :
    (let s : State := { (dev .c id id (fun k => { k with rmq := [(⟨0, .c, .ratom h0 1 0 1 2, 0, 3, 5 * 2 ^ 53, 0, 0, slotTask, []⟩ : EnCmd)] })) with fabric := true, routes := [(2, ⟨5, 9, true⟩)] }
     let s1 := s.rmSweep 0; (s1.core 0).rmq = [(⟨0, .c, .ratom h0 1 0 1 2, 0, 3, 5 * 2 ^ 53, 0, 0, slotTask, []⟩ : EnCmd)] ∧ (s1.core 0).engHalt = false ∧ s1.cmdAlive 0 (⟨0, .c, .ratom h0 1 0 1 2, 0, 3, 5 * 2 ^ 53, 0, 0, slotTask, []⟩ : EnCmd) = true ∧ s1.rmHeld 0 (⟨0, .c, .ratom h0 1 0 1 2, 0, 3, 5 * 2 ^ 53, 0, 0, slotTask, []⟩ : EnCmd) = false ∧ s1.rmFenced 0 (⟨0, .c, .ratom h0 1 0 1 2, 0, 3, 5 * 2 ^ 53, 0, 0, slotTask, []⟩ : EnCmd) = false ∧ s1.resRoom 0 (⟨0, .c, .ratom h0 1 0 1 2, 0, 3, 5 * 2 ^ 53, 0, 0, slotTask, []⟩ : EnCmd) false = true ∧ s1.cmdRoom 0 (⟨0, .c, .ratom h0 1 0 1 2, 0, 3, 5 * 2 ^ 53, 0, 0, slotTask, []⟩ : EnCmd) = true ∧ (match s1.startRm 0 (⟨0, .c, .ratom h0 1 0 1 2, 0, 3, 5 * 2 ^ 53, 0, 0, slotTask, []⟩ : EnCmd) with | .run .. => true | _ => false) = true) ∧
    (let s : State := dev .c id id (fun k => { k with rmRun := [({ cmd := (⟨0, .c, .ratom h0 1 0 1 2, 0, 3, 5 * 2 ^ 53, 0, 0, slotTask, []⟩ : EnCmd), dst := 5, cls := 1, todo := [], wait := [], got := [], val := 7, stat := 0, addr := 0, pois := false } : RmRun)] })
     (s.core 0).rmq = [] ∧ s.inCtx 0 (⟨0, .c, .ratom h0 1 0 1 2, 0, 3, 5 * 2 ^ 53, 0, 0, slotTask, []⟩ : EnCmd) = true ∧ s.cmdAlive 0 (⟨0, .c, .ratom h0 1 0 1 2, 0, 3, 5 * 2 ^ 53, 0, 0, slotTask, []⟩ : EnCmd) = true ∧ s.cmdRoom 0 (⟨0, .c, .ratom h0 1 0 1 2, 0, 3, 5 * 2 ^ 53, 0, 0, slotTask, []⟩ : EnCmd) = true ∧ s.resRoom 0 (⟨0, .c, .ratom h0 1 0 1 2, 0, 3, 5 * 2 ^ 53, 0, 0, slotTask, []⟩ : EnCmd) false = true) ∧
    (let s : State := dev .c id id (fun k => { k with rmRun := [({ cmd := (⟨0, .c, .ratom h0 1 0 1 2, 0, 3, 5 * 2 ^ 53, 0, 0, slotTask, []⟩ : EnCmd), dst := 5, cls := 1, todo := [], wait := [3], got := [(3, []), (4, [])], val := 7, stat := 0, addr := 0, pois := false } : RmRun)] })
     (s.core 0).rmq = [] ∧ (match (s.core 0).rmRun with | [r] => r.todo.isEmpty && !r.ended && s.inCtx 0 r.cmd && s.cmdAlive 0 r.cmd && s.cmdRoom 0 r.cmd && s.resRoom 0 r.cmd false | _ => false) = true) ∧
    (let s : State := dev .c id id (fun k => { k with rmRun := [({ cmd := (⟨0, .c, .rfence h0, 0, 0, 0, 0, 0, slotTask, []⟩ : EnCmd), dst := 5, cls := 1, todo := [], wait := [], got := [], val := 7, stat := 0, addr := 0, pois := false } : RmRun)] })
     (s.core 0).rmq = [] ∧ (match (s.core 0).rmRun with | [r] => r.todo.isEmpty && !r.ended && s.inCtx 0 r.cmd && s.cmdAlive 0 r.cmd && s.cmdRoom 0 r.cmd && s.resRoom 0 r.cmd false | _ => false) = true ∧ (match (s.core 0).rmRun with | [r] => r.got.isEmpty && s.cmdPerformed r.cmd | _ => false) = true) ∧
    (let s : State := dev .c id id (fun k => { k with rmRun := [({ cmd := (⟨0, .c, .rget h0 3 1 2, 64, 2 ^ 63, 5 * 2 ^ 53, 0, 0, slotTask, []⟩ : EnCmd), dst := 5, cls := 1, todo := [], wait := [], got := [(4, List.replicate 64 7)], val := 7, stat := 9, addr := 0, pois := false } : RmRun)] })
     (s.core 0).rmq = [] ∧ (match (s.core 0).rmRun with | [r] => r.todo.isEmpty && !r.ended && s.inCtx 0 r.cmd && s.cmdAlive 0 r.cmd && s.cmdRoom 0 r.cmd && s.resRoom 0 r.cmd false | _ => false) = true) ∧
    (let s : State := dev .c id id (fun k => { k with rmRun := [({ cmd := (⟨0, .c, .rget h0 3 1 2, 64, 2 ^ 63, 5 * 2 ^ 53, 0, 0, slotTask, []⟩ : EnCmd), dst := 5, cls := 1, todo := [], wait := [], got := [(4, List.replicate 64 7)], val := 7, stat := 0, addr := 0, pois := false } : RmRun)] })
     (s.core 0).rmq = [] ∧ (match (s.core 0).rmRun with | [r] => r.todo.isEmpty && !r.ended && s.inCtx 0 r.cmd && s.cmdAlive 0 r.cmd && s.cmdRoom 0 r.cmd && s.resRoom 0 r.cmd false | _ => false) = true ∧ (match (s.core 0).rmRun with | [r] => (State.putPieces 0 r.cmd.task r.pieces s).isSome && r.stat = 0 | _ => false) = true) ∧
    (let s : State := dev .c id id (fun k => { k with rmRun := [({ cmd := (⟨0, .c, .rget h0 3 1 2, 2048, 2 ^ 63, 5 * 2 ^ 53, 0, 0, slotTask, []⟩ : EnCmd), dst := 5, cls := 1, todo := [], wait := [3], got := [(3, []), (4, List.replicate 1024 7)], val := 7, stat := 0, addr := 0, pois := false } : RmRun)] })
     (s.core 0).rmq = [] ∧ (match (s.core 0).rmRun with | [r] => r.todo.isEmpty && !r.ended && s.inCtx 0 r.cmd && s.cmdAlive 0 r.cmd && s.cmdRoom 0 r.cmd && s.resRoom 0 r.cmd false | _ => false) = true ∧ (match (s.core 0).rmRun with | [r] => (State.putPieces 0 r.cmd.task r.pieces s).isSome && r.stat = 0 | _ => false) = true) := by decide +kernel

/-- States and operands that meet the hypotheses of PacketsAreSentAndPerformedOnce, clause by clause. -/
theorem witness_PacketsAreSentAndPerformedOnce :
    (let s : State := { (dev .c id id (fun k => { k with rmRun := [({ cmd := (⟨0, .c, .ratom h0 1 0 1 2, 0, 3, 5 * 2 ^ 53, 0, 0, slotTask, []⟩ : EnCmd), dst := 5, cls := 1, todo := [(.atom 0 true (5 * 2 ^ 53) 3 0)], wait := [], got := [], val := 7, stat := 0, addr := 0, pois := false } : RmRun)] })) with fabric := true, routes := [(2, ⟨5, 9, true⟩)], offered := [(0, 5, 1, (.atom 0 true (5 * 2 ^ 53) 3 0), (⟨0, .c, .ratom h0 1 0 1 2, 0, 3, 5 * 2 ^ 53, 0, 0, slotTask, []⟩ : EnCmd).task.tag)], nseq := [(5 * 4 + 1, 0xFFFFFFFF)] }
     s.fabric = true ∧ s.unsentAccs 0 = [] ∧ (s.core 0).engHalt = false ∧ s.cmdAlive 0 (⟨0, .c, .ratom h0 1 0 1 2, 0, 3, 5 * 2 ^ 53, 0, 0, slotTask, []⟩ : EnCmd) = true ∧ (match s.way 5 1 (opFlits (.atom 0 true (5 * 2 ^ 53) 3 0)) with | .go 2 9 => true | _ => false) = true ∧ 5 ≠ s.devId ∧ s.peerHeld 0 1 (.atom 0 true (5 * 2 ^ 53) 3 0) = false ∧ s.behind 0 ⟨5, 1, (.atom 0 true (5 * 2 ^ 53) 3 0), (⟨0, .c, .ratom h0 1 0 1 2, 0, 3, 5 * 2 ^ 53, 0, 0, slotTask, []⟩ : EnCmd).task.tag, .rm 0⟩ = false) ∧
    (let s : State := { ({ (plain .a) with accs := [(3, (⟨⟨0, 0, .a⟩, 0x2000, 5 * 2 ^ 53, .store 9, false, slotTask, 0, true, false, 0, none, []⟩ : Acc))] }) with fabric := true, unacked := [⟨(⟨0, 5, 1, 0xFFFFFFFF, .read 0 64, 9, true⟩ : Packet), 0, 2, some 3⟩] }
     (match tblFind s.accs 3 with | some a => (match a.kind with | .store 9 => true | _ => false) | none => false) = true) ∧
    (let s : State := { (dev .c id id (fun k => { k with rmRun := [({ cmd := (⟨0, .c, .ratom h0 1 0 1 2, 0, 3, 5 * 2 ^ 53, 0, 0, slotTask, []⟩ : EnCmd), dst := 5, cls := 1, todo := [], wait := [0xFFFFFFFF], got := [(0xFFFFFFFF, [])], val := 7, stat := 0, addr := 0, pois := false } : RmRun)] })) with unacked := [⟨(⟨0, 5, 1, 0xFFFFFFFF, .read 0 64, 9, true⟩ : Packet), 0, 2, none⟩] }
     s.unacked = [⟨(⟨0, 5, 1, 0xFFFFFFFF, .read 0 64, 9, true⟩ : Packet), 0, 2, none⟩]) ∧
    (let s : State := plain .c
     s.unacked = []) ∧
    (let s : State := { (plain .c) with fabric := true, windows := [(5 * 4 + 1, ⟨0xFFFFFFFF, [], []⟩)], mem := [(0x1000, 7)] }
     let pk := (⟨5, 0, 1, 0xFFFFFFFF, .atom 0 true 0x1000 3 0, 9, true⟩ : Packet); let w := tblGet Window.reset s.windows 21; s.fabric = true ∧ pk.dst = s.devId ∧ pk.src ≠ s.devId ∧ packetFits pk = true ∧ pk.seq = w.b ∧ w.held = []) ∧
    (let s : State := { (plain .c) with fabric := true, windows := [(5 * 4 + 1, ⟨0, [], [(0xFFFFF000, (6, 0))]⟩)] }
     let pk := (⟨5, 0, 1, 0xFFFFF000, .atom 0 true 0x1000 3 0, 9, true⟩ : Packet); let w := tblGet Window.reset s.windows 21; s.fabric = true ∧ pk.dst = s.devId ∧ pk.src ≠ s.devId ∧ packetFits pk = true ∧ 2 ^ 32 - 4096 ≤ (pk.seq + 2 ^ 32 - w.b) % 2 ^ 32) ∧
    (let s : State := { (plain .c) with fabric := true, windows := [(5 * 4, ⟨3, [], []⟩)], mem := [(0x1000, 7)] }
     let pk := (⟨5, 0, 0, 2, .read 0x1000 64, 9, true⟩ : Packet); let w := tblGet Window.reset s.windows 20; s.fabric = true ∧ pk.dst = s.devId ∧ pk.src ≠ s.devId ∧ packetFits pk = true ∧ 2 ^ 32 - 4096 ≤ (pk.seq + 2 ^ 32 - w.b) % 2 ^ 32) := by decide +kernel

/-- States and operands that meet the hypotheses of RoutesAndLanesFail, clause by clause. -/
theorem witness_RoutesAndLanesFail :
    (let s : State := { (plain .c) with fabric := true, routes := [(2, ⟨5, 9, true⟩), (3, ⟨5, 8, true⟩)], unacked := [⟨(⟨0, 5, 1, 0xFFFFFFFF, .read 0 64, 9, true⟩ : Packet), 0, 2, none⟩] }
     (s.unacked.any fun x => x.route = 2 && x.pk.dst ≠ s.devId) = true ∧ tblFind s.routes 2 = some ⟨5, 9, true⟩) ∧
    (let s : State := { (plain .c) with routes := [(3, ⟨5, 8, true⟩)], unacked := [⟨(⟨0, 5, 1, 0xFFFFFFFF, .read 0 64, 9, true⟩ : Packet), 0, 2, none⟩] }
     s.routeTo 5 = some (3, ⟨5, 8, true⟩) ∧ (⟨(⟨0, 5, 1, 0xFFFFFFFF, .read 0 64, 9, true⟩ : Packet), 0, 2, none⟩ : Sent) ∈ s.unacked) ∧
    (let s : State := plain .c
     (s.port 17).spareUsed = false) ∧
    (let s : State := { (plain .c) with ports := [(9, ⟨true, 0⟩)], routes := [(2, ⟨5, 9, true⟩)] }
     (s.port 9).spareUsed = true ∧ s.unacked = []) := by decide +kernel

/-- States and operands that meet the hypotheses of CollectivesComplete, clause by clause. -/
theorem witness_CollectivesComplete :
    (let s : State := { (plain .c) with fabric := true, colls := [⟨4, 5, 9, [(⟨3, 5, 9, (5 + 2 ^ 24), false, 1, [0, 0, 128, 63], true⟩ : Contribution)], [], false⟩], windows := [(2 * 4 + 2, ⟨0xFFFFFFFF, [], []⟩)] }
     let pk := (⟨2, 0, 2, 0xFFFFFFFF, .coll (⟨2, 5, 9, (5 + 2 ^ 24), false, 1, [0, 0, 128, 63], true⟩ : Contribution), 9, true⟩ : Packet); s.fabric = true ∧ pk.dst = s.devId ∧ pk.src ≠ s.devId ∧ (tblGet Window.reset s.windows 10) = ⟨0xFFFFFFFF, [], []⟩ ∧ pk.seq = 0xFFFFFFFF) ∧
    (let s : State := { (dev .c id id (fun k => { k with spm := (Mem.writeN [] 0 64 (5 + 3 * 2 ^ 24 + 9 * 2 ^ 64 + (2 ^ 63 + 0x400) * 2 ^ 128 + (2 ^ 63 + 0x800) * 2 ^ 192)).writeN 0x400 4 0x3F800000, coq := [(⟨0, .c, .cred h0 1 1, 0, 2 ^ 63, 0, 0, 0, slotTask, []⟩ : EnCmd)] })) with groups := [(5, [0, 2])] }
     (s.core 0).coq = [(⟨0, .c, .cred h0 1 1, 0, 2 ^ 63, 0, 0, 0, slotTask, []⟩ : EnCmd)] ∧ (s.core 0).engHalt = false ∧ s.cmdAlive 0 (⟨0, .c, .cred h0 1 1, 0, 2 ^ 63, 0, 0, 0, slotTask, []⟩ : EnCmd) = true ∧ s.colHeld 0 (⟨0, .c, .cred h0 1 1, 0, 2 ^ 63, 0, 0, 0, slotTask, []⟩ : EnCmd) = false ∧ (match s.contribute 0 (⟨0, .c, .cred h0 1 1, 0, 2 ^ 63, 0, 0, 0, slotTask, []⟩ : EnCmd) with | .ok .. => true | _ => false) = true) ∧
    (let s : State := { (dev .c id id (fun k => { k with coq := [(⟨0, .c, .cred h0 1 1, 0, 2 ^ 63, 0, 0, 0, slotTask, []⟩ : EnCmd)] })) with groups := [(5, [0, 2])] }
     (s.core 0).coq = [(⟨0, .c, .cred h0 1 1, 0, 2 ^ 63, 0, 0, 0, slotTask, []⟩ : EnCmd)] ∧ (s.core 0).engHalt = false ∧ s.cmdAlive 0 (⟨0, .c, .cred h0 1 1, 0, 2 ^ 63, 0, 0, 0, slotTask, []⟩ : EnCmd) = true ∧ s.colHeld 0 (⟨0, .c, .cred h0 1 1, 0, 2 ^ 63, 0, 0, 0, slotTask, []⟩ : EnCmd) = false ∧ (match s.contribute 0 (⟨0, .c, .cred h0 1 1, 0, 2 ^ 63, 0, 0, 0, slotTask, []⟩ : EnCmd) with | .fail .. => true | _ => false) = true) ∧
    (let s : State := { (dev .c id id (fun k => { k with coRun := [(⟨(⟨0, .c, .cred h0 1 1, (5 + 2 ^ 6 + 3 * 2 ^ 24 + 7 * 2 ^ 8), 2 ^ 63, 2 ^ 63 + 0x400, 9, 0, slotTask, []⟩ : EnCmd), 4, [], some (0, 14, 5)⟩ : CoRun)] })) with groups := [(5, [0])] }
     (s.core 0).coq = [] ∧ (s.core 0).coRun = [(⟨(⟨0, .c, .cred h0 1 1, (5 + 2 ^ 6 + 3 * 2 ^ 24 + 7 * 2 ^ 8), 2 ^ 63, 2 ^ 63 + 0x400, 9, 0, slotTask, []⟩ : EnCmd), 4, [], some (0, 14, 5)⟩ : CoRun)] ∧ s.inCtx 0 (⟨0, .c, .cred h0 1 1, (5 + 2 ^ 6 + 3 * 2 ^ 24 + 7 * 2 ^ 8), 2 ^ 63, 2 ^ 63 + 0x400, 9, 0, slotTask, []⟩ : EnCmd) = true ∧ s.cmdAlive 0 (⟨0, .c, .cred h0 1 1, (5 + 2 ^ 6 + 3 * 2 ^ 24 + 7 * 2 ^ 8), 2 ^ 63, 2 ^ 63 + 0x400, 9, 0, slotTask, []⟩ : EnCmd) = true ∧ s.resRoom 0 (⟨0, .c, .cred h0 1 1, (5 + 2 ^ 6 + 3 * 2 ^ 24 + 7 * 2 ^ 8), 2 ^ 63, 2 ^ 63 + 0x400, 9, 0, slotTask, []⟩ : EnCmd) true = true ∧ s.cmdRoom 0 (⟨0, .c, .cred h0 1 1, (5 + 2 ^ 6 + 3 * 2 ^ 24 + 7 * 2 ^ 8), 2 ^ 63, 2 ^ 63 + 0x400, 9, 0, slotTask, []⟩ : EnCmd) = true) ∧
    (let s : State := { (dev .c id id (fun k => { k with coRun := [(⟨(⟨0, .c, .cred h0 1 1, (5 + 2 ^ 6 + 3 * 2 ^ 24 + 7 * 2 ^ 8), 2 ^ 63, 2 ^ 63 + 0x400, 9, 0, slotTask, []⟩ : EnCmd), 4, [], none⟩ : CoRun)] })) with groups := [(5, [0])], colls := [⟨4, 5, 9, [(⟨0, 5, 9, (5 + 2 ^ 6 + 3 * 2 ^ 24 + 7 * 2 ^ 8), false, 1, [0, 0, 128, 63], true⟩ : Contribution)], [], false⟩] }
     (s.core 0).coq = [] ∧ (s.core 0).coRun = [(⟨(⟨0, .c, .cred h0 1 1, (5 + 2 ^ 6 + 3 * 2 ^ 24 + 7 * 2 ^ 8), 2 ^ 63, 2 ^ 63 + 0x400, 9, 0, slotTask, []⟩ : EnCmd), 4, [], none⟩ : CoRun)] ∧ s.inCtx 0 (⟨0, .c, .cred h0 1 1, (5 + 2 ^ 6 + 3 * 2 ^ 24 + 7 * 2 ^ 8), 2 ^ 63, 2 ^ 63 + 0x400, 9, 0, slotTask, []⟩ : EnCmd) = true ∧ s.cmdAlive 0 (⟨0, .c, .cred h0 1 1, (5 + 2 ^ 6 + 3 * 2 ^ 24 + 7 * 2 ^ 8), 2 ^ 63, 2 ^ 63 + 0x400, 9, 0, slotTask, []⟩ : EnCmd) = true ∧ s.resRoom 0 (⟨0, .c, .cred h0 1 1, (5 + 2 ^ 6 + 3 * 2 ^ 24 + 7 * 2 ^ 8), 2 ^ 63, 2 ^ 63 + 0x400, 9, 0, slotTask, []⟩ : EnCmd) true = true ∧ s.cmdRoom 0 (⟨0, .c, .cred h0 1 1, (5 + 2 ^ 6 + 3 * 2 ^ 24 + 7 * 2 ^ 8), 2 ^ 63, 2 ^ 63 + 0x400, 9, 0, slotTask, []⟩ : EnCmd) = true ∧ (match s.colOutcome (⟨0, .c, .cred h0 1 1, (5 + 2 ^ 6 + 3 * 2 ^ 24 + 7 * 2 ^ 8), 2 ^ 63, 2 ^ 63 + 0x400, 9, 0, slotTask, []⟩ : EnCmd) 4 with | .result _ _ => true | _ => false) = true ∧ s.receives (⟨0, .c, .cred h0 1 1, (5 + 2 ^ 6 + 3 * 2 ^ 24 + 7 * 2 ^ 8), 2 ^ 63, 2 ^ 63 + 0x400, 9, 0, slotTask, []⟩ : EnCmd) = false) ∧
    (let s : State := { (dev .c id id (fun k => { k with coRun := [(⟨(⟨0, .c, .cred h0 1 1, (5 + 2 ^ 6 + 3 * 2 ^ 24 + 7 * 2 ^ 8), 2 ^ 63, 2 ^ 63 + 0x400, 9, 0, slotTask, []⟩ : EnCmd), 4, [], none⟩ : CoRun)] })) with groups := [(5, [0])], colls := [⟨4, 5, 9, [(⟨0, 5, 9, (5 + 3 * 2 ^ 24), false, 1, [0, 0, 128, 63], true⟩ : Contribution)], [], false⟩] }
     (s.core 0).coq = [] ∧ (s.core 0).coRun = [(⟨(⟨0, .c, .cred h0 1 1, (5 + 2 ^ 6 + 3 * 2 ^ 24 + 7 * 2 ^ 8), 2 ^ 63, 2 ^ 63 + 0x400, 9, 0, slotTask, []⟩ : EnCmd), 4, [], none⟩ : CoRun)] ∧ s.inCtx 0 (⟨0, .c, .cred h0 1 1, (5 + 2 ^ 6 + 3 * 2 ^ 24 + 7 * 2 ^ 8), 2 ^ 63, 2 ^ 63 + 0x400, 9, 0, slotTask, []⟩ : EnCmd) = true ∧ s.cmdAlive 0 (⟨0, .c, .cred h0 1 1, (5 + 2 ^ 6 + 3 * 2 ^ 24 + 7 * 2 ^ 8), 2 ^ 63, 2 ^ 63 + 0x400, 9, 0, slotTask, []⟩ : EnCmd) = true ∧ s.resRoom 0 (⟨0, .c, .cred h0 1 1, (5 + 2 ^ 6 + 3 * 2 ^ 24 + 7 * 2 ^ 8), 2 ^ 63, 2 ^ 63 + 0x400, 9, 0, slotTask, []⟩ : EnCmd) true = true ∧ s.cmdRoom 0 (⟨0, .c, .cred h0 1 1, (5 + 2 ^ 6 + 3 * 2 ^ 24 + 7 * 2 ^ 8), 2 ^ 63, 2 ^ 63 + 0x400, 9, 0, slotTask, []⟩ : EnCmd) = true ∧ s.colOutcome (⟨0, .c, .cred h0 1 1, (5 + 2 ^ 6 + 3 * 2 ^ 24 + 7 * 2 ^ 8), 2 ^ 63, 2 ^ 63 + 0x400, 9, 0, slotTask, []⟩ : EnCmd) 4 = .status 14) := by decide +kernel

/-- States and operands that meet the hypotheses of TasksAreCreatedAndEnterTheTable, clause by clause. -/
theorem witness_TasksAreCreatedAndEnterTheTable :
    (let s : State := { (plain .c) with launches := [(7, ({ part := 0, lq := none, words := [BitVec.ofNat 64 (3 + 2 ^ 20 + 2 * 2 ^ 14), 0, 0, BitVec.ofNat 64 (3 + 2 ^ 32 + 4 * 2 ^ 37)], snap := { Snap.none with img := 0x100000, size := 65536, frame := 16384, codeOff := 256, codeSize := 64, entry := [256, 260, 264, 268] }, total := 3, seq := 2, tqCount := 0, alive := 0, alm := [], arr := [], fireNo := 1, hasAlm := false, released := false, unresolved := false } : Launch))] }
     let l := ({ part := 0, lq := none, words := [BitVec.ofNat 64 (3 + 2 ^ 20 + 2 * 2 ^ 14), 0, 0, BitVec.ofNat 64 (3 + 2 ^ 32 + 4 * 2 ^ 37)], snap := { Snap.none with img := 0x100000, size := 65536, frame := 16384, codeOff := 256, codeSize := 64, entry := [256, 260, 264, 268] }, total := 3, seq := 2, tqCount := 0, alive := 0, alm := [], arr := [], fireNo := 1, hasAlm := false, released := false, unresolved := false } : Launch); s.launch? 7 = some l ∧ l.seq < l.total ∧ (s.part l.part).hubSaw = false ∧ (s.tq (recTq l.record)).fifo.length < 32 ∧ (s.tq (recTq l.record)).ring = [] ∧ 7 ∉ s.walked) ∧
    (let s : State := { (plain .c) with tqs := [(2, { TaskQ.reset with part := some 0, fifo := [({ words := [BitVec.ofNat 64 (2 ^ 16 + 0 * 2 ^ 12 + 0 * 2 ^ 14)] ++ [5], tid := 9, launch := 7, snap := { Snap.none with img := 0x100000, size := 65536, frame := 16384, codeOff := 256, codeSize := 64, entry := [256, 260, 264, 268] }, pin := none } : TRec)] })], deps := [({ rcd := ({ words := [BitVec.ofNat 64 (2 ^ 18 + 0 * 2 ^ 12 + 0 * 2 ^ 14)] ++ [0, 0, 0, 5], tid := 8, launch := 7, snap := { Snap.none with img := 0x100000, size := 65536, frame := 16384, codeOff := 256, codeSize := 64, entry := [256, 260, 264, 268] }, pin := none } : TRec), part := 0, tq := 2, order := 3, st := .ready, conf := [], ren := [], insts := [], marks := [], nextInst := 0 } : Dep)], depNext := 4 }
     s.choose 16 (s.entryCands 0) = some (0, 2) ∧ (s.tq 2).fifo = [({ words := [BitVec.ofNat 64 (2 ^ 16 + 0 * 2 ^ 12 + 0 * 2 ^ 14)] ++ [5], tid := 9, launch := 7, snap := { Snap.none with img := 0x100000, size := 65536, frame := 16384, codeOff := 256, codeSize := 64, entry := [256, 260, 264, 268] }, pin := none } : TRec)] ∧ s.deps.length < 2048 ∧ (s.part 0).run = .running ∧ (0 : Nat) ∉ s.entered ∧ (s.tq 2).fed = false ∧ (s.part 0).run ≠ .halted ∧ (s.part 0).run ≠ .resetting ∧ s.deps.length < 2048) ∧
    (let s : State := { (plain .c) with tqs := [(2, { TaskQ.reset with part := some 0, fifo := [({ words := [BitVec.ofNat 64 (2 ^ 18 + 0 * 2 ^ 12 + 0 * 2 ^ 14)] ++ [0, 0, 0, 5], tid := 8, launch := 7, snap := { Snap.none with img := 0x100000, size := 65536, frame := 16384, codeOff := 256, codeSize := 64, entry := [256, 260, 264, 268] }, pin := none } : TRec)] })], depNext := 4 }
     s.choose 16 (s.entryCands 0) = some (0, 2) ∧ (s.tq 2).fifo = [({ words := [BitVec.ofNat 64 (2 ^ 18 + 0 * 2 ^ 12 + 0 * 2 ^ 14)] ++ [0, 0, 0, 5], tid := 8, launch := 7, snap := { Snap.none with img := 0x100000, size := 65536, frame := 16384, codeOff := 256, codeSize := 64, entry := [256, 260, 264, 268] }, pin := none } : TRec)] ∧ (s.part 0).run = .running ∧ (0 : Nat) ∉ s.entered ∧ (s.tq 2).fed = false ∧ (s.part 0).run ≠ .halted ∧ (s.part 0).run ≠ .resetting ∧ s.deps.length < 2048) := by decide +kernel

/-- States and operands that meet the hypotheses of DispatchPlacesAReadyTask, clause by clause. -/
theorem witness_DispatchPlacesAReadyTask :
    (let s : State := { (dev .c id (fun x => { x with task := some { slotTask with snap := { slotTask.snap with frame := 16384 } } }) (fun k => { k with power := .off, frame := [(16383, 1), (16384, 2), (32767, 3), (32768, 4)] })) with deps := [({ rcd := ({ words := [BitVec.ofNat 64 (2 ^ 16 + 0 * 2 ^ 12 + 0 * 2 ^ 14)] ++ [5], tid := 9, launch := 7, snap := { Snap.none with img := 0x100000, size := 65536, frame := 16384, codeOff := 256, codeSize := 64, entry := [256, 260, 264, 268] }, pin := none } : TRec), part := 0, tq := 2, order := 3, st := .ready, conf := [], ren := [], insts := [], marks := [], nextInst := 0 } : Dep)] }
     s.choose 0 (s.dispatchCands.map fun e => (e.rcd.pri, e.tq)) = some (0, 2) ∧ (s.dispatchCands.find? fun e => e.rcd.pri = 0 && e.tq = 2) = some ({ rcd := ({ words := [BitVec.ofNat 64 (2 ^ 16 + 0 * 2 ^ 12 + 0 * 2 ^ 14)] ++ [5], tid := 9, launch := 7, snap := { Snap.none with img := 0x100000, size := 65536, frame := 16384, codeOff := 256, codeSize := 64, entry := [256, 260, 264, 268] }, pin := none } : TRec), part := 0, tq := 2, order := 3, st := .ready, conf := [], ren := [], insts := [], marks := [], nextInst := 0 } : Dep) ∧ s.goodPlaces ({ rcd := ({ words := [BitVec.ofNat 64 (2 ^ 16 + 0 * 2 ^ 12 + 0 * 2 ^ 14)] ++ [5], tid := 9, launch := 7, snap := { Snap.none with img := 0x100000, size := 65536, frame := 16384, codeOff := 256, codeSize := 64, entry := [256, 260, 264, 268] }, pin := none } : TRec), part := 0, tq := 2, order := 3, st := .ready, conf := [], ren := [], insts := [], marks := [], nextInst := 0 } : Dep) [⟨0, 1, 16384⟩] = true ∧ (s.core 0).power = .off) ∧
    (let s : State := { (dev .c id (fun x => { x with task := some { slotTask with snap := { slotTask.snap with frame := 16384 } } }) (fun k => { k with frame := [(16383, 1), (16384, 2), (32767, 3), (32768, 4)] })) with deps := [({ rcd := ({ words := [BitVec.ofNat 64 (2 ^ 16 + 0 * 2 ^ 12 + 0 * 2 ^ 14)] ++ [5], tid := 9, launch := 7, snap := { Snap.none with img := 0x100000, size := 65536, frame := 16384, codeOff := 256, codeSize := 64, entry := [256, 260, 264, 268] }, pin := none } : TRec), part := 0, tq := 2, order := 3, st := .ready, conf := [], ren := [], insts := [], marks := [], nextInst := 0 } : Dep)] }
     s.choose 0 (s.dispatchCands.map fun e => (e.rcd.pri, e.tq)) = some (0, 2) ∧ (s.dispatchCands.find? fun e => e.rcd.pri = 0 && e.tq = 2) = some ({ rcd := ({ words := [BitVec.ofNat 64 (2 ^ 16 + 0 * 2 ^ 12 + 0 * 2 ^ 14)] ++ [5], tid := 9, launch := 7, snap := { Snap.none with img := 0x100000, size := 65536, frame := 16384, codeOff := 256, codeSize := 64, entry := [256, 260, 264, 268] }, pin := none } : TRec), part := 0, tq := 2, order := 3, st := .ready, conf := [], ren := [], insts := [], marks := [], nextInst := 0 } : Dep) ∧ s.goodPlaces ({ rcd := ({ words := [BitVec.ofNat 64 (2 ^ 16 + 0 * 2 ^ 12 + 0 * 2 ^ 14)] ++ [5], tid := 9, launch := 7, snap := { Snap.none with img := 0x100000, size := 65536, frame := 16384, codeOff := 256, codeSize := 64, entry := [256, 260, 264, 268] }, pin := none } : TRec), part := 0, tq := 2, order := 3, st := .ready, conf := [], ren := [], insts := [], marks := [], nextInst := 0 } : Dep) [⟨0, 1, 16384⟩] = true ∧ (s.core 0).power = .on ∧ s.dep? 0 9 = some ({ rcd := ({ words := [BitVec.ofNat 64 (2 ^ 16 + 0 * 2 ^ 12 + 0 * 2 ^ 14)] ++ [5], tid := 9, launch := 7, snap := { Snap.none with img := 0x100000, size := 65536, frame := 16384, codeOff := 256, codeSize := 64, entry := [256, 260, 264, 268] }, pin := none } : TRec), part := 0, tq := 2, order := 3, st := .ready, conf := [], ren := [], insts := [], marks := [], nextInst := 0 } : Dep)) := by decide +kernel

/-- States and operands that meet the hypotheses of ContextsAreFreedAndTasksRetire, clause by clause. -/
theorem witness_ContextsAreFreedAndTasksRetire :
    (let s : State := (let c (r : Run) : Cluster := { Cluster.start with run := r }; dev .c id (fun x => { (id) x with clus := [(0, c .tailed), (1, c .ended), (2, c .ended), (3, c .ended)] }) (id))
     (s.ctxOf ⟨0, 0, .c⟩).task = some slotTask ∧ (s.ctxOf ⟨0, 0, .c⟩).mxBad = false ∧ (s.ctxOf ⟨0, 0, .c⟩).frozen = false ∧ (∀ u ∈ [Clu.c, .a, .v, .m], (((s.ctxOf ⟨0, 0, .c⟩).clu u).run = .ended ∨ ((s.ctxOf ⟨0, 0, .c⟩).clu u).run = .tailed) ∧ ((s.ctxOf ⟨0, 0, .c⟩).clu u).dl = []) ∧ ((s.ctxOf ⟨0, 0, .c⟩).clu .c).run = .tailed ∧ s.mxOf ⟨0, 0, .c⟩ = false ∧ s.accs = [] ∧ (s.core 0).tracker.length < 8) ∧
    (let s : State := (let c (r : Run) : Cluster := { Cluster.start with run := r }; dev .c id (fun x => { ((fun x => { x with cir := 1 })) x with clus := [(0, c .ended), (1, c .ended), (2, c .ended), (3, c .ended)] }) (id))
     (s.ctxOf ⟨0, 0, .c⟩).task = some slotTask ∧ (s.ctxOf ⟨0, 0, .c⟩).mxBad = false ∧ (s.ctxOf ⟨0, 0, .c⟩).frozen = false ∧ (∀ u ∈ [Clu.c, .a, .v, .m], ((s.ctxOf ⟨0, 0, .c⟩).clu u).run = .ended) ∧ (s.die 0).halt = [] ∧ s.drained ⟨0, 0, .c⟩ = true ∧ ((s.landAll ⟨0, 0, .c⟩).ctxOf ⟨0, 0, .c⟩).endFault = some { code := 0x0D } ∧ slotTask.part ∉ s.entered ∧ s.pastDone ⟨0, 0, .c⟩ = true) ∧
    (let s : State := { (let c (r : Run) : Cluster := { Cluster.start with run := r }; dev .c id (fun x => { (id) x with clus := [(0, c .ended), (1, c .ended), (2, c .ended), (3, c .ended)] }) (id)) with deps := [({ rcd := ({ words := [BitVec.ofNat 64 (0 + 0 * 2 ^ 12 + 0 * 2 ^ 14)] ++ [], tid := 1, launch := 7, snap := { Snap.none with img := 0x100000, size := 65536, frame := 16384, codeOff := 256, codeSize := 64, entry := [256, 260, 264, 268] }, pin := none } : TRec), part := 0, tq := 2, order := 3, st := .ready, conf := [], ren := [], insts := [⟨0, 0, 0, .running, 0, [], 0, 0, []⟩], marks := [], nextInst := 0 } : Dep)] }
     (s.ctxOf ⟨0, 0, .c⟩).task = some slotTask ∧ (s.ctxOf ⟨0, 0, .c⟩).mxBad = false ∧ (s.ctxOf ⟨0, 0, .c⟩).frozen = false ∧ (∀ u ∈ [Clu.c, .a, .v, .m], ((s.ctxOf ⟨0, 0, .c⟩).clu u).run = .ended) ∧ (s.die 0).halt = [] ∧ s.drained ⟨0, 0, .c⟩ = true ∧ ((s.landAll ⟨0, 0, .c⟩).ctxOf ⟨0, 0, .c⟩).endFault = none ∧ slotTask.cls = 0 ∧ slotTask.part ∉ s.entered ∧ s.pastDone ⟨0, 0, .c⟩ = true) := by decide +kernel

/-- States and operands that meet the hypotheses of VigilDecidesAndOverlaysFold, clause by clause. -/
theorem witness_VigilDecidesAndOverlaysFold_a :
    (let e := ({ rcd := ({ words := [BitVec.ofNat 64 (0 + 1 * 2 ^ 12 + 0 * 2 ^ 14)] ++ [], tid := 9, launch := 7, snap := { Snap.none with img := 0x100000, size := 65536, frame := 16384, codeOff := 256, codeSize := 64, entry := [256, 260, 264, 268] }, pin := none } : TRec), part := 0, tq := 2, order := 3, st := .deciding, conf := [], ren := [], insts := [(⟨0, 0, 0, .retired, 0, [], 0, 5, []⟩ : Inst)], marks := [], nextInst := 1 } : Dep); e.rcd.cls = 1 ∧ e.insts = [(⟨0, 0, 0, .retired, 0, [], 0, 5, []⟩ : Inst)]) ∧
    (let e := ({ rcd := ({ words := [BitVec.ofNat 64 (0 + 1 * 2 ^ 12 + 0 * 2 ^ 14)] ++ [], tid := 9, launch := 7, snap := { Snap.none with img := 0x100000, size := 65536, frame := 16384, codeOff := 256, codeSize := 64, entry := [256, 260, 264, 268] }, pin := none } : TRec), part := 0, tq := 2, order := 3, st := .deciding, conf := [], ren := [], insts := [(⟨0, 0, 0, .failed, 0, [], 0, 5, []⟩ : Inst)], marks := [], nextInst := 1 } : Dep); e.rcd.cls = 1 ∧ e.nextInst = 1) ∧
    (let e := ({ rcd := ({ words := [BitVec.ofNat 64 (0 + 2 * 2 ^ 12 + 0 * 2 ^ 14)] ++ [], tid := 9, launch := 7, snap := { Snap.none with img := 0x100000, size := 65536, frame := 16384, codeOff := 256, codeSize := 64, entry := [256, 260, 264, 268] }, pin := none } : TRec), part := 0, tq := 2, order := 3, st := .deciding, conf := [], ren := [], insts := [(⟨0, 0, 0, .retired, 0, [], 0, 5, []⟩ : Inst), (⟨1, 0, 0, .retired, 0, [], 0, 5, []⟩ : Inst)], marks := [], nextInst := 2 } : Dep); e.rcd.cls = 2 ∧ e.nextInst = 2) ∧
    (let e := ({ rcd := ({ words := [BitVec.ofNat 64 (0 + 2 * 2 ^ 12 + 0 * 2 ^ 14)] ++ [], tid := 9, launch := 7, snap := { Snap.none with img := 0x100000, size := 65536, frame := 16384, codeOff := 256, codeSize := 64, entry := [256, 260, 264, 268] }, pin := none } : TRec), part := 0, tq := 2, order := 3, st := .deciding, conf := [], ren := [], insts := [(⟨0, 0, 0, .retired, 0, [], 0, 5, []⟩ : Inst), (⟨1, 0, 0, .retired, 0, [], 0, 6, []⟩ : Inst)], marks := [], nextInst := 2 } : Dep); e.rcd.cls = 2 ∧ e.nextInst = 2) ∧
    (let e := ({ rcd := ({ words := [BitVec.ofNat 64 (0 + 2 * 2 ^ 12 + 0 * 2 ^ 14)] ++ [], tid := 9, launch := 7, snap := { Snap.none with img := 0x100000, size := 65536, frame := 16384, codeOff := 256, codeSize := 64, entry := [256, 260, 264, 268] }, pin := none } : TRec), part := 0, tq := 2, order := 3, st := .deciding, conf := [], ren := [], insts := [(⟨0, 0, 0, .retired, 0, [], 0, 5, []⟩ : Inst), (⟨1, 0, 0, .retired, 0, [], 0, 6, []⟩ : Inst), (⟨2, 0, 0, .retired, 0, [], 0, 5, []⟩ : Inst)], marks := [], nextInst := 3 } : Dep); e.rcd.cls = 2 ∧ e.nextInst = 3) ∧
    (let e := ({ rcd := ({ words := [BitVec.ofNat 64 (0 + 2 * 2 ^ 12 + 0 * 2 ^ 14)] ++ [], tid := 9, launch := 7, snap := { Snap.none with img := 0x100000, size := 65536, frame := 16384, codeOff := 256, codeSize := 64, entry := [256, 260, 264, 268] }, pin := none } : TRec), part := 0, tq := 2, order := 3, st := .deciding, conf := [], ren := [], insts := [(⟨0, 0, 0, .retired, 0, [], 0, 5, []⟩ : Inst), (⟨1, 0, 0, .retired, 0, [], 0, 6, []⟩ : Inst), (⟨2, 0, 0, .retired, 0, [], 0, 6, []⟩ : Inst)], marks := [], nextInst := 3 } : Dep); e.rcd.cls = 2 ∧ e.nextInst = 3) ∧
    (let e := ({ rcd := ({ words := [BitVec.ofNat 64 (0 + 2 * 2 ^ 12 + 0 * 2 ^ 14)] ++ [], tid := 9, launch := 7, snap := { Snap.none with img := 0x100000, size := 65536, frame := 16384, codeOff := 256, codeSize := 64, entry := [256, 260, 264, 268] }, pin := none } : TRec), part := 0, tq := 2, order := 3, st := .deciding, conf := [], ren := [], insts := [(⟨0, 0, 0, .retired, 0, [], 0, 5, []⟩ : Inst), (⟨1, 0, 0, .retired, 0, [], 0, 6, []⟩ : Inst), (⟨2, 0, 0, .retired, 0, [], 0, 7, []⟩ : Inst)], marks := [], nextInst := 3 } : Dep); e.rcd.cls = 2 ∧ e.nextInst = 3) ∧
    (let s : State := { (plain .c) with deps := [({ rcd := ({ words := [BitVec.ofNat 64 (0 + 2 * 2 ^ 12 + 0 * 2 ^ 14)] ++ [], tid := 9, launch := 7, snap := { Snap.none with img := 0x100000, size := 65536, frame := 16384, codeOff := 256, codeSize := 64, entry := [256, 260, 264, 268] }, pin := none } : TRec), part := 0, tq := 2, order := 3, st := .deciding, conf := [], ren := [], insts := [(⟨0, 0, 0, .retired, 0, [], 0, 5, []⟩ : Inst), (⟨1, 0, 0, .retired, 0, [], 0, 6, []⟩ : Inst), (⟨2, 0, 0, .retired, 0, [], 0, 5, []⟩ : Inst)], marks := [], nextInst := 3 } : Dep)] }
     let e := ({ rcd := ({ words := [BitVec.ofNat 64 (0 + 2 * 2 ^ 12 + 0 * 2 ^ 14)] ++ [], tid := 9, launch := 7, snap := { Snap.none with img := 0x100000, size := 65536, frame := 16384, codeOff := 256, codeSize := 64, entry := [256, 260, 264, 268] }, pin := none } : TRec), part := 0, tq := 2, order := 3, st := .deciding, conf := [], ren := [], insts := [(⟨0, 0, 0, .retired, 0, [], 0, 5, []⟩ : Inst), (⟨1, 0, 0, .retired, 0, [], 0, 6, []⟩ : Inst), (⟨2, 0, 0, .retired, 0, [], 0, 5, []⟩ : Inst)], marks := [], nextInst := 3 } : Dep); (s.deps.find? fun x => x.rcd.tid = 9 && s.decides none x) = some e ∧ e.decision = .release (⟨0, 0, 0, .retired, 0, [], 0, 5, []⟩ : Inst) [(⟨1, 0, 0, .retired, 0, [], 0, 6, []⟩ : Inst)] 8 ∧ e.part ∉ s.entered) := by decide +kernel

/-- States and operands that meet the hypotheses of VigilDecidesAndOverlaysFold, clause by clause. -/
theorem witness_VigilDecidesAndOverlaysFold_b :
    (let s : State := { (plain .c) with deps := [({ rcd := ({ words := [BitVec.ofNat 64 (0 + 2 * 2 ^ 12 + 0 * 2 ^ 14)] ++ [], tid := 9, launch := 7, snap := { Snap.none with img := 0x100000, size := 65536, frame := 16384, codeOff := 256, codeSize := 64, entry := [256, 260, 264, 268] }, pin := none } : TRec), part := 0, tq := 2, order := 3, st := .deciding, conf := [], ren := [], insts := [(⟨0, 0, 0, .retired, 0, [], 0, 5, []⟩ : Inst), (⟨1, 0, 0, .retired, 0, [], 0, 6, []⟩ : Inst), (⟨2, 0, 0, .retired, 0, [], 0, 7, []⟩ : Inst)], marks := [], nextInst := 3 } : Dep)] }
     let e := ({ rcd := ({ words := [BitVec.ofNat 64 (0 + 2 * 2 ^ 12 + 0 * 2 ^ 14)] ++ [], tid := 9, launch := 7, snap := { Snap.none with img := 0x100000, size := 65536, frame := 16384, codeOff := 256, codeSize := 64, entry := [256, 260, 264, 268] }, pin := none } : TRec), part := 0, tq := 2, order := 3, st := .deciding, conf := [], ren := [], insts := [(⟨0, 0, 0, .retired, 0, [], 0, 5, []⟩ : Inst), (⟨1, 0, 0, .retired, 0, [], 0, 6, []⟩ : Inst), (⟨2, 0, 0, .retired, 0, [], 0, 7, []⟩ : Inst)], marks := [], nextInst := 3 } : Dep); (s.deps.find? fun x => x.rcd.tid = 9 && s.decides none x) = some e ∧ e.decision = .unresolved ∧ e.part ∉ s.entered) ∧
    (let s : State := { plain .c with parts := [(0, { Part.reset with dies := [0], root := 0x10000, rootn := 1, overlays := [(⟨0x10000, 65536, none, 3, 2, true⟩ : Overlay)] })], mem := ((Mem.writeN [] 0x10000 8 (0x10101 - 0x100 + 0)).writeN 0x10100 8 1) }
     (s.part 0).overlays[0]? = some (⟨0x10000, 65536, none, 3, 2, true⟩ : Overlay) ∧ s.foldable 0 (⟨0x10000, 65536, none, 3, 2, true⟩ : Overlay) = true) ∧
    (let s : State := { plain .c with parts := [(0, { Part.reset with dies := [0], root := 0x10000, rootn := 1, overlays := [(⟨0x10000, 65536, (some 0x50000), 3, 2, true⟩ : Overlay)] })], mem := ((Mem.writeN [] 0x10000 8 (0x10101 - 0x100 + 0)).writeN 0x10100 8 1) }
     let o := (⟨0x10000, 65536, (some 0x50000), 3, 2, true⟩ : Overlay); (s.part 0).overlays[0]? = some o ∧ s.foldable 0 o = true) ∧
    (let s : State := { (plain .c) with deps := [({ rcd := ({ words := [BitVec.ofNat 64 (0 + 1 * 2 ^ 12 + 0 * 2 ^ 14)] ++ [], tid := 9, launch := 7, snap := { Snap.none with img := 0x100000, size := 65536, frame := 16384, codeOff := 256, codeSize := 64, entry := [256, 260, 264, 268] }, pin := none } : TRec), part := 0, tq := 2, order := 3, st := .deciding, conf := [], ren := [], insts := [⟨0, 0, 0, .retired, 0, [⟨5 * 2 ^ 53 + 0x1000, 0x1000, 15, 9, 0, 0⟩], 0, 5, []⟩], marks := [], nextInst := 1 } : Dep)] }
     let e := ({ rcd := ({ words := [BitVec.ofNat 64 (0 + 1 * 2 ^ 12 + 0 * 2 ^ 14)] ++ [], tid := 9, launch := 7, snap := { Snap.none with img := 0x100000, size := 65536, frame := 16384, codeOff := 256, codeSize := 64, entry := [256, 260, 264, 268] }, pin := none } : TRec), part := 0, tq := 2, order := 3, st := .deciding, conf := [], ren := [], insts := [⟨0, 0, 0, .retired, 0, [⟨5 * 2 ^ 53 + 0x1000, 0x1000, 15, 9, 0, 0⟩], 0, 5, []⟩], marks := [], nextInst := 1 } : Dep); (s.deps.find? fun x => x.rcd.tid = 9 && s.decides none x) = some e ∧ e.decision = .release ⟨0, 0, 0, .retired, 0, [⟨5 * 2 ^ 53 + 0x1000, 0x1000, 15, 9, 0, 0⟩], 0, 5, []⟩ [] 4 ∧ (s.releaseRows e ⟨0, 0, 0, .retired, 0, [⟨5 * 2 ^ 53 + 0x1000, 0x1000, 15, 9, 0, 0⟩], 0, 5, []⟩).releasing e ⟨0, 0, 0, .retired, 0, [⟨5 * 2 ^ 53 + 0x1000, 0x1000, 15, 9, 0, 0⟩], 0, 5, []⟩ = true) := by decide +kernel

/-- States and operands that meet the hypotheses of LaunchesAreAcceptedAndComplete, clause by clause. -/
theorem witness_LaunchesAreAcceptedAndComplete :
    (let s : State := { (plain .c) with parts := [(0, { Part.reset with dies := [0], ktab := 0x20000, lqs := [(0, { base := 0x80000, sz := 4096, h := 0, t := 0, stopped := false, cbase := 0x90000, cs := 256, ct := 5, ch := 0, reserved := 0 })] })] }
     (((s.part 0).lq 0).ct + 2 ^ 32 - 5 % 2 ^ 32) % 2 ^ 32 < 2 ^ 31) ∧
    (let s : State := { (plain .c) with parts := [(0, { Part.reset with dies := [0], ktab := 0x20000, lqs := [(0, { base := 0x80000, sz := 4096, h := 0, t := 0, stopped := false, cbase := 0x90000, cs := 256, ct := 5, ch := 0, reserved := 0 })] })] }
     2 ^ 31 ≤ (((s.part 0).lq 0).ct + 2 ^ 32 - 6 % 2 ^ 32) % 2 ^ 32) ∧
    (let s : State := { (plain .c) with parts := [(0, { Part.reset with dies := [0], ktab := 0x20000, lqs := [(0, { base := 0x80000, sz := 4096, h := 4032, t := 64, stopped := false, cbase := 0x90000, cs := 256, ct := 0, ch := 0, reserved := 0 })] })] }
     (s.part 0).hubSaw = false ∧ ((s.part 0).lq 0).present = true ∧ ((s.part 0).lq 0).sz < ((s.part 0).lq 0).h + 128) ∧
    (let s : State := { (plain .c) with parts := [(0, { Part.reset with dies := [0], ktab := 0x20000, lqs := [(0, { base := 0x80000, sz := 4096, h := 3968, t := 0, stopped := false, cbase := 0x90000, cs := 256, ct := 0, ch := 0, reserved := 0 })] })] }
     (s.part 0).hubSaw = false ∧ ((s.part 0).lq 0).present = true ∧ ((s.part 0).lq 0).h + 128 ≤ ((s.part 0).lq 0).sz ∧ ((s.part 0).lq 0).slotFree = true ∧ (match s.sysBlock (((s.part 0).lq 0).base + ((s.part 0).lq 0).h) 128 with | (s1, r) => match s1.judge 0 r true with | (_, .reject 18) => true | _ => false) = true) ∧
    (let s : State := { ({ (plain .c) with parts := [(0, { Part.reset with dies := [0], root := 0x30000, rootn := 1, ktab := 0x20000, lqs := [(0, { base := 0x80000, sz := 4096, h := 0, t := 128, stopped := false, cbase := 0x90000, cs := 256, ct := 0, ch := 0, reserved := 0 })] })] }) with mem := ((((Mem.writeN [] 0x80000 128 (2 ^ 20 + 2 ^ 28 + (1 + 4 * 2 ^ 37) * 2 ^ 192 + 77 * 2 ^ (8 * 0x70))).writeN 0x20000 32 (0x100000 + 8 * 2 ^ 64 + 65536 * 2 ^ 128)).writeN 0x30000 8 (0x30100 + 1)).writeN 0x30100 8 7).writeN 0x100000 256 (0x1A494B48 + 2 ^ 32 + Config.cfgid 0 * 2 ^ 64 + 256 * 2 ^ 96 + 2 ^ (8 * 0x50) + (256 + 260 * 2 ^ 32 + 264 * 2 ^ 64 + 268 * 2 ^ 96) * 2 ^ (8 * 0x54) + 256 * 2 ^ (8 * 0x64) + 16 * 2 ^ (8 * 0x68) + 2 ^ 27 * 2 ^ (8 * 0x40)), tqs := [(0, { TaskQ.reset with part := some 0 })] }
     (s.part 0).hubSaw = false ∧ ((s.part 0).lq 0).present = true ∧ ((s.part 0).lq 0).h + 128 ≤ ((s.part 0).lq 0).sz ∧ ((s.part 0).lq 0).slotFree = true ∧ (match s.sysBlock (((s.part 0).lq 0).base + ((s.part 0).lq 0).h) 128 with | (s1, r) => match s1.judge 0 r true with | (_, .accept _ _) => true | _ => false) = true) ∧
    (let s : State := { (plain .c) with launches := [(7, ({ part := 0, lq := none, words := [], snap := { Snap.none with img := 0x100000, size := 65536, frame := 16384, codeOff := 256, codeSize := 64, entry := [256, 260, 264, 268] }, total := 0, seq := 0, tqCount := 0, alive := 0, alm := [{ control := 0, object := 0, dest := 0, st := .done }], arr := [], fireNo := 1, hasAlm := false, released := false, unresolved := false } : Launch))], pins := [(7, 5), (8, 6)] }
     whenSome (s.launch? 7) (fun l => l.total ≤ l.seq && l.alive = 0 && l.alm.all fun e => !e.inFlight) = true) ∧
    (let s : State := { ({ (plain .c) with parts := [(0, { Part.reset with dies := [0], ktab := 0x20000, lqs := [(0, { base := 0x80000, sz := 4096, h := 0, t := 0, stopped := false, cbase := 0x90000, cs := 256, ct := 0, ch := 0, reserved := 1 })] })] }) with launches := [(7, ({ part := 0, lq := some (0, 3968), words := [BitVec.ofNat 64 (2 ^ 28)], snap := { Snap.none with img := 0x100000, size := 65536, frame := 16384, codeOff := 256, codeSize := 64, entry := [256, 260, 264, 268] }, total := 0, seq := 0, tqCount := 0, alive := 0, alm := [], arr := [], fireNo := 1, hasAlm := false, released := true, unresolved := false } : Launch))] }
     whenSome (s.launch? 7) (fun l => l.total ≤ l.seq && l.alive = 0 && l.released && s.folded l) = true ∧ (s.part 0).run = .running ∧ s.accs = []) := by decide +kernel

/-- States and operands that meet the hypotheses of ManagementRegistersTakeTheirWrites, clause by clause. -/
theorem witness_ManagementRegistersTakeTheirWrites :
    (let s : State := { (plain .c) with flogs := [(5, ⟨[⟨0, 0, 0, 0⟩, ⟨1, 0, 0, 0⟩], 1, 0, 0xFFFFFFFF⟩)] }
     let l := tblGet FLog.empty s.flogs 5; 1 ≤ (1 + 2 ^ 32 - l.tail) % 2 ^ 32 ∧ (1 + 2 ^ 32 - l.tail) % 2 ^ 32 ≤ l.entries.length) ∧
    (let s : State := { plain .c with dies := [(3, { Die.reset with ringW := 9, ringR := 2 })] }
     (s.die 3).ringR ≤ 9 ∧ 9 ≤ (s.die 3).ringW) ∧
    (pcselOk 0x10117 = true ∧ (15 : Nat) < 16) ∧
    (let s : State := { plain .c with pend := [(271, true)], maskV := [(271, true)] }
     tblGet false s.pend 271 = true) ∧
    (let s : State := plain .c
     (s.manage (.thresholds 5 65535)).isSome = true) ∧
    (pcselOk 0x118 = false) ∧
    (let s : State := { plain .c with scoreSet := [(3, 7)], scoreNew := [(3, 2)], score := [(3, 5)], dth := 9 }
     s.scoreSet = [(scoreOf (.die 3), 7)] ∧ (s.scoreNew.all fun e => e.1 = scoreOf (.die 3)) = true ∧ tblGet 0 s.score 3 < s.dth ∧ s.dth ≤ Nat.min (7 + tblGet 0 s.scoreNew 3) 0xFFFF ∧ tblGet false s.maskV 0 = false) ∧
    (let s : State := plain .c
     (s.manage (.activationWidth 0)).isNone = true) := by decide +kernel

/-- States and operands that meet the hypotheses of HaltsStopAPartition, clause by clause. -/
theorem witness_HaltsStopAPartition :
    (let s : State := { (plain .c) with deps := [({ rcd := ({ words := [BitVec.ofNat 64 (0 + 0 * 2 ^ 12 + 0 * 2 ^ 14)] ++ [], tid := 1, launch := 7, snap := { Snap.none with img := 0x100000, size := 65536, frame := 16384, codeOff := 256, codeSize := 64, entry := [256, 260, 264, 268] }, pin := none } : TRec), part := 0, tq := 0, order := 3, st := .running, conf := [], ren := [], insts := [⟨0, 0, 0, .running, 2 ^ 30, [], 0, 0, []⟩], marks := [], nextInst := 0 } : Dep)] }
     let e := ({ rcd := ({ words := [BitVec.ofNat 64 (0 + 0 * 2 ^ 12 + 0 * 2 ^ 14)] ++ [], tid := 1, launch := 7, snap := { Snap.none with img := 0x100000, size := 65536, frame := 16384, codeOff := 256, codeSize := 64, entry := [256, 260, 264, 268] }, pin := none } : TRec), part := 0, tq := 0, order := 3, st := .running, conf := [], ren := [], insts := [⟨0, 0, 0, .running, 2 ^ 30, [], 0, 0, []⟩], marks := [], nextInst := 0 } : Dep); s.deps = [e] ∧ s.expired e ⟨0, 0, 0, .running, 2 ^ 30, [], 0, 0, []⟩ = true ∧ ((s.core 0).ctx 0).task = some slotTask ∧ slotTask.part = e.part ∧ slotTask.tid = e.rcd.tid ∧ ((s.core 0).ctx 0).runs (e.task ⟨0, 0, 0, .running, 2 ^ 30, [], 0, 0, []⟩) = true) ∧
    (let s : State := (let c : Cluster := { Cluster.start with run := .stopped }; dev .c id (fun x => { x with clus := [(0, c), (1, c), (2, c), (3, c)] }) (fun k => { k with mxRun := some ({ cmd := (⟨0, .mzero h0 7, 0, 0x80000, 0, [], 0, 0, 0, 0, 3, []⟩ : MxCmd), input := MxIn.none, released := false } : MxRun) }))
     (s.core 0).mxRun.isSome = true ∧ ∀ u ∈ [Clu.c, .a, .v, .m], (s.clu ⟨0, 0, u⟩).run = .stopped) ∧
    (let s : State := (let c : Cluster := { Cluster.start with run := .stopped }; dev .c id (fun x => { x with clus := [(0, c), (1, c), (2, c), (3, c)] }) (fun k => let r : CpRun := { cmd := (⟨0, .a, .cpy h0 31 1 2, 0, 0, 0, 0, 0, slotTask, []⟩ : EnCmd), shape := none, next := 0, slot := none, rows := [], cbits := 0, stat := 0, fidx := 0, addr := 0, cb := [], peer := [], out := 0 }; { k with cpRun := [(5, r)] }))
     (match (s.core 0).cpRun with | [(5, r)] => s.cmdStops 0 r.cmd | _ => false) = true) ∧
    (let s : State := (let c : Cluster := { Cluster.start with run := .stopped }; dev .c id (fun x => { x with clus := [(0, c), (1, c), (2, c), (3, c)] }) (fun k => { k with rmRun := [({ cmd := (⟨0, .c, .ratom h0 1 0 1 2, 0, 3, 5 * 2 ^ 53, 0, 0, slotTask, []⟩ : EnCmd), dst := 5, cls := 1, todo := [], wait := [], got := [], val := 7, stat := 0, addr := 0, pois := false } : RmRun)] }))
     (match (s.core 0).rmRun with | [r] => s.cmdStops 0 r.cmd | _ => false) = true) ∧
    (let s : State := (let c : Cluster := { Cluster.start with run := .stopped }; dev .c id (fun x => { x with clus := [(0, c), (1, c), (2, c), (3, c)] }) (fun k => { k with mxq := [(⟨0, .mzero h0 7, 0, 0x80000, 0, [], 0, 0, 0, 0, 3, []⟩ : MxCmd)] }))
     s.removable ⟨0, 0, .c⟩ = true) ∧
    (let s : State := { (plain .c) with parts := [(0, { Part.reset with dies := [0], first := some (23, 0, 0, 3, 4) })] }
     (s.part 0).first = some (23, 0, 0, 3, 4)) ∧
    (let s : State := plain .c
     (s.part 0).first = none) ∧
    (let s : State := { (plain .c) with parts := [(0, { Part.reset with dies := [0], raised := [(23, 0, 0, 0, 0)] })] }
     (s.part 0).line = true ∧ 0 ∈ (s.part 0).dies ∧ 0 ∉ (s.die 0).halt ∧ 0 ∉ (s.part 0).stopDies) := by decide +kernel

/-- States and operands that meet the hypotheses of PreemptedContextsAreSaved, clause by clause. -/
theorem witness_PreemptedContextsAreSaved :
    (let s : State := dev .c (fun c => { c with pc := 8, wait := some .token }) (fun x => { x with preempt := true }) id
     s.trapsNow s.cur = true) ∧
    (let s : State := (let tr : Cluster := { Cluster.start with run := .trapped }; let en : Cluster := { Cluster.start with run := .ended }; let y : Ctx := { Ctx.reset with task := some { slotTask with tid := 2, snap := { slotTask.snap with frame := 16384 } }, preempt := true, fo := 0, clus := [(0, tr), (1, en), (2, en), (3, en)] }
  dev .c (fun c => { c with wait := some .hub, asked := true, s := [(2, 0x100), (3, 0x8000000000000000)] }) id (fun k => { k with ctxs := k.ctxs ++ [(1, y)], icache := [(lineKey slotTask 0, bytesOfNat 64 (match encode (.ctxsave h0 1 2 3) with | some [w] => w.toNat | _ => 0))] }))
     s.saver 0 1 = some (⟨0, 0, .c⟩, 0x8000000000000000) ∧ (s.core 0).power = .on ∧ s.allTrapped ⟨0, 1, .c⟩ = true ∧ (s.landRows ⟨0, 1, .c⟩).savable ⟨0, 1, .c⟩ = true ∧ (s.landRows ⟨0, 1, .c⟩).pastDone ⟨0, 1, .c⟩ = true ∧ ((s.landRows ⟨0, 1, .c⟩).release ⟨0, 0, .c⟩ 2).isSome = true) ∧
    (let s : State := dev .c id (fun x => { x with frozen := true }) id
     ((s.core 0).ctx 0).task.isSome = true ∧ ((s.core 0).ctx 0).frozen = true ∧ ((s.core 0).ctx 0).dumped = false ∧ s.accs = []) := by decide +kernel

/-- States and operands that meet the hypotheses of PowerAndClockEvents, clause by clause. -/
theorem witness_PowerAndClockEvents :
    (let s : State := dev .c id id (fun k => { k with power := .gating true })
     (s.core 0).power = .gating true) ∧
    (let s : State := { (dev .c id id (fun k => { k with power := .gating false })) with dies := [(0, { Die.reset with trace := [⟨0x123000000000, 0, 0, 0⟩] })] }
     (s.core 0).power = .gating false ∧ ∀ r ∈ (s.die 0).trace, r.ofCore 0 = false) ∧
    (let s : State := dev .c id id (fun k => { k with power := .off, wake := true })
     (s.core 0).power = .off ∧ (s.core 0).wake = true) ∧
    (let s : State := { plain .c with skip := [3, 67] }
     s.hasDie 5 = true ∧ 5 + 64 ∉ s.skip ∧ 5 ∉ s.skip) ∧
    (let s : State := plain .c
     s.hubActive = 0) := by decide +kernel

/-- States and operands that meet the hypotheses of TheDeviceStartsInStages, clause by clause. -/
theorem witness_TheDeviceStartsInStages :
    (let s : State := State.reset
     s.stage = 0 ∧ s.strapErr = false) ∧
    (let s : State := { State.reset with stage := 2, mem := [(2 ^ 32, 1), (2 ^ 40 - 1, 1), (2 ^ 50, 2), (2 ^ 50 + 2 ^ 31 - 1, 2)] }
     s.stage = 2) ∧
    (let s : State := { State.reset with stage := 3, mem := [(5, 1)], nseq := [(0, 7)] }
     s.stage = 3 ∧ (1023 : Nat) < 1024 ∧ s.devId = 0) ∧
    (let s : State := { State.reset with stage := 1, flashA := ⟨true, 5, [(7, 19)], [(2, 3)], [(15, 65, 3, 71)], [9]⟩ }
     s.stage = 1 ∧ s.bootMbx = false ∧ s.record? = some (⟨true, 5, [(7, 19)], [(2, 3)], [(15, 65, 3, 71)], [9]⟩, false) ∧ s.mapWaits ⟨true, 5, [(7, 19)], [(2, 3)], [(15, 65, 3, 71)], [9]⟩ = false) ∧
    (let s : State := { State.reset with stage := 1, bootMbx := true, fwLoaded := true, flashA := ⟨true, 5, [(7, 19)], [(2, 3)], [(15, 65, 3, 71)], [9]⟩, flashB := ⟨true, 6, [(7, 19)], [(2, 3)], [(15, 65, 3, 71)], [9]⟩ }
     s.stage = 1 ∧ s.bootMbx = true ∧ s.fwLoaded = true ∧ s.record? = some (⟨true, 6, [(7, 19)], [(2, 3)], [(15, 65, 3, 71)], [9]⟩, true) ∧ s.mapWaits ⟨true, 6, [(7, 19)], [(2, 3)], [(15, 65, 3, 71)], [9]⟩ = false) ∧
    (let s : State := { State.reset with stage := 1, flashA := ⟨true, 5, [(7, 19)], [(2, 3)], [(15, 65, 3, 71)], [9]⟩, flashB := ⟨true, 4, [(7, 19)], [(2, 3)], [(15, 65, 3, 71)], [9]⟩ }
     s.flashA.valid = true ∧ s.flashB.valid = true ∧ s.flashB.count < s.flashA.count) ∧
    (let s : State := { State.reset with stage := 1, flashA := ⟨false, 5, [], [], [], []⟩ }
     s.stage = 1 ∧ s.flashA.valid = false ∧ s.flashB.valid = false) := by decide +kernel

/-- States and operands that meet the hypotheses of UpkeepAndHostTraffic, clause by clause. -/
theorem witness_UpkeepAndHostTraffic_a :
    (let s : State := { plain .c with mem := [(2 ^ 50 + 2 ^ 31 - 4, 1)], shaSyn := [(2 ^ 48 + 2 ^ 29 - 1, 1)] }
     (match eccDecode (tblGet 0 s.shaSyn ((2 ^ 50 + 4 * (2 ^ 29 - 1)) / 4)) with | .fix _ => true | _ => false) = true) ∧
    (let s : State := { plain .c with rewrite := [64], hbmErr := [(64, [(5, 3)])] }
     64 ∈ s.rewrite ∧ s.lineState 64 = some true) ∧
    (let s : State := { plain .c with dies := [(0, { Die.reset with trace := [⟨1, 2, 3, 4⟩, ⟨5, 6, 7, 8⟩], ringBase := 0x1000, ringSize := 65536, ringW := 2047, ringR := 0 })] }
     (s.die 0).trace.length = 2 ∧ (s.die 0).ringW - (s.die 0).ringR < (s.die 0).ringSize / 32) ∧
    (let s : State := { plain .c with qpairs := [(1, 2)] }
     s.rdmaUp = true ∧ s.rdmaOk 0x3F 2 = true) ∧
    (let s : State := { plain .c with qpairs := [(1, 2)] }
     s.rdmaUp = true ∧ s.rdmaOk (2 ^ 40 - 1) 2 = false) ∧
    (let s : State := { plain .c with hbmPois := [0], qpairs := [(1, 2)] }
     s.rdmaUp = true ∧ s.rdmaOk 0x3F 2 = true) ∧
    (let s : State := { plain .c with qpairs := [(1, 2)] }
     s.rdmaUp = true ∧ s.rdmaOk 0x3E 2 = true ∧ saLevel 0x3E = 0 ∧ 0x3E % 64 + 2 ≤ 64 ∧ s.lineState 0 = none ∧ 0 ∉ s.hbmPois) ∧
    (let s : State := { plain .c with qpairs := [(1, 2)] }
     s.rdmaUp = true ∧ s.rdmaOk (2 ^ 40 - 1) 2 = false) := by decide +kernel

/-- States and operands that meet the hypotheses of UpkeepAndHostTraffic, clause by clause. -/
theorem witness_UpkeepAndHostTraffic_b :
    (let s : State := { plain .c with stage := 1 }
     s.stage ≠ 0 ∧ (s.request (.kernelEntry 0 4095 0 0 0)).isSome = true) ∧
    (let s : State := { plain .c with stage := 1 }
     s.stage ≠ 0 ∧ (s.request (.kernelEntry 1 4095 0 0 0)).isNone = true) ∧
    (let s : State := { plain .c with swapThr := [(7, 4)], acts := [(7 * 2 ^ 20, 4)], rowInd := [(7, [(0, 5), (5, 0)])], swaps := [(7, 0xFFFFFFFF)] }
     tblFind s.swapThr 7 = some 4 ∧ 4 ≤ tblGet 0 s.acts (7 * 2 ^ 20 + s.physRow 7 5) ∧ (tblGet [] s.rowInd 7).length + 2 ≤ 1024 ∧ (5 : Nat) ≠ 9) ∧
    (let s : State := { plain .c with swapThr := [(7, 4)], acts := [(7 * 2 ^ 20 + 5, 3)] }
     tblFind s.swapThr 7 = some 4 ∧ tblGet 0 s.acts (7 * 2 ^ 20 + s.physRow 7 5) < 4) ∧
    (let s : State := { plain .c with swapThr := [(7, 4)], acts := [(7 * 2 ^ 20 + 6, 4)], rowInd := [(7, (List.range 1024).map fun i => (i, (i + 1) % 1024))] }
     tblFind s.swapThr 7 = some 4 ∧ 4 ≤ tblGet 0 s.acts (7 * 2 ^ 20 + s.physRow 7 5) ∧ 1024 ≤ (tblGet [] s.rowInd 7).length) ∧
    (let s : State := { plain .c with stage := 1 }
     s.rdmaUp = false) := by decide +kernel

/-- States and operands that meet the hypotheses of AStepRunsTheDecodedInstruction, clause by clause. -/
theorem witness_AStepRunsTheDecodedInstruction :
    (let s : State := (dev .c id id (fun k => { k with icache := [(lineKey slotTask 0, bytesOfNat 64 0x8843)], slots := [0] }))
     (s.clu s.cur).run = .run ∧ (s.clu s.cur).gap = 0 ∧ s.trapsNow s.cur = false ∧ s.nextGroup s.cur = .ok (.add h0 2 2 3) ∧ ((s.beginSc s.cur).drainLoop s.cur).nextGroup s.cur = .ok (.add h0 2 2 3) ∧ (match exec (.add h0 2 2 3) ((s.beginSc s.cur).drainLoop s.cur) with | .next t => (t.clu s.cur).wait.isNone | _ => false) = true ∧ (((s.beginSc s.cur).drainLoop s.cur).clu s.cur).drained = none) ∧
    (let s : State := (dev .c id id (fun k => { k with icache := [(lineKey slotTask 0, bytesOfNat 64 0x8843)], slots := [0] }))
     s.scan < 1024 ∧ s.cur.core = s.scan / 4 ∧ s.cur.clu = Clu.at (s.scan % 4) ∧ dieOf s.cur.core ∉ s.skip ∧ (s.core 0).power = .on ∧ (s.die 0).power = true ∧ ([0, 1, 2, 3].all fun x => !(s.ctxOf ⟨0, x, .c⟩).syncGo && !s.syncReady ⟨0, x, .c⟩ && (match s.nextGroup ⟨0, x, .c⟩ with | .miss _ => false | _ => true)) = true ∧ 0 = (s.core 0).slotNow ∧ s.awake s.cur = true ∧ (s.clu s.cur).away = false) ∧
    (let s : State := (dev .c id id (fun k => { k with icache := [(lineKey slotTask 0, bytesOfNat 64 0x8843)], slots := [8] }))
     let p := (List.range 4).foldl (fun s x => s.presents ⟨0, x, .c⟩) s; s.scan < 1024 ∧ s.cur.core = s.scan / 4 ∧ s.cur.clu = Clu.at (s.scan % 4) ∧ dieOf s.cur.core ∉ s.skip ∧ (s.core 0).power = .on ∧ (s.die 0).power = true ∧ ([0, 1, 2, 3].all fun x => !(s.ctxOf ⟨0, x, .c⟩).syncGo && !s.syncReady ⟨0, x, .c⟩ && (match s.nextGroup ⟨0, x, .c⟩ with | .miss _ => false | _ => true)) = true ∧ 4 ≤ (s.core 0).slotNow ∧ ((ringFrom (tblGet 3 (p.core 0).rr 0)).find? fun x => p.canIssue ⟨0, x, .c⟩) = some 0 ∧ ([0, 1, 2, 3].all fun x => !p.syncReady ⟨0, x, .c⟩) = true) ∧
    (let s : State := (dev .c id id (fun k => { k with icache := [(lineKey slotTask 0, bytesOfNat 64 0x8843)], slots := [0] }))
     let t := s.taskOf s.cur; let pc := (s.clu s.cur).pc.toNat; let w : W32 := BitVec.ofNat 32 (natOfBytes (((bytesOfNat 64 0x8843).drop ((t.snap.img + pc) % 64)).take 4)); pc % 4 = 0 ∧ t.snap.codeOff ≤ pc ∧ pc + 4 ≤ t.snap.codeOff + t.snap.codeSize ∧ tblFind (s.core 0).icache (lineKey t (t.snap.img + pc)) = some (bytesOfNat 64 0x8843) ∧ W32.isImm w = false ∧ W32.isMod w = false ∧ (decodeGroup [w]).toOption = some (.add h0 2 2 3, 1) ∧ (s.clu s.cur).out = false) := by decide +kernel

/-- States and operands that meet the hypotheses of EveryStepKeepsMemoriesCanonical, clause by clause. -/
theorem witness_EveryStepKeepsMemoriesCanonical :
    (let s : State := (dev .c id id (fun k => { k with icache := [(lineKey slotTask 0, bytesOfNat 64 0x8843)], slots := [0] }))
     s.memWf = true ∧ (match step s with | .next _ => true | _ => false) = true) := by decide +kernel

/-- States and operands that meet the hypotheses of PreciseFaultsStopTheirCluster, clause by clause. -/
theorem witness_PreciseFaultsStopTheirCluster :
    (let s : State := dev .v (fun c => { c with pc := 8, brpc := 4 }) id id
     s.me.run = .run ∧ s.myCtx.task.isSome = true ∧ (s.part s.myTask.part).run = .running) ∧
    (let s : State := dev .v id (fun x => { x with task := some { slotTask with cls := 1 } }) id
     s.me.run = .run ∧ s.myCtx.task.isSome = true ∧ s.myTask.cls ≠ 0) := by decide +kernel

/-- States and operands that meet the hypotheses of ScalarCheckEngineWordsChangeNoRegisterAtOnce, clause by clause. -/
theorem witness_ScalarCheckEngineWordsChangeNoRegisterAtOnce :
    (let s : State := (dev .c (fun c => { c with s := [(1, 5), (2, 7), (3, 0x104), (31, 8)], p := [(1, true)] }) id id)
     (Instr.add h0 1 2 3).unit? = some .sc ∧ (match exec (.add h0 1 2 3) s with | .next _ => true | _ => false) = true) := by decide +kernel

/-- States and operands that meet the hypotheses of VectorAndAddressWordsChangeNoRegisterAtOnce, clause by clause. -/
theorem witness_VectorAndAddressWordsChangeNoRegisterAtOnce :
    (let s : State := plain .v
     (Instr.knot h0 none 1 2).unit? = some .ve ∧ (match exec (.knot h0 none 1 2) s with | .next _ => true | _ => false) = true) ∧
    (let s : State := dev .a (fun c => { c with a := [(0, 0x48)], mb := [(1, 77)] }) (fun x => { x with sq := [(0, [⟨0, true, 5, 0⟩])] }) (fun k => { k with spm := [(0x48, 9)] })
     (Instr.ldq h0 3 0 0).unit? = some .ac ∧ (match exec (.ldq h0 3 0 0) s with | .next _ => true | _ => false) = true) ∧
    (let s : State := dev .a (fun c => { c with a := [(0, 0x48)], mb := [(1, 77)] }) (fun x => { x with sq := [(0, [⟨0, true, 5, 0⟩])] }) (fun k => { k with spm := [(0x48, 9)] })
     (Instr.ldq h0 3 0 0).unit? = some .ac ∧ s.accs = [] ∧ (match exec (.ldq h0 3 0 0) s with | .next _ => true | _ => false) = true) := by decide +kernel

/-- States and operands that meet the hypotheses of SeedsAndRoundingModesAreSet, clause by clause. -/
theorem witness_SeedsAndRoundingModesAreSet_a :
    (let s : State := (dev .c (fun c => { c with s := [(1, 5), (2, 7), (3, 0x104), (31, 8)], p := [(1, true)] }) id id)
     let i : Instr := .setrm h0 2
     ready s i (true)) = true ∧
    (let s : State := dev .c (fun c => { c with s := [(1, 5), (2, 0xFFFFFFFF)] }) id id
     let i : Instr := .seed h0 1 2
     ready s i ((s.me.sreg 2).toNat < 2 ^ 32)) = true ∧
    (let s : State := dev .c (fun c => { c with s := [(1, 5), (2, 0x100000000)] }) id id
     let i : Instr := .seed h0 1 2
     ready s i (2 ^ 32 ≤ (s.me.sreg 2).toNat)) = true ∧
    (let s : State := dev .c (fun c => { c with sc := 10, dl := [⟨11, 11, [.spec 1 2], 31⟩] }) id id
     (s.clu s.cur).dl = [⟨10 + 1, 10 + 1, [.spec 1 ((2 : BitVec 2).zeroExtend 64)], 31⟩] ∧ (s.clu s.cur).sc ≤ 10) ∧
    (let s : State := dev .c (fun c => { c with sc := 11, dl := [⟨11, 11, [.spec 1 2], 31⟩] }) id id
     (s.clu s.cur).dl = [⟨10 + 1, 10 + 1, [.spec 1 ((2 : BitVec 2).zeroExtend 64)], 31⟩] ∧ (s.clu s.cur).sc = 10 + 1) ∧
    (let s : State := dev .c (fun c => { c with sc := 10, dl := [⟨11, 11, [.spec 2 7, .spec 3 0xFFFFFFFF, .spec 4 0], 31⟩] }) id id
     (s.clu s.cur).dl = [⟨10 + 1, 10 + 1, [.spec 2 7, .spec 3 0xFFFFFFFF, .spec 4 0], 31⟩] ∧ (s.clu s.cur).sc ≤ 10) ∧
    (let s : State := dev .c (fun c => { c with sc := 11, dl := [⟨11, 11, [.spec 2 7, .spec 3 0xFFFFFFFF, .spec 4 0], 31⟩] }) id id
     (s.clu s.cur).dl = [⟨10 + 1, 10 + 1, [.spec 2 7, .spec 3 0xFFFFFFFF, .spec 4 0], 31⟩] ∧ (s.clu s.cur).sc = 10 + 1) ∧
    (let w : W32 := 0x250004; w.fld 29 3 = 0 ∧ w.fld 15 7 = 0x4A ∧ w.fld 2 13 ≠ 0) := by decide +kernel

/-- States and operands that meet the hypotheses of SeedsAndRoundingModesAreSet, clause by clause. -/
theorem witness_SeedsAndRoundingModesAreSet_b :
    (let w : W32 := 0x258400; w.fld 29 3 = 0 ∧ w.fld 15 7 = 0x4B ∧ w.fld 10 5 ≠ 0) ∧
    (let w : W32 := 0x250003; w.fld 29 3 = 0 ∧ w.fld 15 7 = 0x4A ∧ w.fld 2 13 = 0) ∧
    (let w : W32 := 0x2583FF; w.fld 29 3 = 0 ∧ w.fld 15 7 = 0x4B ∧ w.fld 10 5 = 0) := by decide +kernel

/-- States and operands that meet the hypotheses of DivisionsAndBitFieldsFollowTheirRules, clause by clause. -/
theorem witness_DivisionsAndBitFieldsFollowTheirRules_a :
    (let s : State := dev .c (fun c => { c with s := [(1, 5), (2, 0), (3, 0x5555555555555555)] }) id id
     let i : Instr := .divn h0 3 1 2
     ready s i (true)) = true ∧
    (let s : State := dev .c (fun c => { c with s := [(1, 0x8000000000000000), (2, 3), (3, 0x5555555555555555)] }) id id
     let i : Instr := .divn h0 3 1 2
     ready s i (true)) = true ∧
    (let s : State := dev .c (fun c => { c with s := [(1, 5), (2, 0), (3, 0x5555555555555555)] }) id id
     let i : Instr := .remn h0 3 1 2
     ready s i (true)) = true ∧
    (let s : State := dev .c (fun c => { c with s := [(1, 17), (2, 5), (3, 0x5555555555555555)] }) id id
     let i : Instr := .remn h0 3 1 2
     ready s i (true)) = true ∧
    (let s : State := dev .c (fun c => { c with s := [(1, 5), (2, 0), (3, 0x5555555555555555)] }) id id
     let i : Instr := .divs h0 3 1 2
     ready s i (true)) = true ∧
    (let s : State := dev .c (fun c => { c with s := [(1, 0x8000000000000000), (2, 0xFFFFFFFFFFFFFFFF), (3, 0x5555555555555555)] }) id id
     let i : Instr := .divs h0 3 1 2
     ready s i (true)) = true ∧
    (let s : State := dev .c (fun c => { c with s := [(1, 17), (2, 0xFFFFFFFFFFFFFFFB), (3, 0x5555555555555555)] }) id id
     let i : Instr := .divs h0 3 1 2
     ready s i (true)) = true ∧
    (let s : State := dev .c (fun c => { c with s := [(1, 5), (2, 0), (3, 0x5555555555555555)] }) id id
     let i : Instr := .rems h0 3 1 2
     ready s i (true)) = true := by decide +kernel

/-- States and operands that meet the hypotheses of DivisionsAndBitFieldsFollowTheirRules, clause by clause. -/
theorem witness_DivisionsAndBitFieldsFollowTheirRules_b :
    (let s : State := dev .c (fun c => { c with s := [(1, 0x8000000000000000), (2, 0xFFFFFFFFFFFFFFFF), (3, 0x5555555555555555)] }) id id
     let i : Instr := .rems h0 3 1 2
     ready s i (true)) = true ∧
    (let s : State := dev .c (fun c => { c with s := [(1, 0xFFFFFFFFFFFFFFEF), (2, 5), (3, 0x5555555555555555)] }) id id
     let i : Instr := .rems h0 3 1 2
     ready s i (true)) = true ∧
    (let s : State := dev .c (fun c => { c with s := [(1, 0x8000000000000001), (2, 63 + 2 * 64), (3, 0x5555555555555555)] }) id id
     let i : Instr := .bfx h0 3 1 2
     ready s i ((List.range 64).all fun j => (1 : Word).getLsbD j = (decide (j < 1) && (0x8000000000000001 : Word).getLsbD (63 + j)))) = true ∧
    (let s : State := dev .c (fun c => { c with s := [(1, 0x3), (2, 63 + 2 * 64), (3, 0x5555555555555555)] }) id id
     let i : Instr := .bfi h0 3 1 2
     ready s i ((List.range 64).all fun j => (0xD555555555555555 : Word).getLsbD j = if 63 ≤ j ∧ j < 64 then (3 : Word).getLsbD (j - 63) else (s.me.sreg 3).getLsbD j)) = true ∧
    (let w : W32 := 0x37fff; w.fld 29 3 = 0 ∧ w.fld 15 7 = 6) ∧
    (let w : W32 := 0x3ffff; w.fld 29 3 = 0 ∧ w.fld 15 7 = 7) ∧
    (let w : W32 := 0x47fff; w.fld 29 3 = 0 ∧ w.fld 15 7 = 8) ∧
    (let w : W32 := 0x4ffff; w.fld 29 3 = 0 ∧ w.fld 15 7 = 9) := by decide +kernel

/-- States and operands that meet the hypotheses of DivisionsAndBitFieldsFollowTheirRules, clause by clause. -/
theorem witness_DivisionsAndBitFieldsFollowTheirRules_c :
    (let w : W32 := 0xc7fff; w.fld 29 3 = 0 ∧ w.fld 15 7 = 24) ∧
    (let w : W32 := 0xcffff; w.fld 29 3 = 0 ∧ w.fld 15 7 = 25) := by decide +kernel

/-- States and operands that meet the hypotheses of CountsAndPredicatesFollowTheirRules, clause by clause. -/
theorem witness_CountsAndPredicatesFollowTheirRules_a :
    (let s : State := dev .c (fun c => { c with s := [(1, 0)], p := [(1, true)] }) id id
     let i : Instr := .clz h0 3 1
     ready s i ((List.range 64).all (fun j => j < 64 - 64 || !(s.me.sreg 1).getLsbD j) ∧ (64 < 64 → (s.me.sreg 1).getLsbD (63 - 64) = true))) = true ∧
    (let s : State := dev .c (fun c => { c with s := [(1, 1)], p := [(1, true)] }) id id
     let i : Instr := .clz h0 3 1
     ready s i ((List.range 64).all (fun j => j < 64 - 63 || !(s.me.sreg 1).getLsbD j) ∧ (63 < 64 → (s.me.sreg 1).getLsbD (63 - 63) = true))) = true ∧
    (let s : State := dev .c (fun c => { c with s := [(1, 0x8000000000000000)], p := [(1, true)] }) id id
     let i : Instr := .clz h0 3 1
     ready s i ((List.range 64).all (fun j => j < 64 - 0 || !(s.me.sreg 1).getLsbD j) ∧ (0 < 64 → (s.me.sreg 1).getLsbD (63 - 0) = true))) = true ∧
    (let s : State := dev .c (fun c => { c with s := [(1, 0x0010000000000000)], p := [(1, true)] }) id id
     let i : Instr := .clz h0 3 1
     ready s i ((List.range 64).all (fun j => j < 64 - 11 || !(s.me.sreg 1).getLsbD j) ∧ (11 < 64 → (s.me.sreg 1).getLsbD (63 - 11) = true))) = true ∧
    (let s : State := dev .c (fun c => { c with s := [(1, 0xF000000000000001)], p := [(1, true)] }) id id
     let i : Instr := .popc h0 3 1
     ready s i (5 = ((List.range 64).filter fun j => (s.me.sreg 1).getLsbD j).length)) = true ∧
    (let s : State := dev .c (fun c => { c with s := [(1, 0)], p := [(1, true)] }) id id
     let i : Instr := .pand h0 2 1 1
     ready s i (true)) = true ∧
    (let s : State := dev .c (fun c => { c with s := [(1, 0)], p := [(1, true)] }) id id
     let i : Instr := .por h0 2 1 3
     ready s i (true)) = true ∧
    (let s : State := dev .c (fun c => { c with s := [(1, 0)], p := [(1, true)] }) id id
     let i : Instr := .pxor h0 2 1 0
     ready s i (true)) = true := by decide +kernel

/-- States and operands that meet the hypotheses of CountsAndPredicatesFollowTheirRules, clause by clause. -/
theorem witness_CountsAndPredicatesFollowTheirRules_b :
    (let s : State := dev .c (fun c => { c with s := [(1, 0)], p := [(1, true)] }) id id
     let i : Instr := .pxor h0 2 1 1
     ready s i (true)) = true ∧
    (let w : W32 := 0x151ce7; w.fld 29 3 = 0 ∧ w.fld 13 2 = 0 ∧ w.fld 8 2 = 0 ∧ w.fld 3 2 = 0 ∧ w.fld 15 7 = 42) ∧
    (let w : W32 := 0x159ce7; w.fld 29 3 = 0 ∧ w.fld 13 2 = 0 ∧ w.fld 8 2 = 0 ∧ w.fld 3 2 = 0 ∧ w.fld 15 7 = 43) ∧
    (let w : W32 := 0x161ce7; w.fld 29 3 = 0 ∧ w.fld 13 2 = 0 ∧ w.fld 8 2 = 0 ∧ w.fld 3 2 = 0 ∧ w.fld 15 7 = 44) ∧
    (let w : W32 := 0xb7fe0; w.fld 29 3 = 0 ∧ w.fld 0 5 = 0 ∧ w.fld 15 7 = 22) ∧
    (let w : W32 := 0xbffe0; w.fld 29 3 = 0 ∧ w.fld 0 5 = 0 ∧ w.fld 15 7 = 23) ∧
    (let w : W32 := 0x152000; w.fld 29 3 = 0 ∧ w.fld 15 7 = 0x2A ∧ w.fld 13 2 ≠ 0) ∧
    (let w : W32 := 0x160008; w.fld 29 3 = 0 ∧ w.fld 15 7 = 0x2C ∧ w.fld 3 2 ≠ 0) := by decide +kernel

/-- States and operands that meet the hypotheses of CountsAndPredicatesFollowTheirRules, clause by clause. -/
theorem witness_CountsAndPredicatesFollowTheirRules_c :
    (let w : W32 := 0x158100; w.fld 29 3 = 0 ∧ w.fld 15 7 = 0x2B ∧ w.fld 8 2 ≠ 0) ∧
    (let w : W32 := 0xb0001; w.fld 29 3 = 0 ∧ w.fld 15 7 = 0x16 ∧ w.fld 0 5 ≠ 0) ∧
    (let w : W32 := 0xb8010; w.fld 29 3 = 0 ∧ w.fld 15 7 = 0x17 ∧ w.fld 0 5 ≠ 0) := by decide +kernel

/-- A codebook that a CBLD has gathered whole. -/
theorem witness_CopiesRunToTheirEnd_codebook :
    let r : CpRun := { cmd := (⟨0, .a, .cbld h0 1, 0, 0, 0, 0, 0, slotTask, []⟩ : EnCmd), shape := none, next := 0, slot := none, rows := [], cbits := 0, stat := 0, fidx := 0, addr := 0, cb := List.replicate 256 5, peer := [], out := 0 }
    let s : State := dev .a id (fun x => { x with ct := [(31, ⟨2, 0, 0, 0, false⟩)] }) (fun k => { k with cpRun := [(5, r)] })
    tblFind (s.core 0).cpRun 5 = some r ∧ r.moved = true ∧ s.cmdRoom 0 r.cmd = true ∧ s.cmdAlive 0 r.cmd = true ∧
    r.cmd.copyTok = none ∧ r.stat = 0 ∧ r.cb.length = 256 :=
  ⟨rfl, rfl, rfl, rfl, rfl, rfl, List.length_replicate⟩

/-- A well-formed instruction, with both leading words. -/
theorem witness_EncodedInstructionsDecodeToThemselves : (Instr.vli h0 (some 1) (some ⟨2, 1, 0, 0, 0⟩) 3 7).WellFormed := by decide +kernel

/-- The assembly is fused to a strap setting that is a form. -/
theorem witness_TheDeviceStartsInStages_fused : Config.fusedForm ≠ 3 := by
  have h := Config.fusedTo.isLt
  intro e
  have := congrArg BitVec.toNat e
  simp [Config.fusedForm] at this
  omega

end Sys2Proof.Tests
end

section
/-! Scalar state (R105 to R113, R126, R127): how a scalar word decodes, the values of its operations, the landing of a
single result in flight, and the three statements about them. -/

namespace Sys2Proof

/-! Decoding one word of unit SC without leading words. -/

/-- The unit field lies inside the four bits that mark IMM and MOD. -/
theorem W32.fld_unit (w : W32) : w.fld 29 3 = (w.fld 28 4).extractLsb' 1 3 := by
  ext j hj
  simp [show 1 + j < 4 by omega, show 28 + (1 + j) = 29 + j by omega]

/-- A word of unit SC is a whole group. -/
theorem decodeGroup_unitSC {w : W32} (hu : w.fld 29 3 = 0) :
    decodeGroup [w] = (decodeSC (decodeHdr w) none none w).map fun i => (i, 1) := by
  have notLead (p : BitVec 4) (hp : p.extractLsb' 1 3 ≠ 0) : (w.fld 28 4 == p) = false := by
    refine beq_eq_false_iff_ne.2 fun e => hp ?_
    rw [← e, ← W32.fld_unit, hu]
  have himm : w.isImm = false := notLead _ (by decide)
  have hmod : w.isMod = false := notLead _ (by decide)
  have hsc : decodeWord none none w = decodeSC (decodeHdr w) none none w := by
    unfold decodeWord
    rw [hu]
    rfl
  simp [decodeGroup, himm, hmod, hsc]

/-- It is the instruction of its row where the bits that the row does not use are zero (Table 3.7 row 4). -/
theorem decodeGroup_ok {w mask : W32} {i : Instr} (hu : w.fld 29 3 = 0)
    (row : decodeSC (decodeHdr w) none none w = needZero w mask i) (hz : w &&& mask = 0#32) :
    decodeGroup [w] = .ok (i, 1) := by
  rw [decodeGroup_unitSC hu, row, needZero, if_pos hz]
  rfl

/-- It is no instruction where one of them is not. -/
theorem decodeGroup_unused {w mask : W32} {i : Instr} (hu : w.fld 29 3 = 0)
    (row : decodeSC (decodeHdr w) none none w = needZero w mask i) (hz : w &&& mask ≠ 0#32) :
    decodeGroup [w] = .error .unusedBits := by
  rw [decodeGroup_unitSC hu, row, needZero, if_neg hz]
  rfl

/-- A row whose unused bits are one field decodes exactly where that field is zero. -/
theorem decodeGroup_unusedField {w mask : W32} {i : Instr} {lo n : Nat} (hu : w.fld 29 3 = 0)
    (row : decodeSC (decodeHdr w) none none w = needZero w mask i) (field : w &&& mask = 0#32 ↔ w.fld lo n = 0) :
    (w.fld lo n ≠ 0 → decodeGroup [w] = .error .unusedBits) ∧ (w.fld lo n = 0 → decodeGroup [w] = .ok (i, 1)) :=
  ⟨fun hz => decodeGroup_unused hu row (mt field.1 hz), fun hz => decodeGroup_ok hu row (field.2 hz)⟩

/-- The mask of bits [lo+n-1:lo]. -/
def fieldMask (lo n : Nat) : W32 := (BitVec.allOnes n).zeroExtend 32 <<< lo

theorem getLsbD_fieldMask {lo n : Nat} (hn : lo + n ≤ 32) (j : Nat) :
    (fieldMask lo n).getLsbD j = decide (lo ≤ j ∧ j < lo + n) := by
  rw [Bool.eq_iff_iff]
  simp only [fieldMask, BitVec.getLsbD_shiftLeft, BitVec.truncate_eq_setWidth, BitVec.getLsbD_setWidth,
    BitVec.getLsbD_allOnes, Bool.and_eq_true, Bool.not_eq_true', decide_eq_true_eq, decide_eq_false_iff_not]
  omega

/-- A mask of one field finds nothing exactly where the field is zero. -/
theorem and_fieldMask_eq_zero (w : W32) (lo n : Nat) (hn : lo + n ≤ 32 := by decide) :
    w &&& fieldMask lo n = 0#32 ↔ w.fld lo n = 0 := by
  constructor
  · intro h
    refine BitVec.eq_of_getLsbD_eq fun j hj => ?_
    have hb : (w &&& fieldMask lo n).getLsbD (lo + j) = false := by rw [h, BitVec.getLsbD_zero]
    rw [BitVec.getLsbD_and, getLsbD_fieldMask hn, decide_eq_true (by omega), Bool.and_true] at hb
    rw [BitVec.getLsbD_extractLsb', hb, Bool.and_false]
    exact BitVec.getLsbD_zero.symm
  · intro h
    refine BitVec.eq_of_getLsbD_eq fun j _ => ?_
    rw [BitVec.getLsbD_and, getLsbD_fieldMask hn, BitVec.getLsbD_zero]
    by_cases hr : lo ≤ j ∧ j < lo + n
    · have hb : (w.fld lo n).getLsbD (j - lo) = false := by rw [h]; exact BitVec.getLsbD_zero
      rw [BitVec.getLsbD_extractLsb', decide_eq_true (by omega), Bool.true_and, Nat.add_sub_cancel' hr.1] at hb
      rw [hb, Bool.false_and]
    · rw [decide_eq_false hr, Bool.and_false]

/-- The unused bits of SETRM. -/
theorem unused_setrm (w : W32) : w &&& 0x7FFC = 0#32 ↔ w.fld 2 13 = 0 := by
  rw [show (0x7FFC : W32) = fieldMask 2 13 by decide, and_fieldMask_eq_zero w 2 13]

/-- The unused bits of SEED. -/
theorem unused_seed (w : W32) : w &&& 0x7C00 = 0#32 ↔ w.fld 10 5 = 0 := by
  rw [show (0x7C00 : W32) = fieldMask 10 5 by decide, and_fieldMask_eq_zero w 10 5]

/-- The unused bits of CLZ and POPC. -/
theorem unused_count (w : W32) : w &&& 0x001F = 0#32 ↔ w.fld 0 5 = 0 := by
  rw [show (0x001F : W32) = fieldMask 0 5 by decide, and_fieldMask_eq_zero w 0 5]

/-- The unused bits of the predicate words: two above each operand. -/
theorem unused_pred (w : W32) : w &&& 0x6318 = 0#32 ↔ w.fld 13 2 = 0 ∧ w.fld 8 2 = 0 ∧ w.fld 3 2 = 0 := by
  rw [show (0x6318 : W32) = fieldMask 13 2 ||| (fieldMask 8 2 ||| fieldMask 3 2) by decide,
    BitVec.and_or_distrib_left, BitVec.and_or_distrib_left, BitVec.or_eq_zero_iff, BitVec.or_eq_zero_iff,
    and_fieldMask_eq_zero w 13 2, and_fieldMask_eq_zero w 8 2, and_fieldMask_eq_zero w 3 2]

end Sys2Proof

namespace Sys2Proof.Machine

/-! The values of the operations. -/

theorem word_eq_zero_iff (y : Word) : y = 0 ↔ y.toNat = 0 := BitVec.toNat_eq ..
theorem word_eq_zero_iff_toInt (y : Word) : y = 0 ↔ y.toInt = 0 := BitVec.toInt_inj.symm
theorem word_eq_minInt_iff (x : Word) : x = 0x8000000000000000#64 ↔ x.toInt = -2 ^ 63 := BitVec.toInt_inj.symm
theorem word_eq_minusOne_iff (y : Word) : y = 0xFFFFFFFFFFFFFFFF#64 ↔ y.toInt = -1 := BitVec.toInt_inj.symm

theorem divU_eq (x y : Word) :
    divU x y = if y.toNat = 0 then 0xFFFFFFFFFFFFFFFF#64 else BitVec.ofNat 64 (x.toNat / y.toNat) := by
  simp only [divU, word_eq_zero_iff]

theorem remU_eq (x y : Word) :
    remU x y = if y.toNat = 0 then 0xFFFFFFFFFFFFFFFF#64
      else BitVec.ofNat 64 (x.toNat - y.toNat * (x.toNat / y.toNat)) := by
  simp only [remU, word_eq_zero_iff, Nat.mod_eq_sub_mul_div]

theorem remS_eq (x y : Word) :
    remS x y = if y.toInt = 0 then 0xFFFFFFFFFFFFFFFF#64
      else if x.toInt = -2 ^ 63 ∧ y.toInt = -1 then 0
      else BitVec.ofInt 64 (x.toInt - y.toInt * x.toInt.tdiv y.toInt) := by
  simp only [remS, wordOfInt, Bool.and_eq_true, decide_eq_true_eq, word_eq_zero_iff_toInt, word_eq_minInt_iff,
    word_eq_minusOne_iff, Int.tmod_def]

/-- The results of DIVS: the quotient, and the saturation bit of CIR where -2^63 / -1 saturates (R106). -/
theorem divS_results (d : Nat) (x y : Word) :
    .scal d (divS x y).1 :: cirRes (if (divS x y).2 then 4 else 0) =
      if y.toInt = 0 then [.scal d 0x8000000000000000#64]
      else if x.toInt = -2 ^ 63 ∧ y.toInt = -1 then [.scal d 0x7FFFFFFFFFFFFFFF#64, .cir 4]
      else [.scal d (BitVec.ofInt 64 (x.toInt.tdiv y.toInt))] := by
  simp only [divS, wordOfInt, Bool.and_eq_true, decide_eq_true_eq, word_eq_zero_iff_toInt, word_eq_minInt_iff,
    word_eq_minusOne_iff]
  split
  · rfl
  · split <;> rfl

/-- The field that R108 describes: the width at [12:6], cut at bit 63. -/
theorem fieldWidth_eq (y : Word) : fieldWidth y = min (y.toNat / 64 % 128) (64 - y.toNat % 64) := by
  simp [fieldWidth, bitsN, Nat.shiftRight_eq_div_pow]

theorem testBit_bitsN (x lo n j : Nat) : (bitsN x lo n).testBit j = (decide (j < n) && x.testBit (lo + j)) := by
  simp [bitsN, Nat.testBit_mod_two_pow]

theorem testBit_setBits (x lo n v j : Nat) :
    (setBits x lo n v).testBit j = if lo ≤ j ∧ j < lo + n then v.testBit (j - lo) else x.testBit j := by
  have hlow : x % 2 ^ lo < 2 ^ lo := Nat.mod_lt _ (Nat.two_pow_pos _)
  have hmid : 2 ^ lo * (v % 2 ^ n) + x % 2 ^ lo < 2 ^ (lo + n) := by
    have hv : v % 2 ^ n + 1 ≤ 2 ^ n := Nat.mod_lt _ (Nat.two_pow_pos _)
    calc 2 ^ lo * (v % 2 ^ n) + x % 2 ^ lo < 2 ^ lo * (v % 2 ^ n) + 2 ^ lo := Nat.add_lt_add_left hlow _
      _ = 2 ^ lo * (v % 2 ^ n + 1) := (Nat.mul_succ ..).symm
      _ ≤ 2 ^ lo * 2 ^ n := Nat.mul_le_mul_left _ hv
      _ = 2 ^ (lo + n) := (Nat.pow_add ..).symm
  have hsum : setBits x lo n v = 2 ^ (lo + n) * (x >>> (lo + n)) + (2 ^ lo * (v % 2 ^ n) + x % 2 ^ lo) := by
    rw [setBits, Nat.shiftLeft_eq, Nat.shiftLeft_eq, Nat.mul_comm _ (2 ^ lo), Nat.mul_comm _ (2 ^ (lo + n)),
      Nat.add_comm (x % 2 ^ lo), Nat.add_comm]
  rw [hsum, Nat.testBit_two_pow_mul_add _ hmid, Nat.testBit_two_pow_mul_add _ hlow]
  by_cases h1 : j < lo
  · simp [h1, show j < lo + n by omega, show ¬lo ≤ j by omega, Nat.testBit_mod_two_pow]
  · by_cases h2 : j < lo + n
    · simp [h1, h2, show lo ≤ j by omega, show j - lo < n by omega, Nat.testBit_mod_two_pow]
    · simp [h2, show lo + n + (j - (lo + n)) = j by omega]

theorem getLsbD_bfxOf (x y : Word) {j : Nat} (hj : j < 64) :
    (bfxOf x y).getLsbD j = (decide (j < fieldWidth y) && x.getLsbD (y.toNat % 64 + j)) := by
  simp only [bfxOf, BitVec.getLsbD_ofNat, testBit_bitsN, BitVec.testBit_toNat, hj, decide_true, Bool.true_and]

theorem getLsbD_bfiOf (old x y : Word) {j : Nat} (hj : j < 64) :
    (bfiOf old x y).getLsbD j =
      if y.toNat % 64 ≤ j ∧ j < y.toNat % 64 + fieldWidth y then x.getLsbD (j - y.toNat % 64) else old.getLsbD j := by
  simp only [bfiOf, BitVec.getLsbD_ofNat, testBit_setBits, BitVec.testBit_toNat, hj, decide_true, Bool.true_and]

/-- A number of m bits has n leading zeros where the n high ones are zero and the next, if any, is one. -/
theorem clzAux_eq (x : Nat) : ∀ m n : Nat, n ≤ m → (∀ j, m - n ≤ j → j < m → x.testBit j = false) →
    (n < m → x.testBit (m - 1 - n) = true) → clzAux m x = n
  | 0, n, hn, _, _ => by
    rw [Nat.le_zero.1 hn]
    rfl
  | m + 1, 0, _, _, hone => by
    have hb : x.testBit m = true := hone (Nat.succ_pos m)
    rw [clzAux, bitN, if_pos hb]
  | m + 1, n + 1, hn, hz, hone => by
    have hb : x.testBit m = false := hz m (by omega) (Nat.lt_succ_self m)
    have ih : clzAux m x = n :=
      clzAux_eq x m n (by omega) (fun j h1 h2 => hz j (by omega) (by omega)) fun h => by
        rw [show m - 1 - n = m + 1 - 1 - (n + 1) by omega]
        exact hone (by omega)
    rw [clzAux, bitN, if_neg (Bool.eq_false_iff.1 hb), ih, Nat.add_comm]

/-- The one bits among the low n, counted. -/
theorem popAux_eq (n : Nat) : ∀ x : Nat, popAux n x = ((List.range n).filter fun j => x.testBit j).length := by
  induction n with
  | zero => intro x; rfl
  | succ n ih =>
    intro x
    have hshift : (fun j => (x >>> 1).testBit j) = (fun j => x.testBit j) ∘ Nat.succ := by
      funext j
      simp [Nat.testBit_shiftRight, Nat.add_comm]
    rw [popAux, ih, List.range_succ_eq_map, List.filter_cons, List.filter_map, hshift]
    by_cases hb : x.testBit 0 = true
    · rw [bitN, if_pos hb, if_pos hb, List.length_cons, List.length_map, Nat.add_comm]
    · rw [bitN, if_neg hb, if_neg hb, List.length_map, Nat.zero_add]

/-! How the shapes of scalar words issue. -/

theorem runWord_alu (s : State) (i : Instr) (h : Hdr) (cls : Nat) (d a b : BitVec 5) (f : Word → Word → Word)
    (k : s.Issues i h) : runWord i h (alu cls d a b f) s =
      .next (s.gives i h cls [.scal d.toNat (f (s.me.sreg a.toNat) (s.me.sreg b.toNat))]) := by
  rw [alu, runWord_compute s i h _ _ _ k, taken_me]

theorem runWord_alu1 (s : State) (i : Instr) (h : Hdr) (d a : BitVec 5) (f : Word → Word)
    (k : s.Issues i h) : runWord i h (alu1 d a f) s =
      .next (s.gives i h 0 [.scal d.toNat (f (s.me.sreg a.toNat))]) := by
  rw [alu1, runWord_compute s i h _ _ _ k, taken_me]

theorem runWord_predWord (s : State) (i : Instr) (h : Hdr) (d a b : BitVec 3) (f : Bool → Bool → Bool)
    (k : s.Issues i h) : runWord i h (predWord d a b f) s =
      .next (s.gives i h 0 [.pred d.toNat (f (s.me.preg a.toNat) (s.me.preg b.toNat))]) := by
  rw [predWord, runWord_compute s i h _ _ _ k, taken_me]

theorem exec_divs (s : State) (h : Hdr) (d a b : BitVec 5) (k : s.Issues (.divs h d a b) h) :
    exec (.divs h d a b) s = .next (s.gives (.divs h d a b) h 2
      (.scal d.toNat (divS (s.me.sreg a.toNat) (s.me.sreg b.toNat)).1 ::
        cirRes (if (divS (s.me.sreg a.toNat) (s.me.sreg b.toNat)).2 then 4 else 0))) :=
  (runWord_compute s _ h _ _ _ k).trans (by rw [taken_me])

theorem exec_bfi (s : State) (h : Hdr) (d a b : BitVec 5) (k : s.Issues (.bfi h d a b) h) :
    exec (.bfi h d a b) s = .next (s.gives (.bfi h d a b) h 0
      [.scal d.toNat (bfiOf (s.me.sreg d.toNat) (s.me.sreg a.toNat) (s.me.sreg b.toNat))]) :=
  (runWord_compute s _ h _ _ _ k).trans (by rw [taken_me])

/-! One result in flight (R26). -/

theorem modClu_congr (s : State) (k : Who) (f g : Cluster → Cluster) (h : f (s.clu k) = g (s.clu k)) :
    s.modClu k f = s.modClu k g := by
  refine modCtx_congr _ _ _ _ ?_
  unfold Ctx.modClu
  rw [show f ((s.ctxOf k).clu k.clu) = g ((s.ctxOf k).clu k.clu) from h]

/-- A cluster's only flight stays in the delay line before its sc. -/
theorem landDue_early (s : State) (k : Who) (f : Flight) (hdl : (s.clu k).dl = [f])
    (hd : f.due (s.clu k).sc = false) : s.landDue k = s := by
  simp [State.landDue, State.landBy, hdl, hd]

/-- From its sc on its results land, in their order, and leave the delay line empty. -/
theorem landDue_only (s : State) (k : Who) (f : Flight) (hdl : (s.clu k).dl = [f])
    (hd : f.due (s.clu k).sc = true) :
    s.landDue k = f.res.foldl (State.land k) (s.modClu k fun c => { c with dl := [] }) := by
  have hleft : linesLeft (s.clu k).dl (s.clu k).sc = [] := by simp [linesLeft, hdl, hd]
  have hempty : (s.modClu k fun c => { c with dl := linesLeft c.dl (s.clu k).sc }) =
      s.modClu k fun c => { c with dl := [] } :=
    modClu_congr s k _ _ (by rw [hleft])
  simp [State.landDue, State.landBy, hdl, hd, byVis, Flight.among, hempty]

theorem land_rmode (s : State) (k : Who) (v : Word) :
    State.land k s (.spec 1 v) = s.modClu k fun c => { c with rmode := v.truncate 2 } := rfl
theorem land_seed (s : State) (k : Who) (v : Word) :
    State.land k s (.spec 2 v) = s.modClu k fun c => { c with seed := v } := rfl
theorem land_stream (s : State) (k : Who) (v : Word) :
    State.land k s (.spec 3 v) = s.modClu k fun c => { c with stream := v.truncate 32 } := rfl
theorem land_ctr (s : State) (k : Who) (v : Word) :
    State.land k s (.spec 4 v) = s.modClu k fun c => { c with ctr := v } := rfl

/-! SETRM and SEED (R126, R127). -/

theorem exec_setrm (s : State) (h : Hdr) (m : BitVec 2) (k : s.Issues (.setrm h m) h) :
    exec (.setrm h m) s = .next (s.issued (.setrm h m) h .latency
      ((s.taken h).laterN 1 [.spec 1 (m.zeroExtend 64)]) .seq) :=
  runWord_done s _ h _ _ _ k rfl

theorem exec_seed (s : State) (h : Hdr) (a b : BitVec 5) (k : s.Issues (.seed h a b) h)
    (hb : (s.me.sreg b.toNat).toNat < 2 ^ 32) :
    exec (.seed h a b) s = .next (s.issued (.seed h a b) h .latency
      ((s.taken h).laterN 1 [.spec 2 (s.me.sreg a.toNat), .spec 3 (s.me.sreg b.toNat), .spec 4 0]) .seq) :=
  runWord_done s _ h _ _ _ k (by simpa [meaning] using hb)

theorem exec_seed_fault (s : State) (h : Hdr) (a b : BitVec 5) (k : s.Issues (.seed h a b) h)
    (hb : 2 ^ 32 ≤ (s.me.sreg b.toNat).toNat) : exec (.seed h a b) s = .next (s.precise { code := fIllegalWord }) :=
  runWord_fault s _ h _ _ k (by simpa [meaning] using hb)

/-- A flight that SETRM or SEED puts into flight in sc n is due from sc n + 1 on. -/
theorem due_nextSc (n sc cls : Nat) (res : List Res) :
    Flight.due sc ⟨n + 1, n + 1, res, cls⟩ = decide (n + 1 ≤ sc) := by
  simp [Flight.due]

theorem setrm_lands (s : State) (k : Who) (m : BitVec 2) (n : Nat)
    (hdl : (s.clu k).dl = [⟨n + 1, n + 1, [.spec 1 (m.zeroExtend 64)], 31⟩]) (hsc : (s.clu k).sc = n + 1) :
    ((s.landDue k).clu k).rmode = m ∧ ((s.landDue k).clu k).dl = [] := by
  rw [landDue_only s k _ hdl (by simp [due_nextSc, hsc])]
  simp [land_rmode]

/-- The generator of the landing cluster is set, every other cluster is as it was. -/
theorem seed_lands (s : State) (k : Who) (x y : Word) (n : Nat)
    (hdl : (s.clu k).dl = [⟨n + 1, n + 1, [.spec 2 x, .spec 3 y, .spec 4 0], 31⟩]) (hsc : (s.clu k).sc = n + 1) :
    (s.landDue k).clu k = { s.clu k with dl := [], seed := x, stream := y.truncate 32, ctr := 0 } ∧
      ∀ j, j ≠ k → (s.landDue k).clu j = s.clu j := by
  rw [landDue_only s k _ hdl (by simp [due_nextSc, hsc])]
  simp only [List.foldl_cons, List.foldl_nil, land_seed, land_stream, land_ctr]
  exact ⟨by simp, fun j hj => by simp [clu_modClu_other _ _ _ _ hj]⟩

theorem decode_setrm {w : W32} (hu : w.fld 29 3 = 0) (hop : w.fld 15 7 = 0x4A) :
    (w.fld 2 13 ≠ 0 → decodeGroup [w] = .error .unusedBits) ∧
    (w.fld 2 13 = 0 → decodeGroup [w] = .ok (.setrm (decodeHdr w) (w.fld 0 2), 1)) := by
  have row : decodeSC (decodeHdr w) none none w = needZero w 0x7FFC (.setrm (decodeHdr w) (w.fld 0 2)) := by
    unfold decodeSC; rw [hop]; rfl
  exact decodeGroup_unusedField hu row (unused_setrm w)

theorem decode_seed {w : W32} (hu : w.fld 29 3 = 0) (hop : w.fld 15 7 = 0x4B) :
    (w.fld 10 5 ≠ 0 → decodeGroup [w] = .error .unusedBits) ∧
    (w.fld 10 5 = 0 → decodeGroup [w] = .ok (.seed (decodeHdr w) (w.fld 5 5) (w.fld 0 5), 1)) := by
  have row : decodeSC (decodeHdr w) none none w = needZero w 0x7C00 (.seed (decodeHdr w) (w.fld 5 5) (w.fld 0 5)) := by
    unfold decodeSC; rw [hop]; rfl
  exact decodeGroup_unusedField hu row (unused_seed w)

/-- Settles O58: SETRM and SEED put their results 1 sc into flight, and a cluster's only flight lands in its sc. -/
theorem seedsAndRoundingModesAreSet : Obligations.SeedsAndRoundingModesAreSet := by
  intro s k h a b m x y n w
  have early (res : List Res) (hdl : (s.clu k).dl = [⟨n + 1, n + 1, res, 31⟩]) (hsc : (s.clu k).sc ≤ n) :
      s.landDue k = s := landDue_early s k _ hdl (by
    rw [due_nextSc]
    exact decide_eq_false (Nat.not_le.2 (Nat.lt_succ_of_le hsc)))
  refine ⟨exec_setrm s h m, exec_seed s h a b, exec_seed_fault s h a b,
    fun hdl => ⟨early _ hdl, setrm_lands s k m n hdl⟩, fun hdl => ⟨early _ hdl, fun hsc => ?_⟩,
    fun hu hop => (decode_setrm hu hop).1, fun hu hop => (decode_seed hu hop).1,
    fun hu hop => (decode_setrm hu hop).2, fun hu hop => (decode_seed hu hop).2⟩
  obtain ⟨hme, hothers⟩ := seed_lands s k x y n hdl hsc
  rw [hme]
  exact ⟨rfl, rfl, rfl, fun j hj => by rw [hothers j hj]; exact ⟨rfl, rfl, rfl⟩⟩

/-! Divisions and bit fields (R106, R108). -/

theorem exec_bfx_bits (s : State) (h : Hdr) (d a b : BitVec 5) (v : Word) (k : s.Issues (.bfx h d a b) h)
    (hv : ∀ j, j < 64 → v.getLsbD j = (decide (j < fieldWidth (s.me.sreg b.toNat)) &&
      (s.me.sreg a.toNat).getLsbD ((s.me.sreg b.toNat).toNat % 64 + j))) :
    exec (.bfx h d a b) s = .next (s.gives (.bfx h d a b) h 0 [.scal d.toNat v]) := by
  have e : v = bfxOf (s.me.sreg a.toNat) (s.me.sreg b.toNat) :=
    BitVec.eq_of_getLsbD_eq fun j hj => by rw [hv j hj, getLsbD_bfxOf _ _ hj]
  rw [e]
  exact runWord_alu s _ h 0 d a b bfxOf k

theorem exec_bfi_bits (s : State) (h : Hdr) (d a b : BitVec 5) (v : Word) (k : s.Issues (.bfi h d a b) h)
    (hv : ∀ j, j < 64 → v.getLsbD j =
      if (s.me.sreg b.toNat).toNat % 64 ≤ j ∧
          j < (s.me.sreg b.toNat).toNat % 64 + fieldWidth (s.me.sreg b.toNat) then
        (s.me.sreg a.toNat).getLsbD (j - (s.me.sreg b.toNat).toNat % 64)
      else (s.me.sreg d.toNat).getLsbD j) :
    exec (.bfi h d a b) s = .next (s.gives (.bfi h d a b) h 0 [.scal d.toNat v]) := by
  have e : v = bfiOf (s.me.sreg d.toNat) (s.me.sreg a.toNat) (s.me.sreg b.toNat) :=
    BitVec.eq_of_getLsbD_eq fun j hj => by rw [hv j hj, getLsbD_bfiOf _ _ _ hj]
  rw [e]
  exact exec_bfi s h d a b k

/-- The rows of the divisions and bit fields use every bit. -/
theorem decode_divisionsAndFields {w : W32} (hu : w.fld 29 3 = 0) :
    (w.fld 15 7 = 0x06 → decodeGroup [w] = .ok (.divs (decodeHdr w) (w.fld 10 5) (w.fld 5 5) (w.fld 0 5), 1)) ∧
    (w.fld 15 7 = 0x07 → decodeGroup [w] = .ok (.divn (decodeHdr w) (w.fld 10 5) (w.fld 5 5) (w.fld 0 5), 1)) ∧
    (w.fld 15 7 = 0x08 → decodeGroup [w] = .ok (.rems (decodeHdr w) (w.fld 10 5) (w.fld 5 5) (w.fld 0 5), 1)) ∧
    (w.fld 15 7 = 0x09 → decodeGroup [w] = .ok (.remn (decodeHdr w) (w.fld 10 5) (w.fld 5 5) (w.fld 0 5), 1)) ∧
    (w.fld 15 7 = 0x18 → decodeGroup [w] = .ok (.bfx (decodeHdr w) (w.fld 10 5) (w.fld 5 5) (w.fld 0 5), 1)) ∧
    (w.fld 15 7 = 0x19 → decodeGroup [w] = .ok (.bfi (decodeHdr w) (w.fld 10 5) (w.fld 5 5) (w.fld 0 5), 1)) := by
  have full {i : Instr} (row : decodeSC (decodeHdr w) none none w = needZero w 0x0000 i) :
      decodeGroup [w] = .ok (i, 1) := decodeGroup_ok hu row BitVec.and_zero
  refine ⟨?_, ?_, ?_, ?_, ?_, ?_⟩ <;> exact fun hop => full (by unfold decodeSC; rw [hop]; rfl)

/-- Settles O59: each word computes the model's operation, whose value is that of its rule. -/
theorem divisionsAndBitFieldsFollowTheirRules : Obligations.DivisionsAndBitFieldsFollowTheirRules := by
  intro s h d a b w v x y pos len
  have hlen : fieldWidth y = len := fieldWidth_eq y
  refine ⟨fun k => ?_, fun k => ?_, fun k => ?_, fun k => ?_, fun k hv => ?_, fun k hv => ?_,
    decode_divisionsAndFields⟩
  · rw [← divU_eq]
    exact runWord_alu s _ h 2 d a b divU k
  · rw [← remU_eq]
    exact runWord_alu s _ h 2 d a b remU k
  · rw [← divS_results]
    exact exec_divs s h d a b k
  · rw [← remS_eq]
    exact runWord_alu s _ h 2 d a b remS k
  · exact exec_bfx_bits s h d a b v k (by rw [hlen]; exact hv)
  · exact exec_bfi_bits s h d a b v k (by rw [hlen]; exact hv)

/-! Counts and predicates (R107, R113). -/

theorem exec_clz_bits (s : State) (h : Hdr) (d a : BitVec 5) (n : Nat) (k : s.Issues (.clz h d a) h) (hn : n ≤ 64)
    (hz : ∀ j, 64 - n ≤ j → j < 64 → (s.me.sreg a.toNat).getLsbD j = false)
    (hone : n < 64 → (s.me.sreg a.toNat).getLsbD (63 - n) = true) :
    exec (.clz h d a) s = .next (s.gives (.clz h d a) h 0 [.scal d.toNat (BitVec.ofNat 64 n)]) := by
  rw [← clzAux_eq (s.me.sreg a.toNat).toNat 64 n hn hz hone]
  exact runWord_alu1 s _ h d a (fun x => BitVec.ofNat 64 (clzAux 64 x.toNat)) k

theorem exec_popc_bits (s : State) (h : Hdr) (d a : BitVec 5) (k : s.Issues (.popc h d a) h) :
    exec (.popc h d a) s = .next (s.gives (.popc h d a) h 0 [.scal d.toNat
      (BitVec.ofNat 64 ((List.range 64).filter fun j => (s.me.sreg a.toNat).getLsbD j).length)]) := by
  have e : popAux 64 (s.me.sreg a.toNat).toNat =
      ((List.range 64).filter fun j => (s.me.sreg a.toNat).getLsbD j).length := popAux_eq 64 _
  rw [← e]
  exact runWord_alu1 s _ h d a (fun x => BitVec.ofNat 64 (popAux 64 x.toNat)) k

theorem exec_pxor (s : State) (h : Hdr) (d a b : BitVec 3) (k : s.Issues (.pxor h d a b) h) :
    exec (.pxor h d a b) s = .next (s.gives (.pxor h d a b) h 0
      [.pred d.toNat (s.me.preg a.toNat != s.me.preg b.toNat)]) := by
  exact runWord_predWord s _ h d a b (· ^^ ·) k

theorem decode_pred {w : W32} {i : Instr} (hu : w.fld 29 3 = 0)
    (row : decodeSC (decodeHdr w) none none w = needZero w 0x6318 i) :
    (w.fld 13 2 = 0 → w.fld 8 2 = 0 → w.fld 3 2 = 0 → decodeGroup [w] = .ok (i, 1)) ∧
    (w.fld 13 2 ≠ 0 ∨ w.fld 8 2 ≠ 0 ∨ w.fld 3 2 ≠ 0 → decodeGroup [w] = .error .unusedBits) := by
  refine ⟨fun h1 h2 h3 => decodeGroup_ok hu row ((unused_pred w).2 ⟨h1, h2, h3⟩),
    fun hz => decodeGroup_unused hu row fun e => ?_⟩
  obtain ⟨h1, h2, h3⟩ := (unused_pred w).1 e
  obtain hz | hz | hz := hz
  · exact hz h1
  · exact hz h2
  · exact hz h3

section Rows
variable {w : W32}

theorem row_pand (hop : w.fld 15 7 = 0x2A) : decodeSC (decodeHdr w) none none w =
    needZero w 0x6318 (.pand (decodeHdr w) (w.fld 10 3) (w.fld 5 3) (w.fld 0 3)) := by
  unfold decodeSC; rw [hop]; rfl
theorem row_por (hop : w.fld 15 7 = 0x2B) : decodeSC (decodeHdr w) none none w =
    needZero w 0x6318 (.por (decodeHdr w) (w.fld 10 3) (w.fld 5 3) (w.fld 0 3)) := by
  unfold decodeSC; rw [hop]; rfl
theorem row_pxor (hop : w.fld 15 7 = 0x2C) : decodeSC (decodeHdr w) none none w =
    needZero w 0x6318 (.pxor (decodeHdr w) (w.fld 10 3) (w.fld 5 3) (w.fld 0 3)) := by
  unfold decodeSC; rw [hop]; rfl
theorem row_clz (hop : w.fld 15 7 = 0x16) : decodeSC (decodeHdr w) none none w =
    needZero w 0x001F (.clz (decodeHdr w) (w.fld 10 5) (w.fld 5 5)) := by
  unfold decodeSC; rw [hop]; rfl
theorem row_popc (hop : w.fld 15 7 = 0x17) : decodeSC (decodeHdr w) none none w =
    needZero w 0x001F (.popc (decodeHdr w) (w.fld 10 5) (w.fld 5 5)) := by
  unfold decodeSC; rw [hop]; rfl

end Rows

/-- Settles O60: each word computes the model's count or operation on predicates, and its row leaves the named bits
unused. -/
theorem countsAndPredicatesFollowTheirRules : Obligations.CountsAndPredicatesFollowTheirRules := by
  intro s h d a dp ap bp n w x
  refine ⟨exec_clz_bits s h d a n, ?_, fun k => runWord_predWord s _ h dp ap bp (· && ·) k,
    fun k => runWord_predWord s _ h dp ap bp (· || ·) k, exec_pxor s h dp ap bp, ?_, ?_, ?_, ?_, ?_⟩
  · rintro k rfl
    exact exec_popc_bits s h d a k
  · intro k
    have inverts : (!s.me.preg ap.toNat) = (s.me.preg ap.toNat != s.me.preg (0 : BitVec 3).toNat) := by
      exact (Bool.true_xor _).symm.trans (Bool.xor_comm ..)
    rw [inverts]
    exact exec_pxor s h dp ap 0 k
  · exact fun hu h1 h2 h3 => ⟨fun hop => (decode_pred hu (row_pand hop)).1 h1 h2 h3,
      fun hop => (decode_pred hu (row_por hop)).1 h1 h2 h3, fun hop => (decode_pred hu (row_pxor hop)).1 h1 h2 h3⟩
  · exact fun hu hz => ⟨fun hop => (decodeGroup_unusedField hu (row_clz hop) (unused_count w)).2 hz,
      fun hop => (decodeGroup_unusedField hu (row_popc hop) (unused_count w)).2 hz⟩
  · rintro hu (hop | hop | hop)
    · exact (decode_pred hu (row_pand hop)).2
    · exact (decode_pred hu (row_por hop)).2
    · exact (decode_pred hu (row_pxor hop)).2
  · rintro hu (hop | hop)
    · exact (decodeGroup_unusedField hu (row_clz hop) (unused_count w)).1
    · exact (decodeGroup_unusedField hu (row_popc hop) (unused_count w)).1

end Sys2Proof.Machine

end

section
/-! Encoding (R62 to R79, R82): a group that the encoder writes decodes to its instruction. -/

namespace Sys2Proof

/-- A word that decodes is no leading word: unit 7 holds none but IMM and MOD. -/
theorem unit_of_decodeWord {x : Option ImmF} {md : Option ModF} {w : W32} {i : Instr}
    (h : decodeWord x md w = .ok i) : (w.fld 29 3).toNat ≠ 7 := by
  intro e
  unfold decodeWord at h
  simp [e] at h

/-- The unit is the upper part of the four bits that mark a leading word. -/
theorem toNat_unit (w : W32) : (w.fld 29 3).toNat = (w.fld 28 4).toNat / 2 := by
  rw [W32.fld_unit]
  simp [Nat.shiftRight_eq_div_pow]
  omega

theorem isImm_of_decodeWord {x : Option ImmF} {md : Option ModF} {w : W32} {i : Instr}
    (h : decodeWord x md w = .ok i) : w.isImm = false := by
  refine beq_eq_false_iff_ne.2 fun e => unit_of_decodeWord h ?_
  rw [toNat_unit, e]; rfl

theorem isMod_of_decodeWord {x : Option ImmF} {md : Option ModF} {w : W32} {i : Instr}
    (h : decodeWord x md w = .ok i) : w.isMod = false := by
  refine beq_eq_false_iff_ne.2 fun e => unit_of_decodeWord h ?_
  rw [toNat_unit, e]; rfl

/-! The leading words read back (Tables 3.4, 3.5). -/

@[simp] theorem isImm_encodeImm (x : ImmF) : (encodeImm x).isImm = true := by
  show (BitVec.extractLsb' 28 4 (0xE#4 ++ x) == 0xE#4) = true
  rw [BitVec.extractLsb'_append_eq_of_le (by decide)]
  rfl

@[simp] theorem fld_encodeImm (x : ImmF) : (encodeImm x).fld 0 28 = x := by
  show BitVec.extractLsb' 0 28 (0xE#4 ++ x) = x
  simp (disch := decide) only [BitVec.extractLsb'_append_eq_of_add_le, BitVec.extractLsb'_eq_self]

theorem lead_encodeMod (m : ModF) : (encodeMod m).fld 28 4 = 0xF#4 := by
  unfold encodeMod
  simp (disch := decide) only [BitVec.extractLsb'_append_eq_of_le, BitVec.extractLsb'_eq_self, Nat.reduceSub]

@[simp] theorem isImm_encodeMod (m : ModF) : (encodeMod m).isImm = false := by
  unfold W32.isImm; rw [lead_encodeMod]; rfl

@[simp] theorem isMod_encodeMod (m : ModF) : (encodeMod m).isMod = true := by
  unfold W32.isMod; rw [lead_encodeMod]; rfl

@[simp] theorem decodeMod_encodeMod (m : ModF) : decodeMod (encodeMod m) = .ok m := by
  have unused : encodeMod m &&& 0x7FFFF = 0#32 := by
    show (0xF#4 ++ m.km ++ m.z ++ m.sat ++ m.ro ++ m.rm ++ 0#19) &&&
      (0#4 ++ 0#3 ++ 0#1 ++ 0#1 ++ 0#2 ++ 0#2 ++ 0x7FFFF#19) = 0#32
    simp only [BitVec.and_append, BitVec.and_zero, BitVec.zero_and]
    rfl
  unfold decodeMod
  rw [if_pos unused]
  unfold encodeMod
  simp (disch := decide) only [BitVec.extractLsb'_append_eq_of_le, BitVec.extractLsb'_append_eq_of_add_le,
    BitVec.extractLsb'_eq_self, Nat.reduceSub]

/-- Every instruction has what its encoding owes, by its own lemma. -/
theorem encoding_statement : ∀ i : Instr, Laws.Encoding.Statement i
  | .nop .. => Laws.Encoding.nop ..
  | .add .. => Laws.Encoding.add ..
  | .sub .. => Laws.Encoding.sub ..
  | .mul .. => Laws.Encoding.mul ..
  | .mulhs .. => Laws.Encoding.mulhs ..
  | .mulhn .. => Laws.Encoding.mulhn ..
  | .divs .. => Laws.Encoding.divs ..
  | .divn .. => Laws.Encoding.divn ..
  | .rems .. => Laws.Encoding.rems ..
  | .remn .. => Laws.Encoding.remn ..
  | .and .. => Laws.Encoding.and ..
  | .or .. => Laws.Encoding.or ..
  | .xor .. => Laws.Encoding.xor ..
  | .andn .. => Laws.Encoding.andn ..
  | .shl .. => Laws.Encoding.shl ..
  | .shr .. => Laws.Encoding.shr ..
  | .sha .. => Laws.Encoding.sha ..
  | .rol .. => Laws.Encoding.rol ..
  | .min .. => Laws.Encoding.min ..
  | .max .. => Laws.Encoding.max ..
  | .minn .. => Laws.Encoding.minn ..
  | .maxn .. => Laws.Encoding.maxn ..
  | .clz .. => Laws.Encoding.clz ..
  | .popc .. => Laws.Encoding.popc ..
  | .bfx .. => Laws.Encoding.bfx ..
  | .bfi .. => Laws.Encoding.bfi ..
  | .addi .. => Laws.Encoding.addi ..
  | .shli .. => Laws.Encoding.shli ..
  | .shri .. => Laws.Encoding.shri ..
  | .shai .. => Laws.Encoding.shai ..
  | .andi .. => Laws.Encoding.andi ..
  | .li .. => Laws.Encoding.li ..
  | .lih .. => Laws.Encoding.lih ..
  | .mov .. => Laws.Encoding.mov ..
  | .cmov .. => Laws.Encoding.cmov ..
  | .cmpeq .. => Laws.Encoding.cmpeq ..
  | .cmpne .. => Laws.Encoding.cmpne ..
  | .cmplt .. => Laws.Encoding.cmplt ..
  | .cmple .. => Laws.Encoding.cmple ..
  | .cmpltn .. => Laws.Encoding.cmpltn ..
  | .cmplen .. => Laws.Encoding.cmplen ..
  | .pand .. => Laws.Encoding.pand ..
  | .por .. => Laws.Encoding.por ..
  | .pxor .. => Laws.Encoding.pxor ..
  | .br .. => Laws.Encoding.br ..
  | .jmp .. => Laws.Encoding.jmp ..
  | .jmpr .. => Laws.Encoding.jmpr ..
  | .call .. => Laws.Encoding.call ..
  | .ret .. => Laws.Encoding.ret ..
  | .loop .. => Laws.Encoding.loop ..
  | .loopi .. => Laws.Encoding.loopi ..
  | .loopp .. => Laws.Encoding.loopp ..
  | .brkl .. => Laws.Encoding.brkl ..
  | .endStream .. => Laws.Encoding.endStream ..
  | .tail .. => Laws.Encoding.tail ..
  | .post .. => Laws.Encoding.post ..
  | .await .. => Laws.Encoding.await ..
  | .postg .. => Laws.Encoding.postg ..
  | .bar .. => Laws.Encoding.bar ..
  | .fence .. => Laws.Encoding.fence ..
  | .rds .. => Laws.Encoding.rds ..
  | .wrs .. => Laws.Encoding.wrs ..
  | .setrm .. => Laws.Encoding.setrm ..
  | .seed .. => Laws.Encoding.seed ..
  | .view .. => Laws.Encoding.view ..
  | .mark .. => Laws.Encoding.mark ..
  | .markq .. => Laws.Encoding.markq ..
  | .trap .. => Laws.Encoding.trap ..
  | .bkpt .. => Laws.Encoding.bkpt ..
  | .aadd .. => Laws.Encoding.aadd ..
  | .aaddi .. => Laws.Encoding.aaddi ..
  | .asub .. => Laws.Encoding.asub ..
  | .amov .. => Laws.Encoding.amov ..
  | .ali .. => Laws.Encoding.ali ..
  | .amode .. => Laws.Encoding.amode ..
  | .abase .. => Laws.Encoding.abase ..
  | .ainc .. => Laws.Encoding.ainc ..
  | .ldq .. => Laws.Encoding.ldq ..
  | .ldqx .. => Laws.Encoding.ldqx ..
  | .lds .. => Laws.Encoding.lds ..
  | .ldb .. => Laws.Encoding.ldb ..
  | .stq .. => Laws.Encoding.stq ..
  | .stqx .. => Laws.Encoding.stqx ..
  | .ldm .. => Laws.Encoding.ldm ..
  | .stm .. => Laws.Encoding.stm ..
  | .rmerge .. => Laws.Encoding.rmerge ..
  | .mbput .. => Laws.Encoding.mbput ..
  | .mbget .. => Laws.Encoding.mbget ..
  | .ldg .. => Laws.Encoding.ldg ..
  | .stg .. => Laws.Encoding.stg ..
  | .ldgx .. => Laws.Encoding.ldgx ..
  | .stgx .. => Laws.Encoding.stgx ..
  | .pfg .. => Laws.Encoding.pfg ..
  | .ldl .. => Laws.Encoding.ldl ..
  | .stu .. => Laws.Encoding.stu ..
  | .atomg .. => Laws.Encoding.atomg ..
  | .casg .. => Laws.Encoding.casg ..
  | .fadd .. => Laws.Encoding.fadd ..
  | .fsub .. => Laws.Encoding.fsub ..
  | .fmul .. => Laws.Encoding.fmul ..
  | .fma .. => Laws.Encoding.fma ..
  | .fms .. => Laws.Encoding.fms ..
  | .fnma .. => Laws.Encoding.fnma ..
  | .fdiv .. => Laws.Encoding.fdiv ..
  | .fsqrt .. => Laws.Encoding.fsqrt ..
  | .fcvt .. => Laws.Encoding.fcvt ..
  | .fmin .. => Laws.Encoding.fmin ..
  | .fmax .. => Laws.Encoding.fmax ..
  | .fabs .. => Laws.Encoding.fabs ..
  | .fneg .. => Laws.Encoding.fneg ..
  | .fcmpeq .. => Laws.Encoding.fcmpeq ..
  | .fcmplt .. => Laws.Encoding.fcmplt ..
  | .fcmple .. => Laws.Encoding.fcmple ..
  | .fclass .. => Laws.Encoding.fclass ..
  | .frcp .. => Laws.Encoding.frcp ..
  | .frsq .. => Laws.Encoding.frsq ..
  | .fexp2 .. => Laws.Encoding.fexp2 ..
  | .flog2 .. => Laws.Encoding.flog2 ..
  | .ftanh .. => Laws.Encoding.ftanh ..
  | .fsigm .. => Laws.Encoding.fsigm ..
  | .fsin .. => Laws.Encoding.fsin ..
  | .fcos .. => Laws.Encoding.fcos ..
  | .iadd .. => Laws.Encoding.iadd ..
  | .isub .. => Laws.Encoding.isub ..
  | .imul .. => Laws.Encoding.imul ..
  | .imulh .. => Laws.Encoding.imulh ..
  | .imad .. => Laws.Encoding.imad ..
  | .imin .. => Laws.Encoding.imin ..
  | .imax .. => Laws.Encoding.imax ..
  | .iand .. => Laws.Encoding.iand ..
  | .ior .. => Laws.Encoding.ior ..
  | .ixor .. => Laws.Encoding.ixor ..
  | .ishl .. => Laws.Encoding.ishl ..
  | .ishr .. => Laws.Encoding.ishr ..
  | .isha .. => Laws.Encoding.isha ..
  | .icmpeq .. => Laws.Encoding.icmpeq ..
  | .icmplt .. => Laws.Encoding.icmplt ..
  | .icmpltn .. => Laws.Encoding.icmpltn ..
  | .iadds .. => Laws.Encoding.iadds ..
  | .idot4 .. => Laws.Encoding.idot4 ..
  | .tcmplt .. => Laws.Encoding.tcmplt ..
  | .vmov .. => Laws.Encoding.vmov ..
  | .vbcast .. => Laws.Encoding.vbcast ..
  | .vperm .. => Laws.Encoding.vperm ..
  | .vshuf .. => Laws.Encoding.vshuf ..
  | .vsel .. => Laws.Encoding.vsel ..
  | .vext .. => Laws.Encoding.vext ..
  | .vins .. => Laws.Encoding.vins ..
  | .vli .. => Laws.Encoding.vli ..
  | .vrsum .. => Laws.Encoding.vrsum ..
  | .vrmax .. => Laws.Encoding.vrmax ..
  | .vrmin .. => Laws.Encoding.vrmin ..
  | .vrowsum .. => Laws.Encoding.vrowsum ..
  | .vcolsum .. => Laws.Encoding.vcolsum ..
  | .vtrans .. => Laws.Encoding.vtrans ..
  | .kand .. => Laws.Encoding.kand ..
  | .kor .. => Laws.Encoding.kor ..
  | .kxor .. => Laws.Encoding.kxor ..
  | .knot .. => Laws.Encoding.knot ..
  | .kpopc .. => Laws.Encoding.kpopc ..
  | .commit .. => Laws.Encoding.commit ..
  | .vwin .. => Laws.Encoding.vwin ..
  | .mma .. => Laws.Encoding.mma ..
  | .mmas .. => Laws.Encoding.mmas ..
  | .mzero .. => Laws.Encoding.mzero ..
  | .mldacc .. => Laws.Encoding.mldacc ..
  | .mstacc .. => Laws.Encoding.mstacc ..
  | .mckrd .. => Laws.Encoding.mckrd ..
  | .mdrain .. => Laws.Encoding.mdrain ..
  | .fmtpush .. => Laws.Encoding.fmtpush ..
  | .cpy .. => Laws.Encoding.cpy ..
  | .cpyl .. => Laws.Encoding.cpyl ..
  | .cpyw .. => Laws.Encoding.cpyw ..
  | .cpyq .. => Laws.Encoding.cpyq ..
  | .rput .. => Laws.Encoding.rput ..
  | .rget .. => Laws.Encoding.rget ..
  | .ratom .. => Laws.Encoding.ratom ..
  | .rfence .. => Laws.Encoding.rfence ..
  | .cred .. => Laws.Encoding.cred ..
  | .cbcast .. => Laws.Encoding.cbcast ..
  | .taskq .. => Laws.Encoding.taskq ..
  | .launch .. => Laws.Encoding.launch ..
  | .almld .. => Laws.Encoding.almld ..
  | .almclr .. => Laws.Encoding.almclr ..
  | .eres .. => Laws.Encoding.eres ..
  | .cbld .. => Laws.Encoding.cbld ..
  | .sigclr .. => Laws.Encoding.sigclr ..
  | .sigfold .. => Laws.Encoding.sigfold ..
  | .csacc .. => Laws.Encoding.csacc ..
  | .cschk .. => Laws.Encoding.cschk ..
  | .chkerr .. => Laws.Encoding.chkerr ..
  | .provrd .. => Laws.Encoding.provrd ..
  | .provclr .. => Laws.Encoding.provclr ..
  | .slotw .. => Laws.Encoding.slotw ..
  | .tlbinv .. => Laws.Encoding.tlbinv ..
  | .ctxsave .. => Laws.Encoding.ctxsave ..
  | .ctxload .. => Laws.Encoding.ctxload ..
  | .stoprd .. => Laws.Encoding.stoprd ..
  | .inject .. => Laws.Encoding.inject ..
  | .haltp .. => Laws.Encoding.haltp ..
  | .resumep .. => Laws.Encoding.resumep ..
  | .gate .. => Laws.Encoding.gate ..
  | .wake .. => Laws.Encoding.wake ..
  | .retire .. => Laws.Encoding.retire ..
  | .spare .. => Laws.Encoding.spare ..
  | .wdset .. => Laws.Encoding.wdset ..
  | .errinj .. => Laws.Encoding.errinj ..
  | .postgDelivery .. => Laws.Encoding.postgDelivery ..
  | .resultVisible .. => Laws.Encoding.resultVisible ..
  | .heldTokenPush .. => Laws.Encoding.heldTokenPush ..
  | .instructionFetch .. => Laws.Encoding.instructionFetch ..
  | .pageWalk .. => Laws.Encoding.pageWalk ..
  | .directPathServe .. => Laws.Encoding.directPathServe ..
  | .loadRowFill .. => Laws.Encoding.loadRowFill ..
  | .globalStorePerform .. => Laws.Encoding.globalStorePerform ..
  | .dieWindowStorePerform .. => Laws.Encoding.dieWindowStorePerform ..
  | .atomicPerform .. => Laws.Encoding.atomicPerform ..
  | .copyStart .. => Laws.Encoding.copyStart ..
  | .copyRowGroup .. => Laws.Encoding.copyRowGroup ..
  | .copyComplete .. => Laws.Encoding.copyComplete ..
  | .matrixCommandStart .. => Laws.Encoding.matrixCommandStart ..
  | .ringStageRelease .. => Laws.Encoding.ringStageRelease ..
  | .matrixCommandComplete .. => Laws.Encoding.matrixCommandComplete ..
  | .remoteCommandStart .. => Laws.Encoding.remoteCommandStart ..
  | .packetSend .. => Laws.Encoding.packetSend ..
  | .packetReceive .. => Laws.Encoding.packetReceive ..
  | .acknowledgement .. => Laws.Encoding.acknowledgement ..
  | .routeTimeout .. => Laws.Encoding.routeTimeout ..
  | .routeFailure .. => Laws.Encoding.routeFailure ..
  | .laneLoss .. => Laws.Encoding.laneLoss ..
  | .collectiveContribution .. => Laws.Encoding.collectiveContribution ..
  | .collectiveComplete .. => Laws.Encoding.collectiveComplete ..
  | .walkerTaskCreate .. => Laws.Encoding.walkerTaskCreate ..
  | .taskEnqueue .. => Laws.Encoding.taskEnqueue ..
  | .taskEntry .. => Laws.Encoding.taskEntry ..
  | .dispatch .. => Laws.Encoding.dispatch ..
  | .contextFree .. => Laws.Encoding.contextFree ..
  | .taskRetirement .. => Laws.Encoding.taskRetirement ..
  | .vigilDecision .. => Laws.Encoding.vigilDecision ..
  | .overlayFold .. => Laws.Encoding.overlayFold ..
  | .fetch .. => Laws.Encoding.fetch ..
  | .evict .. => Laws.Encoding.evict ..
  | .pin .. => Laws.Encoding.pin ..
  | .drop .. => Laws.Encoding.drop ..
  | .almanacActionFinish .. => Laws.Encoding.almanacActionFinish ..
  | .almanacRelease .. => Laws.Encoding.almanacRelease ..
  | .launchCompletion .. => Laws.Encoding.launchCompletion ..
  | .launchQueueDoorbell .. => Laws.Encoding.launchQueueDoorbell ..
  | .launchAcceptance .. => Laws.Encoding.launchAcceptance ..
  | .launchQueueHeadWrite .. => Laws.Encoding.launchQueueHeadWrite ..
  | .completionHeadWrite .. => Laws.Encoding.completionHeadWrite ..
  | .faultLogTailWrite .. => Laws.Encoding.faultLogTailWrite ..
  | .histogramClear .. => Laws.Encoding.histogramClear ..
  | .traceRingReadIndex .. => Laws.Encoding.traceRingReadIndex ..
  | .holdWrite .. => Laws.Encoding.holdWrite ..
  | .pcselWrite .. => Laws.Encoding.pcselWrite ..
  | .scoreWrite .. => Laws.Encoding.scoreWrite ..
  | .vectorUnmask .. => Laws.Encoding.vectorUnmask ..
  | .managementWrite .. => Laws.Encoding.managementWrite ..
  | .watchdogExpiry .. => Laws.Encoding.watchdogExpiry ..
  | .haltLineArrival .. => Laws.Encoding.haltLineArrival ..
  | .engineStop .. => Laws.Encoding.engineStop ..
  | .contextRemoval .. => Laws.Encoding.contextRemoval ..
  | .preemptionTrap .. => Laws.Encoding.preemptionTrap ..
  | .savedImageWrite .. => Laws.Encoding.savedImageWrite ..
  | .stopAreaWrite .. => Laws.Encoding.stopAreaWrite ..
  | .powerGateCommit .. => Laws.Encoding.powerGateCommit ..
  | .powerUp .. => Laws.Encoding.powerUp ..
  | .clockSkip .. => Laws.Encoding.clockSkip ..
  | .thermalTrip .. => Laws.Encoding.thermalTrip ..
  | .hubTakeover => Laws.Encoding.hubTakeover ..
  | .powerOnReset .. => Laws.Encoding.powerOnReset ..
  | .stage0 => Laws.Encoding.stage0 ..
  | .stage1 .. => Laws.Encoding.stage1 ..
  | .stage2 => Laws.Encoding.stage2 ..
  | .stage3 .. => Laws.Encoding.stage3 ..
  | .rowSwap .. => Laws.Encoding.rowSwap ..
  | .scrub .. => Laws.Encoding.scrub ..
  | .correctedLineRewrite .. => Laws.Encoding.correctedLineRewrite ..
  | .traceDrain .. => Laws.Encoding.traceDrain ..
  | .rdmaWrite .. => Laws.Encoding.rdmaWrite ..
  | .rdmaRead .. => Laws.Encoding.rdmaRead ..
  | .mailboxRequest .. => Laws.Encoding.mailboxRequest ..
  | .frameCheckFailure .. => Laws.Encoding.frameCheckFailure ..

/-- The word of an instruction that a program can hold. -/
theorem encodeWord_of_wf {i : Instr} (h : i.WellFormed) :
    ∃ w, encodeWord i = some w ∧ decodeWord i.imm i.modf w = .ok i := by
  have owed := encoding_statement i
  unfold Laws.Encoding.Statement at owed
  cases e : encodeWord i with
  | some w => exact ⟨w, rfl, by rwa [e] at owed⟩
  | none =>
    rw [e] at owed
    replace owed : i.hdr? = none := owed
    exact absurd h (by simp [Instr.WellFormed, Instr.wf, owed])

/-- A group of leading words and a word decodes to what the word decodes to. -/
theorem decodeGroup_lead (x : Option ImmF) (md : Option ModF) {w : W32} {i : Instr}
    (h : decodeWord x md w = .ok i) :
    decodeGroup (x.toList.map encodeImm ++ md.toList.map encodeMod ++ [w]) =
      .ok (i, (x.toList.map encodeImm ++ md.toList.map encodeMod ++ [w]).length) := by
  have himm := isImm_of_decodeWord h
  have hmod := isMod_of_decodeWord h
  cases x with
  | none =>
    cases md with
    | none => simp [decodeGroup, himm, hmod, h, Except.map]
    | some m => simp [decodeGroup, decodeAfterMod, himm, h, Except.map]
  | some v =>
    cases md with
    | none => simp [decodeGroup, decodeAfterImm, hmod, h, Except.map]
    | some m => simp [decodeGroup, decodeAfterImm, h, Except.map]

/-- Settles O50: the word of each instruction decodes to it, and its leading words are told apart by their first bits. -/
theorem encodedInstructionsDecodeToThemselves : Obligations.EncodedInstructionsDecodeToThemselves := by
  intro i hi
  obtain ⟨w, hw, hd⟩ := encodeWord_of_wf hi
  exact ⟨_, by rw [encode, hw]; rfl, decodeGroup_lead i.imm i.modf hd⟩

end Sys2Proof
end

section
/-! Scalar, address, mask and check words that only compute (R105 to R113, R169, R188, R194, R222, R224, R227): the
model's operations are those of the rules, and a word of each shape gives its result. -/

namespace Sys2Proof.Machine

/-! Values. -/

theorem add_eq_ofInt (x y : Word) : x + y = BitVec.ofInt 64 (x.toInt + y.toInt) := by
  rw [BitVec.ofInt_add, BitVec.ofInt_toInt, BitVec.ofInt_toInt]
theorem sub_eq_ofInt (x y : Word) : x - y = BitVec.ofInt 64 (x.toInt - y.toInt) := by
  rw [Int.sub_eq_add_neg, BitVec.ofInt_add, BitVec.ofInt_neg, BitVec.ofInt_toInt, BitVec.ofInt_toInt,
    BitVec.sub_eq_add_neg]
theorem mul_eq_ofInt (x y : Word) : x * y = BitVec.ofInt 64 (x.toInt * y.toInt) := by
  rw [BitVec.ofInt_mul, BitVec.ofInt_toInt, BitVec.ofInt_toInt]
theorem add_wordOfInt (x : Word) (v : Int) : x + wordOfInt v = BitVec.ofInt 64 (x.toInt + v) := by
  rw [BitVec.ofInt_add, BitVec.ofInt_toInt]; rfl

theorem shiftLeft_eq_ofNat (x : Word) (n : Nat) : x <<< n = BitVec.ofNat 64 (x.toNat * 2 ^ n) := by
  apply BitVec.eq_of_toNat_eq
  rw [BitVec.toNat_shiftLeft, BitVec.toNat_ofNat, Nat.shiftLeft_eq]
theorem ushiftRight_eq_ofNat (x : Word) (n : Nat) : x >>> n = BitVec.ofNat 64 (x.toNat / 2 ^ n) := by
  apply BitVec.eq_of_toNat_eq
  rw [BitVec.toNat_ushiftRight, BitVec.toNat_ofNat, Nat.shiftRight_eq_div_pow,
    Nat.mod_eq_of_lt (Nat.lt_of_le_of_lt (Nat.div_le_self ..) x.isLt)]
theorem sshiftRight_eq_ofInt (x : Word) (n : Nat) : x.sshiftRight n = BitVec.ofInt 64 (x.toInt / (2 ^ n : Nat)) := by
  rw [← Int.shiftRight_eq_div_pow, ← BitVec.toInt_sshiftRight, BitVec.ofInt_toInt]

/-- What is shifted out at the top comes in below. -/
theorem rotateLeft_eq_ofNat (x : Word) (n : Nat) (hn : n < 64) :
    x.rotateLeft n = BitVec.ofNat 64 (x.toNat * 2 ^ n + x.toNat / 2 ^ (64 - n)) := by
  have low : x.toNat / 2 ^ (64 - n) < 2 ^ n := by
    rw [Nat.div_lt_iff_lt_mul (Nat.two_pow_pos _), ← Nat.pow_add, show n + (64 - n) = 64 by omega]
    exact x.isLt
  rw [BitVec.rotateLeft_def, Nat.mod_eq_of_lt hn, shiftLeft_eq_ofNat, ushiftRight_eq_ofNat,
    ← Nat.shiftLeft_eq, Nat.shiftLeft_add_eq_or_of_lt low]
  exact (BitVec.ofNat_or ..).symm

theorem ltS_ite (x y u v : Word) : (if ltS y x then u else v) = if x.toInt ≤ y.toInt then v else u := by
  by_cases h : x.toInt ≤ y.toInt
  · rw [if_pos h, if_neg (by simpa [ltS] using h)]
  · rw [if_neg h, if_pos (by simpa [ltS] using h)]
theorem ltU_ite (x y u v : Word) : (if ltU y x then u else v) = if x.toNat ≤ y.toNat then v else u := by
  by_cases h : x.toNat ≤ y.toNat
  · rw [if_pos h, if_neg (by simpa [ltU] using h)]
  · rw [if_neg h, if_pos (by simpa [ltU] using h)]

/-- Of two equal words either is the greater one. -/
theorem maxS_ite (x y : Word) : (if ltS x y then y else x) = if x.toInt ≤ y.toInt then y else x := by
  rw [ltS_ite]
  obtain h | h | h := Int.lt_trichotomy x.toInt y.toInt
  · rw [if_neg (by omega), if_pos (by omega)]
  · rw [BitVec.toInt_inj.1 h]
  · rw [if_pos (by omega), if_neg (by omega)]
theorem maxU_ite (x y : Word) : (if ltU x y then y else x) = if x.toNat ≤ y.toNat then y else x := by
  rw [ltU_ite]
  obtain h | h | h := Nat.lt_trichotomy x.toNat y.toNat
  · rw [if_neg (by omega), if_pos (by omega)]
  · rw [BitVec.eq_of_toNat_eq h]
  · rw [if_pos (by omega), if_neg (by omega)]

/-- Leading zeros by the place of the highest one bit. -/
theorem clzAux_log2 (x : Word) : clzAux 64 x.toNat = if x = 0 then 64 else 63 - Nat.log2 x.toNat := by
  split
  · next h =>
    subst h
    exact clzAux_eq _ 64 64 (Nat.le_refl _) (fun j _ _ => Nat.zero_testBit j) fun h => absurd h (by decide)
  · next h =>
    have hx : x.toNat ≠ 0 := fun e => h ((word_eq_zero_iff x).2 e)
    have hlog : Nat.log2 x.toNat < 64 := (Nat.log2_lt hx).2 x.isLt
    refine clzAux_eq _ 64 _ (by omega) (fun j h1 _ => ?_) fun _ => ?_
    · refine Nat.testBit_lt_two_pow (Nat.lt_of_lt_of_le Nat.lt_log2_self ?_)
      exact Nat.pow_le_pow_right (by decide) (by omega)
    · rw [show 64 - 1 - (63 - x.toNat.log2) = x.toNat.log2 by omega]
      exact Nat.testBit_log2 hx

theorem fieldWidth_eq_cutWidth (y : Word) : fieldWidth y = cutWidth y := fieldWidth_eq y

theorem bfxOf_eq (x y : Word) :
    bfxOf x y = BitVec.ofNat 64 (x.toNat / 2 ^ shiftBy y % 2 ^ cutWidth y) := by
  rw [bfxOf, bitsN, fieldWidth_eq_cutWidth, Nat.shiftRight_eq_div_pow]; rfl

/-- The bits of the mask of a field. -/
theorem getLsbD_fieldOnes (len pos j : Nat) (hj : j < 64) :
    (BitVec.ofNat 64 ((2 ^ len - 1) * 2 ^ pos)).getLsbD j = decide (pos ≤ j ∧ j < pos + len) := by
  rw [BitVec.getLsbD_ofNat, Nat.mul_comm, Nat.testBit_two_pow_mul, Nat.testBit_two_pow_sub_one]
  by_cases h : pos ≤ j
  · simp [hj, h, Nat.sub_lt_iff_lt_add h, Nat.add_comm]
  · simp [h]

theorem bfiOf_eq (old x y : Word) :
    bfiOf old x y = (old &&& ~~~(BitVec.ofNat 64 ((2 ^ cutWidth y - 1) * 2 ^ shiftBy y))) |||
      (BitVec.ofNat 64 (x.toNat * 2 ^ shiftBy y) &&& BitVec.ofNat 64 ((2 ^ cutWidth y - 1) * 2 ^ shiftBy y)) := by
  refine BitVec.eq_of_getLsbD_eq fun j hj => ?_
  have hx : (BitVec.ofNat 64 (x.toNat * 2 ^ shiftBy y)).getLsbD j = (decide (shiftBy y ≤ j) && x.getLsbD (j - shiftBy y)) := by
    rw [BitVec.getLsbD_ofNat, Nat.mul_comm, Nat.testBit_two_pow_mul, BitVec.testBit_toNat]
    simp [hj]
  rw [getLsbD_bfiOf _ _ _ hj, BitVec.getLsbD_or, BitVec.getLsbD_and, BitVec.getLsbD_and, BitVec.getLsbD_not, hx,
    getLsbD_fieldOnes _ _ _ hj, fieldWidth_eq_cutWidth, ← show shiftBy y = y.toNat % 64 from rfl]
  by_cases h : shiftBy y ≤ j ∧ j < shiftBy y + cutWidth y
  · rw [if_pos h]
    simp [h]
  · rw [if_neg h]
    simp [h, hj]

theorem shiftCount_imm5 (e : Option ImmF) (m : BitVec 5) : shiftCount (imm5 e m) = (extImm e 5 m.toNat % 64).toNat := by
  unfold shiftCount imm5 wordOfInt
  rw [BitVec.toNat_ofInt]
  omega

/-- The bits of a 64-bit window of a number. -/
theorem ofNat_bitsN (x lo : Nat) : BitVec.ofNat 64 (bitsN x lo 64) = BitVec.ofNat 64 (x / 2 ^ lo) := by
  apply BitVec.eq_of_toNat_eq
  simp [bitsN, Nat.shiftRight_eq_div_pow]

/-! Shapes of words, with the value that the rule names. -/

variable {s : State} {i : Instr} {h : Hdr}

theorem gives_alu {cls : Nat} {d a b : BitVec 5} {f : Word → Word → Word} {v : Word} (k : s.Issues i h)
    (hv : f (s.me.sreg a.toNat) (s.me.sreg b.toNat) = v) :
    runWord i h (alu cls d a b f) s = .next (s.gives i h cls [.scal d.toNat v]) :=
  hv ▸ runWord_alu s i h cls d a b f k

theorem gives_alu1 {d a : BitVec 5} {f : Word → Word} {v : Word} (k : s.Issues i h)
    (hv : f (s.me.sreg a.toNat) = v) : runWord i h (alu1 d a f) s = .next (s.gives i h 0 [.scal d.toNat v]) :=
  hv ▸ runWord_alu1 s i h d a f k

theorem gives_cmp {p : BitVec 3} {a b : BitVec 5} {f : Word → Word → Bool} {v : Bool} (k : s.Issues i h)
    (hv : f (s.me.sreg a.toNat) (s.me.sreg b.toNat) = v) :
    runWord i h (cmpWord p a b f) s = .next (s.gives i h 0 [.pred p.toNat v]) := by
  rw [cmpWord, runWord_compute s i h _ _ _ k, taken_me, hv]

theorem gives_addr {reads : List Loc} {f : Cluster → Res} {r : Res} (k : s.Issues i h) (hr : f s.me = r) :
    runWord i h (addrWord reads f) s = .next (s.gives i h 0 [r]) :=
  (runWord_compute s i h _ _ _ k).trans (by rw [taken_me, hr])

theorem gives_mask {reads : List Loc} {d : BitVec 3} {f : Cluster → Nat} (k : s.Issues i h) :
    runWord i h (maskWord reads d f) s = .next (s.gives i h 3 [.mask d.toNat (f s.me) (2 ^ 1024 - 1)]) :=
  (runWord_compute s i h _ _ _ k).trans (by rw [taken_me])

theorem gives_compute {reads : List Loc} {cls : Nat} {f : State → List Res} {res : List Res} (k : s.Issues i h)
    (hr : f (s.taken h) = res) : runWord i h (compute reads cls f) s = .next (s.gives i h cls res) :=
  hr ▸ runWord_compute s i h reads cls f k

/-- A word that issues has the header of the issue. -/
theorem issues_hdr_eq {g : Hdr} (k : s.Issues i h) (e : i.hdr? = some g) : g = h :=
  Option.some.inj (e.symm.trans k.hdr)

theorem gives_of_some {c cls : Nat} {r res : List Res} (e : exec i s = .next (s.gives i h c r))
    (hr : some (c, r) = some (cls, res)) : exec i s = .next (s.gives i h cls res) := by
  cases hr; exact e

theorem exec_divs_result {d a b : BitVec 5} {cls : Nat} {res : List Res} (k : s.Issues (.divs h d a b) h)
    (hr : s.scalarResult (.divs h d a b) = some (cls, res)) :
    exec (.divs h d a b) s = .next (s.gives (.divs h d a b) h cls res) := by
  have e := exec_divs s h d a b k
  rw [divS_results] at e
  refine gives_of_some e (Eq.trans ?_ hr)
  unfold State.scalarResult
  dsimp only
  split
  · rfl
  · split <;> rfl

/-- The words of R105 to R113, in the order of their rules. -/
theorem exec_scalarResult {cls : Nat} {res : List Res} (k : s.Issues i h) (hr : s.scalarResult i = some (cls, res)) :
    exec i s = .next (s.gives i h cls res) := by
  have hr' := hr
  unfold State.scalarResult at hr
  dsimp only at hr
  split at hr <;> try obtain rfl := issues_hdr_eq k rfl
  · exact gives_of_some (runWord_done s _ _ _ _ _ k rfl) hr
  · exact gives_of_some (gives_alu k (add_eq_ofInt ..)) hr
  · exact gives_of_some (gives_alu k (sub_eq_ofInt ..)) hr
  · exact gives_of_some (gives_alu k (mul_eq_ofInt ..)) hr
  · exact gives_of_some (gives_alu k rfl) hr
  · exact gives_of_some (gives_alu k rfl) hr
  · exact exec_divs_result k hr'
  · exact gives_of_some (gives_alu k (divU_eq ..)) (Eq.trans (by split <;> rfl) hr)
  · refine gives_of_some (gives_alu k (remS_eq ..)) (Eq.trans ?_ hr)
    split
    · rfl
    · split <;> rfl
  · exact gives_of_some (gives_alu k (remU_eq ..)) (Eq.trans (by split <;> rfl) hr)
  · exact gives_of_some (gives_alu k rfl) hr
  · exact gives_of_some (gives_alu k rfl) hr
  · exact gives_of_some (gives_alu k rfl) hr
  · exact gives_of_some (gives_alu k rfl) hr
  · exact gives_of_some (gives_alu k (shiftLeft_eq_ofNat ..)) hr
  · exact gives_of_some (gives_alu k (ushiftRight_eq_ofNat ..)) hr
  · exact gives_of_some (gives_alu k (sshiftRight_eq_ofInt ..)) hr
  · exact gives_of_some (gives_alu k (rotateLeft_eq_ofNat _ _ (Nat.mod_lt _ (by decide)))) hr
  · exact gives_of_some (gives_alu k (ltS_ite ..)) hr
  · exact gives_of_some (gives_alu k (maxS_ite ..)) hr
  · exact gives_of_some (gives_alu k (ltU_ite ..)) hr
  · exact gives_of_some (gives_alu k (maxU_ite ..)) hr
  · exact gives_of_some (gives_alu1 k (congrArg _ (clzAux_log2 _))) hr
  · exact gives_of_some (gives_alu1 k (congrArg _ (popAux_eq 64 _))) hr
  · exact gives_of_some (gives_alu k (bfxOf_eq ..)) hr
  · exact gives_of_some ((exec_bfi _ _ _ _ _ k).trans (by rw [bfiOf_eq])) hr
  · exact gives_of_some (gives_alu1 k (add_wordOfInt ..)) hr
  · exact gives_of_some (gives_alu1 k ((shiftLeft_eq_ofNat ..).trans (by rw [shiftCount_imm5]))) hr
  · exact gives_of_some (gives_alu1 k ((ushiftRight_eq_ofNat ..).trans (by rw [shiftCount_imm5]))) hr
  · exact gives_of_some (gives_alu1 k ((sshiftRight_eq_ofInt ..).trans (by rw [shiftCount_imm5]))) hr
  · exact gives_of_some (gives_alu1 k rfl) hr
  · exact gives_of_some (gives_compute k rfl) hr
  · split at hr
    · cases hr
    · exact gives_of_some (gives_compute k (by rw [taken_me]; rfl)) hr
  · exact gives_of_some (gives_alu1 k rfl) hr
  · split at hr
    · next hp => exact gives_of_some (gives_compute k (by rw [taken_me, if_pos hp])) hr
    · next hp => exact gives_of_some (gives_compute k (by rw [taken_me, if_neg hp])) hr
  · exact gives_of_some (gives_cmp k (decide_eq_decide.2 (BitVec.toNat_eq ..))) hr
  · exact gives_of_some (gives_cmp k (decide_eq_decide.2 (not_congr (BitVec.toNat_eq ..)))) hr
  · exact gives_of_some (gives_cmp k rfl) hr
  · exact gives_of_some (gives_cmp k rfl) hr
  · exact gives_of_some (gives_cmp k rfl) hr
  · exact gives_of_some (gives_cmp k rfl) hr
  · exact gives_of_some (runWord_predWord _ _ _ _ _ _ _ k) hr
  · exact gives_of_some (runWord_predWord _ _ _ _ _ _ _ k) hr
  · exact gives_of_some (exec_pxor _ _ _ _ _ k) hr
  · cases hr

/-- The words on address registers, merge buffers, masks, and the check words that read no value. -/
theorem exec_fieldResult {cls : Nat} {res : List Res} (k : s.Issues i h) (hr : s.fieldResult i = some (cls, res)) :
    exec i s = .next (s.gives i h cls res) := by
  unfold State.fieldResult at hr
  dsimp only at hr
  split at hr <;> try obtain rfl := issues_hdr_eq k rfl
  · exact gives_of_some (gives_addr k (congrArg _ (add_eq_ofInt ..))) hr
  · exact gives_of_some (gives_addr k (congrArg _ (add_wordOfInt ..))) hr
  · exact gives_of_some (gives_addr k (congrArg _ (sub_eq_ofInt ..))) hr
  · exact gives_of_some (gives_addr k rfl) hr
  · exact gives_of_some (gives_addr k rfl) hr
  · split at hr
    · next hm => exact gives_of_some (runWord_done s _ _ _ _ _ k (by simp [meaning, hm])) hr
    · cases hr
  · exact gives_of_some (gives_addr k rfl) hr
  · exact gives_of_some (gives_addr k rfl) hr
  · exact gives_of_some (gives_compute k (by dsimp only; rw [taken_me, Nat.shiftLeft_eq, Nat.shiftLeft_eq])) hr
  · exact gives_of_some (gives_compute k (by dsimp only; rw [taken_me, ofNat_bitsN]; rfl)) hr
  · exact gives_of_some (gives_mask k) hr
  · exact gives_of_some (gives_mask k) hr
  · exact gives_of_some (gives_mask k) hr
  · exact gives_of_some (gives_mask k) hr
  · exact gives_of_some (gives_compute k (by rw [taken_me, popAux_eq])) hr
  · exact gives_of_some (gives_compute k rfl) hr
  · exact gives_of_some (gives_compute k rfl) hr
  · cases hr

/-- Settles O1: each word has one of six shapes, and the model's operation has the value of its rule. -/
theorem scalarWordsGiveTheirResults : Obligations.ScalarWordsGiveTheirResults := by
  rintro s i h cls res k (hr | hr)
  · exact exec_scalarResult k hr
  · exact exec_fieldResult k hr

end Sys2Proof.Machine
end

section
/-! What updates of one part leave of the others, said once for every field; and the frame relation between states
that differ in no register, no view, flag or barrier count, and no memory (R26). -/

namespace Sys2Proof.Machine

/-! Reading a part after an update of a part. -/

theorem coreFld_modCore {α : Type} (g : Core → α) (s : State) (n m : Nat) (f : Core → Core)
    (hg : ∀ c, g (f c) = g c) : g ((s.modCore n f).core m) = g (s.core m) := by
  rw [core_modCore]
  split
  · next e => rw [hg, e]
  · rfl

theorem ctxFld_modCtx {α : Type} (g : Ctx → α) (s : State) (j k : Who) (f : Ctx → Ctx)
    (hg : ∀ x, g (f x) = g x) : g ((s.modCtx k f).ctxOf j) = g (s.ctxOf j) := by
  by_cases c : SameCtx j k
  · rw [ctxOf_modCtx_same _ _ _ _ c, hg]
    unfold State.ctxOf; rw [c.1, c.2]
  · rw [ctxOf_modCtx_other _ _ _ _ c]

theorem cluFld_modClu {α : Type} (g : Cluster → α) (s : State) (j k : Who) (f : Cluster → Cluster)
    (hg : ∀ c, g (f c) = g c) : g ((s.modClu k f).clu j) = g (s.clu j) := by
  by_cases e : j = k
  · rw [e, clu_modClu, hg]
  · rw [clu_modClu_other _ _ _ _ e]

theorem dieFld_modDie {α : Type} (g : Die → α) (s : State) (d e : Nat) (f : Die → Die)
    (hg : ∀ d, g (f d) = g d) : g ((s.modDie d f).die e) = g (s.die e) := by
  rw [die_modDie]
  split
  · next h => rw [hg, h]
  · rfl

/-- A change of a core outside its contexts leaves every context. -/
theorem ctxOf_modCore (s : State) (n : Nat) (f : Core → Core) (k : Who) (hf : ∀ c, (f c).ctxs = c.ctxs) :
    (s.modCore n f).ctxOf k = s.ctxOf k :=
  coreFld_modCore (fun c => c.ctx k.ctx) s n k.core f fun c => congrArg (tblGet Ctx.reset · k.ctx) (hf c)

theorem clu_modCore (s : State) (n : Nat) (f : Core → Core) (k : Who) (hf : ∀ c, (f c).ctxs = c.ctxs) :
    (s.modCore n f).clu k = s.clu k := congrArg (Ctx.clu · k.clu) (ctxOf_modCore s n f k hf)

/-- A change of a context outside its clusters leaves every cluster. -/
theorem clu_modCtx (s : State) (j k : Who) (f : Ctx → Ctx) (hf : ∀ x, (f x).clus = x.clus) :
    (s.modCtx k f).clu j = s.clu j :=
  ctxFld_modCtx (fun x => x.clu j.clu) s j k f fun x => congrArg (tblGet Cluster.start · j.clu.num) (hf x)

/-- A change of contexts leaves the rest of every core. -/
theorem coreFld_modCtx {α : Type} (g : Core → α) (hg : ∀ c n f, g (Core.modCtx c n f) = g c) (s : State) (k : Who)
    (f : Ctx → Ctx) (m : Nat) : g ((s.modCtx k f).core m) = g (s.core m) :=
  coreFld_modCore g s k.core m _ fun c => hg c k.ctx f

/-- A change of a cluster leaves the rest of every context. -/
theorem ctxFld_modClu {α : Type} (g : Ctx → α) (hg : ∀ x u f, g (Ctx.modClu x u f) = g x) (s : State) (k : Who)
    (f : Cluster → Cluster) (j : Who) : g ((s.modClu k f).ctxOf j) = g (s.ctxOf j) :=
  ctxFld_modCtx g s j k _ fun x => hg x k.clu f

/-! Writing the same part twice. -/

theorem tblPut_tblPut {α : Type} (t : Tbl α) (k : Nat) (v w : α) : tblPut (tblPut t k v) k w = tblPut t k w := by
  induction t with
  | nil => simp [tblPut]
  | cons e r ih =>
    obtain ⟨j, x⟩ := e
    by_cases h1 : k = j
    · simp [tblPut, h1]
    · by_cases h2 : k < j
      · simp [tblPut, h1, h2]
      · simp [tblPut, h1, h2, ih]

theorem modCore_modCore (s : State) (n : Nat) (f g : Core → Core) :
    (s.modCore n f).modCore n g = s.modCore n fun c => g (f c) := by
  show { s with cores := tblPut (tblPut s.cores n _) n (g ((s.modCore n f).core n)) } = _
  rw [tblPut_tblPut, core_modCore, if_pos rfl]; rfl

theorem core_modCtx_modCtx (c : Core) (n : Nat) (f g : Ctx → Ctx) :
    (c.modCtx n f).modCtx n g = c.modCtx n fun x => g (f x) := by
  show { c with ctxs := tblPut (tblPut c.ctxs n _) n (g ((c.modCtx n f).ctx n)) } = _
  rw [tblPut_tblPut, ctx_modCtx, if_pos rfl]; rfl

theorem ctx_modClu_modClu (x : Ctx) (u : Clu) (f g : Cluster → Cluster) :
    (x.modClu u f).modClu u g = x.modClu u fun c => g (f c) := by
  show { x with clus := tblPut (tblPut x.clus u.num _) u.num (g ((x.modClu u f).clu u)) } = _
  rw [tblPut_tblPut, ctx_clu_modClu, if_pos rfl]; rfl

theorem modCtx_modCtx (s : State) (k : Who) (f g : Ctx → Ctx) :
    (s.modCtx k f).modCtx k g = s.modCtx k fun x => g (f x) :=
  (modCore_modCore _ _ _ _).trans (congrArg (s.modCore k.core) (funext fun c => core_modCtx_modCtx c _ _ _))

theorem modClu_modClu (s : State) (k : Who) (f g : Cluster → Cluster) :
    (s.modClu k f).modClu k g = s.modClu k fun c => g (f c) :=
  (modCtx_modCtx _ _ _ _).trans (congrArg (s.modCtx k) (funext fun x => ctx_modClu_modClu x _ _ _))

/-- Two updates of the issuing cluster are one. -/
theorem modMe_comp (s : State) (f g : Cluster → Cluster) : (s.modMe f).modMe g = s.modMe fun c => g (f c) :=
  modClu_modClu s s.cur f g

theorem modMe_congr (s : State) (f g : Cluster → Cluster) (h : f s.me = g s.me) : s.modMe f = s.modMe g :=
  modClu_congr s s.cur f g h

/-- A fold whose steps keep a part keeps it. -/
theorem foldl_fld {σ α β : Type} (g : σ → β) (f : σ → α → σ) (hf : ∀ s e, g (f s e) = g s) (l : List α) :
    ∀ s, g (l.foldl f s) = g s := by
  induction l with
  | nil => exact fun _ => rfl
  | cons e r ih =>
    intro s
    rw [List.foldl_cons, ih, hf]

/-! Trace records (R361) change their die only. -/

theorem traceRec_fld {α : Type} (g : State → α) (hg : ∀ s d f, g (State.modDie s d f) = g s) (s : State) (k : Who)
    (unit kind loc : Nat) (task data : Word) : g (s.traceRec k unit kind loc task data) = g s := by
  unfold State.traceRec
  exact hg ..

theorem traceClu_fld {α : Type} (g : State → α) (hg : ∀ s d f, g (State.modDie s d f) = g s) (s : State) (k : Who)
    (kind : Nat) (data : Word) : g (s.traceClu k kind data) = g s := by
  unfold State.traceClu
  dsimp only
  split
  · exact traceRec_fld g hg ..
  · rfl

section
variable (s : State) (k : Who) (kind : Nat) (data : Word)

@[simp] theorem traceClu_cur : (s.traceClu k kind data).cur = s.cur := traceClu_fld _ (fun _ _ _ => rfl) s k kind data
@[simp] theorem traceClu_cores : (s.traceClu k kind data).cores = s.cores :=
  traceClu_fld _ (fun _ _ _ => rfl) s k kind data
@[simp] theorem traceClu_mem : (s.traceClu k kind data).mem = s.mem := traceClu_fld _ (fun _ _ _ => rfl) s k kind data
@[simp] theorem traceClu_parts : (s.traceClu k kind data).parts = s.parts :=
  traceClu_fld _ (fun _ _ _ => rfl) s k kind data
@[simp] theorem traceClu_core (n : Nat) : (s.traceClu k kind data).core n = s.core n :=
  traceClu_fld (State.core · n) (fun _ _ _ => rfl) s k kind data
@[simp] theorem traceClu_ctxOf (j : Who) : (s.traceClu k kind data).ctxOf j = s.ctxOf j :=
  traceClu_fld (State.ctxOf · j) (fun _ _ _ => rfl) s k kind data
@[simp] theorem traceClu_clu (j : Who) : (s.traceClu k kind data).clu j = s.clu j :=
  traceClu_fld (State.clu · j) (fun _ _ _ => rfl) s k kind data
@[simp] theorem traceClu_taskOf (j : Who) : (s.traceClu k kind data).taskOf j = s.taskOf j :=
  traceClu_fld (State.taskOf · j) (fun _ _ _ => rfl) s k kind data
@[simp] theorem traceClu_part (p : Nat) : (s.traceClu k kind data).part p = s.part p :=
  traceClu_fld (State.part · p) (fun _ _ _ => rfl) s k kind data
@[simp] theorem traceClu_barCount (d b : Nat) : ((s.traceClu k kind data).die d).barCount b = (s.die d).barCount b := by
  unfold State.traceClu
  dsimp only
  split
  · exact dieFld_modDie (Die.barCount · b) s _ d _ fun x => by dsimp only; split <;> rfl
  · rfl

end

/-! The frame relation. -/

/-- The registers of a cluster, as their tables (Tables 4.1, 5.1, 6.1, 7.7). -/
def Cluster.regs (c : Cluster) :=
  (c.s, c.p, c.rmode, c.seed, c.stream, c.a, c.mode, c.base, c.inc, c.mb, c.k, c.sig, c.inv)

theorem Cluster.sameRegs_of (c d : Cluster) (h : d.regs = c.regs) : c.SameRegs d := by
  simp only [Cluster.regs, Prod.mk.injEq] at h
  obtain ⟨hs, hp, hrm, hseed, hstream, ha, hmode, hbase, hinc, hmb, hk, hsig, hinv⟩ := h
  constructor
  case s => intro; unfold Cluster.sreg; rw [hs]
  case p => intro; unfold Cluster.preg; rw [hp]
  case rmode => exact hrm
  case seed => exact hseed
  case stream => exact hstream
  case a => intro; unfold Cluster.areg; rw [ha]
  case mode => intro; unfold Cluster.modeOf; rw [hmode]
  case base => intro; unfold Cluster.baseOf; rw [hbase]
  case inc => intro; unfold Cluster.incr; rw [hinc]
  case mb => intro; unfold Cluster.mbuf; rw [hmb]
  case k => intro; unfold Cluster.mask; rw [hk]
  case sig => intro; rw [hsig]
  case inv => intro; unfold Cluster.invOf; rw [hinv]

/-- Nothing that a word of a computing unit may change at once (R26) differs: the register tables of every cluster, the
views and flags of every context, the barrier counts and the memories; and the memories are canonical if they were. -/
structure Quiet (s t : State) : Prop where
  regs : ∀ k, (t.clu k).regs = (s.clu k).regs
  views : ∀ k, (t.ctxOf k).views = (s.ctxOf k).views
  flags : ∀ k, (t.ctxOf k).flags = (s.ctxOf k).flags
  counts : ∀ d, (t.die d).bcnt = (s.die d).bcnt
  mem : t.mem = s.mem
  frame : ∀ n, (t.core n).frame = (s.core n).frame
  spm : ∀ n, (t.core n).spm = (s.core n).spm
  wf : s.memWf = true → t.memWf = true

namespace Quiet
variable {s t u : State}

theorem refl (s : State) : Quiet s s :=
  ⟨fun _ => rfl, fun _ => rfl, fun _ => rfl, fun _ => rfl, rfl, fun _ => rfl, fun _ => rfl, id⟩

theorem trans (a : Quiet s t) (b : Quiet t u) : Quiet s u where
  regs k := (b.regs k).trans (a.regs k)
  views k := (b.views k).trans (a.views k)
  flags k := (b.flags k).trans (a.flags k)
  counts d := (b.counts d).trans (a.counts d)
  mem := b.mem.trans a.mem
  frame n := (b.frame n).trans (a.frame n)
  spm n := (b.spm n).trans (a.spm n)
  wf w := b.wf (a.wf w)

theorem keepsRegs (q : Quiet s t) : s.KeepsRegs t where
  regs k := Cluster.sameRegs_of _ _ (q.regs k)
  views k n := by unfold Ctx.view; rw [q.views]
  flags k n := by unfold Ctx.flag; rw [q.flags]
  barriers d n := by unfold Die.barCount; rw [q.counts]

theorem keepsBytes (q : Quiet s t) : s.KeepsBytes t where
  mem _ := by rw [q.mem]
  frame _ _ := by rw [q.frame]
  spm _ _ := by rw [q.spm]

/-- States with the same cores, dies and memory. -/
theorem of_same (hc : t.cores = s.cores) (hd : t.dies = s.dies) (hm : t.mem = s.mem) : Quiet s t := by
  have core (n : Nat) : t.core n = s.core n := by unfold State.core; rw [hc]
  have ctxOf (k : Who) : t.ctxOf k = s.ctxOf k := by unfold State.ctxOf; rw [core]
  have clu (k : Who) : t.clu k = s.clu k := by unfold State.clu; rw [ctxOf]
  have die (d : Nat) : t.die d = s.die d := by unfold State.die; rw [hd]
  exact ⟨fun k => by rw [clu], fun k => by rw [ctxOf], fun k => by rw [ctxOf], fun d => by rw [die], hm,
    fun n => by rw [core], fun n => by rw [core], memWf_of_same s t hm hc⟩

/-- A change of a core outside its contexts and memories. -/
theorem modCore (s : State) (n : Nat) (f : Core → Core)
    (hf : ∀ c, (f c).ctxs = c.ctxs ∧ (f c).frame = c.frame ∧ (f c).spm = c.spm) : Quiet s (s.modCore n f) where
  regs k := by rw [clu_modCore s n f k fun c => (hf c).1]
  views k := by rw [ctxOf_modCore s n f k fun c => (hf c).1]
  flags k := by rw [ctxOf_modCore s n f k fun c => (hf c).1]
  counts _ := rfl
  mem := rfl
  frame m := coreFld_modCore Core.frame s n m f fun c => (hf c).2.1
  spm m := coreFld_modCore Core.spm s n m f fun c => (hf c).2.2
  wf w := memWf_modCore_same s n f w (hf _).2.1 (hf _).2.2

/-- A change of a context that leaves its views, its flags and the registers of its clusters. -/
theorem modCtx_regs (s : State) (k : Who) (f : Ctx → Ctx) (hr : ∀ x u, ((f x).clu u).regs = (x.clu u).regs)
    (hv : ∀ x, (f x).views = x.views) (hg : ∀ x, (f x).flags = x.flags) : Quiet s (s.modCtx k f) where
  regs j := ctxFld_modCtx (fun x => (x.clu j.clu).regs) s j k f fun x => hr x j.clu
  views j := ctxFld_modCtx Ctx.views s j k f hv
  flags j := ctxFld_modCtx Ctx.flags s j k f hg
  counts _ := rfl
  mem := rfl
  frame m := coreFld_modCtx Core.frame (fun _ _ _ => rfl) s k f m
  spm m := coreFld_modCtx Core.spm (fun _ _ _ => rfl) s k f m
  wf := memWf_modCtx s k f

/-- A change of a context outside its clusters, views and flags. -/
theorem modCtx (s : State) (k : Who) (f : Ctx → Ctx)
    (hf : ∀ x, (f x).clus = x.clus ∧ (f x).views = x.views ∧ (f x).flags = x.flags) : Quiet s (s.modCtx k f) :=
  modCtx_regs s k f (fun x u => by unfold Ctx.clu; rw [(hf x).1]) (fun x => (hf x).2.1) fun x => (hf x).2.2

/-- A change of a cluster outside its registers. -/
theorem modClu (s : State) (k : Who) (f : Cluster → Cluster) (hf : ∀ c, (f c).regs = c.regs) :
    Quiet s (s.modClu k f) :=
  modCtx_regs s k _ (fun x u => by
    rw [ctx_clu_modClu]
    split
    · next e => rw [hf, e]
    · rfl) (fun _ => rfl) fun _ => rfl

theorem modMe (s : State) (f : Cluster → Cluster) (hf : ∀ c, (f c).regs = c.regs) : Quiet s (s.modMe f) :=
  modClu s s.cur f hf

/-- A change of a die outside its barrier counts. -/
theorem modDie (s : State) (d : Nat) (f : Die → Die) (hf : ∀ x, (f x).bcnt = x.bcnt) : Quiet s (s.modDie d f) where
  regs _ := rfl
  views _ := rfl
  flags _ := rfl
  counts e := dieFld_modDie Die.bcnt s d e f hf
  mem := rfl
  frame _ := rfl
  spm _ := rfl
  wf := id

/-- A fold of quiet steps is quiet. -/
theorem foldl {α : Type} (f : State → α → State) (hf : ∀ s e, Quiet s (f s e)) (l : List α) :
    ∀ s, Quiet s (l.foldl f s) := by
  induction l with
  | nil => exact refl
  | cons e r ih =>
    intro s
    rw [List.foldl_cons]
    exact (hf s e).trans (ih _)

theorem ite {c : Prop} [Decidable c] (ht : Quiet s t) (hu : Quiet s u) : Quiet s (if c then t else u) := by
  split
  · exact ht
  · exact hu

end Quiet

/-! Frames of the shared operations. -/

theorem quiet_traceRec (s : State) (k : Who) (unit kind loc : Nat) (task data : Word) :
    Quiet s (s.traceRec k unit kind loc task data) := by
  unfold State.traceRec
  exact Quiet.modDie _ _ _ fun x => by dsimp only; split <;> rfl

theorem quiet_traceClu (s : State) (k : Who) (kind : Nat) (data : Word) : Quiet s (s.traceClu k kind data) :=
  Quiet.ite (quiet_traceRec ..) (Quiet.refl s)

theorem quiet_perf (s : State) (n ev x : Nat) (u : Option Clu) (b : Nat) : Quiet s (s.perf n ev x u b) := by
  obtain h | ⟨p, o, h⟩ := perf_core s n ev x u b
  · rw [h]; exact Quiet.refl s
  · rw [h]; exact Quiet.modCore _ _ _ fun _ => ⟨rfl, rfl, rfl⟩

theorem quiet_perfMe (s : State) (ev : Nat) : Quiet s (s.perfMe ev) := quiet_perf ..
theorem quiet_perfCtx (s : State) (ev : Nat) : Quiet s (s.perfCtx ev) := quiet_perf ..

/-- Bookkeeping of what happens before (log 20) is no state of the device. -/
theorem quiet_known (s : State) (kn) : Quiet s { s with known := kn } := Quiet.of_same rfl rfl rfl

theorem quiet_teach (s : State) (l : List Nat) (p : Party) : Quiet s (s.teach l p) := by
  obtain ⟨kn, e⟩ := teach_eq s l p
  rw [e]; exact quiet_known s kn

theorem quiet_hand (s : State) (p q : Party) : Quiet s (s.hand p q) := quiet_teach ..

theorem quiet_taken (s : State) (h : Hdr) : Quiet s (s.taken h) := by
  obtain ⟨tk, kn, e⟩ := taken_eq s h
  rw [e]
  exact Quiet.trans (t := s.modMyCtx fun x => { x with tok := tk }) (Quiet.modCtx _ _ _ fun _ => ⟨rfl, rfl, rfl⟩)
    (Quiet.of_same rfl rfl rfl)

end Sys2Proof.Machine
end

section
/-! Taking a precise fault (R71, R366 to R368, R370, R372). -/

namespace Sys2Proof.Machine

/-- The record that a running cluster stops with (R372, R416). -/
def State.stopRecord (s : State) (k : Who) (code kind : Nat) (f : FaultInfo) : StopRec :=
  { code := code, kind := kind, unit := k.clu.num, dump := false, pc := (s.clu k).pc, task := (s.taskOf k).tid,
    addr := f.addr, brpc := f.brpc, trap := f.trap, flag := s.awaited k, cseq := (s.ctxOf k).popped % 2 ^ 48,
    fidx := f.fidx, stat := f.stat, loc := (s.clu k).sc, eng := f.eng }

/-- A running cluster, stopped. -/
def State.stops (s : State) (k : Who) (code kind : Nat) (f : FaultInfo) : State :=
  s.modClu k fun c => { c with run := .stopped, stop := s.stopRecord k code kind f }

theorem stopCluster_run (s : State) (k : Who) (code kind : Nat) (f : FaultInfo) (hr : (s.clu k).run = .run) :
    s.stopCluster k code kind f = if code = 0 then s.stops k code kind f
      else (s.stops k code kind f).traceClu k 6 (BitVec.ofNat 64 (code + (s.clu k).pc.toNat * 2 ^ 32)) := by
  unfold State.stopCluster State.stops State.stopRecord
  simp only [hr]
  simp

theorem stopCluster_stopped (s : State) (k : Who) (code kind : Nat) (f : FaultInfo) (hr : (s.clu k).run = .stopped) :
    s.stopCluster k code kind f = s := by
  unfold State.stopCluster
  simp [hr]

/-- Stopping a cluster changes that cluster and its die's trace only. -/
theorem stopCluster_fld {α : Type} (g : State → α) (hc : ∀ s k f, g (State.modClu s k f) = g s)
    (hd : ∀ s d f, g (State.modDie s d f) = g s) (s : State) (k : Who) (code kind : Nat) (f : FaultInfo) :
    g (s.stopCluster k code kind f) = g s := by
  unfold State.stopCluster
  dsimp only
  split
  · rfl
  · split
    · exact hc ..
    · exact (traceClu_fld g hd ..).trans (hc ..)

theorem stopCluster_other (s : State) (j k : Who) (code kind : Nat) (f : FaultInfo) (hj : j ≠ k) :
    (s.stopCluster k code kind f).clu j = s.clu j := by
  unfold State.stopCluster
  dsimp only
  split
  · rfl
  · split
    · exact clu_modClu_other _ _ _ _ hj
    · rw [traceClu_clu, clu_modClu_other _ _ _ _ hj]

theorem stopCluster_stops (s : State) (k : Who) (code kind : Nat) (f : FaultInfo) :
    ((s.stopCluster k code kind f).clu k).run = .stopped := by
  unfold State.stopCluster
  dsimp only
  split
  · assumption
  · split
    · rw [clu_modClu]
    · rw [traceClu_clu, clu_modClu]

theorem quiet_stopCluster (s : State) (k : Who) (code kind : Nat) (f : FaultInfo) :
    Quiet s (s.stopCluster k code kind f) := by
  unfold State.stopCluster
  dsimp only
  split
  · exact Quiet.refl s
  · split
    · exact Quiet.modClu _ _ _ fun _ => rfl
    · refine Quiet.trans (Quiet.modClu _ k _ ?_) (quiet_traceClu ..)
      exact fun _ => rfl

/-! The halt of a cluster by the line or by Vigil. -/

theorem haltCluster_fld {α : Type} (g : State → α) (hc : ∀ s k f, g (State.modClu s k f) = g s)
    (hd : ∀ s d f, g (State.modDie s d f) = g s) (s : State) (k : Who) : g (s.haltCluster k) = g s := by
  unfold State.haltCluster
  split
  · exact hc ..
  · exact stopCluster_fld g hc hd ..

theorem quiet_haltCluster (s : State) (k : Who) : Quiet s (s.haltCluster k) :=
  Quiet.ite (Quiet.modClu _ _ _ fun _ => rfl) (quiet_stopCluster ..)

theorem haltCluster_stops (s : State) (k : Who) : ((s.haltCluster k).clu k).run = .stopped := by
  unfold State.haltCluster
  split
  · rw [clu_modClu]
  · exact stopCluster_stops ..

/-- A cluster that has stopped keeps its record. -/
theorem haltCluster_keeps (s : State) (j k : Who) (hj : (s.clu j).run = .stopped) :
    (s.haltCluster k).clu j = s.clu j := by
  unfold State.haltCluster
  by_cases e : j = k
  · subst e
    split
    · rw [clu_modClu, ← hj]
    · rw [stopCluster_stopped _ _ _ _ _ hj]
  · split
    · exact clu_modClu_other _ _ _ _ e
    · exact stopCluster_other _ _ _ _ _ _ e

theorem haltClusters_keeps (l : List Who) : ∀ (s : State) (j : Who), (s.clu j).run = .stopped →
    (l.foldl State.haltCluster s).clu j = s.clu j := by
  induction l with
  | nil => exact fun _ _ _ => rfl
  | cons k r ih =>
    intro s j hj
    rw [List.foldl_cons]
    have e := haltCluster_keeps s j k hj
    exact (ih (s.haltCluster k) j (by rw [e, hj])).trans e

theorem haltClusters_stops (l : List Who) : ∀ (s : State) (j : Who), j ∈ l →
    ((l.foldl State.haltCluster s).clu j).run = .stopped := by
  induction l with
  | nil => intro _ _ h; cases h
  | cons k r ih =>
    intro s j hj
    rw [List.foldl_cons]
    obtain rfl | hj := List.mem_cons.1 hj
    · have hs := haltCluster_stops s j
      exact (congrArg Cluster.run (haltClusters_keeps r _ j hs)).trans hs
    · exact ih _ j hj

/-! Vigil absorbs, or the line is raised. -/

theorem absorb_clu (s : State) (k j : Who) : (s.absorb k).clu j = (k.clusters.foldl State.haltCluster s).clu j := by
  unfold State.absorb
  generalize k.clusters.foldl State.haltCluster s = u
  dsimp only
  split <;> rfl

theorem absorb_parts (s : State) (k : Who) : (s.absorb k).parts = s.parts := by
  have fold := foldl_fld State.parts State.haltCluster
    (haltCluster_fld State.parts (fun _ _ _ => rfl) fun _ _ _ => rfl) k.clusters s
  unfold State.absorb
  rw [← fold]
  generalize k.clusters.foldl State.haltCluster s = u
  dsimp only
  split <;> rfl

theorem quiet_absorb (s : State) (k : Who) : Quiet s (s.absorb k) := by
  unfold State.absorb
  refine (Quiet.foldl State.haltCluster quiet_haltCluster k.clusters s).trans ?_
  generalize k.clusters.foldl State.haltCluster s = u
  dsimp only
  split
  · exact Quiet.refl u
  · exact Quiet.of_same rfl rfl rfl

theorem quiet_raiseLine (s : State) (p code : Nat) (k : Who) (unit : Nat) : Quiet s (s.raiseLine p code k unit) :=
  Quiet.of_same rfl rfl rfl

theorem quiet_taskFault (s : State) (k : Who) (unit code : Nat) : Quiet s (s.taskFault k unit code) := by
  unfold State.taskFault
  dsimp only
  split
  · exact quiet_absorb ..
  · exact quiet_raiseLine ..

/-- A running partition's line is raised (R368). -/
theorem raiseLine_line (s : State) (p code : Nat) (k : Who) (unit : Nat) (hr : (s.part p).run = .running) :
    ((s.raiseLine p code k unit).part p).line = true := by
  unfold State.raiseLine
  rw [part_modPart, if_pos rfl, hr]
  simp [Part.line]

/-! The fault of the issuing cluster. -/

/-- A failed walk that the fault reports is no longer owed (R200). -/
def State.walkTold (s : State) (f : FaultInfo) : State :=
  if f.code = fTranslation then
    s.modMyCore fun x => { x with walkBad := x.walkBad.filter (· ≠ (s.myTask.part, f.addr.toNat / 65536)) } else s

theorem walkTold_fld {α : Type} (g : State → α)
    (hg : ∀ (s : State) (w : Core → List (Nat × Nat)), g (s.modMyCore fun x => { x with walkBad := w x }) = g s) (s : State) (f : FaultInfo) :
    g (s.walkTold f) = g s := by
  unfold State.walkTold
  split
  · exact hg ..
  · rfl

@[simp] theorem walkTold_cur (s : State) (f : FaultInfo) : (s.walkTold f).cur = s.cur :=
  walkTold_fld _ (fun _ _ => rfl) s f
@[simp] theorem walkTold_parts (s : State) (f : FaultInfo) : (s.walkTold f).parts = s.parts :=
  walkTold_fld _ (fun _ _ => rfl) s f
@[simp] theorem walkTold_ctxOf (s : State) (f : FaultInfo) (k : Who) : (s.walkTold f).ctxOf k = s.ctxOf k :=
  walkTold_fld (State.ctxOf · k) (fun _ _ => ctxOf_modCore _ _ _ _ fun _ => rfl) s f
@[simp] theorem walkTold_clu (s : State) (f : FaultInfo) (k : Who) : (s.walkTold f).clu k = s.clu k :=
  congrArg (Ctx.clu · k.clu) (walkTold_ctxOf s f k)
@[simp] theorem walkTold_taskOf (s : State) (f : FaultInfo) (k : Who) : (s.walkTold f).taskOf k = s.taskOf k := by
  unfold State.taskOf; rw [walkTold_ctxOf]

theorem quiet_walkTold (s : State) (f : FaultInfo) : Quiet s (s.walkTold f) :=
  Quiet.ite (Quiet.modCore _ _ _ fun _ => ⟨rfl, rfl, rfl⟩) (Quiet.refl s)

/-- The cluster stops, then Vigil absorbs the fault or the line is raised. -/
theorem precise_eq (s : State) (f : FaultInfo) :
    s.precise f = ((s.walkTold f).stopCluster s.cur f.code 1 f).taskFault s.cur s.cur.clu.num f.code := by
  show ((s.walkTold f).stopCluster (s.walkTold f).cur f.code 1 f).taskFault (s.walkTold f).cur
    (s.walkTold f).cur.clu.num f.code = _
  rw [walkTold_cur]

theorem quiet_precise (s : State) (f : FaultInfo) : Quiet s (s.precise f) := by
  rw [precise_eq]
  exact (quiet_walkTold s f).trans ((quiet_stopCluster ..).trans (quiet_taskFault ..))

theorem absorb_cur (s : State) (k : Who) : (s.absorb k).cur = s.cur := by
  have fold := foldl_fld State.cur State.haltCluster
    (haltCluster_fld State.cur (fun _ _ _ => rfl) fun _ _ _ => rfl) k.clusters s
  unfold State.absorb
  rw [← fold]
  generalize k.clusters.foldl State.haltCluster s = u
  dsimp only
  split <;> rfl

@[simp] theorem taskFault_cur (s : State) (k : Who) (unit code : Nat) : (s.taskFault k unit code).cur = s.cur := by
  unfold State.taskFault
  dsimp only
  split
  · exact absorb_cur s k
  · rfl

@[simp] theorem stopCluster_cur (s : State) (k : Who) (code kind : Nat) (f : FaultInfo) :
    (s.stopCluster k code kind f).cur = s.cur := stopCluster_fld State.cur (fun _ _ _ => rfl) (fun _ _ _ => rfl) ..

@[simp] theorem precise_cur (s : State) (f : FaultInfo) : (s.precise f).cur = s.cur := by
  rw [precise_eq, taskFault_cur, stopCluster_cur, walkTold_cur]

/-- A stopped cluster keeps its record through what follows the fault. -/
theorem taskFault_keeps (s : State) (k j : Who) (unit code : Nat) (hj : (s.clu j).run = .stopped) :
    (s.taskFault k unit code).clu j = s.clu j := by
  unfold State.taskFault
  dsimp only
  split
  · rw [absorb_clu, haltClusters_keeps _ _ _ hj]
  · rfl

theorem stops_clu (s : State) (k : Who) (code kind : Nat) (f : FaultInfo) :
    (s.stops k code kind f).clu k = { s.clu k with run := .stopped, stop := s.stopRecord k code kind f } :=
  clu_modClu ..

theorem stopCluster_clu (s : State) (k : Who) (code kind : Nat) (f : FaultInfo) (hr : (s.clu k).run = .run) :
    (s.stopCluster k code kind f).clu k = { s.clu k with run := .stopped, stop := s.stopRecord k code kind f } := by
  rw [stopCluster_run _ _ _ _ _ hr]
  split
  · exact stops_clu ..
  · rw [traceClu_clu, stops_clu]

/-- The faulting cluster: all but its run state and its stop record is as it was. -/
theorem precise_me (s : State) (f : FaultInfo) (hr : s.me.run = .run) :
    (s.precise f).me = { s.me with run := .stopped, stop := (s.walkTold f).stopRecord s.cur f.code 1 f } := by
  have hw : ((s.walkTold f).clu s.cur).run = .run := by rw [walkTold_clu]; exact hr
  show (s.precise f).clu (s.precise f).cur = _
  rw [precise_cur, precise_eq, taskFault_keeps _ _ _ _ _ (stopCluster_stops ..), stopCluster_clu _ _ _ _ _ hw, walkTold_clu]
  rfl

theorem stopCluster_parts (s : State) (k : Who) (code kind : Nat) (f : FaultInfo) :
    (s.stopCluster k code kind f).parts = s.parts :=
  stopCluster_fld State.parts (fun _ _ _ => rfl) (fun _ _ _ => rfl) ..

theorem stopCluster_taskOf (s : State) (k j : Who) (code kind : Nat) (f : FaultInfo) :
    (s.stopCluster k code kind f).taskOf j = s.taskOf j :=
  stopCluster_fld (State.taskOf · j)
    (fun s k f => ctxFld_modClu (fun x => x.task.getD _) (fun _ _ _ => rfl) s k f j) (fun _ _ _ => rfl) ..

/-- The task of the faulting cluster, where what follows the fault reads it. -/
theorem fault_taskOf (s : State) (f : FaultInfo) :
    ((s.walkTold f).stopCluster s.cur f.code 1 f).taskOf s.cur = s.myTask := by
  rw [stopCluster_taskOf, walkTold_taskOf]; rfl

theorem fault_parts (s : State) (f : FaultInfo) : ((s.walkTold f).stopCluster s.cur f.code 1 f).parts = s.parts := by
  rw [stopCluster_parts, walkTold_parts]

/-- A fault that Vigil does not absorb raises the line of the task's partition (R367, R368). -/
theorem precise_line (s : State) (f : FaultInfo) (hf : f.code ≠ fCheckFail ∨ s.myTask.cls = 0)
    (hr : (s.part s.myTask.part).run = .running) : ((s.precise f).part s.myTask.part).line = true := by
  rw [precise_eq, State.taskFault]
  rw [fault_taskOf, if_neg (by simpa [Decidable.or_iff_not_imp_left] using hf)]
  refine raiseLine_line _ _ _ _ _ ?_
  rw [← hr]
  unfold State.part
  rw [fault_parts]

/-- A CHECK_FAIL in a protected class stops the clusters of its context and no partition (R370). -/
theorem precise_absorbed (s : State) (f : FaultInfo) (hf : f.code = fCheckFail) (hc : s.myTask.cls ≠ 0) :
    (∀ u, ((s.precise f).clu { s.cur with clu := u }).run = .stopped) ∧
      ∀ p, ((s.precise f).part p).run = (s.part p).run := by
  rw [precise_eq, State.taskFault]
  rw [fault_taskOf, if_pos (by simp [hf, hc])]
  constructor
  · intro u
    rw [absorb_clu]
    exact haltClusters_stops _ _ _ (by cases u <;> simp [Who.clusters])
  · intro p
    unfold State.part
    rw [absorb_parts, fault_parts]

/-- Settles O55: the stop of the cluster is one update, everything else is outside registers and memories. -/
theorem preciseFaultsStopTheirCluster : Obligations.PreciseFaultsStopTheirCluster := by
  intro s f hr _
  have hq := quiet_precise s f
  rw [precise_me s f hr]
  refine ⟨rfl, rfl, rfl, rfl, rfl, ?_, ?_, rfl, rfl, hq.keepsRegs, hq.keepsBytes, precise_line s f, precise_absorbed s f⟩
  · exact congrArg Cluster.pc (walkTold_clu s f s.cur)
  · exact congrArg Task.tid (walkTold_taskOf s f s.cur)

end Sys2Proof.Machine
end

section
/-! Landing of a scalar result (R26, R27), branches (R114), hardware loops (R97 to R103, R115 to R118), ends of streams
(R119, R120), barriers and flags (R95, R96). -/

namespace Sys2Proof.Machine

/-! One scalar result in flight. -/

/-- The flight that results of a word of a class make. -/
def State.flightOf (s : State) (cls : Nat) (res : List Res) : Flight :=
  ⟨s.me.sc + s.lat cls, s.me.sc + Nat.max (s.lat cls) (s.ownLatency (dieOf s.cur.core) cls), res, cls⟩

theorem later_cons (s : State) (cls : Nat) (r : Res) (l : List Res) :
    s.later cls (r :: l) = s.modMe fun c => { c with dl := c.dl ++
      [⟨c.sc + s.lat cls, c.sc + Nat.max (s.lat cls) (s.ownLatency (dieOf s.cur.core) cls), r :: l, cls⟩] } := rfl

theorem flightOf_due (s : State) (cls : Nat) (res : List Res) (sc : Nat) :
    Flight.due sc (s.flightOf cls res) = true ↔
      s.me.sc + s.lat cls ≤ sc ∧ s.me.sc + s.ownLatency (dieOf s.cur.core) cls ≤ sc := by
  have hm : Nat.max (s.lat cls) (s.ownLatency (dieOf s.cur.core) cls) =
    max (s.lat cls) (s.ownLatency (dieOf s.cur.core) cls) := rfl
  unfold Flight.due State.flightOf
  rw [Bool.and_eq_true, decide_eq_true_eq, decide_eq_true_eq, hm]
  dsimp only
  omega

theorem modMe_modMe (s : State) (f g : Cluster → Cluster) : ((s.modMe f).modMe g).me = g (f s.me) :=
  (me_modMe _ _).trans (congrArg g (me_modMe _ _))

/-- Settles O2: the only flight of a cluster lands in its sc and stays until then. -/
theorem scalarResultLands : Obligations.ScalarResultLands := by
  intro s cls r sc v hdl own t u
  have ht : t.me.dl = [s.flightOf cls [.scal r v]] := by
    rw [show t = _ from later_cons .., me_modMe, hdl]; rfl
  have hu : (u.clu s.cur).dl = [s.flightOf cls [.scal r v]] := by
    rw [show u.clu s.cur = _ from modMe_modMe ..]
    exact congrArg (· ++ [s.flightOf cls [.scal r v]]) hdl
  have hsc : (u.clu s.cur).sc = sc := congrArg Cluster.sc (me_modMe t _)
  have hsreg : ∀ q, (u.clu s.cur).sreg q = s.me.sreg q := fun q =>
    (congrArg (Cluster.sreg · q) (modMe_modMe s _ _)).trans rfl
  refine ⟨ht, fun hd => ?_, fun hn => landDue_early u s.cur _ hu ?_⟩
  · have land := landDue_only u s.cur _ hu (by rw [hsc, flightOf_due]; exact hd)
    have hme : (u.landDue s.cur).me = ({ u.clu s.cur with dl := [] } : Cluster).setS r v := by
      rw [land]
      exact (clu_modClu _ _ _).trans (congrArg (Cluster.setS · r v) (clu_modClu _ _ _))
    rw [hme]
    constructor
    · unfold Cluster.setS; split <;> rfl
    · intro q
      rw [sreg_setS]
      exact congrArg (fun x => if q = r ∧ r ≠ 0 then v else x) (hsreg q)
  · rw [hsc, Bool.eq_false_iff]
    exact fun e => absurd ((flightOf_due ..).1 e) (by omega)

/-! Branches. -/

@[simp] theorem taken_wordPc (s : State) (h : Hdr) (i : Instr) : (s.taken h).wordPc i = s.wordPc i := by
  unfold State.wordPc; rw [taken_me]

theorem cond_iff (s : State) (p : BitVec 3) (n : BitVec 1) :
    s.cond p n = true ↔ s.me.preg p.toNat ≠ decide (n = 1) := by
  unfold State.cond
  cases s.me.preg p.toNat <;> cases decide (n = 1) <;> simp

theorem jumpReg_act (s : State) (h : Hdr) (r : Nat) (ends : Bool) :
    (jumpReg r ends).act (s.taken h) = if 2 ^ 32 ≤ (s.me.sreg r).toNat then .fault { code := fIllegalWord }
      else .done (s.taken h) (.jump (s.me.sreg r).toNat ends) := by
  simp only [jumpReg, meaning, taken_me, ge_iff_le]

theorem runWord_jumpReg (s : State) (i : Instr) (h : Hdr) (r : Nat) (ends : Bool) (k : s.Issues i h)
    (hv : (s.me.sreg r).toNat < 2 ^ 32) :
    runWord i h (jumpReg r ends) s = .next (s.issued i h .latency (s.taken h) (.jump (s.me.sreg r).toNat ends)) :=
  runWord_done s i h _ _ _ k (by rw [jumpReg_act, if_neg (Nat.not_le.2 hv)])

theorem runWord_jumpReg_fault (s : State) (i : Instr) (h : Hdr) (r : Nat) (ends : Bool) (k : s.Issues i h)
    (hv : 2 ^ 32 ≤ (s.me.sreg r).toNat) : runWord i h (jumpReg r ends) s = .next (s.precise { code := 1 }) :=
  runWord_fault s i h _ _ k (by rw [jumpReg_act, if_pos hv]; rfl)

/-- Settles O3: each branch word goes where its target or its scalar says. -/
theorem branchesGoToTheirTargets : Obligations.BranchesGoToTheirTargets := by
  refine ⟨fun s h x o p n a => ⟨fun k => ?_, fun k => ?_, fun k => ?_, runWord_jumpReg s _ h _ _,
    runWord_jumpReg s _ h _ _⟩, fun s h a => ⟨runWord_jumpReg_fault s _ h _ _, runWord_jumpReg_fault s _ h _ _⟩⟩
  · refine runWord_done s _ h _ _ _ k ?_
    simp only [meaning, cond_iff, taken_me, State.target, taken_wordPc]
  · exact runWord_done s _ h _ _ _ k (by simp only [meaning, State.target, taken_wordPc])
  · exact runWord_done s _ h _ _ _ k (by simp only [meaning, State.target, taken_wordPc])

/-! Hardware loops. -/

/-- Where a loop word may not stand (R99). -/
def Cluster.loopBad (c : Cluster) (ls le : Nat) (pipe : Bool) : Prop :=
  3 ≤ c.ldepth ∨ (0 < c.ldepth ∧ (c.leOf (c.ldepth - 1)).toNat < le) ∨
    ∃ l g, c.loopp = some (l, g) ∧ (pipe = true ∨ ((c.lsOf l).toNat ≤ ls ∧ le ≤ (c.leOf l).toNat))

/-- The cluster in a new innermost loop (R98, R103). -/
def Cluster.enterLoop (c : Cluster) (ls le count : Nat) (shape : Option (Nat × Nat)) : Cluster :=
  { c with
    ldepth := c.ldepth + 1
    ls := tblPut c.ls c.ldepth (BitVec.ofNat 32 ls)
    le := tblPut c.le c.ldepth (BitVec.ofNat 32 le)
    lc := tblPut c.lc c.ldepth (BitVec.ofNat 64 (if shape.isSome then count - 1 else count))
    loopp := match shape with | none => c.loopp | some g => some (c.ldepth, g.1, g.2)
    stg := if shape.isSome then 1 else c.stg
    stopping := if shape.isSome then false else c.stopping }

theorem startLoop_bad_iff (c : Cluster) (ls le : Nat) (shape : Option (Nat × Nat)) :
    (3 ≤ c.ldepth || (0 < c.ldepth && (c.leOf (c.ldepth - 1)).toNat < le) ||
      (match c.loopp with | some (l, _, _) => (c.lsOf l).toNat ≤ ls && le ≤ (c.leOf l).toNat | none => false) ||
      (shape.isSome && c.loopp.isSome)) = true ↔ c.loopBad ls le shape.isSome := by
  unfold Cluster.loopBad
  cases hp : c.loopp with
  | none => simp
  | some lg =>
    obtain ⟨l, g⟩ := lg
    grind

theorem startLoop_fault (s : State) (i : Instr) (count len : Nat) (shape : Option (Nat × Nat)) (hl : 1 ≤ len)
    (hb : s.me.loopBad (s.wordPc i + 4) (s.wordPc i + 4 * len) shape.isSome) :
    s.startLoop i count len shape = .fault { code := fIllegalWord } := by
  rw [show s.wordPc i + 4 * len = s.wordPc i + 4 + 4 * (len - 1) by omega] at hb
  unfold State.startLoop
  dsimp only
  exact if_pos ((startLoop_bad_iff ..).2 hb)

theorem startLoop_done (s : State) (i : Instr) (count len : Nat) (shape : Option (Nat × Nat)) (hl : 1 ≤ len)
    (hb : ¬s.me.loopBad (s.wordPc i + 4) (s.wordPc i + 4 * len) shape.isSome) :
    s.startLoop i count len shape =
      if count = 0 then .done s (.goto (BitVec.ofNat 32 (s.wordPc i + 4 + 4 * len)))
      else .done (s.modMe fun c => c.enterLoop (s.wordPc i + 4) (s.wordPc i + 4 * len) count shape) .seq := by
  have e : s.wordPc i + 4 * len = s.wordPc i + 4 + 4 * (len - 1) := by omega
  rw [e] at hb ⊢
  unfold State.startLoop
  dsimp only
  refine (if_neg (mt (startLoop_bad_iff ..).1 hb)).trans ?_
  split
  · rfl
  · cases shape with
    | none => exact congrArg (Act.done · .seq) (modMe_congr s _ _ rfl)
    | some g => exact congrArg (Act.done · .seq) ((modMe_comp s _ _).trans (modMe_congr s _ _ rfl))

/-- A loop word with its count, the words of its body and the shape of a LOOPP. -/
def State.loopWord (s : State) (i : Instr) (count len : Nat) (shape : Option (Nat × Nat)) : Prop :=
  match i with
  | .loop _ d l => count = (s.me.sreg d.toNat).toNat ∧ len = l.toNat ∧ shape = none
  | .loopi _ x c l =>
    count = (match x with | none => c.toNat | some v => v.toNat * 32 + c.toNat) ∧ len = l.toNat ∧ shape = none
  | .loopp _ d st g =>
    count = (s.me.sreg d.toNat).toNat ∧ len = (st.toNat + 1) * g.toNat ∧ shape = some (st.toNat + 1, g.toNat)
  | _ => False

/-- Each loop word starts its loop. -/
theorem exec_loopWord (s : State) (i : Instr) (h : Hdr) (count len : Nat) (shape : Option (Nat × Nat))
    (k : s.Issues i h) (hw : s.loopWord i count len shape) :
    ∃ reads, ∃ f : State → Nat, f (s.taken h) = count ∧
      exec i s = runWord i h (meaning reads fun t => t.startLoop i (f t) len shape) s := by
  unfold State.loopWord at hw
  split at hw
  · obtain ⟨rfl, rfl, rfl⟩ := hw
    obtain rfl := issues_hdr_eq k rfl
    exact ⟨_, fun t => (t.me.sreg _).toNat, by dsimp only; rw [taken_me], rfl⟩
  · obtain ⟨rfl, rfl, rfl⟩ := hw
    obtain rfl := issues_hdr_eq k rfl
    exact ⟨_, fun _ => _, rfl, rfl⟩
  · obtain ⟨rfl, rfl, rfl⟩ := hw
    obtain rfl := issues_hdr_eq k rfl
    exact ⟨_, fun t => (t.me.sreg _).toNat, by dsimp only; rw [taken_me], rfl⟩
  · exact hw.elim

/-- A loop word that may not stand there. -/
theorem exec_loopWord_fault (s : State) (i : Instr) (h : Hdr) (count len : Nat) (shape : Option (Nat × Nat))
    (k : s.Issues i h) (hw : s.loopWord i count len shape) (hl : 1 ≤ len)
    (hb : s.me.loopBad (s.wordPc i + 4) (s.wordPc i + 4 * len) shape.isSome) :
    exec i s = .next (s.precise { code := 1 }) := by
  obtain ⟨reads, f, -, e⟩ := exec_loopWord s i h count len shape k hw
  rw [e]
  refine runWord_fault s i h _ _ k (startLoop_fault _ _ _ _ _ hl ?_)
  rw [taken_me, taken_wordPc]
  exact hb

/-- A loop word that may: it skips the body, or starts a level. -/
theorem exec_loopWord_done (s : State) (i : Instr) (h : Hdr) (count len : Nat) (shape : Option (Nat × Nat))
    (k : s.Issues i h) (hw : s.loopWord i count len shape) (hl : 1 ≤ len)
    (hb : ¬s.me.loopBad (s.wordPc i + 4) (s.wordPc i + 4 * len) shape.isSome) :
    exec i s = .next (
      if count = 0 then s.issued i h .latency (s.taken h) (.goto (BitVec.ofNat 32 (s.wordPc i + 4 + 4 * len)))
      else s.issued i h .latency ((s.taken h).modMe fun c =>
        c.enterLoop (s.wordPc i + 4) (s.wordPc i + 4 * len) count shape) .seq) := by
  obtain ⟨reads, f, rfl, e⟩ := exec_loopWord s i h count len shape k hw
  have act := startLoop_done (s.taken h) i (f (s.taken h)) len shape hl (by rw [taken_me, taken_wordPc]; exact hb)
  rw [taken_wordPc] at act
  rw [e]
  split
  · next h0 => exact runWord_done s i h _ _ _ k (act.trans (if_pos h0))
  · next h0 => exact runWord_done s i h _ _ _ k (act.trans (if_neg h0))

/-! BRKL and the ends of a stream (R118 to R120). -/

theorem brkl_stays (s : State) (h : Hdr) (p : BitVec 3) (n : BitVec 1) (k : s.Issues (.brkl h p n) h)
    (hc : s.me.preg p.toNat = decide (n = 1) ∨ s.me.ldepth = 0) :
    exec (.brkl h p n) s = .next (s.issued (.brkl h p n) h .latency (s.taken h) .seq) := by
  refine runWord_done s _ h _ _ _ k ?_
  have cond : (!(s.taken h).cond p n || (s.taken h).me.ldepth = 0) = true := by
    rw [taken_me, Bool.or_eq_true, Bool.not_eq_true', ← Bool.not_eq_true, cond_iff, taken_me, decide_eq_true_eq]
    exact hc.imp_left not_not_intro
  exact if_pos cond

theorem brkl_leaves (s : State) (h : Hdr) (p : BitVec 3) (n : BitVec 1) (l : Nat)
    (hp : s.me.preg p.toNat ≠ decide (n = 1)) (hl : s.me.ldepth = l + 1) :
    (!(s.taken h).cond p n || (s.taken h).me.ldepth = 0) = false := by
  have hc : (s.taken h).cond p n = true := (cond_iff ..).2 (by rw [taken_me]; exact hp)
  rw [hc, taken_me, hl]; rfl

theorem exec_brkl_plain (s : State) (h : Hdr) (p : BitVec 3) (n : BitVec 1) (l : Nat) (k : s.Issues (.brkl h p n) h)
    (hp : s.me.preg p.toNat ≠ decide (n = 1)) (hl : s.me.ldepth = l + 1) (hpipe : s.me.loopp = none) :
    exec (.brkl h p n) s = .next (s.issued (.brkl h p n) h .latency
      ((s.taken h).modMe fun c => { c with ldepth := l }) (.goto (s.me.leOf l + 4))) := by
  refine runWord_done s _ h _ _ _ k ((if_neg (Bool.eq_false_iff.1 (brkl_leaves s h p n l hp hl))).trans ?_)
  rw [taken_me, hl, hpipe]
  rfl

theorem exec_brkl_pipe (s : State) (h : Hdr) (p : BitVec 3) (n : BitVec 1) (l : Nat) (g : Nat × Nat)
    (k : s.Issues (.brkl h p n) h) (hp : s.me.preg p.toNat ≠ decide (n = 1)) (hl : s.me.ldepth = l + 1)
    (hpipe : s.me.loopp = some (l, g)) :
    exec (.brkl h p n) s = .next (s.issued (.brkl h p n) h .latency
      ((s.taken h).modMe fun c => { c with lc := tblPut c.lc l 0, stopping := true }) .seq) := by
  refine runWord_done s _ h _ _ _ k ((if_neg (Bool.eq_false_iff.1 (brkl_leaves s h p n l hp hl))).trans ?_)
  rw [taken_me, hl, hpipe]
  exact if_pos (decide_eq_true rfl)

/-- Nothing of a cluster is on its way when it has no result and no load in flight. -/
theorem loadsDone_of_none (s : State) (k : Who) (hdl : (s.clu k).dl = [])
    (hl : ∀ e ∈ s.accs, ¬(e.2.who = k ∧ e.2.loads = true)) : s.loadsDone k = true := by
  have hany : (s.accs.any fun (_, a) => a.who = k && a.task.same (s.taskOf k) && a.loads) = false := by
    rw [List.any_eq_false]
    intro e he h
    simp only [Bool.and_eq_true, decide_eq_true_eq] at h
    exact hl e he ⟨h.1.1, h.2⟩
  unfold State.loadsDone
  rw [hany, hdl]; rfl

@[simp] theorem taken_loadsDone (s : State) (h : Hdr) (k : Who) : (s.taken h).loadsDone k = s.loadsDone k := by
  unfold State.loadsDone
  rw [taken_accs, taken_taskOf, taken_clu]

@[simp] theorem taken_mxOf (s : State) (h : Hdr) (k : Who) : (s.taken h).mxOf k = s.mxOf k := by
  unfold State.mxOf
  dsimp only
  rw [taken_mxq, taken_mxRun]

theorem exec_tail (s : State) (h : Hdr) (k : s.Issues (.tail h) h) (hdl : s.me.dl = [])
    (hl : s.loadsDone s.cur = true) (hm : s.cur.clu = .m → s.mxOf s.cur = false)
    (ht : s.myCore.tracker.length < 8) :
    exec (.tail h) s = .next (s.issued (.tail h) h .latency (s.taken h) (.ended .tailed)) := by
  refine runWord_done s _ h _ _ _ k ?_
  have hmx : ¬(s.cur.clu = .m && s.mxOf s.cur) = true := by
    rw [Bool.and_eq_true, decide_eq_true_eq]
    exact fun ⟨e, m⟩ => Bool.eq_false_iff.1 (hm e) m
  have htr : ¬8 ≤ ((s.taken h).core s.cur.core).tracker.length := by
    rw [taken_tracker]; exact Nat.not_le.2 ht
  simp only [meaning, taken_me, taken_cur, taken_loadsDone, taken_mxOf, hdl, hl]
  refine (if_neg (by simp)).trans ((if_neg hmx).trans (if_neg ?_))
  rw [myCore_def, taken_cur]
  exact htr

/-- Settles O4: the loop words by their common start, BRKL by the level it leaves, END and TAIL by their conditions. -/
theorem loopsStartAndStreamsEnd : Obligations.LoopsStartAndStreamsEnd := by
  refine ⟨fun s i h count len shape k hw hl => ⟨fun hb => ?_, fun hd hn hp => ?_⟩, fun s h p n => ⟨brkl_stays s h p n,
    fun l k hp hl => exec_brkl_plain s h p n l k hp hl, fun l g k hp hl => exec_brkl_pipe s h p n l g k hp hl,
    fun k => runWord_done s _ h _ _ _ k rfl, fun k hdl hloads hmx htr => ?_⟩⟩
  · have hbad : s.me.loopBad (s.wordPc i + 4) (s.wordPc i + 4 * len) shape.isSome := hb.imp_left fun e => Nat.le_of_eq e.symm
    refine ⟨exec_loopWord_fault s i h count len shape k hw hl hbad, ?_⟩
    rw [precise_me s _ k.running]
    exact ⟨rfl, rfl⟩
  · refine exec_loopWord_done s i h count len shape k hw hl ?_
    rintro (h3 | ⟨h0, hle⟩ | ⟨l, g, hlg, hin⟩)
    · omega
    · omega
    · obtain ⟨hs, hout⟩ := hp l g hlg
      rw [hs] at hin
      exact hin.elim (fun e => by cases e) hout
  · exact exec_tail s h k hdl (loadsDone_of_none s s.cur hdl hloads) hmx htr

/-! What follows the word at the end of a body (R100, R103). -/

/-- The loop at the innermost level ends at the word. -/
def Cluster.endsAt (c : Cluster) (l w : Nat) : Prop := c.ldepth = l + 1 ∧ (c.leOf l).toNat = w

/-- Where no loop ends at the word, control goes on. -/
theorem afterWord_seq (n : Nat) (c : Cluster) (w : Nat) (h : ∀ m, c.ldepth = m + 1 → (c.leOf m).toNat ≠ w) :
    c.afterWord n w = { c with pc := BitVec.ofNat 32 (w + 4) } := by
  cases n with
  | zero => rfl
  | succ n =>
    refine if_pos ?_
    cases hd : c.ldepth with
    | zero => simp
    | succ m => simpa using h m hd

/-- Control goes back to the start of a body (R101). -/
def Cluster.goBack (c : Cluster) (l : Nat) : Cluster :=
  if c.longBody l then { c with pc := c.lsOf l, gap := c.gap + 2, lgap := 2 } else { c with pc := c.lsOf l }

/-- Stages and group size of the LOOPP at a level. -/
def Cluster.pipeAt (c : Cluster) (l : Nat) : Option (Nat × Nat) :=
  match c.loopp with | some (lv, st, g) => if lv = l then some (st, g) else none | none => none

/-- The check of a loop that is no LOOPP (R100). -/
def Cluster.comeBack (c : Cluster) (n l w : Nat) : Cluster :=
  if (c.lcOf l).toNat ≤ 1 then Cluster.afterWord n { c with lc := tblPut c.lc l 0, ldepth := l } w
  else Cluster.goBack { c with lc := tblPut c.lc l (c.lcOf l - 1), atBack := true } l

/-- Whether a LOOPP admits an iteration at the end of a pass (R103). -/
def Cluster.admits (c : Cluster) (l : Nat) : Bool := c.lcOf l ≠ 0 && !c.stopping && !c.draining

/-- The stage bits after a pass (R103). -/
def Cluster.stagesAfter (c : Cluster) (l st : Nat) : Nat := (2 * c.stg.toNat + (if c.admits l then 1 else 0)) % 2 ^ st

/-- The cluster with the iteration counted that a pass end admits. -/
def Cluster.counted (c : Cluster) (l : Nat) : Cluster :=
  if c.admits l then { c with lc := tblPut c.lc l (c.lcOf l - 1) } else c

/-- The cluster outside the LOOPP that has ended. -/
def Cluster.pipeOver (c : Cluster) (l : Nat) : Cluster :=
  { c with stg := 0, ldepth := l, loopp := none, stopping := false, draining := false }

/-- The end of a pass of a LOOPP (R103). -/
def Cluster.passEnd (c : Cluster) (n l st g w : Nat) : Cluster :=
  if c.stagesAfter l st ≠ 0 then Cluster.goBack { c.counted l with stg := BitVec.ofNat 8 (c.stagesAfter l st) } l
  else if ((c.counted l).pipeOver l).lcOf l ≠ 0 && !(c.counted l).stopping then
    { (c.counted l).pipeOver l with pc := BitVec.ofNat 32 (w + 4), atBack := true, drained := some (l, st, g) }
  else { Cluster.afterWord n ((c.counted l).pipeOver l) w with atBack := true }

/-- A word at which the innermost loop ends. -/
theorem afterWord_ends (n : Nat) (c : Cluster) (l w : Nat) (hd : c.ldepth = l + 1) (hle : (c.leOf l).toNat = w) :
    c.afterWord (n + 1) w =
      match c.pipeAt l with | some (st, g) => c.passEnd n l st g w | none => c.comeBack n l w := by
  have hin : ¬(c.ldepth = 0 || (c.leOf (c.ldepth - 1)).toNat ≠ w) = true := by simp [hd, hle]
  unfold Cluster.afterWord
  rw [if_neg hin, show c.ldepth - 1 = l by rw [hd]; rfl]
  rfl

section
variable (c : Cluster) (l j : Nat)

@[simp] theorem goBack_pc : (c.goBack l).pc = c.lsOf l := by unfold Cluster.goBack; split <;> rfl
@[simp] theorem goBack_lcOf : (c.goBack l).lcOf j = c.lcOf j := by unfold Cluster.goBack; split <;> rfl
@[simp] theorem goBack_ldepth : (c.goBack l).ldepth = c.ldepth := by unfold Cluster.goBack; split <;> rfl
@[simp] theorem goBack_stg : (c.goBack l).stg = c.stg := by unfold Cluster.goBack; split <;> rfl
@[simp] theorem goBack_loopp : (c.goBack l).loopp = c.loopp := by unfold Cluster.goBack; split <;> rfl
theorem counted_eq : c.counted l = { c with lc := (c.counted l).lc } := by unfold Cluster.counted; split <;> rfl
@[simp] theorem counted_stopping : (c.counted l).stopping = c.stopping := by rw [counted_eq]
@[simp] theorem counted_ldepth : (c.counted l).ldepth = c.ldepth := by rw [counted_eq]
@[simp] theorem counted_loopp : (c.counted l).loopp = c.loopp := by rw [counted_eq]
@[simp] theorem counted_lsOf : (c.counted l).lsOf j = c.lsOf j := by rw [counted_eq]; rfl
@[simp] theorem counted_leOf : (c.counted l).leOf j = c.leOf j := by rw [counted_eq]; rfl
@[simp] theorem pipeOver_lcOf : (c.pipeOver l).lcOf j = c.lcOf j := rfl

theorem counted_lcOf : (c.counted l).lcOf j = if c.admits l ∧ j = l then c.lcOf l - 1 else c.lcOf j := by
  unfold Cluster.counted
  by_cases h : c.admits l = true
  · rw [if_pos h]
    unfold Cluster.lcOf
    simp [h]
  · rw [if_neg h, if_neg fun e => h e.1]

end

theorem lcOf_put (c d : Cluster) (l j : Nat) (v : Word) (h : d.lc = tblPut c.lc l v) :
    d.lcOf j = if j = l then v else c.lcOf j := by
  unfold Cluster.lcOf; rw [h, tblGet_tblPut]

/-- What follows a word leaves the counters above the active levels. -/
theorem afterWord_lcOf (n : Nat) : ∀ (c : Cluster) (w j : Nat), c.ldepth ≤ j → (c.afterWord n w).lcOf j = c.lcOf j := by
  induction n with
  | zero => exact fun _ _ _ _ => rfl
  | succ n ih =>
    intro c w j hj
    by_cases he : ∃ l, c.ldepth = l + 1 ∧ (c.leOf l).toNat = w
    · obtain ⟨l, hd, hle⟩ := he
      have hne : j ≠ l := by omega
      rw [afterWord_ends n c l w hd hle]
      split
      · have hcount : (c.counted l).lcOf j = c.lcOf j := by rw [counted_lcOf, if_neg fun e => hne e.2]
        unfold Cluster.passEnd
        split
        · exact (goBack_lcOf ..).trans hcount
        · split
          · exact hcount
          · exact (ih _ w j (by show l ≤ j; omega)).trans hcount
      · unfold Cluster.comeBack
        split
        · rw [ih _ w j (by show l ≤ j; omega), lcOf_put c _ l j _ rfl, if_neg hne]
        · rw [goBack_lcOf, lcOf_put c _ l j _ rfl, if_neg hne]
    · rw [afterWord_seq _ _ _ fun m hm e => he ⟨m, hm, e⟩]; rfl

/-- The check of a loop that is no LOOPP, where no outer loop ends at the word or one that is no LOOPP does (R100). -/
theorem comeBack_spec (n : Nat) (c : Cluster) (l w : Nat) (hd : c.ldepth = l + 1) :
    (1 < (c.lcOf l).toNat → (c.comeBack n l w).pc = c.lsOf l ∧ (c.comeBack n l w).ldepth = l + 1 ∧
      (c.comeBack n l w).lcOf l = c.lcOf l - 1) ∧
    ((c.lcOf l).toNat ≤ 1 → (c.comeBack n l w).lcOf l = 0 ∧
      ((∀ m, l = m + 1 → (c.leOf m).toNat ≠ w) →
        (c.comeBack n l w).pc = BitVec.ofNat 32 (w + 4) ∧ (c.comeBack n l w).ldepth = l)) := by
  constructor
  · intro h
    have e : c.comeBack n l w = _ := if_neg (Nat.not_le.2 h)
    rw [e]
    exact ⟨goBack_pc .., (goBack_ldepth ..).trans hd, (goBack_lcOf ..).trans ((lcOf_put c _ l l _ rfl).trans (if_pos rfl))⟩
  · intro h
    have e : c.comeBack n l w = _ := if_pos h
    rw [e]
    refine ⟨(afterWord_lcOf _ _ _ _ (Nat.le_refl l)).trans ((lcOf_put c _ l l _ rfl).trans (if_pos rfl)), fun hm => ?_⟩
    rw [afterWord_seq _ _ _ hm]
    exact ⟨rfl, rfl⟩

theorem pipeAt_none {c : Cluster} {l : Nat} (h : ∀ g, c.loopp ≠ some (l, g)) : c.pipeAt l = none := by
  unfold Cluster.pipeAt
  split
  · next lv st g e => exact if_neg fun hl => h (st, g) (by rw [e, hl])
  · rfl

theorem afterWord_plain (n : Nat) (c : Cluster) (l w : Nat) (hd : c.ldepth = l + 1) (hle : (c.leOf l).toNat = w)
    (hp : ∀ g, c.loopp ≠ some (l, g)) : c.afterWord (n + 1) w = c.comeBack n l w := by
  rw [afterWord_ends n c l w hd hle, pipeAt_none hp]

theorem afterWord_pipe (n : Nat) (c : Cluster) (l st g w : Nat) (hd : c.ldepth = l + 1) (hle : (c.leOf l).toNat = w)
    (hp : c.loopp = some (l, st, g)) : c.afterWord (n + 1) w = c.passEnd n l st g w := by
  have e : c.pipeAt l = some (st, g) := by unfold Cluster.pipeAt; rw [hp]; exact if_pos rfl
  rw [afterWord_ends n c l w hd hle, e]

/-- A loop that ends lets the next outer one, no LOOPP, make its check at the same word. -/
theorem comeBack_outer (n : Nat) (c : Cluster) (m w : Nat) (hc : (c.lcOf (m + 1)).toNat ≤ 1)
    (hle : (c.leOf m).toNat = w) (hp : ∀ g, c.loopp ≠ some (m, g)) :
    c.comeBack (n + 1) (m + 1) w =
      Cluster.comeBack { c with lc := tblPut c.lc (m + 1) 0, ldepth := m + 1 } n m w :=
  (if_pos hc).trans (afterWord_plain n _ m w rfl hle hp)

theorem admits_iff (c : Cluster) (l : Nat) :
    c.admits l = true ↔ c.lcOf l ≠ 0 ∧ c.stopping = false ∧ c.draining = false := by
  simp [Cluster.admits, and_assoc]

/-- The last pass of a LOOPP admits nothing. -/
theorem admits_of_stagesAfter {c : Cluster} {l st : Nat} (hst : 1 ≤ st) (h0 : c.stagesAfter l st = 0) :
    c.admits l = false := by
  rw [← Bool.not_eq_true]
  intro h
  unfold Cluster.stagesAfter at h0
  rw [if_pos h] at h0
  have : (2 * c.stg.toNat + 1) % 2 ^ st % 2 = (2 * c.stg.toNat + 1) % 2 :=
    Nat.mod_mod_of_dvd _ (Nat.pow_dvd_pow 2 hst)
  omega

theorem passEnd_lcOf (n : Nat) (c : Cluster) (l st g w : Nat) :
    (c.passEnd n l st g w).lcOf l = if c.admits l then c.lcOf l - 1 else c.lcOf l := by
  have hcount : (c.counted l).lcOf l = if c.admits l then c.lcOf l - 1 else c.lcOf l := by
    rw [counted_lcOf]; simp
  rw [← hcount]
  unfold Cluster.passEnd
  split
  · exact goBack_lcOf ..
  · split
    · rfl
    · exact afterWord_lcOf _ _ _ _ (Nat.le_refl l)

theorem passEnd_goes_on {n : Nat} {c : Cluster} {l st g w : Nat} (hd : c.ldepth = l + 1)
    (hst : st ≤ 8) (h : c.stagesAfter l st ≠ 0) :
    (c.passEnd n l st g w).pc = c.lsOf l ∧ (c.passEnd n l st g w).ldepth = l + 1 ∧
      (c.passEnd n l st g w).stg.toNat = c.stagesAfter l st ∧ (c.passEnd n l st g w).loopp = c.loopp := by
  have hlt : c.stagesAfter l st < 256 :=
    Nat.lt_of_lt_of_le (Nat.mod_lt _ (Nat.two_pow_pos _)) (Nat.pow_le_pow_right (n := 2) (by decide) hst)
  have e : c.passEnd n l st g w = _ := if_pos h
  rw [e]
  refine ⟨(goBack_pc ..).trans (counted_lsOf ..), (goBack_ldepth ..).trans ((counted_ldepth ..).trans hd), ?_,
    (goBack_loopp ..).trans (counted_loopp ..)⟩
  rw [goBack_stg]
  exact Nat.mod_eq_of_lt hlt

/-- Without a LOOPP, what follows a word leaves the stage bits and starts none. -/
theorem afterWord_noPipe (n : Nat) : ∀ (c : Cluster) (w : Nat), c.loopp = none →
    (c.afterWord n w).stg = c.stg ∧ (c.afterWord n w).loopp = none := by
  induction n with
  | zero => exact fun _ _ h => ⟨rfl, h⟩
  | succ n ih =>
    intro c w h
    by_cases he : ∃ l, c.ldepth = l + 1 ∧ (c.leOf l).toNat = w
    · obtain ⟨l, hd, hle⟩ := he
      rw [afterWord_plain n c l w hd hle fun g e => by rw [h] at e; cases e]
      unfold Cluster.comeBack
      split
      · exact ih _ w h
      · exact ⟨goBack_stg .., (goBack_loopp ..).trans h⟩
    · rw [afterWord_seq _ _ _ fun m hm e => he ⟨m, hm, e⟩]
      exact ⟨rfl, h⟩

/-- The end of the last pass of a LOOPP: it drains before its count is done, or the loop ends. -/
theorem passEnd_last {n : Nat} {c : Cluster} {l st g w : Nat} (hst : 1 ≤ st) (h0 : c.stagesAfter l st = 0) :
    c.passEnd n l st g w =
      if c.lcOf l ≠ 0 ∧ c.stopping = false then
        { c.pipeOver l with pc := BitVec.ofNat 32 (w + 4), atBack := true, drained := some (l, st, g) }
      else { Cluster.afterWord n (c.pipeOver l) w with atBack := true } := by
  have hcount : c.counted l = c := by
    unfold Cluster.counted
    rw [admits_of_stagesAfter hst h0]; rfl
  unfold Cluster.passEnd
  rw [if_neg (not_not_intro h0), hcount]
  refine ite_congr (propext ?_) (fun _ => rfl) fun _ => rfl
  rw [pipeOver_lcOf, Bool.and_eq_true, decide_eq_true_eq, Bool.not_eq_true']

theorem passEnd_ends {n : Nat} {c : Cluster} {l st g w : Nat} (hst : 1 ≤ st) (h0 : c.stagesAfter l st = 0) :
    (c.passEnd n l st g w).stg = 0 ∧ (c.passEnd n l st g w).loopp = none ∧
    ((∀ m, l = m + 1 → (c.leOf m).toNat ≠ w) →
      (c.passEnd n l st g w).pc = BitVec.ofNat 32 (w + 4) ∧ (c.passEnd n l st g w).ldepth = l) := by
  rw [passEnd_last hst h0]
  split
  · exact ⟨rfl, rfl, fun _ => ⟨rfl, rfl⟩⟩
  · refine ⟨(afterWord_noPipe n (c.pipeOver l) w rfl).1, (afterWord_noPipe n (c.pipeOver l) w rfl).2, fun hm => ?_⟩
    have e : Cluster.afterWord n (c.pipeOver l) w = _ := afterWord_seq n _ w hm
    rw [e]
    exact ⟨rfl, rfl⟩

/-- The outer loop makes its check where the LOOPP has ended. -/
theorem passEnd_outer {n : Nat} {c : Cluster} {m st g w : Nat} (hst : 1 ≤ st) (h0 : c.stagesAfter (m + 1) st = 0)
    (hle : (c.leOf m).toNat = w) (hover : c.lcOf (m + 1) = 0 ∨ c.stopping = true) :
    c.passEnd (n + 1) (m + 1) st g w = { (c.pipeOver (m + 1)).comeBack n m w with atBack := true } := by
  have hnot : ¬(c.lcOf (m + 1) ≠ 0 ∧ c.stopping = false) := fun ⟨a, b⟩ => hover.elim a (by rw [b]; exact Bool.noConfusion)
  rw [passEnd_last hst h0, if_neg hnot,
    afterWord_plain n (c.pipeOver (m + 1)) m w rfl hle fun g e => by cases e]

/-- Settles O5: the end of a body is a step of the innermost loop, and of the next outer one that ends there. -/
theorem loopsComeBack : Obligations.LoopsComeBack := by
  refine ⟨fun c w l hd hp hle => ?_, fun c w l st g hd hp h2 h8 hle => ?_⟩
  · have e : c.afterWord 4 w = c.comeBack 3 l w := afterWord_plain 3 c l w hd hle hp
    obtain ⟨hback, hend⟩ := comeBack_spec 3 c l w hd
    intro d
    rw [show d = c.comeBack 3 l w from e]
    refine ⟨hback, fun h1 => ⟨(hend h1).1, (hend h1).2, ?_⟩⟩
    rintro m rfl hlem hpm
    rw [comeBack_outer 2 c m w h1 hlem hpm]
    obtain ⟨hbackm, hendm⟩ :=
      comeBack_spec 2 { c with lc := tblPut c.lc (m + 1) 0, ldepth := m + 1 } m w rfl
    have hlc : Cluster.lcOf { c with lc := tblPut c.lc (m + 1) 0, ldepth := m + 1 } m = c.lcOf m :=
      (lcOf_put c _ (m + 1) m 0 rfl).trans (if_neg (by omega))
    rw [hlc] at hbackm hendm
    exact ⟨hbackm, hendm⟩
  · have e : c.afterWord 4 w = c.passEnd 3 l st g w := afterWord_pipe 3 c l st g w hd hle hp
    intro d more stg
    rw [show d = c.passEnd 3 l st g w from e]
    have hmore : (c.admits l = true) = more := propext (admits_iff c l)
    have hstg : stg = c.stagesAfter l st := by
      unfold Cluster.stagesAfter
      simp only [stg, hmore]
    refine ⟨?_, fun h => passEnd_goes_on hd h8 (hstg ▸ h) |>.imp_right fun ⟨a, b, c⟩ => ⟨a, hstg ▸ b, c⟩, fun h => ?_⟩
    · rw [passEnd_lcOf]
      simp only [hmore]
    · rw [hstg] at h
      obtain ⟨hs, hl, hm⟩ := passEnd_ends (n := 3) (g := g) (w := w) (by omega) h
      refine ⟨hs, hl, hm, ?_, fun ha hb => ?_⟩
      · rintro m rfl hlem hover h1
        rw [passEnd_outer (by omega) h hlem hover]
        obtain ⟨hpc, hdep, hlc⟩ := (comeBack_spec 2 (c.pipeOver (m + 1)) m w rfl).1 h1
        exact ⟨hpc, hdep, hlc⟩
      · rw [passEnd_last (by omega) h, if_pos ⟨ha, hb⟩]

/-! Barriers and flags (R95, R96). -/

/-- What happens before what (log 20) is bookkeeping of the model. -/
theorem hand_eq (s : State) (p q : Party) : ∃ kn, s.hand p q = { s with known := kn } := teach_eq ..

theorem forget_eq (s : State) (f : Party → Bool) : ∃ kn, s.forget f = { s with known := kn } := by
  unfold State.forget
  split
  · exact ⟨_, rfl⟩
  · exact ⟨s.known, rfl⟩

theorem meetAll_eq (s : State) (l : List Who) : ∃ kn, s.meetAll l = { s with known := kn } := by
  obtain ⟨k1, h1⟩ := hands_eq (fun k : Who => .clu k) (fun _ => .meet) l s
  obtain ⟨k2, h2⟩ := hands_eq (fun _ : Who => .meet) (fun k => .clu k) l { s with known := k1 }
  obtain ⟨k3, h3⟩ := forget_eq { s with known := k2 } (· = .meet)
  refine ⟨k3, ?_⟩
  have e : s.meetAll l = State.forget (l.foldl (fun t k => t.hand .meet (.clu k))
    (l.foldl (fun t k => t.hand (.clu k) .meet) s)) (· = .meet) := rfl
  rw [e, h1, h2, h3]

/-- Every arriver is freed, whoever else is. -/
theorem freed_foldl (l : List Who) : ∀ (s : State) (k : Who), k ∈ l ∨ (s.clu k).barNext = true →
    ((l.foldl (fun s k => s.modClu k fun c => { c with barNext := true }) s).clu k).barNext = true := by
  induction l with
  | nil =>
    intro s k h
    exact h.resolve_left (List.not_mem_nil)
  | cons j r ih =>
    intro s k h
    refine ih _ k ?_
    by_cases e : k = j
    · exact .inr (by rw [e, clu_modClu])
    · rw [clu_modClu_other _ _ _ _ e]
      exact h.imp_left fun hm => (List.mem_cons.1 hm).resolve_left e

/-- A complete phase (R96): the barrier is empty, its arrivers are freed. -/
theorem barrierCheck_opens (s : State) (d b : Nat) (hne : (s.die d).arrivers b ≠ [])
    (hn : (s.die d).barCount b ≤ ((s.die d).arrivers b).length) :
    ((s.barrierCheck d b).die d).arrivers b = [] ∧
      ∀ k ∈ (s.die d).arrivers b, ((s.barrierCheck d b).clu k).barNext = true := by
  obtain ⟨kn, e⟩ := meetAll_eq s ((s.die d).arrivers b)
  have hopen : ¬(((s.die d).arrivers b).isEmpty || ((s.die d).arrivers b).length < (s.die d).barCount b) = true := by
    simp [hne, hn]
  have step : s.barrierCheck d b = _ := if_neg hopen
  rw [step, e]
  constructor
  · rw [foldl_fld (fun s => (State.die s d).arrivers b) (fun s k => s.modClu k fun c => { c with barNext := true })
      (fun _ _ => rfl)]
    rw [die_modDie, if_pos rfl]
    unfold Die.arrivers
    rw [tblGet_tblErase, if_pos rfl]
  · exact fun k hk => freed_foldl _ _ k (.inl hk)

theorem applySet_flag (x : Ctx) (e : Nat × Bool × Nat) (f : Nat) :
    (applySet x e).flag f = (x.flag f || decide (e.1 = f)) := by
  obtain ⟨g, sc, who⟩ := e
  show tblGet false (tblPut x.flags g true) f = _
  rw [tblGet_tblPut]
  by_cases h : f = g
  · simp [h]
  · simp [h, Ne.symm h, Ctx.flag]

theorem clearFlag_flag (x : Ctx) (g f : Nat) : (clearFlag x g).flag f = (x.flag f && !decide (g = f)) := by
  show tblGet false (tblPut x.flags g false) f = _
  rw [tblGet_tblPut]
  by_cases h : f = g
  · simp [h]
  · simp [h, Ne.symm h, Ctx.flag]

theorem applySets_flag (l : List (Nat × Bool × Nat)) (f : Nat) :
    ∀ x : Ctx, (l.foldl applySet x).flag f = (x.flag f || l.any fun e => e.1 = f) := by
  induction l with
  | nil => simp
  | cons e r ih =>
    intro x
    rw [List.foldl_cons, ih, applySet_flag, List.any_cons, Bool.or_assoc]

theorem clearFlags_flag (l : List Nat) (f : Nat) :
    ∀ x : Ctx, (l.foldl clearFlag x).flag f = (!l.contains f && x.flag f) := by
  induction l with
  | nil => simp
  | cons g r ih =>
    intro x
    rw [List.foldl_cons, ih, clearFlag_flag, List.contains_cons]
    by_cases h : f = g
    · simp [h]
    · simp [Ne.symm h, beq_eq_false_iff_ne.2 h]

/-- The end of a cc for flags (R95): sets first, then clears. -/
theorem flagsEnd_flag (x : Ctx) (f : Nat) :
    x.flagsEnd.flag f = (!x.fclears.contains f && (x.flag f || x.fsets.any fun e => e.1 = f)) := by
  unfold Ctx.flagsEnd
  split
  · next h =>
    rw [Bool.and_eq_true, List.isEmpty_iff, List.isEmpty_iff] at h
    simp [h]
  · rw [← applySets_flag, ← clearFlags_flag]
    rfl

/-- Settles O7: the check of a barrier whose arrivals reach its count, and the sets and clears of a cc's end. -/
theorem barriersOpenAndFlagsChange : Obligations.BarriersOpenAndFlagsChange := by
  refine ⟨fun s d b => barrierCheck_opens s d b, fun x f => ⟨flagsEnd_flag x f, ?_⟩⟩
  unfold Ctx.flagsEnd
  split
  · next h =>
    rw [Bool.and_eq_true, List.isEmpty_iff, List.isEmpty_iff] at h
    exact h
  · exact ⟨rfl, rfl⟩

end Sys2Proof.Machine
end

section
/-! SUPPORT. Words are checked before they issue (R66, R71, R389), and the words of the CK unit (R174 to R178, R187 to
R194). -/

namespace Sys2Proof.Machine

@[simp] theorem meaning_act (reads : List Loc) (f : State → Act) (s : State) : (meaning reads f).act s = f s := rfl
@[simp] theorem meaning_sig (reads : List Loc) (f : State → Act) : (meaning reads f).sig = .latency := rfl

/-- Every instruction word is executed as its meaning says. -/
theorem exec_word {i : Instr} {h : Hdr} (hi : i.hdr? = some h) : ∃ m : Meaning, ∀ s, exec i s = runWord i h m s := by
  cases i <;> cases hi <;> exact ⟨_, fun _ => rfl⟩

/-- A word that Table 3.7 refuses raises the fault of its first failing row. -/
theorem exec_wordFault {s : State} {i : Instr} {h : Hdr} {code : Nat} (hi : i.hdr? = some h) (hr : s.me.run = .run)
    (hn : s.me.noIssue = none) (hg : s.me.idleGroup (leadOf i) (s.wordPc i) = false)
    (hp : s.me.idlePrefix (leadOf i) = none) (hf : s.wordFault i = some code) :
    exec i s = .next (s.precise { code := code }) := by
  obtain ⟨m, hm⟩ := exec_word hi
  rw [hm s]
  simp [runWord, State.issue, hr, hn, hg, hp, hf]

/-- Settles O26: each hypothesis picks the first failing row of State.wordFault. -/
theorem wordsAreCheckedBeforeTheyIssue : Obligations.WordsAreCheckedBeforeTheyIssue := by
  intro s i h hi hr hn hg hp
  have go {code : Nat} := exec_wordFault (code := code) hi hr hn hg hp
  refine ⟨fun hu => go ?_, fun hu hv => go ?_, fun hu hv hq hy hs => go ?_⟩
  · simp [State.wordFault, hu, fIllegalUnit]
  · simp [State.wordFault, hu, hv, fIllegalWord]
  · simp [State.wordFault, hu, hv, hq, hy, hs, fPrivilege]

section
variable {s : State} {i : Instr} {h : Hdr}

/-- Nothing that a word which issues reads is interlocked (R27). -/
theorem taken_interlocked (k : s.Issues i h) (reads : List Loc) : (s.taken h).me.interlocked reads = false := by
  rw [taken_me]
  exact calm_interlocked s.me k.calm reads

/-- The source of a CK word outside V is its scalar. -/
theorem ckSource_scalar (k : s.Issues i h) (hc : s.cur.clu ≠ .v) (a : BitVec 5) (f : State → Nat → Act) :
    (s.taken h).ckSource a f = f (s.taken h) (s.me.sreg a.toNat).toNat := by
  unfold State.ckSource
  rw [if_neg (by rwa [taken_cur]), taken_interlocked k, if_neg Bool.false_ne_true, taken_me]

/-- The source of a CK word in V is the 512 bytes of its operand. -/
theorem ckSource_vector (k : s.Issues i h) (hc : s.cur.clu = .v) {a : BitVec 5} {t : State} {g : List Nat}
    (hs : (s.taken h).source (vop a) 1 = some (t, g)) (f : State → Nat → Act) :
    (s.taken h).ckSource a f = f t (g.getD 0 0) := by
  unfold State.ckSource
  rw [if_pos (by rwa [taken_cur]), taken_interlocked k, if_neg Bool.false_ne_true, hs]

end

/-- What popping tokens leaves of the current context: all but its token counts. -/
theorem taken_myCtxFld {α : Type} (g : Ctx → α) (hg : ∀ x tk, g { x with tok := tk } = g x) (s : State) (h : Hdr) :
    g (s.taken h).myCtx = g s.myCtx := by
  unfold State.myCtx
  rw [taken_cur]
  exact taken_ctxFld g hg s h _

/-- What popping tokens leaves of the current core: all but its contexts. -/
theorem taken_myCoreFld {α : Type} (g : Core → α) (hg : ∀ c n f, g (Core.modCtx c n f) = g c) (s : State) (h : Hdr) :
    g (s.taken h).myCore = g s.myCore := by
  unfold State.myCore
  rw [taken_cur]
  exact taken_coreFld g hg s h _

@[simp] theorem taken_srcFmt (s : State) (h : Hdr) (ops : List VOp) : (s.taken h).myCtx.srcFmt ops = s.myCtx.srcFmt ops :=
  taken_myCtxFld (·.srcFmt ops) (fun _ _ => rfl) s h

@[simp] theorem taken_myCir (s : State) (h : Hdr) : (s.taken h).myCtx.cir = s.myCtx.cir :=
  taken_myCtxFld (·.cir) (fun _ _ => rfl) s h

@[simp] theorem taken_myProvOf (s : State) (h : Hdr) (n : Nat) : (s.taken h).myCtx.provOf n = s.myCtx.provOf n :=
  taken_myCtxFld (·.provOf n) (fun _ _ => rfl) s h

/-- A stalled cluster is where it was, but for what it waits for. -/
theorem stalled_me (t : State) (tok : Tbl Nat) (w : Wait) :
    ((t.modMyCtx fun x => { x with tok := tok }).stallOn w).me = { t.me with wait := some w } := by
  have hm : (t.modMyCtx fun x => { x with tok := tok }).me = t.me := clu_modCtx t t.cur t.cur _ fun _ => rfl
  unfold State.stallOn
  rw [me_modMe, hm]

theorem elemsOf_one (w v : Nat) : elemsOf w 1 v = [v % 2 ^ w] := rfl

theorem bitN_zero (x : Nat) : bitN x 0 = decide (x % 2 = 1) := Nat.testBit_zero x

/-- Settles O25. -/
theorem checkWords : Obligations.CheckWords := by
  intro s h n m a b d t g ft
  refine ⟨fun k hc => ?_, fun k hc hs => ?_, fun k hc hl => ?_, fun k hc hf hl hs => ?_, fun k hc => ?_, fun k hc => ?_,
    fun k hd hb => ?_, fun k hd hb hc => ?_, fun k hd hb hc => ?_, fun k hb => ?_, fun k hb => ?_⟩
  · refine runWord_done s _ h _ _ _ k ?_
    simp [ckSource_scalar k hc, hc]
  · refine runWord_done s _ h _ _ _ k ?_
    simp [ckSource_vector k hc hs, hc]
  · refine runWord_done s _ h _ _ _ k ?_
    have hn : ¬ invMax < (s.me.invOf m.toNat).n + 1 := by unfold invMax; omega
    simp [ckSource_scalar k hc, hc, hn, elemsOf_one, Fmt.width, Fmt.isFloat, Fmt.isInt]
  · refine runWord_done s _ h _ _ _ k ?_
    have hn : ¬ invMax < (s.me.invOf m.toNat).n + ft.lanes := by unfold invMax; omega
    simp [ckSource_vector k hc hs, hc, hf, hn]
  · exact runWord_done s _ h _ _ _ k (by simp [hc])
  · exact runWord_fault s _ h _ _ k (by simp [hc, fCheckFail])
  · exact ⟨_, runWord_stall s _ h _ .cirEnd (s.taken h) k (by simp [hd, hb]), by rw [stalled_me], by rw [stalled_me, taken_me]⟩
  · exact runWord_done s _ h _ _ _ k (by simp [hd, hb, bitN_zero, hc])
  · exact runWord_fault s _ h _ _ k (by simp [hd, hb, bitN_zero, hc, fPoison])
  · have h4 : ¬ 4 < (s.me.sreg b.toNat).toNat := by omega
    exact runWord_done s _ h _ _ _ k (by simp [h4, Nat.ne_of_lt hb])
  · exact runWord_done s _ h _ _ _ k (by simp [hb])

end Sys2Proof.Machine
end

section
/-! SUPPORT. Flags and barriers, special registers, traps, races, merge buffers, atomics, windows and landing slots. -/

namespace Sys2Proof.Machine

/-- Settles O13: a plain access asks only who has the row open. -/
theorem racesAreFound : Obligations.RacesAreFound := by
  intro s n key store eng
  unfold State.plain
  cases hk : tblFind s.rows key with
  | some o =>
    obtain ⟨c, e⟩ := o
    by_cases hc : c = n
    · subst hc
      simp [hk]
    · simp [hc]
  | none =>
    refine ⟨?_, ?_⟩
    · cases store <;> simp
    · intro t ht
      cases ht
      exact ⟨eng, by simp [tblFind_tblPut]⟩

/-- Settles O14: the pair of buffers is one number of 1,024 bits. -/
theorem mergePushesAWindowOfTheBuffers : Obligations.MergePushesAWindowOfTheBuffers := by
  intro s h q a k hr
  refine runWord_done s _ h _ _ _ k ?_
  simp [hr, bitsN, Nat.shiftLeft_eq, Nat.shiftRight_eq_div_pow]

@[simp] theorem taken_landOf (s : State) (h : Hdr) (c t : Nat) : (s.taken h).myCore.landOf c t = s.myCore.landOf c t :=
  taken_myCoreFld (·.landOf c t) (fun _ _ _ => rfl) s h

/-- Settles O22. -/
theorem windowsAndLandingSlots : Obligations.WindowsAndLandingSlots := by
  intro s h t x b k i l
  refine ⟨fun ki hv => runWord_done s _ h _ _ _ ki (by simp [hv]), fun ki hl hd hs hf => ?_⟩
  exact runWord_done s _ h _ _ _ ki (by simp [hl, hd, hs, hf])

@[simp] theorem taken_form (s : State) (h : Hdr) : (s.taken h).form = s.form := taken_fld _ (fun _ _ _ => rfl) s h

/-- Popping tokens changes no special register. -/
@[simp] theorem taken_special (s : State) (h : Hdr) (i : Instr) (n : Nat) : (s.taken h).special i n = s.special i n := by
  simp only [State.special, taken_me, taken_wordPc, taken_task, taken_die, taken_cur, taken_form]

@[simp] theorem taken_myView (s : State) (h : Hdr) (n : Nat) : (s.taken h).myCtx.view n = s.myCtx.view n :=
  taken_myCtxFld (·.view n) (fun _ _ => rfl) s h

/-- Settles O8. -/
theorem specialRegistersAreReadAndWritten : Obligations.SpecialRegistersAreReadAndWritten := by
  intro s h d a b r m v
  refine ⟨fun k => ?_, fun k hb hc => ?_, fun k => ?_, fun k hb => ?_, fun k => ?_⟩
  · exact gives_compute k (by simp)
  · refine runWord_done s _ h _ _ _ k ?_
    have hpos : 256 ≤ r.toNat → s.me.sreg d.toNat ≠ 0#64 := by
      intro h1 h2
      have := (hc h1).1
      simp [h2] at this
    simpa [hb] using fun h1 => ⟨hpos h1, (hc h1).2⟩
  · exact runWord_done s _ h _ _ _ k rfl
  · have hb' : ¬ (s.me.sreg b.toNat).toNat ≥ 2 ^ 32 := by omega
    exact runWord_done s _ h _ _ _ k (by simp only [meaning_act, taken_me, if_neg hb'])
  · intro new hv
    exact runWord_done s _ h _ _ _ k (by simp [hv, new])

/-! The end of a cc of a context (R23, R95, R385). -/

/-- Pushes change only the token counts of their context (R23). -/
theorem makePushes_eq (k : Clu) (l : List (BitVec 2)) : ∀ x : Ctx, ∃ tk, (makePushes k l x).1 = { x with tok := tk } := by
  induction l with
  | nil => exact fun x => ⟨x.tok, rfl⟩
  | cons w r ih =>
    intro x
    unfold makePushes
    dsimp only
    split <;> split
    all_goals
      split
      · exact ih _
      · exact ⟨_, rfl⟩

theorem forget_fld {α : Type} (g : State → α) (hg : ∀ s kn, g { s with known := kn } = g s) (s : State)
    (f : Party → Bool) : g (s.forget f) = g s := by
  obtain ⟨kn, e⟩ := forget_eq s f
  rw [e, hg]

theorem hand_fld {α : Type} (g : State → α) (hg : ∀ s kn, g { s with known := kn } = g s) (s : State) (p q : Party) :
    g (s.hand p q) = g s := by
  obtain ⟨kn, e⟩ := hand_eq s p q
  rw [e, hg]

theorem handToks_fld {α : Type} (g : State → α) (hg : ∀ s kn, g { s with known := kn } = g s) (s : State) (k : Who)
    (q a b : Nat) : g (s.handToks k q a b) = g s :=
  foldl_fld g (fun s j => s.hand (.clu k) (.tok k.core k.ctx q (a + j))) (fun _ _ => hand_fld g hg _ _ _) _ s

/-- What a context pushes changes its tokens and the pushes that its cluster holds. -/
theorem pushTokens_fld {α : Type} (g : State → α) (hg : ∀ s kn, g { s with known := kn } = g s)
    (hx : ∀ s k (tk : Ctx → Tbl Nat) (l : Ctx → List (BitVec 2)), g (State.modCtx s k fun x => Ctx.modClu { x with tok := tk x } k.clu fun c => { c with held := l x }) = g s)
    (s : State) (k : Who) (due : List (BitVec 2)) : g (s.pushTokens k due) = g s := by
  unfold State.pushTokens
  dsimp only
  rw [foldl_fld g _ (fun _ _ => handToks_fld g hg _ _ _ _ _)]
  have e : (fun x : Ctx => (makePushes k.clu due x).1.modClu k.clu fun c => { c with held := (makePushes k.clu due x).2 }) =
      fun x => Ctx.modClu { x with tok := (makePushes k.clu due x).1.tok } k.clu
        fun c => { c with held := (makePushes k.clu due x).2 } := by
    funext x
    obtain ⟨tk, h⟩ := makePushes_eq k.clu due x
    rw [h]
  rw [e, hx]

theorem pushDue_fld {α : Type} (g : State → α) (hg : ∀ s kn, g { s with known := kn } = g s)
    (hx : ∀ s k (tk : Ctx → Tbl Nat) (l : Ctx → List (BitVec 2)), g (State.modCtx s k fun x => Ctx.modClu { x with tok := tk x } k.clu fun c => { c with held := l x }) = g s)
    (hs : ∀ s k (l : Cluster → List (Nat × BitVec 2 × Nat)), g (State.modClu s k fun c => { c with sigs := l c }) = g s)
    (s : State) (k : Who) : g (s.pushDue k) = g s := by
  unfold State.pushDue
  dsimp only
  split
  · rfl
  · rw [pushTokens_fld g hg hx, hs]

theorem endPosts_fld {α : Type} (g : State → α) (hg : ∀ s kn, g { s with known := kn } = g s) (s : State) (k : Who) :
    g (s.endPosts k) = g s := by
  unfold State.endPosts
  dsimp only
  split
  · rw [forget_fld g hg, foldl_fld g _ fun _ _ => foldl_fld g _ (fun _ _ => hand_fld g hg _ _ _) _ _]
  · rw [hg, forget_fld g hg, foldl_fld g _ fun _ _ => foldl_fld g _ (fun _ _ => hand_fld g hg _ _ _) _ _]

/-- The state of a context whose clusters have pushed their tokens and ordered their posts, at the end of a cc. -/
def State.pushedCtx (s : State) (k : Who) : State :=
  (k.clusters.foldl State.pushDue (s.modCtx k fun x => { x with cirNew := 0 })).endPosts k

/-- The state of a context whose flags and format words have arrived, at the end of a cc. -/
def State.flaggedCtx (s : State) (k : Who) : State :=
  (s.pushedCtx k).modCtx k fun x => { x.flagsEnd with fmtq := x.fmtq ++ x.fmtIn, fmtIn := [], syncGo := false }

theorem endCtx_eq (s : State) (k : Who) :
    s.endCtx k = if ((s.flaggedCtx k).ctxOf k).bkpt then (s.flaggedCtx k).debugStop k ((s.flaggedCtx k).die (dieOf k.core)).dcc
      else s.flaggedCtx k := rfl

/-- The flags' part of a cc's end leaves the rest of the context. -/
theorem flagsEnd_fld {α : Type} (g : Ctx → α)
    (hg : ∀ x st fl sc fs fc, g { x with setter := st, flags := fl, scope := sc, fsets := fs, fclears := fc } = g x) (x : Ctx) :
    g x.flagsEnd = g x := by
  unfold Ctx.flagsEnd
  split
  · rfl
  · have hset (y : Ctx) (e : Nat × Bool × Nat) : g (applySet y e) = g y := hg y _ _ _ _ _
    have hclear (y : Ctx) (f : Nat) : g (clearFlag y f) = g y := hg y _ _ _ _ _
    exact (hg _ _ _ _ _ _).trans ((foldl_fld g _ hclear _ _).trans (foldl_fld g _ hset _ _))

section
variable {α : Type} (g : State → α) (hg : ∀ s kn, g { s with known := kn } = g s)
  (hx : ∀ s k (tk : Ctx → Tbl Nat) (l : Ctx → List (BitVec 2)),
    g (State.modCtx s k fun x => Ctx.modClu { x with tok := tk x } k.clu fun c => { c with held := l x }) = g s)
  (hs : ∀ s k (l : Cluster → List (Nat × BitVec 2 × Nat)), g (State.modClu s k fun c => { c with sigs := l c }) = g s)
  (hc : ∀ s k, g (State.modCtx s k fun x => { x with cirNew := 0 }) = g s)
  (hf : ∀ s k, g (State.modCtx s k fun x => { x.flagsEnd with fmtq := x.fmtq ++ x.fmtIn, fmtIn := [], syncGo := false }) = g s)
include hg hx hs hc hf

theorem flaggedCtx_fld (s : State) (k : Who) : g (s.flaggedCtx k) = g s := by
  unfold State.flaggedCtx State.pushedCtx
  rw [hf, endPosts_fld g hg, foldl_fld g State.pushDue (pushDue_fld g hg hx hs), hc]

end

theorem flaggedCtx_bkpt (s : State) (k : Who) : ((s.flaggedCtx k).ctxOf k).bkpt = (s.ctxOf k).bkpt :=
  flaggedCtx_fld (fun s => (State.ctxOf s k).bkpt) (fun _ _ => rfl)
    (fun s j _ _ => ctxFld_modCtx (·.bkpt) s k j _ fun _ => rfl)
    (fun s j _ => ctxFld_modClu (·.bkpt) (fun _ _ _ => rfl) s j _ k)
    (fun s j => ctxFld_modCtx (·.bkpt) s k j _ fun _ => rfl)
    (fun s j => ctxFld_modCtx (·.bkpt) s k j _ (flagsEnd_fld (·.bkpt) fun _ _ _ _ _ _ => rfl)) s k

theorem cluFld_ctxModClu {α : Type} (g : Cluster → α) (x : Ctx) (u w : Clu) (f : Cluster → Cluster)
    (hf : ∀ c, g (f c) = g c) : g ((x.modClu u f).clu w) = g (x.clu w) := by
  rw [ctx_clu_modClu]
  split
  · next e => rw [hf, e]
  · rfl

theorem flaggedCtx_cur (s : State) (k : Who) : (s.flaggedCtx k).cur = s.cur :=
  flaggedCtx_fld State.cur (fun _ _ => rfl) (fun _ _ _ _ => rfl) (fun _ _ _ => rfl) (fun _ _ => rfl) (fun _ _ => rfl) s k

theorem flaggedCtx_pc (s : State) (k j : Who) : ((s.flaggedCtx k).clu j).pc = (s.clu j).pc :=
  flaggedCtx_fld (fun s => (State.clu s j).pc) (fun _ _ => rfl)
    (fun s i tk _ => ctxFld_modCtx (fun x => (x.clu j.clu).pc) s j i _ fun x =>
      cluFld_ctxModClu (·.pc) { x with tok := tk x } i.clu j.clu _ fun _ => rfl)
    (fun s i _ => cluFld_modClu (·.pc) s j i _ fun _ => rfl)
    (fun s i => congrArg (·.pc) (clu_modCtx s j i (fun x => { x with cirNew := 0 }) fun _ => rfl))
    (fun s i => congrArg (·.pc) (clu_modCtx s j i
      (fun x => { x.flagsEnd with fmtq := x.fmtq ++ x.fmtIn, fmtIn := [], syncGo := false })
      (flagsEnd_fld (·.clus) fun _ _ _ _ _ _ => rfl))) s k

/-! A debug stop keeps every cluster's place (R385). -/

section
variable {α : Type} (g : State → α)
  (hd : ∀ s k (l : Cluster → List Flight), g (State.modClu s k fun c => { c with dl := l c }) = g s)
  (hf : ∀ s n (m : Core → Mem), g (State.modCore s n fun c => { c with frame := m c }) = g s)
  (hl : ∀ s k (q : Ctx → Tbl (List QRow)), g (State.modCtx s k fun x => { x with lq := q x }) = g s)
  (hs : ∀ s k (q : Ctx → Tbl (List QRow)), g (State.modCtx s k fun x => { x with sq := q x }) = g s)
include hd hf hl hs

/-- A result that flies again takes back frame bytes or a row of its queue. -/
theorem unland_fld (k : Who) (s : State) (e : Flight × Nat) : g (s.unland k e) = g s := by
  unfold State.unland
  split
  · dsimp only
    split
    · rfl
    · rw [hd, hf]
  · dsimp only
    split
    · rw [hd, hl]
    · rfl
  · dsimp only
    split
    · rw [hd, hs]
    · rfl
  · rfl

theorem unlandAll_fld (he : ∀ s k, g (State.modClu s k fun c => { c with early := [] }) = g s) (s : State) (k : Who) :
    g (s.unlandAll k) = g s := by
  have one (s : State) (u : Who) (l : List (Flight × Nat)) :
      g ((l.foldl (State.unland u) s).modClu u fun c => { c with early := [] }) = g s := by
    rw [he, foldl_fld g (State.unland u) (unland_fld g hd hf hl hs u) l s]
  exact foldl_fld g (fun s u => (((s.clu u).early.reverse).foldl (State.unland u) s).modClu u fun c => { c with early := [] })
    (fun s u => one s u _) k.clusters s

end

section
variable {α : Type} (g : State → α) (hg : ∀ s n (e : Core → Tbl StopRec), g (State.modCore s n fun c => { c with engStop := e c }) = g s)
include hg

theorem stopEngine_fld (s : State) (n unit kind : Nat) (tid addr : Word) (cseq fidx stat : Nat) :
    g (s.stopEngine n unit kind tid addr cseq fidx stat) = g s := by
  unfold State.stopEngine
  dsimp only
  split
  · exact hg _ _ _
  · rfl

/-- A debug stop writes the stop records of the core's engines. -/
theorem pauseEngines_fld (s : State) (k : Who) : g (s.pauseEngines k) = g s := by
  unfold State.pauseEngines
  dsimp only
  have hs : ∀ (t : State) (unit kind : Nat) (tid addr : Word) (a b c : Nat), g t = g s →
      g (t.stopEngine k.core unit kind tid addr a b c) = g s :=
    fun t _ _ _ _ _ _ _ ht => (stopEngine_fld g hg t _ _ _ _ _ _ _ _).trans ht
  have matrix : g (match (s.core k.core).mxRun with
      | some r => if r.cmd.ctx = k.ctx then s.stopEngine k.core 4 5 (s.taskOf k).tid 0 r.cmd.cseq 0 0 else s
      | none => s) = g s := by
    split
    · split
      · exact hs _ _ _ _ _ _ _ _ rfl
      · rfl
    · rfl
  split
  · apply hs
    split
    · exact hs _ _ _ _ _ _ _ _ matrix
    · exact matrix
  · split
    · exact hs _ _ _ _ _ _ _ _ matrix
    · exact matrix

end

theorem unlandAll_pc (s : State) (k j : Who) : ((s.unlandAll k).clu j).pc = (s.clu j).pc :=
  unlandAll_fld (fun s => (State.clu s j).pc) (fun s k _ => cluFld_modClu (·.pc) s j k _ fun _ => rfl)
    (fun s n m => congrArg (·.pc) (clu_modCore s n (fun c => { c with frame := m c }) j fun _ => rfl))
    (fun s k q => congrArg (·.pc) (clu_modCtx s j k (fun x => { x with lq := q x }) fun _ => rfl))
    (fun s k q => congrArg (·.pc) (clu_modCtx s j k (fun x => { x with sq := q x }) fun _ => rfl))
    (fun s k => cluFld_modClu (·.pc) s j k _ fun _ => rfl) s k

theorem pauseEngines_clu (s : State) (k j : Who) : (s.pauseEngines k).clu j = s.clu j :=
  pauseEngines_fld (State.clu · j) (fun s n e => clu_modCore s n (fun c => { c with engStop := e c }) j fun _ => rfl) s k

/-- The stops of the clusters of a context in a debug stop: their records have kind 5. -/
theorem debugStops (l : List Who) (k : Who) : ∀ (s : State) (r : State → Who → StopRec), (∀ s u, (r s u).kind = 5) →
    (∀ j, ((l.foldl (fun s u => s.modClu u fun c => { c with stop := r s u }) s).clu j).pc = (s.clu j).pc) ∧
    (k ∈ l ∨ (s.clu k).stop.kind = 5 →
      ((l.foldl (fun s u => s.modClu u fun c => { c with stop := r s u }) s).clu k).stop.kind = 5) := by
  induction l with
  | nil => exact fun s r _ => ⟨fun _ => rfl, fun h => h.resolve_left List.not_mem_nil⟩
  | cons u l ih =>
    intro s r hr
    obtain ⟨hpc, hk⟩ := ih (s.modClu u fun c => { c with stop := r s u }) r hr
    refine ⟨fun j => (hpc j).trans (cluFld_modClu (·.pc) s j u _ fun _ => rfl), fun h => hk ?_⟩
    by_cases e : k = u
    · exact .inr (by rw [e, clu_modClu]; exact hr s u)
    · rw [clu_modClu_other _ _ _ _ e]
      exact h.imp_left fun hm => (List.mem_cons.1 hm).resolve_left e

/-- The stop record of a cluster in a debug stop (R385, R386). -/
def State.debugRec (s : State) (k : Who) : StopRec :=
  { code := 0, kind := 5, unit := k.clu.num, dump := s.hasDump k, pc := (s.clu k).pc, task := (s.taskOf k).tid,
    addr := 0, brpc := 0, trap := 0, flag := s.awaited k, cseq := (s.ctxOf k).popped % 2 ^ 48, fidx := 0,
    stat := 0, loc := (s.clu k).sc }

theorem debugStop_eq (s : State) (k : Who) (cc : Nat) :
    s.debugStop k cc = ((k.clusters.foldl (fun s u => s.modClu u fun c => { c with stop := s.debugRec u })
      (s.unlandAll k)).pauseEngines k).modCtx k fun x =>
        { x with frozen := true, bkpt := false, stopCc := cc, dumped := false } := rfl

theorem debugStop_cur (s : State) (k : Who) (cc : Nat) : (s.debugStop k cc).cur = s.cur := by
  rw [debugStop_eq, modCtx_cur, pauseEngines_fld State.cur fun _ _ _ => rfl,
    foldl_fld State.cur (fun s u => s.modClu u fun c => { c with stop := s.debugRec u }) (fun _ _ => rfl),
    unlandAll_fld State.cur (fun _ _ _ => rfl) (fun _ _ _ => rfl) (fun _ _ _ => rfl) (fun _ _ _ => rfl) fun _ _ => rfl]

/-- A debug stop stops every cluster of the context where it is, with kind 5 (R385). -/
theorem debugStop_spec (s : State) (k : Who) (cc : Nat) :
    ((s.debugStop k cc).ctxOf k).frozen = true ∧
      ∀ u, ((s.debugStop k cc).clu { k with clu := u }).pc = (s.clu { k with clu := u }).pc ∧
        ((s.debugStop k cc).clu { k with clu := u }).stop.kind = 5 := by
  rw [debugStop_eq]
  refine ⟨by rw [ctxOf_modCtx], fun u => ?_⟩
  rw [clu_modCtx _ _ _ (fun x => { x with frozen := true, bkpt := false, stopCc := cc, dumped := false }) fun _ => rfl,
    pauseEngines_clu]
  obtain ⟨hpc, hk⟩ := debugStops k.clusters { k with clu := u } (s.unlandAll k) State.debugRec fun _ _ => rfl
  exact ⟨(hpc _).trans (unlandAll_pc s k _), hk (.inl (by cases u <;> simp [Who.clusters]))⟩

/-- Settles O10. -/
theorem trapsAreTaken : Obligations.TrapsAreTaken := by
  intro s h c
  refine ⟨fun k => runWord_fault s _ h _ _ k rfl, fun k hd => runWord_fault s _ h _ _ k (by simp [hd, fBreakpoint]),
    fun k hd => ?_, fun hb => ?_⟩
  · refine ⟨_, runWord_stall s _ h _ .hub _ k (by simp [hd]; rfl), ?_, fun u => ?_⟩
    · unfold State.stallOn
      rw [myCtx_modMe]
      show (State.myCtx (State.modMyCtx _ _)).bkpt = true
      rw [myCtx_modMyCtx, myCtx_modMyCtx]
    · unfold State.stallOn State.modMe State.modMyCtx
      rw [cluFld_modClu (·.pc) _ _ _ (fun c => { c with wait := some .hub }) fun _ => rfl,
        clu_modCtx _ _ _ (fun x => { x with tok := s.myCtx.tok }) fun _ => rfl,
        clu_modCtx _ _ _ (fun x => { x with bkpt := true }) fun _ => rfl, taken_clu]
  · have hb' : ((s.flaggedCtx s.cur).ctxOf s.cur).bkpt = true := (flaggedCtx_bkpt s s.cur).trans hb
    have e : s.endCtx s.cur = _ := (endCtx_eq s s.cur).trans (if_pos hb')
    rw [e]
    obtain ⟨hf, hu⟩ := debugStop_spec (s.flaggedCtx s.cur) s.cur ((s.flaggedCtx s.cur).die (dieOf s.cur.core)).dcc
    refine ⟨?_, fun u => ?_⟩
    · unfold State.myCtx
      rw [debugStop_cur, flaggedCtx_cur]
      exact hf
    · obtain ⟨hp, hk⟩ := hu u
      dsimp only
      exact ⟨hp.trans (flaggedCtx_pc s s.cur _), hk⟩

/-! Flags and barriers. -/

@[simp] theorem taken_flagFree (s : State) (h : Hdr) (f : Nat) : (s.taken h).myCtx.flagFree f = s.myCtx.flagFree f :=
  taken_myCtxFld (·.flagFree f) (fun _ _ => rfl) s h

@[simp] theorem taken_mySetter (s : State) (h : Hdr) : (s.taken h).myCtx.setter = s.myCtx.setter :=
  taken_myCtxFld (·.setter) (fun _ _ => rfl) s h

@[simp] theorem taken_guarded (s : State) (h : Hdr) (a : Act) : (s.taken h).guarded a = s.guarded a := by
  unfold State.guarded
  rw [taken_task]

theorem guarded_of_plain (s : State) (a : Act) (hc : s.myTask.cls = 0) : s.guarded a = a := by
  simp [State.guarded, hc]

@[simp] theorem taken_cmdsOf (s : State) (h : Hdr) (k : Who) (p : Clu → Bool) : (s.taken h).cmdsOf k p = s.cmdsOf k p := by
  unfold State.cmdsOf
  rw [taken_taskOf]
  dsimp only
  exact taken_coreFld (fun c =>
    let mine (e : EnCmd) : Bool := e.ctx = k.ctx && p e.clu && e.task.same (s.taskOf k)
    c.cpq.any mine || c.rmq.any mine || c.coq.any mine || (c.coRun.any fun r => mine r.cmd) ||
      (c.cpRun.any fun (_, r) => mine r.cmd) || (c.rmRun.any fun r => !r.ended && mine r.cmd)) (fun _ _ _ => rfl) s h k.core

theorem closeRows_fld {α : Type} (g : State → α) (hr : ∀ s r, g { s with rows := r } = g s)
    (ho : ∀ s n, g (State.modCore s n fun c => { c with open_ := [] }) = g s) (s : State) (n : Nat) :
    g (s.closeRows n) = g s := by
  unfold State.closeRows
  dsimp only
  split
  · rfl
  · rw [ho, foldl_fld g State.closeRow fun s k => hr s _]

theorem passStores_fld {α : Type} (g : State → α) (ha : ∀ s a, g { s with accs := a } = g s) (s : State) (k : Who) :
    g (s.passStores k) = g s := by
  unfold State.passStores
  dsimp only
  split
  · exact ha s _
  · rfl

/-- A release (R238) moves stores past the order point and closes rows. -/
theorem release_fld {α : Type} (g : State → α) (ha : ∀ s a, g { s with accs := a } = g s)
    (hr : ∀ s r, g { s with rows := r } = g s)
    (ho : ∀ s n, g (State.modCore s n fun c => { c with open_ := [] }) = g s) {s t : State} {k : Who} {scope : Nat}
    (e : s.release k scope = some t) : g t = g s := by
  unfold State.release at e
  split at e
  · cases e
  · split at e
    · cases e; rfl
    · cases e
      rw [closeRows_fld g hr ho, passStores_fld g ha]

/-- The check of a barrier frees clusters and empties the barrier (R96). -/
theorem barrierCheck_fld {α : Type} (g : State → α) (hk : ∀ s kn, g { s with known := kn } = g s)
    (hb : ∀ s k, g (State.modClu s k fun c => { c with barNext := true }) = g s)
    (hd : ∀ s d b, g (State.modDie s d fun x => { x with barr := tblErase x.barr b }) = g s) (s : State) (d b : Nat) :
    g (s.barrierCheck d b) = g s := by
  unfold State.barrierCheck
  dsimp only
  split
  · rfl
  · obtain ⟨kn, e⟩ := meetAll_eq s ((s.die d).arrivers b)
    rw [foldl_fld g (fun s k => s.modClu k fun c => { c with barNext := true }) hb, hd, e, hk]

/-- The state in which the current cluster has arrived at a barrier (R96). -/
def State.arrived (s : State) (n : Nat) : State :=
  (s.modMe fun c => { c with asked := true }).modDie (dieOf s.cur.core) fun x =>
    { x with barr := tblPut x.barr n (x.arrivers n ++ [s.cur]) }

/-- A cluster that has arrived asks no more; it is free where it was the last. -/
theorem arrived_me (s : State) (n : Nat) :
    let u := (s.arrived n).barrierCheck (dieOf s.cur.core) n
    u.cur = s.cur ∧ u.me.asked = true ∧
      ((s.die (dieOf s.cur.core)).barCount n ≤ ((s.die (dieOf s.cur.core)).arrivers n).length + 1 → u.me.barNext = true) := by
  intro u
  have hcur : u.cur = s.cur := barrierCheck_fld State.cur (fun _ _ => rfl) (fun _ _ => rfl) (fun _ _ _ => rfl) ..
  have harr : ((s.arrived n).die (dieOf s.cur.core)).arrivers n = (s.die (dieOf s.cur.core)).arrivers n ++ [s.cur] := by
    unfold State.arrived
    rw [die_modDie, if_pos rfl]
    unfold Die.arrivers
    rw [tblGet_tblPut, if_pos rfl]
    rfl
  have hcnt : ((s.arrived n).die (dieOf s.cur.core)).barCount n = (s.die (dieOf s.cur.core)).barCount n := by
    unfold State.arrived
    rw [die_modDie, if_pos rfl]
    rfl
  refine ⟨hcur, ?_, fun hle => ?_⟩
  · unfold State.me
    rw [hcur]
    refine (barrierCheck_fld (fun t => (t.clu s.cur).asked) (fun _ _ => rfl)
      (fun t k => cluFld_modClu (·.asked) t s.cur k _ fun _ => rfl) (fun _ _ _ => rfl) _ _ _).trans ?_
    exact congrArg (·.asked) (me_modMe s fun c => { c with asked := true })
  · unfold State.me
    rw [hcur]
    refine (barrierCheck_opens (s.arrived n) (dieOf s.cur.core) n (by simp [harr]) ?_).2 s.cur (by simp [harr])
    simpa [harr, hcnt] using hle

theorem teach_fld {α : Type} (g : State → α) (hg : ∀ s kn, g { s with known := kn } = g s) (s : State) (l : List Nat)
    (p : Party) : g (s.teach l p) = g s := by
  obtain ⟨kn, e⟩ := teach_eq s l p
  rw [e, hg]

theorem acquireReads_fld {α : Type} (g : State → α) (hg : ∀ s kn, g { s with known := kn } = g s) (s : State) (k : Who)
    (scope : Nat) : g (s.acquireReads k scope) = g s := by
  unfold State.acquireReads
  split
  · rfl
  · refine foldl_fld g _ (fun t e => ?_) s.known s
    split
    · split
      · exact teach_fld g hg _ _ _
      · rfl
    · rfl

/-- Settles O6. -/
theorem flagsAndBarriers : Obligations.FlagsAndBarriers := by
  intro s h f a n c o
  refine ⟨fun k => runWord_done s _ h _ _ _ k (by simp [Ctx.setFlag]), fun k hf hn => runWord_done s _ h _ _ _ k ?_,
    fun t k hc ha ht => runWord_done s _ h _ _ _ k ?_, fun t k hc hb ha ht => ?_,
    fun k hc hb => runWord_done s _ h _ _ _ k (by simp [guarded_of_plain, hc, hb]),
    fun t k hl hr ht => runWord_done s _ h _ _ _ k ?_⟩
  · have hff : s.myCtx.flagFree f.toNat = true := by simp [Ctx.flagFree, hf, hn]
    simp [hff]
  · have hcur : t.cur = s.cur := (release_fld State.cur (fun _ _ => rfl) (fun _ _ => rfl) (fun _ _ => rfl) ht).trans
      (taken_cur s h)
    obtain ⟨kn, e⟩ := hand_eq t (.clu s.cur) (.post t.postgNext)
    have ha' : ¬ 16 ≤ (s.me.sreg a.toNat).toNat := by omega
    simp [guarded_of_plain, hc, ha', ht, hcur, e]
  · have hcur : t.cur = s.cur := (release_fld State.cur (fun _ _ => rfl) (fun _ _ => rfl) (fun _ _ => rfl) ht).trans
      (taken_cur s h)
    have hdies : t.dies = s.dies := (release_fld State.dies (fun _ _ => rfl) (fun _ _ => rfl) (fun _ _ => rfl) ht).trans
      (taken_dies s h)
    obtain ⟨_, hasked, hnext⟩ := arrived_me t n.toNat
    refine ⟨_, runWord_stall s _ h _ (.barrier n.toNat) ((t.arrived n.toNat).barrierCheck (dieOf t.cur.core) n.toNat) k ?_, ?_, ?_, ?_⟩
    · simp [guarded_of_plain, hc, hb, ha, ht, State.arrived]
    · rw [stalled_me]
      exact hasked
    · rw [stalled_me]
    · rw [stalled_me]
      intro hle
      refine hnext ?_
      have hdie : t.die (dieOf t.cur.core) = s.die (dieOf s.cur.core) := by rw [hcur]; unfold State.die; rw [hdies]
      rw [hdie]
      exact hle
  · have hload : ¬(o.getLsbD 0 && !s.loadsDone s.cur) = true := by
      rw [Bool.and_eq_true]
      exact fun ⟨h0, h1⟩ => by simp [hl h0] at h1
    simp only [meaning_act, taken_cur, taken_loadsDone, taken_cmdsOf, taken_mxOf]
    refine (if_neg hload).trans ?_
    cases h1 : o.getLsbD 1 with
    | false =>
      simp only [h1, Bool.false_eq_true, if_false, Option.some.injEq] at ht
      exact (if_neg Bool.false_ne_true).trans (by rw [ht])
    | true =>
      obtain ⟨hcmd, hmx⟩ := hr h1
      have hno : ¬(s.cmdsOf s.cur (fun k => k = s.cur.clu) || decide (s.cur.clu = .m) && s.mxOf s.cur) = true := by
        rw [hcmd, Bool.false_or, Bool.and_eq_true, decide_eq_true_eq]
        exact fun ⟨e, m⟩ => Bool.eq_false_iff.1 (hmx e) m
      refine (if_pos rfl).trans ((if_neg hno).trans ?_)
      simp only [h1, if_true, Option.map_eq_some_iff] at ht
      obtain ⟨v, hv, rfl⟩ := ht
      rw [hv]
      have hcur : v.cur = s.cur := by
        rw [release_fld State.cur (fun _ _ => rfl) (fun _ _ => rfl) (fun _ _ => rfl) hv]
        split
        · rw [acquireReads_fld State.cur fun _ _ => rfl, taken_cur]
        · exact taken_cur s h
      simp only [hcur]

/-! Translation at issue (R200), and atomics (R229). -/

/-- A global word whose page is in the core's TLB goes on with its system address (R200). -/
theorem withAddr_hit {s : State} {va : Word} {e : TlbE} (f : Nat → Bool → Act) (hva : va.toNat < 2 ^ 57)
    (he : tlbFind s.myCore.tlb s.myTask.part va.toNat = some e) :
    s.withAddr va f = f (s.leafAddr s.myTask e va.toNat).1 (s.leafAddr s.myTask e va.toNat).2 := by
  unfold State.withAddr State.translateAc
  simp only [if_neg (Nat.not_le.2 hva), he]

@[simp] theorem taken_myTlb (s : State) (h : Hdr) : (s.taken h).myCore.tlb = s.myCore.tlb :=
  taken_myCoreFld (·.tlb) (fun _ _ _ => rfl) s h

theorem taken_withAddr_hit {s : State} {h : Hdr} {va : Word} {e : TlbE} (f : Nat → Bool → Act) (hva : va.toNat < 2 ^ 57)
    (he : tlbFind s.myCore.tlb s.myTask.part va.toNat = some e) :
    (s.taken h).withAddr va f = f (s.leafAddr s.myTask e va.toNat).1 (s.leafAddr s.myTask e va.toNat).2 := by
  rw [withAddr_hit f hva (e := e) (by rw [taken_myTlb, taken_task, he]), taken_task, taken_leafAddr]

@[simp] theorem taken_inCode (s : State) (h : Hdr) (t : Task) (a n : Nat) : (s.taken h).inCode t a n = s.inCode t a n :=
  taken_fld (fun s => State.inCode s t a n) (fun _ _ _ => rfl) s h

@[simp] theorem taken_openElsewhere (s : State) (h : Hdr) (a : Nat) : (s.taken h).openElsewhere a = s.openElsewhere a := by
  unfold State.openElsewhere State.openFor
  rw [taken_rows, taken_cur]

/-- Settles O16: both words are the same atomic. -/
theorem atomicsStartAndBlock : Obligations.AtomicsStartAndBlock := by
  intro s h o x z r c sd e t va m n start hc hva he hw hdev hcode hopen ht
  have go (op : Nat) (new : Word) :
      (s.taken h).atomic z r c va op (s.me.sreg sd.toNat) new sd.toNat = .done (start op new) .seq := by
    unfold State.atomic
    rw [taken_guarded, guarded_of_plain _ _ hc, taken_withAddr_hit _ hva he, taken_cur]
    dsimp only
    have hok : ¬(!m.2 || decide (saDev m.1 ≠ (s.taken h).devId) ||
        (s.taken h).inCode (s.taken h).myTask (va.toNat / n * n) n) = true := by
      rw [taken_devId, taken_inCode, taken_task, hcode, hw]
      simp [hdev]
    refine (if_neg hok).trans ((if_neg ?_).trans ?_)
    · rw [taken_openElsewhere, hopen]
      exact Bool.false_ne_true
    · rw [ht]
      have keeps {α : Type} (g : State → α) (hg : ∀ s kn, g { s with known := kn } = g s) :
          g (if r.getLsbD 1 then t.hand (.clu t.cur) (.acc t.accNext c.toNat) else t) = g t := by
        split
        · exact hand_fld g hg _ _ _
        · rfl
      dsimp only [start]
      rw [keeps State.cur fun _ _ => rfl, keeps State.accNext fun _ _ => rfl]
  exact ⟨fun k => runWord_done s _ h _ _ _ k (by rw [meaning_act, taken_me]; exact go _ _),
    fun k => runWord_done s _ h _ _ _ k (by rw [meaning_act, taken_me]; exact go _ _)⟩

end Sys2Proof.Machine
end

section
/-! SUPPORT. What landing a result leaves alone (R26), the schedule cycle and the step (R25, R63, R70, R381), words
written out, and the state of reset. -/

namespace Sys2Proof.Machine

/-- Settles O51: the words of one group each are read by computation. -/
theorem wordsOfEachUnitDecode : Obligations.WordsOfEachUnitDecode := by
  have ok {l : List W32} {r : Instr × Nat} (h : (decodeGroup l).toOption = some r) : decodeGroup l = .ok r := by
    cases e : decodeGroup l with
    | ok v => rw [e] at h; exact congrArg _ (Option.some.inj h)
    | error => rw [e] at h; cases h
  exact ⟨ok (by decide +kernel), ok (by decide +kernel), ok (by decide +kernel), ok (by decide +kernel), ok (by decide +kernel),
    ok (by decide +kernel), ok (by decide +kernel), ok (by decide +kernel)⟩

/-- Settles O54: reset has no entry in any table, and every default is the value of the spec. -/
theorem resetLeavesTheValuesOfTheSpec : Obligations.ResetLeavesTheValuesOfTheSpec := by
  unfold Obligations.ResetLeavesTheValuesOfTheSpec
  intro s
  refine ⟨reset_wf, rfl, rfl, rfl, rfl, rfl, rfl, rfl, rfl, fun _ => rfl, fun _ _ => ⟨rfl, rfl⟩, fun _ => ⟨rfl, rfl, rfl⟩,
    fun _ => ⟨rfl, rfl⟩, fun _ => ⟨rfl, rfl⟩, fun _ => ⟨rfl, rfl, rfl, rfl⟩⟩

/-- Where a cluster stands in its stream: what no result that lands changes. -/
def Cluster.place (c : Cluster) := (c.pc, c.out, c.run, c.gap, c.drained, c.loopp)

/-- Every cluster stands where it stood, in the same task, with the same code lines. -/
structure SamePlace (s t : State) : Prop where
  place : ∀ k, (t.clu k).place = (s.clu k).place
  task : ∀ k, (t.ctxOf k).task = (s.ctxOf k).task
  icache : ∀ n, (t.core n).icache = (s.core n).icache

namespace SamePlace
variable {s t u : State}

theorem refl (s : State) : SamePlace s s := ⟨fun _ => rfl, fun _ => rfl, fun _ => rfl⟩

theorem trans (a : SamePlace s t) (b : SamePlace t u) : SamePlace s u :=
  ⟨fun k => (b.place k).trans (a.place k), fun k => (b.task k).trans (a.task k), fun n => (b.icache n).trans (a.icache n)⟩

theorem of_cores (h : t.cores = s.cores) : SamePlace s t := by
  have core (n : Nat) : t.core n = s.core n := by unfold State.core; rw [h]
  have ctxOf (k : Who) : t.ctxOf k = s.ctxOf k := by unfold State.ctxOf; rw [core]
  have clu (k : Who) : t.clu k = s.clu k := by unfold State.clu; rw [ctxOf]
  exact ⟨fun k => by rw [clu], fun k => by rw [ctxOf], fun n => by rw [core]⟩

theorem modCore (s : State) (n : Nat) (f : Core → Core) (hf : ∀ c, (f c).ctxs = c.ctxs ∧ (f c).icache = c.icache) :
    SamePlace s (s.modCore n f) where
  place k := by rw [clu_modCore s n f k fun c => (hf c).1]
  task k := by rw [ctxOf_modCore s n f k fun c => (hf c).1]
  icache m := coreFld_modCore Core.icache s n m f fun c => (hf c).2

theorem modCtx (s : State) (k : Who) (f : Ctx → Ctx) (hf : ∀ x, (f x).clus = x.clus ∧ (f x).task = x.task) :
    SamePlace s (s.modCtx k f) where
  place j := by rw [clu_modCtx s j k f fun x => (hf x).1]
  task j := ctxFld_modCtx Ctx.task s j k f fun x => (hf x).2
  icache m := coreFld_modCtx Core.icache (fun _ _ _ => rfl) s k f m

theorem modClu (s : State) (k : Who) (f : Cluster → Cluster) (hf : ∀ c, (f c).place = c.place) :
    SamePlace s (s.modClu k f) where
  place j := cluFld_modClu Cluster.place s j k f hf
  task j := ctxFld_modClu Ctx.task (fun _ _ _ => rfl) s k f j
  icache m := coreFld_modCtx Core.icache (fun _ _ _ => rfl) s k _ m

theorem foldl {α : Type} (f : State → α → State) (hf : ∀ s e, SamePlace s (f s e)) (l : List α) :
    ∀ s, SamePlace s (l.foldl f s) := by
  induction l with
  | nil => exact refl
  | cons e r ih =>
    intro s
    rw [List.foldl_cons]
    exact (hf s e).trans (ih _)

end SamePlace

theorem samePlace_barrierCheck (s : State) (d b : Nat) : SamePlace s (s.barrierCheck d b) := by
  unfold State.barrierCheck
  dsimp only
  split
  · exact SamePlace.refl s
  · obtain ⟨kn, e⟩ := meetAll_eq s ((s.die d).arrivers b)
    rw [e]
    refine SamePlace.trans (SamePlace.of_cores ?_) (SamePlace.foldl _ (fun s k => SamePlace.modClu s k _ fun _ => by rfl) _ _)
    rfl

theorem samePlace_setSpecial (s : State) (k : Who) (n : Nat) (v : Word) : SamePlace s (s.setSpecial k n v) := by
  unfold State.setSpecial
  split
  · exact SamePlace.modClu s k _ fun _ => by rfl
  split
  · exact SamePlace.modClu s k _ fun _ => by rfl
  split
  · exact SamePlace.modClu s k _ fun _ => by rfl
  split
  · exact SamePlace.modClu s k _ fun _ => by rfl
  split
  · exact SamePlace.modClu s k _ fun _ => by rfl
  split
  · refine SamePlace.trans (SamePlace.of_cores ?_) (samePlace_barrierCheck _ _ _)
    rfl
  · exact SamePlace.refl s

theorem samePlace_hand (s : State) (p q : Party) : SamePlace s (s.hand p q) := by
  obtain ⟨kn, e⟩ := hand_eq s p q
  rw [e]
  exact SamePlace.of_cores (by rfl)

theorem setCir_fld {α : Type} (g : Ctx → α) (hg : ∀ x a b, g { x with cir := a, cirNew := b } = g x) (x : Ctx) (b : Nat) :
    g (x.setCir b) = g x := by
  unfold Ctx.setCir
  split
  · rfl
  · exact hg x _ _

/-- A result that lands moves no cluster (R26). -/
theorem samePlace_land (k : Who) (s : State) (r : Res) : SamePlace s (s.land k r) := by
  cases r with
  | scal r v => exact SamePlace.modClu s k _ fun c => by unfold Cluster.setS; split <;> rfl
  | pred p v => exact SamePlace.modClu s k _ fun c => by unfold Cluster.setP; split <;> rfl
  | areg n v => exact SamePlace.modClu s k _ fun _ => by rfl
  | mode n v => exact SamePlace.modClu s k _ fun _ => by rfl
  | base n v => exact SamePlace.modClu s k _ fun _ => by rfl
  | inc n v => exact SamePlace.modClu s k _ fun _ => by rfl
  | mbuf n v m => exact SamePlace.modClu s k _ fun _ => by rfl
  | frame off n v m =>
    unfold State.land
    exact SamePlace.modCore s k.core _ fun _ => ⟨by rfl, by rfl⟩
  | mask n v m => exact SamePlace.modClu s k _ fun _ => by rfl
  | lrow q id d p =>
    refine (samePlace_hand s _ _).trans (SamePlace.modCtx _ k _ fun x => ?_)
    exact ⟨setCir_fld Ctx.clus (fun _ _ _ => rfl) x _, setCir_fld Ctx.task (fun _ _ _ => rfl) x _⟩
  | srow q id d => exact (samePlace_hand s _ _).trans (SamePlace.modCtx _ k _ fun _ => ⟨by rfl, by rfl⟩)
  | spec n v => exact samePlace_setSpecial s k n v
  | view n v => exact SamePlace.modCtx s k _ fun _ => ⟨by rfl, by rfl⟩
  | cir b =>
    exact SamePlace.modCtx s k _ fun x => ⟨setCir_fld Ctx.clus (fun _ _ _ => rfl) x b, setCir_fld Ctx.task (fun _ _ _ => rfl) x b⟩
  | sig n v => exact SamePlace.modClu s k _ fun _ => by rfl
  | inv n v => exact SamePlace.modClu s k _ fun _ => by rfl
  | prov n => exact SamePlace.modCtx s k _ fun _ => ⟨by rfl, by rfl⟩

theorem samePlace_landDue (s : State) (k : Who) : SamePlace s (s.landDue k) := by
  unfold State.landDue State.landBy
  dsimp only
  split
  · exact SamePlace.refl s
  · exact SamePlace.trans (SamePlace.modClu s k _ fun _ => by rfl) (SamePlace.foldl (fun s (f : Flight) => f.res.foldl (State.land k) s)
      (fun s f => SamePlace.foldl _ (samePlace_land k) _ s) _ _)

theorem samePlace_traceClu (s : State) (k : Who) (kind : Nat) (data : Word) : SamePlace s (s.traceClu k kind data) :=
  SamePlace.of_cores (traceClu_cores ..)

theorem samePlace_perfMe (s : State) (ev : Nat) : SamePlace s (s.perfMe ev) := by
  obtain h | ⟨p, o, h⟩ := perf_core s s.cur.core ev s.cur.ctx (some s.cur.clu) 1
  · unfold State.perfMe
    rw [h]
    exact SamePlace.refl s
  · unfold State.perfMe
    rw [h]
    exact SamePlace.modCore _ _ _ fun _ => ⟨by rfl, by rfl⟩

/-- The start of a schedule cycle moves no cluster (R25, R26). -/
theorem samePlace_beginSc (s : State) (k : Who) : SamePlace s (s.beginSc k) := by
  unfold State.beginSc
  dsimp only
  have h : SamePlace s ((({ s with cur := k }.modClu k fun c => { c with sc := c.sc + 1, early := [] }).landDue k).perfMe 1) :=
    SamePlace.trans (t := { s with cur := k }) (SamePlace.of_cores rfl)
      (SamePlace.trans (SamePlace.modClu _ k _ fun _ => by rfl) ((samePlace_landDue _ k).trans (samePlace_perfMe _ 1)))
  split
  · exact h.trans (samePlace_traceClu _ _ _ _)
  · exact h

theorem SamePlace.codeWord {s t : State} (h : SamePlace s t) (k : Who) (pc : Nat) : t.codeWord k pc = s.codeWord k pc := by
  have ht : t.taskOf k = s.taskOf k := by unfold State.taskOf; rw [h.task]
  unfold State.codeWord
  rw [ht, h.icache]

/-- A cluster that stands where it stood finds the same group. -/
theorem SamePlace.nextGroup {s t : State} (h : SamePlace s t) (k : Who) : t.nextGroup k = s.nextGroup k := by
  have hp := h.place k
  simp only [Cluster.place, Prod.mk.injEq] at hp
  obtain ⟨hpc, hout, -⟩ := hp
  unfold State.nextGroup
  simp only [hpc, hout, h.codeWord]

/-- A cluster whose loop has not been drained is only told whether to admit iterations (R103). -/
theorem samePlace_drainLoop (s : State) (k : Who) (hd : (s.clu k).drained = none) : SamePlace s (s.drainLoop k) := by
  unfold State.drainLoop
  simp only [hd, Option.isSome_none, Bool.false_and, Bool.false_eq_true, if_false]
  split
  · exact SamePlace.refl s
  · exact SamePlace.modClu s k _ fun _ => by rfl

/-- The sc that a stall takes is counted where the word has a next state (R93). -/
def stallCounted (k : Who) : Host.Outcome State Fault Refusal → Host.Outcome State Fault Refusal
  | .next t => .next (t.countStall k)
  | o => o

/-- A schedule cycle of a running cluster with no gap is its next word's (R25, R63). -/
theorem runSc_word {s : State} {k : Who} (hrun : (s.clu k).run = .run) (hgap : (s.clu k).gap = 0)
    (hdr : (((s.beginSc k).drainLoop k).clu k).drained = none) :
    s.runSc k = stallCounted k (((s.beginSc k).drainLoop k).runNext k) := by
  have hp := (samePlace_beginSc s k).place k
  simp only [Cluster.place, Prod.mk.injEq] at hp
  obtain ⟨-, -, hr, hg, -⟩ := hp
  unfold State.runSc
  rw [if_neg (by rw [hrun]; decide)]
  dsimp only
  rw [if_neg (by rw [hr, hrun]; decide), if_neg (by rw [hg, hgap]; decide), if_neg (by rw [hdr]; decide)]
  cases ((s.beginSc k).drainLoop k).runNext k <;> rfl

/-- A whole group that the decoder reads is the next group. -/
theorem nextGroup_word {s : State} {k : Who} {w : W32} {i : Instr} (hout : (s.clu k).out = false)
    (hw : s.codeWord k (s.clu k).pc.toNat = .word w) (himm : W32.isImm w = false) (hmod : W32.isMod w = false)
    (hd : decodeGroup [w] = .ok (i, 1)) : s.nextGroup k = .ok i := by
  unfold State.nextGroup
  simp [hout, hw, himm, hmod, readGroup, hd]

theorem foldl_fixed_of {σ α : Type} (f : σ → α → σ) (s : σ) (l : List α) (h : ∀ x ∈ l, f s x = s) : l.foldl f s = s := by
  induction l with
  | nil => rfl
  | cons x r ih =>
    rw [List.foldl_cons, h x List.mem_cons_self]
    exact ih fun y hy => h y (List.mem_cons_of_mem x hy)

/-- No context freezes whose clusters have their lines (R92). -/
theorem freezeMissing_of_hits {s : State} {n : Nat}
    (h : ∀ x u va, x < 4 → s.nextGroup ⟨n, x, u⟩ ≠ .miss va) : s.freezeMissing n = s := by
  refine foldl_fixed_of _ s _ fun x hx => ?_
  have hx4 : x < 4 := List.mem_range.1 hx
  have hnone : (Who.clusters ⟨n, x, .c⟩).findSome? (fun k =>
      if (s.clu k).run = .run then (match s.nextGroup k with | .miss va => some va | _ => none) else none) = none := by
    rw [List.findSome?_eq_none_iff]
    intro k hk
    obtain ⟨u, -, rfl⟩ := List.mem_map.1 hk
    split
    · split
      · next va hm => exact absurd hm (h x u va hx4)
      · rfl
    · rfl
  split
  · split
    · next va hv =>
      have := hnone.symm.trans hv
      cases this
    · rfl
  · rfl

/-- No SYNC group is issuing at a position whose contexts have none (R24). -/
theorem no_group {s : State} {n : Nat} {u : Clu} (h : ∀ x, x < 4 → (s.ctxOf ⟨n, x, u⟩).syncGo = false) :
    (List.range 4).find? (fun x => (s.ctxOf ⟨n, x, u⟩).syncGo) = none := by
  rw [List.find?_eq_none]
  intro x hx
  simp [h x (List.mem_range.1 hx)]

section
variable {s : State} {n pos : Nat} (hskip : dieOf n ∉ s.skip) (hdie : (s.die (dieOf n)).power = true)
  (hpow : (s.core n).power ≠ .off) (hsync : ∀ x, x < 4 → (s.ctxOf ⟨n, x, Clu.at pos⟩).syncGo = false)
  (hmiss : pos = 0 → ∀ x u va, x < 4 → s.nextGroup ⟨n, x, u⟩ ≠ .miss va)
include hskip hdie hpow hsync hmiss

/-- A position of the slot's own context, which runs and keeps its cc (R25, R332). -/
theorem position_named {x : Nat} (hx : x = (s.core n).slotNow) (hlt : x < 4)
    (hawake : s.awake ⟨n, x, Clu.at pos⟩ = true) (haway : (s.clu ⟨n, x, Clu.at pos⟩).away = false)
    (hgroup : pos = 0 → s.syncReady ⟨n, x, Clu.at pos⟩ = false) : s.position n pos = s.runSc ⟨n, x, Clu.at pos⟩ := by
  have hfr : (if pos = 0 then s.freezeMissing n else s) = s := by
    split
    · next h0 => exact freezeMissing_of_hits (hmiss h0)
    · rfl
  have hon : s.handsOn ⟨n, x, Clu.at pos⟩ = false := by simp [State.handsOn, haway]
  have hgo : ¬(decide (pos = 0) && s.syncReady ⟨n, x, Clu.at pos⟩) = true := by
    rw [Bool.and_eq_true, decide_eq_true_eq]
    exact fun ⟨h0, h1⟩ => Bool.eq_false_iff.1 (hgroup h0) h1
  have hstill : s.still (dieOf n) = false := by simp [State.still, hskip, hdie]
  unfold State.position
  simp [hstill, hpow, hfr, no_group hsync, ← hx, hlt, hawake, hgo, hon]

/-- A position of an open slot, whose next ready context is the one that the turn finds (R25). -/
theorem position_open {x : Nat} (hslot : 4 ≤ (s.core n).slotNow)
    (hgroup : pos = 0 → ∀ y, y < 4 →
      ((List.range 4).foldl (fun s y => s.presents ⟨n, y, Clu.at pos⟩) s).syncReady ⟨n, y, Clu.at pos⟩ = false)
    (hx : ((ringFrom (tblGet 3 (((List.range 4).foldl (fun s y => s.presents ⟨n, y, Clu.at pos⟩) s).core n).rr pos)).find?
      fun y => ((List.range 4).foldl (fun s y => s.presents ⟨n, y, Clu.at pos⟩) s).canIssue ⟨n, y, Clu.at pos⟩) = some x) :
    s.position n pos = (((List.range 4).foldl (fun s y => s.presents ⟨n, y, Clu.at pos⟩) s).modCore n
      fun c => { c with rr := tblPut c.rr pos x }).runSc ⟨n, x, Clu.at pos⟩ := by
  have hfr : (if pos = 0 then s.freezeMissing n else s) = s := by
    split
    · next h0 => exact freezeMissing_of_hits (hmiss h0)
    · rfl
  have hstill : s.still (dieOf n) = false := by simp [State.still, hskip, hdie]
  have hopen : s.position n pos = s.anyReady n pos none := by
    unfold State.position
    simp [hstill, hpow, hfr, no_group hsync, Nat.not_lt.2 hslot]
  rw [hopen]
  unfold State.anyReady
  simp only [reduceCtorEq, if_false]
  generalize (List.range 4).foldl (fun s y => s.presents ⟨n, y, Clu.at pos⟩) s = p at *
  have hno : ∀ y ∈ ringFrom (tblGet 3 (p.core n).rr pos),
      (decide (pos = 0) && true && p.syncReady ⟨n, y, Clu.at pos⟩) = false := by
    intro y hy
    have hy4 : y < 4 := by
      simp only [ringFrom, List.mem_cons, List.not_mem_nil, or_false] at hy
      omega
    by_cases h0 : pos = 0
    · rw [hgroup h0 y hy4, Bool.and_false]
    · simp [h0]
  have hfind : ∀ l : List Nat, (∀ y ∈ l, (decide (pos = 0) && true && p.syncReady ⟨n, y, Clu.at pos⟩) = false) →
      l.find? (fun y => decide (some y ≠ none) && (p.canIssue ⟨n, y, Clu.at pos⟩ ||
        decide (pos = 0) && true && p.syncReady ⟨n, y, Clu.at pos⟩)) = l.find? fun y => p.canIssue ⟨n, y, Clu.at pos⟩ := by
    intro l hl
    induction l with
    | nil => rfl
    | cons y r ih =>
      rw [List.find?_cons, List.find?_cons, ih fun z hz => hl z (List.mem_cons_of_mem y hz), hl y List.mem_cons_self]
      simp
  rw [hfind _ hno, hx]
  exact if_neg (Bool.eq_false_iff.1 (hno x (List.mem_of_find?_eq_some hx)))

end

/-- Settles O52. -/
theorem aStepRunsTheDecodedInstruction : Obligations.AStepRunsTheDecodedInstruction := by
  intro s k i
  refine ⟨?_, fun hd => ?_, ?_, ?_⟩
  · intro b hrun hgap hdr hnext
    have hnx : b.runNext k = exec i b := by
      unfold State.runNext
      rw [hnext]
    have hsc := runSc_word hrun hgap hdr
    refine ⟨hsc.trans (by rw [hnx]; cases exec i b <;> rfl), fun t ht hw => hsc.trans ?_⟩
    rw [hnx, ht]
    have hcs : t.countStall k = t := by
      unfold State.countStall
      dsimp only
      rw [hw]
    exact congrArg Host.Outcome.next hcs
  · refine SamePlace.nextGroup (.trans (samePlace_beginSc s k) (samePlace_drainLoop _ k ?_)) k
    have hp := (samePlace_beginSc s k).place k
    simp only [Cluster.place, Prod.mk.injEq] at hp
    obtain ⟨-, -, -, -, hdr, -⟩ := hp
    rw [hdr, hd]
  · obtain ⟨n, c, u⟩ := k
    rintro hscan rfl rfl hskip hpow hdie hsync hmiss p
    have hstep : step s = advance (s.position (s.scan / 4) (s.scan % 4)) := if_pos hscan
    exact ⟨fun hc hlt hawake haway hgroup => hstep.trans (congrArg advance
        (position_named hskip hdie hpow hsync hmiss hc hlt hawake haway hgroup)),
      fun hslot hgroup hx => hstep.trans (congrArg advance (position_open hskip hdie hpow hsync hmiss hslot hgroup hx))⟩
  · intro l w t pc hout hal hlo hhi hline hw himm hmod hdec
    refine nextGroup_word hout ?_ himm hmod hdec
    have hin : ¬(decide (pc % 4 ≠ 0) || decide (pc < t.snap.codeOff) || decide (t.snap.codeOff + t.snap.codeSize < pc + 4)) = true := by
      simp only [Bool.or_eq_true, decide_eq_true_eq]
      omega
    refine (if_neg hin).trans ?_
    rw [hline, hw]

/-! Posts and held pushes (R23, R94, R122). -/

theorem pushTok_tokens (x : Ctx) (q r : Nat) : (x.pushTok q).tokens r = x.tokens r + if r = q then 1 else 0 := by
  unfold Ctx.pushTok Ctx.tokens
  rw [tblGet_tblPut]
  split
  · next e => rw [e]
  · rfl

/-- A held push whose queues have room is made (R23). -/
theorem makePushes_room (k : Clu) (w : BitVec 2) (x : Ctx) (h : x.roomTok (sigQueues k w) = true) :
    (makePushes k [w] x).2 = [] ∧
      ∀ q, (makePushes k [w] x).1.tokens q = x.tokens q + if q ∈ sigQueues k w then 1 else 0 := by
  have hne : outQueue k true ≠ outQueue k false := by simp [outQueue]
  have hboth (q a b c : Nat) (hbc : c ≠ b) :
      (a + if q = b then 1 else 0) + (if q = c then 1 else 0) = a + if q = b ∨ q = c then 1 else 0 := by
    by_cases hb : q = b
    · rw [if_pos hb, if_neg (hb ▸ hbc.symm), if_pos (.inl hb)]
    · simp [hb]
  have hw : ∀ w : BitVec 2, w = 0 ∨ w = 1 ∨ w = 2 ∨ w = 3 := by decide
  obtain rfl | rfl | rfl | rfl := hw w
  · simp [makePushes, sigQueues]
  · simp_all [makePushes, sigQueues, Ctx.roomTok, pushTok_tokens]
  · simp_all [makePushes, sigQueues, Ctx.roomTok, pushTok_tokens]
  · simp_all [makePushes, sigQueues, Ctx.roomTok, pushTok_tokens]

theorem forget_keeps (s : State) (f : Party → Bool) (n : Nat) : (s.forget f).core n = s.core n :=
  forget_fld (State.core · n) (fun _ _ => rfl) s f

/-- The state in which a post has reached a context of its core (R122). -/
def State.postTo (s : State) (i n f who x : Nat) : State :=
  (s.hand (.post i) (.flagIn n x f)).modCtx ⟨n, x, .c⟩ fun x => x.setFlag f true who

theorem postTo_fsets (s : State) (i n f who x y : Nat) :
    (((s.postTo i n f who x).core n).ctx y).fsets = ((s.core n).ctx y).fsets ++ if y = x then [(f, true, who)] else [] := by
  obtain ⟨kn, e⟩ := hand_eq s (.post i) (.flagIn n x f)
  unfold State.postTo
  rw [e]
  by_cases hy : y = x
  · subst hy
    have := ctxOf_modCtx { s with known := kn } ⟨n, y, .c⟩ fun x => x.setFlag f true who
    unfold State.ctxOf at this
    rw [this, if_pos rfl]
    rfl
  · have := ctxOf_modCtx_other { s with known := kn } ⟨n, y, .c⟩ ⟨n, x, .c⟩ (fun x => x.setFlag f true who)
      fun h => hy h.2
    unfold State.ctxOf at this
    rw [this, if_neg hy, List.append_nil]
    rfl

/-- A post reaches every context of a list once (R122). -/
theorem posts_fsets (i n f who y : Nat) (l : List Nat) (hl : l.Nodup) : ∀ s : State,
    (((l.foldl (fun s x => s.postTo i n f who x) s).core n).ctx y).fsets =
      ((s.core n).ctx y).fsets ++ if y ∈ l then [(f, true, who)] else [] := by
  induction l with
  | nil => simp
  | cons x r ih =>
    intro s
    obtain ⟨hx, hr⟩ := List.nodup_cons.1 hl
    rw [List.foldl_cons, ih hr, postTo_fsets, List.append_assoc]
    by_cases hy : y = x
    · simp [hy, hx]
    · simp [hy]

theorem mem_ofLaunch (c : Core) (l x : Nat) :
    x ∈ c.ofLaunch l ↔ x < 4 ∧ ∃ k, (c.ctx x).task = some k ∧ k.launch = l := by
  unfold Core.ofLaunch
  rw [List.mem_filter, List.mem_range]
  cases (c.ctx x).task <;> simp

/-- The pushes of a context, without what the tokens carry (R23). -/
theorem pushTokens_ctxOf (s : State) (k : Who) (due : List (BitVec 2)) :
    (s.pushTokens k due).ctxOf k = (makePushes k.clu due (s.ctxOf k)).1.modClu k.clu
      fun c => { c with held := (makePushes k.clu due (s.ctxOf k)).2 } := by
  unfold State.pushTokens
  dsimp only
  rw [foldl_fld (State.ctxOf · k) _ fun _ _ => handToks_fld (State.ctxOf · k) (fun _ _ => rfl) _ _ _ _ _, ctxOf_modCtx]

/-- The state in which a post has gone (R122). -/
theorem exec_postgDelivery {s : State} {i n f l who : Nat} (hp : tblFind s.postg i = some (n, f, l, who))
    (hpow : (s.core n).power = .on) :
    exec (.postgDelivery i) s = .next (
      if ((s.core n).ofLaunch l).isEmpty then
        { s with postg := tblErase s.postg i }.modDie (dieOf n) fun d => { d with discarded := (d.discarded + 1) % 2 ^ 64 }
      else (((s.core n).ofLaunch l).foldl (fun (s : State) x => s.postTo i n f who x)
        { s with postg := tblErase s.postg i }).forget fun p => p = .post i) := by
  have hw : s.wakeCore n = s := by unfold State.wakeCore; rw [hpow]
  have hoff : ¬(s.core n).power = .off := by rw [hpow]; decide
  show execPostgDelivery i s = _
  unfold execPostgDelivery
  rw [hp]
  dsimp only
  rw [hw, if_neg hoff]
  split
  · next h => exact congrArg Host.Outcome.next (if_pos h).symm
  · next h => exact congrArg Host.Outcome.next (if_neg h).symm

/-- Settles O30. -/
theorem postsAndResultsArrive : Obligations.PostsAndResultsArrive := by
  refine ⟨fun s i n f l who hp hpow => ⟨_, exec_postgDelivery hp hpow, ?_, fun x hx => ?_, fun hno => ?_⟩,
    fun s k w => ⟨rfl, fun hh hr => ?_⟩⟩
  · have herase : tblFind (tblErase s.postg i) i = none := by rw [tblFind_tblErase, if_pos rfl]
    split
    · exact herase
    · rw [forget_fld State.postg fun _ _ => rfl, foldl_fld State.postg (fun (s : State) x => s.postTo i n f who x) fun s x =>
        hand_fld State.postg (fun _ _ => rfl) s _ _]
      exact herase
  · have hmem := mem_ofLaunch (s.core n) l x
    split
    · next he =>
      rw [List.isEmpty_iff.1 he] at hmem
      rw [if_neg fun hk => List.not_mem_nil (hmem.2 ⟨hx, hk⟩), List.append_nil]
      rfl
    · have hnd : ((s.core n).ofLaunch l).Nodup := List.Pairwise.filter _ List.nodup_range
      rw [forget_keeps, posts_fsets i n f who x _ hnd]
      simp only [hmem, hx, true_and]
      rfl
  · have he : ((s.core n).ofLaunch l).isEmpty = true := by
      rw [List.isEmpty_iff, List.eq_nil_iff_forall_not_mem]
      intro x hm
      obtain ⟨hx, k, hk, hl⟩ := (mem_ofLaunch ..).1 hm
      exact hno x k hx hk hl
    rw [if_pos he, die_modDie, if_pos rfl]
    rfl
  · obtain ⟨hleft, htok⟩ := makePushes_room k.clu w (s.ctxOf k) hr
    have hex : exec (.heldTokenPush k) s = .next (s.pushTokens k [w]) := by
      refine (if_neg ?_).trans ?_
      · simp [hh]
      · rw [hh]
    refine ⟨_, hex, ?_, fun q => ?_⟩
    · unfold State.clu
      rw [pushTokens_ctxOf, ctx_clu_modClu, if_pos rfl]
      exact hleft
    · rw [pushTokens_ctxOf]
      exact htok q

end Sys2Proof.Machine
end

section
/-! SUPPORT. Routes and lanes that fail (R305, R400), registers of the management window (R351 to R360, R398, R399). -/

namespace Sys2Proof.Machine

theorem tblFind_mem {α : Type} {t : Tbl α} {k : Nat} {v : α} (h : tblFind t k = some v) : (k, v) ∈ t := by
  induction t with
  | nil => cases h
  | cons e r ih =>
    obtain ⟨j, w⟩ := e
    unfold tblFind at h
    split at h
    · next e =>
      cases h
      rw [e]
      exact List.mem_cons_self
    · exact List.mem_cons_of_mem _ (ih h)

/-- The state in which a route has gone out of service, and the error of its port is counted (R305, R348). -/
def State.routeDown (s : State) (i : Nat) (r : Route) : State :=
  ({ s with routes := tblPut s.routes i { r with up := false } } : State).errEvent ⟨0x700 + r.port, 0, some 7, 64, 0, 0⟩

theorem failRoute_up {s : State} {i : Nat} {r : Route} (hr : tblFind s.routes i = some r) (hup : r.up = true) :
    s.failRoute i = (s.unacked.filter fun x => x.route = i && x.pk.dst ≠ s.devId).foldl State.replay (s.routeDown i r) := by
  unfold State.failRoute
  rw [hr]
  dsimp only
  rw [if_neg (by rw [hup]; decide)]
  rfl

/-- A route that fails with nothing unacknowledged is down, and the other routes are as they were (R305). -/
theorem failRoute_routes (s : State) (i : Nat) (hu : s.unacked = []) :
    (s.failRoute i).unacked = [] ∧ ∀ j, tblFind (s.failRoute i).routes j =
      if j = i then (tblFind s.routes i).map fun r => { r with up := false } else tblFind s.routes j := by
  cases hr : tblFind s.routes i with
  | none =>
    have e : s.failRoute i = s := by unfold State.failRoute; rw [hr]
    rw [e]
    refine ⟨hu, fun j => ?_⟩
    split
    · next h => rw [h, hr]; rfl
    · rfl
  | some r =>
    cases hup : r.up with
    | false =>
      have e : s.failRoute i = s := by unfold State.failRoute; simp [hr, hup]
      rw [e]
      refine ⟨hu, fun j => ?_⟩
      split
      · next h => rw [h, hr]; exact congrArg some (by rw [← hup])
      · rfl
    | true =>
      rw [failRoute_up hr hup, hu]
      exact ⟨hu, fun j => tblFind_tblPut ..⟩

/-- Routes that fail one after the other are all down at the end, and no route comes up (R400). -/
theorem failRoutes_down (l : List (Nat × Route)) : ∀ s : State, s.unacked = [] → ∀ j q,
    tblFind (l.foldl (fun s e => s.failRoute e.1) s).routes j = some q →
      ∃ r, tblFind s.routes j = some r ∧ q.port = r.port ∧ (q.up = true → r.up = true ∧ ∀ e ∈ l, e.1 ≠ j) := by
  induction l with
  | nil => exact fun s _ j q h => ⟨q, h, rfl, fun hu => ⟨hu, fun _ he => absurd he List.not_mem_nil⟩⟩
  | cons e l ih =>
    intro s hs j q h
    obtain ⟨hu, hf⟩ := failRoute_routes s e.1 hs
    obtain ⟨r, hr, hp, hup⟩ := ih _ hu j q h
    rw [hf j] at hr
    split at hr
    · next hj =>
      obtain ⟨r0, h0, rfl⟩ := Option.map_eq_some_iff.1 hr
      exact ⟨r0, hj ▸ h0, hp, fun h => absurd (hup h).1 Bool.false_ne_true⟩
    · next hj =>
      refine ⟨r, hr, hp, fun h => ⟨(hup h).1, fun x hx => ?_⟩⟩
      obtain rfl | hx := List.mem_cons.1 hx
      · exact fun e => hj e.symm
      · exact (hup h).2 x hx

/-- The spare lane is bound in the spare map only (R346, R400). -/
theorem takeSpare_fld {α : Type} (g : State → α) (hg : ∀ s m, g { s with spare := m } = g s) (s : State) (p lane : Nat) :
    g (s.takeSpare p lane) = g s := by
  unfold State.takeSpare
  split
  · exact hg _ _
  · rfl

/-- Settles O37. -/
theorem routesAndLanesFail : Obligations.RoutesAndLanesFail := by
  intro s i p lane r
  refine ⟨fun x hx hr hd => if_pos ?_, fun hf hup => ⟨rfl, failRoute_up hf hup⟩, fun x j q hq hx => ?_, fun hs => ?_,
    fun hs hu => ?_⟩
  · exact List.any_eq_true.2 ⟨x, hx, by simp [hr, hd]⟩
  · unfold State.replay
    rw [hq]
    exact List.mem_map.2 ⟨x, hx, if_pos rfl⟩
  · refine ⟨_, if_neg (by rw [hs]; decide), ?_, ?_, ?_⟩
    · show (State.port (State.takeSpare _ p lane) p).spareUsed = true
      rw [takeSpare_fld (State.port · p) fun _ _ => rfl]
      unfold State.port State.modPort
      rw [tblGet_tblPut, if_pos rfl]
    · exact takeSpare_fld State.routes (fun _ _ => rfl) _ p lane
    · exact congrArg (· ++ [_]) (takeSpare_fld State.errEvts (fun _ _ => rfl) _ p lane)
  · refine ⟨_, if_pos hs, fun j q hq hp => ?_⟩
    obtain ⟨r, hr, hport, hup⟩ := failRoutes_down _ (s.errEvent _) hu j q hq
    refine Bool.eq_false_iff.2 fun h => (hup h).2 (j, r) (List.mem_filter.2 ⟨tblFind_mem hr, ?_⟩) rfl
    simp [← hport, hp]

/-! The management window (R351 to R360, R398, R399). -/

theorem tblGet_tblErase_self {α : Type} (d : α) (t : Tbl α) (k : Nat) : tblGet d (tblErase t k) k = d := by
  rw [tblGet_tblErase, if_pos rfl]

/-- Where one score changes in a cc, it is set to what the cc makes of it (R353). -/
theorem endScores_one {s : State} {k v : Nat} (hset : s.scoreSet = [(k, v)]) (hnew : ∀ e ∈ s.scoreNew, e.1 = k) :
    s.endScores = { s.setScore k (Nat.min (v + tblGet 0 s.scoreNew k) 0xFFFF) with scoreSet := [], scoreNew := [] } := by
  have hnone : (s.scoreNew.map Prod.fst).filter (fun k => (tblFind s.scoreSet k).isNone) = [] := by
    rw [List.filter_eq_nil_iff]
    intro j hj
    obtain ⟨e, he, rfl⟩ := List.mem_map.1 hj
    rw [hnew e he, hset]
    simp [tblFind]
  have hdue : s.scoreDue k = Nat.min (v + tblGet 0 s.scoreNew k) 0xFFFF := by
    unfold State.scoreDue
    rw [hset]
    simp [tblGet, tblFind]
  unfold State.endScores
  dsimp only
  rw [hnone, hset, ← hdue]
  rfl

/-- A management interrupt changes its causes, what is pending and what is sent (R399). -/
theorem manageInt_fld {α : Type} (g : State → α) (hc : ∀ s c, g { s with causes := c } = g s)
    (hp : ∀ s p, g { s with pend := p } = g s) (hs : ∀ s l, g { s with sent := l } = g s) (s : State) (c : Cause) :
    g (s.manageInt c) = g s := by
  unfold State.manageInt State.interrupt
  split
  · rw [hp, hc]
  · rw [hs, hc]

theorem manageInt_causes (s : State) (c : Cause) : (s.manageInt c).causes = s.causes ++ [c] := by
  unfold State.manageInt State.interrupt
  split <;> rfl

theorem manageInt_sent {s : State} (c : Cause) (h : tblGet false s.maskV 0 = false) : (s.manageInt c).sent = s.sent ++ [0] := by
  unfold State.manageInt State.interrupt
  rw [if_neg (by rw [h]; decide)]

/-- The threshold of a score (R354). -/
def State.scoreLimit (s : State) (k : Nat) : Nat := if k < 64 then s.dth else s.cth

theorem setScore_score (s : State) (k v : Nat) : (s.setScore k v).score = tblPut s.score k v := by
  have e : s.setScore k v = if decide (tblGet 0 s.score k < s.scoreLimit k) && decide (s.scoreLimit k ≤ v) then
      ({ s with score := tblPut s.score k v } : State).manageInt (.score k) else { s with score := tblPut s.score k v } := rfl
  rw [e]
  split
  · exact manageInt_fld State.score (fun _ _ => rfl) (fun _ _ => rfl) (fun _ _ => rfl) _ _
  · rfl

/-- A score that crosses its threshold raises the management interrupt (R354). -/
theorem setScore_crosses {s : State} {k v : Nat} (hlo : tblGet 0 s.score k < s.scoreLimit k) (hhi : s.scoreLimit k ≤ v) :
    s.setScore k v = ({ s with score := tblPut s.score k v } : State).manageInt (.score k) :=
  if_pos (by rw [Bool.and_eq_true, decide_eq_true_eq, decide_eq_true_eq]; exact ⟨hlo, hhi⟩)

/-- Settles O44. -/
theorem managementRegistersTakeTheirWrites : Obligations.ManagementRegistersTakeTheirWrites := by
  intro s n i v b w u r
  refine ⟨fun hk hl => ?_, ?_, fun hr hw => ?_, ?_, fun ho hi => ?_, fun ho => ?_, ?_, fun hset hnew => ?_, fun hp => ?_, rfl,
    fun t ht => ?_, fun hn => ?_⟩
  · refine ⟨_, if_neg ?_, (tblGet_tblPut ..).trans (if_pos rfl)⟩
    simp only [Bool.or_eq_true, decide_eq_true_eq]
    omega
  · refine ⟨_, rfl, ?_, ?_⟩
    · rw [core_modCore, if_pos rfl]
    · rw [core_modCore, if_pos rfl]
  · refine ⟨_, if_pos (by simp [hr, hw]), ?_⟩
    rw [die_modDie, if_pos rfl]
  · refine ⟨_, rfl, ?_⟩
    rw [tq_modTq, if_pos rfl]
    rfl
  · refine ⟨_, if_pos (by simp [ho, hi]), ?_⟩
    rw [core_modCore, if_pos rfl]
    exact (tblGet_tblPut ..).trans (if_pos rfl)
  · exact if_neg (by simp [ho])
  · exact ⟨_, rfl, (tblFind_tblPut ..).trans (if_pos rfl)⟩
  · rw [endScores_one hset hnew]
    refine ⟨?_, fun hlo hhi => ?_⟩
    · exact (congrArg (tblGet 0 · _) (setScore_score ..)).trans ((tblGet_tblPut ..).trans (if_pos rfl))
    · rw [setScore_crosses hlo hhi]
      exact ⟨manageInt_causes _ _, fun hm => manageInt_sent (s := { s with score := _ }) _ hm⟩
  · exact ⟨_, if_pos hp, tblGet_tblErase_self .., tblGet_tblErase_self .., rfl⟩
  · exact congrArg (fun o => Host.Outcome.next (Option.getD o _)) ht
  · exact congrArg (fun o => Host.Outcome.next (Option.getD o _)) hn

end Sys2Proof.Machine
end

section
/-! SUPPORT. Power, clocks and the halt line (R364, R367 to R373, R388, R393, R406, R408). -/

namespace Sys2Proof.Machine

theorem manageInt_die (s : State) (c : Cause) (d : Nat) : (s.manageInt c).die d = s.die d :=
  manageInt_fld (State.die · d) (fun _ _ => rfl) (fun _ _ => rfl) (fun _ _ => rfl) s c

theorem manageInt_part (s : State) (c : Cause) (p : Nat) : (s.manageInt c).part p = s.part p :=
  manageInt_fld (State.part · p) (fun _ _ => rfl) (fun _ _ => rfl) (fun _ _ => rfl) s c

theorem mem_nextSkip (l : List Nat) (d : Nat) : d ∈ nextSkip l ↔ d + 64 ∈ l := by
  unfold nextSkip
  rw [List.mem_filterMap]
  constructor
  · rintro ⟨x, hx, hd⟩
    split at hd
    · cases hd
      rwa [Nat.sub_add_cancel ‹_›]
    · cases hd
  · exact fun h => ⟨d + 64, h, by simp⟩

/-- The dies of a list lose their power (R408). -/
theorem powerOff_dies (l : List Nat) : ∀ s : State, ∀ e,
    e ∈ l ∨ (s.die e).power = false →
      ((l.foldl (fun s d => s.modDie d fun x => { x with power := false }) s).die e).power = false := by
  induction l with
  | nil => exact fun s e h => h.resolve_left List.not_mem_nil
  | cons d l ih =>
    intro s e h
    refine ih _ e ?_
    by_cases hd : e = d
    · exact .inr (by rw [die_modDie, if_pos hd])
    · rw [die_modDie, if_neg hd]
      exact h.imp_left fun hm => (List.mem_cons.1 hm).resolve_left hd

theorem raiseLine_part_keeps (s : State) (p q code : Nat) (k : Who) (unit : Nat) (h : (s.part p).line = true) :
    ((s.raiseLine q code k unit).part p).line = true := by
  unfold State.raiseLine
  rw [part_modPart]
  split
  · next e =>
    rw [← e]
    split
    · exact h
    · simp [Part.line]
  · exact h

theorem raiseLine_run (s : State) (p q code : Nat) (k : Who) (unit : Nat) :
    ((s.raiseLine q code k unit).part p).run = (s.part p).run := by
  unfold State.raiseLine
  rw [part_modPart]
  split
  · next e =>
    rw [e]
    split <;> rfl
  · rfl

/-- The running partitions of the contexts of a list have their line raised (R408). -/
theorem raiseLines (code unit : Nat) (l : List Who) (p : Nat) : ∀ s : State,
    (s.part p).line = true ∨ (s.part p).run = .running ∧ (∃ k ∈ l, (s.taskOf k).part = p) →
      ((l.foldl (fun s k => s.raiseLine (s.taskOf k).part code k unit) s).part p).line = true := by
  induction l with
  | nil => exact fun s h => h.resolve_right fun ⟨_, k, hk, _⟩ => List.not_mem_nil hk
  | cons j l ih =>
    intro s h
    refine ih _ ?_
    obtain h | ⟨hr, k, hk, hp⟩ := h
    · exact .inl (raiseLine_part_keeps s p _ code j unit h)
    · obtain rfl | hk := List.mem_cons.1 hk
      · exact .inl (by dsimp only; rw [hp]; exact raiseLine_line s p code k unit hr)
      · exact .inr ⟨(raiseLine_run ..).trans hr, k, hk, hp⟩

/-- The clusters that wait with a GATE of a core (R388). -/
def State.gatesOf (s : State) (n : Nat) : List (Who × Instr) :=
  s.asking.filter fun e => match e.2 with | .gate _ _ a => selCore ((s.clu e.1).sreg a.toNat) = n | _ => false

/-- The state in which a core is off, its trace records gone (R364, R388, R393). -/
def State.gated (s : State) (n : Nat) : State :=
  (s.modDie (dieOf n) fun d =>
    { d with trace := d.trace.filter fun r => !r.ofCore n,
             lostRec := (d.lostRec + ((s.die (dieOf n)).trace.filter (TraceRec.ofCore n)).length) % 2 ^ 64 }).modCore n
    fun c => { c with power := .off }

theorem exec_powerGateCommit {s : State} {n : Nat} {force : Bool} (hp : (s.core n).power = .gating force)
    (hf : force = true ∨ ∀ r ∈ (s.die (dieOf n)).trace, r.ofCore n = false) :
    exec (.powerGateCommit n) s = .next (((s.gated n).gatesOf n).foldl
      (fun s e => s.modClu e.1 fun c => { c with barGo := true }) (s.gated n)) := by
  show execPowerGateCommit n s = _
  have hgo : ¬(!force && !((s.die (dieOf n)).trace.filter (TraceRec.ofCore n)).isEmpty) = true := by
    rw [Bool.and_eq_true, Bool.not_eq_true', Bool.not_eq_true', List.isEmpty_eq_false_iff]
    rintro ⟨h0, h1⟩
    obtain h | h := hf
    · exact Bool.false_ne_true (h0.symm.trans h)
    · exact h1 (List.filter_eq_nil_iff.2 fun r hr => by rw [h r hr]; decide)
  unfold execPowerGateCommit
  rw [hp]
  exact if_neg hgo

theorem exec_clockSkip {s : State} {d : Nat} (hd : s.hasDie d = true) (h1 : d + 64 ∉ s.skip)
    (h2 : d ∈ s.skip → tblGet 0 s.skipRun d < 14) :
    ∃ t, exec (.clockSkip d) s = .next t ∧ t.skip = s.skip ++ [d + 64] := by
  refine ⟨_, if_neg ?_, ?_⟩
  · simpa [hd, h1] using fun h => Nat.not_le.2 (h2 h)
  · split
    · rfl
    · exact manageInt_fld State.skip (fun _ _ => rfl) (fun _ _ => rfl) (fun _ _ => rfl) _ _

/-- Settles O47. -/
theorem powerAndClockEvents : Obligations.PowerAndClockEvents := by
  intro s n d i force
  refine ⟨fun hp hf => ?_, fun hp hw => ⟨_, if_pos (by simp [hp, hw]), ?_, ?_⟩, fun hd h1 h2 => ?_, ?_, fun h => ⟨_, if_pos h, ?_⟩⟩
  · refine ⟨_, exec_powerGateCommit hp hf, ?_⟩
    rw [foldl_fld (fun s => (State.core s n).power) (fun (s : State) (e : Who × Instr) => s.modClu e.1 fun c => { c with barGo := true })
      fun s e => coreFld_modCtx Core.power (fun _ _ _ => rfl) s e.1 _ n]
    unfold State.gated
    rw [core_modCore, if_pos rfl]
  · rw [core_modCore, if_pos rfl]
  · rw [core_modCore, if_pos rfl]
  · obtain ⟨t, ht, hs⟩ := exec_clockSkip hd h1 h2
    refine ⟨t, ht, ?_, fun e he => ?_⟩
    · rw [mem_nextSkip, hs]
      simp
    · rw [mem_nextSkip] at he ⊢
      rw [hs]
      exact List.mem_append_left _ he
  · refine ⟨_, rfl, fun e he => ?_, fun k hk hd hr => ?_⟩
    · rw [manageInt_die]
      exact powerOff_dies _ _ e (.inl he)
    · rw [manageInt_part, foldl_fld (State.part · _) (fun (s : State) d => s.modDie d fun x => { x with power := false }) fun _ _ => rfl]
      refine raiseLines fWatchdog 0 _ _ s (.inr ⟨hr, k, List.mem_filter.2 ⟨hk, ?_⟩, rfl⟩)
      simpa using hd
  · exact manageInt_fld State.hubActive (fun _ _ => rfl) (fun _ _ => rfl) (fun _ _ => rfl) _ _

/-! The halt line reaches the hub and the dies (R368 to R374). -/

/-- What the halt of a partition changes where it is reported: the hub's words and the answers of HALTP (R374, R392). -/
theorem checkHalted_fld {α : Type} (g : State → α)
    (hc : ∀ s k v, g (State.modClu s k fun c => { c with answer := v }) = g s)
    (hp : ∀ s ps cs pe se, g { s with parts := ps, causes := cs, pend := pe, sent := se } = g s) (s : State) (p : Nat) :
    g (s.checkHalted p) = g s := by
  unfold State.checkHalted
  dsimp only
  split
  · rw [manageInt_fld g (fun s c => hp s s.parts c s.pend s.sent) (fun s p => hp s s.parts s.causes p s.sent)
      fun s l => hp s s.parts s.causes s.pend l]
    refine (hp (s.answerHalt p) _ (s.answerHalt p).causes (s.answerHalt p).pend (s.answerHalt p).sent).trans ?_
    exact foldl_fld g (fun s (e : Who × Instr) => s.modClu e.1 fun c => { c with answer := some 0 }) (fun s e => hc s e.1 _) _ s
  · rfl

/-- A partition that is halting is halted in the end, or halts on (R374). -/
theorem checkHalted_part (s : State) (p : Nat) :
    (s.checkHalted p).part p = s.part p ∨ (s.checkHalted p).part p = { s.part p with run := .halted } := by
  unfold State.checkHalted
  dsimp only
  split
  · refine .inr ?_
    rw [manageInt_part, part_modPart, if_pos rfl]
    have e : (s.answerHalt p).part p = s.part p :=
      foldl_fld (State.part · p) (fun s (e : Who × Instr) => s.modClu e.1 fun c => { c with answer := some 0 }) (fun _ _ => rfl) _ s
    rw [e]
  · exact .inl rfl

theorem exec_hubSees {s : State} {p code di co cx un : Nat} (hf : (s.part p).first = some (code, di, co, cx, un)) :
    ∃ t, exec (.haltLineArrival p none) s = .next t ∧ (t.part p).hubSaw = true ∧ (t.part p).first = none ∧
      ((t.part p).run = .halting ∨ (t.part p).run = .halted) ∧ (t.part p).cause = code ∧ (t.part p).cdie = di ∧
      (t.part p).ccore = co ∧ (t.part p).cctx = cx ∧ (t.part p).cunit = un := by
  refine ⟨_, if_pos (by rw [hf]; rfl), ?_⟩
  have e : (s.modPart p Part.hubSees).part p =
      { s.part p with run := .halting, hubSaw := true, first := none, cause := code, cdie := di, ccore := co, cctx := cx,
                      cunit := un } := by
    rw [part_modPart, if_pos rfl]
    unfold Part.hubSees
    rw [hf]
  obtain h | h := checkHalted_part (s.modPart p Part.hubSees) p
  · rw [h, e]
    exact ⟨rfl, rfl, .inl rfl, rfl, rfl, rfl, rfl, rfl⟩
  · rw [h, e]
    exact ⟨rfl, rfl, .inr rfl, rfl, rfl, rfl, rfl, rfl⟩

theorem tblFind_map {α : Type} (f : Nat → α → α) (t : Tbl α) (n : Nat) :
    tblFind (t.map fun e => (e.1, f e.1 e.2)) n = (tblFind t n).map (f n) := by
  induction t with
  | nil => rfl
  | cons e r ih =>
    obtain ⟨k, v⟩ := e
    rw [List.map_cons]
    unfold tblFind
    split
    · next h => rw [h]; rfl
    · exact ih

theorem tblGet_map_fld {α β : Type} (g : α → β) (f : Nat → α → α) (hf : ∀ n a, g (f n a) = g a) (d : α) (t : Tbl α) (n : Nat) :
    g (tblGet d (t.map fun e => (e.1, f e.1 e.2)) n) = g (tblGet d t n) := by
  unfold tblGet
  rw [tblFind_map]
  cases tblFind t n with
  | none => rfl
  | some v => exact hf n v

/-- A resident context is listed (R19). -/
theorem mem_contexts {s : State} {n x : Nat} {t : Task} (h : ((s.core n).ctx x).task = some t) : ⟨n, x, .c⟩ ∈ s.contexts := by
  unfold State.core tblGet at h
  cases hn : tblFind s.cores n with
  | none => rw [hn] at h; cases h
  | some c =>
    rw [hn] at h
    unfold Core.ctx tblGet at h
    cases hx : tblFind c.ctxs x with
    | none => simp only [Option.getD_some, hx] at h; cases h
    | some v =>
      simp only [Option.getD_some, hx] at h
      exact List.mem_flatMap.2 ⟨(n, c), tblFind_mem hn, List.mem_filterMap.2 ⟨(x, v), tblFind_mem hx, by simp [h]⟩⟩

/-- The state in which the clusters of a context have stopped under the halt line (R368). -/
theorem haltCtx_eq (s : State) (k : Who) :
    s.haltCtx k = (k.clusters.foldl State.haltCluster s).modCtx k fun x => { x with frozen := false, dumped := false } := rfl

theorem haltCtx_clu (s : State) (k j : Who) : (s.haltCtx k).clu j = (k.clusters.foldl State.haltCluster s).clu j := by
  rw [haltCtx_eq, clu_modCtx _ _ _ (fun x => { x with frozen := false, dumped := false }) fun _ => rfl]

theorem haltCtxs_stops (l : List Who) : ∀ (s : State) (j : Who), (s.clu j).run = .stopped ∨ (∃ k ∈ l, j ∈ k.clusters) →
    ((l.foldl State.haltCtx s).clu j).run = .stopped := by
  induction l with
  | nil => exact fun s j h => h.resolve_right fun ⟨_, hk, _⟩ => List.not_mem_nil hk
  | cons k l ih =>
    intro s j h
    rw [List.foldl_cons]
    refine ih _ j ?_
    rw [haltCtx_clu]
    obtain h | ⟨i, hi, hj⟩ := h
    · exact .inl (by rw [haltClusters_keeps _ _ _ h]; exact h)
    · obtain rfl | hi := List.mem_cons.1 hi
      · exact .inl (haltClusters_stops _ _ _ hj)
      · exact .inr ⟨i, hi, hj⟩

theorem checkHalted_clu_run (s : State) (p : Nat) (j : Who) : ((s.checkHalted p).clu j).run = (s.clu j).run :=
  checkHalted_fld (fun s => (State.clu s j).run) (fun s k _ => cluFld_modClu (·.run) s j k _ fun _ => rfl)
    (fun _ _ _ _ _ => rfl) s p

theorem haltVigil_clu (s : State) (p d : Nat) (j : Who) : (s.haltVigil p d).clu j = s.clu j := rfl

theorem haltVigil_halt (s : State) (p d e : Nat) : ((s.haltVigil p d).die e).halt = (s.die e).halt := by
  unfold State.haltVigil
  refine dieFld_modDie Die.halt _ d e _ ?_
  intro x
  dsimp only
  split <;> rfl

/-- The state in which the contexts of a partition on a die have stopped (R368). -/
def State.haltedCtxs (s : State) (p d : Nat) : State :=
  let t := s.modDie d fun x => { x with halt := p :: x.halt.filter (· ≠ p) }
  ((t.ctxsOf p).filter fun k => dieOf k.core = d).foldl State.haltCtx t

theorem haltDie_eq (s : State) (p d : Nat) : s.haltDie p d =
    (({ s.haltedCtxs p d with cores := (s.haltedCtxs p d).cores.map fun e =>
      (e.1, if dieOf e.1 = d then { e.2 with engHalt := true } else e.2) } : State).haltVigil p d).checkHalted p := rfl

/-- The halt line changes the cluster that it stops, and makes no trace record (R361, R368). -/
theorem haltCluster_cluFld {α : Type} (g : State → α) (hc : ∀ s k f, g (State.modClu s k f) = g s) (s : State) (k : Who) :
    g (s.haltCluster k) = g s := by
  unfold State.haltCluster
  split
  · exact hc s k _
  · unfold State.stopCluster
    dsimp only
    split
    · rfl
    · exact (congrArg g (if_pos rfl)).trans (hc s k _)

theorem haltCtx_dies (s : State) (k : Who) : (s.haltCtx k).dies = s.dies := by
  rw [haltCtx_eq, modCtx_dies]
  exact foldl_fld State.dies State.haltCluster (haltCluster_cluFld State.dies fun _ _ _ => rfl) k.clusters s

/-- A die that sees the halt line of a partition stops every cluster of it (R368). -/
theorem haltDie_stops (s : State) (p d : Nat) :
    p ∈ ((s.haltDie p d).die d).halt ∧
      ∀ k task, (s.ctxOf k).task = some task → task.part = p → dieOf k.core = d → ((s.haltDie p d).clu k).run = .stopped := by
  rw [haltDie_eq]
  refine ⟨?_, fun k task hk hp hd => ?_⟩
  · rw [checkHalted_fld (fun s => (State.die s d).halt) (fun _ _ _ => rfl) (fun _ _ _ _ _ => rfl), haltVigil_halt]
    show p ∈ (State.die (State.haltedCtxs s p d) d).halt
    unfold State.haltedCtxs
    dsimp only
    have e : (State.dies (List.foldl State.haltCtx (s.modDie d fun x => { x with halt := p :: x.halt.filter (· ≠ p) })
        ((State.ctxsOf (s.modDie d fun x => { x with halt := p :: x.halt.filter (· ≠ p) }) p).filter
          fun k => dieOf k.core = d))) = _ := foldl_fld State.dies State.haltCtx haltCtx_dies _ _
    unfold State.die
    rw [e]
    show p ∈ (State.die (s.modDie d fun x => { x with halt := p :: x.halt.filter (· ≠ p) }) d).halt
    rw [die_modDie, if_pos rfl]
    exact List.mem_cons_self
  · rw [checkHalted_clu_run, haltVigil_clu]
    have e : (State.clu { s.haltedCtxs p d with cores := (s.haltedCtxs p d).cores.map fun e =>
        (e.1, if dieOf e.1 = d then { e.2 with engHalt := true } else e.2) } k) = (s.haltedCtxs p d).clu k := by
      refine tblGet_map_fld (fun c => (c.ctx k.ctx).clu k.clu) (fun n c => if dieOf n = d then { c with engHalt := true } else c)
        (fun n c => ?_) Core.reset _ k.core
      split <;> rfl
    rw [e]
    refine haltCtxs_stops _ _ k (.inr ⟨⟨k.core, k.ctx, .c⟩, List.mem_filter.2 ⟨List.mem_filter.2 ⟨mem_contexts hk, ?_⟩, ?_⟩, ?_⟩)
    · have ht : (s.taskOf ⟨k.core, k.ctx, .c⟩).part = p := by
        unfold State.taskOf
        rw [show (s.ctxOf ⟨k.core, k.ctx, .c⟩).task = some task from hk]
        exact hp
      exact decide_eq_true ht
    · simpa using hd
    · cases k with | mk n x u => cases u <;> simp [Who.clusters]

/-! Engines stop, and a context is removed (R369, R370, R373). -/

theorem stopMatrix_none {s : State} {n : Nat} {r : MxRun} (hr : (s.core n).mxRun = some r)
    (hs : ∀ u, (s.clu ⟨n, r.cmd.ctx, u⟩).run = .stopped) : ((s.stopMatrix n).core n).mxRun = none := by
  unfold State.stopMatrix
  rw [hr]
  dsimp only
  rw [if_pos (by simp [cluList, hs]), core_modCore, if_pos rfl]

theorem keepAccs_fld {α : Type} (g : State → α) (ha : ∀ s a kn, g { s with accs := a, known := kn } = g s) (s : State)
    (f : Nat × Acc → Bool) : g (s.keepAccs f) = g s := by
  unfold State.keepAccs
  dsimp only
  split
  · rfl
  · exact ha _ _ _

theorem checkHalted_coreFld {α : Type} (g : Core → α) (hg : ∀ c n f, g (Core.modCtx c n f) = g c) (s : State) (p n : Nat) :
    g ((s.checkHalted p).core n) = g (s.core n) :=
  checkHalted_fld (fun s => g (State.core s n)) (fun s k _ => coreFld_modCtx g hg s k _ n) (fun _ _ _ _ _ => rfl) s p

/-- Tracker entries that end leave the copies that run (R369). -/
theorem stopTracker_cpRun (s : State) (n : Nat) : ((s.stopTracker n).core n).cpRun = (s.core n).cpRun := by
  unfold State.stopTracker
  dsimp only
  split
  · rfl
  · rw [foldl_fld (fun s => (State.core s n).cpRun) (fun s (t : Tracker) => s.checkHalted t.task.part) fun s t =>
      checkHalted_coreFld Core.cpRun (fun _ _ _ => rfl) s _ n]
    refine (coreFld_modCore Core.cpRun _ n n _ ?_).trans ?_
    · intro c
      rfl
    · rw [foldl_fld (fun s => (State.core s n).cpRun)
        (fun s (t : Tracker) => s.modDep t.task.part t.task.tid fun e => { e with st := .leaving }) fun _ _ => rfl]
      exact keepAccs_fld (fun s => (State.core s n).cpRun) (fun _ _ _ => rfl) _ _

theorem stopEngine_coreFld {α : Type} (g : Core → α) (hg : ∀ c st, g { c with engStop := st } = g c) (s : State)
    (n unit kind : Nat) (tid addr : Word) (a b c m : Nat) :
    g ((s.stopEngine n unit kind tid addr a b c).core m) = g (s.core m) :=
  stopEngine_fld (fun s => g (State.core s m)) (fun s n _ => coreFld_modCore g s n m _ fun c => hg c _) s n unit kind tid addr a b c

/-- The copy engine gives up the one command that it runs (R369). -/
theorem stopCopy_none {s : State} {n id : Nat} {r : CpRun} (hr : (s.core n).cpRun = [(id, r)])
    (hs : s.cmdStops n r.cmd = true) : (((s.stopCopy n).stopTracker n).core n).cpRun = [] := by
  rw [stopTracker_cpRun]
  have hl : (s.core n).cpRun.filter (fun e => s.cmdStops n e.2.cmd) = [(id, r)] := by simp [hr, hs]
  unfold State.stopCopy
  dsimp only
  rw [hl]
  dsimp only
  rw [core_modCore, if_pos rfl, stopEngine_coreFld Core.cpRun fun _ _ => rfl, hr]
  simp

theorem colDrop_coreFld {α : Type} (g : Core → α) (hg : ∀ c l, g { c with coRun := l } = g c) (s : State) (n : Nat) (r : CoRun)
    (m : Nat) : g ((s.colDrop n r).core m) = g (s.core m) := by
  unfold State.colDrop
  dsimp only
  split
  · exact coreFld_modCore g s n m _ fun c => hg c _
  · exact coreFld_modCore g s n m _ fun c => hg c _

/-- The remote engine gives up the one command that it runs (R369). -/
theorem stopRemote_none {s : State} {n : Nat} {r : RmRun} (hr : (s.core n).rmRun = [r])
    (hs : s.cmdStops n r.cmd = true) : ((s.stopRemote n).core n).rmRun = [] := by
  unfold State.stopRemote
  dsimp only
  rw [core_modCore, if_pos rfl]
  dsimp only
  rw [foldl_fld (fun s => (State.core s n).rmRun) (fun s r => State.colDrop s n r) fun s r => colDrop_coreFld Core.rmRun (fun _ _ => rfl) s n r n]
  have e : ∀ t : State, (t.core n).rmRun = (s.core n).rmRun → (t.core n).rmRun.filter (fun r => !s.cmdStops n r.cmd) = [] := by
    intro t ht
    simp [ht, hr, hs]
  refine e _ ?_
  split
  · rfl
  · exact stopEngine_coreFld Core.rmRun (fun _ _ => rfl) ..

theorem autoSlots_coreFld {α : Type} (g : Core → α) (hg : ∀ c l, g { c with slotNext := l } = g c) (s : State) (n m : Nat) :
    g ((s.autoSlots n).core m) = g (s.core m) := by
  refine coreFld_modCore g s n m _ fun c => ?_
  split
  · rfl
  · exact hg c _

/-- A context that leaves holds no task (R120). -/
theorem freeCtx_task (s : State) (n x : Nat) : (((s.freeCtx ⟨n, x, .c⟩).core n).ctx x).task = none := by
  unfold State.freeCtx
  dsimp only
  rw [autoSlots_coreFld (fun c => (c.ctx x).task) fun _ _ => rfl, core_modCore, if_pos rfl]
  unfold Core.ctx
  dsimp only
  rw [tblGet_tblPut, if_pos rfl]
  rfl

/-- The matrix commands stay in their queue when a context leaves (R120). -/
theorem freeCtx_mxq (s : State) (k : Who) (n : Nat) : ((s.freeCtx k).core n).mxq = (s.core n).mxq := by
  unfold State.freeCtx
  dsimp only
  rw [autoSlots_coreFld Core.mxq fun _ _ => rfl]
  refine (coreFld_modCore Core.mxq _ k.core n _ fun c => ?_).trans ?_
  · rfl
  · refine (tblGet_map_fld Core.mxq (fun n c => { c with locks := c.locks.filter fun e => e.2 ≠ (k.core, k.ctx) })
      (fun n c => ?_) Core.reset _ n).trans ?_
    · rfl
    · exact congrArg (fun t => Core.mxq (tblGet Core.reset t n)) (forget_fld State.cores (fun _ _ => rfl) s _)

/-- The state in which the commands of a context that is removed are flushed, its barriers left and its rows closed
(R373). -/
def State.unloaded (s : State) (n x : Nat) : State :=
  ((((((s.landAll ⟨n, x, .c⟩).flushCmds ⟨n, x, .c⟩).withdraw ⟨n, x, .c⟩).closeRows n).answerSave n x 4).freeCtx ⟨n, x, .c⟩)

theorem answerSave_mxq (s : State) (n x : Nat) (d : Word) (m : Nat) : ((s.answerSave n x d).core m).mxq = (s.core m).mxq := by
  unfold State.answerSave
  split
  · rfl
  · exact coreFld_modCtx Core.mxq (fun _ _ _ => rfl) s _ _ m

theorem flushCmds_mxq (s : State) (n x : Nat) : ∀ m ∈ ((s.flushCmds ⟨n, x, .c⟩).core n).mxq, m.ctx ≠ x := by
  intro m hm
  unfold State.flushCmds at hm
  dsimp only at hm
  rw [core_modCore, if_pos rfl] at hm
  exact of_decide_eq_true (List.mem_filter.1 hm).2

theorem withdraw_core (s : State) (k : Who) (n : Nat) : (s.withdraw k).core n = s.core n := rfl

theorem unloaded_spec (s : State) (n x : Nat) : (((s.unloaded n x).core n).ctx x).task = none ∧
    ∀ m ∈ ((s.unloaded n x).core n).mxq, m.ctx ≠ x := by
  unfold State.unloaded
  refine ⟨freeCtx_task _ n x, fun m hm => ?_⟩
  rw [freeCtx_mxq, answerSave_mxq, closeRows_fld (fun s => (State.core s n).mxq) (fun _ _ => rfl)
    (fun s m => coreFld_modCore Core.mxq s m n _ fun _ => rfl), withdraw_core] at hm
  exact flushCmds_mxq _ n x m hm

theorem settle_cores (s : State) (p : Nat) (tid : Word) : (s.settle p tid).cores = s.cores := by
  unfold State.settle
  split
  · rfl
  · split <;> rfl

/-- What becomes of the task whose context has been removed (R373, R378): under the halt line it is leaving, otherwise
its instance is discarded. -/
def State.afterRemoval (u : State) (t : Task) (halted : Bool) : State :=
  if halted then (u.modDep t.part t.tid fun e => { e with st := .leaving }).checkHalted t.part
  else match u.dep? t.part t.tid with
    | none => u
    | some e => State.settle (match e.insts.find? fun i => i.no = t.inst with
        | some i => u.discard e i
        | none => u) t.part t.tid

theorem exec_contextRemoval_eq {s : State} {n x : Nat} (hr : s.removable ⟨n, x, .c⟩ = true) :
    exec (.contextRemoval n x) s = .next ((s.unloaded n x).afterRemoval (s.taskOf ⟨n, x, .c⟩)
      ((s.die (dieOf n)).halt.contains (s.taskOf ⟨n, x, .c⟩).part)) := by
  refine (if_neg (by simp [hr])).trans ?_
  unfold State.afterRemoval State.unloaded
  generalize ((((((s.landAll ⟨n, x, .c⟩).flushCmds ⟨n, x, .c⟩).withdraw ⟨n, x, .c⟩).closeRows n).answerSave n x 4).freeCtx ⟨n, x, .c⟩) = u
  generalize (s.die (dieOf n)).halt.contains (s.taskOf ⟨n, x, .c⟩).part = h
  cases h with
  | true => rfl
  | false =>
    refine (if_neg Bool.false_ne_true).trans ?_
    cases u.dep? (s.taskOf ⟨n, x, .c⟩).part (s.taskOf ⟨n, x, .c⟩).tid with
    | none => rfl
    | some e => rfl

theorem afterRemoval_ctxTask (u : State) (t : Task) (h : Bool) (n x : Nat) :
    (((u.afterRemoval t h).core n).ctx x).task = ((u.core n).ctx x).task := by
  unfold State.afterRemoval
  split
  · exact checkHalted_fld (fun s => ((State.core s n).ctx x).task)
      (fun s k f => ctxFld_modCtx Ctx.task s ⟨n, x, .c⟩ k _ fun _ => rfl) (fun _ _ _ _ _ => rfl) _ _
  · split
    · rfl
    · unfold State.core
      rw [settle_cores]
      split <;> rfl

theorem afterRemoval_mxq (u : State) (t : Task) (h : Bool) (n : Nat) :
    ((u.afterRemoval t h).core n).mxq = (u.core n).mxq := by
  unfold State.afterRemoval
  split
  · exact checkHalted_coreFld Core.mxq (fun _ _ _ => rfl) _ _ _
  · split
    · rfl
    · unfold State.core
      rw [settle_cores]
      split <;> rfl

/-- A stopped context is removed (R373). -/
theorem exec_contextRemoval {s : State} {n x : Nat} (hr : s.removable ⟨n, x, .c⟩ = true) :
    ∃ t, exec (.contextRemoval n x) s = .next t ∧ ((t.core n).ctx x).task = none ∧ ∀ m ∈ (t.core n).mxq, m.ctx ≠ x := by
  refine ⟨_, exec_contextRemoval_eq hr, ?_⟩
  rw [afterRemoval_ctxTask, afterRemoval_mxq]
  exact unloaded_spec s n x

/-- Settles O45. -/
theorem haltsStopAPartition : Obligations.HaltsStopAPartition := by
  intro s p d n x
  refine ⟨fun e i he hi hn hx hexp hruns => ?_, fun code di co cx un hf => exec_hubSees hf, fun hf => ?_,
    fun hl hd hh hs => ?_, fun r hr hs => ⟨_, rfl, stopMatrix_none hr hs⟩, fun id r hr hs => ⟨_, rfl, stopCopy_none hr hs⟩,
    fun r hr hs => ⟨_, rfl, stopRemote_none hr hs⟩, fun hr => ?_⟩
  · subst hn hx
    have hx : s.expire e i = s.faultTask ⟨i.core, i.ctx, .c⟩ { code := 0x10 } :=
      (if_pos hruns).trans (if_pos hruns)
    refine (congrArg Host.Outcome.next ?_ : _)
    rw [he, List.foldl_cons, List.foldl_nil, hi, List.foldl_cons, List.foldl_nil]
    exact (if_pos (by simp [hexp])).trans hx
  · exact if_neg (by rw [hf]; decide)
  · refine ⟨s.haltDie p d, ?_, haltDie_stops s p d⟩
    unfold exec execHaltLineArrival
    simp [hl, hd, hh, hs]
  · exact exec_contextRemoval hr

end Sys2Proof.Machine
end

section
/-! SUPPORT. The device starts in stages (R402 to R405). -/

namespace Sys2Proof.Machine

theorem tblFind_cons {α : Type} (k' : Nat) (v : α) (r : Tbl α) (k : Nat) :
    tblFind ((k', v) :: r) k = if k = k' then some v else tblFind r k := rfl

theorem tblFind_filter {α : Type} (p : Nat → Bool) (t : Tbl α) (k : Nat) :
    tblFind (t.filter fun e => p e.1) k = if p k then tblFind t k else none := by
  induction t with
  | nil => simp [tblFind]
  | cons e r ih =>
    obtain ⟨k', v⟩ := e
    rw [List.filter_cons, tblFind_cons]
    dsimp only
    by_cases hk : k = k'
    · subst hk
      by_cases hp : p k = true
      · rw [if_pos hp, tblFind_cons, if_pos rfl, if_pos rfl, if_pos hp]
      · rw [if_neg hp, ih, if_neg hp, if_neg hp]
    · rw [if_neg hk, ← ih]
      split
      · rw [tblFind_cons, if_neg hk]
      · rfl

theorem tblFind_append {α : Type} (t u : Tbl α) (k : Nat) : tblFind (t ++ u) k = (tblFind t k).orElse fun _ => tblFind u k := by
  induction t with
  | nil => rfl
  | cons e r ih =>
    obtain ⟨k', v⟩ := e
    rw [List.cons_append, tblFind_cons, tblFind_cons, ih]
    split <;> rfl

theorem tblFind_map_add {α : Type} (t : Tbl α) (n k : Nat) : tblFind (t.map fun e => (e.1 + n, e.2)) (k + n) = tblFind t k := by
  induction t with
  | nil => rfl
  | cons e r ih =>
    obtain ⟨k', v⟩ := e
    rw [List.map_cons, tblFind_cons, tblFind_cons, ih]
    exact ite_congr (propext (by simp)) (fun _ => rfl) fun _ => rfl

theorem zeroRange_read (s : State) (a len b : Nat) :
    (s.zeroRange a len).mem.read b = if a ≤ b ∧ b < a + len then 0 else s.mem.read b := by
  show (tblFind (s.mem.filter fun e => decide (e.1 < a) || decide (a + len ≤ e.1)) b).getD unlistedByte = _
  rw [tblFind_filter fun x => decide (x < a) || decide (a + len ≤ x)]
  by_cases h : a ≤ b ∧ b < a + len
  · have hf : ¬(decide (b < a) || decide (a + len ≤ b)) = true := by simp; omega
    rw [if_neg hf, if_pos h]
    rfl
  · have hf : (decide (b < a) || decide (a + len ≤ b)) = true := by simp; omega
    rw [if_pos hf, if_neg h]
    rfl

/-- The erasure tables take no byte of memory (R345). -/
theorem seed_mem (l : List (Nat × Nat × Nat × BitVec 8)) (s : State) :
    (l.foldl (fun s e => s.manageOr (.erasure e.1 e.2.1 e.2.2.1 e.2.2.2)) s).mem = s.mem := by
  refine foldl_fld State.mem (fun s (e : Nat × Nat × Nat × BitVec 8) => s.manageOr (.erasure e.1 e.2.1 e.2.2.1 e.2.2.2)) ?_ l s
  intro s e
  unfold State.manageOr State.manage
  dsimp only
  split <;> rfl

/-- Stage 2 leaves the rest of HBM and the shared array zero (R404). -/
theorem exec_stage2 {s : State} (h : s.stage = 2) :
    ∃ t, exec .stage2 s = .next t ∧ t.stage = 3 ∧
      ∀ a, (s.devId * 2 ^ 53 + 2 ^ 32 ≤ a ∧ a < s.devId * 2 ^ 53 + 2 ^ 40) ∨
        (s.devId * 2 ^ 53 + 2 ^ 50 ≤ a ∧ a < s.devId * 2 ^ 53 + 2 ^ 50 + 2 ^ 31) → t.mem.read a = 0 := by
  refine ⟨_, if_neg (by simp [h]), ?_, fun a ha => ?_⟩
  · exact manageInt_fld State.stage (fun _ _ => rfl) (fun _ _ => rfl) (fun _ _ => rfl) _ _
  · rw [manageInt_fld State.mem (fun _ _ => rfl) (fun _ _ => rfl) (fun _ _ => rfl)]
    dsimp only
    rw [seed_mem, zeroRange_read, zeroRange_read]
    split
    · rfl
    · next h2 => exact if_pos (by omega)

theorem renumber_read {s : State} {dev a : Nat} (h : s.devId = 0) (hd : dev < 1024) (ha : a < 2 ^ 53) :
    (s.renumber dev).mem.read (dev * 2 ^ 53 + a) = s.mem.read a := by
  unfold State.renumber Mem.read tblGet
  simp only [h, Nat.zero_mul, Nat.zero_add, Nat.sub_zero, Nat.zero_le, decide_true, Bool.true_and]
  rw [tblFind_append, Nat.add_comm (dev * 2 ^ 53) a, tblFind_map_add, tblFind_filter (fun x => decide (x < 2 ^ 53)),
    tblFind_filter (fun x => decide (2 ^ 64 ≤ x)), if_pos (by simpa using ha), if_neg (by simp; omega)]
  cases tblFind s.mem a <;> rfl

/-- Stage 1 takes over the configuration record (R403). -/
theorem exec_stage1 {s : State} {g b : Bool} {r : ConfigRecord} {dth cth : Nat} (h : s.stage = 1)
    (hv : (if s.bootMbx then s.fwLoaded else g) = true) (hr : s.record? = some (r, b)) (hm : s.mapWaits r = false) :
    exec (.stage1 ⟨g, dth, cth⟩) s =
      .next (State.manageInt { s with spare := r.spares.foldl (fun (m : Tbl Nat) (e : Nat × Nat) => tblPut m e.1 e.2) s.spare, retired := r.retired, seeds := r.erasures, trims := r.trims, flashUse := b, dth := dth % 65536, cth := cth % 65536, stage := 2 } (.stage 1)) := by
  refine (if_neg (by simp [h, hv])).trans ?_
  rw [hr]
  exact if_neg (by simp [hm])

theorem record?_none {s : State} (ha : s.flashA.valid = false) (hb : s.flashB.valid = false) : s.record? = none := by
  unfold State.record?
  rw [if_neg (by simp [hb]), if_neg (by simp [ha])]

theorem exec_stage1_none {s : State} (fw : FirmwareStart) (hr : s.record? = none) : exec (.stage1 fw) s = .next s := by
  show execStage1 fw s = _
  unfold execStage1
  rw [hr]
  exact ite_self _

theorem foldl_modTq_part (l : List Nat) : ∀ (s : State) (q : Nat), q ∈ l ∨ (s.tq q).part = some 0 →
    ((l.foldl (fun s q => s.modTq q fun t => { t with part := some 0, base := bootRings + 262144 * q }) s).tq q).part = some 0 := by
  induction l with
  | nil => exact fun s q h => h.resolve_left (by simp)
  | cons k l ih =>
    intro s q h
    rw [List.foldl_cons]
    refine ih _ q ?_
    rw [tq_modTq]
    by_cases hq : q = k
    · rw [if_pos hq]
      exact .inr rfl
    · rw [if_neg hq]
      exact h.imp_left fun h => (List.mem_cons.1 h).resolve_left hq

/-- The partition 0 that the boot ROM defines (R405). -/
def Part.booted (x : Part) : Part :=
  { x with dies := [0], root := bootRoot, rootn := 1, ktab := bootKtab, ranges := [(bootPool, 2 ^ 30)],
           free := (blocksOf 64 bootPool (2 ^ 30)).map (fun e => (e.1, e.2, 0)), stopBase := bootStop }

/-- The state in which the boot ROM has zeroed the boot region and defined partition 0 and its launch queue. -/
def State.booted (s : State) : State :=
  (((s.zeroRange 0 (2 ^ 32)).bootTables).modPart 0 Part.booted).modLq 0 0 fun l =>
    { l with base := bootLq, sz := 4096, cbase := bootCr, cs := 256 }

theorem booted_dies (s : State) : (s.booted.part 0).dies = [0] := by
  unfold State.booted State.modLq
  rw [part_modPart, if_pos rfl, part_modPart, if_pos rfl]
  rfl

/-- The state in which partition 0 has the task queues (R405). -/
def State.queued (s : State) : State :=
  (List.range 64).foldl (fun s q => s.modTq q fun t => { t with part := some 0, base := bootRings + 262144 * q }) s

theorem queued_parts (s : State) : s.queued.parts = s.parts := by
  unfold State.queued
  generalize List.range 64 = l
  exact foldl_fld State.parts
    (fun s q => s.modTq q fun t => { t with part := some 0, base := bootRings + 262144 * q }) (fun _ _ => rfl) _ _

theorem queued_part (s : State) (p : Nat) : s.queued.part p = s.part p := congrArg (tblGet Part.reset · p) (queued_parts s)

theorem queued_tq (s : State) (q : Nat) (hq : q < 64) : (s.queued.tq q).part = some 0 := by
  unfold State.queued
  exact foldl_modTq_part _ s q (.inl (List.mem_range.2 hq))

theorem atStage_part (s : State) (n p : Nat) : State.part { s with stage := n } p = s.part p := rfl
theorem atStage_tq (s : State) (n q : Nat) : State.tq { s with stage := n } q = s.tq q := rfl

theorem exec_stage0_eq {s : State} (h : s.stage = 0) (he : s.strapErr = false) :
    exec .stage0 s = .next (State.manageInt { s.booted.queued with stage := 1 } (.stage 0)) :=
  if_neg (by simp [h, he])

/-- Stage 0 gives partition 0 die 0 and the task queues (R405). -/
theorem exec_stage0 {s : State} (h : s.stage = 0) (he : s.strapErr = false) :
    ∃ t, exec .stage0 s = .next t ∧ t.stage = 1 ∧ (t.part 0).dies = [0] ∧ ∀ q, q < 64 → (t.tq q).part = some 0 := by
  refine ⟨_, exec_stage0_eq h he, ?_, ?_, fun q hq => ?_⟩
  · exact manageInt_fld State.stage (fun _ _ => rfl) (fun _ _ => rfl) (fun _ _ => rfl) _ _
  · rw [manageInt_part, atStage_part, queued_part]
    exact booted_dies s
  · rw [manageInt_fld (fun s => State.tq s q) (fun _ _ => rfl) (fun _ _ => rfl) (fun _ _ => rfl),
      atStage_tq]
    exact queued_tq _ q hq

theorem record?_newer {s : State} (ha : s.flashA.valid = true) (hb : s.flashB.valid = true) :
    (s.flashA.count < s.flashB.count → s.record? = some (s.flashB, true)) ∧
      (s.flashB.count < s.flashA.count → s.record? = some (s.flashA, false)) := by
  unfold State.record?
  refine ⟨fun h => if_pos (by simp [hb, h]), fun h => (if_neg ?_).trans (if_pos ha)⟩
  simpa [ha, hb] using BitVec.le_of_lt h

theorem exec_stage3 {s : State} {dev : Nat} (h : s.stage = 3) (hd : dev < 1024) : exec (.stage3 dev true) s =
    .next (State.manageInt { s.renumber dev with stage := 4, fabric := true, nseq := [], windows := [] } (.stage 3)) := by
  show execStage3 dev true s = _
  unfold execStage3
  rw [if_neg]
  rw [h]
  simpa using hd

/-- Settles O48. -/
theorem theDeviceStartsInStages : Obligations.TheDeviceStartsInStages := by
  intro s f b g r dev dth cth
  refine ⟨fun h3 hf => ?_, fun hf => ⟨_, if_pos (by simpa using hf), ?_, ?_⟩, exec_stage0, fun h hv hr hm => ?_, fun h hn => ?_,
    record?_newer, exec_stage2, fun h hd => ⟨if_pos (by simp), ?_⟩⟩
  · exact (if_neg (by simpa [hf] using h3)).trans (by rw [hf])
  · exact manageInt_fld State.strapErr (fun _ _ => rfl) (fun _ _ => rfl) (fun _ _ => rfl) _ _
  · exact manageInt_fld State.stage (fun _ _ => rfl) (fun _ _ => rfl) (fun _ _ => rfl) _ _
  · refine ⟨_, exec_stage1 h hv hr hm, ?_, ?_, ?_, ?_, ?_, ?_, ?_, fun k v hs => ?_⟩
    · exact manageInt_fld State.stage (fun _ _ => rfl) (fun _ _ => rfl) (fun _ _ => rfl) _ _
    · exact manageInt_fld State.seeds (fun _ _ => rfl) (fun _ _ => rfl) (fun _ _ => rfl) _ _
    · exact manageInt_fld State.retired (fun _ _ => rfl) (fun _ _ => rfl) (fun _ _ => rfl) _ _
    · exact manageInt_fld State.trims (fun _ _ => rfl) (fun _ _ => rfl) (fun _ _ => rfl) _ _
    · exact manageInt_fld State.flashUse (fun _ _ => rfl) (fun _ _ => rfl) (fun _ _ => rfl) _ _
    · exact manageInt_fld State.dth (fun _ _ => rfl) (fun _ _ => rfl) (fun _ _ => rfl) _ _
    · exact manageInt_fld State.cth (fun _ _ => rfl) (fun _ _ => rfl) (fun _ _ => rfl) _ _
    · rw [manageInt_fld State.spare (fun _ _ => rfl) (fun _ _ => rfl) (fun _ _ => rfl), hs]
      exact (tblFind_tblPut ..).trans (if_pos rfl)
  · obtain hv | ⟨ha, hb⟩ := hn
    · exact if_pos (by simp [hv])
    · exact exec_stage1_none ⟨g, dth, cth⟩ (record?_none ha hb)
  · refine ⟨_, exec_stage3 h hd, ?_, ?_, ?_, ?_, ?_, fun h0 a ha => ?_⟩
    · exact manageInt_fld State.stage (fun _ _ => rfl) (fun _ _ => rfl) (fun _ _ => rfl) _ _
    · exact manageInt_fld State.devId (fun _ _ => rfl) (fun _ _ => rfl) (fun _ _ => rfl) _ _
    · exact manageInt_fld State.fabric (fun _ _ => rfl) (fun _ _ => rfl) (fun _ _ => rfl) _ _
    · exact manageInt_fld State.nseq (fun _ _ => rfl) (fun _ _ => rfl) (fun _ _ => rfl) _ _
    · exact manageInt_fld State.windows (fun _ _ => rfl) (fun _ _ => rfl) (fun _ _ => rfl) _ _
    · rw [manageInt_fld State.mem (fun _ _ => rfl) (fun _ _ => rfl) (fun _ _ => rfl)]
      dsimp only
      exact renumber_read h0 hd ha

end Sys2Proof.Machine
end

section
/-! SUPPORT. What an access to the device's memory leaves as it was, and the upkeep of the memories (R209 to R215). -/

namespace Sys2Proof.Machine

/-- A part of the state that no access to the device's memory, HBM, shared array or EXT, changes. -/
structure MemBlind {α : Type} (g : State → α) : Prop where
  all : ∀ (s : State) m e p r y a n l, g { s with
    mem := m, hbmErr := e, hbmPois := p, rewrite := r, shaSyn := y, acts := a, free := n, errEvts := l } = g s

namespace MemBlind

variable {α : Type} {g : State → α} (b : MemBlind g)
include b

theorem mem (s : State) (m : Mem) : g { s with mem := m } = g s := b.all s ..
theorem hbmErr (s : State) (e) : g { s with hbmErr := e } = g s := b.all s ..
theorem hbmPois (s : State) (l) : g { s with hbmPois := l } = g s := b.all s ..
theorem errEvts (s : State) (l) : g { s with errEvts := l } = g s := b.all s ..
theorem free (s : State) (n : Nat) : g { s with free := n } = g s := b.all s ..
theorem rewrite (s : State) (l) : g { s with rewrite := l } = g s := b.all s ..
theorem memSyn (s : State) (m : Mem) (y) : g { s with mem := m, shaSyn := y } = g s := b.all s ..

theorem hbmEvent (s : State) (sa kind tag detail : Nat) : g (s.hbmEvent sa kind tag detail) = g s := b.errEvts s _

theorem activate (s : State) (sa : Nat) : g (s.activate sa) = g s := by
  unfold State.activate
  split
  · rfl
  · exact b.all s ..

theorem spoilLine (s : State) (sa : Nat) : g (s.spoilLine sa) = g s := b.all s ..

theorem shaEvents (s : State) (kind tag : Nat) (evs : List (Nat × BitVec 7 × Bool)) : g (s.shaEvents kind tag evs) = g s :=
  foldl_fld g _ (fun s _ => b.errEvts s _) evs s

theorem hbmRead (s : State) (sa tag : Nat) : g (s.hbmRead sa tag).1 = g s := by
  unfold State.hbmRead
  dsimp only
  split
  · exact b.activate s sa
  · exact (b.rewrite _ _).trans ((b.hbmEvent _ _ _ _ _).trans (b.activate s sa))
  · exact (b.spoilLine _ _).trans ((b.hbmEvent _ _ _ _ _).trans (b.activate s sa))

theorem hbmWrite (s : State) (sa mask data pois tag : Nat) : g (s.hbmWrite sa mask data pois tag) = g s := by
  unfold State.hbmWrite
  dsimp only
  have pos : ∀ t : State, g t = g s → g (if pois = 0 then t else { t with hbmPois := sa :: t.hbmPois.filter (· ≠ sa) }) = g s := by
    intro t ht
    split
    · exact ht
    · exact (b.hbmPois t _).trans ht
  refine pos _ ?_
  have h0 := b.activate s sa
  split
  · exact (b.all (s.activate sa) ..).trans h0
  · split
    · exact (b.mem _ _).trans h0
    · exact (b.all (s.activate sa) ..).trans h0
    · exact (b.mem _ _).trans ((b.spoilLine _ _).trans ((b.hbmEvent _ _ _ _ _).trans h0))

theorem sysRead (s : State) (sa tag : Nat) : g (s.sysRead sa tag).1 = g s := by
  unfold State.sysRead
  dsimp only
  split
  · exact b.hbmRead s _ _
  · split
    · split
      · rfl
      · generalize eccRead 16 s.mem s.shaSyn (sa / 64 * 64) = r
        exact (b.shaEvents _ _ _ _).trans (b.memSyn s _ _)
    · split
      · exact b.all s ..
      · exact b.free s _

theorem sysWrite (s : State) (sa mask data pois tag : Nat) : g (s.sysWrite sa mask data pois tag) = g s := by
  unfold State.sysWrite
  dsimp only
  split
  · exact b.hbmWrite s _ _ _ _ _
  · split
    · exact (b.shaEvents _ _ _ _).trans (b.memSyn s _ _)
    · split
      · exact b.all s ..
      · exact b.all s ..

theorem sysReadN (s : State) (sa n tag : Nat) : g (s.sysReadN sa n tag).1 = g s := b.sysRead s sa tag
theorem sysWriteN (s : State) (sa n v tag : Nat) : g (s.sysWriteN sa n v tag) = g s := b.sysWrite s _ _ _ _ _
theorem shaWords (s : State) (sa n tag : Nat) : g (s.shaWords sa n tag).1 = g s :=
  (b.shaEvents _ _ _ _).trans (b.memSyn s _ _)

end MemBlind

theorem memBlind_dies : MemBlind State.dies := ⟨fun _ _ _ _ _ _ _ _ _ => rfl⟩

/-! Numbers in memory (R3). -/

theorem Mem.readN_lt (m : Mem) (n : Nat) : ∀ a, m.readN a n < 256 ^ n := by
  induction n with
  | zero => intro a; exact Nat.one_pos
  | succ n ih =>
    intro a
    have h1 := (m.read a).isLt
    have h2 := ih (a + 1)
    rw [Mem.readN, Nat.pow_succ]
    omega

theorem Mem.readN_congr (m k : Mem) (n : Nat) : ∀ a, (∀ j, a ≤ j → j < a + n → m.read j = k.read j) → m.readN a n = k.readN a n := by
  induction n with
  | zero => intro a _; rfl
  | succ n ih =>
    intro a h
    rw [Mem.readN, Mem.readN, h a (Nat.le_refl a) (by omega), ih (a + 1) fun j h1 h2 => h j (by omega) (by omega)]

/-- A number that was written is read again (R3). -/
theorem Mem.readN_writeN (n : Nat) : ∀ (m : Mem) (a v : Nat), (m.writeN a n v).readN a n = v % 256 ^ n := by
  induction n with
  | zero => intro m a v; exact (Nat.mod_one v).symm
  | succ n ih =>
    intro m a v
    have h : (m.writeN a (n + 1) v).read a = BitVec.ofNat 8 v := by
      rw [Mem.read_writeN, if_pos (by omega), Nat.sub_self, Nat.pow_zero, Nat.div_one]
    rw [Mem.readN, h, Mem.writeN, ih, Nat.pow_succ', Nat.mod_mul]
    rfl

/-! The row indirection table (R215, R344). -/

/-- An entry of a row indirection table: none for a row in its own place (R344). -/
def indirect (t : Tbl Nat) (r p : Nat) : Tbl Nat := if r = p then tblErase t r else tblPut t r p

theorem indirect_get (t : Tbl Nat) (x p r : Nat) : tblGet r (indirect t x p) r = if r = x then p else tblGet r t r := by
  unfold indirect
  by_cases hr : r = x
  · subst hr
    split
    · next h => rw [← h]; simp [tblGet]
    · simp [tblGet]
  · split <;> simp [tblGet, hr]

theorem tblPut_length {α : Type} (t : Tbl α) (k : Nat) (v : α) : (tblPut t k v).length ≤ t.length + 1 := by
  induction t with
  | nil => simp [tblPut]
  | cons e r ih =>
    obtain ⟨k', v'⟩ := e
    unfold tblPut
    split
    · simp
    · split
      · simp
      · simpa using ih

theorem tblErase_length {α : Type} (t : Tbl α) (k : Nat) : (tblErase t k).length ≤ t.length := by
  induction t with
  | nil => simp [tblErase]
  | cons e r ih =>
    obtain ⟨k', v'⟩ := e
    unfold tblErase
    split
    · exact Nat.le_succ_of_le ih
    · simpa using ih

theorem indirect_length (t : Tbl Nat) (x p : Nat) : (indirect t x p).length ≤ t.length + 1 := by
  unfold indirect
  split
  · exact Nat.le_succ_of_le (tblErase_length t x)
  · exact tblPut_length t x p

/-- The row indirection table of a bank in which two rows have changed places (R215). -/
def State.swapped (s : State) (n a b : Nat) : Tbl Nat :=
  indirect (indirect (tblGet [] s.rowInd n) a (s.physRow n b)) b (s.physRow n a)

theorem exec_rowSwap {s : State} {n a b th : Nat} (ht : tblFind s.swapThr n = some th)
    (hr : th ≤ tblGet 0 s.acts (n * 2 ^ 20 + s.physRow n a)) (hl : (tblGet [] s.rowInd n).length + 2 ≤ 1024) :
    exec (.rowSwap n a b) s = .next { s with
      acts := tblErase s.acts (n * 2 ^ 20 + s.physRow n a), rowInd := tblPut s.rowInd n (s.swapped n a b),
      swaps := tblPut s.swaps n ((tblGet 0 s.swaps n + 1) % 2 ^ 32) } := by
  have hl' : (s.swapped n a b).length ≤ 1024 :=
    Nat.le_trans (Nat.le_trans (indirect_length _ _ _) (Nat.succ_le_succ (indirect_length _ _ _))) hl
  refine (if_neg (by rw [ht]; simpa using hr)).trans (if_neg ?_)
  have h1 : ¬ 1024 ≤ (tblGet [] s.rowInd n).length := by omega
  have h2 : ¬ 1024 < (s.swapped n a b).length := by omega
  exact fun h => ((Bool.or_eq_true _ _).mp h).elim (fun h => h1 (of_decide_eq_true h)) fun h => h2 (of_decide_eq_true h)

/-! RDMA (R401). -/

theorem partsOf_one {a b : Nat} (hb : 1 ≤ b) (h : a % 64 + b ≤ 64) : partsOf a b = [(a, b)] := by
  unfold partsOf rowParts
  rw [if_neg (by omega)]
  have hk : Nat.min b (64 - a % 64) = b := Nat.min_eq_left (by omega)
  dsimp only
  rw [hk, Nat.sub_self]
  cases b / 64 <;> rfl

/-- A clean line is read as it stands, when no bank counts activations (R213). -/
theorem rdmaPart_clean {s : State} {a b : Nat} (hl : saLevel a = 0) (hs : s.lineState (a / 64 * 64) = none)
    (hp : a / 64 * 64 ∉ s.hbmPois) (ht : s.swapThr = []) : s.rdmaPart a b = (s, false) := by
  have ha : s.activate (a / 64 * 64) = s := if_pos (by rw [ht]; rfl)
  have h64 : a / 64 * 64 / 64 * 64 = a / 64 * 64 := by omega
  have hl' : saLevel (a / 64 * 64) = 0 := by
    unfold saLevel bitsN at hl ⊢
    omega
  have hr : s.sysRead (a / 64 * 64) 0 = (s, s.mem.readN (a / 64 * 64) 64, 0) := by
    unfold State.sysRead State.hbmRead
    dsimp only
    rw [h64, if_pos hl', ha, hs]
    dsimp only
    rw [if_neg (by simpa using hp)]
  unfold State.rdmaPart
  rw [if_pos hl]
  dsimp only
  rw [hr]
  dsimp only
  rw [if_neg (by simpa using hp)]
  rfl

/-! The upkeep events (R209, R212, R213, R360). -/

/-- A word without its wrong bit, or as it is where a check bit is wrong (R209). -/
def fixedWord (raw : Nat) : Option Nat → Nat
  | some i => raw ^^^ 2 ^ i
  | none => raw

/-- A word with a single-bit error is corrected where it lies (R209, R212). -/
theorem eccRead_fix {m : Mem} {y : Tbl (BitVec 7)} {a : Nat} {c : Option Nat} (h : eccDecode (tblGet 0 y (a / 4)) = .fix c) :
    (eccRead 1 m y a).2.2.1 = m.writeN a 4 (fixedWord (m.readN a 4) c) ∧ (eccRead 1 m y a).2.2.2.1 = tblErase y (a / 4) := by
  cases c <;> simp only [eccRead, h, fixedWord, and_self]

theorem colIndex_lt (l : List Nat) (x : Nat) : ∀ (n i : Nat), colIndex l x n = some i → i < n + l.length := by
  induction l with
  | nil => intro n i h; cases h
  | cons c r ih =>
    intro n i h
    unfold colIndex at h
    split at h
    · cases h
      simp
    · have := ih (n + 1) i h
      simp only [List.length_cons]
      omega

/-- A single-bit error lies in one of the 32 bits of its word (R421). -/
theorem eccDecode_bit {x : BitVec 7} {i : Nat} (h : eccDecode x = .fix (some i)) : i < 32 := by
  unfold eccDecode at h
  split at h
  · cases h
  · split at h
    · cases h
    · split at h
      · next hc =>
        cases h
        exact colIndex_lt _ _ _ _ hc
      · split at h <;> cases h

theorem fixedWord_lt {x : BitVec 7} {c : Option Nat} {raw : Nat} (h : eccDecode x = .fix c) (hr : raw < 256 ^ 4) :
    fixedWord raw c < 256 ^ 4 := by
  have e : 256 ^ 4 = 2 ^ 32 := by decide
  rw [e] at hr ⊢
  cases c with
  | none => exact hr
  | some i => exact Nat.xor_lt_two_pow hr (Nat.pow_lt_pow_right (by decide) (eccDecode_bit h))

theorem exec_scrub (s : State) (n : Nat) :
    exec (.scrub n) s = .next (State.shaEvents { s with
      mem := (eccRead 1 s.mem s.shaSyn (s.devId * 2 ^ 53 + 2 ^ 50 + 4 * (n % 2 ^ 29))).2.2.1,
      shaSyn := (eccRead 1 s.mem s.shaSyn (s.devId * 2 ^ 53 + 2 ^ 50 + 4 * (n % 2 ^ 29))).2.2.2.1 } 3 0
      (eccRead 1 s.mem s.shaSyn (s.devId * 2 ^ 53 + 2 ^ 50 + 4 * (n % 2 ^ 29))).2.2.2.2) := rfl

theorem shaEvents_fld {α : Type} (g : State → α) (hg : ∀ s l, g { s with errEvts := l } = g s) (s : State) (kind tag : Nat)
    (evs : List (Nat × BitVec 7 × Bool)) : g (s.shaEvents kind tag evs) = g s :=
  foldl_fld g _ (fun s _ => hg s _) evs s

theorem exec_traceDrain {s : State} {n : Nat} {r : TraceRec} {rest : List TraceRec} (ht : (s.die n).trace = r :: rest)
    (hr : (s.die n).ringW - (s.die n).ringR < (s.die n).ringSize / 32) :
    ∃ t, exec (.traceDrain n) s = .next t ∧ (t.die n).trace = rest ∧ (t.die n).ringW = (s.die n).ringW + 1 := by
  have h : exec (.traceDrain n) s = .next ((s.sysWriteN ((s.die n).ringBase +
      32 * ((s.die n).ringW % ((s.die n).ringSize / 32))) 32 r.bits 0).modDie n fun x => { x with trace := rest, ringW := x.ringW + 1 }) := by
    show execTraceDrain n s = _
    unfold execTraceDrain
    dsimp only
    rw [ht]
    exact if_neg (by omega)
  refine ⟨_, h, ?_⟩
  rw [die_modDie, if_pos rfl]
  refine ⟨rfl, ?_⟩
  exact congrArg (fun t => Die.ringW (tblGet Die.reset t n) + 1) (memBlind_dies.sysWriteN s _ _ _ _)

theorem exec_rowSwap_full {s : State} {n a b th : Nat} (ht : tblFind s.swapThr n = some th)
    (hr : th ≤ tblGet 0 s.acts (n * 2 ^ 20 + s.physRow n a)) (hl : 1024 ≤ (tblGet [] s.rowInd n).length) :
    exec (.rowSwap n a b) s = .next (State.errEvent { s with acts := tblErase s.acts (n * 2 ^ 20 + s.physRow n a) }
      ⟨0x200 + n / 64, s.devId * 2 ^ 53 + n / 64 / 66 * 2 ^ 36, some 8, 5 * (n / 64 / 66 / 4) + n / 64 / 66 % 4, 0, 0⟩) :=
  (if_neg (by rw [ht]; simpa using hr)).trans (if_pos (by rw [decide_eq_true hl]; rfl))

/-- A line that the decoder corrects is rewritten: its errors go, its bytes stay (R213). -/
theorem exec_rewrite {s : State} {n : Nat} (hn : n ∈ s.rewrite) (hs : s.lineState n = some true) :
    exec (.correctedLineRewrite n) s =
      .next { s with rewrite := s.rewrite.filter (· ≠ n), hbmErr := tblErase s.hbmErr n } :=
  (if_pos (by simpa using hn)).trans (if_pos hs)

/-- Settles O49. -/
theorem upkeepAndHostTraffic : Obligations.UpkeepAndHostTraffic := by
  intro s n a b bytes m th
  refine ⟨fun ht hr hl hab => ⟨_, exec_rowSwap ht hr hl, ?_, ?_⟩, fun ht hr => ?_,
    fun ht hr hl => ⟨_, exec_rowSwap_full ht hr hl, rfl, rfl, _, rfl, rfl⟩, fun c hc => ⟨_, exec_scrub s n, ?_, ?_⟩,
    fun hn hs => ⟨_, exec_rewrite hn hs, ?_, ?_, rfl⟩, fun r rest => exec_traceDrain, fun h => ⟨if_pos ?_, if_pos ?_⟩,
    fun h ho => ?_, fun h ho => ?_, fun h ho => ⟨?_, fun hl hb hab hs hp ht => ?_⟩, fun h ho => ?_,
    fun h => ⟨fun t ht => ?_, fun ht => ?_⟩, rfl⟩
  · have hnew : ∀ r, tblGet r (tblGet [] (tblPut s.rowInd n (s.swapped n a b)) n) r =
        if r = b then s.physRow n a else if r = a then s.physRow n b else s.physRow n r := by
      intro r
      rw [tblGet_tblPut, if_pos rfl]
      unfold State.swapped
      rw [indirect_get, indirect_get]
      rfl
    refine ⟨(hnew a).trans ?_, (hnew b).trans (if_pos rfl), fun r h1 h2 => (hnew r).trans ?_⟩
    · rw [if_neg hab, if_pos rfl]
      rfl
    · rw [if_neg h2, if_neg h1]
      rfl
  · exact (tblGet_tblPut ..).trans (if_pos rfl)
  · exact if_pos (by rw [ht]; simpa using hr)
  · rw [shaEvents_fld State.shaSyn fun _ _ => rfl]
    dsimp only
    rw [(eccRead_fix hc).2, tblFind_tblErase, if_pos rfl]
  · rw [shaEvents_fld State.mem fun _ _ => rfl]
    dsimp only
    rw [(eccRead_fix hc).1, Mem.readN_writeN, Nat.mod_eq_of_lt (fixedWord_lt hc (Mem.readN_lt _ 4 _))]
    cases c <;> rfl
  · exact (tblFind_tblErase ..).trans (if_pos rfl)
  · simp
  · rw [h]; rfl
  · rw [h]; rfl
  · exact (if_neg (by rw [h]; decide)).trans (if_neg (by rw [ho]; decide))
  · exact (if_neg (by rw [h]; decide)).trans (if_pos (by rw [ho]; decide))
  · exact (if_neg (by rw [h]; decide)).trans (if_neg (by rw [ho]; decide))
  · rw [partsOf_one hb hab, List.foldl_cons, List.foldl_nil, rdmaPart_clean hl hs hp ht]
    rfl
  · exact (if_neg (by rw [h]; decide)).trans (if_pos (by rw [ho]; decide))
  · show execMailboxRequest ⟨n, m⟩ s = _
    unfold execMailboxRequest
    rw [if_neg h, ht]
  · show execMailboxRequest ⟨n, m⟩ s = _
    unfold execMailboxRequest
    rw [if_neg h, ht]

end Sys2Proof.Machine
end

section
/-! SUPPORT. Almanac markers and actions (R129, R337, R338, R411). -/

namespace Sys2Proof.Machine

/-! Launches. -/

theorem launch?_modLaunch (s : State) (n : Nat) (f : Launch → Launch) (m : Nat) :
    (s.modLaunch n f).launch? m = if m = n then (s.launch? n).map f else s.launch? m := by
  unfold State.modLaunch
  cases h : s.launch? n with
  | none =>
    dsimp only
    split
    · next e => rw [e, h]; rfl
    · rfl
  | some l =>
    dsimp only
    refine (tblFind_tblPut ..).trans ?_
    split <;> rfl

theorem modLaunch_fld {α : Type} (g : State → α) (hg : ∀ s l, g { s with launches := l } = g s) (s : State) (n : Nat)
    (f : Launch → Launch) : g (s.modLaunch n f) = g s := by
  unfold State.modLaunch
  split
  · rfl
  · exact hg s _

theorem setEnt_launchPart (s : State) (n i : Nat) (st : AStat) (m : Nat) :
    ((s.setEnt n i st).launch? m).map Launch.part = (s.launch? m).map Launch.part := by
  unfold State.setEnt
  rw [launch?_modLaunch]
  split
  · next h =>
    rw [h, Option.map_map]
    rfl
  · rfl

/-- The entry whose status was set (R337). -/
theorem setEnt_entry {s : State} {n i : Nat} {l : Launch} {e : AEnt} (st : AStat) (hl : s.launch? n = some l)
    (he : l.alm[i]? = some e) :
    ∃ l', (s.setEnt n i st).launch? n = some l' ∧ l'.alm[i]? = some { e with st := st } := by
  unfold State.setEnt
  rw [launch?_modLaunch, if_pos rfl, hl]
  refine ⟨_, rfl, ?_⟩
  simp [List.getElem?_zipIdx, he]

/-- An action on a tile starts, where its checks pass (R337, R338). -/
theorem tierStep_tile {s r : State} {n i a k : Nat} {l : Launch} {e : AEnt} (act : State → Launch → AEnt → State)
    (moves : State → Launch → AEnt → Bool) (hl : s.launch? n = some l) (he : l.alm[i]? = some e) (ha : e.action = a)
    (hs : e.st = .fired k) (hm : s.entMayStart l e k = true) (hsh : e.shape = false)
    (ht : s.tileAt l.part e.tile (lvOf e.lvFrom) = (r, true))
    (hb : ((decide (a < 2) || decide (a = 3) && decide (e.lvTo ≠ e.lvFrom)) &&
      !r.blockOk e.dest.toNat e.tile.2 (lvOf e.lvTo)) = false) :
    s.tierStep n i a act moves = (act r l e).setEnt n i (.started none 0) := by
  unfold State.tierStep
  rw [hl]
  dsimp only
  rw [he]
  dsimp only
  rw [if_neg (by simp [ha]), hs]
  dsimp only
  rw [if_neg (by simp [hm]), if_neg (by simp [hsh]), ht]
  dsimp only
  rw [if_neg]
  rw [hb]
  decide

/-- Whether a launch is of a partition. -/
def State.launchIn (s : State) (p m : Nat) : Bool := match s.launch? m with | some l => l.part = p | none => false

theorem launchIn_eq (s : State) (p m : Nat) : s.launchIn p m = decide ((s.launch? m).map Launch.part = some p) := by
  unfold State.launchIn
  cases s.launch? m <;> simp

theorem isPinned_eq (s : State) (p : Nat) (o : Word) : s.isPinned p o = s.pins.any fun e => e.2 = o && s.launchIn p e.1 := rfl

/-- The state without the pins of an object that launches of a partition hold (R338). -/
def State.unpinned (s : State) (p : Nat) (o : Word) : State :=
  { s with pins := s.pins.filter fun e => !(e.2 = o && s.launchIn p e.1) }

/-- DROP leaves no pin of its object in the launch's partition (R338). -/
theorem drop_unpins (r : State) (n i p : Nat) (o : Word) (st : AStat) : ((r.unpinned p o).setEnt n i st).isPinned p o = false := by
  rw [isPinned_eq, List.any_eq_false]
  intro e he
  have hp : ((r.unpinned p o).setEnt n i st).pins = (r.unpinned p o).pins := modLaunch_fld State.pins (fun _ _ => rfl) _ _ _
  have hl : ((r.unpinned p o).setEnt n i st).launchIn p e.1 = r.launchIn p e.1 := by
    rw [launchIn_eq, launchIn_eq, setEnt_launchPart]
    rfl
  rw [hp] at he
  have := (List.mem_filter.1 he).2
  rw [hl]
  simpa [Decidable.imp_iff_not_or] using this

/-! The answer to a marker (R129, R337). -/

/-- What a cluster asks with a marker, if its next word is one: the number, and whether it is MARKQ. -/
theorem answerMark_eq {s : State} {k : Who} {i : Instr} {h : Hdr} {n : BitVec 10} {p : BitVec 3} (hr : (s.clu k).run = .run)
    (hw : (s.clu k).wait = some .mark) (hq : (s.clu k).asked = true) (ha : (s.clu k).answer = none)
    (hg : s.nextGroup k = .ok i) (hi : i = .mark h n ∨ i = .markq h p n) (q : Bool) (hqi : q = true ↔ i = .markq h p n) :
    s.answerMark k = match State.markAsk { s with cur := k } n.toNat q with
      | none => s.modClu k fun c => { c with answer := some 1 }
      | some (ok, s) => s.modClu k fun c => { c with answer := some (if ok then 1 else 0) } := by
  have hc : (s.clu k).run = .run ∧ (s.clu k).wait = some .mark ∧ (s.clu k).asked = true ∧ (s.clu k).answer.isNone = true :=
    ⟨hr, hw, hq, by rw [ha]; rfl⟩
  unfold State.answerMark
  dsimp only
  rw [if_pos (by simp [hc]), hg]
  obtain rfl | rfl := hi
  · have : q = false := Bool.eq_false_iff.2 fun h => nomatch hqi.1 h
    subst this
    rfl
  · have : q = true := hqi.2 rfl
    subst this
    rfl

/-- Whether the arrival of the current task at a marker has been counted already, by another instance (R184). -/
def State.markSeen (s : State) (n : Nat) : Bool :=
  s.myTask.cls ≠ 0 && (s.myTask.inst ≠ 0 ||
    match s.dep? s.myTask.part s.myTask.tid with | some e => e.marks.contains n | none => false)

theorem markAsk_eq {s : State} {l : Launch} (n : Nat) (q : Bool) (hl : s.launch? s.myTask.launch = some l) (hy : l.hasAlm = true) :
    s.markAsk n q = if (!l.resident n && !q) || s.markSeen n then some (l.resident n, s)
      else some (l.resident n, if s.myTask.cls ≠ 0 then
        (s.modLaunch s.myTask.launch fun l => l.arrive n).modDep s.myTask.part s.myTask.tid fun e => { e with marks := n :: e.marks }
        else s.modLaunch s.myTask.launch fun l => l.arrive n) := by
  unfold State.markAsk
  dsimp only
  rw [hl]
  dsimp only
  rw [if_neg (by simp [hy])]
  rfl

theorem markAsk_none {s : State} (n : Nat) (q : Bool) (h : ∀ l, s.launch? s.myTask.launch = some l → l.hasAlm = false) :
    s.markAsk n q = none := by
  unfold State.markAsk
  dsimp only
  cases hl : s.launch? s.myTask.launch with
  | none => rfl
  | some l => exact if_pos (by rw [h l hl]; rfl)

/-- The state that the tier engine leaves when it answers a marker of a launch with an almanac (R337). -/
theorem markAsk_some {s : State} {l : Launch} (n : Nat) (q : Bool) (hl : s.launch? s.myTask.launch = some l) (hy : l.hasAlm = true) :
    ∃ t, s.markAsk n q = some (l.resident n, t) ∧ (l.resident n = false → q = false → t = s) ∧
      (s.myTask.cls = 0 → (l.resident n = true ∨ q = true) → t = s.modLaunch s.myTask.launch fun l => l.arrive n) := by
  have hseen : s.myTask.cls = 0 → s.markSeen n = false := fun hc => by unfold State.markSeen; simp [hc]
  rw [markAsk_eq n q hl hy]
  cases hr : l.resident n with
  | false =>
    cases q with
    | false => exact ⟨s, if_pos rfl, fun _ _ => rfl, fun _ h => absurd h (by simp)⟩
    | true =>
      by_cases hs : s.markSeen n = true
      · exact ⟨s, if_pos (by rw [hs]; rfl), fun _ h => (nomatch h), fun hc => by simp [hseen hc] at hs⟩
      · exact ⟨_, if_neg (by simpa using hs), fun _ h => (nomatch h), fun hc _ => if_neg (by simp [hc])⟩
  | true =>
    by_cases hs : s.markSeen n = true
    · exact ⟨s, if_pos (by rw [hs]; rfl), fun h => (nomatch h), fun hc => by simp [hseen hc] at hs⟩
    · exact ⟨_, if_neg (by simpa using hs), fun h => (nomatch h), fun hc _ => if_neg (by simp [hc])⟩

/-- An action whose writes are done is done (R411). -/
theorem exec_finish {s : State} {n i : Nat} {l : Launch} {e : AEnt} (hl : s.launch? n = some l) (he : l.alm[i]? = some e)
    (hs : (∃ m, e.st = .started none m) ∨ ∃ h m, e.st = .started (some h) m ∧ h.count ≤ m) :
    exec (.almanacActionFinish n i) s = .next (s.setEnt n i .done) := by
  have hb : ((s.launch? n).bind fun l => l.alm[i]?) = some e := by rw [hl]; exact he
  show execAlmanacActionFinish n i s = _
  unfold execAlmanacActionFinish
  rw [hb]
  dsimp only
  obtain ⟨m, hs⟩ | ⟨h, m, hs, hm⟩ := hs
  · rw [hs]
  · rw [hs]
    exact if_pos hm

/-- Settles O9. -/
theorem almanacMarkersAndEntries : Obligations.AlmanacMarkersAndEntries := by
  have asks {h : Hdr} {p : BitVec 3} {n : BitVec 10} (i : Instr) : ∃ q : Bool, q = true ↔ i = .markq h p n :=
    ⟨decide (i = .markq h p n), decide_eq_true_iff⟩
  refine ⟨fun s h n p => ⟨fun ⟨k, hn⟩ => ?_, fun ⟨k, hn⟩ => ?_, fun v k hv => ⟨fun hb => ?_, fun hb => ?_⟩, fun v k hv => ?_⟩,
    fun s k h n p l i hr hw hq ha hg hi => ⟨fun hl => ?_, fun hl hn => ?_, fun hl hy => ⟨?_, fun hc ho => ?_, fun ho he => ?_⟩⟩,
    fun s n i k l e hl he => ⟨fun r hs hm hsh ht => ⟨fun ha hb => ?_, fun ha hb => ?_, fun ha => ?_, fun ha hv => ?_⟩, fun m hs => ?_, fun c m hs hm => ?_⟩⟩
  · refine ⟨_, runWord_stall s _ h _ .mark ((s.taken h).modMe fun c => { c with asked := true }) k ?_, ?_, ?_, ?_⟩
    · simp [State.withMark, hn]
    · rw [stalled_me]
    · rw [stalled_me, me_modMe]
    · rw [stalled_me, me_modMe, taken_me]
  · refine ⟨_, runWord_stall s _ h _ .mark ((s.taken h).modMe fun c => { c with asked := true }) k ?_, ?_, ?_, ?_⟩
    · simp [State.withMark, hn]
    · rw [stalled_me]
    · rw [stalled_me, me_modMe]
    · rw [stalled_me, me_modMe, taken_me]
  · exact runWord_done s _ h _ _ _ k (by simp [State.withMark, hv, hb])
  · exact runWord_fault s _ h _ _ k (by simpa [State.withMark, hv, fScheduleMiss] using hb)
  · exact runWord_done s _ h _ _ _ k (by simp [State.withMark, hv])
  · obtain ⟨q, hqi⟩ := asks i
    rw [answerMark_eq hr hw hq ha hg hi q hqi, markAsk_none (s := { s with cur := k }) n.toNat q fun l' h' => by cases hl.symm.trans h']
    dsimp only
    rw [clu_modClu]
  · obtain ⟨q, hqi⟩ := asks i
    rw [answerMark_eq hr hw hq ha hg hi q hqi, markAsk_none (s := { s with cur := k }) n.toNat q fun l' h' =>
      Option.some.inj (hl.symm.trans h') ▸ hn]
    dsimp only
    rw [clu_modClu]
  · obtain ⟨q, hqi⟩ := asks i
    obtain ⟨t, ht, _, _⟩ := markAsk_some (s := { s with cur := k }) n.toNat q hl hy
    rw [answerMark_eq hr hw hq ha hg hi q hqi, ht]
    dsimp only
    rw [clu_modClu]
  · obtain ⟨q, hqi⟩ := asks i
    obtain ⟨t, ht, _, hres⟩ := markAsk_some (s := { s with cur := k }) n.toNat q hl hy
    rw [answerMark_eq hr hw hq ha hg hi q hqi, ht, hres hc (ho.imp id hqi.2)]
    dsimp only
    refine (launch?_modLaunch _ _ _ _).trans ((if_pos rfl).trans ?_)
    exact congrArg (Option.map _) hl
  · obtain ⟨q, hqi⟩ := asks i
    obtain ⟨t, ht, hkeep, _⟩ := markAsk_some (s := { s with cur := k }) n.toNat q hl hy
    have hq0 : q = false := Bool.eq_false_iff.2 fun h => by rw [he] at hqi; exact nomatch hqi.1 h
    rw [answerMark_eq hr hw hq ha hg hi q hqi, ht, hkeep ho hq0]
    exact hl
  · exact congrArg Host.Outcome.next (tierStep_tile _ _ hl he ha hs hm hsh ht (by rw [hb]; exact Bool.and_false _))
  · refine congrArg Host.Outcome.next ((tierStep_tile _ _ hl he ha hs hm hsh ht (by rw [hb]; exact Bool.and_false _)).trans ?_)
    rw [hsh]
    rfl
  · refine ⟨_, congrArg Host.Outcome.next (tierStep_tile _ _ hl he ha hs hm hsh ht rfl), ?_, ?_⟩
    · exact modLaunch_fld State.pins (fun _ _ => rfl) _ _ _
    · exact modLaunch_fld State.mem (fun _ _ => rfl) _ _ _
  · refine ⟨(r.unpinned l.part e.object).setEnt n i (.started none 0), ?_, drop_unpins r n i l.part e.object _, ?_⟩
    · refine congrArg Host.Outcome.next ((tierStep_tile _ _ hl he ha hs hm hsh ht (by simp [hv])).trans ?_)
      dsimp only
      rw [if_pos (by simp [hv])]
      rfl
    · exact modLaunch_fld State.mem (fun _ _ => rfl) _ _ _
  · obtain ⟨l', h1, h2⟩ := setEnt_entry .done hl he
    exact ⟨_, l', exec_finish hl he (.inl ⟨m, hs⟩), h1, h2⟩
  · obtain ⟨l', h1, h2⟩ := setEnt_entry .done hl he
    exact ⟨_, l', exec_finish hl he (.inr ⟨c, m, hs, hm⟩), h1, h2⟩

end Sys2Proof.Machine
end

section
/-! SUPPORT. Accesses in flight are performed (R208, R228, R229, R233): what that leaves as it was, once for every
property of states that the primitive steps keep. -/

namespace Sys2Proof.Machine

/-! Steps that only book what happens before what (log 20). -/

/-- A step that changes nothing but the order of happening-before. -/
def KnownOnly (s t : State) : Prop := ∃ kn, t = { s with known := kn }

namespace KnownOnly
variable {s t u : State}

theorem refl (s : State) : KnownOnly s s := ⟨s.known, rfl⟩
theorem trans (a : KnownOnly s t) (b : KnownOnly t u) : KnownOnly s u := by
  obtain ⟨k, rfl⟩ := a
  obtain ⟨l, rfl⟩ := b
  exact ⟨l, rfl⟩
theorem foldl {α : Type} (f : State → α → State) (hf : ∀ s e, KnownOnly s (f s e)) (l : List α) :
    ∀ s, KnownOnly s (l.foldl f s) := by
  induction l with
  | nil => exact refl
  | cons e r ih =>
    intro s
    rw [List.foldl_cons]
    exact (hf s e).trans (ih _)
theorem fld {α : Type} (k : KnownOnly s t) (g : State → α) (hg : ∀ s kn, g { s with known := kn } = g s) : g t = g s := by
  obtain ⟨kn, rfl⟩ := k
  exact hg s kn
theorem teach (s : State) (l : List Nat) (p : Party) : KnownOnly s (s.teach l p) := teach_eq s l p
theorem hand (s : State) (p q : Party) : KnownOnly s (s.hand p q) := hand_eq s p q
theorem forget (s : State) (f : Party → Bool) : KnownOnly s (s.forget f) := forget_eq s f
theorem afterFences (s : State) (k : Who) (i : Nat) : KnownOnly s (s.afterFences k i) := (hand _ _ _).trans (hand _ _ _)
theorem wipeCell (s : State) (place mask : Nat) : KnownOnly s (s.wipeCell place mask) := by
  unfold State.wipeCell
  dsimp only
  split
  · exact ⟨_, rfl⟩
  · exact refl s
theorem setCell (s : State) (i core place mask : Nat) (rmw : Bool) : KnownOnly s (s.setCell i core place mask rmw) := by
  unfold State.setCell
  refine .trans (t := if rmw then s else s.wipeCell place mask) ?_ (((hand _ _ _).trans (hand _ _ _)).trans (forget _ _))
  split
  · exact refl s
  · exact wipeCell ..
theorem readCell (s : State) (place mask : Nat) (q : Nat → Nat → Party) : KnownOnly s (s.readCell place mask q) := by
  refine foldl _ (fun t e => ?_) _ s
  split
  · split
    · exact teach ..
    · exact refl t
  · exact refl t
theorem loadCell (s : State) (k : Who) (place : Nat) : KnownOnly s (s.loadCell k place) := readCell ..
theorem storeCell (s : State) (k : Who) (place : Nat) : KnownOnly s (s.storeCell k place) := (afterFences ..).trans (setCell ..)

end KnownOnly

/-! Steps that touch no register, byte or access in flight. -/

/-- Queues and running commands of a core's engines. -/
def Core.eng (c : Core) : List EnCmd × Tbl CpRun × Nat × List EnCmd × List RmRun × List EnCmd × List CoRun × List MxCmd × Option MxRun :=
  (c.cpq, c.cpRun, c.cpNext, c.rmq, c.rmRun, c.coq, c.coRun, c.mxq, c.mxRun)

/-- A context's task, its result FIFOs, and its completion tokens. -/
def Ctx.own (x : Ctx) : Option Task × List FElem × List FElem × Tbl CTok := (x.task, x.remF, x.colF, x.ct)

/-- A step that leaves registers, views, flags, barrier counts, bytes, accesses in flight, power, engines, the device's
identifier, the cluster whose turn it is, and what contexts own. -/
structure Mild (s t : State) : Prop where
  quiet : Quiet s t
  cur : t.cur = s.cur
  power : ∀ n, (t.core n).power = (s.core n).power
  accs : t.accs = s.accs
  devId : t.devId = s.devId
  own : ∀ k, (t.ctxOf k).own = (s.ctxOf k).own
  eng : ∀ n, (t.core n).eng = (s.core n).eng

namespace Mild
variable {s t u : State}

theorem refl (s : State) : Mild s s := ⟨Quiet.refl s, rfl, fun _ => rfl, rfl, rfl, fun _ => rfl, fun _ => rfl⟩
theorem trans (a : Mild s t) (b : Mild t u) : Mild s u :=
  ⟨a.quiet.trans b.quiet, b.cur.trans a.cur, fun n => (b.power n).trans (a.power n), b.accs.trans a.accs, b.devId.trans a.devId,
    fun k => (b.own k).trans (a.own k), fun n => (b.eng n).trans (a.eng n)⟩
theorem of_same (hc : t.cores = s.cores) (hd : t.dies = s.dies) (hm : t.mem = s.mem) (hk : t.cur = s.cur)
    (ha : t.accs = s.accs) (hv : t.devId = s.devId) : Mild s t :=
  ⟨Quiet.of_same hc hd hm, hk, fun n => by unfold State.core; rw [hc], ha, hv, fun k => by unfold State.ctxOf State.core; rw [hc],
    fun n => by unfold State.core; rw [hc]⟩
theorem known (k : KnownOnly s t) : Mild s t := by
  obtain ⟨kn, rfl⟩ := k
  exact of_same rfl rfl rfl rfl rfl rfl
theorem modCore (s : State) (n : Nat) (f : Core → Core)
    (hf : ∀ c, (f c).ctxs = c.ctxs ∧ (f c).frame = c.frame ∧ (f c).spm = c.spm ∧ (f c).power = c.power ∧ (f c).eng = c.eng) :
    Mild s (s.modCore n f) :=
  ⟨Quiet.modCore s n f fun c => ⟨(hf c).1, (hf c).2.1, (hf c).2.2.1⟩, rfl,
    fun m => coreFld_modCore Core.power s n m f fun c => (hf c).2.2.2.1, rfl, rfl,
    fun k => by rw [ctxOf_modCore s n f k fun c => (hf c).1], fun m => coreFld_modCore Core.eng s n m f fun c => (hf c).2.2.2.2⟩
theorem modCtx (s : State) (k : Who) (f : Ctx → Ctx)
    (hf : ∀ x, (f x).clus = x.clus ∧ (f x).views = x.views ∧ (f x).flags = x.flags ∧ (f x).own = x.own) :
    Mild s (s.modCtx k f) :=
  ⟨Quiet.modCtx s k f fun x => ⟨(hf x).1, (hf x).2.1, (hf x).2.2.1⟩, rfl,
    fun n => coreFld_modCtx Core.power (fun _ _ _ => rfl) s k f n, rfl, rfl,
    fun j => ctxFld_modCtx Ctx.own s j k f fun x => (hf x).2.2.2, fun n => coreFld_modCtx Core.eng (fun _ _ _ => rfl) s k f n⟩
theorem modClu (s : State) (k : Who) (f : Cluster → Cluster) (hf : ∀ c, (f c).regs = c.regs) : Mild s (s.modClu k f) :=
  ⟨Quiet.modClu s k f hf, rfl, fun n => coreFld_modCtx Core.power (fun _ _ _ => rfl) s k _ n, rfl, rfl,
    fun j => ctxFld_modClu Ctx.own (fun _ _ _ => rfl) s k f j, fun n => coreFld_modCtx Core.eng (fun _ _ _ => rfl) s k _ n⟩
theorem modDie (s : State) (d : Nat) (f : Die → Die) (hf : ∀ x, (f x).bcnt = x.bcnt) : Mild s (s.modDie d f) :=
  ⟨Quiet.modDie s d f hf, rfl, fun _ => rfl, rfl, rfl, fun _ => rfl, fun _ => rfl⟩
theorem foldl {α : Type} (f : State → α → State) (hf : ∀ s e, Mild s (f s e)) (l : List α) : ∀ s, Mild s (l.foldl f s) := by
  induction l with
  | nil => exact refl
  | cons e r ih =>
    intro s
    rw [List.foldl_cons]
    exact (hf s e).trans (ih _)

theorem task (m : Mild s t) (k : Who) : (t.ctxOf k).task = (s.ctxOf k).task := congrArg Prod.fst (m.own k)

/-! A late fault of an access (R252, R416, log 57). -/

theorem traceRec (s : State) (k : Who) (unit kind loc : Nat) (task data : Word) : Mild s (s.traceRec k unit kind loc task data) := by
  unfold State.traceRec
  exact modDie _ _ _ fun x => by dsimp only; split <;> rfl
theorem traceClu (s : State) (k : Who) (kind : Nat) (data : Word) : Mild s (s.traceClu k kind data) := by
  unfold State.traceClu
  dsimp only
  split
  · exact traceRec ..
  · exact refl s
theorem stopCluster (s : State) (k : Who) (code kind : Nat) (f : FaultInfo) : Mild s (s.stopCluster k code kind f) := by
  unfold State.stopCluster
  dsimp only
  split
  · exact refl s
  · split
    · exact modClu _ _ _ fun _ => rfl
    · exact (modClu s k (fun c => { c with run := .stopped, stop := _ }) fun _ => rfl).trans (traceClu ..)
theorem haltCluster (s : State) (k : Who) : Mild s (s.haltCluster k) := by
  unfold State.haltCluster
  split
  · exact modClu _ _ _ fun _ => rfl
  · exact stopCluster ..
theorem raiseLine (s : State) (p code : Nat) (k : Who) (unit : Nat) : Mild s (s.raiseLine p code k unit) :=
  of_same rfl rfl rfl rfl rfl rfl
theorem absorb (s : State) (k : Who) : Mild s (s.absorb k) := by
  unfold State.absorb
  refine (foldl State.haltCluster haltCluster k.clusters s).trans ?_
  generalize k.clusters.foldl State.haltCluster s = u
  dsimp only
  split
  · exact refl u
  · exact of_same rfl rfl rfl rfl rfl rfl
theorem taskFault (s : State) (k : Who) (unit code : Nat) : Mild s (s.taskFault k unit code) := by
  unfold State.taskFault
  dsimp only
  split
  · exact absorb ..
  · exact raiseLine ..
theorem faultTask (s : State) (k : Who) (f : FaultInfo) : Mild s (s.faultTask k f) := by
  unfold State.faultTask
  dsimp only
  refine trans ?_ ((stopCluster ..).trans (taskFault ..))
  split
  · exact modClu _ _ _ fun _ => rfl
  · exact refl s
theorem faultGone (s : State) (k : Who) (t : Task) (f : FaultInfo) : Mild s (s.faultGone k t f) := by
  unfold State.faultGone
  dsimp only
  refine trans ?_ ((traceRec ..).trans (raiseLine ..))
  split
  · exact modClu _ _ _ fun _ => rfl
  · exact refl s
theorem faultLate (s : State) (k : Who) (t : Task) (f : FaultInfo) : Mild s (s.faultLate k t f) := by
  unfold State.faultLate
  split
  · exact faultTask ..
  · exact faultGone ..

/-! Rows that open, histograms, rows that arrive. -/

theorem closeRow (s : State) (key : Nat) : Mild s (s.closeRow key) := of_same rfl rfl rfl rfl rfl rfl
theorem plain {n key : Nat} {store eng : Bool} (h : s.plain n key store eng = some t) : Mild s t := by
  unfold State.plain at h
  split at h
  · split at h <;> cases h
    exact refl s
  · split at h
    · cases h
      exact refl s
    · cases h
      have rows (u : State) (r : Tbl (Nat × Bool)) (l : List Nat) (hu : Mild s u) :
          Mild s ({ u with rows := r }.modCore n fun c => { c with open_ := l }) :=
        (hu.trans (of_same (t := { u with rows := r }) rfl rfl rfl rfl rfl rfl)).trans (modCore { u with rows := r } n (fun c => { c with open_ := l }) fun _ => ⟨rfl, rfl, rfl, rfl, rfl⟩)
      refine rows _ _ _ ?_
      split
      · exact refl s
      · split
        · exact closeRow ..
        · exact refl s
theorem histAdd (c : Core) (n bin : Nat) : (c.histAdd n bin).ctxs = c.ctxs ∧ (c.histAdd n bin).frame = c.frame ∧
    (c.histAdd n bin).spm = c.spm ∧ (c.histAdd n bin).power = c.power ∧ (c.histAdd n bin).eng = c.eng := by
  unfold Core.histAdd
  dsimp only
  split <;> exact ⟨rfl, rfl, rfl, rfl, rfl⟩
theorem histWord (s : State) (n : Nat) (bins : List (Nat × Nat)) : Mild s (s.histWord n bins) := by
  unfold State.histWord
  split
  · exact refl s
  · refine modCore s n _ fun c => ?_
    have fold {α : Type} (g : Core → α) (hg : ∀ c e f, g (Core.histAdd c e f) = g c) :=
      foldl_fld g (fun c (e : Nat × Nat) => c.histAdd e.1 e.2) (fun c e => hg c _ _) bins c
    exact ⟨fold Core.ctxs fun c e f => (histAdd c e f).1, fold Core.frame fun c e f => (histAdd c e f).2.1,
      fold Core.spm fun c e f => (histAdd c e f).2.2.1, fold Core.power fun c e f => (histAdd c e f).2.2.2.1,
      fold Core.eng fun c e f => (histAdd c e f).2.2.2.2⟩
theorem sigNow (s : State) (k : Who) (sig : BitVec 2) (iss : Nat) : Mild s (s.sigNow k sig iss) := by
  unfold State.sigNow
  split
  · exact refl s
  · exact modClu _ _ _ fun _ => rfl
theorem fillRows (s : State) (k : Who) (q : Nat) (rows : List (Nat × Nat × Nat)) (cir : Nat) : Mild s (s.fillRows k q rows cir) :=
  modCtx _ _ _ fun x => by unfold Ctx.setCir; split <;> exact ⟨rfl, rfl, rfl, rfl⟩

theorem perf (s : State) (n ev x : Nat) (u : Option Clu) (b : Nat) : Mild s (s.perf n ev x u b) := by
  obtain h | ⟨p, o, h⟩ := perf_core s n ev x u b
  · rw [h]
    exact refl s
  · rw [h]
    exact modCore s n (fun c => { c with pcs := p, pcovf := o }) fun _ => ⟨rfl, rfl, rfl, rfl, rfl⟩

end Mild

/-! Properties that the performing of accesses keeps. -/

/-- Whether an access in flight is an atomic. -/
def Acc.atomic (a : Acc) : Bool := match a.kind with | .atom .. => true | _ => false

/-- A property of states that reads of memory keep. -/
structure Reads (P : State → Prop) : Prop where
  read : ∀ {s : State} (sa tag : Nat), P s → P (s.sysRead sa tag).1

namespace Reads
variable {P : State → Prop} (p : Reads P) {s : State}
include p

theorem walkFrom (va : Nat) : ∀ (n : Nat) {s : State} (table idx shift m : Nat), P s →
    P (State.walkFrom va n s table idx shift m).1
  | 0, _, _, _, _, _, h => h
  | n + 1, s, table, idx, shift, m, h => by
    have hr := p.read (table + 8 * idx) 0 h
    unfold State.walkFrom State.sysReadN
    dsimp only
    split
    · exact h
    · generalize s.sysRead (table + 8 * idx) 0 = r at hr ⊢
      split
      · exact hr
      · split
        · split <;> exact hr
        · generalize (if shift = 35 then (30, 32) else if shift = 30 then (21, 512) else (16, 32)) = z
          split
          · exact hr
          · exact walkFrom va n _ _ _ _ hr

theorem walk (q va : Nat) (h : P s) : P (s.walk q va).1 := by
  have hl : P (s.walkLeaf q va).1 := by
    unfold State.walkLeaf
    dsimp only
    split
    · exact h
    · exact p.walkFrom _ _ _ _ _ _ h
  exact hl

end Reads

theorem MemBlind.reads {α : Type} {g : State → α} (b : MemBlind g) (v : α) : Reads fun t => g t = v :=
  ⟨fun _ _ h => (b.sysRead ..).trans h⟩

/-- A property of states that is kept by mild steps, by accesses that end or change otherwise than to an atomic, by
reads and writes of memory and of scratchpads, and by the value that an atomic of a cluster of `ok` returns; the atomics
in flight are of such clusters. -/
structure Performs (ok : Who → Prop) (P : State → Prop) : Prop where
  mild : ∀ {s t}, Mild s t → P s → P t
  atoms : ∀ {s}, P s → ∀ e ∈ s.accs, e.2.atomic = true → ok e.2.who
  accs : ∀ {s} (l : Tbl Acc), (∀ e ∈ l, e.2.atomic = true → ok e.2.who) → P s → P { s with accs := l }
  read : ∀ {s} (sa tag : Nat), P s → P (s.sysRead sa tag).1
  write : ∀ {s} (sa mask data pois tag : Nat), P s → P (s.sysWrite sa mask data pois tag)
  words : ∀ {s} (sa n tag : Nat), P s → P (s.shaWords sa n tag).1
  host : ∀ {s : State} (a n v : Nat), P s → P { s with mem := s.mem.writeN a n v }
  spm : ∀ {s} (n a mask data pois : Nat), P s → P (s.spmWrite n a mask data pois)
  spmRead : ∀ {s} (n a tag : Nat), P s → P (s.spmRead n a tag).1
  returns : ∀ {s} (k : Who) (sd : Nat) (v : Word), ok k → P s →
    P (s.modClu k fun c => { (c.newest (.scal sd v)).setS sd v with blocked := false })

theorem erase_ok {ok : Who → Prop} {l : Tbl Acc} (i : Nat) (h : ∀ e ∈ l, e.2.atomic = true → ok e.2.who) :
    ∀ e ∈ tblErase l i, e.2.atomic = true → ok e.2.who := fun e he => h e (mem_tblErase l i e he)

theorem put_ok {ok : Who → Prop} {l : Tbl Acc} (i : Nat) (a : Acc) (ha : a.atomic = true → ok a.who)
    (h : ∀ e ∈ l, e.2.atomic = true → ok e.2.who) : ∀ e ∈ tblPut l i a, e.2.atomic = true → ok e.2.who := by
  intro e he
  obtain rfl | he := mem_tblPut l i a e he
  · exact ha
  · exact h e he

theorem foldl_keeps {P : State → Prop} {α : Type} (f : State → α → State) (l : List α) (hf : ∀ s, ∀ e ∈ l, P s → P (f s e)) : ∀ s, P s → P (l.foldl f s) := by
  induction l with
  | nil => exact fun s h => h
  | cons e r ih =>
    intro s h
    rw [List.foldl_cons]
    exact ih (fun s e he => hf s e (List.mem_cons_of_mem _ he)) _ (hf s e List.mem_cons_self h)

namespace Performs
variable {ok : Who → Prop} {P : State → Prop} (p : Performs ok P) {s : State}
include p

theorem known {t : State} (k : KnownOnly s t) (h : P s) : P t := p.mild (.known k) h

theorem putAcc (i : Nat) (a : Acc) (ha : a.atomic = true → ok a.who) (h : P s) : P { s with accs := tblPut s.accs i a } :=
  p.accs _ (put_ok i a ha (p.atoms h)) h

theorem dropAcc (i : Nat) (h : P s) : P (s.dropAcc i) :=
  p.mild (s := { s with accs := tblErase s.accs i }) (.of_same rfl rfl rfl rfl rfl rfl) (p.accs _ (erase_ok i (p.atoms h)) h)

theorem deliver (i : Nat) (a : Acc) (q : Nat) (rows : List (Nat × Nat × Nat)) (cir : Nat) (h : P s) :
    P (s.deliver i a q rows cir) := by
  unfold State.deliver
  split
  · exact p.putAcc i _ (fun h => nomatch h) h
  · have hd := p.dropAcc i h
    dsimp only
    split
    · refine p.mild (.trans (.trans (.known (.foldl (fun s (r : Nat × Nat × Nat) => s.hand (.clu a.who) (.row a.who.core a.who.ctx r.1))
        (fun _ _ => .hand _ _ _) rows _)) (.fillRows ..)) (.sigNow ..)) hd
    · exact hd

theorem fillLoad (i : Nat) (a : Acc) (f : Fill) (h : P s) : P (s.fillLoad i a f) := by
  have hr := p.read a.sa a.task.tag (p.known (.loadCell s a.who (a.sa / 64)) h)
  unfold State.fillLoad
  generalize (s.loadCell a.who (a.sa / 64)).sysRead a.sa a.task.tag = r at hr ⊢
  exact p.deliver _ _ _ _ _ hr

theorem serveDirect (i : Nat) (a : Acc) (f : Fill) (t : Nat) (h : P s) : P (s.serveDirect i a f t) := by
  have hr := p.read a.sa a.task.tag (p.known (.loadCell s a.who (a.sa / 64)) h)
  unfold State.serveDirect
  generalize (s.loadCell a.who (a.sa / 64)).sysRead a.sa a.task.tag = r at hr ⊢
  exact p.putAcc i _ (fun h => nomatch h) hr

theorem performStore (i : Nat) (a : Acc) (data : Nat) (h : P s) : P (s.performStore i a data) :=
  p.dropAcc i (p.known (.setCell ..) (p.write _ _ _ _ _ h))

theorem performWin (i : Nat) (a : Acc) (n addr data : Nat) (unlock : Bool) (h : P s) :
    P (s.performWin i a n addr data unlock) := by
  have write {u : State} (hu : P u) : P (if unlock && a.live then
      ((((u.spmWrite n addr fullMask data 0).setCell i a.who.core a.place fullMask false).dropAcc i).histWord a.who.core
        a.bins).modCore n fun c => c.unlock addr a.who.core a.who.ctx
      else ((((u.spmWrite n addr fullMask data 0).setCell i a.who.core a.place fullMask false).dropAcc i).histWord a.who.core
        a.bins)) := by
    have hw := p.mild (.histWord _ a.who.core a.bins)
      (p.dropAcc i (p.known (.setCell _ i a.who.core a.place fullMask false) (p.spm n addr fullMask data 0 hu)))
    split
    · refine p.mild (.modCore _ n (fun c => c.unlock addr a.who.core a.who.ctx) fun c => ?_) hw
      unfold Core.unlock
      split <;> exact ⟨rfl, rfl, rfl, rfl, rfl⟩
    · exact hw
  unfold State.performWin
  dsimp only
  split
  · exact p.mild (.faultLate ..) (p.dropAcc i h)
  · next u hu =>
    refine write ?_
    split at hu
    · cases hu
      exact h
    · exact p.mild (.plain hu) h

theorem atomicAt (sa n op v new tag : Nat) (h : P s) : P (s.atomicAt sa n op v new tag).1 := by
  unfold State.atomicAt
  dsimp only
  split
  · exact p.write _ _ _ _ _ (p.words _ _ _ h)
  · have hr := p.read sa tag h
    split
    · split
      · exact hr
      · exact p.host _ _ _ hr
    · exact p.write _ _ _ _ _ (p.mild (s := (s.sysRead sa tag).1) (.of_same rfl rfl rfl rfl rfl rfl) hr)

theorem returnAtomic (a : Acc) (old : Word) (pois : Bool) (sd : Nat) (ha : ok a.who) (h : P s) :
    P (s.returnAtomic a old pois sd) := by
  unfold State.returnAtomic
  split
  · have hr := p.returns a.who sd old ha h
    dsimp only
    split
    · exact p.mild (.modCtx _ _ _ fun x => by unfold Ctx.setCir; split <;> exact ⟨rfl, rfl, rfl, rfl⟩) hr
    · exact hr
  · exact h

theorem performAtomic (i : Nat) (a : Acc) (op : Nat) (wide : Bool) (v new : Word) (sd : Nat) (ha : ok a.who) (h : P s) :
    P (s.performAtomic i a op wide v new sd) := by
  unfold State.performAtomic
  generalize (if wide then 8 else 4) = n
  dsimp only
  split
  · exact p.mild (.faultLate ..) (p.dropAcc i h)
  · refine iteInduction (motive := P) (fun _ => p.putAcc i _ (fun h => ?_) ?_) fun _ => p.returnAtomic a _ _ sd ha (p.dropAcc i ?_)
    · exact absurd h Bool.false_ne_true
    · exact p.known (.setCell ..) (p.atomicAt _ _ _ _ _ _ (p.known (.readCell ..) h))
    · exact p.known (.setCell ..) (p.atomicAt _ _ _ _ _ _ (p.known (.readCell ..) h))

/-! Those that come before (R233, R252). -/

theorem performOlder (i core place : Nat) (h : P s) : P (s.performOlder i core place) := by
  unfold State.performOlder
  refine foldl_keeps _ _ (fun t e he ht => ?_) s h
  obtain ⟨j, b⟩ := e
  have ha : b.atomic = true → ok b.who := p.atoms h (j, b) he
  dsimp only
  split
  · split
    · split
      · exact p.performStore _ _ _ ht
      · exact ht
    · split
      · exact p.fillLoad _ _ _ ht
      · exact ht
    · exact p.performWin _ _ _ _ _ _ ht
    · next hk => exact p.performAtomic _ _ _ _ _ _ _ (ha (by unfold Acc.atomic; rw [hk])) ht
    · exact ht
  · exact ht

theorem settleRow (n key place : Nat) (h : P s) : P (s.settleRow n key place) := by
  unfold State.settleRow
  refine foldl_keeps _ _ (fun t e he ht => ?_) s h
  obtain ⟨j, b⟩ := e
  dsimp only
  split
  · exact ht
  · split
    · cases hp : t.plain b.who.core key true false with
      | none => exact ht
      | some u => exact p.mild (.plain hp) ht
    · exact p.performOlder _ _ _ ht
    · exact ht

theorem plainStore {n key place : Nat} {eng : Bool} {t : State} (hp : s.plainStore n key place eng = some t) (h : P s) : P t :=
  p.mild (.plain hp) (p.settleRow n key place h)

theorem performUnlocks (n addr : Nat) (h : P s) : P (s.performUnlocks n addr) := by
  unfold State.performUnlocks
  refine foldl_keeps _ _ (fun t e he ht => ?_) s h
  obtain ⟨j, b⟩ := e
  dsimp only
  split
  · split
    · exact p.performOlder _ _ _ ht
    · exact ht
  · exact ht

/-! Page walks (R199, R334). -/

theorem reads : Reads P := ⟨p.read⟩

theorem walkFill (n x q va : Nat) (h : P s) : P (s.walkFill n x q va).1 := by
  unfold State.walkFill
  split
  · next e _ => exact p.mild (.modCore s n (fun c => { c with tlb := tlbAdd 256 c.tlb e }) fun _ => ⟨rfl, rfl, rfl, rfl, rfl⟩) h
  · have hw := p.reads.walk q va (p.mild (.perf s n 20 x none 1) h)
    dsimp only
    split
    · next hs => rwa [hs] at hw
    · next u b z sa w hs =>
      rw [hs] at hw
      exact p.mild (.trans (.modDie u _ (fun d => { d with tlb := tlbAdd 16384 d.tlb ⟨q, b, z, sa, w⟩ }) fun _ => rfl)
        (.modCore _ n (fun c => { c with tlb := tlbAdd 256 c.tlb ⟨q, b, z, sa, w⟩ }) fun _ => ⟨rfl, rfl, rfl, rfl, rfl⟩)) hw

theorem translate (n : Nat) (t : Task) (va : Nat) (h : P s) : P (s.translate n t va).1 := by
  unfold State.translate
  split
  · exact h
  · split
    · exact h
    · have hw := p.walkFill n ((s.core n).ctxNo t) t.part va (p.mild (.perf s n 19 ((s.core n).ctxNo t) none 1) h)
      dsimp only
      split <;> next hs => rwa [hs] at hw

/-! Rows as engines read them (R204, R252, R292). -/

theorem engTouch (n a : Nat) (store : Bool) (h : P s) : P (s.engTouch n a store) :=
  p.mild (.modCore _ n (fun c => { c with spmSeen := (2 * (a % 2 ^ 20 / 64) + (if store then 1 else 0)) :: c.spmSeen })
    fun _ => ⟨rfl, rfl, rfl, rfl, rfl⟩) (p.performOlder _ _ _ h)

theorem engPlain {chk : Bool} {n key place : Nat} {store : Bool} {t : State} (ht : s.engPlain chk n key place store = some t)
    (h : P s) : P t := by
  unfold State.engPlain at ht
  split at ht
  · cases ht
    exact h
  · split at ht
    · exact p.plainStore ht h
    · exact p.mild (.plain ht) h

theorem shaPlain {chk : Bool} {n sa : Nat} {store : Bool} {t : State} (ht : s.shaPlain chk n sa store = some t) (h : P s) :
    P t := by
  unfold State.shaPlain at ht
  split at ht
  · exact p.engPlain ht h
  · cases ht
    exact h

end Performs

/-- A property of the state that a row read by an engine leaves. -/
def EngRow.Keeps (P : State → Prop) : EngRow → Prop
  | .ok s _ _ => P s
  | .fail s _ _ => P s
  | .peer s _ => P s
  | .wait => True

/-- The same of rows at local addresses. -/
def LocalRows.Keeps (P : State → Prop) : LocalRows → Prop
  | .ok s _ _ => P s
  | .fail s _ _ _ => P s
  | .wait => True

theorem LocalRows.keeps_ok {P : State → Prop} {s : State} {d p : Nat} : (LocalRows.ok s d p).Keeps P ↔ P s := Iff.rfl

/-- The same of a row written by an engine. -/
def EngWrite.Keeps (P : State → Prop) : EngWrite → Prop
  | .ok s => P s
  | .fail s _ _ => P s
  | .peer s _ => P s
  | .wait => True

namespace Performs
variable {ok : Who → Prop} {P : State → Prop} (p : Performs ok P) {s : State}
include p

theorem spmRow (n : Nat) (t : Task) (a : Nat) (chk : Bool) (h : P s) : (s.spmRow n t a chk).Keeps P := by
  unfold State.spmRow
  split
  · exact h
  · next u hu =>
    have hr := p.spmRead n a t.tag (p.engPlain hu (p.engTouch n a false h))
    generalize u.spmRead n a t.tag = r at hr ⊢
    exact hr

theorem globRow (n : Nat) (t : Task) (va : Nat) (chk : Bool) (h : P s) : (s.globRow n t va chk).Keeps P := by
  have ht := p.translate n t va h
  unfold State.globRow
  split
  · next hs => rwa [hs] at ht
  · next u sa0 _ hs =>
    rw [hs] at ht
    dsimp only
    split
    · exact ht
    · split
      · exact ht
      · next v hv =>
        have hq := p.performOlder v.accNext n (sa0 / 64 * 64 / 64) (p.shaPlain hv ht)
        split
        · trivial
        · exact p.read _ _ hq

theorem localRow (n : Nat) (t : Task) (v : Nat) (chk : Bool) (h : P s) : (s.localRow n t v chk).Keeps P := by
  have hg := p.globRow n t v chk h
  unfold State.localRow
  split
  · split
    · exact h
    · exact p.spmRow _ _ _ _ h
  · split
    · next hs => rwa [hs] at hg
    · exact hg

theorem foreign (n : Nat) (t : Task) : ∀ (m : Nat) {s : State} (v len : Nat), P s → P (State.foreign n t m s v len).1
  | 0, _, _, _, h => h
  | m + 1, s, v, len, h => by
    have ht := p.translate n t v h
    unfold State.foreign
    split
    · exact h
    · dsimp only
      split
      · next hs =>
        rw [hs] at ht
        exact foreign n t m _ _ ht
      · next hs =>
        rw [hs] at ht
        split
        · exact ht
        · exact foreign n t m _ _ ht

theorem badLocal (n : Nat) (t : Task) (v len : Nat) (h : P s) : P (s.badLocal n t v len).1 := by
  unfold State.badLocal
  split
  · exact h
  · exact p.foreign _ _ _ _ _ h

theorem localRowsGo (n : Nat) (t : Task) : ∀ (m : Nat) {s : State} (v i : Nat), P s → (State.localRowsGo n t m s v i).Keeps P
  | 0, _, _, _, h => h
  | m + 1, s, v, i, h => by
    have hr := p.localRow n t v true h
    unfold State.localRowsGo
    split
    · next hs =>
      rw [hs] at hr
      have hg := localRowsGo n t m (v + 64) (i + 1) hr
      generalize State.localRowsGo n t m _ (v + 64) (i + 1) = r at hg ⊢
      cases r with
      | ok u d q => exact LocalRows.keeps_ok.2 hg
      | fail u c a i => exact hg
      | wait => trivial
    · next hs => rwa [hs] at hr
    · next hs => rwa [hs] at hr
    · trivial

theorem localRows (n : Nat) (t : Task) (m v : Nat) (h : P s) : (s.localRows n t m v).Keeps P := by
  have hb := p.badLocal n t v (64 * m) h
  unfold State.localRows
  split
  · next hs => rwa [hs] at hb
  · next hs =>
    rw [hs] at hb
    exact p.localRowsGo n t m v 0 hb

/-! Rows as engines write them (R206, R184, R308, R316). -/

theorem taskCir (n x : Nat) (t : Task) (b : Nat) (h : P s) : P (s.taskCir n x t b) := by
  unfold State.taskCir
  split
  · exact p.mild (.modCtx _ _ _ fun y => by unfold Ctx.setCir; split <;> exact ⟨rfl, rfl, rfl, rfl⟩) h
  · exact p.mild (.modCore s n _ fun _ => ⟨rfl, rfl, rfl, rfl, rfl⟩) h

theorem modInst (t : Task) (f : Inst → Inst) (h : P s) : P (s.modInst t f) :=
  p.mild (Mild.of_same (s := s) (t := s.modInst t f) rfl rfl rfl rfl rfl rfl) h

theorem signStore (t : Task) (va len d : Nat) (h : P s) : P (s.signStore t va len d) := by
  unfold State.signStore
  split
  · exact h
  · exact p.modInst _ _ h

theorem contain {t : Task} {sa va mask d q : Nat} {u : State} (hu : s.contain t sa va mask d q = .ok u) (h : P s) : P u := by
  unfold State.contain at hu
  split at hu
  · cases hu
  · dsimp only at hu
    split at hu
    · cases hu
    · split at hu
      · cases hu
      · cases hu
        generalize hi : State.modInst s t _ = s1
        have h1 : P s1 := hi ▸ p.modInst t _ h
        have h2 : ∀ (b : Bool) (n x : Nat), P (if b then s1.perf n 22 x none 1 else s1) := fun b n x =>
          iteInduction (motive := P) (fun _ => p.mild (.perf ..) h1) fun _ => h1
        exact iteInduction (motive := P) (fun _ => p.taskCir _ _ _ _ (h2 ..)) fun _ => h2 ..

theorem spmPut (n a mask d q : Nat) (chk : Bool) (h : P s) : (s.spmPut n a mask d q chk).Keeps P := by
  unfold State.spmPut
  split
  · exact h
  · next ht => exact p.known (.wipeCell ..) (p.spm _ _ _ _ _ (p.engPlain ht (p.engTouch _ _ _ h)))

theorem globPut (n : Nat) (t : Task) (va sa mask d q : Nat) (chk : Bool) (h : P s) :
    (s.globPut n t va sa mask d q chk).Keeps P := by
  unfold State.globPut
  split
  · split
    · next hc => exact p.contain hc h
    · exact h
    · trivial
  · split
    · exact h
    · split
      · exact h
      · next ht =>
        dsimp only
        split
        · trivial
        · exact p.known (.wipeCell ..) (p.write _ _ _ _ _ (p.performOlder _ _ _ (p.shaPlain ht h)))

end Performs

/-- A property that a write in parts leaves, unless it waits. -/
def PutKeeps (P : State → Prop) : Option (State × Nat × Nat × Bool) → Prop
  | some r => P r.1
  | none => True

namespace Performs
variable {ok : Who → Prop} {P : State → Prop} (p : Performs ok P) {s : State}
include p

theorem putLocal (chk : Bool) (n : Nat) (t : Task) (base v : Nat) : ∀ (l : List (Nat × Nat)) {s : State}, P s →
    PutKeeps P (State.putLocal chk n t base v l s)
  | [], _, h => h
  | (a, k) :: rest, s, h => by
    have ih : ∀ {u : State} (b : Bool) (x : Nat), P u →
        PutKeeps P (State.putLocal chk n t base v rest (if b then u.signStore t a k x else u)) := fun b x hu =>
      putLocal chk n t base v rest (iteInduction (motive := P) (fun _ => p.signStore _ _ _ _ hu) fun _ => hu)
    have go : ∀ {r : EngWrite} (b : Bool) (x : Nat), r.Keeps P → PutKeeps P (match r with
        | .ok s => State.putLocal chk n t base v rest (if b then s.signStore t a k x else s)
        | .fail s c b => some (s, c, b, s.engAt n t c a)
        | .peer s _ => some (s, fTranslation, a, false)
        | .wait => none) := fun {r} b x hr => by
      cases r with
      | ok u => exact ih b x hr
      | fail u c d => exact hr
      | peer u d => exact hr
      | wait => trivial
    unfold State.putLocal
    dsimp only
    split
    · split
      · trivial
      · exact go _ _ (p.spmPut _ _ _ _ _ _ h)
    · have ht := p.translate n t a h
      split
      · next hs => rw [hs] at ht; exact ht
      · next hs =>
        rw [hs] at ht
        split
        · exact ht
        · split
          · exact ht
          · exact go _ _ (p.globPut _ _ _ _ _ _ _ _ ht)

theorem putPieces (n : Nat) (t : Task) : ∀ (l : List (Nat × List Byte)) {s : State}, P s → PutKeeps P (State.putPieces n t l s)
  | [], _, h => h
  | (a, l) :: rest, s, h => by
    have hl := p.putLocal true n t a (natOfBytes l) (partsOf a l.length) h
    unfold State.putPieces
    generalize State.putLocal true n t a (natOfBytes l) (partsOf a l.length) s = r at hl
    split
    · exact putPieces n t rest hl
    · exact hl

end Performs

/-! Such properties. -/

theorem memBlind_cur : MemBlind State.cur := ⟨fun _ _ _ _ _ _ _ _ _ => rfl⟩
theorem memBlind_cores : MemBlind State.cores := ⟨fun _ _ _ _ _ _ _ _ _ => rfl⟩
theorem memBlind_devId : MemBlind State.devId := ⟨fun _ _ _ _ _ _ _ _ _ => rfl⟩
theorem memBlind_accs : MemBlind State.accs := ⟨fun _ _ _ _ _ _ _ _ _ => rfl⟩

theorem spmEvents_fld {α : Type} (g : State → α) (hg : ∀ s l, g { s with errEvts := l } = g s) (s : State) (n tag : Nat)
    (evs : List (Nat × BitVec 7 × Bool)) : g (s.spmEvents n tag evs) = g s :=
  foldl_fld g _ (fun s _ => hg s _) evs s

theorem spmRead_fld {α : Type} (g : State → α) (hg : ∀ s l, g { s with errEvts := l } = g s)
    (hs : ∀ s n m y, g (State.modCore s n fun c => { c with spm := m, syn := y }) = g s) (s : State) (n a tag : Nat) :
    g (s.spmRead n a tag).1 = g s := by
  unfold State.spmRead
  dsimp only
  split
  · rfl
  · generalize eccRead 16 (s.core n).spm (s.core n).syn (a % 2 ^ 20 / 64 * 64) = r
    exact (spmEvents_fld g hg _ _ _ _).trans (hs s n _ _)

theorem spmRead_coreFld {α : Type} (g : Core → α) (hg : ∀ c m y, g { c with spm := m, syn := y } = g c) (s : State)
    (n a tag m : Nat) : g ((s.spmRead n a tag).1.core m) = g (s.core m) :=
  spmRead_fld (fun s => g (s.core m)) (fun _ _ => rfl) (fun s n _ _ => coreFld_modCore g s n m _ fun c => hg c _ _) s n a tag

/-- The cluster whose turn it is stays. -/
theorem performs_cur (k : Who) : Performs (fun _ => True) fun t => t.cur = k where
  spmRead _ _ _ h := (spmRead_fld State.cur (fun _ _ => rfl) (fun _ _ _ _ => rfl) ..).trans h
  mild m h := m.cur.trans h
  atoms _ _ _ _ := trivial
  accs _ _ h := h
  read _ _ h := (memBlind_cur.sysRead ..).trans h
  write _ _ _ _ _ h := (memBlind_cur.sysWrite ..).trans h
  words _ _ _ h := (memBlind_cur.shaWords ..).trans h
  host _ _ _ h := h
  spm _ _ _ _ _ h := h
  returns _ _ _ _ h := h

theorem spmWrite_coreFld {α : Type} (g : Core → α) (hg : ∀ c m y, g { c with spm := m, syn := y } = g c) (s : State)
    (n a mask data pois m : Nat) : g ((s.spmWrite n a mask data pois).core m) = g (s.core m) :=
  coreFld_modCore g s n m _ fun c => hg c _ _

/-- The device keeps its identifier. -/
theorem performs_devId (n : Nat) : Performs (fun _ => True) fun t => t.devId = n where
  spmRead _ _ _ h := (spmRead_fld State.devId (fun _ _ => rfl) (fun _ _ _ _ => rfl) ..).trans h
  mild m h := m.devId.trans h
  atoms _ _ _ _ := trivial
  accs _ _ h := h
  read _ _ h := (memBlind_devId.sysRead ..).trans h
  write _ _ _ _ _ h := (memBlind_devId.sysWrite ..).trans h
  words _ _ _ h := (memBlind_devId.shaWords ..).trans h
  host _ _ _ h := h
  spm _ _ _ _ _ h := h
  returns _ _ _ _ h := h

/-- A core keeps its power. -/
theorem performs_power (n : Nat) (w : Power) : Performs (fun _ => True) fun t => (t.core n).power = w where
  spmRead m a tag h := (spmRead_coreFld Core.power (fun _ _ _ => rfl) _ m a tag n).trans h
  mild m h := (m.power n).trans h
  atoms _ _ _ _ := trivial
  accs _ _ h := h
  read _ _ h := (congrArg (fun c => (tblGet Core.reset c n).power) (memBlind_cores.sysRead ..)).trans h
  write _ _ _ _ _ h := (congrArg (fun c => (tblGet Core.reset c n).power) (memBlind_cores.sysWrite ..)).trans h
  words _ _ _ h := (congrArg (fun c => (tblGet Core.reset c n).power) (memBlind_cores.shaWords ..)).trans h
  host _ _ _ h := h
  spm m a mask data pois h := (spmWrite_coreFld Core.power (fun _ _ _ => rfl) _ m a mask data pois n).trans h
  returns k _ _ _ h := (coreFld_modCtx Core.power (fun _ _ _ => rfl) _ k _ n).trans h

/-- A core keeps its engines. -/
theorem performs_eng {α : Type} (g : Core → α) (hg : ∀ c d : Core, d.eng = c.eng → g d = g c) (n : Nat) (v : α) :
    Performs (fun _ => True) fun t => g (t.core n) = v where
  spmRead m a tag h := (hg _ _ (spmRead_coreFld Core.eng (fun _ _ _ => rfl) _ m a tag n)).trans h
  mild m h := (hg _ _ (m.eng n)).trans h
  atoms _ _ _ _ := trivial
  accs _ _ h := h
  read _ _ h := (congrArg (fun c => g (tblGet Core.reset c n)) (memBlind_cores.sysRead ..)).trans h
  write _ _ _ _ _ h := (congrArg (fun c => g (tblGet Core.reset c n)) (memBlind_cores.sysWrite ..)).trans h
  words _ _ _ h := (congrArg (fun c => g (tblGet Core.reset c n)) (memBlind_cores.shaWords ..)).trans h
  host _ _ _ h := h
  spm m a mask data pois h := (hg _ _ (spmWrite_coreFld Core.eng (fun _ _ _ => rfl) _ m a mask data pois n)).trans h
  returns k _ _ _ h := (hg _ _ (coreFld_modCtx Core.eng (fun _ _ _ => rfl) _ k _ n)).trans h

/-- A context keeps what it owns. -/
theorem performs_own {α : Type} (g : Ctx → α) (hg : ∀ x y : Ctx, y.own = x.own → g y = g x) (k : Who) (v : α) :
    Performs (fun _ => True) fun t => g (t.ctxOf k) = v where
  spmRead n a tag h := (hg _ _ (spmRead_coreFld (fun c => (c.ctx k.ctx).own) (fun _ _ _ => rfl) _ n a tag k.core)).trans h
  mild m h := (hg _ _ (m.own k)).trans h
  atoms _ _ _ _ := trivial
  accs _ _ h := h
  read _ _ h := (congrArg (fun c => g ((tblGet Core.reset c k.core).ctx k.ctx)) (memBlind_cores.sysRead ..)).trans h
  write _ _ _ _ _ h := (congrArg (fun c => g ((tblGet Core.reset c k.core).ctx k.ctx)) (memBlind_cores.sysWrite ..)).trans h
  words _ _ _ h := (congrArg (fun c => g ((tblGet Core.reset c k.core).ctx k.ctx)) (memBlind_cores.shaWords ..)).trans h
  host _ _ _ h := h
  spm n a m d q h := (hg _ _ (spmWrite_coreFld (fun c => (c.ctx k.ctx).own) (fun _ _ _ => rfl) _ n a m d q k.core)).trans h
  returns _ _ _ _ h := (hg _ _ (ctxFld_modClu Ctx.own (fun _ _ _ => rfl) _ _ _ k)).trans h

theorem performs_task (k : Who) (o : Option Task) : Performs (fun _ => True) fun t => (t.ctxOf k).task = o :=
  performs_own Ctx.task (fun _ _ => congrArg Prod.fst) k o

theorem clu_of_cores {s t : State} (h : t.cores = s.cores) (k : Who) : t.clu k = s.clu k := by
  unfold State.clu State.ctxOf State.core
  rw [h]

theorem spmWrite_clu (s : State) (n a mask data pois : Nat) (k : Who) : (s.spmWrite n a mask data pois).clu k = s.clu k :=
  clu_modCore s n _ k fun _ => rfl

/-- A cluster keeps its address registers. -/
theorem performs_areg (k : Who) (v : Tbl Word) : Performs (fun _ => True) fun t => (t.clu k).a = v where
  spmRead n a tag h := (spmRead_coreFld (fun c => ((c.ctx k.ctx).clu k.clu).a) (fun _ _ _ => rfl) _ n a tag k.core).trans h
  mild m h := by
    have := m.quiet.regs k
    simp only [Cluster.regs, Prod.mk.injEq] at this
    exact this.2.2.2.2.2.1.trans h
  atoms _ _ _ _ := trivial
  accs _ _ h := h
  read _ _ h := (congrArg Cluster.a (clu_of_cores (memBlind_cores.sysRead ..) k)).trans h
  write _ _ _ _ _ h := (congrArg Cluster.a (clu_of_cores (memBlind_cores.sysWrite ..) k)).trans h
  words _ _ _ h := (congrArg Cluster.a (clu_of_cores (memBlind_cores.shaWords ..) k)).trans h
  host _ _ _ h := h
  spm n a mask data pois h := (congrArg Cluster.a (spmWrite_clu _ n a mask data pois k)).trans h
  returns j sd v _ h := (cluFld_modClu Cluster.a _ k j _ fun c => by unfold Cluster.newest Cluster.setS; split <;> rfl).trans h

/-- Memories keep their canonical form (log 51). -/
theorem performs_wf : Performs (fun _ => True) fun t => t.memWf = true where
  spmRead _ _ _ h := spmRead_wf _ _ _ _ h
  mild m := m.quiet.wf
  atoms _ _ _ _ := trivial
  accs _ _ h := h
  read _ _ h := sysRead_wf _ _ _ h
  write _ _ _ _ _ h := sysWrite_wf _ _ _ _ _ _ h
  words := fun {s} sa n _ h => memWf_of_same _ _ (shaEvents_same ..).1 (shaEvents_same ..).2
    (memWf_mem s _ rfl (eccRead_wf (n / 4) _ s.shaSyn sa ((memWf_iff s).1 h).1) h)
  host := fun {s} a n v h => memWf_mem s _ rfl (Mem.writeN_wf n _ a v ((memWf_iff s).1 h).1) h
  spm _ _ _ _ _ h := spmWrite_wf _ _ _ _ _ _ h
  returns _ _ _ _ h := memWf_modClu _ _ _ h

end Sys2Proof.Machine
end

section
/-! SUPPORT. Loads and stores of the scratchpad (R205 to R210, R225 to R227, R252). -/

namespace Sys2Proof.Machine

/-! The die window (R204, R208, R388). -/

theorem wakeCore_fld {α : Type} (g : State → α) (hg : ∀ s n (f : Core → Core), (∀ c, ∃ p w, f c = { c with power := p, wake := w }) →
    g (State.modCore s n f) = g s) (s : State) (n : Nat) : g (s.wakeCore n) = g s := by
  unfold State.wakeCore
  split
  · rfl
  · exact hg s n _ fun c => ⟨_, c.wake, rfl⟩
  · exact hg s n _ fun c => ⟨c.power, _, rfl⟩

theorem wakeCore_off (s : State) (n m : Nat) : ((s.wakeCore n).core m).power = .off ↔ (s.core m).power = .off := by
  unfold State.wakeCore
  split
  · rfl
  · next h =>
    rw [core_modCore]
    split
    · next e => rw [e, h]; simp
    · rfl
  · next h =>
    rw [core_modCore]
    split
    · next e => rw [e]
    · rfl

theorem wakeCore_cur (s : State) (n : Nat) : (s.wakeCore n).cur = s.cur := wakeCore_fld State.cur (fun _ _ _ _ => rfl) s n
theorem wakeCore_clu (s : State) (n : Nat) (k : Who) : (s.wakeCore n).clu k = s.clu k :=
  wakeCore_fld (State.clu · k) (fun s n f hf => clu_modCore s n f k fun c => by obtain ⟨p, w, e⟩ := hf c; rw [e]) s n

/-- A sleeping core has been sent its wake message. -/
theorem wakeCore_wakes {s : State} {n : Nat} (h : (s.core n).power = .off) : ((s.wakeCore n).core n).wake = true := by
  unfold State.wakeCore
  rw [h]
  dsimp only
  rw [core_modCore, if_pos rfl]

theorem windowWakes_cur (s : State) (n : Nat) (win : Bool) : (s.windowWakes n win).cur = s.cur := by
  unfold State.windowWakes
  split
  · exact wakeCore_cur s n
  · rfl

theorem windowWakes_clu (s : State) (n : Nat) (win : Bool) (k : Who) : (s.windowWakes n win).clu k = s.clu k := by
  unfold State.windowWakes
  split
  · exact wakeCore_clu s n k
  · rfl

theorem windowWakes_off (s : State) (n : Nat) (win : Bool) (m : Nat) :
    ((s.windowWakes n win).core m).power = .off ↔ (s.core m).power = .off := by
  unfold State.windowWakes
  split
  · exact wakeCore_off s n m
  · rfl

theorem spmAddr_congr {s t : State} (h : t.cur = s.cur) (a : Word) : t.spmAddr a = s.spmAddr a := by
  unfold State.spmAddr
  rw [h]

@[simp] theorem taken_spmAddr (s : State) (h : Hdr) (a : Word) : (s.taken h).spmAddr a = s.spmAddr a := spmAddr_congr (taken_cur s h) a
@[simp] theorem taken_corePower (s : State) (h : Hdr) (n : Nat) : ((s.taken h).core n).power = (s.core n).power :=
  taken_coreFld Core.power (fun _ _ _ => rfl) s h n

/-- A word whose row its core reaches now acts (R204, R388). -/
theorem atWindow_go {s : State} {a : Word} {n : Nat} {win checked : Bool} (act : Act) (ha : s.spmAddr a = some (n, win))
    (hw : win = true → (s.core n).power ≠ .off ∧ (checked = true → s.me.barGo = true)) : s.atWindow a checked act = act := by
  unfold State.atWindow
  rw [ha]
  cases win with
  | false => rfl
  | true =>
    obtain ⟨hp, hb⟩ := hw rfl
    refine (if_neg hp).trans (if_neg ?_)
    cases checked with
    | false => simp
    | true => simp [hb rfl]

/-- A word that meets a sleeping core wakes it and waits; a plain one waits for the end of the cc (R204, R388). -/
theorem atWindow_waits {s : State} {a : Word} {n : Nat} {w : Wait} {checked : Bool} (act : Act) (ha : s.spmAddr a = some (n, true))
    (hw : (s.core n).power = .off ∧ w = .wake ∨ (s.core n).power ≠ .off ∧ s.me.barGo = false ∧ checked = true ∧ w = .cirEnd) :
    s.atWindow a checked act = .stall w (if (s.core n).power = .off then s.wakeCore n else s) := by
  unfold State.atWindow
  rw [ha]
  obtain ⟨hp, rfl⟩ | ⟨hp, hb, rfl, rfl⟩ := hw
  · rw [if_pos hp]
    exact if_pos hp
  · rw [if_neg hp]
    exact (if_neg hp).trans (if_pos (by rw [hb]; rfl))

/-- A plain load of a row that no other core has open goes on as it is (R252). -/
theorem plain_load {s : State} {key : Nat} (h : s.rowFree key) : s.plain s.cur.core key false false = some s := by
  unfold State.plain
  split
  · next o _ ho => exact if_pos (h _ ho)
  · rfl

/-- A load goes on with its row as the core finds it (R205, R207, R252). -/
theorem spmGet_go {s : State} {a : Word} {n : Nat} {win checked : Bool} (f : State → Nat → Nat → Nat → Act)
    (ha : s.spmAddr a = some (n, win)) (hw : win = true → (s.core n).power ≠ .off ∧ (checked = true → s.me.barGo = true))
    (hr : checked = true → ((s.windowWakes n win).loadingRow a n).rowFree (spmKey n a.toNat)) :
    s.spmGet a checked f =
      f (s.loadedRow a n win).s (s.loadedRow a n win).data (s.loadedRow a n win).pois (s.loadedRow a n win).late := by
  unfold State.spmGet
  rw [ha]
  dsimp only
  rw [atWindow_go _ ha hw]
  have hp : (if checked then ((s.windowWakes n win).loadingRow a n).plain ((s.windowWakes n win).loadingRow a n).cur.core
      (spmKey n a.toNat) false false else some ((s.windowWakes n win).loadingRow a n)) =
      some ((s.windowWakes n win).loadingRow a n) := by
    split
    · next hc => exact plain_load (hr hc)
    · rfl
  unfold State.loadedRow
  generalize ht : (s.windowWakes n win).loadingRow a n = t at hp ⊢
  unfold State.loadingRow State.settledRow at ht
  rw [ht, hp]
  dsimp only
  generalize (if win then { t with free := t.free + 1 } else t) = u
  cases (if win then (u.core n).spmWas.find? fun e => e.row = a.toNat % 2 ^ 20 / 64 else none) with
  | none => rfl
  | some e => rfl

/-! Loads (R225, R226). -/

theorem rowsOf_length (n : Nat) : ∀ v, (rowsOf n v).length = n := by
  induction n with
  | zero => intro v; rfl
  | succ n ih => intro v; exact congrArg (· + 1) (ih _)

theorem convert_length (f : Fill) (d : Nat) : (f.convert d).1.length = loadRows f.code := by
  unfold Fill.convert
  split
  · next h => rw [h]; rfl
  · exact rowsOf_length _ _

/-- A queue load with room lands its rows (R225, R226). -/
theorem loadQueue_go {s : State} {q n m : Nat} {a b : BitVec 5} {win checked : Bool} (cir : Nat → Nat) (g : Nat → List Nat)
    (hroom : roomRows (s.myCtx.lrows q) n = true) (ha : s.spmAddr (s.me.areg a.toNat) = some (m, win))
    (hw : win = true → (s.core m).power ≠ .off ∧ (checked = true → s.me.barGo = true))
    (hr : checked = true → ((s.windowWakes m win).loadingRow (s.me.areg a.toNat) m).rowFree (spmKey m (s.me.areg a.toNat).toNat))
    (hg : ∀ d, (g d).length = n) :
    s.loadQueue q n a b checked cir g = .done ((s.loadedRow (s.me.areg a.toNat) m win).queuesRows q
      (g (s.loadedRow (s.me.areg a.toNat) m win).data) (cir (s.loadedRow (s.me.areg a.toNat) m win).data) a b) .seq := by
  unfold State.loadQueue
  rw [if_neg (by simp [hroom]), spmGet_go _ ha hw hr]
  unfold Loaded.queuesRows
  rw [hg]
  rfl

/-- A queue load that meets the window first waits (R204, R388). -/
theorem loadQueue_waits {s : State} {q n m : Nat} {a b : BitVec 5} {w : Wait} {checked : Bool} (cir : Nat → Nat)
    (g : Nat → List Nat) (hroom : roomRows (s.myCtx.lrows q) n = true) (ha : s.spmAddr (s.me.areg a.toNat) = some (m, true))
    (hw : (s.core m).power = .off ∧ w = .wake ∨ (s.core m).power ≠ .off ∧ s.me.barGo = false ∧ checked = true ∧ w = .cirEnd) :
    s.loadQueue q n a b checked cir g = .stall w (if (s.core m).power = .off then s.wakeCore m else s) := by
  unfold State.loadQueue State.spmGet
  rw [if_neg (by simp [hroom]), ha]
  exact atWindow_waits _ ha hw

theorem wakeIf_me (c : Prop) [Decidable c] (s : State) (n : Nat) : (if c then s.wakeCore n else s).me = s.me := by
  split
  · unfold State.me
    rw [wakeCore_cur, wakeCore_clu]
  · rfl

/-- What a word that waits at the window leaves: its cluster where it was, and a sleeping core with a wake message. -/
theorem stall_waits {s : State} {i : Instr} {h : Hdr} {m : Meaning} {n : Nat} {w : Wait} (k : s.Issues i h)
    (e : m.act (s.taken h) = .stall w (if ((s.taken h).core n).power = .off then (s.taken h).wakeCore n else s.taken h)) :
    ∃ t, runWord i h m s = .next t ∧ t.me.wait = some w ∧ t.me.pc = s.me.pc ∧
      ((s.core n).power = .off → (t.core n).wake = true) := by
  have hme : (if ((s.taken h).core n).power = .off then (s.taken h).wakeCore n else s.taken h).me = s.me :=
    (wakeIf_me _ _ _).trans (taken_me s h)
  have hwake : (s.core n).power = .off →
      ((if ((s.taken h).core n).power = .off then (s.taken h).wakeCore n else s.taken h).core n).wake = true := fun hp => by
    have hp' : ((s.taken h).core n).power = .off := (taken_corePower s h n).trans hp
    rw [if_pos hp']
    exact wakeCore_wakes hp'
  generalize (if ((s.taken h).core n).power = .off then (s.taken h).wakeCore n else s.taken h) = u at e hme hwake
  refine ⟨_, runWord_stall s i h m w u k e, ?_, ?_, fun hp => ?_⟩
  · rw [stalled_me]
  · rw [stalled_me, hme]
  · unfold State.stallOn State.modMe State.modMyCtx
    exact (coreFld_modCtx Core.wake (fun _ _ _ => rfl) _ _ _ n).trans
      ((coreFld_modCtx Core.wake (fun _ _ _ => rfl) _ _ _ n).trans (hwake hp))

theorem laterBy_cur (s : State) (extra cls : Nat) (res : List Res) : (s.laterBy extra cls res).cur = s.cur := by
  unfold State.laterBy
  split <;> rfl

theorem queuesRows_cur (r : Loaded) (q : Nat) (rows : List Nat) (cir : Nat) (a b : BitVec 5) :
    (r.queuesRows q rows cir a b).cur = r.s.cur := (laterBy_cur ..).trans (laterBy_cur ..)

theorem loadedRow_cur (s : State) (a : Word) (n : Nat) (win : Bool) : (s.loadedRow a n win).s.cur = s.cur := by
  have h0 : ((s.windowWakes n win).loadingRow a n).cur = s.cur := by
    unfold State.loadingRow State.settledRow
    exact ((KnownOnly.loadCell ..).fld State.cur fun _ _ => rfl).trans ((performs_cur s.cur).performOlder _ _ _ (windowWakes_cur s n win))
  unfold State.loadedRow
  generalize (s.windowWakes n win).loadingRow a n = t at h0 ⊢
  have h1 : (if win then { t with free := t.free + 1 } else t).cur = s.cur := by
    split
    · exact h0
    · exact h0
  dsimp only
  generalize (if win then { t with free := t.free + 1 } else t) = u at h1 ⊢
  split
  · unfold State.sawOld
    split
    · exact h1
    · exact (spmEvents_fld State.cur (fun _ _ => rfl) _ _ _ _).trans h1
  · exact (spmRead_fld State.cur (fun _ _ => rfl) (fun _ _ _ _ => rfl) _ _ _ _).trans h1

/-- Settles O11. -/
theorem scratchpadLoadsReadTheirRow : Obligations.ScratchpadLoadsReadTheirRow := by
  refine ⟨?_, ?_, ?_⟩
  · intro s h md q a b d c m n win ad r ha hr hw
    have hr' : ∀ c : Bool, c = true → (((s.taken h).windowWakes n win).loadingRow ((s.taken h).me.areg a.toNat) n).rowFree
        (spmKey n ((s.taken h).me.areg a.toNat).toNat) := fun _ _ => by rw [taken_me]; exact hr
    have ha' : (s.taken h).spmAddr ((s.taken h).me.areg a.toNat) = some (n, win) := by rw [taken_spmAddr, taken_me]; exact ha
    have hw' : win = true → ((s.taken h).core n).power ≠ .off ∧ (true = true → (s.taken h).me.barGo = true) := fun e => by
      rw [taken_corePower, taken_me]
      exact ⟨(hw e).2, fun _ => (hw e).1⟩
    have hq {k : Nat} (hroom : roomRows (s.myCtx.lrows q.toNat) k = true) : roomRows ((s.taken h).myCtx.lrows q.toNat) k = true := by
      rw [taken_myLrows]; exact hroom
    refine ⟨fun k hroom => runWord_done s _ h _ _ _ k ?_, fun k hroom => runWord_done s _ h _ _ _ k ?_,
      fun k hroom => runWord_done s _ h _ _ _ k ?_, fun k => runWord_done s _ h _ _ _ k ?_, fun k => runWord_done s _ h _ _ _ k ?_⟩
    · refine (loadQueue_go _ _ (hq hroom) ha' hw' (hr' true) fun _ => rfl).trans ?_
      rw [taken_me]
    · refine (loadQueue_go _ _ (hq hroom) ha' hw' (hr' true) fun _ => rfl).trans ?_
      rw [taken_me]
    · have hf (f : Fill) (hc : f.code = c.toNat) (d : Nat) : (f.convert d).1.length = loadRows c.toNat :=
        (convert_length f d).trans (by rw [hc])
      refine (congrArg (Act.also _) (loadQueue_go _ _ (hq hroom) ha' hw' (hr' true) (hf _ rfl))).trans ?_
      rw [taken_me]
      unfold State.fillOf
      rw [taken_me]
      rfl
    · rw [meaning_act]
      dsimp only
      rw [spmGet_go _ ha' hw' (hr' true), taken_me]
      have e : bitsN ad.toNat 3 3 = ad.toNat / 8 % 8 := congrArg (· % 8) (Nat.shiftRight_eq_div_pow _ 3)
      rw [e]
      rfl
    · rw [meaning_act]
      rw [spmGet_go _ ha' hw' (hr' true), taken_me]
      rfl
  · intro s h md c d a b q m n w off waits ha hw
    have ha' : (s.taken h).spmAddr ((s.taken h).me.areg a.toNat) = some (n, true) := by rw [taken_spmAddr, taken_me]; exact ha
    have hw' : ((s.taken h).core n).power = .off ∧ w = .wake ∨
        ((s.taken h).core n).power ≠ .off ∧ (s.taken h).me.barGo = false ∧ true = true ∧ w = .cirEnd := by
      rw [taken_corePower, taken_me]
      exact hw.imp id fun ⟨hp, hb, e⟩ => ⟨hp, hb, rfl, e⟩
    have hq {k : Nat} (hroom : roomRows (s.myCtx.lrows q.toNat) k = true) : roomRows ((s.taken h).myCtx.lrows q.toNat) k = true := by
      rw [taken_myLrows]; exact hroom
    have get (f : State → Nat → Nat → Nat → Act) : (s.taken h).spmGet ((s.taken h).me.areg a.toNat) true f =
        .stall w (if ((s.taken h).core n).power = .off then (s.taken h).wakeCore n else s.taken h) := by
      unfold State.spmGet
      rw [ha']
      exact atWindow_waits _ ha' hw'
    refine ⟨fun k hroom => stall_waits k (loadQueue_waits _ _ (hq hroom) ha' hw'),
      fun k hroom => stall_waits k (congrArg (Act.also _) (loadQueue_waits _ _ (hq hroom) ha' hw')),
      fun k hroom => stall_waits k (loadQueue_waits _ _ (hq hroom) ha' hw'), fun k => stall_waits k ?_,
      fun k => stall_waits k ?_, fun k hoff => stall_waits k ?_⟩
    · rw [meaning_act]
      exact get _
    · rw [meaning_act]
      exact get _
    · have hw0 : w = .wake := hw.elim (fun h => h.2) fun h => absurd hoff h.1
      rw [meaning_act]
      dsimp only
      rw [ha']
      exact atWindow_waits _ ha' (.inl ⟨(taken_corePower s h n).trans hoff, hw0⟩)
  · intro s h q a b n win ad u r t ha hw k hroom
    have hcur : u.cur = s.cur := (performs_cur s.cur).performUnlocks n ad.toNat ((windowWakes_cur _ _ _).trans (taken_cur s h))
    have hareg : u.me.areg a.toNat = ad := by
      have := (performs_areg s.cur s.me.a).performUnlocks n ad.toNat (s := (s.taken h).windowWakes n win)
        (congrArg Cluster.a ((windowWakes_clu _ _ _ _).trans (taken_clu s h s.cur)))
      unfold State.me Cluster.areg
      rw [hcur, this]
      rfl
    have hpow : win = true → (u.core n).power ≠ .off := fun e => by
      have := (performs_power n _).performUnlocks n ad.toNat (s := (s.taken h).windowWakes n win) rfl
      rw [this, Ne, windowWakes_off, taken_corePower]
      exact hw e
    have hq : u.loadQueue q.toNat 1 a b false (fun _ => 0) (fun d => [d]) = .done t .seq := by
      refine (loadQueue_go (checked := false) (win := win) (m := n) (fun _ => 0) (fun d => [d]) hroom ?_
        (fun e => ⟨hpow e, fun h => (nomatch h)⟩) (fun h => (nomatch h)) fun _ => rfl).trans ?_
      · rw [hareg, spmAddr_congr hcur]
        exact ha
      · rw [hareg]
    have ha' : (s.taken h).spmAddr ad = some (n, win) := (taken_spmAddr s h ad).trans ha
    have hw' : win = true → ((s.taken h).core n).power ≠ .off ∧ (false = true → (s.taken h).me.barGo = true) := fun e =>
      ⟨fun h' => hw e ((taken_corePower s h n).symm.trans h'), fun h => nomatch h⟩
    have hme : ((s.taken h).cur.core, (s.taken h).cur.ctx) = (s.cur.core, s.cur.ctx) := by rw [taken_cur]
    refine ⟨fun hl => runWord_done s _ h _ _ _ k ?_, fun hl => runWord_done s _ h _ _ _ k ?_⟩
    · rw [meaning_act]
      dsimp only
      rw [taken_me, ha']
      dsimp only
      rw [atWindow_go _ ha' hw', hl]
      dsimp only
      rw [hq, hme]
      have htc : t.cur = s.cur := (queuesRows_cur _ _ _ _ _ _).trans ((loadedRow_cur u _ _ _).trans hcur)
      dsimp only
      rw [htc]
    · rw [meaning_act]
      dsimp only
      rw [taken_me, ha']
      dsimp only
      rw [atWindow_go _ ha' hw', hl]
      dsimp only
      rw [hme, if_pos rfl, hq]

end Sys2Proof.Machine
end

section
/-! SUPPORT. Stores of the scratchpad (R205 to R210, R225 to R227, R253). -/

namespace Sys2Proof.Machine

/-! Stores (R205, R208, R225). -/

theorem windowWakes_fld {α : Type} (g : State → α) (hg : ∀ s n (f : Core → Core), (∀ c, ∃ p w, f c = { c with power := p, wake := w }) →
    g (State.modCore s n f) = g s) (s : State) (n : Nat) (win : Bool) : g (s.windowWakes n win) = g s := by
  unfold State.windowWakes
  split
  · exact wakeCore_fld g hg s n
  · rfl

theorem windowWakes_ctxOf (s : State) (n : Nat) (win : Bool) (k : Who) : (s.windowWakes n win).ctxOf k = s.ctxOf k :=
  windowWakes_fld (State.ctxOf · k) (fun s n f hf => ctxOf_modCore s n f k fun c => by obtain ⟨p, w, e⟩ := hf c; rw [e]) s n win

theorem myTask_congr {s t : State} (hc : t.cur = s.cur) (hx : (t.ctxOf s.cur).task = (s.ctxOf s.cur).task) : t.myTask = s.myTask := by
  unfold State.myTask State.taskOf
  rw [hc, hx]

theorem windowWakes_task (s : State) (n : Nat) (win : Bool) : (s.windowWakes n win).myTask = s.myTask :=
  myTask_congr (windowWakes_cur s n win) (by rw [windowWakes_ctxOf])

theorem storeWindow_go {s : State} {a : Word} {n : Nat} {win checked : Bool} (act : Act) (ha : s.spmAddr a = some (n, win))
    (hw : win = true → (s.core n).power ≠ .off ∧ (checked = true → s.me.barGo = true)) : s.storeWindow a checked act = act := by
  unfold State.storeWindow
  split
  · rfl
  · exact atWindow_go act ha hw

theorem storeWindow_waits {s : State} {a : Word} {n : Nat} {w : Wait} {checked : Bool} (act : Act) (hc : s.myTask.cls = 0)
    (ha : s.spmAddr a = some (n, true))
    (hw : (s.core n).power = .off ∧ w = .wake ∨ (s.core n).power ≠ .off ∧ s.me.barGo = false ∧ checked = true ∧ w = .cirEnd) :
    s.storeWindow a checked act = .stall w (if (s.core n).power = .off then s.wakeCore n else s) :=
  (if_neg (Classical.not_not.2 hc)).trans (atWindow_waits act ha hw)

/-- A row that is free of other cores' stores opens (R252). -/
theorem plainStore_opens {s : State} {key place : Nat} (h : s.storeFree key place) :
    s.plainStore s.cur.core key place false = some (s.opensRow key place) := by
  have hs : (s.plainStore s.cur.core key place false).isSome = true := by
    have hc : (s.settleRow s.cur.core key place).cur = s.cur := (performs_cur s.cur).settleRow _ _ _ rfl
    unfold State.plainStore State.plain
    split
    · next o _ ho => rw [if_pos ((h _ ho).trans (congrArg Who.core hc))]; rfl
    · rfl
  obtain ⟨u, hu⟩ := Option.isSome_iff_exists.1 hs
  unfold State.opensRow
  rw [hu]
  rfl

theorem settleRow_cur (s : State) (n key place : Nat) : (s.settleRow n key place).cur = s.cur :=
  (performs_cur s.cur).settleRow n key place rfl

theorem openFor_free {s : State} {key : Nat} (h : s.rowFree key) : s.openFor s.cur.core key = false := by
  unfold State.openFor
  split
  · next o _ ho => exact decide_eq_false (Classical.not_not.2 (h _ ho))
  · rfl

/-- A plain store whose row is free goes to its row, which is open for the core from then on (R205, R208, R252). -/
theorem storeSpm_go {s : State} {a : Word} {n data : Nat} {win : Bool} {bins : List (Nat × Nat)} (f : State → Act)
    (ha : s.spmAddr a = some (n, win)) (hc : win = true → s.myTask.cls = 0)
    (hf : s.storeFree (spmKey n a.toNat) (2 ^ 64 + spmKey n a.toNat)) :
    s.storeSpm a true false data bins f = f (s.storesOpenRow n win a data bins) := by
  unfold State.storeSpm
  rw [ha]
  cases win with
  | false =>
    dsimp only
    rw [if_neg (by simp), if_neg (by simp), if_pos rfl, plainStore_opens hf]
    rfl
  | true =>
    dsimp only
    rw [if_neg (by simp [hc rfl]), if_pos rfl, if_pos rfl]
    unfold State.storesOpenRow State.storesRow
    dsimp only
    rw [if_pos rfl, if_pos rfl]
    unfold State.storeFree at hf
    have hcur := settleRow_cur s s.cur.core (spmKey n a.toNat) (2 ^ 64 + spmKey n a.toNat)
    generalize s.settleRow s.cur.core (spmKey n a.toNat) (2 ^ 64 + spmKey n a.toNat) = u at hf hcur ⊢
    have hw : (u.windowWakes n true).rowFree (spmKey n a.toNat) := by
      unfold State.rowFree
      rw [windowWakes_cur, windowWakes_fld State.rows fun _ _ _ _ => rfl]
      exact hf
    have hn : (u.windowWakes n true).accNext = u.accNext := windowWakes_fld State.accNext (fun _ _ _ _ => rfl) _ _ _
    rw [if_neg, windowWakes_cur, windowWakes_task, hn]
    rw [openFor_free hw]
    decide

/-- A store that frees its lock bit goes to its row (R210). -/
theorem storeSpm_unlock {s : State} {a : Word} {n data : Nat} {win : Bool} (f : State → Act)
    (ha : s.spmAddr a = some (n, win)) (hc : win = true → s.myTask.cls = 0) :
    s.storeSpm a false true data [] f = f (s.storesRow n win true a data []) := by
  unfold State.storeSpm
  rw [ha]
  cases win with
  | false =>
    dsimp only
    rw [if_neg (by simp), if_neg (by simp), if_neg (by simp)]
    rfl
  | true =>
    have hn : (s.windowWakes n true).accNext = s.accNext := windowWakes_fld State.accNext (fun _ _ _ _ => rfl) _ _ _
    dsimp only
    rw [if_neg (by simp [hc rfl]), if_pos rfl, if_neg (by simp), if_neg (by simp), windowWakes_cur, windowWakes_task, hn]
    rfl

/-! What a store takes from its queue (R225, R286). -/

theorem acquireRows_known (s : State) (rows : List QRow) : KnownOnly s (s.acquireRows rows) :=
  .foldl (fun t (r : QRow) => t.hand (.row s.cur.core s.cur.ctx r.id) (.clu s.cur)) (fun _ _ => .hand ..) rows s

theorem popStore_fld {α : Type} (g : State → α) (hg : ∀ s kn, g { s with known := kn } = g s)
    (hq : ∀ s q l, g (State.modMyCtx s fun x => { x with sq := tblPut x.sq q l }) = g s) {s t : State} {q n : Nat} {rows : List Nat}
    (h : s.popStore q n = some (t, rows)) : g t = g s := by
  unfold State.popStore at h
  split at h
  · cases h
  · cases h
    exact (hq _ _ _).trans ((acquireRows_known ..).fld g hg)

theorem popStore_cur {s t : State} {q n : Nat} {rows : List Nat} (h : s.popStore q n = some (t, rows)) : t.cur = s.cur :=
  popStore_fld State.cur (fun _ _ => rfl) (fun _ _ _ => rfl) h

theorem popStore_task {s t : State} {q n : Nat} {rows : List Nat} (h : s.popStore q n = some (t, rows)) : t.myTask = s.myTask :=
  popStore_fld State.myTask (fun _ _ => rfl)
    (fun s _ _ => myTask_congr rfl (ctxFld_modCtx Ctx.task s s.cur s.cur _ fun _ => rfl)) h

theorem release_cur {s t : State} {k : Who} {scope : Nat} (h : s.release k scope = some t) : t.cur = s.cur :=
  release_fld State.cur (fun _ _ => rfl) (fun _ _ => rfl) (fun _ _ => rfl) h

theorem release_task {s t : State} {k : Who} {scope : Nat} (h : s.release k scope = some t) : t.myTask = s.myTask :=
  release_fld State.myTask (fun _ _ => rfl) (fun _ _ => rfl)
    (fun s n => myTask_congr rfl (by rw [ctxOf_modCore _ _ (fun c => { c with open_ := [] }) _ fun _ => rfl])) h

/-- The next address that a cluster's post-update gives depends on its registers alone (R223). -/
theorem post_congr {c d : Cluster} (h : d.regs = c.regs) (a b : BitVec 5) : d.post a b = c.post a b := by
  have r := Cluster.sameRegs_of c d h
  unfold Cluster.post
  simp only [r.mode, r.base, r.a, r.inc, r.s]

theorem countSr_laterN_post (s : State) (code : BitVec 2) (n : Nat) (res : List Res) (a b : BitVec 5) :
    ((s.countSr code).laterN n res).me.post a b = s.me.post a b := by
  refine post_congr ?_ a b
  have h1 : ((s.countSr code).laterN n res).me.regs = (s.countSr code).me.regs := by
    unfold State.laterN
    split
    · rfl
    · rw [me_modMe]; rfl
  rw [h1]
  unfold State.countSr
  split
  · rw [me_modMe, perfMe_me]; rfl
  · rfl

/-! A row written whole (R205, R209, R421). -/

/-- A digit of a word is a digit of the number that it is cut from. -/
theorem digit_mod (d k : Nat) (hk : k < 4) : BitVec.ofNat 8 (d % 2 ^ 32 / 256 ^ k) = BitVec.ofNat 8 (d / 256 ^ k) := by
  refine BitVec.eq_of_toNat_eq ?_
  rw [BitVec.toNat_ofNat, BitVec.toNat_ofNat]
  obtain rfl | rfl | rfl | rfl : k = 0 ∨ k = 1 ∨ k = 2 ∨ k = 3 := by omega
  all_goals omega

/-- Bytes that words with a full mask and no mark write: digit j of the data at byte j (R209). -/
theorem eccWrite_full (n : Nat) : ∀ (m : Mem) (y : Tbl (BitVec 7)) (a data x : Nat),
    (eccWrite n m y a (16 ^ n - 1) data 0).1.read x =
      if a ≤ x ∧ x < a + 4 * n then BitVec.ofNat 8 (data / 256 ^ (x - a)) else m.read x := by
  induction n with
  | zero =>
    intro m y a data x
    rw [if_neg (by omega)]
    rfl
  | succ n ih =>
    intro m y a data x
    have h15 : (16 ^ (n + 1) - 1) % 16 = 15 := by
      have := Nat.pow_succ 16 n
      have := Nat.one_le_pow n 16 (by decide)
      omega
    have hdiv : (16 ^ (n + 1) - 1) / 16 = 16 ^ n - 1 := by
      have := Nat.pow_succ 16 n
      have := Nat.one_le_pow n 16 (by decide)
      omega
    unfold eccWrite
    dsimp only
    rw [h15, hdiv, if_neg (by decide), if_pos rfl, if_neg (by decide), ih, Mem.read_writeN]
    by_cases h0 : a ≤ x ∧ x < a + 4
    · rw [if_neg (by omega), if_pos h0, if_pos (by omega)]
      exact digit_mod data (x - a) (by omega)
    · by_cases h1 : a + 4 ≤ x ∧ x < a + 4 + 4 * n
      · have e : x - a = 4 + (x - (a + 4)) := by omega
        rw [if_pos h1, if_pos (by omega), Nat.div_div_eq_div_mul, e, Nat.pow_add] <;> rfl
      · rw [if_neg h1, if_neg h0, if_neg (by omega)]

/-- The row is written in its core's scratchpad (R205). -/
theorem spmStore_core (s : State) (n addr data m : Nat) : (s.spmStore n addr data).core m =
    if m = n then { s.core n with
      spm := (eccWrite 16 (s.core n).spm (s.core n).syn (addr % 2 ^ 20 / 64 * 64) fullMask data 0).1,
      syn := (eccWrite 16 (s.core n).spm (s.core n).syn (addr % 2 ^ 20 / 64 * 64) fullMask data 0).2.1,
      spmWas := ⟨addr / 64, ((s.core n).spmRaw addr).1, ((s.core n).spmRaw addr).2.1, ((s.core n).spmRaw addr).2.2⟩ :: (s.core n).spmWas }
    else s.core m := by
  unfold State.spmStore State.spmWrite
  dsimp only
  rw [modCore_modCore, core_modCore]

/-- Settles O12. -/
theorem scratchpadStoresWriteTheirRowOnly : Obligations.ScratchpadStoresWriteTheirRowOnly := by
  refine ⟨?_, ?_, ?_⟩
  · intro s h md r q a b c hist m p e n win t ad key ha hw
    have had : (s.taken h).me.areg a.toNat = ad := by rw [taken_me]
    have ha' : (s.taken h).spmAddr ad = some (n, win) := (taken_spmAddr s h ad).trans ha
    have hw' (checked : Bool) (hb : checked = true → win = true → s.me.barGo = true) :
        win = true → ((s.taken h).core n).power ≠ .off ∧ (checked = true → (s.taken h).me.barGo = true) := fun e => by
      rw [taken_corePower, taken_me]
      exact ⟨(hw e).2, fun hc => hb hc e⟩
    have pop {u : State} {k : Nat} {rows : List Nat} (hp : (s.taken h).popStore q.toNat k = some (u, rows)) :
        u.spmAddr ad = some (n, win) ∧ (win = true → u.myTask.cls = 0) := by
      rw [spmAddr_congr (popStore_cur hp), popStore_task hp, taken_task]
      exact ⟨ha', fun e => (hw e).1⟩
    refine ⟨fun data k hp hb hf => runWord_done s _ h _ _ _ k ?_, fun k hb hf => runWord_done s _ h _ _ _ k ?_,
      fun rows k hp hb hf => runWord_done s _ h _ _ _ k ?_, fun data v k hl hv hp => runWord_done s _ h _ _ _ k ?_⟩
    · obtain ⟨hu, hc⟩ := pop hp
      rw [meaning_act]
      rw [hp]
      dsimp only
      rw [had, storeWindow_go _ ha' (hw' true fun _ => hb), storeSpm_go _ hu hc hf]
      rfl
    · rw [meaning_act]
      rw [had, storeWindow_go _ ha' (hw' true fun _ => hb),
        storeSpm_go _ ha' (fun e => by rw [taken_task]; exact (hw e).1) hf, taken_me]
      rfl
    · obtain ⟨hu, hc⟩ := pop hp
      rw [meaning_act]
      dsimp only
      rw [hp]
      dsimp only
      rw [had, storeWindow_go _ ha' (hw' true fun _ => hb), storeSpm_go _ hu hc hf, taken_me]
      unfold State.postUpdates
      rw [countSr_laterN_post]
    · have hvc : v.cur = s.cur := (release_cur hv).trans (taken_cur s h)
      have htc : t.cur = s.cur := (popStore_cur hp).trans hvc
      have htt : t.myTask = s.myTask := (popStore_task hp).trans ((release_task hv).trans (taken_task s h))
      have ho : KnownOnly t (t.hand (.clu s.cur) (.lock n (lockKey ad.toNat))) := .hand ..
      have hlock : ¬ tblFind ((s.taken h).core n).locks (lockKey ad.toNat) ≠ some ((s.taken h).cur.core, (s.taken h).cur.ctx) := by
        rw [taken_locks, taken_cur]
        exact Classical.not_not.2 hl
      rw [meaning_act]
      dsimp only
      rw [had, ha']
      dsimp only
      rw [if_neg hlock, storeWindow_go _ ha' (hw' false fun h => nomatch h), taken_cur, hv]
      dsimp only
      rw [hp]
      dsimp only
      rw [htc, storeSpm_unlock _ ((spmAddr_congr ((ho.fld State.cur fun _ _ => rfl).trans htc) ad).trans ha)
        fun e => (congrArg Task.cls ((ho.fld State.myTask fun _ _ => rfl).trans htt)).trans (hw e).1]
      rfl
  · intro s t h md r q a b c hist m p e n rows w off ad waits ha hc hw
    have had : (s.taken h).me.areg a.toNat = ad := by rw [taken_me]
    have ha' : (s.taken h).spmAddr ad = some (n, true) := (taken_spmAddr s h ad).trans ha
    have hc' : (s.taken h).myTask.cls = 0 := by rw [taken_task]; exact hc
    have hw' : ((s.taken h).core n).power = .off ∧ w = .wake ∨
        ((s.taken h).core n).power ≠ .off ∧ (s.taken h).me.barGo = false ∧ true = true ∧ w = .cirEnd := by
      rw [taken_corePower, taken_me]
      exact hw.imp id fun ⟨hp, hb, e⟩ => ⟨hp, hb, rfl, e⟩
    refine ⟨fun k hp => stall_waits k ?_, fun k hp => stall_waits k ?_, fun k => stall_waits k ?_, fun k ho hl => stall_waits k ?_⟩
    · rw [meaning_act]
      rw [hp]
      dsimp only
      rw [had]
      exact storeWindow_waits _ hc' ha' hw'
    · rw [meaning_act]
      dsimp only
      rw [hp]
      dsimp only
      rw [had]
      exact storeWindow_waits _ hc' ha' hw'
    · rw [meaning_act]
      rw [had]
      exact storeWindow_waits _ hc' ha' hw'
    · have hw0 : w = .wake := hw.elim (fun h => h.2) fun h => absurd ho h.1
      have hlock : ¬ tblFind ((s.taken h).core n).locks (lockKey ad.toNat) ≠ some ((s.taken h).cur.core, (s.taken h).cur.ctx) := by
        rw [taken_locks, taken_cur]
        exact Classical.not_not.2 hl
      rw [meaning_act]
      dsimp only
      rw [had, ha']
      dsimp only
      rw [if_neg hlock]
      exact storeWindow_waits _ hc' ha' (.inl ⟨(taken_corePower s h n).trans ho, hw0⟩)
  · intro s n a data hs
    have hp : s.settledRow a n = s := by
      unfold State.settledRow State.performOlder
      rw [hs]
      rfl
    obtain ⟨kn, hk⟩ := KnownOnly.storeCell s s.cur (2 ^ 64 + spmKey n a.toNat)
    have hx : s.writesRow n a data = ({ s with known := kn } : State).spmStore n (a.toNat % 2 ^ 20) data := by
      unfold State.writesRow
      rw [hp, hk]
    have hcore (m : Nat) := spmStore_core { s with known := kn } n (a.toNat % 2 ^ 20) data m
    have hrow : a.toNat % 2 ^ 20 % 2 ^ 20 / 64 * 64 = a.toNat % 2 ^ 20 / 64 * 64 := by rw [Nat.mod_mod]
    rw [hx]
    refine ⟨fun j hj => ?_, fun m x hm => ?_, fun m x => ?_, fun x => rfl, fun k => ?_⟩
    · rw [hcore, if_pos rfl]
      dsimp only
      rw [hrow]
      refine (eccWrite_full 16 _ _ _ data _).trans ((if_pos (by omega)).trans ?_)
      rw [Nat.add_sub_cancel_left]
    · rw [hcore]
      split
      · next e =>
        dsimp only
        rw [hrow]
        refine (eccWrite_full 16 _ _ _ data _).trans ((if_neg ?_).trans (by rw [e]; rfl))
        have := hm.resolve_left (Classical.not_not.2 e)
        omega
      · rfl
    · rw [hcore]
      split
      · next e => rw [e]; rfl
      · rfl
    · unfold State.spmStore
      rw [spmWrite_clu, clu_modCore]
      · rfl
      · exact fun _ => rfl

end Sys2Proof.Machine
end

section
/-! SUPPORT. Global words start their accesses (R198 to R201, R217, R228, R250, R252). -/

namespace Sys2Proof.Machine

/-! Loads. -/

/-- The push of a load word falls due by the load itself (R23). -/
def State.ownPush (s : State) (h : Hdr) : State :=
  if h.sig = 0 then s else s.modMe fun c => { c with sigs := c.sigs ++ [(c.sc, h.sig, c.sc)] }

/-- The access that a load word of the current cluster makes (R228). -/
def State.loadAcc (s : State) (va sa : Nat) (k : AccKind) (sig : BitVec 2) : Acc :=
  { who := s.cur, va := va, sa := sa, kind := k, passed := false, task := s.myTask, sig := sig, live := true, sent := false,
    iss := s.me.sc }

/-- The state in which a load on the direct path has taken its slot occurrence (R217). -/
def State.directStarted (s : State) (h : Hdr) (f : Fill) (va sa : Nat) : State :=
  let d := dieOf s.cur.core
  let p := bitsN (saOff sa) 6 6
  let now := (s.die d).dcc
  let (st, start) := slotStart (s.cur.core % 16) p now s.myCore.used
  let own : Bool := st = now
  let i := s.accNext
  let acc := s.loadAcc va sa (.direct f st) h.sig
  let s := (s.perfMe (if own then 15 else 16)).modMyCore fun c =>
    { c with used := (p * 2 ^ 64 + start) :: c.used.filter fun u => now ≤ u % 2 ^ 64 + 64 }
  let s := s.addAcc acc
  if own then s.serveSlot i acc f st else s

/-- The state in which a load of the shared array has read its row (R228, log 7). -/
def State.sharedRead (s : State) (h : Hdr) (q : Nat) (f : Fill) (va sa : Nat) : State :=
  let t := s
  let (s, d, p) := ((s.perfCtx 17).loadCell s.cur (sa / 64)).sysRead sa s.myTask.tag
  let (rows, cir) := f.serve d p
  (s.addAcc (t.loadAcc va sa (.served q rows cir none) 0)).ownPush h

/-- The state in which a load word has its rows and its access (R217, R228). -/
def State.loadStarted (s : State) (h : Hdr) (md : Option ModF) (q code va sa : Nat) : State :=
  let r := s.reserveLq s.cur q (loadRows code)
  let f := r.1.fillOf md q code r.2 (s.containedRow sa)
  if r.1.isDirect sa then r.1.directStarted h f va sa
  else if saLevel sa = 1 && saDev sa = r.1.devId then r.1.sharedRead h q f va sa
  else ((r.1.perfCtx 17).addAcc (r.1.loadAcc va sa (.load f) 0)).ownPush h

theorem globalLoad_go {s : State} {h : Hdr} {md : Option ModF} {q code : Nat} {a b : BitVec 5} {e : TlbE}
    (hroom : roomRows (s.myCtx.lrows q) (loadRows code) = true) (hva : (s.me.areg a.toNat).toNat < 2 ^ 57)
    (he : tlbFind s.myCore.tlb s.myTask.part (s.me.areg a.toNat).toNat = some e)
    (hc : s.shaCheck ((s.leafAddr s.myTask e (s.me.areg a.toNat).toNat).1 / 64 * 64) false = some s) :
    s.globalLoad h md q code a b = .done
      ((if code = 8 then s.loadStarted h md q code (s.me.areg a.toNat).toNat ((s.leafAddr s.myTask e (s.me.areg a.toNat).toNat).1 / 64 * 64)
        else (s.loadStarted h md q code (s.me.areg a.toNat).toNat ((s.leafAddr s.myTask e (s.me.areg a.toNat).toNat).1 / 64 * 64)).countSr
          (effCode md 0)).later 0
        ((s.loadStarted h md q code (s.me.areg a.toNat).toNat
          ((s.leafAddr s.myTask e (s.me.areg a.toNat).toNat).1 / 64 * 64)).me.post a b)) .seq := by
  unfold State.globalLoad
  dsimp only
  rw [if_neg (by simp [hroom]), withAddr_hit _ hva he, hc]
  rfl

theorem shaCheck_other {s : State} {sa : Nat} (store : Bool) (h : saLevel sa ≠ 1 ∨ saDev sa ≠ s.devId) : s.shaCheck sa store = some s := by
  unfold State.shaCheck
  rw [if_neg]
  simpa [Decidable.imp_iff_not_or] using h

theorem fillOf_reserved (s : State) (h : Hdr) (md : Option ModF) (q k code : Nat) (n : Nat) (ids : List Nat) (cont : Option CRow) :
    ((s.taken h).reserveLq s.cur k n).1.fillOf md q code ids cont = s.fillOf md q code ids cont := by
  unfold State.fillOf
  rw [tReserve_me]

theorem loadAcc_reserved (s : State) (h : Hdr) (q n va sa : Nat) (k : AccKind) (sig : BitVec 2) :
    ((s.taken h).reserveLq s.cur q n).1.loadAcc va sa k sig = s.loadAcc va sa k sig := by
  unfold State.loadAcc
  rw [tReserve_me, tReserve_task, reserveLq_cur, taken_cur]

/-- A load elsewhere puts its access in flight (R228). -/
theorem loadStarted_flight {s : State} {h : Hdr} {md : Option ModF} {q code va sa : Nat}
    (hs : saLevel sa ≠ 1 ∨ saDev sa ≠ s.devId) (hd : s.isDirect sa = false) :
    (s.taken h).loadStarted h md q code va sa =
      ((((s.taken h).reserveLq s.cur q (loadRows code)).1.perfCtx 17).addAcc (s.loadAcc va sa
        (.load (s.fillOf md q code ((s.taken h).reserveLq s.cur q (loadRows code)).2 (s.containedRow sa))) 0)).ownPush h := by
  unfold State.loadStarted
  rw [taken_cur, taken_containedRow]
  dsimp only
  rw [reserveLq_isDirect, taken_isDirect, hd, if_neg Bool.false_ne_true, if_neg, fillOf_reserved, loadAcc_reserved]
  rw [reserveLq_devId, taken_devId]
  simpa [Decidable.imp_iff_not_or] using hs

/-! Stores. -/

theorem keepQueues_done (s t : State) (n : Next) : keepQueues s (.done t n) = .done t n := rfl

theorem popStore_tlb {s t : State} {q n : Nat} {rows : List Nat} (h : s.popStore q n = some (t, rows)) : t.myCore.tlb = s.myCore.tlb :=
  popStore_fld (fun s => s.myCore.tlb) (fun _ _ => rfl)
    (fun s _ _ => coreFld_modCtx Core.tlb (fun _ _ _ => rfl) s s.cur _ s.cur.core) h

theorem popStore_leaf {s t : State} {q n : Nat} {rows : List Nat} (h : s.popStore q n = some (t, rows)) (k : Task) (e : TlbE) (va : Nat) :
    t.leafAddr k e va = s.leafAddr k e va :=
  popStore_fld (fun s => s.leafAddr k e va) (fun _ _ => rfl) (fun _ _ _ => rfl) h

theorem popStore_inCode {s t : State} {q n : Nat} {rows : List Nat} (h : s.popStore q n = some (t, rows)) (k : Task) (a m : Nat) :
    t.inCode k a m = s.inCode k a m :=
  popStore_fld (fun s => s.inCode k a m) (fun _ _ => rfl) (fun _ _ _ => rfl) h

theorem popStore_renamed {s t : State} {q n : Nat} {rows : List Nat} (h : s.popStore q n = some (t, rows)) (k : Task) (a : Nat) :
    t.inRenamed k a = s.inRenamed k a :=
  popStore_fld (fun s => s.inRenamed k a) (fun _ _ => rfl) (fun _ _ _ => rfl) h

theorem popStore_devId {s t : State} {q n : Nat} {rows : List Nat} (h : s.popStore q n = some (t, rows)) : t.devId = s.devId :=
  popStore_fld State.devId (fun _ _ => rfl) (fun _ _ _ => rfl) h

theorem popStore_me {s t : State} {q n : Nat} {rows : List Nat} (h : s.popStore q n = some (t, rows)) : t.me = s.me :=
  popStore_fld State.me (fun _ _ => rfl) (fun s _ _ => clu_modCtx s s.cur s.cur _ fun _ => rfl) h

theorem perfCtx_devId (s : State) (ev : Nat) : (s.perfCtx ev).devId = s.devId := perf_devId ..

theorem countSr_post (s : State) (code : BitVec 2) (a b : BitVec 5) : (s.countSr code).me.post a b = s.me.post a b :=
  countSr_laterN_post s code 0 [] a b

/-- The state in which a store of the current cluster is in flight (R201, R233). -/
def State.storeStarted (s : State) (va sa data : Nat) : State :=
  ((s.perfCtx 17).afterFences s.cur s.accNext).addAcc
    { who := s.cur, va := va, sa := sa, kind := .store data, passed := false, task := s.myTask, sig := 0, live := true,
      sent := false }

/-- A store that translates goes on with its page (R200, R201). -/
theorem globalStore_hit {s : State} {va : Word} {data : Nat} {u : State} {e : TlbE} (f : State → Act) (hva : va.toNat < 2 ^ 57)
    (he : tlbFind s.myCore.tlb s.myTask.part va.toNat = some e) (hw : (s.leafAddr s.myTask e va.toNat).2 = true)
    (hc : s.inCode s.myTask (va.toNat / 64 * 64) 64 = false) :
    (s.myTask.cls = 0 ∨ s.inRenamed s.myTask (va.toNat / 64 * 64) = true →
      (saLevel ((s.leafAddr s.myTask e va.toNat).1 / 64 * 64) ≠ 1 ∨ saDev ((s.leafAddr s.myTask e va.toNat).1 / 64 * 64) ≠ s.devId) →
      s.globalStore va data u f = f ((s.storeStarted va.toNat ((s.leafAddr s.myTask e va.toNat).1 / 64 * 64) data).signStore
        s.myTask (va.toNat / 64 * 64) 64 data)) ∧
    (∀ v, s.myTask.cls ≠ 0 → s.inRenamed s.myTask (va.toNat / 64 * 64) = false →
      s.contain s.myTask ((s.leafAddr s.myTask e va.toNat).1 / 64 * 64) (va.toNat / 64 * 64) fullMask data 0 = .ok v →
      s.globalStore va data u f = f (v.signStore s.myTask (va.toNat / 64 * 64) 64 data)) := by
  have hok : ¬(!(s.leafAddr s.myTask e va.toNat).2 || s.inCode s.myTask (va.toNat / 64 * 64) 64) = true := by simp [hw, hc]
  unfold State.globalStore
  rw [withAddr_hit _ hva he]
  dsimp only
  rw [if_neg hok]
  refine ⟨fun hp hs => ?_, fun v hp hr hv => ?_⟩
  · rw [if_neg (by simpa [Decidable.imp_iff_not_or] using hp), shaCheck_other true hs]
    dsimp only
    rw [if_neg (by rw [perfCtx_devId]; simpa [Decidable.imp_iff_not_or] using hs), perfCtx_cur, perfCtx_accNext]
    rfl
  · rw [if_pos (by simp [hp, hr]), hv]

/-! Translation at issue (R200). -/

@[simp] theorem taken_myWalkBad (s : State) (h : Hdr) : (s.taken h).myCore.walkBad = s.myCore.walkBad :=
  taken_myCoreFld (·.walkBad) (fun _ _ _ => rfl) s h

/-- The state in which a global word has asked for the walk of its page (R200). -/
def State.walkAsked (s : State) (va : Word) : State :=
  (if s.me.asked then s else s.perf s.cur.core 19 s.cur.ctx none 1).modMe fun c => { c with asked := true, answer := some va }

theorem walkAsked_me (s : State) (va : Word) : (s.walkAsked va).me = { s.me with asked := true, answer := some va } := by
  unfold State.walkAsked
  rw [me_modMe]
  split
  · rfl
  · rw [perf_me]

theorem translateAc_asks {s : State} {va : Word} (hv : va.toNat < 2 ^ 57) (hl : tlbFind s.myCore.tlb s.myTask.part va.toNat = none)
    (hb : s.myCore.walkBad.contains (s.myTask.part, va.toNat / 65536) = false) : s.translateAc va = .wait (s.walkAsked va) := by
  unfold State.translateAc
  dsimp only
  rw [if_neg (by omega), hl]
  dsimp only
  rw [hb]
  rfl

theorem translateAc_bad {s : State} {va : Word} (h : 2 ^ 57 ≤ va.toNat ∨ tlbFind s.myCore.tlb s.myTask.part va.toNat = none ∧
    s.myCore.walkBad.contains (s.myTask.part, va.toNat / 65536) = true) : s.translateAc va = .fault := by
  unfold State.translateAc
  dsimp only
  by_cases hv : 2 ^ 57 ≤ va.toNat
  · rw [if_pos hv]
  · obtain ⟨hl, hb⟩ := h.resolve_left hv
    rw [if_neg hv, hl]
    dsimp only
    rw [if_pos hb]

theorem translateAc_knows {s : State} {va : Word} (h : 2 ^ 57 ≤ va.toNat ∨ (tlbFind s.myCore.tlb s.myTask.part va.toNat).isSome = true ∨
    s.myCore.walkBad.contains (s.myTask.part, va.toNat / 65536) = true) : ∀ u, s.translateAc va ≠ .wait u := by
  intro u
  cases hl : tlbFind s.myCore.tlb s.myTask.part va.toNat with
  | none =>
    rw [translateAc_bad (h.imp id fun h => ⟨hl, h.resolve_left (by simp [hl])⟩)]
    exact fun h => nomatch h
  | some e =>
    unfold State.translateAc
    dsimp only
    split
    · exact fun h => nomatch h
    · rw [hl]
      exact fun h => nomatch h

/-- Settles O15. -/
theorem globalWordsStartAccesses : Obligations.GlobalWordsStartAccesses := by
  refine ⟨?_, ?_⟩
  · intro s h md q a b c e va m sa row acc load pushes stored hva he
    have hme : (s.taken h).me.areg a.toNat = va := by rw [taken_me]
    have hva' : ((s.taken h).me.areg a.toNat).toNat < 2 ^ 57 := by rw [hme]; exact hva
    have he' : tlbFind (s.taken h).myCore.tlb (s.taken h).myTask.part ((s.taken h).me.areg a.toNat).toNat = some e := by
      rw [hme, taken_myTlb, taken_task]; exact he
    have hleaf : (s.taken h).leafAddr (s.taken h).myTask e ((s.taken h).me.areg a.toNat).toNat = m := by
      rw [hme, taken_task, taken_leafAddr]
    have store {k : Nat} {rows : List Nat} {t u : State} (data : Nat) (f : State → Act)
        (hp : (s.taken h).popStore q.toNat k = some (t, rows)) (hw : m.2 = true) (hc : s.inCode s.myTask row 64 = false) :
        (s.myTask.cls = 0 ∨ s.inRenamed s.myTask row = true → (saLevel sa ≠ 1 ∨ saDev sa ≠ s.devId) →
          t.globalStore va data u f = f (stored t data)) ∧
        (∀ v, s.myTask.cls ≠ 0 → s.inRenamed s.myTask row = false → t.contain s.myTask sa row fullMask data 0 = .ok v →
          t.globalStore va data u f = f (v.signStore s.myTask row 64 data)) := by
      have htask : t.myTask = s.myTask := (popStore_task hp).trans (taken_task s h)
      have hl : t.leafAddr t.myTask e va.toNat = m := by rw [htask, popStore_leaf hp, taken_leafAddr]
      have ht := globalStore_hit (s := t) (va := va) (data := data) (u := u) (e := e) f hva
        (by rw [popStore_tlb hp, taken_myTlb, htask]; exact he) (by rw [hl]; exact hw)
        (by rw [htask, popStore_inCode hp, taken_inCode]; exact hc)
      rw [hl, htask, popStore_renamed hp, taken_inRenamed, popStore_devId hp, taken_devId] at ht
      refine ⟨fun h1 h2 => (ht.1 h1 h2).trans ?_, ht.2⟩
      unfold State.storeStarted
      rw [(popStore_cur hp).trans (taken_cur s h), htask]
    refine ⟨fun hs hd => ⟨fun k hroom => runWord_done s _ h _ _ _ k ?_, fun k hroom => runWord_done s _ h _ _ _ k ?_⟩,
      fun t data k hp hw hc => ⟨fun hs hr => runWord_done s _ h _ _ _ k ?_, fun u h1 h2 h3 => runWord_done s _ h _ _ _ k ?_⟩,
      fun t rows k hp hw hc => ⟨fun hs hr => runWord_done s _ h _ _ _ k ?_, fun u h1 h2 h3 => runWord_done s _ h _ _ _ k ?_⟩⟩
    · refine (globalLoad_go (by rw [taken_myLrows]; exact hroom) hva' he' (by
        rw [hleaf]; exact shaCheck_other false (by rw [taken_devId]; exact hs))).trans ?_
      rw [hleaf, hme, loadStarted_flight hs hd]
      rfl
    · have h8 : c.toNat ≠ 8 := by have := c.isLt; omega
      refine (globalLoad_go (by rw [taken_myLrows]; exact hroom) hva' he' (by
        rw [hleaf]; exact shaCheck_other false (by rw [taken_devId]; exact hs))).trans ?_
      rw [hleaf, hme, loadStarted_flight hs hd, if_neg h8]
      unfold State.postUpdates
      rw [countSr_post]
      rfl
    · rw [meaning_act]
      rw [hp]
      dsimp only
      rw [hme, (store ([data].getD 0 0) _ hp hw hc).1 hr hs]
      rfl
    · rw [meaning_act]
      rw [hp]
      dsimp only
      rw [hme, (store ([data].getD 0 0) _ hp hw hc).2 u h1 h2 h3]
      rfl
    · rw [meaning_act]
      dsimp only
      rw [hp]
      dsimp only
      rw [taken_me, (store _ _ hp hw hc).1 hr hs]
      unfold State.postUpdates
      rw [countSr_laterN_post]
      rfl
    · rw [meaning_act]
      dsimp only
      rw [hp]
      dsimp only
      rw [taken_me, (store _ _ hp hw hc).2 u h1 h2 h3]
      unfold State.postUpdates
      rw [countSr_laterN_post]
      rfl
  · intro s h q a b va bad leaf
    have hme : (s.taken h).me.areg a.toNat = va := by rw [taken_me]
    have hleaf : tlbFind (s.taken h).myCore.tlb (s.taken h).myTask.part va.toNat = leaf := by rw [taken_myTlb, taken_task]
    have hbad : (s.taken h).myCore.walkBad.contains ((s.taken h).myTask.part, va.toNat / 65536) = bad := by
      rw [taken_myWalkBad, taken_task]
    have asks (hv : va.toNat < 2 ^ 57) (hl : leaf = none) (hb : bad = false) : (s.taken h).translateAc va =
        .wait ((s.taken h).walkAsked va) := translateAc_asks hv (hleaf.trans hl) (hbad.trans hb)
    have waits {i : Instr} {m : Meaning} (k : s.Issues i h) (e : m.act (s.taken h) = .stall .tlb ((s.taken h).walkAsked va)) :
        ∃ t, runWord i h m s = .next t ∧ t.me.wait = some .tlb ∧ t.me.asked = true ∧ t.me.answer = some va := by
      refine ⟨_, runWord_stall s i h m .tlb _ k e, ?_, ?_, ?_⟩
      · rw [stalled_me]
      · rw [stalled_me, walkAsked_me]
      · rw [stalled_me, walkAsked_me]
    refine ⟨fun k ho => runWord_done s _ h _ _ _ k ?_, fun k hv hl hb => waits k ?_, fun k hroom hv hl hb => waits k ?_,
      fun k hroom ho => runWord_fault s _ h _ _ k ?_, fun e t data k hv hl hp ho => runWord_fault s _ h _ _ k ?_⟩
    · rw [meaning_act]
      dsimp only
      rw [hme]
      have hn : ∀ u, (s.taken h).translateAc va ≠ .wait u := by
        refine translateAc_knows (ho.imp id ?_)
        rw [hleaf, hbad]
        exact id
      cases ht : (s.taken h).translateAc va with
      | fault => rw [taken_task]; rfl
      | wait u => exact absurd ht (hn u)
      | ok x w => rw [taken_task]; rfl
    · rw [meaning_act]
      dsimp only
      rw [hme, asks hv hl hb]
    · refine (if_neg (by rw [taken_myLrows]; simp [loadRows, hroom])).trans ?_
      rw [hme]
      unfold State.withAddr
      rw [asks hv hl hb]
    · refine (if_neg (by rw [taken_myLrows]; simp [loadRows, hroom])).trans ?_
      rw [hme]
      unfold State.withAddr
      rw [translateAc_bad (ho.imp id fun ⟨h1, h2⟩ => ⟨hleaf.trans h1, hbad.trans h2⟩)]
      rfl
    · have htask : t.myTask = s.myTask := (popStore_task hp).trans (taken_task s h)
      rw [meaning_act]
      rw [hp]
      dsimp only
      rw [hme]
      unfold State.globalStore
      rw [withAddr_hit (e := e) _ hv (by rw [popStore_tlb hp, taken_myTlb, htask]; exact hl), htask, popStore_leaf hp,
        taken_leafAddr]
      dsimp only
      rw [if_pos (by
        rw [popStore_inCode hp, taken_inCode]
        obtain h1 | h1 := ho <;> simp [h1])]
      rfl

end Sys2Proof.Machine
end

section
/-! SUPPORT. The direct path and the shared array (R217, R228, R250, R252). -/

namespace Sys2Proof.Machine

theorem reserved_used (s : State) (h : Hdr) (q n : Nat) :
    ((s.taken h).reserveLq s.cur q n).1.myCore.used = s.myCore.used := by
  have h1 : ((s.taken h).reserveLq s.cur q n).1.myCore.used = (s.taken h).myCore.used :=
    coreFld_modCtx Core.used (fun _ _ _ => rfl) (s.taken h) s.cur _ (s.taken h).cur.core
  rw [h1]
  exact taken_myCoreFld Core.used (fun _ _ _ => rfl) s h

/-- The state in which a load has taken a slot occurrence of its core (R217). -/
def State.slotTaken (s t : State) (sa : Nat) : State :=
  let now := (s.die (dieOf s.cur.core)).dcc
  let p := bitsN (saOff sa) 6 6
  t.modMyCore fun c => { c with
    used := (p * 2 ^ 64 + (slotStart (s.cur.core % 16) p now s.myCore.used).2) :: c.used.filter fun u => now ≤ u % 2 ^ 64 + 64 }

/-- A load of the home stack takes the slot occurrence that its core has next (R217). -/
theorem loadStarted_direct {s : State} {h : Hdr} {md : Option ModF} {q code va sa : Nat} (hd : s.isDirect sa = true) :
    let now := (s.die (dieOf s.cur.core)).dcc
    let st := (slotStart (s.cur.core % 16) (bitsN (saOff sa) 6 6) now s.myCore.used).1
    let r := (s.taken h).reserveLq s.cur q (loadRows code)
    let f := s.fillOf md q code r.2 (s.containedRow sa)
    (s.taken h).loadStarted h md q code va sa =
      if st = now then
        ((s.slotTaken (r.1.perfMe 15) sa).addAcc (s.loadAcc va sa (.direct f st) h.sig)).serveSlot s.accNext
          (s.loadAcc va sa (.direct f st) h.sig) f st
      else (s.slotTaken (r.1.perfMe 16) sa).addAcc (s.loadAcc va sa (.direct f st) h.sig) := by
  intro now st r f
  unfold State.loadStarted
  rw [taken_cur, taken_containedRow]
  dsimp only
  rw [reserveLq_isDirect, taken_isDirect, if_pos hd, fillOf_reserved]
  unfold State.directStarted
  dsimp only
  rw [reserveLq_cur, taken_cur, reserveLq_die, taken_die, reserved_used, loadAcc_reserved, reserveLq_accNext, taken_accNext]
  by_cases hn : st = now
  · rw [if_pos hn]
    refine (if_pos (decide_eq_true hn)).trans ?_
    rw [decide_eq_true hn]
    rfl
  · rw [if_neg hn]
    refine (if_neg (by rw [decide_eq_false hn]; decide)).trans ?_
    rw [decide_eq_false hn]
    rfl

/-- A load of the device's own shared array reads its row (R228, R250, log 7). -/
theorem loadStarted_shared {s : State} {h : Hdr} {md : Option ModF} {q code va sa : Nat} (hd : s.isDirect sa = false)
    (ho : saLevel sa = 1 ∧ saDev sa = s.devId) :
    let r := (s.taken h).reserveLq s.cur q (loadRows code)
    let u := ((r.1.perfCtx 17).loadCell s.cur (sa / 64)).sysRead sa s.myTask.tag
    let v := (s.fillOf md q code r.2 (s.containedRow sa)).serve u.2.1 u.2.2
    (s.taken h).loadStarted h md q code va sa = (u.1.addAcc (s.loadAcc va sa (.served q v.1 v.2 none) 0)).ownPush h := by
  intro r u v
  unfold State.loadStarted
  rw [taken_cur, taken_containedRow]
  dsimp only
  rw [reserveLq_isDirect, taken_isDirect, hd, if_neg Bool.false_ne_true, if_pos, fillOf_reserved]
  · unfold State.sharedRead
    dsimp only
    rw [reserveLq_cur, taken_cur, tReserve_task, loadAcc_reserved]
  · rw [reserveLq_devId, taken_devId]
    simpa using ho

theorem shaCheck_own {s : State} {sa : Nat} (ho : saLevel sa = 1 ∧ saDev sa = s.devId) (store : Bool) : s.shaCheck sa store =
    if store then s.plainStore s.cur.core (shaKey sa) (sa / 64) false else s.plain s.cur.core (shaKey sa) false false :=
  if_pos (by simpa using ho)

/-- A plain access of a row that another core has open is RACE (R252). -/
theorem plain_race {s : State} {key : Nat} {store eng : Bool} (h : ¬ s.rowFree key) : s.plain s.cur.core key store eng = none := by
  unfold State.rowFree at h
  simp only [Classical.not_forall] at h
  obtain ⟨o, ho, hne⟩ := h
  unfold State.plain
  rw [ho]
  exact if_neg hne

theorem plainStore_race {s : State} {key place : Nat} {eng : Bool} (h : ¬ s.storeFree key place) :
    s.plainStore s.cur.core key place eng = none := by
  have hp := plain_race (s := s.settleRow s.cur.core key place) (store := true) (eng := eng) h
  rw [settleRow_cur] at hp
  exact hp

theorem opensRow_keeps {ok : Who → Prop} {P : State → Prop} (p : Performs ok P) {s : State} (key place : Nat) (h : P s) :
    P (s.opensRow key place) := by
  unfold State.opensRow
  cases hs : s.plainStore s.cur.core key place false with
  | none => exact h
  | some t => exact p.plainStore hs h

/-- The state in which a store has written its row of the shared array (R250, R252, log 7). -/
def State.sharedStored (s : State) (sa data : Nat) : State :=
  (((s.opensRow (shaKey sa) (sa / 64)).perfCtx 17).storeCell s.cur (sa / 64)).sysWrite sa fullMask data 0 s.myTask.tag

/-- A store to the shared array opens and writes its row, or finds it open (R252). -/
theorem globalStore_shared {s : State} {va : Word} {data : Nat} {u : State} {e : TlbE} (f : State → Act) (hva : va.toNat < 2 ^ 57)
    (he : tlbFind s.myCore.tlb s.myTask.part va.toNat = some e) (hw : (s.leafAddr s.myTask e va.toNat).2 = true)
    (hc : s.inCode s.myTask (va.toNat / 64 * 64) 64 = false) (sa : Nat) (hsa : (s.leafAddr s.myTask e va.toNat).1 / 64 * 64 = sa)
    (ho : saLevel sa = 1 ∧ saDev sa = s.devId)
    (hp : s.myTask.cls = 0 ∨ s.inRenamed s.myTask (va.toNat / 64 * 64) = true) :
    (s.storeFree (shaKey sa) (sa / 64) →
      s.globalStore va data u f = f ((s.sharedStored sa data).signStore s.myTask (va.toNat / 64 * 64) 64 data)) ∧
    (¬ s.storeFree (shaKey sa) (sa / 64) → s.globalStore va data u f = .fault (s.raceAt (shaKey sa) va)) := by
  have hok : ¬(!(s.leafAddr s.myTask e va.toNat).2 || s.inCode s.myTask (va.toNat / 64 * 64) 64) = true := by simp [hw, hc]
  unfold State.globalStore
  rw [withAddr_hit _ hva he]
  dsimp only
  rw [if_neg hok, if_neg (by simpa [Decidable.imp_iff_not_or] using hp), hsa, shaCheck_own ho, if_pos rfl]
  refine ⟨fun hf => ?_, fun hf => ?_⟩
  · rw [plainStore_opens hf]
    dsimp only
    have hd : ((s.opensRow (shaKey sa) (sa / 64)).perfCtx 17).devId = s.devId :=
      (perfCtx_devId ..).trans (opensRow_keeps (performs_devId s.devId) _ _ rfl)
    have hk : ((s.opensRow (shaKey sa) (sa / 64)).perfCtx 17).cur = s.cur :=
      (perfCtx_cur ..).trans (opensRow_keeps (performs_cur s.cur) _ _ rfl)
    rw [if_pos (by rw [hd]; simpa using ho), hk]
    rfl
  · rw [plainStore_race hf]

/-- Settles O17. -/
theorem directAndSharedArrayWords : Obligations.DirectAndSharedArrayWords := by
  intro s h md q a b c e va m sa row own acc pushes p now slot uses load free stored hva he
  have hme : (s.taken h).me.areg a.toNat = va := by rw [taken_me]
  have hva' : ((s.taken h).me.areg a.toNat).toNat < 2 ^ 57 := by rw [hme]; exact hva
  have he' : tlbFind (s.taken h).myCore.tlb (s.taken h).myTask.part ((s.taken h).me.areg a.toNat).toNat = some e := by
    rw [hme, taken_myTlb, taken_task]; exact he
  have hleaf : (s.taken h).leafAddr (s.taken h).myTask e ((s.taken h).me.areg a.toNat).toNat = m := by
    rw [hme, taken_task, taken_leafAddr]
  have level : s.isDirect sa = true → saLevel sa ≠ 1 ∨ saDev sa ≠ (s.taken h).devId := by
    intro hd
    unfold State.isDirect at hd
    simp only [Bool.and_eq_true, decide_eq_true_eq] at hd
    exact .inl (by rw [hd.1.1]; decide)
  have rowFree : s.rowFree (shaKey sa) → (s.taken h).rowFree (shaKey sa) := fun hf => by
    unfold State.rowFree
    rw [taken_rows, taken_cur]
    exact hf
  have check (hs : s.isDirect sa = true ∨ (own ∧ s.rowFree (shaKey sa))) : (s.taken h).shaCheck sa false = some (s.taken h) := by
    obtain hd | ⟨ho, hf⟩ := hs
    · exact shaCheck_other false (level hd)
    · rw [shaCheck_own (by rw [taken_devId]; exact ho), if_neg Bool.false_ne_true]
      exact plain_load (rowFree hf)
  have started (md : Option ModF) (code : Nat) (hs : s.isDirect sa = true ∨ (own ∧ s.rowFree (shaKey sa))) :
      (s.taken h).loadStarted h md q.toNat code va.toNat sa = load md code (loadRows code) := by
    by_cases hd : s.isDirect sa = true
    · refine (loadStarted_direct hd).trans ?_
      refine Eq.trans ?_ (if_pos hd).symm
      rfl
    · rw [Bool.not_eq_true] at hd
      refine (loadStarted_shared hd (hs.resolve_left (by simp [hd])).1).trans ?_
      refine Eq.trans ?_ (if_neg (by simp [hd])).symm
      rfl
  have store {k : Nat} {rows : List Nat} {t u : State} (data : Nat) (f : State → Act)
      (hp : (s.taken h).popStore q.toNat k = some (t, rows)) (ho : own) (hw : m.2 = true) (hc : s.inCode s.myTask row 64 = false)
      (hr : s.myTask.cls = 0 ∨ s.inRenamed s.myTask row = true) :
      (free t → t.globalStore va data u f = f (stored t data)) ∧
        (¬ free t → t.globalStore va data u f = .fault (s.raceAt (shaKey sa) va)) := by
    have htask : t.myTask = s.myTask := (popStore_task hp).trans (taken_task s h)
    have hl : t.leafAddr t.myTask e va.toNat = m := by rw [htask, popStore_leaf hp, taken_leafAddr]
    have ht := globalStore_shared (s := t) (va := va) (data := data) (u := u) (e := e) f hva
      (by rw [popStore_tlb hp, taken_myTlb, htask]; exact he) (by rw [hl]; exact hw)
      (by rw [htask, popStore_inCode hp, taken_inCode]; exact hc) sa (by rw [hl])
      (by rw [popStore_devId hp, taken_devId]; exact ho)
      (by rw [htask, popStore_renamed hp, taken_inRenamed]; exact hr)
    have hrace : t.raceAt (shaKey sa) va = s.raceAt (shaKey sa) va := by
      unfold State.raceAt State.rowEng
      rw [popStore_fld State.rows (fun _ _ => rfl) (fun _ _ _ => rfl) hp, taken_rows]
    unfold State.sharedStored at ht
    rw [htask, (popStore_cur hp).trans (taken_cur s h), hrace] at ht
    exact ht
  refine ⟨fun hs => ⟨fun k hroom => runWord_done s _ h _ _ _ k ?_, fun k hroom => runWord_done s _ h _ _ _ k ?_⟩,
    fun ho hw hc hr => ⟨fun t data k hp => ⟨fun hf => runWord_done s _ h _ _ _ k ?_, fun hf => runWord_fault s _ h _ _ k ?_⟩,
      fun t rows k hp hf => runWord_done s _ h _ _ _ k ?_⟩, fun ho hf k hroom => runWord_fault s _ h _ _ k ?_⟩
  · refine (globalLoad_go (by rw [taken_myLrows]; exact hroom) hva' he' (by rw [hleaf]; exact check hs)).trans ?_
    rw [hleaf, hme, started none 8 hs]
    rfl
  · have h8 : c.toNat ≠ 8 := by have := c.isLt; omega
    refine (globalLoad_go (by rw [taken_myLrows]; exact hroom) hva' he' (by rw [hleaf]; exact check hs)).trans ?_
    rw [hleaf, hme, started md c.toNat hs, if_neg h8]
    unfold State.postUpdates
    rw [countSr_post]
  · rw [meaning_act]
    rw [hp]
    dsimp only
    rw [hme, (store ([data].getD 0 0) _ hp ho hw hc hr).1 hf]
    rfl
  · rw [meaning_act]
    rw [hp]
    dsimp only
    rw [hme, (store ([data].getD 0 0) _ hp ho hw hc hr).2 hf]
    rfl
  · rw [meaning_act]
    dsimp only
    rw [hp]
    dsimp only
    rw [taken_me, (store _ _ hp ho hw hc hr).1 hf]
    unfold State.postUpdates
    rw [countSr_laterN_post]
    rfl
  · refine (if_neg (by rw [taken_myLrows]; simp [loadRows, hroom])).trans ?_
    have hrace : (s.taken h).raceAt (shaKey sa) va = s.raceAt (shaKey sa) va := by
      unfold State.raceAt State.rowEng
      rw [taken_rows]
    have hn : ¬ (s.taken h).rowFree (shaKey sa) := fun hr => hf (by
      unfold State.rowFree at hr
      rw [taken_rows, taken_cur] at hr
      exact hr)
    rw [withAddr_hit _ hva' he', hleaf, hme]
    dsimp only
    rw [shaCheck_own (by rw [taken_devId]; exact ho), if_neg Bool.false_ne_true, plain_race hn, hrace]

end Sys2Proof.Machine
end

section
/-! SUPPORT. The words of the VE unit (R138 to R168): element-wise words, comparisons, moves, reductions and tile
words. -/

namespace Sys2Proof.Machine

section
variable {s : State} {i : Instr} {h : Hdr}

@[simp] theorem taken_dstFmt (s : State) (h : Hdr) (d : VOp) (q : QDst) (t : Fmt) :
    (s.taken h).myCtx.dstFmt d q t = s.myCtx.dstFmt d q t :=
  taken_myCtxFld (·.dstFmt d q t) (fun _ _ => rfl) s h

@[simp] theorem taken_freeDst (s : State) (h : Hdr) (d : VOp) : (s.taken h).myCtx.freeDst d = s.myCtx.freeDst d :=
  taken_myCtxFld (·.freeDst d) (fun _ _ => rfl) s h

@[simp] theorem taken_winFmt (s : State) (h : Hdr) (w : Nat) : (s.taken h).myCtx.winFmt w = s.myCtx.winFmt w :=
  taken_myCtxFld (·.winFmt w) (fun _ _ => rfl) s h

@[simp] theorem taken_maskOf (s : State) (h : Hdr) (md : Option ModF) : (s.taken h).maskOf md = s.maskOf md := by
  unfold State.maskOf
  rw [taken_me]

@[simp] theorem taken_vEnv (s : State) (h : Hdr) (ts td : Fmt) (md : Option ModF) (c : BitVec 2) :
    (s.taken h).vEnv ts td md c = s.vEnv ts td md c := by
  unfold State.vEnv
  rw [taken_me]

@[simp] theorem taken_dstRoom (s : State) (h : Hdr) (d : VOp) (w : Nat) : (s.taken h).dstRoom d w = s.dstRoom d w := by
  cases d with
  | reg n => rfl
  | que q => simp only [State.dstRoom, taken_srows]

@[simp] theorem taken_frameN (s : State) (h : Hdr) (o n : Nat) : (s.taken h).frameN o n = s.frameN o n := by
  unfold State.frameN
  rw [taken_myCoreFld (·.frame) (fun _ _ _ => rfl) s h, taken_myCtxFld (·.fo) (fun _ _ => rfl) s h]

@[simp] theorem taken_tileRows (s : State) (h : Hdr) (v : Word) (w : Nat) : (s.taken h).tileRows v w = s.tileRows v w := by
  simp only [State.tileRows, taken_frameN]

/-- One register or one queue entry is always a group (R141). -/
theorem groupOk_one (x : BitVec 5) : groupOk (vop x) 1 = true := by
  unfold vop
  split
  · next hx =>
    have : idxOf x.toNat + 1 ≤ 14 := by unfold idxOf; split <;> omega
    simp [groupOk, Nat.mod_one, this]
  · rfl

theorem groupsOk_two (a b : BitVec 5) : ∀ g ∈ [(vop a, 1), (vop b, 1)], groupOk g.1 g.2 = true := by
  simp [groupOk_one]

/-- A VE word whose groups are in order, with nothing interlocked, room and its sources there (R142, R145, R146). -/
theorem vecRun_go {t t' : State} {cls wd : Nat} {srcs : List (VOp × Nat)} {d : BitVec 5} {td : Fmt} {code : BitVec 2}
    {f : List (List Nat) → List (Option Nat) × Nat} {gs : List (List Nat)}
    (hi : ∀ reads, t.me.interlocked reads = false) (hg : ∀ g ∈ srcs, groupOk g.1 g.2 = true)
    (hd : groupOk (vop d) wd = true) (hr : t.dstRoom (vop d) wd = true) (hs : t.sources srcs = some (t', gs)) :
    t.vecRun cls srcs (vop d) td wd code f = .done (t'.landsGroup cls d td wd code (f gs)) .seq := by
  unfold State.vecRun
  rw [List.all_eq_true.2 hg, hd, hi, hr, hs]
  rfl

/-- The same of a word that issues. -/
theorem vecRun_issues (k : s.Issues i h) {t : State} {cls wd : Nat} {srcs : List (VOp × Nat)} {d : BitVec 5} {td : Fmt}
    {code : BitVec 2} {f : List (List Nat) → List (Option Nat) × Nat} {gs : List (List Nat)}
    (hg : ∀ g ∈ srcs, groupOk g.1 g.2 = true) (hd : groupOk (vop d) wd = true) (hr : s.dstRoom (vop d) wd = true)
    (hs : (s.taken h).sources srcs = some (t, gs)) :
    (s.taken h).vecRun cls srcs (vop d) td wd code f = .done (t.landsGroup cls d td wd code (f gs)) .seq :=
  vecRun_go (taken_interlocked k) hg hd (by rw [taken_dstRoom, hr]) hs

/-- A VE word whose destination is no group is VIEW_RANGE. -/
theorem vecRun_range (t : State) (cls wd : Nat) (srcs : List (VOp × Nat)) (dst : VOp) (td : Fmt) (code : BitVec 2)
    (f : List (List Nat) → List (Option Nat) × Nat) (hd : groupOk dst wd = false) :
    t.vecRun cls srcs dst td wd code f = .fault { code := fViewRange } := by
  unfold State.vecRun
  exact if_pos (by simp [hd])

/-- An element-wise word that issues in order. -/
theorem vspec_go (k : s.Issues i h) {md : Option ModF} {d : BitVec 5} {v : VSpec} {ts td : Fmt} {t : State}
    {gs : List (List Nat)} (ht : s.myCtx.srcFmt (v.srcs.map vop) = some ts)
    (hd : s.myCtx.dstFmt (vop d) v.qdst ts = some td) (ho : v.ok ts td = true)
    (hg : ∀ g ∈ v.groups d ts td, groupOk g.1 g.2 = true) (hw : groupOk (vop d) (elemCount ts td / td.lanes) = true)
    (hr : s.dstRoom (vop d) (elemCount ts td / td.lanes) = true)
    (hs : (s.taken h).sources (v.groups d ts td) = some (t, gs)) :
    v.act md d (s.taken h) =
      .done (t.landsGroup v.cls d td (elemCount ts td / td.lanes) (effCode md v.code) (s.elements v md ts td gs)) .seq := by
  have hm : (v.srcs.map vop).map (·, elemCount ts td / ts.lanes) = v.srcs.map fun x => (vop x, elemCount ts td / ts.lanes) :=
    List.map_map
  unfold VSpec.act
  dsimp only
  rw [taken_srcFmt, ht]
  dsimp only
  rw [taken_dstFmt, hd]
  dsimp only
  rw [ho, Bool.not_true, if_neg Bool.false_ne_true, hm, taken_vEnv, taken_maskOf, List.length_map]
  exact vecRun_issues k hg hw hr hs

/-- An element-wise word whose types or whose destination group its rule refuses. -/
theorem vspec_range (md : Option ModF) (d : BitVec 5) (v : VSpec) (t : State)
    (hb : t.myCtx.srcFmt (v.srcs.map vop) = none ∨
      ∃ ts td, t.myCtx.srcFmt (v.srcs.map vop) = some ts ∧ t.myCtx.dstFmt (vop d) v.qdst ts = some td ∧
        (v.ok ts td = false ∨ groupOk (vop d) (elemCount ts td / td.lanes) = false)) :
    v.act md d t = .fault { code := fViewRange } := by
  unfold VSpec.act
  dsimp only
  obtain hn | ⟨ts, td, ht, hd, hv⟩ := hb
  · rw [hn]
  · rw [ht]
    dsimp only
    rw [hd]
    dsimp only
    obtain ho | hw := hv
    · rw [ho]
      rfl
    · rw [vecRun_range _ _ _ _ _ _ _ _ hw, ite_self]

theorem bits2_shl (a b : BitVec 5) : (bits2 a b fun n x y => x <<< (y % n)) = bits2 a b fun n x y => x * 2 ^ (y % n) := by
  simp only [Nat.shiftLeft_eq]

theorem bits2_shr (a b : BitVec 5) : (bits2 a b fun n x y => x >>> (y % n)) = bits2 a b fun n x y => x / 2 ^ (y % n) := by
  simp only [Nat.shiftRight_eq_div_pow]

/-- Every element-wise word is executed by the element rule of its table row. -/
theorem exec_elementWord {md : Option ModF} {d : BitVec 5} {v : VSpec} (hi : i.hdr? = some h)
    (e : elementWord i = some (md, d, v)) (s : State) : exec i s = runWord i h (v.mean md d) s := by
  unfold elementWord at e
  split at e
  case h_33 => cases e; cases hi; rw [← bits2_shl]; rfl
  case h_34 => cases e; cases hi; rw [← bits2_shr]; rfl
  all_goals cases e
  all_goals cases hi; rfl

/-- Settles O18. -/
theorem elementWordsComputeEveryElement : Obligations.ElementWordsComputeEveryElement := by
  refine ⟨fun s i h md d v ts td t gs k e ht hd ho hg hw hr hs => ?_, fun s i h md d v k e hb => ?_⟩
  · rw [exec_elementWord k.hdr e]
    exact runWord_done s i h _ _ _ k (vspec_go k ht hd ho hg hw hr hs)
  · rw [exec_elementWord k.hdr e]
    exact runWord_fault s i h _ _ k (vspec_range md d v _ (by simpa only [taken_srcFmt, taken_dstFmt] using hb))

/-- A change of the current context that keeps its clusters keeps the current one. -/
theorem modMyCtx_me (t : State) (f : Ctx → Ctx) (hf : ∀ x, (f x).clus = x.clus) : (t.modMyCtx f).me = t.me :=
  clu_modCtx t t.cur t.cur f hf

/-- Reading a source changes no cluster. -/
theorem source_me {t t' : State} {o : VOp} {w : Nat} {g : List Nat} (e : t.source o w = some (t', g)) : t'.me = t.me := by
  cases o with
  | reg n => cases e; rfl
  | que q =>
    unfold State.source at e
    dsimp only at e
    split at e
    · cases e
    · next rows rest _ =>
      rw [← (Prod.mk.inj (Option.some.inj e)).1]
      have ha : (t.acquireRows rows).me = t.me := (acquireRows_known t rows).fld State.me fun _ _ => rfl
      exact (modMyCtx_me (t.acquireRows rows) (fun x => { x.setCir _ with lq := tblPut x.lq q rest }) fun x =>
        setCir_fld Ctx.clus (fun _ _ _ => rfl) x _).trans ha

theorem sources_me : ∀ (l : List (VOp × Nat)) {t t' : State} {gs : List (List Nat)}, t.sources l = some (t', gs) →
    t'.me = t.me
  | [], _, _, _, e => by cases e; rfl
  | (o, w) :: l, t, t', gs, e => by
    unfold State.sources at e
    split at e
    · cases e
    · next u g hu =>
      obtain ⟨⟨v, r⟩, hv, he⟩ := Option.map_eq_some_iff.1 e
      cases he
      exact (sources_me l hv).trans (source_me hu)

/-- A compare word that issues with its sources there. -/
theorem maskAct_go (k : s.Issues i h) (w : CompareWord) {ts : Fmt} {t : State} {ga gb : List Nat}
    (ht : s.myCtx.srcFmt [vop w.a, vop w.b] = some ts) (ho : w.ok ts = true)
    (hs : (s.taken h).sources [(vop w.a, 1), (vop w.b, 1)] = some (t, [ga, gb])) :
    maskAct w.cls w.md w.k w.a w.b w.ok w.test (s.taken h) = .done (t.later w.cls [s.maskResult w ts ga gb]) .seq := by
  have hm : t.maskOf w.md = s.maskOf w.md := by
    unfold State.maskOf
    rw [sources_me _ hs, taken_me]
  unfold maskAct
  dsimp only
  rw [taken_srcFmt, ht]
  dsimp only
  rw [ho, Bool.not_true, if_neg Bool.false_ne_true, taken_interlocked k, if_neg Bool.false_ne_true,
    show [vop w.a, vop w.b].map (·, 1) = [(vop w.a, 1), (vop w.b, 1)] from rfl, hs]
  dsimp only
  rw [hm]
  rfl

/-- Every compare word is executed by its test. -/
theorem exec_compareWord {w : CompareWord} (hi : i.hdr? = some h) (e : compareWord i = some w) (s : State) :
    exec i s = runWord i h (meaning (maskLocs w.md) (maskAct w.cls w.md w.k w.a w.b w.ok w.test)) s := by
  unfold compareWord at e
  split at e
  all_goals cases e
  all_goals cases hi; rfl

/-- Settles O19. -/
theorem compareWordsSetTheirMask : Obligations.CompareWordsSetTheirMask := by
  intro s i h w ts t ga gb k e ht ho hs
  rw [exec_compareWord k.hdr e]
  exact runWord_done s i h _ _ _ k (maskAct_go k w ht ho hs)

/-- A word without flags whose elements are all on. -/
theorem maskedElems_all (z : Bool) (n : Nat) (f : Nat → Nat) :
    maskedElems (fun _ => true) z n (fun j => (f j, NumFlags.none)) = ((List.range n).map fun j => some (f j), 0) := by
  have hc (l : List Nat) : (l.map fun j => some (f j, NumFlags.none)).foldl
      (fun b e => match e with | some (_, fl) => b ||| cirOf fl | none => b) 0 = 0 := by
    induction l with
    | nil => rfl
    | cons a l ih => exact ih
  unfold maskedElems
  refine Prod.ext ?_ (hc _)
  simp

/-- The two sources of a word by element number. -/
theorem pair_getD (l : List Nat) (p : Bool) :
    l.getD (if p then 0 else 1) 0 = if p then l.getD 0 0 else l.getD 1 0 := by
  cases p <;> rfl

theorem getD_parity (l : List Nat) (j : Nat) : l.getD (j % 2) 0 = if j % 2 = 0 then l.getD 0 0 else l.getD 1 0 := by
  split
  · next hj => rw [hj]
  · next hj => rw [show j % 2 = 1 by omega]

/-- A word of one-register operands that issues in order (R163 to R166). -/
theorem oneReg_go (k : s.Issues i h) {t : State} {cls : Nat} {md : Option ModF} {srcs : List VOp} {d : BitVec 5}
    {td : Fmt} {f : List Nat → Nat → Nat} {gs : List (List Nat)} (hg : ∀ o ∈ srcs, groupOk o 1 = true)
    (hr : s.dstRoom (vop d) 1 = true) (hs : (s.taken h).sources (srcs.map (·, 1)) = some (t, gs)) :
    (s.taken h).oneReg cls md srcs (vop d) td f = .done (t.landsGroup cls d td 1 0 (maskedElems (s.maskOf md) (zeroOf md)
      td.lanes fun j => (f (gs.map fun g => g.getD 0 0) j, NumFlags.none))) .seq := by
  unfold State.oneReg
  rw [taken_maskOf]
  exact vecRun_issues k (by simpa using hg) (groupOk_one d) hr hs

/-- A broadcast that issues in order. -/
theorem splat_go (k : s.Issues i h) {cls : Nat} {md : Option ModF} {d : BitVec 5} {td : Fmt} (v : Nat)
    (hd : s.myCtx.freeDst (vop d) = some td) (hr : s.dstRoom (vop d) 1 = true) :
    (s.taken h).splat cls md d v = .done ((s.taken h).landsGroup cls d td 1 0
      (maskedElems (s.maskOf md) (zeroOf md) td.lanes fun _ => (v % 2 ^ td.width, NumFlags.none))) .seq := by
  unfold State.splat
  rw [taken_freeDst, hd]
  exact oneReg_go k (by simp) hr rfl

/-- A word of two sources of its destination's type. -/
theorem pair_go {d a b : BitVec 5} {ts : Fmt} (ht : s.myCtx.srcFmt [vop a, vop b] = some ts)
    (hd : s.myCtx.dstFmt (vop d) .source ts = some ts) (f : Fmt → Act) : (s.taken h).pair d a b f = f ts := by
  unfold State.pair
  rw [taken_srcFmt, ht]
  exact if_pos (by rw [taken_dstFmt, hd])

/-- Settles O20. -/
theorem movesAndPermutes : Obligations.MovesAndPermutes := by
  intro s h x md d a b m ts td tb t ga gb gd on z plain one hr
  refine ⟨fun k ht hd hs => ?_, fun k hd => ?_, fun k hd => ?_, ?_, fun ht hd hs =>
    ⟨fun k => ?_, fun k => ?_⟩, fun k ht hs => ?_, fun k hd => ?_, fun k ht hd hi h8 hj h32 hs => ?_⟩
  · refine runWord_done s _ h _ _ _ k ?_
    rw [meaning_act, taken_srcFmt, ht]
    dsimp only
    rw [taken_dstFmt, hd]
    dsimp only
    rw [oneReg_go (srcs := [vop a]) k (by simp [groupOk_one]) hr hs]
    rfl
  · refine runWord_done s _ h _ _ _ k ?_
    rw [meaning_act, taken_me]
    exact splat_go k _ hd hr
  · exact runWord_done s _ h _ _ _ k (splat_go k _ hd hr)
  · intro k ht hd hb hi wb hw hs
    refine runWord_done s _ h _ _ _ k ?_
    rw [meaning_act]
    dsimp only
    rw [taken_srcFmt]
    generalize hf : s.myCtx.srcFmt _ = f
    obtain rfl := hf.symm.trans ht
    dsimp only
    simp only [taken_winFmt]
    rw [taken_dstFmt, hd]
    split
    · next hd' hb' =>
      obtain rfl := Option.some.inj hd'
      obtain rfl := Option.some.inj (hb'.symm.trans hb)
      rw [hi, if_neg (by simp), taken_maskOf]
      rw [vecRun_issues (srcs := [(vop a, 1), (vop b, wb)]) k (by simpa [groupOk_one] using hw) (groupOk_one d) hr hs]
      rfl
    · next hno => exact absurd hb (hno _ _ rfl)
  · refine runWord_done s _ h _ _ _ k ?_
    rw [meaning_act, pair_go ht hd, oneReg_go (srcs := [vop a, vop b]) k (by simp [groupOk_one]) hr hs]
    simp only [getD_parity]
    rfl
  · refine runWord_done s _ h _ _ _ k ?_
    rw [meaning_act]
    dsimp only
    rw [pair_go ht hd, oneReg_go (srcs := [vop a, vop b]) k (by simp [groupOk_one]) hr hs]
    simp only [pair_getD, taken_maskOf]
    exact congrArg (fun e => Act.done (t.landsGroup 3 d ts 1 0 e) .seq) (maskedElems_all _ _ _)
  · refine runWord_done s _ h _ _ _ k ?_
    rw [meaning_act, taken_srcFmt, ht]
    dsimp only
    rw [taken_interlocked k, if_neg Bool.false_ne_true, hs, taken_me]
    rfl
  · refine runWord_done s _ h _ _ _ k ?_
    rw [meaning_act, taken_freeDst, hd]
    dsimp only
    rw [taken_me]
    exact vecRun_issues k (by simp) (groupOk_one d) hr rfl
  · refine runWord_done s _ h _ _ _ k ?_
    rw [meaning_act]
    dsimp only
    rw [taken_srcFmt, ht]
    dsimp only
    rw [taken_dstFmt, hd]
    dsimp only
    rw [if_neg (by simp [hi, h8, hj, h32]), taken_maskOf]
    simp only [Nat.shiftRight_eq_div_pow]
    rw [vecRun_issues (srcs := [(vop a, 1), (vop b, 1), (vop d, 1)]) k (by simp [groupOk_one]) (groupOk_one d) hr hs]
    rfl

/-- The tile view of a context stands when tokens are popped. -/
theorem taken_tile (s : State) (h : Hdr) : (s.taken h).myCtx.view 2 = s.myCtx.view 2 := taken_myView s h 2

/-- A reduction that issues in order (R166). -/
theorem reduceWord_go (k : s.Issues i h) {op : Nat} {md : Option ModF} {d a : BitVec 5} {ts td : Fmt} {t : State}
    {ga : List Nat} (hr : s.dstRoom (vop d) 1 = true) (ht : s.myCtx.srcFmt [vop a] = some ts)
    (hd : s.myCtx.dstFmt (vop d) .vw1 ts = some td) (hf : ts.isFloat = td.isFloat)
    (hs : (s.taken h).sources [(vop a, 1)] = some (t, [ga])) :
    let env := s.vEnv ts td md 0
    let xs := (((elemsOf ts.width ts.lanes (ga.getD 0 0)).zipIdx.filter fun e => s.maskOf md e.2).map Prod.fst)
    let r := roundTo td env.rm (env.sr 0) false (reduceVal op ts td env.rm xs)
    (reduceWord op md d a).act (s.taken h) = .done (t.landsGroup 7 d td 1 (effCode md 0)
      (some r.1 :: List.replicate (td.lanes - 1) (some 0), cirOf r.2)) .seq := by
  intro env xs r
  unfold reduceWord
  rw [meaning_act, taken_srcFmt, ht]
  dsimp only
  rw [taken_dstFmt, hd]
  dsimp only
  rw [if_neg (not_not_intro hf), taken_vEnv, taken_maskOf]
  rw [vecRun_issues k (by simp [groupOk_one]) (groupOk_one d) hr hs]
  rfl

/-- A tile sum that issues in order (R167). -/
theorem tileSum_go (k : s.Issues i h) {row : Bool} {md : Option ModF} {d : BitVec 5} {ts td : Fmt}
    (hr : s.dstRoom (vop d) 1 = true) (ht : typeFmt (tvType (s.myCtx.view 2)) = some ts)
    (hd : s.myCtx.dstFmt (vop d) .vw1 ts = some td) (hf : ts.isFloat = td.isFloat)
    (hl : (if row then tvRows (s.myCtx.view 2) else tvCols (s.myCtx.view 2)) ≤ td.lanes) :
    let tile := s.myCtx.view 2
    let env := s.vEnv ts td md 0
    let lines := if row then tvRows tile else tvCols tile
    (tileSum row md d).act (s.taken h) = .done ((s.taken h).landsGroup 7 d td 1 (effCode md 0)
      (maskedElems (s.maskOf md) (zeroOf md) td.lanes fun j =>
        if lines ≤ j then (0, NumFlags.none)
        else roundTo td env.rm (env.sr j) false (exactTotal env.rm
          ((if row then elemsOf ts.width (tvCols tile) ((s.tileRows tile ts.width).getD j 0)
            else (s.tileRows tile ts.width).map fun r => elemOf ts.width r j).map ts.decode)))) .seq := by
  intro tile env lines
  unfold tileSum
  rw [meaning_act]
  dsimp only
  rw [taken_tile, ht]
  dsimp only
  rw [taken_dstFmt, hd]
  dsimp only
  rw [if_neg (by simpa [hf] using hl), taken_interlocked k, if_neg Bool.false_ne_true, taken_vEnv, taken_maskOf,
    taken_tileRows]
  exact vecRun_issues k (by simp) (groupOk_one d) hr rfl

/-- Settles O21. -/
theorem reductionsAndTileWords : Obligations.ReductionsAndTileWords := by
  intro s h md d a ts td t ga env tile red sums
  refine ⟨fun hr ht hd hf hs => ⟨fun k => ?_, fun k => ?_, fun k => ?_⟩, fun hr ht hd hf => ⟨fun k hl => ?_, fun k hl => ?_⟩,
    fun k ht hq => ?_⟩
  · exact runWord_done s _ h _ _ _ k (reduceWord_go k hr ht hd hf hs)
  · exact runWord_done s _ h _ _ _ k (reduceWord_go k hr ht hd hf hs)
  · exact runWord_done s _ h _ _ _ k (reduceWord_go k hr ht hd hf hs)
  · exact runWord_done s _ h _ _ _ k (tileSum_go (row := true) k hr ht hd hf hl)
  · exact runWord_done s _ h _ _ _ k (tileSum_go (row := false) k hr ht hd hf hl)
  · refine runWord_done s _ h _ _ _ k ?_
    rw [meaning_act]
    dsimp only
    rw [taken_tile, ht]
    dsimp only
    rw [if_neg (not_not_intro hq), taken_interlocked k, if_neg Bool.false_ne_true, taken_tileRows]

end

end Sys2Proof.Machine
end

section
/-! SUPPORT. Words that push commands: matrix words and FMTPUSH (R270, R277 to R284), engine words (R287, R300 to R302,
R308 to R315, R340 to R343). -/

namespace Sys2Proof.Machine

section
variable {s : State} {i : Instr} {h : Hdr}

@[simp] theorem taken_myMxq (s : State) (h : Hdr) : (s.taken h).myCore.mxq = s.myCore.mxq :=
  taken_myCoreFld (·.mxq) (fun _ _ _ => rfl) s h

@[simp] theorem taken_myFmtq (s : State) (h : Hdr) : (s.taken h).myCtx.fmtq = s.myCtx.fmtq :=
  taken_myCtxFld (·.fmtq) (fun _ _ => rfl) s h

@[simp] theorem taken_myFmtIn (s : State) (h : Hdr) : (s.taken h).myCtx.fmtIn = s.myCtx.fmtIn :=
  taken_myCtxFld (·.fmtIn) (fun _ _ => rfl) s h

@[simp] theorem taken_myCks (s : State) (h : Hdr) (n : Nat) : (s.taken h).myCtx.cksOf n = s.myCtx.cksOf n :=
  taken_myCtxFld (·.cksOf n) (fun _ _ => rfl) s h

@[simp] theorem taken_myMxBad (s : State) (h : Hdr) : (s.taken h).myCtx.mxBad = s.myCtx.mxBad :=
  taken_myCtxFld (·.mxBad) (fun _ _ => rfl) s h

@[simp] theorem taken_myCtok (s : State) (h : Hdr) (t : Nat) : (s.taken h).myCtx.ctok t = s.myCtx.ctok t :=
  taken_myCtxFld (·.ctok t) (fun _ _ => rfl) s h

@[simp] theorem taken_myRemF (s : State) (h : Hdr) : (s.taken h).myCtx.remF = s.myCtx.remF :=
  taken_myCtxFld (·.remF) (fun _ _ => rfl) s h

@[simp] theorem taken_myColF (s : State) (h : Hdr) : (s.taken h).myCtx.colF = s.myCtx.colF :=
  taken_myCtxFld (·.colF) (fun _ _ => rfl) s h

@[simp] theorem taken_enFull (s : State) (h : Hdr) (q : EnQueue) : (s.taken h).myCore.enFull q = s.myCore.enFull q :=
  taken_myCoreFld (·.enFull q) (fun _ _ _ => rfl) s h

/-- A format word is refused by its rule, or because a pair begins at an odd accumulator. -/
theorem refused_eq (x p : Bool) : (!x || p) = !(x && !p) := by
  cases x <;> cases p <;> rfl

section mxPop
variable {acc : Nat} {ta tb w : Word} {rest : List Word} {fmtOk addrOk : Word → Bool} {rounds : Bool}

/-- The state in which a word that pops a format word has pushed its command (R270). -/
def State.mxPushed (s : State) (i : Instr) (ta tb w : Word) (rest : List Word) : State :=
  (s.pushMx i ta tb w).modMyCtx fun x => { x with fmtq := rest, popped := x.popped + 1 }

/-- A word that pops a format word, with all that it has to meet. -/
theorem mxPop_go (k : s.mxReady acc w rest (fmtOk w) (addrOk w)) : (s.taken h).mxPop i acc ta tb fmtOk addrOk rounds =
    .done (if rounds then ((s.taken h).mxPushed i ta tb w rest).countSr (fwRm w) else (s.taken h).mxPushed i ta tb w rest)
      .seq := by
  obtain ⟨hq, hw, hf, hp, hr, ha⟩ := k
  unfold State.mxPop
  rw [taken_myMxq, if_neg (by omega), taken_myFmtq, hw]
  dsimp only
  rw [hf, if_neg (by simpa using hp), taken_task, taken_myView, if_neg (by omega), ha]
  rfl

variable (hq : s.myCore.mxq.length < 8)
include hq

/-- The checks of Table 9.5 in order: no format word. -/
theorem mxPop_empty (he : s.myCtx.fmtq = []) :
    (s.taken h).mxPop i acc ta tb fmtOk addrOk rounds = .fault { code := fFormatUnderflow } := by
  unfold State.mxPop
  rw [taken_myMxq, if_neg (by omega), taken_myFmtq, he]

variable (he : s.myCtx.fmtq = w :: rest)
include he

theorem mxPop_word (hb : (fmtOk w && !(fwC w = 2 && acc % 2 = 1)) = false) :
    (s.taken h).mxPop i acc ta tb fmtOk addrOk rounds = .fault { code := fIllegalWord } := by
  unfold State.mxPop
  rw [taken_myMxq, if_neg (by omega), taken_myFmtq, he]
  dsimp only
  rw [refused_eq, hb]
  rfl

variable (hf : (fmtOk w && !(fwC w = 2 && acc % 2 = 1)) = true)
include hf

theorem mxPop_range (hr : ¬ accOff (s.myCtx.view 3) acc (fwC w = 2) + accLen (fwC w = 2) ≤ s.myTask.snap.frame) :
    (s.taken h).mxPop i acc ta tb fmtOk addrOk rounds = .fault { code := fViewRange } := by
  unfold State.mxPop
  rw [taken_myMxq, if_neg (by omega), taken_myFmtq, he]
  dsimp only
  rw [refused_eq, hf, Bool.not_true, if_neg Bool.false_ne_true, taken_task, taken_myView, if_pos (by omega)]

theorem mxPop_bank (hr : accOff (s.myCtx.view 3) acc (fwC w = 2) + accLen (fwC w = 2) ≤ s.myTask.snap.frame)
    (ha : addrOk w = false) : (s.taken h).mxPop i acc ta tb fmtOk addrOk rounds = .fault { code := fBankRule } := by
  unfold State.mxPop
  rw [taken_myMxq, if_neg (by omega), taken_myFmtq, he]
  dsimp only
  rw [refused_eq, hf, Bool.not_true, if_neg Bool.false_ne_true, taken_task, taken_myView, if_neg (by omega), ha]
  rfl

end mxPop

/-- Two scalars joined (R284). -/
theorem joinWords (a b : Word) : (b.truncate 32 ++ a.truncate 32 : Word) =
    BitVec.ofNat 64 (b.toNat % 2 ^ 32 * 2 ^ 32 + a.toNat % 2 ^ 32) := by
  apply BitVec.eq_of_toNat_eq
  rw [BitVec.toNat_append, BitVec.toNat_ofNat]
  simp only [BitVec.truncate_eq_setWidth, BitVec.toNat_setWidth]
  rw [← Nat.shiftLeft_add_eq_or_of_lt (by omega), Nat.shiftLeft_eq]
  omega

/-- A word of the matrix unit that does what its act says. -/
theorem runWord_mx {reads : List Loc} {f : State → Act} {t : State} (k : s.Issues i h)
    (e : f (s.taken h) = .done t .seq) : runWord i h (mxMeaning reads f) s = .next (s.issued i h .own t .seq) :=
  runWord_done s i h _ _ _ k e

/-- Settles O23. -/
theorem matrixWordsPushCommands : Obligations.MatrixWordsPushCommands := by
  refine ⟨?_, ?_⟩
  · intro s h c t u e f r a b w rest ta tb pushed
    refine ⟨fun k m => ?_, fun k m => ?_, fun k m => ?_, fun k m => ?_, fun k hq hr => ?_, fun k hq => ?_,
      fun k hr hm hb => ?_, fun k hr => ?_, fun k hq => ?_⟩
    · refine runWord_mx k ?_
      dsimp only
      rw [taken_me, mxPop_go m]
      rfl
    · refine runWord_mx k ?_
      dsimp only
      rw [taken_me, mxPop_go m]
      rfl
    · refine runWord_mx k ?_
      dsimp only
      rw [taken_me, mxPop_go m]
      rfl
    · refine runWord_mx k ?_
      dsimp only
      rw [taken_me, mxPop_go m]
      rfl
    · refine runWord_mx k ?_
      rw [taken_myMxq, if_neg (by omega), taken_task, taken_myView, if_neg (by omega)]
    · refine runWord_mx k ?_
      rw [taken_myMxq, if_neg (by omega)]
    · refine runWord_done s _ h _ _ _ k ?_
      have hf : ((s.taken h).mxOf (s.taken h).cur || (s.taken h).myCtx.mxBad) = false := by
        rw [taken_cur, taken_mxOf, hm, taken_myMxBad, hb]
        rfl
      rw [meaning_act, taken_task, taken_myView, if_neg (by omega), hf, if_neg Bool.false_ne_true, taken_myCks, taken_free]
    · refine runWord_fault s _ h _ _ k ?_
      rw [meaning_act, taken_task, taken_myView, if_pos hr]
      rfl
    · refine runWord_done s _ h _ _ _ k ?_
      rw [meaning_act, taken_myFmtq, taken_myFmtIn, if_neg (by omega), taken_me, joinWords]
  · intro s h c t u e f r w rest k hq fmt room
    have go {v : FaultInfo} (hv : ∀ ta tb, (s.taken h).mxPop (.mma h c t u e f r) c.toNat ta tb
        (fun w => fwMma w false (r = 1) (e = 1) (f = 1)) (fun w => mmaAddrOk w ta tb) true = .fault v) :
        exec (.mma h c t u e f r) s = .next (s.precise v) :=
      runWord_fault s _ h _ _ k (hv _ _)
    refine ⟨fun he => go fun ta tb => mxPop_empty hq he, fun he hb => go fun ta tb => mxPop_word hq he hb,
      fun he hf hr => go fun ta tb => mxPop_range hq he hf (of_decide_eq_false hr), fun he hf hr ha => ?_⟩
    refine runWord_fault s _ h _ _ k ?_
    show (s.taken h).mxPop (.mma h c t u e f r) c.toNat ((s.taken h).me.sreg t.toNat) ((s.taken h).me.sreg u.toNat) _
      (fun w => mmaAddrOk w ((s.taken h).me.sreg t.toNat) ((s.taken h).me.sreg u.toNat)) true = _
    rw [taken_me]
    exact mxPop_bank hq he hf (of_decide_eq_true hr) ha

/-- A word that only pushes a command, and that its values allow. -/
theorem enWord_go {q : EnQueue} {reads : List Nat} {d a b b1 : State → Word} {bad : State → Option Nat}
    (hi : s.Issues i h) (hb : bad (s.taken h) = none) (hf : s.myCore.enFull q = false) :
    runWord i h (enWord q i reads d a b b1 bad) s = .next (s.issued i h .own
      ((s.taken h).pushEn q i (d (s.taken h)) (a (s.taken h)) (b (s.taken h)) (b1 (s.taken h))) .seq) := by
  refine runWord_mx hi ?_
  rw [hb]
  dsimp only
  rw [taken_enFull, hf]
  rfl

/-- A word that only pushes a command, and that its values or its class forbid. -/
theorem enWord_bad {q : EnQueue} {reads : List Nat} {d a b b1 : State → Word} {bad : State → Option Nat} {code : Nat}
    (hi : s.Issues i h) (hb : bad (s.taken h) = some code) :
    runWord i h (enWord q i reads d a b b1 bad) s = .next (s.precise { code := code }) := by
  refine runWord_fault s i h _ _ hi ?_
  show (match bad (s.taken h) with | some code => Act.fault { code := code } | none => _) = _
  rw [hb]

theorem sval_taken (s : State) (h : Hdr) (r : BitVec 5) : sval r (s.taken h) = s.me.sreg r.toNat := by
  unfold sval
  rw [taken_me]

theorem protBad_taken (s : State) (h : Hdr) (c : Option Nat) :
    protBad (s.taken h) c = if (true && decide (s.myTask.cls ≠ 0)) = true then some 9 else c := by
  unfold protBad
  rw [taken_task, Bool.true_and]
  simp only [decide_eq_true_eq]
  rfl

theorem lengthBad_taken (s : State) (h : Hdr) (d : BitVec 5) :
    lengthBad d (s.taken h) = if 2 ^ 20 < (s.me.sreg d.toNat).toNat then some 1 else none := by
  unfold lengthBad
  rw [sval_taken]
  rfl

/-- What a word of the engines that only pushes a command is: its meaning, its captured values and its refusal. -/
structure PushesEn (s : State) (i : Instr) (h : Hdr) (q : EnQueue) (d a b b1 : Word) where
  reads : List Nat
  fd : State → Word
  fa : State → Word
  fb : State → Word
  fb1 : State → Word
  bad : State → Option Nat
  word : exec i s = runWord i h (enWord q i reads fd fa fb fb1 bad) s
  refusal : bad (s.taken h) = s.enRefusal i
  d_eq : fd (s.taken h) = d
  a_eq : fa (s.taken h) = a
  b_eq : fb (s.taken h) = b
  b1_eq : fb1 (s.taken h) = b1

/-- Every word with a row of State.enCommand pushes the command of its row. -/
theorem enCommand_pushes {q : EnQueue} {d a b b1 : Word} (hi : i.hdr? = some h)
    (e : s.enCommand i = some (q, d, a, b, b1)) : Nonempty (PushesEn s i h q d a b b1) := by
  unfold State.enCommand at e
  dsimp only at e
  split at e
  all_goals cases e
  all_goals cases hi
  · exact ⟨_, _, _, _, _, _, rfl, by rw [protBad_taken, lengthBad_taken]; rfl, sval_taken .., sval_taken .., sval_taken .., rfl⟩
  · exact ⟨_, _, _, _, _, _, rfl, lengthBad_taken .., sval_taken .., sval_taken .., sval_taken .., rfl⟩
  · exact ⟨_, _, _, _, _, _, rfl, protBad_taken .., rfl, sval_taken .., sval_taken .., sval_taken ..⟩
  · exact ⟨_, _, _, _, _, _, rfl, rfl, rfl, rfl, rfl, rfl⟩
  · exact ⟨_, _, _, _, _, _, rfl, protBad_taken .., rfl, sval_taken .., rfl, rfl⟩
  · exact ⟨_, _, _, _, _, _, rfl, protBad_taken .., rfl, sval_taken .., rfl, rfl⟩
  · refine ⟨_, _, _, _, _, _, rfl, ?_, rfl, sval_taken .., sval_taken .., rfl⟩
    rw [protBad_taken, sval_taken]
    dsimp only
    rw [taken_tq, taken_task]
    rfl
  · exact ⟨_, _, _, _, _, _, rfl, protBad_taken .., rfl, sval_taken .., rfl, rfl⟩
  · refine ⟨_, _, _, _, _, _, rfl, ?_, rfl, sval_taken .., sval_taken .., rfl⟩
    rw [protBad_taken, sval_taken]
    simp [State.enRefusal, fIllegalWord]
  · exact ⟨_, _, _, _, _, _, rfl, protBad_taken .., rfl, rfl, rfl, rfl⟩
  · exact ⟨_, _, _, _, _, _, rfl, rfl, rfl, sval_taken .., rfl, rfl⟩

/-- CPY and CPYL with room for their token and their command (R300). -/
theorem copyWord_go (j : Instr) {t a b : BitVec 5} (hp : (s.myCtx.ctok t.toNat).pend < 15)
    (hq : s.myCore.cpq.length < 32) : (copyWord j t a b).act (s.taken h) =
    .done (((s.taken h).pushEn .copy j 0 (s.me.sreg a.toNat) (s.me.sreg b.toNat) 0).modMyCtx fun x => x.pendUp t.toNat)
      .seq := by
  have hf : s.myCore.enFull .copy = false := decide_eq_false (by omega)
  show (if 15 ≤ ((s.taken h).myCtx.ctok t.toNat).pend then _ else if (s.taken h).myCore.enFull .copy = true then _ else _) = _
  rw [taken_myCtok, if_neg (by omega), taken_enFull, hf, if_neg Bool.false_ne_true, sval_taken, sval_taken]

/-- Settles O24. -/
theorem engineWordsPushCommands : Obligations.EngineWordsPushCommands := by
  refine ⟨fun s i h t a b => ⟨fun q d x y z k e hr hf => ?_, fun q v code k e hr => ?_, fun k hp hq => ?_, fun k hp hq => ?_⟩, ?_⟩
  · obtain ⟨p⟩ := enCommand_pushes k.hdr e
    rw [p.word, enWord_go k (p.refusal.trans hr) hf, p.d_eq, p.a_eq, p.b_eq, p.b1_eq]
  · obtain ⟨d, x, y, z⟩ := v
    obtain ⟨p⟩ := enCommand_pushes k.hdr e
    rw [p.word, enWord_bad k (p.refusal.trans hr)]
  · exact runWord_done s _ h _ _ _ k (copyWord_go _ hp hq)
  · exact runWord_done s _ h _ _ _ k (copyWord_go _ hp hq)
  · intro s h p t d f e rest k bad
    refine ⟨fun i hp hs => ?_, fun i hp hs => ?_, fun i hp => ?_, fun i hp hs => ?_, fun i hp hs => ?_,
      fun i hf hl hs => ?_, fun i hl hs => ?_, fun i hf hl hs => ?_⟩
    · refine runWord_done s _ h _ _ _ i ?_
      rw [meaning_act, taken_myCtok]
      exact (if_neg (not_not_intro hp)).trans (if_neg (not_not_intro hs))
    · refine runWord_fault s _ h _ _ i ?_
      rw [meaning_act, taken_myCtok]
      exact (if_neg (not_not_intro hp)).trans (if_pos hs)
    · refine runWord_done s _ h _ _ _ i ?_
      rw [meaning_act, taken_myCtok]
      exact if_pos hp
    · refine runWord_done s _ h _ _ _ i ?_
      rw [meaning_act, taken_myCtok]
      exact (if_neg (not_not_intro hp)).trans (if_neg (not_not_intro hs))
    · refine runWord_fault s _ h _ _ i ?_
      rw [meaning_act, taken_myCtok]
      exact (if_neg (not_not_intro hp)).trans (if_pos hs)
    · refine runWord_done s _ h _ _ _ i ?_
      rw [meaning_act]
      dsimp only
      rw [taken_myRemF, if_pos hf, hl]
      simp only [hs, hf, ne_eq, not_true_eq_false, if_false, if_true]
      exact congrArg (fun c => Act.done ((((s.taken h).modMyCtx fun x => { x with remF := rest }).teach e.past
        (.clu c)).later 0 [.scal d.toNat e.v]) .seq) (taken_cur s h)
    · refine runWord_fault s _ h _ _ i ?_
      rw [meaning_act]
      dsimp only
      have hq : (if f = 0 then s.myCtx.remF else s.myCtx.colF) = e :: rest := by
        obtain ⟨hf, hl⟩ | ⟨hf, hl⟩ := hl
        · rw [if_pos hf, hl]
        · rw [if_neg hf, hl]
      rw [taken_myRemF, taken_myColF, hq]
      exact if_pos hs
    · refine runWord_done s _ h _ _ _ i ?_
      rw [meaning_act]
      dsimp only
      subst hf
      rw [taken_myColF, if_neg (by decide), hl]
      simp only [hs, ne_eq, not_true_eq_false, if_false]
      exact congrArg (fun c => Act.done ((((s.taken h).modMyCtx fun x => { x with colF := rest }).teach e.past
        (.clu c)).later 0 [.scal d.toNat e.v]) .seq) (taken_cur s h)

end

end Sys2Proof.Machine
end

section
/-! SUPPORT. The SY words that ask and wait (R333, R335, R356, R384 to R393), and those that resume and load (R383, R387,
R390 to R392). -/

namespace Sys2Proof.Machine

section bits

theorem bitN_eq (x i : Nat) : bitN x i = decide (x / 2 ^ i % 2 = 1) := Nat.testBit_eq_decide_div_mod_eq

theorem bitN_lt {x i : Nat} (hx : x < 2 ^ i) : bitN x i = false := Nat.testBit_lt_two_pow hx

theorem bitsN_eq (x lo n : Nat) : bitsN x lo n = x / 2 ^ lo % 2 ^ n := by
  rw [bitsN, Nat.shiftRight_eq_div_pow]

/-- A selector whose value fits below the fields that its word does not name is in order (R389). -/
theorem selOk_of_lt {v : Word} {m n q : Nat} (hm : 2 ^ 64 - 1 - m = 2 ^ n * q) (hv : v.toNat < 2 ^ n) : selOk v m = true := by
  refine decide_eq_true ?_
  rw [hm]
  refine Nat.eq_of_testBit_eq fun i => ?_
  rw [Nat.testBit_and, Nat.testBit_two_pow_mul, Nat.zero_testBit]
  by_cases hi : n ≤ i
  · rw [Nat.testBit_lt_two_pow (Nat.lt_of_lt_of_le hv (Nat.pow_le_pow_right (by decide) hi)), Bool.false_and]
  · simp [hi]

end bits

section asked

/-- The state of a system word that has asked and waits (R389). -/
def State.hubAsked (t : State) (v : Option Word) (tok : Tbl Nat) : State :=
  ((t.modMe fun c => { c with asked := true, answer := v }).modMyCtx fun x => { x with tok := tok }).stallOn .hub

variable (t : State) (v : Option Word) (tok : Tbl Nat)

@[simp] theorem hubAsked_me : (t.hubAsked v tok).me = { t.me with asked := true, answer := v, wait := some .hub } := by
  unfold State.hubAsked
  rw [stalled_me, me_modMe]

/-- Asking keeps what a change of the asking context keeps. -/
theorem hubAsked_fld {α : Type} (g : State → α) (hg : ∀ s k f, g (State.modCtx s k f) = g s) : g (t.hubAsked v tok) = g t :=
  (hg _ _ _).trans ((hg _ _ _).trans (hg _ _ _))

theorem hubAsked_coreFld {α : Type} (g : Core → α) (hg : ∀ c n f, g (Core.modCtx c n f) = g c) (n : Nat) :
    g ((t.hubAsked v tok).core n) = g (t.core n) :=
  hubAsked_fld t v tok (fun s => g (s.core n)) fun s k f => coreFld_modCtx g hg s k f n

theorem hubAsked_ctxFld {α : Type} (g : Ctx → α) (hg : ∀ x u f, g (Ctx.modClu x u f) = g x)
    (ht : ∀ x tk, g { x with tok := tk } = g x) (k : Who) : g ((t.hubAsked v tok).ctxOf k) = g (t.ctxOf k) :=
  (ctxFld_modClu g hg _ _ _ _).trans ((ctxFld_modCtx g _ _ _ _ fun x => ht x _).trans (ctxFld_modClu g hg _ _ _ _))

@[simp] theorem hubAsked_part (p : Nat) : (t.hubAsked v tok).part p = t.part p :=
  hubAsked_fld t v tok (State.part · p) fun _ _ _ => rfl

@[simp] theorem hubAsked_tq (q : Nat) : (t.hubAsked v tok).tq q = t.tq q := hubAsked_fld t v tok (State.tq · q) fun _ _ _ => rfl

variable {s : State} {i : Instr} {h : Hdr}

/-- A system word that asks. -/
theorem runWord_asks {reads : List Loc} {f : State → Act} {u : State} {v : Option Word} (k : s.Issues i h)
    (e : f (s.taken h) = syAsk v u) : runWord i h (meaning reads f) s = .next (u.hubAsked v s.myCtx.tok) :=
  runWord_stall s i h _ .hub _ k e

/-- A system word that tells its status (R389). -/
theorem runWord_tells {reads : List Loc} {f : State → Act} {u : State} {d : BitVec 5} {r : Nat} (k : s.Issues i h)
    (e : f (s.taken h) = syDone d r u) : runWord i h (meaning reads f) s =
    .next (s.issued i h .latency (u.laterN 1 [.scal d.toNat (BitVec.ofNat 64 r)]) .seq) :=
  runWord_done s i h _ _ _ k e

end asked

section
variable {s : State} {h : Hdr}

@[simp] theorem taken_hasDie (s : State) (h : Hdr) (d : Nat) : (s.taken h).hasDie d = s.hasDie d :=
  taken_fld (State.hasDie · d) (fun _ _ _ => rfl) s h

@[simp] theorem taken_tlbBusy (s : State) (h : Hdr) (p a m n : Nat) : (s.taken h).tlbBusy p a m n = s.tlbBusy p a m n :=
  taken_fld (State.tlbBusy · p a m n) (fun _ _ _ => rfl) s h

@[simp] theorem taken_almBusy (s : State) (h : Hdr) (p : Nat) : (s.taken h).almBusy p = s.almBusy p :=
  taken_fld (State.almBusy · p) (fun _ _ _ => rfl) s h

@[simp] theorem taken_dumped (s : State) (h : Hdr) (k : Who) : ((s.taken h).ctxOf k).dumped = (s.ctxOf k).dumped :=
  taken_ctxFld (·.dumped) (fun _ _ => rfl) s h k

@[simp] theorem taken_busy (s : State) (h : Hdr) (n : Nat) : ((s.taken h).core n).busy = (s.core n).busy :=
  taken_coreFld (·.busy) (fun _ _ _ => rfl) s h n

/-- Whether a cluster of a context has stopped, whichever tokens the current word popped. -/
theorem taken_anyStopped (s : State) (h : Hdr) (k : Who) :
    (cluList.any fun w => decide ((((s.taken h).ctxOf k).clu w).run = .stopped)) =
      cluList.any fun w => decide ((s.clu { k with clu := w }).run = .stopped) :=
  taken_ctxFld (fun x => cluList.any fun w => decide ((x.clu w).run = .stopped)) (fun _ _ => rfl) s h k

/-- Whether a context of a core is resident, whichever tokens the current word popped. -/
theorem taken_anyTask (s : State) (h : Hdr) (n : Nat) :
    ((List.range 4).any fun x => (((s.taken h).core n).ctx x).task.isSome) =
      (List.range 4).any fun x => ((s.core n).ctx x).task.isSome :=
  congrArg (List.any (List.range 4)) (funext fun x => congrArg Option.isSome (taken_ctxTask s h ⟨n, x, .c⟩))

/-- A TLB without the entries that an invalidation names. -/
def Core.dropTlb (bad : TlbE → Bool) (c : Core) : Core :=
  { c with tlb := c.tlb.filter fun e => !bad e,
           walkBad := c.walkBad.filter fun (p, v) => !bad ⟨p, 65536 * v, 65536, 0, false⟩ }

/-- An entry of a table whose values are all changed. -/
theorem tblGet_map_of {α β : Type} (g : α → β) (f : α → α) (d : α) (t : Tbl α) (n : Nat) (hd : g (f d) = g d) :
    g (tblGet d (t.map fun e => (e.1, f e.2)) n) = g (f (tblGet d t n)) := by
  unfold tblGet
  rw [tblFind_map fun _ => f]
  cases tblFind t n with
  | none => exact hd.symm
  | some c => rfl

/-- No TLB keeps an entry that an invalidation names (R335). -/
theorem tlbDrop_core (s : State) (bad : TlbE → Bool) (n : Nat) :
    ((s.tlbDrop bad).core n).tlb = (s.core n).tlb.filter fun e => !bad e :=
  tblGet_map_of Core.tlb (Core.dropTlb bad) Core.reset s.cores n rfl

theorem tlbDrop_die (s : State) (bad : TlbE → Bool) (n : Nat) :
    ((s.tlbDrop bad).die n).tlb = (s.die n).tlb.filter fun e => !bad e :=
  tblGet_map_of Die.tlb (fun d => { d with tlb := d.tlb.filter fun e => !bad e }) Die.reset s.dies n rfl

theorem tlbClear_core (s : State) (p : Nat) (all : Bool) (va n : Nat) :
    ∀ e ∈ ((s.tlbClear p all va).core n).tlb, tlbHit p all va e = false := by
  have hm : ((s.tlbClear p all va).core n).tlb = ((s.tlbDrop (tlbHit p all va)).core n).tlb :=
    tblGet_map_fld Core.tlb (fun _ c => { c with walkBad := c.walkBad.filter fun e => e.1 ≠ p }) (fun _ _ => rfl) _ _ n
  rw [hm, tlbDrop_core]
  intro e he
  simpa using (List.mem_filter.1 he).2

theorem tlbClear_die (s : State) (p : Nat) (all : Bool) (va n : Nat) :
    ∀ e ∈ ((s.tlbClear p all va).die n).tlb, tlbHit p all va e = false := by
  have hm : (s.tlbClear p all va).die n = (s.tlbDrop (tlbHit p all va)).die n := rfl
  rw [hm, tlbDrop_die]
  intro e he
  simpa using (List.mem_filter.1 he).2

/-- The first clause of a list of slot entries (R333). -/
theorem slotEntries_ok {l : List Nat} (hl : ∀ e ∈ l, e < 4 ∨ e = 8) : (l.all fun e => e < 4 || e = 8) = true :=
  List.all_eq_true.2 fun e he => by simpa using hl e he

section asks
variable {d a b : BitVec 5} (hn : s.me.asked = false) (ha : s.me.answer = none)

include hn in
theorem slotw_asks (k : s.Issues (.slotw h d a) h) (hv : (s.me.sreg a.toNat).toNat < 16)
    (hl : ∀ e ∈ s.me.slotEntries d.toNat, e < 4 ∨ e = 8) :
    exec (.slotw h d a) s = .next (((s.taken h).modCore (16 * dieOf s.cur.core + (s.me.sreg a.toNat).toNat) fun c =>
      { c with fixed := true, slotNext := some (s.me.slotEntries d.toNat) }).hubAsked none s.myCtx.tok) := by
  refine runWord_asks k ?_
  dsimp only
  rw [taken_me, taken_cur, if_neg (by rw [bitN_lt hv, slotEntries_ok hl]; simp; omega), hn, if_neg Bool.false_ne_true,
    bitN_lt hv, Nat.mod_eq_of_lt hv]
  rfl

include ha in
theorem tlbinv_asks {u : State} (k : s.Issues (.tlbinv h a b) h) (hv : (s.me.sreg b.toNat).toNat < 32)
    (hu : (s.taken h).release s.cur 2 = some u) :
    let p := (s.me.sreg b.toNat).toNat / 2 % 16
    let all := decide ((s.me.sreg b.toNat).toNat % 2 = 1)
    let va := (s.me.sreg a.toNat).toNat
    exec (.tlbinv h a b) s = .next ((u.tlbClear p all va).hubAsked
      (some (BitVec.ofNat 64 ((u.tlbClear p all va).accNext + u.tlbSpan p all va * 2 ^ 56))) s.myCtx.tok) := by
  intro p all va
  refine runWord_asks k ?_
  dsimp only
  rw [taken_me, if_neg (by omega), ha, taken_cur, hu, bitsN_eq, bitN_zero] <;> rfl

include hn in
theorem wdset_asks (k : s.Issues (.wdset h a b) h) (hv : (s.me.sreg a.toNat).toNat < 64)
    (hw : (s.me.sreg b.toNat).toNat < 2 ^ 40) :
    exec (.wdset h a b) s = .next (((s.taken h).modTq (s.me.sreg a.toNat).toNat fun t =>
      { t with wlNext := some (s.me.sreg b.toNat).toNat }).hubAsked none s.myCtx.tok) := by
  refine runWord_asks k ?_
  dsimp only
  rw [taken_me, bitN_lt (i := 6) hv, if_neg (by simp; omega), hn, if_neg Bool.false_ne_true, if_neg Bool.false_ne_true,
    Nat.mod_eq_of_lt hv]
  rfl

include hn in
theorem ctxsave_asks {u : State} (k : s.Issues (.ctxsave h d a b) h) (hv : (s.me.sreg a.toNat).toNat < 2 ^ 10)
    (hw : (s.me.sreg b.toNat).toNat % 65536 = 0) {j : Who}
    (hj : j = ⟨selCore (s.me.sreg a.toNat), selCtx (s.me.sreg a.toNat), .c⟩) (hd : s.hasDie (dieOf j.core) = true)
    (ht : (s.ctxOf j).task.isSome = true) (hf : (s.ctxOf j).frozen = false) (hp : (s.ctxOf j).preempt = false)
    (hc : ∀ q, (s.clu { j with clu := q }).run ≠ .stopped)
    (hi : (s.taken h).imgFault s.cur.core s.myTask (s.me.sreg b.toNat).toNat true = (u, none)) :
    exec (.ctxsave h d a b) s = .next ((u.modCtx j fun x => { x with preempt := true }).hubAsked none s.myCtx.tok) := by
  subst hj
  have hs : selOk (s.me.sreg a.toNat) 0x3FF = true := selOk_of_lt (n := 10) (q := 2 ^ 54 - 1) (by decide) hv
  have hk : ((s.taken h).ctxOf ⟨selCore (s.me.sreg a.toNat), selCtx (s.me.sreg a.toNat), .c⟩).task.isNone = false := by
    rw [taken_ctxTask, Option.isNone_eq_false_iff, ht]
  have hr := (taken_anyStopped s h ⟨selCore (s.me.sreg a.toNat), selCtx (s.me.sreg a.toNat), .c⟩).trans
    (List.any_eq_false.2 fun q _ => by simpa using hc q)
  refine runWord_asks k ?_
  dsimp only
  rw [taken_me, hs, if_neg (by simpa using hw), hn, if_neg Bool.false_ne_true, taken_hasDie, hd, hk,
    if_neg (by decide), taken_frozen, hf, taken_preempt, hp, hr, if_neg (by decide), taken_cur, taken_task, hi]

include hn ha in
theorem haltp_asks (k : s.Issues (.haltp h d a) h) (hv : (s.me.sreg a.toNat).toNat < 16)
    (hd : (s.part (s.me.sreg a.toNat).toNat).dies ≠ []) (hr : (s.part (s.me.sreg a.toNat).toNat).run = .running) :
    exec (.haltp h d a) s = .next (((s.taken h).raiseLine (s.me.sreg a.toNat).toNat fHalted s.cur 0).hubAsked none
      s.myCtx.tok) := by
  have hp : partOf (s.me.sreg a.toNat) = (s.me.sreg a.toNat).toNat := by
    unfold partOf
    rw [bitsN_eq]
    omega
  have hm : partMode (s.me.sreg a.toNat) = false := bitN_lt hv
  refine runWord_asks k ?_
  dsimp only
  rw [taken_me, if_neg (by omega), hp, taken_part, if_neg (by simpa using hd), hm, if_pos (by decide), hr, ha,
    if_neg (by decide), hn, if_neg (by simp), taken_cur]

include hn in
theorem haltp_asksStop (k : s.Issues (.haltp h d a) h) (h1 : 16 ≤ (s.me.sreg a.toNat).toNat)
    (h2 : (s.me.sreg a.toNat).toNat < 32) (hd : (s.part ((s.me.sreg a.toNat).toNat - 16)).dies ≠ []) :
    exec (.haltp h d a) s = .next (((s.taken h).modPart ((s.me.sreg a.toNat).toNat - 16) fun x =>
      { x with stopDies := x.dies }).hubAsked none s.myCtx.tok) := by
  have hp : partOf (s.me.sreg a.toNat) = (s.me.sreg a.toNat).toNat - 16 := by
    unfold partOf
    rw [bitsN_eq]
    omega
  have hm : partMode (s.me.sreg a.toNat) = true := by
    unfold partMode
    rw [bitN_eq]
    exact decide_eq_true (by omega)
  refine runWord_asks k ?_
  dsimp only
  rw [taken_me, if_neg (by omega), hp, taken_part, if_neg (by simpa using hd), hm, hn]
  rfl

include hn in
theorem gate_asks (k : s.Issues (.gate h d a) h) (hv : (s.me.sreg a.toNat).toNat < 2 ^ 8) {n : Nat}
    (hj : n = selCore (s.me.sreg a.toNat)) (hd : s.hasDie (dieOf n) = true) (hp : (s.core n).power = .on)
    (ht : ∀ x, x < 4 → ((s.core n).ctx x).task = none) (hb : (s.core n).busy = false) :
    exec (.gate h d a) s = .next (((s.taken h).modCore n fun c => { c with power := .gating false }).hubAsked none
      s.myCtx.tok) := by
  subst hj
  have hs : selOk (s.me.sreg a.toNat) 0x20FF = true := selOk_of_lt (n := 8) (q := 2 ^ 56 - 1 - 0x20) (by decide) hv
  have hr := (taken_anyTask s h (selCore (s.me.sreg a.toNat))).trans
    (List.any_eq_false.2 fun x hx => by simp [ht x (List.mem_range.1 hx)])
  refine runWord_asks k ?_
  dsimp only
  rw [taken_me, hs, if_neg (by decide), taken_hasDie, hd, if_neg (by decide), hn, if_neg Bool.false_ne_true, taken_power, hp,
    if_neg (by decide), hr, taken_busy, hb, if_neg (by decide), bitN_lt (i := 13) (by omega)]

end asks

section tells
variable {d a b : BitVec 5}

theorem slotw_done {n : Nat} (k : s.Issues (.slotw h d a) h) (hv : (s.me.sreg a.toNat).toNat < 32)
    (hl : (s.me.sreg a.toNat).toNat < 16 → ∀ e ∈ s.me.slotEntries d.toNat, e < 4 ∨ e = 8) (hk : s.me.asked = true)
    (he : n = 16 * dieOf s.cur.core + (s.me.sreg a.toNat).toNat % 16) (hn : (s.core n).slotNext = none) :
    exec (.slotw h d a) s = .next (s.issued (.slotw h d a) h .latency (s.taken h) .seq) := by
  subst he
  have hc : (32 ≤ (s.me.sreg a.toNat).toNat || (!bitN (s.me.sreg a.toNat).toNat 4 &&
      !(s.me.slotEntries d.toNat).all fun e => e < 4 || e = 8)) = false := by
    by_cases h16 : (s.me.sreg a.toNat).toNat < 16
    · rw [slotEntries_ok (hl h16)]
      simp; omega
    · have hb : bitN (s.me.sreg a.toNat).toNat 4 = true := by
        rw [bitN_eq]
        exact decide_eq_true (by omega)
      rw [hb]
      simp; omega
  refine runWord_done s _ h _ _ _ k ?_
  rw [meaning_act]
  dsimp only
  rw [taken_me, taken_cur, hc, if_neg Bool.false_ne_true, if_pos hk, taken_slotNext, hn]
  rfl

theorem wdset_done (k : s.Issues (.wdset h a b) h) (hv : (s.me.sreg a.toNat).toNat ≤ 64)
    (hw : (s.me.sreg b.toNat).toNat < 2 ^ 40) (hk : s.me.asked = true)
    (hq : ∀ q, q < 64 → ((s.me.sreg a.toNat).toNat = 64 ∨ q = (s.me.sreg a.toNat).toNat) → (s.tq q).wlNext = none) :
    exec (.wdset h a b) s = .next (s.issued (.wdset h a b) h .latency (s.taken h) .seq) := by
  have hb : bitN (s.me.sreg a.toNat).toNat 6 = decide ((s.me.sreg a.toNat).toNat = 64) := by
    rw [bitN_eq]
    exact decide_eq_decide.2 (by omega)
  have hl : ((if bitN (s.me.sreg a.toNat).toNat 6 = true then List.range 64 else [(s.me.sreg a.toNat).toNat % 64]).any
      fun q => ((s.taken h).tq q).wlNext.isSome) = false := by
    refine List.any_eq_false.2 fun q hm => ?_
    rw [taken_tq, hq q _ _]
    · exact Bool.false_ne_true
    · split at hm
      · exact List.mem_range.1 hm
      · rw [List.mem_singleton.1 hm]
        omega
    · split at hm
      · next e => exact .inl (of_decide_eq_true (hb.symm.trans e))
      · next e =>
        rw [hb, decide_eq_true_eq] at e
        exact .inr ((List.mem_singleton.1 hm).trans (Nat.mod_eq_of_lt (by omega)))
  refine runWord_done s _ h _ _ _ k ?_
  rw [meaning_act]
  dsimp only
  rw [taken_me, hl, if_neg (by rw [hb]; simp; omega), if_pos hk]
  rfl

theorem ctxsave_tells {v : Nat} (k : s.Issues (.ctxsave h d a b) h) (hv : (s.me.sreg a.toNat).toNat < 2 ^ 10)
    (hw : (s.me.sreg b.toNat).toNat % 65536 = 0) {j : Who}
    (hj : j = ⟨selCore (s.me.sreg a.toNat), selCtx (s.me.sreg a.toNat), .c⟩)
    (hs : (s.me.asked = true ∧ ∃ r : Word, s.me.answer = some r ∧ v = r.toNat) ∨
      (s.me.asked = false ∧ (s.hasDie (dieOf j.core) = false ∨ (s.ctxOf j).task = none) ∧ v = 1) ∨
      (s.me.asked = false ∧ s.hasDie (dieOf j.core) = true ∧ (s.ctxOf j).task.isSome = true ∧ (s.ctxOf j).frozen = true ∧
        v = 2)) :
    exec (.ctxsave h d a b) s = .next (s.issued (.ctxsave h d a b) h .latency
      ((s.taken h).laterN 1 [.scal d.toNat (BitVec.ofNat 64 v)]) .seq) := by
  subst hj
  have ho : selOk (s.me.sreg a.toNat) 0x3FF = true := selOk_of_lt (n := 10) (q := 2 ^ 54 - 1) (by decide) hv
  refine runWord_tells k ?_
  dsimp only
  rw [taken_me, ho, if_neg (by simpa using hw), taken_hasDie, taken_ctxTask, taken_frozen]
  obtain ⟨hk, r, hr, rfl⟩ | ⟨hk, hd, rfl⟩ | ⟨hk, hd, ht, hf, rfl⟩ := hs
  · rw [if_pos hk, hr]
  · rw [hk, if_neg Bool.false_ne_true]
    exact if_pos (by obtain hd | hd := hd <;> simp [hd])
  · rw [hk, if_neg Bool.false_ne_true, if_neg (by simp [hd, Option.isSome_iff_ne_none.1 ht])]
    exact if_pos (by simp [hf])

/-- The partition that a HALTP or RESUMEP word of mode 0 names, and of mode 1 (R392). -/
theorem partOf_eq (v : Word) : partOf v = v.toNat % 16 := by
  unfold partOf
  rw [bitsN_eq]
  omega

theorem partMode_eq {v : Word} (hv : v.toNat < 32) : partMode v = decide (16 ≤ v.toNat) := by
  unfold partMode
  rw [bitN_eq]
  exact decide_eq_decide.2 (by omega)

theorem sub_sixteen {n : Nat} (h1 : 16 ≤ n) (h2 : n < 32) : n - 16 = n % 16 := by omega

theorem haltp_tells {v p : Nat} (k : s.Issues (.haltp h d a) h) (hv : (s.me.sreg a.toNat).toNat < 32)
    (hp : p = (s.me.sreg a.toNat).toNat % 16)
    (hs : ((s.part p).dies = [] ∧ v = 1) ∨
      ((s.part p).dies ≠ [] ∧ (s.me.sreg a.toNat).toNat < 16 ∧ ((s.part p).run = .halted ∨ s.me.answer.isSome = true) ∧ v = 0) ∨
      ((s.part p).dies ≠ [] ∧ 16 ≤ (s.me.sreg a.toNat).toNat ∧ s.me.asked = true ∧ (s.part p).stopDies = [] ∧ v = 0)) :
    exec (.haltp h d a) s = .next (s.issued (.haltp h d a) h .latency
      ((s.taken h).laterN 1 [.scal d.toNat (BitVec.ofNat 64 v)]) .seq) := by
  subst hp
  refine runWord_tells k ?_
  dsimp only
  rw [taken_me, if_neg (by omega), partOf_eq, partMode_eq hv, taken_part]
  obtain ⟨hd, rfl⟩ | ⟨hd, hm, hr, rfl⟩ | ⟨hd, hm, hk, hr, rfl⟩ := hs
  · exact if_pos (by simp [hd])
  · rw [if_neg (by simpa using hd), if_pos (by simp; omega)]
    exact if_pos (by obtain hr | hr := hr <;> simp [hr])
  · rw [if_neg (by simpa using hd), if_neg (by simp; omega), if_pos hk]
    exact if_pos (by simp [hr])

theorem gate_tells {v n : Nat} (k : s.Issues (.gate h d a) h) (hv : (s.me.sreg a.toNat).toNat < 2 ^ 8)
    (hj : n = selCore (s.me.sreg a.toNat)) (hd : s.hasDie (dieOf n) = true)
    (hs : (s.me.asked = true ∧ s.me.barGo = true ∧ v = 0) ∨ (s.me.asked = false ∧ (s.core n).power = .off ∧ v = 0) ∨
      (s.me.asked = false ∧ (s.core n).power = .on ∧
        ((s.core n).busy = true ∨ ∃ x, x < 4 ∧ ((s.core n).ctx x).task.isSome = true) ∧ v = 2)) :
    exec (.gate h d a) s = .next (s.issued (.gate h d a) h .latency
      ((s.taken h).laterN 1 [.scal d.toNat (BitVec.ofNat 64 v)]) .seq) := by
  subst hj
  have ho : selOk (s.me.sreg a.toNat) 0x20FF = true := selOk_of_lt (n := 8) (q := 2 ^ 56 - 1 - 0x20) (by decide) hv
  refine runWord_tells k ?_
  dsimp only
  rw [taken_me, ho, if_neg (by decide), taken_hasDie, hd, if_neg (by decide), taken_power, taken_anyTask, taken_busy]
  obtain ⟨hk, hg, rfl⟩ | ⟨hk, hp, rfl⟩ | ⟨hk, hp, hb, rfl⟩ := hs
  · rw [if_pos hk, if_pos hg]
  · rw [hk, if_neg Bool.false_ne_true, hp]
    rfl
  · rw [hk, if_neg Bool.false_ne_true, hp, if_neg (by decide)]
    refine if_pos ?_
    obtain hb | ⟨x, hx, ht⟩ := hb
    · simp [hb]
    · rw [List.any_eq_true.2 ⟨x, List.mem_range.2 hx, ht⟩]
      rfl

theorem tlbinv_done {r : Word} (k : s.Issues (.tlbinv h a b) h) (hv : (s.me.sreg b.toNat).toNat < 32)
    (ha : s.me.answer = some r)
    (hb : s.tlbBusy ((s.me.sreg b.toNat).toNat / 2 % 16) (if (s.me.sreg b.toNat).toNat % 2 = 1 then 0 else (s.me.sreg a.toNat).toNat)
      (r.toNat % 2 ^ 56) (r.toNat / 2 ^ 56 % 2 ^ 8) = false) :
    exec (.tlbinv h a b) s = .next (s.issued (.tlbinv h a b) h .latency (s.taken h) .seq) := by
  refine runWord_done s _ h _ _ _ k ?_
  rw [meaning_act]
  dsimp only
  rw [taken_me, if_neg (by omega), ha]
  dsimp only
  rw [taken_tlbBusy, bitsN_eq, bitsN_eq, bitsN_eq, bitN_zero, Nat.pow_one, Nat.pow_zero, Nat.div_one]
  simp only [decide_eq_true_eq]
  exact if_neg (by rw [show (2:Nat) ^ 4 = 16 from rfl, hb]; exact Bool.false_ne_true)

end tells

/-- Settles O28: a system word asks once (the `_asks` lemmas), and completes when it is done (`_done`, `_tells`). -/
theorem systemWordsAskAndWait : Obligations.SystemWordsAskAndWait := by
  refine ⟨?_, ?_⟩
  · intro s h d a b va vb hn ha
    refine ⟨fun k hv hl => ⟨_, slotw_asks hn k hv hl, ?_⟩, fun u k hv hu => ⟨_, tlbinv_asks ha k hv hu, ?_⟩,
      fun k hv hw => ⟨_, wdset_asks hn k hv hw, ?_⟩, ?_, fun k hv hd hr => ⟨_, haltp_asks hn ha k hv hd hr, ?_⟩,
      fun k h1 h2 hd => ⟨_, haltp_asksStop hn k h1 h2 hd, ?_⟩, ?_⟩
    · refine ⟨by rw [hubAsked_me], by rw [hubAsked_me], ?_, ?_⟩
      · rw [hubAsked_coreFld _ _ _ (·.slotNext) fun _ _ _ => rfl, core_modCore, if_pos rfl]
      · rw [hubAsked_coreFld _ _ _ (·.fixed) fun _ _ _ => rfl, core_modCore, if_pos rfl]
    · refine ⟨by rw [hubAsked_me], by rw [hubAsked_me], by rw [hubAsked_me]; rfl, fun n => ?_, fun n => ?_⟩
      · rw [hubAsked_coreFld _ _ _ (·.tlb) fun _ _ _ => rfl]
        exact tlbClear_core _ _ _ _ n
      · rw [hubAsked_fld _ _ _ (State.die · n) fun _ _ _ => rfl]
        exact tlbClear_die _ _ _ _ n
    · refine ⟨by rw [hubAsked_me], ?_⟩
      rw [hubAsked_tq, tq_modTq, if_pos rfl]
    · intro u k hv hw j hd ht hf hp hc hi
      refine ⟨_, ctxsave_asks hn k hv hw rfl hd ht hf hp hc hi, by rw [hubAsked_me], ?_⟩
      rw [hubAsked_ctxFld _ _ _ (·.preempt) (fun _ _ _ => rfl) fun _ _ => rfl, ctxOf_modCtx_same _ _ _ _ ⟨rfl, rfl⟩]
    · refine ⟨by rw [hubAsked_me], ?_⟩
      rw [hubAsked_part, State.raiseLine, part_modPart, if_pos rfl, taken_part, if_neg (by simp [va, hr])]
      refine ⟨?_, _, List.mem_append_right _ (List.mem_singleton_self _)⟩
      simp [Part.line]
    · refine ⟨by rw [hubAsked_me], ?_⟩
      rw [hubAsked_part, part_modPart, if_pos rfl, taken_part]
    · intro k hv n hd hp ht hb
      refine ⟨_, gate_asks hn k hv rfl hd hp ht hb, by rw [hubAsked_me], ?_⟩
      rw [hubAsked_coreFld _ _ _ (·.power) fun _ _ _ => rfl, core_modCore, if_pos rfl]
  · intro s h d a b r u va vb j tells
    refine ⟨fun k hv hl hk hn => ?_, fun k h1 h2 hk hn => ?_, fun k hv hr hb => tlbinv_done k hv hr hb,
      fun k hv hw hk hn => ?_, fun k hv hw hk hn => ?_, fun k hv hw hk hr => ?_, fun k hv hw hk hd => ?_,
      fun k hv hw hk hd ht hf => ?_, fun k hv hd => ?_, fun k hv hd hr => ?_, fun k h1 h2 hd hk hr => ?_,
      fun k hv hd hk hg => ?_, fun k hv hd hk hp => ?_, fun k hv hd hk hp hb => ?_⟩
    · exact slotw_done k (Nat.lt_trans hv (by decide)) (fun _ => hl) hk rfl (by rwa [Nat.mod_eq_of_lt hv])
    · exact slotw_done k h2 (fun h => absurd h (Nat.not_lt.2 h1)) hk rfl hn
    · exact wdset_done k (Nat.le_of_lt hv) hw hk fun q _ hq => by
        obtain hq | hq := hq
        · exact absurd hq (Nat.ne_of_lt hv)
        · rw [hq, hn]
    · exact wdset_done k (Nat.le_of_eq hv) hw hk fun q hq _ => hn q hq
    · exact ctxsave_tells k hv hw rfl (.inl ⟨hk, r, hr, rfl⟩)
    · exact ctxsave_tells k hv hw rfl (.inr (.inl ⟨hk, hd, rfl⟩))
    · exact ctxsave_tells k hv hw rfl (.inr (.inr ⟨hk, hd, ht, hf, rfl⟩))
    · exact haltp_tells k hv rfl (.inl ⟨hd, rfl⟩)
    · exact haltp_tells (p := va) k (Nat.lt_trans hv (by decide)) (Nat.mod_eq_of_lt hv).symm (.inr (.inl ⟨hd, hv, hr, rfl⟩))
    · exact haltp_tells (p := va - 16) k h2 (sub_sixteen h1 h2) (.inr (.inr ⟨hd, h1, hk, hr, rfl⟩))
    · exact gate_tells k hv rfl hd (.inl ⟨hk, hg, rfl⟩)
    · exact gate_tells k hv rfl hd (.inr (.inl ⟨hk, hp, rfl⟩))
    · exact gate_tells k hv rfl hd (.inr (.inr ⟨hk, hp, hb, rfl⟩))

end

end Sys2Proof.Machine
end

section
/-! SUPPORT. Resuming, injecting and loading (R383, R387, R390 to R392). -/

namespace Sys2Proof.Machine

/-! Reading images (R390) performs older stores and walks pages, and does no more. -/

/-- A fold that keeps a property of the state keeps it beside what it collects. -/
theorem foldl_fst {P : State → Prop} {α β : Type} (f : State × β → α → State × β) (hf : ∀ q e, P q.1 → P (f q e).1)
    (l : List α) : ∀ q, P q.1 → P (l.foldl f q).1 := by
  induction l with
  | nil => exact fun _ h => h
  | cons e l ih => exact fun q h => ih (f q e) (hf q e h)

/-- One page of an image, as a run of places (R390). -/
def imgPage (n : Nat) (t : Task) (a : Nat) (q : State × List (Nat × Nat)) (o : Nat) : State × List (Nat × Nat) :=
  match q.1.translate n t (a + o) with
  | (s, none) => (s, q.2)
  | (s, some (sa, _)) => (s, q.2 ++ [(sa / 64, 1024)])

namespace Performs
variable {ok : Who → Prop} {P : State → Prop} (p : Performs ok P)
include p

theorem imgPages (n : Nat) (t : Task) (a : Nat) (w : Bool) : ∀ (l : List Nat) {s : State}, P s →
    P (Machine.imgPages n t a w l s).1
  | [], _, h => h
  | o :: l, s, h => by
    have ht := p.translate n t (a + o) h
    unfold Machine.imgPages
    split
    · next hs => rwa [hs] at ht
    · next hs =>
      rw [hs] at ht
      split
      · exact ht
      · split
        · exact ht
        · exact imgPages n t a w l ht

theorem imgFault {s : State} (n : Nat) (t : Task) (a : Nat) (w : Bool) (h : P s) : P (s.imgFault n t a w).1 := by
  unfold State.imgFault
  split
  · exact h
  · exact p.imgPages _ _ _ _ _ h

theorem settleRuns (n : Nat) : ∀ (l : List (Nat × Nat)) {s : State}, P s → P (Machine.settleRuns n l s).1
  | [], _, h => h
  | (b, k) :: l, s, h => by
    unfold Machine.settleRuns
    dsimp only
    have hf := foldl_keeps (fun (t : State) q => t.performOlder t.accNext n q)
      ((s.accs.map fun e => e.2.place).filter fun q => b ≤ q && q < b + k) (fun t q _ ht => p.performOlder t.accNext n q ht) s h
    split
    · exact hf
    · exact settleRuns n l hf

theorem imgSettle {s : State} (n : Nat) (t : Task) (a : Nat) (h : P s) : P (s.imgSettle n t a).1 := by
  have hq := foldl_fst (P := P) (imgPage n t a) (fun q o hq => ?_) [0, 65536, 131072] (s, []) h
  · unfold State.imgSettle
    split
    · exact p.settleRuns _ _ h
    · generalize [0, 65536, 131072] = l at hq ⊢
      exact p.settleRuns n _ hq
  · have ht := p.translate n t (a + o) hq
    unfold imgPage
    split <;> next hs => rwa [hs] at ht

end Performs

/-- What performs accesses and reads images keeps the current task. -/
theorem performs_myTask {f : State → State} (hf : ∀ {P : State → Prop}, Performs (fun _ => True) P → ∀ s, P s → P (f s)) (s : State) :
    (f s).cur = s.cur ∧ (f s).myTask = s.myTask :=
  have hc := hf (performs_cur s.cur) s rfl
  ⟨hc, myTask_congr hc (hf (performs_task s.cur (s.ctxOf s.cur).task) s rfl)⟩

/-- A core that is on needs no wake message. -/
theorem wakeCore_on {s : State} {n : Nat} (hp : (s.core n).power = .on) : s.wakeCore n = s := by
  unfold State.wakeCore
  rw [hp]

section
variable {s : State} {h : Hdr} {d a b : BitVec 5}

theorem ctxload_tells {t u : State} (k : s.Issues (.ctxload h d a b) h) (hv : (s.me.sreg a.toNat).toNat < 2 ^ 8)
    (hw : (s.me.sreg b.toNat).toNat % 65536 = 0) (hd : s.hasDie (dieOf (selCore (s.me.sreg a.toNat))) = true)
    (hf : (s.taken h).imgFault s.cur.core s.myTask (s.me.sreg b.toNat).toNat false = (t, none))
    (hp : (t.core (selCore (s.me.sreg a.toNat))).power = .on)
    (hs : t.imgSettle s.cur.core s.myTask (s.me.sreg b.toNat).toNat = (u, true)) :
    let r := u.loadImage (selCore (s.me.sreg a.toNat)) (.loc s.cur.core s.myTask (s.me.sreg b.toNat).toNat)
    exec (.ctxload h d a b) s = .next (s.issued (.ctxload h d a b) h .latency
      (r.1.laterN 1 [.scal d.toNat (BitVec.ofNat 64 r.2)]) .seq) := by
  have ho : selOk (s.me.sreg a.toNat) 0xFF = true := selOk_of_lt (n := 8) (q := 2 ^ 56 - 1) (by decide) hv
  obtain ⟨tc, tt⟩ : t.cur = s.cur ∧ t.myTask = s.myTask := by
    have ht := performs_myTask (f := fun v => (v.imgFault s.cur.core s.myTask (s.me.sreg b.toNat).toNat false).1)
      (fun p _ h => p.imgFault _ _ _ _ h) (s.taken h)
    rw [hf] at ht
    exact ⟨ht.1.trans (taken_cur s h), ht.2.trans (taken_task s h)⟩
  obtain ⟨uc, ut⟩ : u.cur = s.cur ∧ u.myTask = s.myTask := by
    have hu := performs_myTask (f := fun v => (v.imgSettle s.cur.core s.myTask (s.me.sreg b.toNat).toNat).1)
      (fun p _ h => p.imgSettle _ _ _ h) t
    rw [hs] at hu
    exact ⟨hu.1.trans tc, hu.2.trans tt⟩
  refine runWord_tells k ?_
  dsimp only
  rw [taken_me, ho, if_neg (by simpa using hw), taken_hasDie, hd, if_neg (by decide), taken_cur, taken_task, hf]
  dsimp only
  unfold State.wakeFirst
  rw [wakeCore_on hp]
  dsimp only
  rw [hp, if_neg (by decide), tc, tt, hs]
  dsimp only
  rw [uc, ut]

theorem ctxload_noDie (k : s.Issues (.ctxload h d a b) h) (hv : (s.me.sreg a.toNat).toNat < 2 ^ 8)
    (hw : (s.me.sreg b.toNat).toNat % 65536 = 0) (hd : s.hasDie (dieOf (selCore (s.me.sreg a.toNat))) = false) :
    exec (.ctxload h d a b) s = .next (s.issued (.ctxload h d a b) h .latency
      ((s.taken h).laterN 1 [.scal d.toNat (BitVec.ofNat 64 1)]) .seq) := by
  have ho : selOk (s.me.sreg a.toNat) 0xFF = true := selOk_of_lt (n := 8) (q := 2 ^ 56 - 1) (by decide) hv
  refine runWord_tells k ?_
  dsimp only
  rw [taken_me, ho, if_neg (by simpa using hw), taken_hasDie, hd]
  rfl

theorem inject_tells {t : State} {v : Nat} (k : s.Issues (.inject h d a) h) (hv : (s.me.sreg a.toNat).toNat < 2 ^ 10) {j : Who}
    (hj : j = ⟨selCore (s.me.sreg a.toNat), selCtx (s.me.sreg a.toNat), .c⟩) (hd : s.hasDie (dieOf j.core) = true)
    (ht : (s.ctxOf j).task.isSome = true) (hf : (s.ctxOf j).frozen = true) (hm : (s.ctxOf j).dumped = true)
    (hr : (s.taken h).inject j = (t, v)) :
    exec (.inject h d a) s = .next (s.issued (.inject h d a) h .latency
      (t.laterN 1 [.scal d.toNat (BitVec.ofNat 64 v)]) .seq) := by
  have ho : selOk (s.me.sreg a.toNat) 0x3FF = true := selOk_of_lt (n := 10) (q := 2 ^ 54 - 1) (by decide) hv
  have hn : ((s.taken h).ctxOf j).task.isNone = false := by rw [taken_ctxTask, Option.isNone_eq_false_iff, ht]
  refine runWord_tells k ?_
  rw [taken_me]
  extract_lets _ i x
  rw [show x = (s.taken h).ctxOf j from congrArg (s.taken h).ctxOf hj.symm, show i = j from hj.symm, ho, if_neg (by decide), taken_hasDie, hd, if_neg (by decide), hn, taken_frozen, hf, if_neg (by decide), taken_dumped,
    hm, if_neg (by decide), hr]

/-- RESUMEP of stopped contexts (R387, R392). -/
theorem resumep_lets (k : s.Issues (.resumep h d a) h) (hv : (s.me.sreg a.toNat).toNat < 16) {n : Nat}
    (hn : n = (s.me.sreg a.toNat).toNat) (hd : (s.part n).dies ≠ []) (hr : (s.part n).run = .running) {l : List Who}
    (hl : l = ((s.taken h).ctxsOf n).filter fun j => ((s.taken h).ctxOf j).frozen)
    (hm : ∀ j ∈ l, ((s.taken h).ctxOf j).dumped = true) :
    let r := resumeOk l (s.taken h)
    let tells (t : State) (v : Nat) : State := t.laterN 1 [.scal d.toNat (BitVec.ofNat 64 v)]
    exec (.resumep h d a) s = .next (s.issued (.resumep h d a) h .latency
      (if r.2 then tells (l.foldl State.resumeCtx r.1) 0 else tells r.1 6) .seq) := by
  subst hn
  refine runWord_done s _ h _ _ _ k ?_
  rw [meaning_act]
  dsimp only
  rw [taken_me, if_neg (by omega), partOf_eq, partMode_eq (by omega), Nat.mod_eq_of_lt hv, taken_part,
    if_neg (by simpa using hd), if_pos (by simpa using hv), hr, if_neg (by decide), ← hl, List.all_eq_true.2 hm,
    if_neg (by decide)]
  cases (resumeOk l (s.taken h)).2 <;> rfl

/-- RESUMEP of a halted partition begins its reset (R375). -/
theorem resumep_begins (k : s.Issues (.resumep h d a) h) (h1 : 16 ≤ (s.me.sreg a.toNat).toNat)
    (h2 : (s.me.sreg a.toNat).toNat < 32) {n : Nat} (hn : n = (s.me.sreg a.toNat).toNat - 16) (hd : (s.part n).dies ≠ [])
    (hr : (s.part n).run = .halted) :
    exec (.resumep h d a) s = .next ((((s.taken h).resetTasks n).modPart n fun x => { x with run := .resetting }).hubAsked
      none s.myCtx.tok) := by
  have hp : (s.me.sreg a.toNat).toNat % 16 = n := by omega
  refine runWord_asks k ?_
  dsimp only
  rw [taken_me, if_neg (by omega), partOf_eq, partMode_eq h2, hp, taken_part, if_neg (by simpa using hd),
    if_neg (by simpa using h1), hr]
  rfl

/-- RESUMEP completes a reset whose actions in flight have finished (R375). -/
theorem resumep_resets (k : s.Issues (.resumep h d a) h) (h1 : 16 ≤ (s.me.sreg a.toNat).toNat)
    (h2 : (s.me.sreg a.toNat).toNat < 32) {n : Nat} (hn : n = (s.me.sreg a.toNat).toNat - 16) (hd : (s.part n).dies ≠ [])
    (hr : (s.part n).run = .resetting) (hk : s.me.asked = true) (hb : s.almBusy n = false) :
    exec (.resumep h d a) s = .next (s.issued (.resumep h d a) h .latency
      (((s.taken h).resetPart n).laterN 1 [.scal d.toNat (BitVec.ofNat 64 0)]) .seq) := by
  have hp : (s.me.sreg a.toNat).toNat % 16 = n := by omega
  refine runWord_tells k ?_
  dsimp only
  rw [taken_me, if_neg (by omega), partOf_eq, partMode_eq h2, hp, taken_part, if_neg (by simpa using hd),
    if_neg (by simpa using h1), hr, hk, taken_almBusy, hb]
  rfl

theorem resumep_none (k : s.Issues (.resumep h d a) h) (hv : (s.me.sreg a.toNat).toNat < 32)
    (hd : (s.part ((s.me.sreg a.toNat).toNat % 16)).dies = []) :
    exec (.resumep h d a) s = .next (s.issued (.resumep h d a) h .latency
      ((s.taken h).laterN 1 [.scal d.toNat (BitVec.ofNat 64 1)]) .seq) := by
  refine runWord_tells k ?_
  dsimp only
  rw [taken_me, if_neg (by omega), partOf_eq, taken_part, hd]
  rfl

/-- Settles O29. -/
theorem resumingAndLoading : Obligations.ResumingAndLoading := by
  intro s h d a b u vb j tells
  refine ⟨fun t v k hv hw hd hf hp hs => ctxload_tells k hv hw hd hf hp hs, fun k hv hw hd => ctxload_noDie k hv hw hd,
    fun k hv hd ht hf hm => inject_tells k hv rfl hd ht hf hm (Prod.eta _).symm, ?_, fun k h1 h2 hd hr => ⟨_, resumep_begins k h1 h2 rfl hd hr, ?_⟩,
    fun k h1 h2 hd hr hk hb => resumep_resets k h1 h2 rfl hd hr hk hb, fun k hv hd => resumep_none k hv hd⟩
  · intro k hv hd hr l r hm
    exact resumep_lets k hv rfl hd hr rfl hm
  · refine ⟨by rw [hubAsked_me], by rw [hubAsked_part, part_modPart, if_pos rfl], fun e he => ?_⟩
    rw [hubAsked_fld _ _ _ State.deps fun _ _ _ => rfl] at he
    simpa using (List.mem_filter.1 he).2

end

end Sys2Proof.Machine
end

section
/-! SUPPORT. Code lines, page walks, and accesses in flight that are served and performed (R92, R199, R200, R208, R217,
R228, R229, R233, R388). -/

namespace Sys2Proof.Machine

section
variable {s : State} {i : Nat} {a : Acc}

/-! Lines and walks (R92, R199, R200). -/

theorem exec_instructionFetch {t : State} {k : Who} {va sa : Nat} {w : Bool} (hf : (s.ctxOf k).fetch = some va)
    (ht : s.translate k.core (s.taskOf k) (va / 64 * 64) = (t, some (sa, w))) (hd : saDev sa = t.devId) :
    exec (.instructionFetch k) s = .next ((((t.sysRead sa (s.taskOf k).tag).1).modCore k.core fun c =>
      c.fillLine (lineKey (s.taskOf k) va) (bytesOfNat 64 (t.sysRead sa (s.taskOf k).tag).2.1)).modCtx k
        fun x => { x with fetch := none }) := by
  show execInstructionFetch k s = _
  unfold execInstructionFetch
  rw [hf]
  dsimp only
  rw [ht]
  exact if_neg (not_not_intro hd)

theorem fillLine_icache (c : Core) (key : Nat) (l : List Byte) : tblFind (c.fillLine key l).icache key = some l := by
  unfold Core.fillLine
  dsimp only
  rw [tblFind_tblPut, if_pos rfl]

/-- The walk that a cluster of a core waits for. -/
def State.walker (s : State) (n va : Nat) : Option Nat :=
  (List.range 4).find? fun x => ((s.core n).ctx x).task.isSome && ((s.core n).ctx x).walksFor va

theorem exec_pageWalk {t : State} {n x va : Nat} {e : TlbE} (hx : s.walker n va = some x)
    (hw : s.walkFill n x (s.taskOf ⟨n, x, .a⟩).part va = (t, some e)) : exec (.pageWalk n va) s = .next t := by
  show execPageWalk n va s = _
  unfold execPageWalk
  rw [show (List.range 4).find? _ = some x from hx]
  dsimp only
  rw [hw]

theorem exec_pageWalk_none {t : State} {n x va : Nat} (hx : s.walker n va = some x)
    (hw : s.walkFill n x (s.taskOf ⟨n, x, .a⟩).part va = (t, none)) :
    exec (.pageWalk n va) s = .next (t.modCore n fun c => { c with
      walkBad := ((s.taskOf ⟨n, x, .a⟩).part, va / 65536) :: c.walkBad.filter (· ≠ ((s.taskOf ⟨n, x, .a⟩).part, va / 65536)) }) := by
  show execPageWalk n va s = _
  unfold execPageWalk
  rw [show (List.range 4).find? _ = some x from hx]
  dsimp only
  rw [hw]

/-! Loads (R217, R228). -/

variable (hi : tblFind s.accs i = some a)
include hi

theorem exec_directPathServe {f : Fill} {c : Nat} (hk : a.kind = .direct f c) (hc : c ≤ (s.die (dieOf a.who.core)).dcc) :
    exec (.directPathServe i) s = .next (s.serveSlot i a f c) := by
  show Host.Outcome.next (s.serveDue i) = _
  unfold State.serveDue
  rw [hi]
  dsimp only
  rw [hk]
  exact congrArg _ (if_pos hc)

theorem rowDue_now {q c cir : Nat} {rows : List (Nat × Nat × Nat)} (hk : a.kind = .served q rows cir (some c))
    (hc : c ≤ (s.die (dieOf a.who.core)).dcc) (hf : (s.ctxOf a.who).frozen = false) (hn : (s.ctxOf a.who).fetch = none) :
    s.rowDue i = s.deliver i a q rows cir := by
  unfold State.rowDue
  rw [hi]
  dsimp only
  rw [hk]
  exact if_pos (by simp [hc, hf, hn])

theorem exec_loadRowFill {f : Fill} (hk : a.kind = .load f) (hd : saDev a.sa = s.devId) (hw : s.accWaits i a = false) :
    exec (.loadRowFill i) s = .next (s.fillLoad i a f) := by
  show execLoadRowFill i s = _
  unfold execLoadRowFill
  rw [hi]
  dsimp only
  rw [hk]
  exact if_neg (by simp [hd, hw])

theorem exec_loadRowFill_served {q cir : Nat} {rows : List (Nat × Nat × Nat)} (hk : a.kind = .served q rows cir none) :
    exec (.loadRowFill i) s = .next (s.deliver i a q rows cir) := by
  show execLoadRowFill i s = _
  unfold execLoadRowFill
  rw [hi]
  dsimp only
  rw [hk]

omit hi

/-- A row that is delivered to a running context (R228). -/
theorem deliver_live {q id d p cir : Nat} (hl : a.live = true) (hf : (s.ctxOf a.who).frozen = false) :
    s.deliver i a q [(id, d, p)] cir = ((((s.dropAcc i).hand (.clu a.who) (.row a.who.core a.who.ctx id)).fillRows a.who q
      [(id, d, p)] cir).sigNow a.who a.sig a.iss) := by
  unfold State.deliver
  rw [if_neg (by simp [hf])]
  exact if_pos hl

theorem sigNow_ctxFld {α : Type} (g : Ctx → α) (hg : ∀ x u f, g (Ctx.modClu x u f) = g x) (s : State) (k : Who)
    (sig : BitVec 2) (n : Nat) (j : Who) : g ((s.sigNow k sig n).ctxOf j) = g (s.ctxOf j) := by
  unfold State.sigNow
  split
  · rfl
  · exact ctxFld_modClu g hg ..

theorem dropAcc_find (s : State) (i : Nat) : tblFind (s.dropAcc i).accs i = none :=
  (tblFind_tblErase ..).trans (if_pos rfl)

theorem setCir_cir (x : Ctx) (b : Nat) : (x.setCir b).cir = x.cir ||| b := by
  unfold Ctx.setCir
  split
  · next h => rw [h, Nat.or_zero]
  · rfl

theorem deliver_rows {q id d p cir : Nat} (hl : a.live = true) (hf : (s.ctxOf a.who).frozen = false) :
    let t := s.deliver i a q [(id, d, p)] cir
    tblFind t.accs i = none ∧ (t.ctxOf a.who).lrows q = fillRow ((s.ctxOf a.who).lrows q) id d p ∧
      (t.ctxOf a.who).cir = (s.ctxOf a.who).cir ||| cir := by
  intro t
  obtain ⟨kn, hk⟩ : KnownOnly (s.dropAcc i) ((s.dropAcc i).hand (.clu a.who) (.row a.who.core a.who.ctx id)) := .hand ..
  have ht : t = ((({ s.dropAcc i with known := kn } : State).fillRows a.who q [(id, d, p)] cir).sigNow a.who a.sig a.iss) := by
    rw [← hk]
    exact deliver_live hl hf
  have hx : (({ s.dropAcc i with known := kn } : State).fillRows a.who q [(id, d, p)] cir).ctxOf a.who =
      { (s.ctxOf a.who).setCir cir with lq := tblPut (s.ctxOf a.who).lq q (fillRow ((s.ctxOf a.who).lrows q) id d p) } := by
    unfold State.fillRows
    rw [ctxOf_modCtx_same _ _ _ _ ⟨rfl, rfl⟩]
    rfl
  refine ⟨?_, ?_, ?_⟩
  · have ha : t.accs = (s.dropAcc i).accs := by
      rw [ht]
      unfold State.sigNow
      split <;> rfl
    rw [ha]
    exact dropAcc_find s i
  · rw [ht, sigNow_ctxFld (·.lrows q) (fun _ _ _ => rfl), hx]
    simp [Ctx.lrows]
  · rw [ht, sigNow_ctxFld (·.cir) (fun _ _ _ => rfl), hx]
    exact setCir_cir ..

/-- Settles O31. -/
theorem codeLinesWalksAndLoadsArrive : Obligations.CodeLinesWalksAndLoadsArrive := by
  refine ⟨fun s t k va sa w => ⟨fun hf ht hd => ⟨_, exec_instructionFetch hf ht hd, ?_, ?_⟩, fun n x e hx hw => exec_pageWalk hx hw,
    fun n x hx hw => ⟨_, exec_pageWalk_none hx hw, ?_⟩⟩, fun s i a hi => ⟨fun f c hk hc => ?_,
      fun q rows cir c hk hc hf hn => rowDue_now hi hk hc hf hn, fun f hk hd hw => exec_loadRowFill hi hk hd hw,
      fun q id d p cir hk hl hf => ⟨_, exec_loadRowFill_served hi hk, deliver_rows hl hf⟩⟩⟩
  · rw [ctxOf_modCtx_same _ _ _ _ ⟨rfl, rfl⟩]
  · rw [coreFld_modCtx Core.icache fun _ _ _ => rfl, core_modCore, if_pos rfl]
    exact fillLine_icache ..
  · rw [core_modCore, if_pos rfl]
    exact List.mem_cons_self
  · exact exec_directPathServe hi hk hc

end

end Sys2Proof.Machine
end

section
/-! SUPPORT. Stores and atomics in flight are performed (R208, R229, R233, R388). -/

namespace Sys2Proof.Machine

/-! A row of the device's memory written whole. -/

theorem maskBits_full (n : Nat) : maskBits n (2 ^ n - 1) = 256 ^ n - 1 := by
  induction n with
  | zero => rfl
  | succ n ih =>
    have h2 : 2 ^ (n + 1) = 2 * 2 ^ n := Nat.pow_succ'
    have h256 : 256 ^ (n + 1) = 256 * 256 ^ n := Nat.pow_succ'
    have hp := Nat.one_le_two_pow (n := n)
    have hq := Nat.one_le_pow n 256 (by decide)
    unfold maskBits
    rw [if_pos (by omega), show (2 ^ (n + 1) - 1) / 2 = 2 ^ n - 1 by omega, ih]
    omega

/-- Bytes of a row as bits. -/
theorem rowBits : (256 : Nat) ^ 64 = 2 ^ 512 := (Nat.pow_mul 2 8 64).symm

theorem mergeBytes_full (a b : Nat) : mergeBytes fullMask a b = b % 2 ^ 512 := by
  have h : maskBits 64 fullMask = 2 ^ 512 - 1 := rowBits ▸ maskBits_full 64
  unfold mergeBytes
  dsimp only
  rw [h, Nat.sub_self, Nat.and_zero, Nat.zero_or, Nat.and_two_pow_sub_one_eq_mod]

section
variable (s : State) (sa data tag : Nat)

theorem activate_mem : (s.activate sa).mem = s.mem := by
  unfold State.activate
  split <;> rfl

/-- The bytes that a whole row of HBM leaves (R213). -/
theorem hbmWrite_full : (s.hbmWrite sa fullMask data 0 tag).mem = s.mem.writeN sa 64 (data % 2 ^ 512) := by
  unfold State.hbmWrite
  rw [if_pos rfl, if_pos (by decide)]
  show (s.activate sa).mem.writeN sa 64 (mergeBytes fullMask ((s.activate sa).mem.readN sa 64) data) = _
  rw [mergeBytes_full, activate_mem]

/-- A store of a whole row leaves every other byte of the device's memory (R233). -/
theorem sysWrite_frame {b : Nat} (hb : b < s.memKey (sa / 64 * 64) ∨ s.memKey (sa / 64 * 64) + 64 ≤ b) :
    (s.sysWrite sa fullMask data 0 tag).mem.read b = s.mem.read b := by
  unfold State.sysWrite
  dsimp only
  by_cases h0 : saLevel (sa / 64 * 64) = 0
  · have hk : s.memKey (sa / 64 * 64) = sa / 64 * 64 := if_neg (by omega)
    rw [if_pos h0, hbmWrite_full, Mem.read_writeN, if_neg (by omega)]
  · rw [if_neg h0]
    by_cases h1 : saLevel (sa / 64 * 64) = 1
    · have hk : s.memKey (sa / 64 * 64) = sa / 64 * 64 := if_neg (by omega)
      have hf : fullMask = 16 ^ 16 - 1 := by decide
      rw [if_pos h1, hf, shaEvents_fld State.mem fun _ _ => rfl]
      exact (eccWrite_full 16 s.mem s.shaSyn (sa / 64 * 64) data b).trans (if_neg (by omega))
    · rw [if_neg h1]
      split
      · rfl
      · exact (Mem.read_writeN ..).trans (if_neg (by omega))

end

section
variable {s : State} {i : Nat} {a : Acc}

theorem performStore_mem (s : State) (i : Nat) (a : Acc) (d : Nat) :
    (s.performStore i a d).mem = (s.sysWrite a.sa fullMask d 0 a.task.tag).mem := by
  unfold State.performStore State.dropAcc
  dsimp only
  exact (KnownOnly.setCell (s.sysWrite a.sa fullMask d 0 a.task.tag) i a.who.core (a.sa / 64) fullMask false).fld State.mem
    fun _ _ => rfl

theorem performStore_row (s : State) (i : Nat) (a : Acc) (d : Nat) (hl : saLevel (a.sa / 64 * 64) = 0) :
    (s.performStore i a d).mem.readN (a.sa / 64 * 64) 64 = d % 2 ^ 512 := by
  have hs : s.sysWrite a.sa fullMask d 0 a.task.tag = s.hbmWrite (a.sa / 64 * 64) fullMask d 0 a.task.tag := if_pos hl
  rw [performStore_mem, hs, hbmWrite_full, Mem.readN_writeN, rowBits, Nat.mod_mod]

variable (hi : tblFind s.accs i = some a) (hw : s.accWaits i a = false)
include hi

include hw in
theorem exec_globalStorePerform {d : Nat} (hk : a.kind = .store d) (hd : saDev a.sa = s.devId) :
    exec (.globalStorePerform i) s = .next (s.performStore i a d) := by
  show execGlobalStorePerform i s = _
  unfold execGlobalStorePerform
  rw [hi]
  dsimp only
  rw [hk]
  exact if_neg (by simp [hd, hw])

include hw in
theorem exec_dieWindowStorePerform {n addr d : Nat} {u : Bool} (hk : a.kind = .win n addr d u) (hp : (s.core n).power = .on)
    (ht : (s.core n).touched addr = false) : exec (.dieWindowStorePerform i) s = .next (s.performWin i a n addr d u) := by
  show execDieWindowStorePerform i s = _
  unfold execDieWindowStorePerform
  rw [hi]
  dsimp only
  rw [hk]
  dsimp only
  rw [wakeCore_on hp]
  exact if_neg (by simp [hp, hw, ht])

theorem exec_dieWindowStorePerform_off {n addr d : Nat} {u : Bool} (hk : a.kind = .win n addr d u)
    (hp : (s.core n).power = .off) : exec (.dieWindowStorePerform i) s = .next (s.wakeCore n) := by
  show execDieWindowStorePerform i s = _
  unfold execDieWindowStorePerform
  rw [hi]
  dsimp only
  rw [hk]
  exact if_pos (by simp [(wakeCore_off s n n).2 hp])

include hw in
theorem exec_atomicPerform {op sd : Nat} {w : Bool} {v new : Word} (hk : a.kind = .atom op w v new sd)
    (hf : (s.ctxOf a.who).frozen = false) : exec (.atomicPerform i) s = .next (s.performAtomic i a op w v new sd) := by
  show execAtomicPerform i s = _
  unfold execAtomicPerform
  rw [hi]
  dsimp only
  rw [hk]
  exact if_neg (by simp [hf, hw])

omit hi

/-! What the old value of an atomic is taken from. -/

theorem atomicAt_hbm (s : State) (p n op v new tag : Nat) (hl : saLevel p = 0) :
    (s.atomicAt p n op v new tag).2.1 = (s.sysReadN p n tag).2.1 := by
  unfold State.atomicAt
  dsimp only
  rw [if_neg (by omega), if_neg (by omega)]

/-- What is known to have happened has no part in the value of an access. -/
theorem hbmRead_known (s : State) (kn : List (Nat × Party)) (sa tag : Nat) :
    (({ s with known := kn } : State).hbmRead sa tag).2.1 = (s.hbmRead sa tag).2.1 := by
  have ha : ({ s with known := kn } : State).activate sa = { s.activate sa with known := kn } := by
    unfold State.activate
    dsimp only
    split <;> rfl
  unfold State.hbmRead
  rw [ha]
  dsimp only
  generalize s.activate sa = u
  have hl : ({ u with known := kn } : State).lineState sa = u.lineState sa := rfl
  rw [hl]
  cases u.lineState sa with
  | none => rfl
  | some b => cases b <;> rfl

theorem sysRead_known (s : State) (kn : List (Nat × Party)) (sa tag : Nat) :
    (({ s with known := kn } : State).sysRead sa tag).2.1 = (s.sysRead sa tag).2.1 := by
  unfold State.sysRead
  dsimp only
  split
  · exact hbmRead_known ..
  · split
    · split <;> rfl
    · split <;> rfl

theorem atomicAt_known (s : State) (kn : List (Nat × Party)) (p n op v new tag : Nat) :
    (({ s with known := kn } : State).atomicAt p n op v new tag).2.1 = (s.atomicAt p n op v new tag).2.1 := by
  have hr : (({ s with known := kn } : State).sysReadN p n tag).2.1 = (s.sysReadN p n tag).2.1 :=
    congrArg (fun d => (d >>> (8 * (p % 64))) % 2 ^ (8 * n)) (sysRead_known s kn p tag)
  unfold State.atomicAt
  dsimp only
  split
  · rfl
  · split
    · split <;> exact hr
    · exact hr

theorem MemBlind.atomicAt {α : Type} {g : State → α} (b : MemBlind g) (s : State) (p n op v new tag : Nat) :
    g (s.atomicAt p n op v new tag).1 = g s := by
  have hr : g (s.sysReadN p n tag).1 = g s := b.sysReadN ..
  unfold State.atomicAt
  dsimp only
  split
  · exact (b.sysWrite ..).trans (b.shaWords ..)
  · split
    · split
      · exact hr
      · exact (b.mem _ _).trans hr
    · refine (b.sysWrite ..).trans (Eq.trans ?_ hr)
      exact b.all (s.sysReadN p n tag).1 ..

/-- An atomic that its context takes at once (R229): it is no longer in flight, and its old value has returned. -/
theorem performAtomic_returns (s : State) (i : Nat) (a : Acc) (op : Nat) (w : Bool) (v new : Word) (sd : Nat)
    (hf : (s.ctxOf a.who).frozen = false) (hr : saLevel a.sa = 1 → s.openFor a.who.core (shaKey a.sa) = false) :
    ∃ (u : State) (pois : Bool), s.performAtomic i a op w v new sd = (u.dropAcc i).returnAtomic a
      (BitVec.ofNat 64 (s.atomicAt (a.sa / (if w then 8 else 4) * (if w then 8 else 4)) (if w then 8 else 4) op v.toNat new.toNat
        a.task.tag).2.1) pois sd := by
  unfold State.performAtomic
  generalize (if w = true then 8 else 4) = n
  dsimp only
  rw [if_neg (by simpa using hr)]
  generalize hc : s.readCell (a.sa / 64) _ _ = u
  obtain ⟨kn, rfl⟩ : KnownOnly s u := hc ▸ .readCell ..
  rw [if_neg]
  · rw [atomicAt_known]
    exact ⟨_, _, rfl⟩
  · have hx : ((((({ s with known := kn } : State).atomicAt (a.sa / n * n) n op v.toNat new.toNat a.task.tag).1).setCell i
        a.who.core (a.sa / 64) ((2 ^ n - 1) <<< (a.sa / n * n % 64)) true).ctxOf a.who).frozen = false := by
      unfold State.ctxOf State.core
      rw [(KnownOnly.setCell ..).fld State.cores fun _ _ => rfl, memBlind_cores.atomicAt]
      exact hf
    simp [hx]

/-- The old value of an atomic returns to its cluster (R229). -/
theorem returnAtomic_live (s : State) (i : Nat) {a : Acc} (old : Word) (pois : Bool) {sd : Nat} (hl : a.live = true)
    (hs : sd ≠ 0) :
    let t := (s.dropAcc i).returnAtomic a old pois sd
    tblFind t.accs i = none ∧ (t.clu a.who).blocked = false ∧ (t.clu a.who).sreg sd = old := by
  intro t
  let u := (s.dropAcc i).modClu a.who fun c => { (c.newest (.scal sd old)).setS sd old with blocked := false }
  have ht : t = if pois then u.modCtx a.who fun x => x.setCir 1 else u := if_pos hl
  have hc : t.clu a.who = u.clu a.who := by
    rw [ht]
    split
    · exact clu_modCtx _ _ _ _ fun x => setCir_fld Ctx.clus (fun _ _ _ => rfl) x 1
    · rfl
  have hu : u.clu a.who = { (((s.dropAcc i).clu a.who).newest (.scal sd old)).setS sd old with blocked := false } := clu_modClu ..
  refine ⟨?_, ?_, ?_⟩
  · have ha : t.accs = (s.dropAcc i).accs := by
      rw [ht]
      split <;> rfl
    rw [ha]
    exact dropAcc_find s i
  · rw [hc, hu]
  · rw [hc, hu]
    refine (sreg_setS ..).trans ?_
    simp [hs]

/-- Settles O32. -/
theorem storesAndAtomicsArePerformed : Obligations.StoresAndAtomicsArePerformed := by
  refine ⟨fun s i a hi hw => ⟨fun d hk hd => ⟨exec_globalStorePerform hi hw hk hd, performStore_row s i a d, ?_⟩,
    fun n addr d u hk hp ht => exec_dieWindowStorePerform hi hw hk hp ht,
    fun n addr d u hk hp => ⟨_, exec_dieWindowStorePerform_off hi hk hp, wakeCore_wakes hp, ?_⟩⟩, ?_⟩
  · intro k b hb
    rw [performStore_mem]
    exact sysWrite_frame s a.sa d a.task.tag hb
  · rw [wakeCore_fld State.accs (fun _ _ _ _ => rfl), hi]
  · intro s i a op w v new sd n p hi hk hw hl hs hf hr
    obtain ⟨u, pois, hu⟩ := performAtomic_returns s i a op w v new sd hf hr
    refine ⟨_, exec_atomicPerform hi hw hk hf, ?_⟩
    rw [hu]
    obtain ⟨h1, h2, h3⟩ := returnAtomic_live u i (BitVec.ofNat 64 (s.atomicAt p n op v.toNat new.toNat a.task.tag).2.1) pois hl hs
    exact ⟨h1, h2, h3, atomicAt_hbm s p n op v.toNat new.toNat a.task.tag⟩

end

end Sys2Proof.Machine
end

section
/-! SUPPORT. The copy engine's events (R288, R289, R293, R298, R343). -/

namespace Sys2Proof.Machine

theorem tblPut_length_new {α : Type} (v : α) {k : Nat} : ∀ {t : Tbl α}, tblFind t k = none → (tblPut t k v).length = t.length + 1
  | [], _ => rfl
  | (j, x) :: r, h => by
    obtain ⟨hj, hr⟩ : k ≠ j ∧ tblFind r k = none := by
      by_cases e : k = j
      · simp [tblFind, e] at h
      · exact ⟨e, by simpa [tblFind, e] using h⟩
    unfold tblPut
    split
    · next e => exact absurd e hj
    · split
      · rfl
      · exact congrArg (· + 1) (tblPut_length_new v hr)

/-- What the start of a command's own word does. -/
def State.cpEnters (s : State) (n : Nat) (e : EnCmd) : State :=
  match e.i with
  | .cpy .. => s.cpStartCopy n e false
  | .cpyl .. => s.cpStartCopy n e true
  | _ => s.cpStartCb n e

section
variable {s : State} {n id : Nat} {e : EnCmd} {rest : List EnCmd} {r : CpRun} {h : Shape}

/-- What the start of a copy-engine command does, where the engine has room for it. -/
theorem exec_copyStart {s' : State} (hq : (s.core n).cpq = e :: rest) (he : (s.core n).engHalt = false) (hl : (s.core n).cpRun.length < 4)
    (hh : s.cpHeld n = false) (ha : s.cmdAlive n e = true)
    (hs : s.cpEnters n e = s')
    (hn : (s'.core n).cpRun.length ≠ (s.core n).cpRun.length) :
    exec (.copyStart n) s = .next (s'.modCore n fun c => { c with cpq := rest }) := by
  show Host.Outcome.next (s.cpStart n) = _
  unfold State.cpStart
  dsimp only
  rw [hq]
  dsimp only
  rw [if_neg (by simp [he, hl, hh, ha])]
  subst hs
  exact congrArg _ (if_neg hn)

theorem cpAdd_length (h : tblFind (s.core n).cpRun (s.core n).cpNext = none) :
    ((s.cpAdd n r).core n).cpRun.length = (s.core n).cpRun.length + 1 := by
  unfold State.cpAdd
  rw [core_modCore, if_pos rfl]
  exact tblPut_length_new r h

/-- A CPY whose record is in order enters the running set (R293, R296). -/
theorem cpStartCopy_runs {t : State} {d p : Nat} (ha : e.a.toNat % 64 = 0) (hr : s.localRows n e.task 4 e.a.toNat = .ok t d p)
    (hp : parseShape d false e.b = some h) (hd : h.dspace ≠ 2) :
    s.cpStartCopy n e false = t.cpAdd n { CpRun.start e with shape := some h } := by
  unfold State.cpStartCopy
  -- the parser is hidden, so that no check of a step evaluates it
  obtain ⟨parse, hparse⟩ : ∃ p, p = parseShape := ⟨_, rfl⟩
  rw [hr, ← hparse]
  rw [← hparse] at hp
  simp only [ha, hp, ne_eq, not_true, hd, decide_false, Bool.false_and, Bool.false_eq_true, if_false]
  rfl

/-- Reading rows at local addresses leaves the engines of a core. -/
theorem localRows_eng {t : State} {m v d p : Nat} {q : Task} (hr : s.localRows n q m v = .ok t d p) (k : Nat) :
    (t.core k).eng = (s.core k).eng :=
  LocalRows.keeps_ok.1 (hr ▸ (performs_eng Core.eng (fun _ _ => id) k (s.core k).eng).localRows n q m v rfl)

theorem copy_enters {t : State} {d p : Nat} (hn : tblFind (s.core n).cpRun (s.core n).cpNext = none)
    (hr : s.localRows n e.task 4 e.a.toNat = .ok t d p) :
    ((t.cpAdd n r).core n).cpRun.length ≠ (s.core n).cpRun.length := by
  have ht := localRows_eng hr n
  have hrun : (t.core n).cpRun = (s.core n).cpRun := congrArg (·.2.1) ht
  have hnext : (t.core n).cpNext = (s.core n).cpNext := congrArg (·.2.2.1) ht
  rw [cpAdd_length (by rwa [hrun, hnext]), hrun]
  exact Nat.succ_ne_self _

theorem exec_copyRowGroup {g : Gather} (hi : tblFind (s.core n).cpRun id = some r) (hs : r.shape = some h) (hc : r.next < h.count)
    (ha : s.cmdAlive n r.cmd = true) (he : (s.core n).engHalt = false) (hp : r.put = none)
    (hg : gather n id r h (h.dstRows r.next) (h.count - r.next) ⟨s, none, r.next, [], [], 0⟩ = .ok g) :
    exec (.copyRowGroup n id) s = .next (s.cpWrite n id r h g) := by
  show Host.Outcome.next (s.cpGroup n id) = _
  unfold State.cpGroup
  rw [hi]
  dsimp only
  rw [hs]
  dsimp only
  rw [if_neg (by simp [hc, ha, he, hp]), hg]

/-! Completion: the owner's token or CBLD status first, then what other parts get. -/

/-- What its task's state keeps of a completed command (R289, R290, R343). -/
def CpRun.settles (r : CpRun) (x : Ctx) : Ctx :=
  let x := x.setCir r.cbits
  match r.cmd.copyTok with
  | some t =>
    let k := x.ctok t
    let k := { k with pend := k.pend - 1 }
    { x with ct := tblPut x.ct t (if r.stat = 0 then k else { k with stat := r.stat, fidx := r.fidx, addr := r.addr, eng := r.eng }) }
  | none => if r.stat = 0 then x else { x with cbStat := r.stat, cbIdx := r.fidx, cbEng := r.eng }

/-- What happens before a copy happens before what waits for its token (R242). -/
def State.cpTells (s : State) (n : Nat) (r : CpRun) : State :=
  match r.cmd.copyTok with
  | some t => if s.inCtx n r.cmd then s.teach r.cmd.past (.ctok n r.cmd.ctx t) else s
  | none => s

/-- The codebook table that CBLD leaves (R343). -/
def State.cpBooks (s : State) (n : Nat) (r : CpRun) : State :=
  if r.cmd.copyTok.isNone && r.stat = 0 then
    s.modCore n fun c => { c with cbt := r.cb.zipIdx.map fun (v, i) => (i, BitVec.ofNat 24 v) } else s

/-- The landing slot of a completed CPYL (R300). -/
def State.cpLands (s : State) (n : Nat) (r : CpRun) : State :=
  match r.slot with
  | none => s
  | some k => s.modCore n fun c => match tblFind c.land k with
    | none => c
    | some l => if !s.inCtx n r.cmd then c else { c with land := tblPut c.land k { l with done := true, stat := r.stat } }

/-- The reserved rows of a completed command count as filled (R297). -/
def State.cpFills (s : State) (n : Nat) (r : CpRun) : State :=
  match r.shape with
  | none => s
  | some h => if s.inCtx n r.cmd then
      s.modCtx (r.cmd.who n) fun x => { x with lq := tblPut x.lq h.q ((x.lrows h.q).map fun (q : QRow) =>
        if r.rows.contains q.id then { q with filled := true } else q) }
    else s

/-- Pushes, counters and trace of a completed command. -/
def State.cpReports (s : State) (n : Nat) (r : CpRun) : State :=
  ((s.cmdPush n r.cmd).perf n 13 r.cmd.ctx none 1).traceCmd n 5 r.cmd r.stat (r.cmd.copyTok.getD 0)

theorem exec_copyComplete (hi : tblFind (s.core n).cpRun id = some r) (hm : r.moved = true) (hr : s.cmdRoom n r.cmd = true)
    (ha : s.cmdAlive n r.cmd = true) :
    exec (.copyComplete n id) s = .next (((((((s.modCore n fun c => { c with cpRun := tblErase c.cpRun id }).modOwner n r.cmd
      r.settles).cpTells n r).cpBooks n r).cpLands n r).cpFills n r).cpReports n r) := by
  show Host.Outcome.next (s.cpComplete n id) = _
  unfold State.cpComplete
  rw [hi]
  dsimp only
  rw [if_neg (by simp [hm, hr, ha])]
  rfl

/-- A reading of a core that sees neither landing slots, nor performance counts, nor anything of a context but what it
owns. -/
structure CpBlind {α : Type} (g : Core → α) : Prop where
  land : ∀ c l, g { c with land := l } = g c
  perf : ∀ c p o, g { c with pcs := p, pcovf := o } = g c
  ctx : ∀ c n (f : Ctx → Ctx), (∀ x, (f x).own = x.own) → g (Core.modCtx c n f) = g c

theorem cpBlind_run : CpBlind Core.cpRun := ⟨fun _ _ => rfl, fun _ _ _ => rfl, fun _ _ _ _ => rfl⟩
theorem cpBlind_cbt : CpBlind Core.cbt := ⟨fun _ _ => rfl, fun _ _ _ => rfl, fun _ _ _ _ => rfl⟩
theorem cpBlind_own (x : Nat) : CpBlind fun c => (c.ctx x).own := ⟨fun _ _ => rfl, fun _ _ _ => rfl, fun c n f hf => by
  rw [ctx_modCtx]
  split
  · next e => rw [hf, e]
  · rfl⟩

theorem pushToks_own (qs : List Nat) (x : Ctx) : (qs.foldl Ctx.pushTok x).own = x.own :=
  foldl_fld Ctx.own Ctx.pushTok (fun _ _ => rfl) qs x

section
variable {α : Type} {g : Core → α} (b : CpBlind g)
include b

theorem cmdPush_core (s : State) (n : Nat) (e : EnCmd) (m : Nat) : g ((s.cmdPush n e).core m) = g (s.core m) := by
  unfold State.cmdPush State.pushNow
  split
  · split
    · rfl
    · refine (foldl_fld (fun s : State => g (s.core m)) _ (fun s q => teach_fld (fun s => g (s.core m)) (fun _ _ => rfl) ..) _ _).trans ?_
      exact coreFld_modCore g s _ m _ fun c => b.ctx c _ _ fun x => pushToks_own _ x
  · rfl

omit b in
theorem traceCmd_core (s : State) (n unit : Nat) (e : EnCmd) (stat tok m : Nat) :
    g ((s.traceCmd n unit e stat tok).core m) = g (s.core m) := by
  unfold State.traceCmd
  split
  · exact traceRec_fld (fun s => g (s.core m)) (fun _ _ _ => rfl) ..
  · rfl

theorem cpReports_core (s : State) (n : Nat) (r : CpRun) (m : Nat) : g ((s.cpReports n r).core m) = g (s.core m) :=
  (traceCmd_core ..).trans ((perf_coreFld g b.perf _ _ _ _ _ _ _).trans (cmdPush_core b ..))

theorem cpFills_core (s : State) (n : Nat) (r : CpRun) (m : Nat) : g ((s.cpFills n r).core m) = g (s.core m) := by
  unfold State.cpFills
  split
  · rfl
  · split
    · exact coreFld_modCore g s _ m _ fun c => b.ctx c _ _ fun _ => rfl
    · rfl

theorem cpLands_core (s : State) (n : Nat) (r : CpRun) (m : Nat) : g ((s.cpLands n r).core m) = g (s.core m) := by
  unfold State.cpLands
  split
  · rfl
  · refine coreFld_modCore g s n m _ fun c => ?_
    split
    · rfl
    · split
      · rfl
      · exact b.land ..

omit b in
theorem cpTells_core (s : State) (n : Nat) (r : CpRun) (m : Nat) : g ((s.cpTells n r).core m) = g (s.core m) := by
  unfold State.cpTells
  split
  · split
    · exact teach_fld (fun s => g (s.core m)) (fun _ _ => rfl) ..
    · rfl
  · rfl

omit b in
theorem cpBooks_core (hg : ∀ c t, g { c with cbt := t } = g c) (s : State) (n : Nat) (r : CpRun) (m : Nat) :
    g ((s.cpBooks n r).core m) = g (s.core m) := by
  unfold State.cpBooks
  split
  · exact coreFld_modCore g s n m _ fun c => hg c _
  · rfl

/-- What follows the owner's update, to a reading that is also blind to the codebook. -/
theorem cpRest_core (hg : ∀ c t, g { c with cbt := t } = g c) (s : State) (n : Nat) (r : CpRun) (m : Nat) :
    g ((((((s.cpTells n r).cpBooks n r).cpLands n r).cpFills n r).cpReports n r).core m) = g (s.core m) :=
  (cpReports_core b ..).trans ((cpFills_core b ..).trans ((cpLands_core b ..).trans ((cpBooks_core hg ..).trans (cpTells_core ..))))

end

theorem modOwner_cpRun (s : State) (n : Nat) (e : EnCmd) (f : Ctx → Ctx) (m : Nat) :
    ((s.modOwner n e f).core m).cpRun = (s.core m).cpRun := by
  unfold State.modOwner
  split
  · exact coreFld_modCtx Core.cpRun (fun _ _ _ => rfl) ..
  · exact coreFld_modCore Core.cpRun s n m _ fun _ => rfl

theorem modOwner_here (hc : s.inCtx n e = true) (f : Ctx → Ctx) :
    ((s.modOwner n e f).core n).ctx e.ctx = f ((s.core n).ctx e.ctx) := by
  unfold State.modOwner
  rw [if_pos hc]
  exact (ctxOf_modCtx_same s ⟨n, e.ctx, .c⟩ ⟨n, e.ctx, .c⟩ f ⟨rfl, rfl⟩)

theorem inCtx_modCore (s : State) (n : Nat) (f : Core → Core) (hf : ∀ c, (f c).ctxs = c.ctxs) (e : EnCmd) :
    (s.modCore n f).inCtx n e = s.inCtx n e := by
  unfold State.inCtx
  rw [show ((s.modCore n f).core n).ctx e.ctx = _ from ctxOf_modCore s n f ⟨n, e.ctx, .c⟩ hf]
  rfl

theorem setCir_ctok (x : Ctx) (b k : Nat) : (x.setCir b).ctok k = x.ctok k := by
  unfold Ctx.setCir
  split <;> rfl

theorem settles_ctok {k : Nat} (hk : r.cmd.copyTok = some k) (x : Ctx) :
    (r.settles x).ctok k = if r.stat = 0 then { x.ctok k with pend := (x.ctok k).pend - 1 }
      else { pend := (x.ctok k).pend - 1, stat := r.stat, fidx := r.fidx, addr := r.addr, eng := r.eng } := by
  unfold CpRun.settles
  rw [hk]
  refine (tblGet_tblPut ..).trans ((if_pos rfl).trans ?_)
  rw [setCir_ctok]

/-- The codebook's entry j is element j of the list. -/
theorem cbt_get (l : List Nat) : ∀ (m j : Nat), m ≤ j → j < m + l.length →
    tblGet 0 ((l.zipIdx m).map fun p => (p.2, BitVec.ofNat 24 p.1)) j = BitVec.ofNat 24 (l.getD (j - m) 0) := by
  induction l with
  | nil => intro m j h1 h2; exact absurd h2 (Nat.not_lt.2 h1)
  | cons v l ih =>
    intro m j h1 h2
    by_cases e : m = j
    · subst e
      simp [tblGet, tblFind]
    · have hj : j - m = (j - (m + 1)) + 1 := by omega
      rw [hj]
      refine Eq.trans ?_ (ih (m + 1) j (by omega) (by simp only [List.length_cons] at h2; omega))
      simp [tblGet, tblFind, Ne.symm e]

end

/-- Settles O33. -/
theorem copiesRunToTheirEnd : Obligations.CopiesRunToTheirEnd := by
  intro s n id
  refine ⟨fun e rest hq he hl hh ha => ⟨fun h d p t hn hi h64 hr hp hd => ?_, ?_⟩,
    fun r h g hi hs hc ha he hp hg => exec_copyRowGroup hi hs hc ha he hp hg, fun r k hi hm hr ha hc hk => ?_,
    fun r hi hm hr ha hk hs hcb => ?_⟩
  · refine exec_copyStart hq he hl hh ha ?_ (copy_enters hn hr)
    obtain ⟨x, k, a, b, hi⟩ := hi
    unfold State.cpEnters
    rw [hi]
    exact cpStartCopy_runs h64 hr hp hd
  · intro s' hn
    exact exec_copyStart hq he hl hh ha rfl hn
  · refine ⟨_, exec_copyComplete hi hm hr ha, ?_, ?_⟩
    · rw [cpRest_core cpBlind_run (fun _ _ => rfl), modOwner_cpRun, core_modCore, if_pos rfl]
      exact (tblFind_tblErase ..).trans (if_pos rfl)
    · unfold Ctx.ctok
      have hct : ∀ x y : Ctx, x.own = y.own → x.ct = y.ct := fun _ _ h => congrArg (·.2.2.2) h
      rw [hct _ _ (cpRest_core (cpBlind_own r.cmd.ctx) (fun _ _ => rfl) ..), modOwner_here ((inCtx_modCore _ _ _ (fun _ => by rfl) _).trans hc)]
      rw [show ((s.modCore n _).core n).ctx r.cmd.ctx = _ from ctxOf_modCore s n _ ⟨n, r.cmd.ctx, .c⟩ fun _ => by rfl]
      exact settles_ctok hk _
  · refine ⟨_, exec_copyComplete hi hm hr ha, fun j hj => ?_⟩
    rw [cpReports_core cpBlind_cbt, cpFills_core cpBlind_cbt, cpLands_core cpBlind_cbt]
    unfold State.cpBooks
    rw [if_pos (by simp [hk, hs]), core_modCore, if_pos rfl]
    exact cbt_get r.cb 0 j (Nat.zero_le j) (by rw [hcb]; simpa using hj)

end Sys2Proof.Machine
end

section
/-! SUPPORT. The matrix engine's events (R272, R273, R278 to R281). -/

namespace Sys2Proof.Machine

theorem taskOf_modCore (s : State) (n : Nat) (f : Core → Core) (k : Who) (hf : ∀ c, (f c).ctxs = c.ctxs) :
    (s.modCore n f).taskOf k = s.taskOf k := by
  unfold State.taskOf
  rw [ctxOf_modCore s n f k hf]

/-! What a push leaves. -/

theorem pushNow_coreFld {α : Type} (g : Core → α) (hg : ∀ c n f, g (Core.modCtx c n f) = g c) (s : State) (k : Who) (sig : BitVec 2)
    (past : List Nat) (m : Nat) : g ((s.pushNow k sig past).core m) = g (s.core m) := by
  unfold State.pushNow
  split
  · rfl
  · refine (foldl_fld (fun s : State => g (s.core m)) _ (fun s q => teach_fld (fun s => g (s.core m)) (fun _ _ => rfl) ..) _ _).trans ?_
    exact coreFld_modCtx g hg s k _ m

section
variable {s : State} {n : Nat}

theorem exec_matrixCommandStart {c : MxCmd} {rest : List MxCmd} {t : State} {ds : List Nat} {bad : Bool} {z : Nat}
    (he : (s.core n).engHalt = false) (hr : (s.core n).mxRun = none) (hq : takeFirst (s.mxAlive n) (s.core n).mxq = some (c, rest))
    (hf : ((s.core n).ctx c.ctx).frozen = false)
    (hg : State.engRegions n (s.taskOf (c.who n)).tag c.regions (s.modCore n fun k => { k with mxq := rest }) [] false =
      (some (t, ds, bad), z)) :
    exec (.matrixCommandStart n) s = .next (t.modCore n fun k => { k with mxRun := some (MxRun.mk c ⟨ds.getD 0 0, ds.getD 1 0,
      ds.getD 2 0, ds.getD 3 0, ds.getD 4 0, bad, if fwA c.fmt = 11 || fwB c.fmt = 11 then (s.core n).cbt else []⟩ false) }) := by
  show Host.Outcome.next (s.mxStart n) = _
  unfold State.mxStart
  dsimp only
  rw [if_neg (by simp [he, hr]), hq]
  dsimp only
  rw [if_neg (by simp [hf]), taskOf_modCore _ _ _ _ (fun _ => by rfl), hg]

variable {r : MxRun} (hr : (s.core n).mxRun = some r) (hf : ((s.core n).ctx r.cmd.ctx).frozen = false)

/-! What a command's writes leave of its context: the sets of flags that have arrived. -/

theorem addProv_fsets (x : Ctx) (c : MxCmd) (tid : Word) (kind row col : Nat) (must : Bool) :
    (x.addProv c tid kind row col must).fsets = x.fsets := by
  unfold Ctx.addProv
  dsimp only
  split
  · rfl
  · split <;> rfl

theorem setCir_fsets (x : Ctx) (b : Nat) : (x.setCir b).fsets = x.fsets := setCir_fld Ctx.fsets (fun _ _ _ => rfl) x b

theorem numProv_fsets (s : State) (n : Nat) (c : MxCmd) (kinds : List Nat) (k : Who) :
    ((s.numProv n c kinds).ctxOf k).fsets = (s.ctxOf k).fsets := by
  unfold State.numProv
  split
  · rfl
  · split
    · rfl
    · exact ctxFld_modCtx Ctx.fsets s k _ _ fun x => addProv_fsets ..

theorem mxPut_fsets (s : State) (j : Who) (off len v : Nat) (k : Who) : ((s.mxPut j off len v).ctxOf k).fsets = (s.ctxOf k).fsets := by
  unfold State.mxPut
  refine (ctxFld_modClu Ctx.fsets (fun _ _ _ => rfl) _ _ _ k).trans ?_
  exact congrArg Ctx.fsets (ctxOf_modCore s _ _ k fun _ => rfl)

theorem mxMma_fsets (s : State) (n : Nat) (r : MxRun) (k : Who) : ((s.mxMma n r).ctxOf k).fsets = (s.ctxOf k).fsets := by
  unfold State.mxMma
  extract_lets c cf len es s1 chk s2
  clear_value es
  refine (numProv_fsets ..).trans ((ctxFld_modCtx Ctx.fsets s1 k _ _ fun x => ?_).trans (mxPut_fsets ..))
  exact setCir_fsets x (es.foldl (fun b e => b ||| cirOf e.fl) (if r.input.pois then 1 else 0))

theorem mxLoad_fsets (s : State) (n : Nat) (r : MxRun) (k : Who) : ((s.mxLoad n r).ctxOf k).fsets = (s.ctxOf k).fsets := by
  unfold State.mxLoad
  extract_lets c cf s1
  refine (ctxFld_modCtx Ctx.fsets s1 k _ _ fun x => ?_).trans (mxPut_fsets ..)
  exact setCir_fsets x (if r.input.pois then 1 else 0)

theorem mxEffect_fsets (s : State) (n : Nat) (r : MxRun) (k : Who) : ((s.mxEffect n r).ctxOf k).fsets = (s.ctxOf k).fsets := by
  unfold State.mxEffect
  split
  · exact mxMma_fsets ..
  · exact mxMma_fsets ..
  · exact mxLoad_fsets ..
  · rfl

/-- A flag that is set in a context once others have been told (R94). -/
theorem setFlag_fsets (u : State) (l : List Nat) (p : Party) (n : Nat) (f : Core → Core) (k : Who) (i : Nat) (b : Bool) (j : Nat)
    (hf : ∀ c, (f c).ctxs = c.ctxs) :
    ((((u.teach l p).modCore n f).modCtx k fun x => x.setFlag i b j).ctxOf k).fsets = (u.ctxOf k).fsets ++ [(i, b, j)] := by
  rw [ctxOf_modCtx_same _ k k _ ⟨rfl, rfl⟩]
  show (((u.teach l p).modCore n f).ctxOf k).fsets ++ _ = _
  rw [ctxOf_modCore _ n f k hf, teach_fld (fun s => (s.ctxOf k).fsets) (fun _ _ => rfl)]

/-- What the end of a running command comes to, by its word. -/
def State.mxEnds (s : State) (n : Nat) (r : MxRun) : State :=
  match r.cmd.i with
  | .mma .. => (s.mxFinish n r).mxEnd n r.cmd
  | .mmas .. => (s.mxFinish n r).mxEnd n r.cmd
  | .mldacc .. => (s.mxFinish n r).mxEnd n r.cmd
  | .mzero .. => (s.mxZero n r.cmd).mxEnd n r.cmd
  | .mstacc .. =>
    if r.cmd.storeAddrs.any (s.core n).readNow then s
    else match s.mxStore n r.cmd with | (s, true) => s.mxEnd n r.cmd | (s, false) => s
  | _ => s.mxEnd n r.cmd

include hr hf

/-- The release of a running command (R273). -/
theorem exec_ringStageRelease (hn : r.released = false) (hl : r.cmd.rel = true) :
    exec (.ringStageRelease n) s = .next ((((s.mxEffect n r).teach r.cmd.past (.flagIn n r.cmd.ctx (fwRelf r.cmd.fmt))).modCore n
      fun k => { k with mxRun := some { r with released := true } }).modCtx (r.cmd.who n) fun x => x.setFlag (fwRelf r.cmd.fmt) false 4) := by
  show Host.Outcome.next (s.mxReleaseEvent n) = _
  unfold State.mxReleaseEvent State.mxRelease
  rw [hr]
  dsimp only
  rw [if_neg (by simp [hf]), if_neg (by simp [hn, hl])]
  rfl

/-- The end of a running command, by its word (R272). -/
theorem exec_matrixCommandComplete (hc : ((s.core n).ctx r.cmd.ctx).roomTok (sigQueues .m r.cmd.hdr.sig) = true) :
    exec (.matrixCommandComplete n) s = .next (s.mxEnds n r) := by
  show Host.Outcome.next (s.mxComplete n) = _
  unfold State.mxComplete
  rw [hr]
  dsimp only
  rw [if_neg (by simp [hf, hc])]
  rfl

omit hr hf

theorem mxEnd_coreFld {α : Type} (g : Core → α) (hg : ∀ c n f, g (Core.modCtx c n f) = g c)
    (hp : ∀ c p o, g { c with pcs := p, pcovf := o } = g c) (s : State) (n : Nat) (c : MxCmd) (m : Nat) :
    g ((s.mxEnd n c).core m) = g ((s.modCore n fun x => { x with mxRun := none }).core m) := by
  unfold State.mxEnd
  extract_lets k s1 s2 t
  have h2 : g (s2.core m) = g ((s.modCore n fun x => { x with mxRun := none }).core m) :=
    (perf_coreFld g hp ..).trans (pushNow_coreFld g hg ..)
  split
  · exact (traceRec_fld (fun s => g (s.core m)) (fun _ _ _ => rfl) ..).trans h2
  · exact h2

theorem mxEnd_mxRun (s : State) (n : Nat) (c : MxCmd) : ((s.mxEnd n c).core n).mxRun = none := by
  rw [mxEnd_coreFld Core.mxRun (fun _ _ _ => rfl) (fun _ _ _ => rfl), core_modCore, if_pos rfl]

theorem mxEnd_frame (s : State) (n : Nat) (c : MxCmd) : ((s.mxEnd n c).core n).frame = (s.core n).frame := by
  rw [mxEnd_coreFld Core.frame (fun _ _ _ => rfl) (fun _ _ _ => rfl)]
  exact coreFld_modCore Core.frame s n n _ fun _ => rfl

theorem mxPut_frame (s : State) (k : Who) (off len v : Nat) :
    ((s.mxPut k off len v).core k.core).frame = (s.core k.core).frame.writeN ((s.ctxOf k).fo + off) len v := by
  unfold State.mxPut
  refine (coreFld_modCtx Core.frame (fun _ _ _ => rfl) _ _ _ k.core).trans ?_
  rw [core_modCore, if_pos rfl]
  rfl

/-- MZERO leaves zeros in its accumulator and changes no other byte (R279). -/
theorem mxZero_frame (s : State) (n : Nat) (c : MxCmd) (b : Nat) :
    ((s.mxZero n c).core n).frame.read b =
      if ((s.core n).ctx c.ctx).fo + accOff (tblGet 0 c.views 3) c.acc false ≤ b ∧
          b < ((s.core n).ctx c.ctx).fo + accOff (tblGet 0 c.views 3) c.acc false + 4096 then 0
      else (s.core n).frame.read b := by
  unfold State.mxZero
  rw [coreFld_modCtx Core.frame fun _ _ _ => rfl]
  have h := mxPut_frame s (c.who n) (accOff (tblGet 0 c.views 3) c.acc false) 4096 0
  generalize (4096 : Nat) = len at h ⊢
  rw [show ((s.mxPut (c.who n) _ len 0).core n).frame = _ from h, Mem.read_writeN, Nat.zero_div]
  rfl

end

/-- Settles O34. -/
theorem matrixCommandsRunToTheirEnd : Obligations.MatrixCommandsRunToTheirEnd := by
  intro s n
  refine ⟨fun c rest t ds bad z he hr hq hf hg => ⟨_, exec_matrixCommandStart he hr hq hf hg, rfl, rfl, rfl, rfl, rfl⟩,
    fun r hr hn hl hf => ⟨_, exec_ringStageRelease hr hf hn hl, ?_, ?_⟩,
    fun r hr hf hc => ⟨fun h c a b e f g hi => ?_, fun h c a b f g hi => ?_, fun h c a g hi => ?_, fun h c a t hi ha hs => ?_,
      fun h c hi => ?_⟩⟩
  · rw [coreFld_modCtx Core.mxRun fun _ _ _ => rfl, core_modCore, if_pos rfl]
  · have h := mxEffect_fsets s n r (r.cmd.who n)
    generalize s.mxEffect n r = u at h ⊢
    have hu := setFlag_fsets u r.cmd.past (.flagIn n r.cmd.ctx (fwRelf r.cmd.fmt)) n
      (fun k => { k with mxRun := some { r with released := true } }) (r.cmd.who n) (fwRelf r.cmd.fmt) false 4 fun _ => rfl
    rw [h] at hu
    exact hu
  · rw [exec_matrixCommandComplete hr hf hc]
    unfold State.mxEnds
    rw [hi]
  · rw [exec_matrixCommandComplete hr hf hc]
    unfold State.mxEnds
    rw [hi]
  · rw [exec_matrixCommandComplete hr hf hc]
    unfold State.mxEnds
    rw [hi]
  · rw [exec_matrixCommandComplete hr hf hc]
    unfold State.mxEnds
    rw [hi]
    dsimp only
    rw [if_neg (by simpa using ha), hs]
  · refine ⟨_, (exec_matrixCommandComplete hr hf hc).trans (by unfold State.mxEnds; rw [hi]), mxEnd_mxRun .., ?_⟩
    intro base b
    rw [mxEnd_frame, mxZero_frame]

end Sys2Proof.Machine
end

section
/-! SUPPORT. Packets: sending, acknowledging, and receiving (R304, R306, R418, R419). -/

namespace Sys2Proof.Machine

section
variable {s : State} {n : Nat}

/-! Sending. -/

/-- What a core that has one remote run and no unsent access offers first. -/
theorem offers_run {r : RmRun} {op : PacketOp} {rest : List PacketOp} (hu : s.unsentAccs n = []) (hr : (s.core n).rmRun = [r])
    (ht : r.todo = op :: rest) (he : (s.core n).engHalt = false) (ha : s.cmdAlive n r.cmd = true) (hd : r.dst ≠ s.devId)
    (hp : s.peerHeld n r.cls op = false) :
    ∃ l, s.offers n = ⟨r.dst, r.cls, op, r.cmd.task.tag, .rm 0⟩ :: l := by
  have ho : s.rmOffer n 0 r = some ⟨r.dst, r.cls, op, r.cmd.task.tag, .rm 0⟩ := by
    unfold State.rmOffer
    simp [he, ha, ht, hd, hp]
  refine ⟨(s.core n).coRun.zipIdx.filterMap fun (r, i) => s.coOffer n i r, ?_⟩
  unfold State.offers
  rw [hu, hr]
  simp only [List.filterMap_nil, List.nil_append, List.zipIdx_cons, List.zipIdx_nil, List.filterMap_cons, ho]
  rfl

theorem exec_packetSend {o : Offer} {l : List Offer} {t : State} (hf : s.fabric = true) (ho : s.offers n = o :: l)
    (hs : s.sendOffer n o = some t) : exec (.packetSend n) s = .next t := by
  show execPacketSend n s = _
  unfold execPacketSend
  rw [if_neg (by simp [hf]), ho, List.findSome?_cons, hs]

theorem sendOffer_goes {o : Offer} {i j p : Nat} (hr : o.by_ = .rm j) (hw : s.way o.dst o.cls (opFlits o.op) = .go i p) (hb : s.behind n o = false) :
    s.sendOffer n o = some ((s.offerGone n o (s.nextSeq o.dst o.cls)).sendPacket n o.tag o.dst o.cls i p o.op none) := by
  unfold State.sendOffer
  rw [hw]
  dsimp only
  rw [if_neg (by simp [hb]), hr]

/-- A packet to another device takes the next number of its triple and stays unacknowledged (R304, R418). -/
theorem sendPacket_away {tag dst cls route port : Nat} {op : PacketOp} {acc : Option Nat} (hd : dst ≠ s.devId) :
    (s.sendPacket n tag dst cls route port op acc).nextSeq dst cls = (s.nextSeq dst cls + 1) % 2 ^ 32 ∧
      (s.sendPacket n tag dst cls route port op acc).unacked =
        s.unacked ++ [⟨⟨s.devId, dst, cls, s.nextSeq dst cls, op, port, true⟩, n, route, acc⟩] ∧
      (s.sendPacket n tag dst cls route port op acc).cores = s.cores := by
  unfold State.sendPacket
  extract_lets q pk t1 t2
  rw [if_neg (show ¬dst = t2.devId from hd)]
  refine ⟨?_, rfl, rfl⟩
  unfold State.nextSeq
  exact (tblGet_tblPut ..).trans (if_pos rfl)

theorem modRm_one {r : RmRun} (hr : (s.core n).rmRun = [r]) (f : RmRun → RmRun) : ((s.modRm n 0 f).core n).rmRun = [f r] := by
  unfold State.modRm
  rw [core_modCore, if_pos rfl]
  dsimp only
  rw [hr]
  rfl

theorem offerGone_run {r : RmRun} (hr : (s.core n).rmRun = [r]) (d c : Nat) (op : PacketOp) (tag q : Nat) :
    ((s.offerGone n ⟨d, c, op, tag, .rm 0⟩ q).core n).rmRun =
      [{ r with todo := r.todo.drop 1, wait := r.wait ++ [q], got := r.got ++ [(q, [])] }] := by
  unfold State.offerGone
  exact modRm_one (s := { s with offered := s.offered.erase (Offer.entry ⟨d, c, op, tag, .rm 0⟩ n) }) hr _

/-! Acknowledgements. -/

/-- The state in which an acknowledged packet has left the retry buffer. -/
def State.acked (s : State) (x : Sent) : State :=
  ({ s with unacked := s.unacked.filter (· ≠ x) } : State).modPort x.pk.port fun p => { p with flits := p.flits - opFlits x.pk.op }

/-- A run that takes the answer of a packet, if it waits for it. -/
def RmRun.told (ak : Ack) (eng : Bool) (r : RmRun) : RmRun :=
  if r.dst = ak.dst && r.cls = ak.cls && r.wait.contains ak.seq then r.answer ak.seq ak.old ak.bytes ak.status eng else r

variable {ak : Ack} {x : Sent} (hx : (s.unacked.find? fun x => x.pk.dst = ak.dst && x.pk.cls = ak.cls && x.pk.seq = ak.seq) = some x)
include hx

theorem takeAck_access {i : Nat} (ha : x.acc = some i) : s.takeAck ak = (s.acked x).accAnswer i ak.bytes ak.status := by
  unfold State.takeAck
  rw [hx]
  dsimp only
  rw [ha]
  rfl

theorem takeAck_run (ha : x.acc = none) :
    s.takeAck ak = ((s.acked x).modCore x.core fun c => { c with
      rmRun := c.rmRun.map (RmRun.told ak (ak.status = fRace && (s.acked x).opEng x.core x.pk.op)) }).rmSweep x.core := by
  unfold State.takeAck
  rw [hx]
  dsimp only
  rw [ha]
  rfl

omit hx

theorem setCell_fld {α : Type} (g : State → α) (hg : ∀ s kn, g { s with known := kn } = g s) (s : State) (i core place mask : Nat)
    (rmw : Bool) : g (s.setCell i core place mask rmw) = g s :=
  (KnownOnly.setCell s i core place mask rmw).fld g hg

/-- A store that is answered without a fault is done (R220). -/
theorem accAnswer_store {i d : Nat} {a : Acc} {l : List Byte} (hi : tblFind s.accs i = some a) (hk : a.kind = .store d) :
    s.accAnswer i l 0 = (s.setCell i a.who.core (a.sa / 64) fullMask false).dropAcc i := by
  unfold State.accAnswer
  rw [hi]
  dsimp only
  rw [hk]
  exact if_neg (by simp)

theorem takeAck_late (h : ∀ x ∈ s.unacked, ¬(x.pk.dst = ak.dst ∧ x.pk.cls = ak.cls ∧ x.pk.seq = ak.seq)) : s.takeAck ak = s := by
  unfold State.takeAck
  rw [List.find?_eq_none.2 fun x hx => by simpa [and_assoc] using h x hx]

/-! Receiving. -/

variable {pk : Packet}

/-- The window that a packet falls into. -/
def State.windowOf (s : State) (pk : Packet) : Window := tblGet Window.reset s.windows (pk.src * 4 + pk.cls)

theorem exec_packetReceive {t : State} {l : List Ack} (hf : s.fabric = true) (hd : pk.dst = s.devId) (hs : pk.src ≠ s.devId)
    (hc : pk.cls ≠ 2) (hp : packetFits pk = true) (hr : s.receive none pk = (t, l)) :
    exec (.packetReceive pk) s = .next { t with acksOut := t.acksOut ++ l } := by
  show execPacketReceive pk s = _
  unfold execPacketReceive State.arrive
  rw [if_neg hc, if_neg (by simp [hf, hd, hs, hp]), hr]

variable (hk : pk.ok = true)
include hk

/-- The next packet of an empty window is performed and acknowledged (R306). -/
theorem receive_next {t : State} {old : Word} {bytes : List Byte} {st : Nat} (hq : pk.seq = (s.windowOf pk).b)
    (hh : (s.windowOf pk).held = [])
    (hp : ({ s with windows := tblPut s.windows (pk.src * 4 + pk.cls) { s.windowOf pk with held := [pk] } } : State).performOp none
      pk.op = (t, old, bytes, st)) :
    s.receive none pk = ({ t with
      windows := tblPut t.windows (pk.src * 4 + pk.cls)
        { b := ((s.windowOf pk).b + 1) % 2 ^ 32, held := [], old := ((s.windowOf pk).keep old st).old } },
      [⟨pk.src, pk.cls, pk.seq, old, bytes, st⟩]) := by
  unfold State.receive
  rw [if_neg (by simp [hk])]
  dsimp only
  rw [show tblGet Window.reset s.windows (pk.src * 4 + pk.cls) = s.windowOf pk from rfl, hq, Nat.add_sub_cancel_left, Nat.mod_self,
    if_neg (by decide), if_neg (by simp [hh]), hh]
  unfold drainWindow
  dsimp only
  rw [tblGet_tblPut, if_pos rfl]
  dsimp only [List.nil_append]
  rw [List.find?_cons, hq]
  simp only [decide_true]
  rw [hp]
  dsimp only [drainWindow]
  simp [Window.keep, hq]
  rfl

variable (hb : 2 ^ 32 - 4096 ≤ (pk.seq + 2 ^ 32 - (s.windowOf pk).b) % 2 ^ 32)
include hb

theorem receive_again (ho : ∀ a len, pk.op ≠ .read a len) :
    s.receive none pk = (s, [⟨pk.src, pk.cls, pk.seq, (tblGet (0, 0) (s.windowOf pk).old pk.seq).1, [],
      (tblGet (0, 0) (s.windowOf pk).old pk.seq).2⟩]) := by
  unfold State.receive
  rw [if_neg (by simp [hk])]
  dsimp only
  rw [show tblGet Window.reset s.windows (pk.src * 4 + pk.cls) = s.windowOf pk from rfl, if_pos (Nat.le_trans (by decide) hb), if_pos hb]
  split
  · next h => exact absurd h (ho _ _)
  · rfl

theorem receive_reread {a len st : Nat} {t : State} {old : Word} {bytes : List Byte} (ho : pk.op = .read a len)
    (hp : s.performOp none pk.op = (t, old, bytes, st)) : s.receive none pk = (t, [⟨pk.src, pk.cls, pk.seq, 0, bytes, st⟩]) := by
  unfold State.receive
  rw [if_neg (by simp [hk])]
  dsimp only
  rw [show tblGet Window.reset s.windows (pk.src * 4 + pk.cls) = s.windowOf pk from rfl, if_pos (Nat.le_trans (by decide) hb), if_pos hb, hp, ho]

end

/-- Settles O36. -/
theorem packetsAreSentAndPerformedOnce : Obligations.PacketsAreSentAndPerformedOnce := by
  refine ⟨fun s n ak => ⟨?_, ?_, ?_, ?_⟩, ?_⟩
  · intro r op rest i p hf hu hr ht he ha hw hd hp hb q
    obtain ⟨l, ho⟩ := offers_run hu hr ht he ha hd hp
    obtain ⟨h1, h2, h3⟩ := sendPacket_away (s := s.offerGone n ⟨r.dst, r.cls, op, r.cmd.task.tag, .rm 0⟩ q) (n := n)
      (tag := r.cmd.task.tag) (cls := r.cls) (route := i) (port := p) (op := op) (acc := none) hd
    refine ⟨_, exec_packetSend hf ho (sendOffer_goes rfl hw hb), h1, h2, ?_⟩
    refine (congrArg (fun c : Tbl Core => (tblGet Core.reset c n).rmRun) h3).trans ?_
    refine (offerGone_run hr ..).trans ?_
    rw [ht]
    rfl
  · intro x i a d hx ha hi hk hz
    have he : s.takeAck ak = ((s.acked x).setCell i a.who.core (a.sa / 64) fullMask false).dropAcc i := by
      rw [takeAck_access hx ha, hz, accAnswer_store (s := s.acked x) hi hk]
    have hu := setCell_fld State.unacked (fun _ _ => rfl) (s.acked x) i a.who.core (a.sa / 64) fullMask false
    generalize (s.acked x).setCell i a.who.core (a.sa / 64) fullMask false = u at he hu
    exact ⟨_, congrArg Host.Outcome.next he, hu, dropAcc_find u i⟩
  · intro x hx ha t t' eng f
    exact congrArg Host.Outcome.next (takeAck_run hx ha)
  · exact fun h => congrArg Host.Outcome.next (takeAck_late h)
  · intro s pk key w hf hd hs hk hc hp
    refine ⟨fun t old bytes st hq hh ho => exec_packetReceive hf hd hs hc hp (receive_next hk hq hh ho),
      fun hb => ⟨fun ho => exec_packetReceive hf hd hs hc hp (receive_again hk hb ho),
        fun a len t old bytes st ho hr => exec_packetReceive hf hd hs hc hp (receive_reread hk hb ho hr)⟩⟩

end Sys2Proof.Machine
end

section
/-! SUPPORT. Remote commands: their start, and their completion with an element (R288, R310, R311, R420). -/

namespace Sys2Proof.Machine

/-! A push of an element. -/

section
variable {s : State} {n : Nat} {e : EnCmd}

/-- The tokens, counters and trace of a remote command. -/
def State.rmReports (s : State) (n : Nat) (e : EnCmd) (stat : Nat) : State := ((s.cmdPush n e).perf n 21 e.ctx none 1).traceCmd n 6 e stat 0

theorem rmReports_core {α : Type} {g : Core → α} (b : CpBlind g) (s : State) (n : Nat) (e : EnCmd) (stat m : Nat) :
    g ((s.rmReports n e stat).core m) = g (s.core m) :=
  (traceCmd_core ..).trans ((perf_coreFld g b.perf _ _ _ _ _ _ _).trans (cmdPush_core b ..))

theorem modOwner_in (hc : s.inCtx n e = true) (f : Ctx → Ctx) : s.modOwner n e f = s.modCtx ⟨n, e.ctx, .c⟩ f := if_pos hc

theorem inCtx_own {t : State} (h : ((t.core n).ctx e.ctx).own = ((s.core n).ctx e.ctx).own) : t.inCtx n e = s.inCtx n e := by
  unfold State.inCtx
  rw [show ((t.core n).ctx e.ctx).task = _ from congrArg Prod.fst h]
  rfl

theorem setCir_own (x : Ctx) (b : Nat) : (x.setCir b).own = x.own := by
  unfold Ctx.setCir
  split <;> rfl

/-- The element of a command whose context is there. -/
theorem rmPush_in (hc : s.inCtx n e = true) (v : Word) (stat : Nat) (addr : Word) (pois eng : Bool) :
    let t := s.rmPush n e v stat addr pois eng
    (t.core n).rmRun = (s.core n).rmRun ∧ (t.core n).rmq = (s.core n).rmq ∧
      ((t.core n).ctx e.ctx).remF = ((s.core n).ctx e.ctx).remF ++ [⟨v, stat, addr, eng, e.past⟩] := by
  let elem : FElem := ⟨v, stat, addr, eng, e.past⟩
  let s1 := s.modCtx ⟨n, e.ctx, .c⟩ fun x => { x with remF := x.remF ++ [elem] }
  have h1 : s.pushRes n e false elem = s1 := modOwner_in hc _
  have hin : s1.inCtx n e = true := by
    unfold State.inCtx
    rw [show ((s1.core n).ctx e.ctx).task = ((s.core n).ctx e.ctx).task from
      ctxFld_modCtx Ctx.task s ⟨n, e.ctx, .c⟩ ⟨n, e.ctx, .c⟩ _ fun _ => rfl]
    exact hc
  -- marking poison changes nothing that a CpBlind reading sees
  let s2 := if pois then s1.modOwner n e fun x => x.setCir 1 else s1
  have h2 : ∀ {α : Type} {g : Core → α}, CpBlind g → g (s2.core n) = g (s1.core n) := fun {α g} b =>
    iteInduction (motive := fun t : State => g (t.core n) = g (s1.core n))
      (fun _ => (congrArg (fun t : State => g (t.core n)) (modOwner_in hin _)).trans
        (coreFld_modCore g s1 n n _ fun c => b.ctx c e.ctx _ fun x => setCir_own x 1)) fun _ => rfl
  have ht : s.rmPush n e v stat addr pois eng = s2.rmReports n e stat := by
    unfold State.rmPush
    rw [show s.pushRes n e false _ = s1 from h1]
    rfl
  have hq : CpBlind Core.rmq := ⟨fun _ _ => rfl, fun _ _ _ => rfl, fun _ _ _ _ => rfl⟩
  have hr : CpBlind Core.rmRun := ⟨fun _ _ => rfl, fun _ _ _ => rfl, fun _ _ _ _ => rfl⟩
  intro t
  rw [show t = s2.rmReports n e stat from ht]
  refine ⟨((rmReports_core hr ..).trans (h2 hr)).trans (coreFld_modCtx Core.rmRun (fun _ _ _ => rfl) ..),
    ((rmReports_core hq ..).trans (h2 hq)).trans (coreFld_modCtx Core.rmq (fun _ _ _ => rfl) ..), ?_⟩
  have ho := (rmReports_core (cpBlind_own e.ctx) s2 n e stat n).trans (h2 (cpBlind_own e.ctx))
  rw [show ((s2.rmReports n e stat).core n |>.ctx e.ctx).remF = ((s1.core n).ctx e.ctx).remF from congrArg (·.2.1) ho]
  exact congrArg Ctx.remF (ctxOf_modCtx_same s ⟨n, e.ctx, .c⟩ ⟨n, e.ctx, .c⟩ _ ⟨rfl, rfl⟩)

end

/-! What is left of commands that have completed gives no more elements (R420). -/

/-- A core whose remote queue is empty, whose runs have all completed, and one of whose contexts has these elements. -/
structure RmEnded (n x : Nat) (l : List FElem) (t : State) : Prop where
  queue : (t.core n).rmq = []
  runs : ∀ r ∈ (t.core n).rmRun, r.ended = true
  elems : ((t.core n).ctx x).remF = l

namespace RmEnded
variable {n x : Nat} {l : List FElem} {s t : State}

theorem of_same (h : RmEnded n x l s) (hr : (t.core n).rmRun = (s.core n).rmRun) (hq : (t.core n).rmq = (s.core n).rmq)
    (hf : ((t.core n).ctx x).remF = ((s.core n).ctx x).remF) : RmEnded n x l t :=
  ⟨hq.trans h.queue, hr ▸ h.runs, hf.trans h.elems⟩

/-- Writes of a command's bytes. -/
theorem putPieces {u : State} {q : Task} {c a : Nat} {g : Bool} {ps : List (Nat × List Byte)} (h : RmEnded n x l s)
    (hp : State.putPieces n q ps s = some (u, c, a, g)) : RmEnded n x l u :=
  h.of_same
    (show (u.core n).rmRun = _ from by
      have := (performs_eng Core.rmRun (fun _ _ e => congrArg (·.2.2.2.2.1) e) n (s.core n).rmRun).putPieces n q ps rfl
      rw [hp] at this; exact this)
    (by
      have := (performs_eng Core.rmq (fun _ _ e => congrArg (·.2.2.2.1) e) n (s.core n).rmq).putPieces n q ps rfl
      rw [hp] at this; exact this)
    (by
      have := (performs_own Ctx.remF (fun _ _ e => congrArg (·.2.1) e) ⟨n, x, .c⟩ ((s.core n).ctx x).remF).putPieces n q ps rfl
      rw [hp] at this; exact this)

/-- Runs that are taken out, or left with fewer bytes to come. -/
theorem setRuns (h : RmEnded n x l s) (rs : List RmRun) (i : Nat) (hr : ∀ r ∈ rs, r.ended = true) :
    RmEnded n x l (s.modCore n fun c => { c with rmRun := c.rmRun.take i ++ rs ++ c.rmRun.drop (i + 1) }) := by
  refine ⟨?_, ?_, ?_⟩
  · exact (coreFld_modCore Core.rmq s n n _ fun _ => by rfl).trans h.queue
  · rw [core_modCore, if_pos rfl]
    intro r hm
    obtain (hm | hm) | hm := (List.mem_append.1 hm).imp_left List.mem_append.1
    · exact h.runs r (List.mem_of_mem_take hm)
    · exact hr r hm
    · exact h.runs r (List.mem_of_mem_drop hm)
  · exact (congrArg Ctx.remF (ctxOf_modCore s n _ ⟨n, x, .c⟩ fun _ => by rfl)).trans h.elems

theorem modOwner_cir (h : RmEnded n x l s) (e : EnCmd) (b : Nat) : RmEnded n x l (s.modOwner n e fun y => y.setCir b) := by
  unfold State.modOwner
  split
  · exact h.of_same (coreFld_modCtx Core.rmRun (fun _ _ _ => rfl) ..) (coreFld_modCtx Core.rmq (fun _ _ _ => rfl) ..)
      (ctxFld_modCtx Ctx.remF s ⟨n, x, .c⟩ _ _ fun y => setCir_fld Ctx.remF (fun _ _ _ => rfl) y b)
  · exact h.of_same (coreFld_modCore Core.rmRun s n n _ fun _ => rfl) (coreFld_modCore Core.rmq s n n _ fun _ => rfl)
      (congrArg Ctx.remF (ctxOf_modCore s n _ ⟨n, x, .c⟩ fun _ => rfl))

theorem rmRest {i : Nat} {r : RmRun} {u : State} (h : RmEnded n x l s) (hr : r.ended = true) (hu : s.rmRest n i r = some u) :
    RmEnded n x l u := by
  unfold State.rmRest at hu
  dsimp only at hu
  split at hu
  · cases hu
    exact h.setRuns [] i (by simp)
  · split at hu
    · split at hu
      · cases hu
        exact h.setRuns [] i (by simp)
      · cases hu
    · split at hu
      · cases hu
      · rw [Option.map_eq_some_iff] at hu
        obtain ⟨⟨v, c, a, g⟩, hp, rfl⟩ := hu
        have hv := h.putPieces hp
        exact (iteInduction (motive := RmEnded n x l) (fun _ => hv.modOwner_cir r.cmd 1) fun _ => hv).setRuns _ i (by simpa using hr)

theorem rmComplete {i : Nat} {u : State} (h : RmEnded n x l s) (hu : s.rmComplete n i = some u) : RmEnded n x l u := by
  unfold State.rmComplete at hu
  dsimp only at hu
  split at hu
  · cases hu
  · next r hr =>
    have he := h.runs r (List.mem_of_getElem? hr)
    rw [if_pos he] at hu
    exact h.rmRest he hu

theorem rmFinish : ∀ (m : Nat) {s : State}, RmEnded n x l s → RmEnded n x l (State.rmFinish n m s)
  | 0, _, h => h
  | m + 1, s, h => by
    unfold State.rmFinish
    split
    · exact h
    · next hu =>
      obtain ⟨i, _, hi⟩ := List.exists_of_findSome?_eq_some hu
      exact rmFinish m (h.rmComplete hi)

end RmEnded

theorem rmFinish_none {s : State} {n : Nat} (h : (s.core n).rmRun = []) : ∀ m, State.rmFinish n m s = s
  | 0 => rfl
  | m + 1 => by
    unfold State.rmFinish
    rw [h]
    rfl

/-! The completion of a core's only run. -/

section
variable {s : State} {n : Nat} {r : RmRun}

theorem rmHead_empty (h : (s.core n).rmq = []) : s.rmHead n = s := by
  unfold State.rmHead
  rw [h]

/-- What its completion comes to: its element, and what is left of it. -/
theorem rmSweep_one {u : State} {l : List FElem} (hr : (s.core n).rmRun = [r]) (hc : s.rmComplete n 0 = some u)
    (hu : RmEnded n r.cmd.ctx l u) (hw : r.wait = [] → (u.core n).rmRun = []) :
    ∃ t, exec (.remoteCommandStart n) s = .next t ∧ (∀ x ∈ (t.core n).rmRun, x.ended = true) ∧
      (r.wait = [] → (t.core n).rmRun = []) ∧ ((t.core n).ctx r.cmd.ctx).remF = l := by
  have hs : s.rmSweep n = State.rmFinish n r.rest.length u := by
    unfold State.rmSweep
    rw [hr]
    simp only [List.foldl_cons, List.foldl_nil, Nat.zero_add]
    rw [Nat.add_comm 1]
    show (match (List.range (s.core n).rmRun.length).findSome? fun i => s.rmComplete n i with
      | none => s | some s => State.rmFinish n r.rest.length s) = _
    rw [hr]
    simp [hc]
  have ht := hu.rmFinish r.rest.length
  refine ⟨_, congrArg Host.Outcome.next ((rmHead_empty (hs ▸ ht.queue)).trans hs), ht.runs, fun e => ?_, ht.elems⟩
  rw [rmFinish_none (hw e)]
  exact hw e

variable (hq : (s.core n).rmq = []) (hr : (s.core n).rmRun = [r]) (he : r.ended = false) (ht : r.todo = [])
  (hi : s.inCtx n r.cmd = true) (ha : s.cmdAlive n r.cmd = true) (hc : s.cmdRoom n r.cmd = true) (hf : s.resRoom n r.cmd false = true)

theorem lastDone_of (ht : r.todo = []) (hl : ∀ q l, r.got.getLast? = some (q, l) → q ∉ r.wait) : r.lastDone = true := by
  unfold RmRun.lastDone
  rw [ht]
  split
  · next h => simpa using hl _ _ h
  · rfl

/-- What the completion of a run at a place comes to, by its word (R308 to R311). -/
def State.rmEndsAt (s : State) (n i : Nat) (r : RmRun) : Option State :=
  let drop (s : State) : State := s.modCore n fun c => { c with rmRun := c.rmRun.eraseIdx i }
  match r.cmd.i with
  | .rget .. =>
    if r.stat ≠ 0 then some ((drop s).rmPush n r.cmd 0 r.stat r.addr r.pois r.eng)
    else
      match State.putPieces n r.cmd.task r.pieces s with
      | none => none
      | some (s, c, a, g) =>
        some ((s.modCore n fun x => { x with
          rmRun := x.rmRun.take i ++ (if c = 0 then r.end_ else []) ++ x.rmRun.drop (i + 1) }).rmPush n r.cmd 0 c
            (BitVec.ofNat 64 a) r.pois g)
  | .rfence .. => some ((drop (s.closeRows n)).rmPush n r.cmd 0 0 0 false false)
  | _ => some ((drop s).rmPush n r.cmd r.val r.stat r.addr r.pois r.eng)

include hr he ha hc hf

/-- The completion of the only run, once its last packet has been acknowledged. -/
theorem rmComplete_over (ho : s.rmOver r = true) : s.rmComplete n 0 = s.rmEndsAt n 0 r := by
  have h0 : (s.core n).rmRun[0]? = some r := by
    rw [hr]
    rfl
  have hfst : (s.core n).rmFirst 0 r = true := by simp [Core.rmFirst]
  unfold State.rmComplete
  dsimp only
  rw [h0]
  dsimp only
  rw [if_neg (by simp [he]), if_neg (by simp [ho, ha, hc, hf, hfst])]
  rfl

include hq hi
omit hr he ha hc hf

/-- The only run is over: its element is there, and what is left of it is marked as completed. -/
theorem over_ended {u : State} {f : Core → Core} {l : List RmRun} (v : Word) (st : Nat) (ad : Word) (p g : Bool)
    (hv : (u.core n).rmq = (s.core n).rmq) (ho : ∀ x, ((u.core n).ctx x).own = ((s.core n).ctx x).own)
    (hfc : ∀ c, (f c).ctxs = c.ctxs) (hfq : ∀ c, (f c).rmq = c.rmq) (hfr : (f (u.core n)).rmRun = l) (hl : ∀ x ∈ l, x.ended = true) :
    let t := (u.modCore n f).rmPush n r.cmd v st ad p g
    RmEnded n r.cmd.ctx (((s.core n).ctx r.cmd.ctx).remF ++ [⟨v, st, ad, g, r.cmd.past⟩]) t ∧ (t.core n).rmRun = l := by
  have hw : ∀ x, (((u.modCore n f).core n).ctx x) = (u.core n).ctx x := fun x => ctxOf_modCore u n f ⟨n, x, .c⟩ hfc
  have hin : (u.modCore n f).inCtx n r.cmd = true := (inCtx_own (by rw [hw, ho])).trans hi
  have hrun : ((u.modCore n f).core n).rmRun = l := by rw [core_modCore, if_pos rfl, hfr]
  have hrq : ((u.modCore n f).core n).rmq = [] := (coreFld_modCore Core.rmq u n n f hfq).trans (hv.trans hq)
  obtain ⟨h1, h2, h3⟩ := rmPush_in hin v st ad p g
  have hF : (((u.modCore n f).core n).ctx r.cmd.ctx).remF = ((s.core n).ctx r.cmd.ctx).remF := by
    rw [hw]
    exact congrArg (·.2.1) (ho r.cmd.ctx)
  exact ⟨⟨h2.trans hrq, fun x hx => hl x (h1.trans hrun ▸ hx), by rw [h3, hF]⟩, h1.trans hrun⟩

end

theorem exec_remoteCommandStart {s s1 t : State} {n : Nat} {e : EnCmd} {rest : List EnCmd} {r : RmRun} (hs : s.rmSweep n = s1)
    (hq : (s1.core n).rmq = e :: rest) (he : (s1.core n).engHalt = false) (ha : s1.cmdAlive n e = true) (hh : s1.rmHeld n e = false)
    (hf : s1.rmFenced n e = false) (hr : s1.startRm n e = .run t r) :
    exec (.remoteCommandStart n) s = .next ((t.modCore n fun c => { c with rmq := rest, rmRun := c.rmRun ++ [r] }).rmSweep n) := by
  show Host.Outcome.next ((s.rmSweep n).rmHead n) = _
  rw [hs]
  unfold State.rmHead
  rw [hq]
  dsimp only
  rw [if_neg (by simp [he, ha, hh, hf]), hr]

theorem closeRows_queues (s : State) (n : Nat) :
    ((s.closeRows n).core n).rmq = (s.core n).rmq ∧ ((s.closeRows n).core n).rmRun = (s.core n).rmRun ∧
      ∀ x, ((s.closeRows n).core n).ctx x = (s.core n).ctx x :=
  ⟨closeRows_fld (fun s => (s.core n).rmq) (fun _ _ => rfl) (fun s m => coreFld_modCore Core.rmq s m n _ fun _ => by rfl) s n,
    closeRows_fld (fun s => (s.core n).rmRun) (fun _ _ => rfl) (fun s m => coreFld_modCore Core.rmRun s m n _ fun _ => by rfl) s n,
    fun x => closeRows_fld (fun s => (s.core n).ctx x) (fun _ _ => rfl)
      (fun s m => coreFld_modCore (fun c => c.ctx x) s m n _ fun _ => by rfl) s n⟩

theorem end_ended (r : RmRun) : ∀ x ∈ r.end_, x.ended = true := by
  intro x hx
  unfold RmRun.end_ at hx
  split at hx
  · cases hx
  · rw [List.mem_singleton.1 hx]

theorem end_none {r : RmRun} (h : r.wait = []) : r.end_ = [] := by
  unfold RmRun.end_
  rw [h]
  rfl

/-- Settles O35. -/
theorem remoteCommandsStartAndComplete : Obligations.RemoteCommandsStartAndComplete := by
  intro s n
  refine ⟨fun s1 e rest hs hq he ha hh hf t r hr => exec_remoteCommandStart hs hq he ha hh hf hr,
    fun r hq hr ht he hi ha hc hf => ?_⟩
  intro ends last
  -- a run whose completion leaves an element and completed runs only
  have hends : ∀ {u : State} {f : Core → Core} {l : List RmRun} (v : Word) (st : Nat) (ad : Word) (p g : Bool),
      s.rmComplete n 0 = some ((u.modCore n f).rmPush n r.cmd v st ad p g) → (u.core n).rmq = (s.core n).rmq →
      (∀ x, ((u.core n).ctx x).own = ((s.core n).ctx x).own) → (∀ c, (f c).ctxs = c.ctxs) → (∀ c, (f c).rmq = c.rmq) →
      (f (u.core n)).rmRun = l → (∀ x ∈ l, x.ended = true) → (r.wait = [] → l = []) → ends v st ad g :=
    fun v st ad p g hu hv ho h1 h2 h3 hl hw => by
      obtain ⟨h4, h5⟩ := over_ended hq hi v st ad p g hv ho h1 h2 h3 hl
      exact rmSweep_one hr hu h4 fun e => h5.trans (hw e)
  have hdone : last → r.lastDone = true := lastDone_of ht
  have hdrop : ((s.core n).rmRun.eraseIdx 0) = [] := by rw [hr]; rfl
  refine ⟨fun hg hn hl => ?_, fun h hn hg hp => ?_, fun h d a b hg hl hs => ?_, fun h d a b u st ad eng hg hl hs hp => ?_⟩
  · have ho : s.rmOver r = true := by
      unfold State.rmOver
      rw [he, hdone hl]
      split
      · next h => exact absurd h (hn _)
      · rfl
    refine hends (u := s) (f := fun c => { c with rmRun := c.rmRun.eraseIdx 0 }) r.val r.stat r.addr r.pois r.eng
      ((rmComplete_over hr he ha hc hf ho).trans ?_) rfl (fun _ => rfl) (fun _ => rfl) (fun _ => rfl) hdrop (by simp) fun _ => rfl
    unfold State.rmEndsAt
    split
    · next h => exact absurd h (hg _ _ _ _)
    · next h => exact absurd h (hn _)
    · rfl
  · have ho : s.rmOver r = true := by
      unfold State.rmOver
      rw [he, hdone (fun q l h => by rw [hg] at h; cases h), hn]
      exact hp
    obtain ⟨c1, c2, c3⟩ := closeRows_queues s n
    refine hends (u := s.closeRows n) (f := fun c => { c with rmRun := c.rmRun.eraseIdx 0 }) 0 0 0 false false
      ((rmComplete_over hr he ha hc hf ho).trans ?_) c1 (fun x => congrArg Ctx.own (c3 x)) (fun _ => rfl) (fun _ => rfl)
      ((congrArg (List.eraseIdx · 0) c2).trans hdrop) (by simp) fun _ => rfl
    unfold State.rmEndsAt
    rw [hn]
  · have ho : s.rmOver r = true := by
      unfold State.rmOver
      rw [he, hdone hl, hg]
      rfl
    refine hends (u := s) (f := fun c => { c with rmRun := c.rmRun.eraseIdx 0 }) 0 r.stat r.addr r.pois r.eng
      ((rmComplete_over hr he ha hc hf ho).trans ?_) rfl (fun _ => rfl) (fun _ => rfl) (fun _ => rfl) hdrop (by simp) fun _ => rfl
    unfold State.rmEndsAt
    rw [hg]
    exact if_pos hs
  · have ho : s.rmOver r = true := by
      unfold State.rmOver
      rw [he, hdone hl, hg]
      rfl
    have hrun : (u.core n).rmRun = [r] := by
      have := (performs_eng Core.rmRun (fun _ _ e => congrArg (·.2.2.2.2.1) e) n [r]).putPieces n r.cmd.task r.pieces hr
      rw [hp] at this; exact this
    have hrq : (u.core n).rmq = (s.core n).rmq := by
      have := (performs_eng Core.rmq (fun _ _ e => congrArg (·.2.2.2.1) e) n (s.core n).rmq).putPieces n r.cmd.task r.pieces rfl
      rw [hp] at this; exact this
    have hown : ∀ x, ((u.core n).ctx x).own = ((s.core n).ctx x).own := fun x => by
      have := (performs_own Ctx.own (fun _ _ e => e) ⟨n, x, .c⟩ ((s.core n).ctx x).own).putPieces n r.cmd.task r.pieces rfl
      rw [hp] at this; exact this
    refine hends (u := u) (f := fun x => { x with rmRun := x.rmRun.take 0 ++ (if st = 0 then r.end_ else []) ++ x.rmRun.drop (0 + 1) })
      (l := if st = 0 then r.end_ else []) 0 st (BitVec.ofNat 64 ad) r.pois eng
      ((rmComplete_over hr he ha hc hf ho).trans ?_) hrq hown (fun _ => rfl) (fun _ => rfl) (by simp [hrun]) ?_ ?_
    · unfold State.rmEndsAt
      rw [hg]
      dsimp only
      rw [if_neg (not_not_intro hs), hp]
    · exact iteInduction (motive := fun l : List RmRun => ∀ x ∈ l, x.ended = true) (fun _ => end_ended r) fun _ => by simp
    · intro hw
      rw [end_none hw]
      exact ite_self _

end Sys2Proof.Machine
end

section
/-! SUPPORT. Collective commands: contributions, hand-over and completion (R288, R312, R313). -/

namespace Sys2Proof.Machine

section
variable {s : State} {n : Nat}

/-! Contributions of other devices. -/

theorem joinColl_windows (s : State) (w : Tbl Window) (c : Contribution) :
    ({ s with windows := w } : State).joinColl c = ({ (s.joinColl c).1 with windows := w }, (s.joinColl c).2) := by
  unfold State.joinColl
  dsimp only
  cases s.colls.find? fun x => x.group = c.group && x.tag = c.tag && !x.got.any fun y => y.dev = c.dev <;> rfl

theorem joinColl_joins (s : State) (c : Contribution) :
    ∃ x ∈ (s.joinColl c).1.colls, x.group = c.group ∧ x.tag = c.tag ∧ c ∈ x.got := by
  unfold State.joinColl
  split
  · next x hx =>
    have hp := List.find?_some hx
    simp only [Bool.and_eq_true, decide_eq_true_eq] at hp
    refine ⟨{ x with got := x.got ++ [c] }, List.mem_map.2 ⟨x, List.mem_of_find?_eq_some hx, if_pos rfl⟩, hp.1.1, hp.1.2, ?_⟩
    exact List.mem_append_right _ (List.mem_singleton_self c)
  · exact ⟨_, List.mem_append_right _ (List.mem_singleton_self _), rfl, rfl, List.mem_singleton_self c⟩

/-- The next contribution of another device is performed and acknowledged (R306, R313). -/
theorem exec_collectiveContribution {pk : Packet} {c : Contribution} (hf : s.fabric = true) (hc : pk.cls = 2) (ho : pk.op = .coll c)
    (hd : pk.dst = s.devId) (hs : pk.src ≠ s.devId) (hk : pk.ok = true) (hq : pk.seq = (s.windowOf pk).b)
    (hh : (s.windowOf pk).held = []) :
    exec (.collectiveContribution pk) s = .next { (s.joinColl c).1.dropColls with
      windows := tblPut (tblPut s.windows (pk.src * 4 + pk.cls) { s.windowOf pk with held := [pk] }) (pk.src * 4 + pk.cls)
        { b := ((s.windowOf pk).b + 1) % 2 ^ 32, held := [], old := ((s.windowOf pk).keep 0 0).old }
      acksOut := (s.joinColl c).1.dropColls.acksOut ++ [⟨pk.src, pk.cls, pk.seq, 0, [], 0⟩] } := by
  have hr := receive_next hk hq hh (s := s) (t := { (s.joinColl c).1.dropColls with
    windows := tblPut s.windows (pk.src * 4 + pk.cls) { s.windowOf pk with held := [pk] } }) (old := 0) (bytes := []) (st := 0) (by
      unfold State.performOp
      rw [ho]
      dsimp only
      rw [joinColl_windows]
      rfl)
  show execCollectiveContribution pk s = _
  unfold execCollectiveContribution State.arrive
  rw [if_pos hc, if_neg (by simp [hf, hd, hs, packetFits, ho, hc]), hr]

theorem joinColl_acksOut (s : State) (c : Contribution) : (s.joinColl c).1.acksOut = s.acksOut := by
  unfold State.joinColl
  split <;> rfl

/-! Hand-over of the head (R288). -/

variable {e : EnCmd} {rest : List EnCmd}

theorem colHand_ok {t : State} {e' : EnCmd} {own : Contribution} (hq : (s.core n).coq = e :: rest) (he : (s.core n).engHalt = false)
    (ha : s.cmdAlive n e = true) (hh : s.colHeld n e = false) (hc : s.contribute n e = .ok t e' own) :
    s.colHand n = (t.joinColl own).1.modCore n fun c => { c with
      coq := rest
      coRun := c.coRun ++ [⟨e', (t.joinColl own).2,
        ((t.joinColl own).1.members own.group).filter (· ≠ (t.joinColl own).1.devId), none⟩] } := by
  unfold State.colHand
  dsimp only
  rw [hq]
  dsimp only
  rw [if_neg (by simp [he, ha, hh]), hc]

theorem colHand_fail {t : State} {st ad : Nat} (hq : (s.core n).coq = e :: rest) (he : (s.core n).engHalt = false)
    (ha : s.cmdAlive n e = true) (hh : s.colHeld n e = false) (hc : s.contribute n e = .fail t st ad) :
    s.colHand n = t.modCore n fun c => { c with
      coq := rest, coRun := c.coRun ++ [⟨e, 0, [], some (0, st, BitVec.ofNat 64 ad)⟩] } := by
  unfold State.colHand
  dsimp only
  rw [hq]
  dsimp only
  rw [if_neg (by simp [he, ha, hh]), hc]

theorem colHand_empty (hq : (s.core n).coq = []) : s.colHand n = s := by
  unfold State.colHand
  dsimp only
  rw [hq]

/-! Completion of a core's only collective run (R313). -/

theorem dropColls_cores (s : State) : s.dropColls.cores = s.cores := rfl

theorem colDrop_cores (s : State) (n : Nat) (r : CoRun) :
    (s.colDrop n r).cores = (s.modCore n fun c => { c with coRun := c.coRun.erase r }).cores := by
  unfold State.colDrop
  dsimp only
  split
  · rfl
  · exact dropColls_cores _

/-- The element of a command whose context is there. -/
theorem colPush_in (hc : s.inCtx n e = true) (v : Word) (st : Nat) (ad : Word) :
    ((s.colPush n e v st ad).core n).coRun = (s.core n).coRun ∧
      (((s.colPush n e v st ad).core n).ctx e.ctx).colF = ((s.core n).ctx e.ctx).colF ++ [⟨v, st, ad, false, e.past⟩] := by
  let elem : FElem := ⟨v, st, ad, false, e.past⟩
  let s1 := s.modCtx ⟨n, e.ctx, .c⟩ fun x => { x with colF := x.colF ++ [elem] }
  have h1 : s.pushRes n e true elem = s1 := modOwner_in hc _
  have ht : s.colPush n e v st ad = s1.cmdPush n e := by
    unfold State.colPush
    exact congrArg (State.cmdPush · n e) h1
  have hr : CpBlind Core.coRun := ⟨fun _ _ => rfl, fun _ _ _ => rfl, fun _ _ _ _ => rfl⟩
  rw [ht]
  refine ⟨(cmdPush_core hr ..).trans (coreFld_modCtx Core.coRun (fun _ _ _ => rfl) ..), ?_⟩
  rw [show (((s1.cmdPush n e).core n).ctx e.ctx).colF = ((s1.core n).ctx e.ctx).colF from
    congrArg (·.2.2.1) (cmdPush_core (cpBlind_own e.ctx) ..)]
  exact congrArg Ctx.colF (ctxOf_modCtx_same s ⟨n, e.ctx, .c⟩ ⟨n, e.ctx, .c⟩ _ ⟨rfl, rfl⟩)

variable {r : CoRun} (hq : (s.core n).coq = []) (hr : (s.core n).coRun = [r]) (hi : s.inCtx n r.cmd = true)
include hq hr hi

/-- A run that completes leaves the engine and gives its element. -/
theorem col_ends {v ad : Word} {st : Nat} (hf : s.colFinish n = (s.colDrop n r).colPush n r.cmd v st ad) :
    ∃ t, exec (.collectiveComplete n) s = .next t ∧ (t.core n).coRun = [] ∧
      ((t.core n).ctx r.cmd.ctx).colF = ((s.core n).ctx r.cmd.ctx).colF ++ [⟨v, st, ad, false, r.cmd.past⟩] := by
  let f : Core → Core := fun c => { c with coRun := c.coRun.erase r }
  have hcore : (s.colDrop n r).core n = (s.modCore n f).core n := congrArg (tblGet Core.reset · n) (colDrop_cores s n r)
  have hctx : ∀ x, ((s.colDrop n r).core n).ctx x = (s.core n).ctx x := fun x => by
    rw [hcore]
    exact ctxOf_modCore s n f ⟨n, x, .c⟩ fun _ => rfl
  obtain ⟨h1, h2⟩ := colPush_in ((inCtx_own (by rw [hctx])).trans hi) v st ad
  refine ⟨_, congrArg Host.Outcome.next ((congrArg (State.colFinish · n) (colHand_empty hq)).trans hf), h1.trans ?_, h2.trans ?_⟩
  · rw [hcore, core_modCore, if_pos rfl]
    show (s.core n).coRun.erase r = []
    rw [hr]
    simp
  · rw [hctx]

end

/-- Settles O38. -/
theorem collectivesComplete : Obligations.CollectivesComplete := by
  intro s n
  refine ⟨?_, ?_, fun r hq hr hi ha hf hc => ?_⟩
  · intro pk c key w hf hc ho hd hs hk hq hh
    refine ⟨?_, joinColl_joins s c⟩
    have hw : s.windowOf pk = w := by
      unfold State.windowOf
      rw [hc]
    refine ⟨_, exec_collectiveContribution hf hc ho hd hs hk (hw ▸ hq) (hw ▸ hh), rfl, ?_, ?_⟩
    · rw [hc]
      exact congrArg (· ++ _) (joinColl_acksOut s c)
    · rw [hw, hc]
      exact congrArg Window.b ((tblGet_tblPut ..).trans (if_pos rfl))
  · intro e rest hq he ha hh hand
    exact ⟨fun t e' own hc => congrArg (fun u : State => Host.Outcome.next (u.colFinish n)) (colHand_ok hq he ha hh hc),
      fun t st ad hc => congrArg (fun u : State => Host.Outcome.next (u.colFinish n)) (colHand_fail hq he ha hh hc)⟩
  · intro ends
    have hfind : s.colDue r = true → (s.core n).coRun.find? (fun r => s.cmdAlive n r.cmd && s.resRoom n r.cmd true &&
        s.cmdRoom n r.cmd && s.colDue r) = some r := fun hd => by
      rw [hr]
      simp [ha, hf, hc, hd]
    refine ⟨fun v st ad hfate => col_ends hq hr hi ?_, fun l cir hfate ht ho hv => col_ends hq hr hi ?_,
      fun st hfate ht ho => col_ends hq hr hi ?_⟩
    · unfold State.colFinish
      dsimp only
      rw [hfind (by simp [State.colDue, hfate])]
      dsimp only
      rw [hfate]
    · unfold State.colFinish
      dsimp only
      rw [hfind (by simp [State.colDue, hfate, ht, ho])]
      dsimp only
      rw [hfate]
      dsimp only
      rw [ho]
      dsimp only
      rw [hv]
      rfl
    · unfold State.colFinish
      dsimp only
      rw [hfind (by simp [State.colDue, hfate, ht, ho])]
      dsimp only
      rw [hfate]
      dsimp only
      rw [ho]

end Sys2Proof.Machine
end

section
/-! SUPPORT. Task queues, the walker, and the dependence table (R16, R17, R314, R322, R328). -/

namespace Sys2Proof.Machine

section
variable {s : State} {n q : Nat} {l : Launch}

/-! The walker (R322). -/

theorem enqueue_room (hf : (s.tq q).fifo.length < 32) (hr : (s.tq q).ring = []) (r : TRec) :
    s.enqueue q r = some (s.modTq q fun t => { t with fifo := t.fifo ++ [r], fed := true }) := by
  unfold State.enqueue
  dsimp only
  rw [if_pos (by simp [hf, hr])]

/-- What the walker's next task of a launch leaves. -/
def State.walkedOn (s : State) (n q : Nat) (l : Launch) : State :=
  let t := (s.modTq q fun t => { t with fifo := t.fifo ++ [walkerRecord l.record n l.seq l.snap], fed := true }).modLaunch n
    fun l => { l with seq := l.seq + 1, alive := l.alive + 1 }
  { t with walked := n :: t.walked }

variable (hl : s.launch? n = some l)
include hl

theorem walkNext_room (hs : l.seq < l.total) (hw : n ∉ s.walked) (hh : (s.part l.part).hubSaw = false)
    (hf : (s.tq (recTq l.record)).fifo.length < 32) (hr : (s.tq (recTq l.record)).ring = []) :
    s.walkNext n = s.walkedOn n (recTq l.record) l := by
  unfold State.walkNext
  rw [hl]
  dsimp only
  rw [if_neg (by simp [hs, hw, hh]), enqueue_room hf hr]
  rfl

theorem modLaunch_some (f : Launch → Launch) : s.modLaunch n f = { s with launches := tblPut s.launches n (f l) } := by
  unfold State.modLaunch
  rw [hl]

omit hl

theorem walkedOn_fifo (hl : s.launch? n = some l) :
    ((s.walkedOn n q l).tq q).fifo = (s.tq q).fifo ++ [walkerRecord l.record n l.seq l.snap] := by
  unfold State.walkedOn
  rw [modLaunch_some (s := s.modTq q _) hl]
  exact congrArg TaskQ.fifo ((tblGet_tblPut ..).trans (if_pos rfl))

theorem walkedOn_launch (hl : s.launch? n = some l) :
    (s.walkedOn n q l).launch? n = some { l with seq := l.seq + 1, alive := l.alive + 1 } := by
  unfold State.walkedOn
  rw [modLaunch_some (s := s.modTq q _) hl]
  exact (tblFind_tblPut ..).trans (if_pos rfl)

theorem exec_taskEnqueue (hf : s.launches.find? (fun e =>
    recTq e.2.record = q && e.2.seq < e.2.total && !s.walked.contains e.1 && !(s.part e.2.part).hubSaw) = some (n, l)) :
    exec (.taskEnqueue q) s = .next (s.walkNext n) := by
  show execTaskEnqueue q s = _
  unfold execTaskEnqueue
  rw [show s.launches.find? _ = some (n, l) from hf]

end

/-! Entry into the dependence table (R17, R328). -/

section
variable {s : State} {p q : Nat} {r : TRec}

section
variable {α : Type} {g : State → α} (b : MemBlind g)
include b

theorem walk_fld (s : State) (p va : Nat) : g (s.walk p va).1 = g s := (b.reads (g s)).walk p va rfl

theorem tileMapped_fld (p : Nat) : ∀ (n : Nat) (s : State) (va : Nat), g (State.tileMapped p n s va).1 = g s
  | 0, _, _ => rfl
  | n + 1, s, va => by
    have hw := walk_fld b s p va
    unfold State.tileMapped
    split
    · next h => rwa [h] at hw
    · next h =>
      rw [h] at hw
      exact (tileMapped_fld p n _ _).trans hw

theorem leafTooLarge_fld (s : State) (p tile k : Nat) : g (s.leafTooLarge p tile k).1 = g s := by
  have hw := walk_fld b s p tile
  unfold State.leafTooLarge
  split <;> next h => rwa [h] at hw

variable (hp : ∀ s p f, g (State.modPart s p f) = g s)
include hp

theorem newBlock_fld (s : State) (p held : Nat) (w : Nat × Nat) : g (s.newBlock p held w).1 = g s := by
  have ht := tileMapped_fld b p (2 ^ w.2) s w.1
  unfold State.newBlock
  split
  · rfl
  · split
    · next h => rwa [h] at ht
    · next u h =>
      rw [h] at ht
      have hb := (leafTooLarge_fld b u p w.1 w.2).trans ht
      split
      · next h => rwa [h] at hb
      · next v h =>
        rw [h] at hb
        split
        · exact hb
        · exact (hp v p fun _ => _).trans hb

theorem rename_fld (s : State) (p : Nat) (tid : Word) (order : Nat) (w : Nat × Nat) : g (s.rename p tid order w).1 = g s := by
  have hb := newBlock_fld b hp s p (s.renames p) w
  unfold State.rename
  split
  · next h => rwa [h] at hb
  · next u _ h =>
    rw [h] at hb
    exact (hp u p fun _ => _).trans hb

end

/-- The dependence table, and the number of the next entry. -/
def State.table (s : State) : List Dep × Nat := (s.deps, s.depNext)

theorem memBlind_table : MemBlind State.table := ⟨fun _ _ _ _ _ _ _ _ _ => rfl⟩

theorem dequeue_table (s : State) (q : Nat) : (s.dequeue q).table = s.table := by
  unfold State.dequeue
  dsimp only
  split
  · rfl
  · exact memBlind_table.sysRead ..

/-- What an entry adds to the table (R17, R328): it waits for the tasks that write what it reads. -/
theorem enter_adds (s : State) (p q : Nat) (r : TRec) :
    ∃ e, (s.enter p q r).deps = s.deps ++ [e] ∧ e.rcd = r ∧ e.part = p ∧ e.tq = q ∧ e.order = s.depNext ∧
      (s.enter p q r).depNext = s.depNext + 1 ∧ e.insts = [] ∧ (e.st = .ready ↔ e.conf = []) ∧
      ∀ d ∈ s.deps, d.part = p → (∃ w ∈ d.rcd.writes, ∃ x ∈ r.reads, overlap w x = true) → d.rcd.tid ∈ e.conf := by
  unfold State.enter
  extract_lets order prev raw
  -- the renames leave the table, and only add conflicts
  generalize hz : List.foldl _ (s, [], raw) r.writes = z
  obtain ⟨hd, hc⟩ : z.1.table = s.table ∧ raw ⊆ z.2.2 := by
    subst hz
    refine List.foldlRecOn r.writes _ (motive := fun z : State × List (Nat × Nat × Option Nat) × List Word =>
      z.1.table = s.table ∧ raw ⊆ z.2.2) ⟨rfl, fun _ h => h⟩ ?_
    rintro ⟨u, ren, conf⟩ ⟨hd, hc⟩ w _
    have hr := rename_fld memBlind_table (fun _ _ _ => rfl) u p r.tid order w
    dsimp only
    split
    · exact ⟨hd, hc⟩
    · split
      · next h =>
        rw [h] at hr
        exact ⟨hr.trans hd, hc⟩
      · next h =>
        rw [h] at hr
        exact ⟨hr.trans hd, fun x hx => List.mem_append_left _ (hc hx)⟩
  refine ⟨_, congrArg (fun t : List Dep × Nat => t.1 ++ _) hd, rfl, rfl, rfl, rfl, rfl, rfl, ?_, fun d hm hp hw => hc ?_⟩
  · dsimp only
    cases z.2.2 <;> simp
  · obtain ⟨w, hw, x, hx, ho⟩ := hw
    refine List.mem_map.2 ⟨d, List.mem_filter.2 ⟨List.mem_filter.2 ⟨hm, by simpa using hp⟩, ?_⟩, rfl⟩
    exact List.any_eq_true.2 ⟨w, hw, List.any_eq_true.2 ⟨x, hx, ho⟩⟩

theorem exec_taskEntry {l : Nat} {rest : List TRec} (hc : s.choose (16 * (p + 1)) (s.entryCands p) = some (l, q))
    (hf : (s.tq q).fifo = r :: rest) (hl : s.deps.length < 2048) (h1 : (s.part p).run ≠ .halted)
    (h2 : (s.part p).run ≠ .resetting) (he : p ∉ s.entered) (hd : (s.tq q).fed = false) :
    exec (.taskEntry p q) s = .next (((s.chosen (16 * (p + 1)) (s.entryCands p) l q).dequeue q).enter p q r) := by
  show execTaskEntry p q s = _
  unfold execTaskEntry
  dsimp only
  rw [hc, hf]
  exact if_neg (by simp [hl, h1, h2, he, hd])

end

/-- Settles O39. -/
theorem tasksAreCreatedAndEnterTheTable : Obligations.TasksAreCreatedAndEnterTheTable := by
  refine ⟨?_, ?_⟩
  · intro s n l q hl hs hw hh hf hr
    have hn := walkNext_room hl hs hw hh hf hr
    exact ⟨_, congrArg Host.Outcome.next hn, walkedOn_fifo hl, walkedOn_launch hl, List.mem_cons_self ..,
      fun he => (exec_taskEnqueue he).trans (congrArg Host.Outcome.next hn)⟩
  · intro s p q l r rest hc hf hl h1 h2 he hd
    obtain ⟨e, hdeps, hr, hp, hq, ho, hn, hi, hst, hconf⟩ :=
      enter_adds ((s.chosen (16 * (p + 1)) (s.entryCands p) l q).dequeue q) p q r
    have ht := dequeue_table (s.chosen (16 * (p + 1)) (s.entryCands p) l q) q
    rw [show ((s.chosen (16 * (p + 1)) (s.entryCands p) l q).dequeue q).deps = s.deps from congrArg Prod.fst ht] at hdeps hconf
    rw [show ((s.chosen (16 * (p + 1)) (s.entryCands p) l q).dequeue q).depNext = s.depNext from congrArg Prod.snd ht] at ho hn
    exact ⟨_, e, exec_taskEntry hc hf hl h1 h2 he hd, hdeps, hr, hp, hq, ho, hn, hi, hst, hconf⟩

end Sys2Proof.Machine
end

section
/-! SUPPORT. Dispatch (R18, R131 to R133, R388). -/

namespace Sys2Proof.Machine

/-- Bytes of a memory outside a range, and zeros inside. -/
theorem read_outside (m : Mem) (lo len b : Nat) :
    Mem.read (m.filter fun e => e.1 < lo || lo + len ≤ e.1) b = if lo ≤ b ∧ b < lo + len then 0 else m.read b := by
  unfold Mem.read tblGet
  rw [tblFind_filter (fun j => j < lo || lo + len ≤ j) m b]
  by_cases h : lo ≤ b ∧ b < lo + len
  · rw [if_pos h, if_neg (by simp; omega)]
    rfl
  · rw [if_neg h, if_pos (by simp; omega)]

section
variable {s : State} {e : Dep} {pl : Place} {lv q : Nat}

theorem moreBlocks_cores (s : State) (e : Dep) : (s.moreBlocks e).1.cores = s.cores := by
  unfold State.moreBlocks
  refine List.foldlRecOn e.rcd.writes _ (motive := fun z : State × List (Nat × Nat) => z.1.cores = s.cores) rfl ?_
  rintro ⟨u, l⟩ hu w _
  have hb := newBlock_fld memBlind_cores (fun _ _ _ => rfl) u e.part (u.renames e.part + l.length) w
  dsimp only
  split <;> next h => rw [h] at hb; exact hb.trans hu

theorem wakeCore_coreFld {α : Type} (g : Core → α) (hp : ∀ c w, g { c with power := w } = g c) (hw : ∀ c w, g { c with wake := w } = g c)
    (s : State) (n m : Nat) : g ((s.wakeCore n).core m) = g (s.core m) := by
  unfold State.wakeCore
  split
  · rfl
  · exact coreFld_modCore g s n m _ fun c => hp c _
  · exact coreFld_modCore g s n m _ fun c => hw c _

/-- The task instance that a start puts on a context. -/
def Dep.instance (e : Dep) (no : Nat) : Task := ⟨e.rcd.tid, no, e.part, e.rcd.launch, e.rcd.cls, e.rcd.kidx, e.tq, e.rcd.snap⟩

theorem startTask_core {α : Type} (g : Core → α) (hg : ∀ c l, g { c with slotNext := l } = g c) (s : State) (e : Dep) (no : Nat)
    (pl : Place) : g ((s.startTask e no pl).core pl.core) = g { s.core pl.core with
      frame := (s.core pl.core).frame.filter fun b => b.1 < pl.fo || pl.fo + e.rcd.snap.frame ≤ b.1
      ctxs := tblPut (s.core pl.core).ctxs pl.ctx (Ctx.ofTask (e.instance no) e.rcd pl.fo) } := by
  unfold State.startTask
  extract_lets r t f s1 s2
  have h1 : s1.core pl.core = _ := (core_modCore ..).trans (if_pos rfl)
  have h2 : g (s2.core pl.core) = g (s1.core pl.core) := coreFld_modCore g s1 _ _ _ fun c => by
    split
    · rfl
    · exact hg ..
  rw [h1] at h2
  split
  · exact (traceRec_fld (fun s => g (s.core pl.core)) (fun _ _ _ => rfl) ..).trans h2
  · exact h2

/-- A placed instance: its context and its frame. -/
theorem newInstance_places (hd : s.dep? e.part e.rcd.tid = some e) :
    ((s.newInstance e pl).core pl.core).ctx pl.ctx = Ctx.ofTask (e.instance e.nextInst) e.rcd pl.fo ∧
      ∀ b, ((s.newInstance e pl).core pl.core).frame.read b =
        if pl.fo ≤ b ∧ b < pl.fo + e.rcd.snap.frame then 0 else (s.core pl.core).frame.read b := by
  unfold State.newInstance
  rw [hd]
  dsimp only
  have hz : ∀ z : State × List (Nat × Nat), z = (if e.nextInst = 0 then (s, e.ren.filterMap fun (b, _, x) => x.map fun a => (b, a))
      else s.moreBlocks e) → z.1.cores = s.cores := by
    rintro z rfl
    split
    · rfl
    · exact moreBlocks_cores s e
  generalize (if e.nextInst = 0 then (s, e.ren.filterMap fun (b, _, x) => x.map fun a => (b, a)) else s.moreBlocks e) = z at hz ⊢
  have hc := hz z rfl
  generalize hu : State.wakeCore _ pl.core = u
  have hf : (u.core pl.core).frame = (s.core pl.core).frame := by
    rw [← hu, wakeCore_coreFld Core.frame (fun _ _ => rfl) fun _ _ => rfl]
    exact congrArg (fun c => (tblGet Core.reset c pl.core).frame) hc
  refine ⟨?_, fun b => ?_⟩
  · rw [startTask_core (fun c => c.ctx pl.ctx) fun _ _ => rfl]
    exact (tblGet_tblPut ..).trans (if_pos rfl)
  · rw [startTask_core Core.frame fun _ _ => rfl]
    exact (read_outside ..).trans (by rw [hf])

variable (hc : s.choose 0 (s.dispatchCands.map fun e => (e.rcd.pri, e.tq)) = some (lv, q))
  (he : (s.dispatchCands.find? fun e => e.rcd.pri = lv && e.tq = q) = some e) (hg : s.goodPlaces e [pl] = true)
include hc he hg

theorem exec_dispatch_wakes (hp : (s.core pl.core).power = .off) : exec (.dispatch e.rcd.tid [pl]) s = .next (s.wakeCore pl.core) := by
  show execDispatch e.rcd.tid [pl] s = _
  unfold execDispatch
  dsimp only
  rw [hc]
  dsimp only
  rw [he]
  dsimp only
  rw [if_neg (by simp [hg]), if_pos (by simp [hp])]
  rfl

theorem exec_dispatch_places (hp : (s.core pl.core).power ≠ .off) : exec (.dispatch e.rcd.tid [pl]) s =
    .next ((s.chosen 0 (s.dispatchCands.map fun e => (e.rcd.pri, e.tq)) lv q).newInstance e pl) := by
  show execDispatch e.rcd.tid [pl] s = _
  unfold execDispatch
  dsimp only
  rw [hc]
  dsimp only
  rw [he]
  dsimp only
  rw [if_neg (by simp [hg]), if_neg (by simp [hp])]
  rfl

end

/-- Settles O40. -/
theorem dispatchPlacesAReadyTask : Obligations.DispatchPlacesAReadyTask := by
  intro s lv q e pl cands hc he hg
  refine ⟨fun hp => ⟨_, exec_dispatch_wakes hc he hg hp, ?_, ?_⟩, fun hp hd => ⟨_, exec_dispatch_places hc he hg hp, ?_⟩⟩
  · unfold State.wakeCore
    rw [hp]
    exact congrArg Core.wake ((core_modCore ..).trans (if_pos rfl))
  · unfold State.wakeCore
    rw [hp]
    rfl
  · exact newInstance_places hd

end Sys2Proof.Machine
end

section
/-! SUPPORT. Contexts that are freed and tasks that retire (R20, R21, R120). -/

namespace Sys2Proof.Machine

section
variable {s t : State} {k : Who}

/-! A context with no result in flight. -/

/-- A state that differs from another in nothing of a context, and not in the trackers of its core. -/
structure StillCtx (k : Who) (s t : State) : Prop where
  clus : ∀ u, t.clu { k with clu := u } = s.clu { k with clu := u }
  rest : { t.ctxOf k with clus := [] } = { s.ctxOf k with clus := [] }
  tracker : (t.core k.core).tracker = (s.core k.core).tracker

theorem landAll_idle (hd : ∀ u, (s.clu { k with clu := u }).dl = []) : StillCtx k s (s.landAll k) := by
  unfold State.landAll
  refine List.foldlRecOn [Clu.c, .a, .v, .m] _ (motive := StillCtx k s) ⟨fun _ => rfl, rfl, rfl⟩ ?_
  rintro t ⟨hc, hr, ht⟩ u _
  dsimp only
  have hdl : (t.clu { k with clu := u }).dl = [] := (congrArg Cluster.dl (hc u)).trans (hd u)
  rw [hdl]
  have hid : ∀ c : Cluster, c.dl = [] → { c with dl := [] } = c := fun c h => by rw [← h]
  refine ⟨fun w => ?_, ?_, ?_⟩
  · refine Eq.trans ?_ (hc w)
    by_cases e : ({ k with clu := w } : Who) = { k with clu := u }
    · rw [e, clu_modClu]
      exact hid _ hdl
    · exact clu_modClu_other _ _ _ _ e
  · exact (ctxFld_modClu (fun x => ({ x with clus := [] } : Ctx)) (fun _ _ _ => rfl) t _ _ k).trans hr
  · exact (coreFld_modCtx Core.tracker (fun _ _ _ => rfl) t _ _ _).trans ht

theorem StillCtx.fld {α : Type} (h : StillCtx k s t) (g : Ctx → α) (hg : ∀ x l, g { x with clus := l } = g x) :
    g (t.ctxOf k) = g (s.ctxOf k) := by
  rw [← hg (t.ctxOf k) [], h.rest, hg]

theorem StillCtx.sigs (h : StillCtx k s t) : (t.ctxOf k).sigs = (s.ctxOf k).sigs := by
  have hu : ∀ u, (t.ctxOf k).clu u = (s.ctxOf k).clu u := h.clus
  unfold Ctx.sigs
  simp only [List.flatMap_cons, List.flatMap_nil, hu]

/-! What a freed context leaves (R120). -/

theorem freeCtx_coreFld {α : Type} (g : Core → α) (h1 : ∀ c l, g { c with locks := l } = g c)
    (h2 : ∀ c l x, g { c with land := l, ctxs := x } = g c) (h3 : ∀ c l, g { c with slotNext := l } = g c) (s : State) (k : Who)
    (n : Nat) : g ((s.freeCtx k).core n) = g (s.core n) := by
  unfold State.freeCtx
  dsimp only
  rw [autoSlots_coreFld g h3]
  refine (coreFld_modCore g _ k.core n _ fun c => ?_).trans ?_
  · exact h2 ..
  · refine (tblGet_map_fld g (fun n c => { c with locks := c.locks.filter fun e => e.2 ≠ (k.core, k.ctx) }) (fun n c => h1 ..)
      Core.reset _ n).trans ?_
    exact congrArg (fun t => g (tblGet Core.reset t n)) (forget_fld State.cores (fun _ _ => rfl) s _)

/-- What the tracker keeps of a context (R120). -/
def Ctx.tracked (x : Ctx) (n : Nat) (t : Task) : Tracker :=
  { ctx := n, task := t, ct := x.ct, remF := x.remF, colF := x.colF, cbStat := x.cbStat, cbIdx := x.cbIdx, cbEng := x.cbEng,
    cir := x.cir, sigs := x.sigs, pc := (x.clu .c).pc, loc := (x.clu .c).sc, cseq := x.popped }

theorem StillCtx.tracked (h : StillCtx k s t) (n : Nat) (q : Task) : (t.ctxOf k).tracked n q = (s.ctxOf k).tracked n q := by
  unfold Ctx.tracked
  rw [h.sigs, h.fld Ctx.ct (fun _ _ => rfl), h.fld Ctx.remF (fun _ _ => rfl), h.fld Ctx.colF (fun _ _ => rfl),
    h.fld Ctx.cbStat (fun _ _ => rfl), h.fld Ctx.cbIdx (fun _ _ => rfl), h.fld Ctx.cbEng (fun _ _ => rfl),
    h.fld Ctx.cir (fun _ _ => rfl), h.fld Ctx.popped (fun _ _ => rfl), show (t.ctxOf k).clu .c = (s.ctxOf k).clu .c from h.clus .c]

/-- The state that the freeing of a context leaves. -/
def State.freed (s : State) (k : Who) (t : Task) : State :=
  ((k.clusters.foldl (fun s u => s.hand (.clu u) (.task t.part t.tid t.inst)) (s.landAll k)).freeCtx k).modCore k.core fun c =>
    { c with tracker := c.tracker ++ [((s.landAll k).ctxOf k).tracked k.ctx t] }

theorem freed_tracker (s : State) (k : Who) (q : Task) (hs : StillCtx k s (s.landAll k)) :
    ((s.freed k q).core k.core).tracker = (s.core k.core).tracker ++ [(s.ctxOf k).tracked k.ctx q] := by
  have hu : ∀ (l : List Who) (t : State), ((l.foldl (fun s u => s.hand (.clu u) (.task q.part q.tid q.inst)) t).core k.core).tracker =
      (t.core k.core).tracker := fun l => foldl_fld (fun s : State => (s.core k.core).tracker) _
    (fun s u => hand_fld (fun s => (s.core k.core).tracker) (fun _ _ => rfl) s _ _) l
  have ht := freeCtx_coreFld Core.tracker (fun _ _ => rfl) (fun _ _ _ => rfl) (fun _ _ => rfl)
    (k.clusters.foldl (fun s u => s.hand (.clu u) (.task q.part q.tid q.inst)) (s.landAll k)) k k.core
  rw [hu, hs.tracker] at ht
  unfold State.freed
  rw [core_modCore, if_pos rfl, hs.tracked]
  dsimp only
  rw [ht]

theorem freed_task (s : State) (n x : Nat) (q : Task) : (((s.freed ⟨n, x, .c⟩ q).core n).ctx x).task = none := by
  unfold State.freed
  generalize Ctx.tracked _ _ q = e
  generalize List.foldl _ (s.landAll ⟨n, x, .c⟩) _ = u
  exact (congrArg Ctx.task (ctxOf_modCore (u.freeCtx ⟨n, x, .c⟩) n (fun c => { c with tracker := c.tracker ++ [e] }) ⟨n, x, .c⟩
    fun _ => rfl)).trans (freeCtx_task u n x)

variable {n x : Nat} {q : Task}

theorem exec_contextFree (ht : (s.ctxOf ⟨n, x, .c⟩).task = some q) (hb : (s.ctxOf ⟨n, x, .c⟩).mxBad = false)
    (hf : (s.ctxOf ⟨n, x, .c⟩).frozen = false)
    (hr : ∀ u, (((s.ctxOf ⟨n, x, .c⟩).clu u).run = .ended ∨ ((s.ctxOf ⟨n, x, .c⟩).clu u).run = .tailed) ∧
      ((s.ctxOf ⟨n, x, .c⟩).clu u).dl = []) (ht1 : ∃ u, ((s.ctxOf ⟨n, x, .c⟩).clu u).run = .tailed) (hm : s.mxOf ⟨n, x, .c⟩ = false)
    (ha : ∀ e ∈ s.accs, ¬(s.ofCtx ⟨n, x, .c⟩ e.2 = true ∧ e.2.loads = true)) (hl : (s.core n).tracker.length < 8) :
    exec (.contextFree n x) s = .next (s.freed ⟨n, x, .c⟩ q) := by
  have hall : ([Clu.c, .a, .v, .m].all fun u => (((s.ctxOf ⟨n, x, .c⟩).clu u).run = .ended ||
      ((s.ctxOf ⟨n, x, .c⟩).clu u).run = .tailed) && ((s.ctxOf ⟨n, x, .c⟩).clu u).dl.all
        (Flight.due (((s.ctxOf ⟨n, x, .c⟩).clu u).sc + 1))) = true :=
    List.all_eq_true.2 fun u _ => by
      obtain ⟨h1, h2⟩ := hr u
      simp [h1, h2]
  have hnot : ([Clu.c, .a, .v, .m].all fun u => ((s.ctxOf ⟨n, x, .c⟩).clu u).run = .ended) = false := by
    obtain ⟨u, hu⟩ := ht1
    refine List.all_eq_false.2 ⟨u, ?_, by simp [hu]⟩
    cases u <;> simp
  have hacc : (s.accs.any fun (_, a) => s.ofCtx ⟨n, x, .c⟩ a && a.loads) = false :=
    List.any_eq_false.2 fun e he => by simpa using ha e he
  show Host.Outcome.next (s.freeDue n x) = _
  unfold State.freeDue
  dsimp only
  rw [ht]
  dsimp only
  rw [if_neg (by rw [hall, hnot, hb]; simp), if_neg (by rw [hm, hacc, hf]; simp [hl])]
  rfl

/-! Retirement (R21). -/

theorem taskDone_cores (s : State) (e : Dep) : (s.taskDone e).cores = s.cores :=
  modLaunch_fld State.cores (fun _ _ => rfl) (s.leave e.part e.rcd.tid) _ _

/-- A task that is done is in the table no more. -/
theorem taskDone_gone (s : State) (e : Dep) : ∀ d ∈ (s.taskDone e).deps, ¬(d.part = e.part ∧ d.rcd.tid = e.rcd.tid) := by
  intro d hd
  rw [show (s.taskDone e).deps = (s.leave e.part e.rcd.tid).deps from modLaunch_fld State.deps (fun _ _ => rfl) _ _ _] at hd
  obtain ⟨c, hc, rfl⟩ := List.mem_map.1 hd
  have hn := (List.mem_filter.1 hc).2
  dsimp only
  split <;> simpa [Decidable.imp_iff_not_or] using hn

/-- The retirement of an instance of class NONE: its task leaves. -/
theorem retireInst_none (s : State) (hq : q.cls = 0) (sigs : List Nat) :
    (s.retireInst q sigs).cores = s.cores ∧ ∀ e ∈ (s.retireInst q sigs).deps, ¬(e.part = q.part ∧ e.rcd.tid = q.tid) := by
  unfold State.retireInst
  split
  · next h => exact ⟨rfl, fun e he => by simpa using List.find?_eq_none.1 h e he⟩
  · next e h =>
    have he := List.find?_some h
    simp only [Bool.and_eq_true, decide_eq_true_eq] at he
    dsimp only
    rw [if_pos hq]
    generalize hu : (if s.traceOn q.part 2 then _ else s) = u
    have hc : u.cores = s.cores := by
      rw [← hu]
      split
      · exact traceRec_fld State.cores (fun _ _ _ => rfl) ..
      · rfl
    exact ⟨(taskDone_cores _ e).trans hc, he.1 ▸ he.2 ▸ taskDone_gone _ e⟩

theorem exec_taskRetirement (ht : (s.ctxOf ⟨n, x, .c⟩).task = some q) (hb : (s.ctxOf ⟨n, x, .c⟩).mxBad = false)
    (hf : (s.ctxOf ⟨n, x, .c⟩).frozen = false) (hr : ∀ u, ((s.ctxOf ⟨n, x, .c⟩).clu u).run = .ended)
    (hh : q.part ∉ (s.die (dieOf n)).halt) (he : q.cls = 0 → q.part ∉ s.entered) (hd : s.drained ⟨n, x, .c⟩ = true)
    (hp : s.pastDone ⟨n, x, .c⟩ = true) :
    exec (.taskRetirement n x) s = .next ((s.landAll ⟨n, x, .c⟩).retireWith ⟨n, x, .c⟩ q ((s.landAll ⟨n, x, .c⟩).ctxOf ⟨n, x, .c⟩)
      ((s.landAll ⟨n, x, .c⟩).ctxOf ⟨n, x, .c⟩).sigs (fun f => (s.landAll ⟨n, x, .c⟩).faultTask ⟨n, x, .c⟩ f) fun s =>
        s.freeCtx ⟨n, x, .c⟩) := by
  have hall : ([Clu.c, .a, .v, .m].all fun u => ((s.ctxOf ⟨n, x, .c⟩).clu u).run = .ended) = true :=
    List.all_eq_true.2 fun u _ => by simp [hr u]
  have hhalt : ((s.die (dieOf n)).halt.contains q.part || (decide (q.cls = 0) && s.lateIn q.part)) = false := by
    unfold State.lateIn
    by_cases hc : q.cls = 0
    · simp [hh, he hc]
    · simp [hh, hc]
  show execTaskRetirement n x s = _
  unfold execTaskRetirement
  dsimp only
  rw [ht]
  dsimp only
  rw [if_pos (by rw [hall, hb, hf, hhalt, hd, hp]; rfl)]

end

/-- Settles O41. -/
theorem contextsAreFreedAndTasksRetire : Obligations.ContextsAreFreedAndTasksRetire := by
  intro s n x t k c ht hb hf
  refine ⟨fun hr h1 hm ha hl => ⟨_, exec_contextFree ht hb hf hr h1 hm ha hl, freed_task s n x t,
      freed_tracker s k t (landAll_idle fun u => (hr u).2)⟩,
    fun hr hh he hd hp => ⟨fun f hx => ?_, fun hx hc => ?_⟩⟩
  · rw [exec_taskRetirement ht hb hf hr hh he hd hp]
    unfold State.retireWith
    rw [hx]
  · have hr' := exec_taskRetirement ht hb hf hr hh he hd hp
    unfold State.retireWith at hr'
    rw [hx] at hr'
    obtain ⟨h1, h2⟩ := retireInst_none (((s.landAll k).closeRows n).freeCtx k) hc ((s.landAll k).ctxOf k).sigs
    refine ⟨_, hr', ?_, h2⟩
    exact (congrArg (fun t => ((tblGet Core.reset t n).ctx x).task) h1).trans (freeCtx_task _ n x)

end Sys2Proof.Machine
end

section
/-! SUPPORT. Vigil's decisions, folds of overlays, and launches (R186, R247, R324, R331, R339, R376 to R378). -/

namespace Sys2Proof.Machine

section
variable {e : Dep} {i j k : Inst}

/-! What Vigil finds (Table 6.4). -/

theorem decision_sig (hc : e.rcd.cls = 1) (hi : e.insts = [i]) (hs : i.st = .retired) : e.decision = .release i [] 4 := by
  unfold Dep.decision
  simp [hc, hi, hs]

theorem decision_sig_failed (hc : e.rcd.cls = 1) (hi : e.insts = [i]) (hs : i.st = .failed) (hn : e.nextInst = 1) :
    e.decision = .again := by
  unfold Dep.decision
  simp [hc, hi, hs, hn]

variable (hc : e.rcd.cls = 2) (hi : i.st = .retired) (hj : j.st = .retired) (hij : i.no ≠ j.no)
include hc hi hj hij

theorem decision_two (hn : e.nextInst = 2) (hl : e.insts = [i, j]) :
    e.decision = if i.sigv = j.sigv then .release i [] 8 else .again := by
  unfold Dep.decision majority
  by_cases h : i.sigv = j.sigv
  · simp [hc, hl, hi, hj, hn, h, Ne.symm hij]
  · simp [hc, hl, hi, hj, hn, h, Ne.symm h]

omit hij in
theorem decision_three (hk : k.st = .retired) (hik : i.no ≠ k.no) (hjk : j.no ≠ k.no) (hn : e.nextInst = 3)
    (hl : e.insts = [i, j, k]) (h : i.sigv ≠ j.sigv) :
    e.decision = if k.sigv = i.sigv then .release i [j] 8 else if k.sigv = j.sigv then .release j [i] 8 else .unresolved := by
  unfold Dep.decision majority
  by_cases h1 : k.sigv = i.sigv
  · simp [hc, hl, hi, hj, hk, hn, h1, Ne.symm h, Ne.symm hik]
  · by_cases h2 : k.sigv = j.sigv
    · simp [hc, hl, hi, hj, hk, hn, h, h2, Ne.symm h, Ne.symm hjk]
    · simp [hc, hl, hi, hj, hk, hn, h, h1, h2, Ne.symm h, Ne.symm h1, Ne.symm h2]

end

section
variable {s : State} {e : Dep} {pl : Option Place} (hd : (s.deps.find? fun x => x.rcd.tid = e.rcd.tid && s.decides pl x) = some e)
include hd

theorem exec_vigilDecision_release {i : Inst} {l : List Inst} {n : Nat} (hr : e.decision = .release i l n) :
    exec (.vigilDecision e.rcd.tid pl) s =
      if (s.releaseRows e i).releasing e i || (s.releaseRows e i).lateIn e.part then .next (s.releaseRows e i)
      else .next (l.foldl (fun s x => s.blame x n) ((s.releaseRows e i).vigilRelease e i)) := by
  show execVigilDecision e.rcd.tid pl s = _
  unfold execVigilDecision
  rw [hd]
  dsimp only
  rw [hr]

theorem exec_vigilDecision_unresolved (hr : e.decision = .unresolved) (hl : e.part ∉ s.entered) :
    exec (.vigilDecision e.rcd.tid pl) s = .next (s.vigilUnresolved e) := by
  show execVigilDecision e.rcd.tid pl s = _
  unfold execVigilDecision
  rw [hd]
  dsimp only
  rw [hr]
  exact if_neg (by simp [State.lateIn, hl])

end

/-- The pages of a folded overlay take its block's addresses (R331). -/
def State.foldPages (s : State) (p : Nat) (o : Overlay) : State :=
  match o.block with
  | none => s
  | some b => ((List.range (o.size / 65536)).foldl (State.foldPage p o b) s).tlbDrop fun e =>
      e.part = p && e.va < o.tile + o.size && o.tile < e.va + e.size

theorem exec_overlayFold {s : State} {p i : Nat} {o : Overlay} (ho : (s.part p).overlays[i]? = some o) (hf : s.foldable p o = true) :
    exec (.overlayFold p i) s = .next ((s.foldPages p o).modPart p fun x => { x with overlays := x.overlays.filter (· ≠ o) }) := by
  show execOverlayFold p i s = _
  unfold execOverlayFold
  rw [ho]
  dsimp only
  rw [if_neg (by simp [hf])]
  rfl

/-- Settles O42. -/
theorem vigilDecidesAndOverlaysFold : Obligations.VigilDecidesAndOverlaysFold := by
  refine ⟨fun s e i j k pl => ⟨decision_sig, decision_sig_failed, fun hc hi hj hk hij hik hjk =>
      ⟨decision_two hc hi hj hij, decision_three hc hi hj hk hik hjk⟩, fun hd =>
      ⟨?_, exec_vigilDecision_unresolved hd⟩⟩, fun s p i o ho hf => ⟨fun hb => ⟨_, exec_overlayFold ho hf, ?_, ?_⟩, fun b hb => ?_⟩⟩
  · intro l n t hr
    refine ⟨fun hb => ?_, fun hb hl => ?_⟩
    · exact (exec_vigilDecision_release hd hr).trans (if_pos (by rw [show (s.releaseRows e i).releasing e i = true from hb]; rfl))
    · refine (exec_vigilDecision_release hd hr).trans (if_neg ?_)
      rw [show (s.releaseRows e i).releasing e i = false from hb]
      simpa [State.lateIn] using hl
  · unfold State.foldPages
    rw [hb]
    exact congrArg Part.overlays ((part_modPart ..).trans (if_pos rfl))
  · unfold State.foldPages
    rw [hb]
    rfl
  · rw [exec_overlayFold ho hf]
    unfold State.foldPages
    rw [hb]

/-! Launch queues and launches. -/

theorem lq_modLq (s : State) (p q : Nat) (f : LaunchQ → LaunchQ) : ((s.modLq p q f).part p).lq q = f ((s.part p).lq q) := by
  unfold State.modLq
  rw [part_modPart, if_pos rfl]
  exact (tblGet_tblPut ..).trans (if_pos rfl)

section
variable {s : State} {p q n : Nat}

theorem exec_completionHeadWrite {v : Nat} (h : (((s.part p).lq q).ct + 2 ^ 32 - v % 2 ^ 32) % 2 ^ 32 < 2 ^ 31) :
    exec (.completionHeadWrite p q v) s = .next (s.modLq p q fun l => { l with ch := v % 2 ^ 32 }) :=
  if_neg (Nat.not_le.2 h)

/-- A record that would pass the end of its queue (R376). -/
theorem exec_launchAcceptance_stops (hp : ((s.part p).lq q).present = true) (hh : (s.part p).hubSaw = false)
    (hz : ((s.part p).lq q).sz < ((s.part p).lq q).h + 128) :
    exec (.launchAcceptance p q) s = .next ((s.modLq p q fun l => { l with stopped := true }).manageInt (.stopped p q)) := by
  show execLaunchAcceptance p q s = _
  unfold execLaunchAcceptance
  dsimp only
  rw [if_neg (by simp [hp, hh]), if_pos hz]

/-- A queue's head goes on to the next record. -/
def State.stepLq (s : State) (p q : Nat) : State := s.modLq p q fun l => { l with h := (l.h + 128) % l.sz }

section
variable {s1 s2 : State} {r : Nat} (hp : ((s.part p).lq q).present = true) (hh : (s.part p).hubSaw = false)
  (hz : ((s.part p).lq q).h + 128 ≤ ((s.part p).lq q).sz) (hf : ((s.part p).lq q).slotFree = true)
  (hs : s.sysBlock (((s.part p).lq q).base + ((s.part p).lq q).h) 128 = (s1, r))
include hp hh hz hf hs

theorem exec_launchAcceptance_rejects {c : Nat} (hj : s1.judge p r true = (s2, .reject c)) :
    exec (.launchAcceptance p q) s = .next ((s2.stepLq p q).putCompletion p q (recLtag r) c ((s.part p).lq q).h) := by
  show execLaunchAcceptance p q s = _
  unfold execLaunchAcceptance
  extract_lets l step
  rw [if_neg (by simp [l, hp, hh]), if_neg (Nat.not_lt.2 hz), if_neg (by simp [l, hf]), hs]
  dsimp only
  rw [hj]
  rfl

theorem exec_launchAcceptance_accepts {x : Snap} {al : List AEnt} (hj : s1.judge p r true = (s2, .accept x al)) :
    exec (.launchAcceptance p q) s =
      .next (((s2.addLaunch p r (some (q, ((s.part p).lq q).h)) x al).stepLq p q).modLq p q
        fun l => { l with reserved := l.reserved + 1 }) := by
  show execLaunchAcceptance p q s = _
  unfold execLaunchAcceptance
  extract_lets l step
  rw [if_neg (by simp [l, hp, hh]), if_neg (Nat.not_lt.2 hz), if_neg (by simp [l, hf]), hs]
  dsimp only
  rw [hj]
  rfl

end

variable {l : Launch} (hl : s.launch? n = some l) (ht : l.total ≤ l.seq) (ha : l.alive = 0)
include hl ht ha

theorem exec_almanacRelease (hf : ∀ e ∈ l.alm, e.inFlight = false) :
    exec (.almanacRelease n) s = .next { s with
      pins := s.pins.filter fun e => e.1 ≠ n
      launches := tblPut s.launches n { l with alm := [], released := true } } := by
  have hany : l.alm.any AEnt.inFlight = false := List.any_eq_false.2 fun e he => by simp [hf e he]
  show execAlmanacRelease n s = _
  unfold execAlmanacRelease
  rw [hl]
  dsimp only
  rw [if_neg (by simp [ht, ha, hany])]
  exact congrArg Host.Outcome.next (modLaunch_some (s := { s with pins := s.pins.filter fun e => e.1 ≠ n }) hl _)

theorem exec_launchCompletion (hr : l.released = true) (hf : s.folded l = true) (hp : (s.part l.part).run = .running)
    (hs : ∀ e ∈ s.accs, ¬(e.2.task.launch = n ∧ e.2.stores = true)) :
    exec (.launchCompletion n) s = .next (s.endLaunch n l (if l.unresolved then fUnresolved else 0) (bitN (recCtl l.record) 28)) := by
  have hany : (s.accs.any fun (_, a) => a.task.launch = n && a.stores) = false :=
    List.any_eq_false.2 fun e he => by simpa using hs e he
  show execLaunchCompletion n s = _
  unfold execLaunchCompletion
  rw [hl]
  dsimp only
  rw [if_neg (by rw [hany]; simp [ht, ha, hr, hf, hp])]

omit hl ht ha

theorem sysWriteN_launches (s : State) (sa n v tag : Nat) : (s.sysWriteN sa n v tag).launches = s.launches := by
  unfold State.sysWriteN
  exact MemBlind.sysWrite (g := State.launches) ⟨fun _ _ _ _ _ _ _ _ _ => rfl⟩ ..

theorem interrupt_launches (s : State) (i : Nat) : (s.interrupt i).launches = s.launches := by
  unfold State.interrupt
  split <;> rfl

theorem putCompletion_launches (s : State) (p q ltag st off : Nat) : (s.putCompletion p q ltag st off).launches = s.launches := by
  unfold State.putCompletion
  exact (interrupt_launches ..).trans (sysWriteN_launches ..)

theorem endLaunch_gone (s : State) (n : Nat) (l : Launch) (st : Nat) (b : Bool) : (s.endLaunch n l st b).launch? n = none := by
  unfold State.endLaunch
  dsimp only
  split
  · exact (tblFind_tblErase ..).trans (if_pos rfl)
  · split
    · exact (congrArg (tblFind · n) (putCompletion_launches ..)).trans ((tblFind_tblErase ..).trans (if_pos rfl))
    · exact (tblFind_tblErase ..).trans (if_pos rfl)

end

/-- Settles O43. -/
theorem launchesAreAcceptedAndComplete : Obligations.LaunchesAreAcceptedAndComplete := by
  refine ⟨fun s p q v => ⟨⟨_, rfl, lq_modLq ..⟩, ⟨_, rfl, lq_modLq ..⟩, fun h => ⟨_, exec_completionHeadWrite h, lq_modLq ..⟩,
    fun h => if_pos h⟩, ?_⟩
  intro s p q n l lq
  refine ⟨fun hp hh => ⟨fun hz => ⟨_, exec_launchAcceptance_stops hp hh hz, ?_⟩, ?_⟩, fun hl ht ha =>
    ⟨fun hf => ⟨_, exec_almanacRelease hl ht ha hf, (tblFind_tblPut ..).trans (if_pos rfl), rfl⟩,
      fun hr hf hp hs => ⟨_, exec_launchCompletion hl ht ha hr hf hp hs, endLaunch_gone .., rfl⟩⟩⟩
  · rw [manageInt_part]
    exact congrArg LaunchQ.stopped (lq_modLq ..)
  · intro hz hf s1 s2 r hs step
    exact ⟨fun c hj => exec_launchAcceptance_rejects hp hh hz hf hs hj, fun x al hj => exec_launchAcceptance_accepts hp hh hz hf hs hj⟩

end Sys2Proof.Machine
end

section
/-! SUPPORT. What a word leaves unchanged in the sc in which it is executed (R26): the frame of State.issue over any
meaning, and of every word of the SC, CK, EN and MX units. -/

namespace Sys2Proof.Machine

/-! Frames of the issuing of words. -/

/-- A change of a cluster that leaves its registers as they stand. -/
theorem Quiet.modClu_at (s : State) (k : Who) (f : Cluster → Cluster) (h : (f (s.clu k)).regs = (s.clu k).regs) :
    Quiet s (s.modClu k f) := by
  classical
  rw [modClu_congr s k f (fun c => if (f c).regs = c.regs then f c else c) (if_pos h).symm]
  exact Quiet.modClu s k _ fun c => by
    split
    · assumption
    · rfl

theorem regs_ite (b : Prop) [Decidable b] (c x y : Cluster) (hx : x.regs = c.regs) (hy : y.regs = c.regs) :
    (if b then x else y).regs = c.regs := by
  split <;> assumption

theorem afterWord_regs (n : Nat) : ∀ (c : Cluster) (w : Nat), (c.afterWord n w).regs = c.regs := by
  induction n with
  | zero => exact fun _ _ => rfl
  | succ n ih =>
    intro c w
    have pick (b : Prop) [Decidable b] (x y : Cluster) := regs_ite b c x y
    unfold Cluster.afterWord
    dsimp only
    split
    · rfl
    · split
      · split
        · exact pick _ _ _ (pick _ _ _ rfl rfl) (pick _ _ _ rfl ((ih _ _).trans rfl))
        · exact pick _ _ _ (pick _ _ _ rfl rfl) (pick _ _ _ rfl ((ih _ _).trans rfl))
      · exact pick _ _ _ ((ih _ _).trans rfl) (pick _ _ _ rfl rfl)

theorem leaveLoops_regs (n : Nat) : ∀ (c : Cluster) (t : Int), (Cluster.leaveLoops n c t).regs = c.regs := by
  induction n with
  | zero => exact fun _ _ => rfl
  | succ n ih =>
    intro c t
    unfold Cluster.leaveLoops
    dsimp only
    exact regs_ite _ _ _ _ rfl (regs_ite _ _ _ _ rfl ((ih _ _).trans (regs_ite _ _ _ _ rfl rfl)))

theorem quiet_retireAt (s : State) (w : Nat) (h : Hdr) (n : Next) : Quiet s (s.retireAt w h n) := by
  have go (b : Prop) [Decidable b] (e : Cluster) (he : e.regs = s.me.regs) :
      Quiet s ((if b then s.perfMe 9 else s).modMe fun _ => e) := by
    have hp : Quiet s (if b then s.perfMe 9 else s) := Quiet.ite (quiet_perfMe ..) (Quiet.refl s)
    refine hp.trans (Quiet.modClu_at _ _ _ (he.trans ?_))
    have hc : (if b then s.perfMe 9 else s).cur = s.cur := by split <;> simp
    rw [hc, hp.regs]; rfl
  unfold State.retireAt
  cases n with
  | seq => exact go _ _ ((afterWord_regs 4 _ w).trans rfl)
  | jump t ends =>
    cases ends with
    | true => exact go _ _ ((leaveLoops_regs 3 _ t).trans rfl)
    | false => exact go _ _ rfl
  | goto t => exact go _ _ rfl
  | ended r => exact go _ _ rfl

theorem quiet_retire (s : State) (i : Instr) (h : Hdr) (n : Next) : Quiet s (s.retire i h n) := quiet_retireAt ..

theorem quiet_stallOn (s : State) (w : Wait) : Quiet s (s.stallOn w) := Quiet.modMe _ _ fun _ => rfl

theorem quiet_popHead (s : State) (q : Nat) : Quiet s (s.popHead q) := Quiet.ite (Quiet.refl s) (quiet_known ..)

theorem quiet_issued (s : State) (i : Instr) (h : Hdr) (sig : SigBy) (t : State) (n : Next) :
    Quiet t (s.issued i h sig t n) := by
  unfold State.issued
  refine Quiet.trans ?_ ((Quiet.foldl State.popHead quiet_popHead _ _).trans ((quiet_perfMe ..).trans (quiet_retire ..)))
  exact Quiet.ite (Quiet.modMe _ _ fun _ => rfl) (Quiet.refl t)

theorem quiet_modTok (s : State) (tok : Tbl Nat) : Quiet s (s.modMyCtx fun x => { x with tok := tok }) :=
  Quiet.modCtx _ _ _ fun _ => ⟨rfl, rfl, rfl⟩

/-- Every state that an act may leave. -/
def Act.All (P : State → Prop) : Act → Prop
  | .fault _ => True
  | .faultIn s _ => P s
  | .stall _ s => P s
  | .done s _ => P s

theorem Act.All.mono {P Q : State → Prop} {a : Act} (h : a.All P) (f : ∀ s, P s → Q s) : a.All Q := by
  cases a with
  | fault => trivial
  | faultIn s _ => exact f s h
  | stall _ s => exact f s h
  | done s _ => exact f s h

/-- What a word's act leaves true, and quiet steps keep, is true when the word has been executed, issue or not. -/
theorem issue_keeps {P : State → Prop} (hq : ∀ {u v}, P u → Quiet u v → P v) {s : State} {i : Instr} {h : Hdr} {m : Meaning}
    (hs : P s) (hm : (m.act (s.taken h)).All P) : P (s.issue i h m) := by
  have stall (w : Wait) : P (s.stallOn w) := hq hs (quiet_stallOn s w)
  unfold State.issue
  dsimp only
  split
  · exact stall _
  split
  · split
    · exact stall _
    · exact hq hs (quiet_retire ..)
  split
  · exact hq hs (quiet_retireAt ..)
  split
  · exact hq hs (quiet_precise ..)
  split
  · exact stall _
  split
  · exact stall _
  split
  · split
    · exact stall _
    · exact hq hs (quiet_precise ..)
  · next u f e =>
    rw [e] at hm
    split
    · exact stall _
    · exact hq (hq hm (quiet_modTok u _)) (quiet_precise ..)
  · next w u e =>
    rw [e] at hm
    split
    · exact stall _
    · exact hq (hq hm (quiet_modTok u _)) (quiet_stallOn ..)
  · next u n e =>
    rw [e] at hm
    split
    · exact stall _
    · exact hq hm (quiet_issued ..)

theorem runWord_keeps {P : State → Prop} (hq : ∀ {u v}, P u → Quiet u v → P v) {s t : State} {i : Instr} {h : Hdr} {m : Meaning}
    (e : runWord i h m s = .next t) (hs : P s) (hm : (m.act (s.taken h)).All P) : P t := by
  unfold runWord at e
  split at e
  · cases e; exact issue_keeps hq hs hm
  · cases e

/-- A meaning whose every outcome is quiet. -/
def Meaning.Quiet (m : Meaning) : Prop := ∀ s, (m.act s).All (Machine.Quiet s)

/-- A word whose meaning is quiet. -/
def QuietWord (i : Instr) : Prop := ∃ (h : Hdr) (m : Meaning), m.Quiet ∧ ∀ s, exec i s = runWord i h m s

theorem QuietWord.of {i : Instr} {h : Hdr} {m : Meaning} (e : ∀ s, exec i s = runWord i h m s) (q : m.Quiet) : QuietWord i :=
  ⟨h, m, q, e⟩

theorem QuietWord.act {i : Instr} {h : Hdr} {reads : List Loc} {sig : SigBy} {f : State → Act}
    (e : ∀ s, exec i s = runWord i h ⟨reads, sig, f⟩ s) (q : ∀ s, (f s).All (Quiet s)) : QuietWord i :=
  ⟨h, ⟨reads, sig, f⟩, q, e⟩

theorem QuietWord.exec {i : Instr} (q : QuietWord i) {s t : State} (e : exec i s = .next t) : Machine.Quiet s t := by
  obtain ⟨h, m, hm, he⟩ := q
  rw [he] at e
  exact runWord_keeps Machine.Quiet.trans e (Machine.Quiet.refl s)
    ((hm _).mono fun u hu => (quiet_taken s h).trans hu)

/-! Acts by their form. -/

section
variable {P : State → Prop}

theorem Act.All.ite {b : Prop} [Decidable b] {x y : Act} (hx : b → x.All P) (hy : ¬ b → y.All P) :
    (if b then x else y).All P := by
  split
  · exact hx ‹_›
  · exact hy ‹_›

end

theorem quiet_laterBy (s : State) (extra cls : Nat) (res : List Res) : Quiet s (s.laterBy extra cls res) :=
  Quiet.ite (Quiet.refl s) (Quiet.modMe _ _ fun _ => rfl)
theorem quiet_later (s : State) (cls : Nat) (res : List Res) : Quiet s (s.later cls res) := quiet_laterBy ..
theorem quiet_laterN (s : State) (n : Nat) (res : List Res) : Quiet s (s.laterN n res) :=
  Quiet.ite (Quiet.refl s) (Quiet.modMe _ _ fun _ => rfl)

theorem compute_quiet (reads : List Loc) (cls : Nat) (f : State → List Res) : (compute reads cls f).Quiet :=
  fun s => quiet_later s cls (f s)

theorem quiet_closeRows (s : State) (n : Nat) : Quiet s (s.closeRows n) := by
  unfold State.closeRows
  dsimp only
  refine Quiet.ite (Quiet.refl s) ((Quiet.foldl State.closeRow (fun _ _ => Quiet.of_same rfl rfl rfl) (s.core n).open_ s).trans ?_)
  exact Quiet.modCore _ _ _ fun _ => ⟨rfl, rfl, rfl⟩

theorem quiet_passStores (s : State) (k : Who) : Quiet s (s.passStores k) :=
  Quiet.ite (Quiet.of_same rfl rfl rfl) (Quiet.refl s)

theorem quiet_release {s t : State} {k : Who} {scope : Nat} (h : s.release k scope = some t) : Quiet s t := by
  unfold State.release at h
  split at h
  · cases h
  split at h
  · cases h; exact Quiet.refl s
  · cases h; exact (quiet_passStores ..).trans (quiet_closeRows ..)

theorem KnownOnly.quiet {s t : State} (k : KnownOnly s t) : Quiet s t := (Mild.known k).quiet

theorem quiet_releaseFence (s : State) (k : Who) (scope : Nat) : Quiet s (s.releaseFence k scope) :=
  Quiet.ite (quiet_hand ..) (Quiet.refl s)

theorem quiet_acquireReads (s : State) (k : Who) (scope : Nat) : Quiet s (s.acquireReads k scope) := by
  unfold State.acquireReads
  refine Quiet.ite (Quiet.refl s) (Quiet.foldl _ (fun t e => ?_) _ s)
  split
  · exact Quiet.ite (quiet_teach ..) (Quiet.refl t)
  · exact Quiet.refl t

theorem quiet_barrierCheck (s : State) (d b : Nat) : Quiet s (s.barrierCheck d b) := by
  unfold State.barrierCheck
  dsimp only
  obtain ⟨kn, e⟩ := meetAll_eq s ((s.die d).arrivers b)
  rw [e]
  refine Quiet.ite (Quiet.refl s) (Quiet.trans ?_ (Quiet.foldl _ (fun t k => Quiet.modClu t k _ fun _ => by rfl) _ _))
  exact (quiet_known s kn).trans (Quiet.modDie _ _ _ fun _ => by rfl)

theorem quiet_postg (s : State) (l : Tbl (Nat × Nat × Nat × Nat)) (n : Nat) :
    Quiet s { s with postg := l, postgNext := n } := Quiet.of_same rfl rfl rfl

/-! The SC unit. -/

theorem guarded_all {P : State → Prop} {s : State} {a : Act} (h : a.All P) : (s.guarded a).All P :=
  Act.All.ite (fun _ => trivial) fun _ => h

theorem withMark_all {s : State} {f : Bool → Act} (h : ∀ b, (f b).All (Quiet s)) : (s.withMark f).All (Quiet s) := by
  unfold State.withMark
  split
  · exact Quiet.modMe _ _ fun _ => rfl
  · exact h _

theorem startLoop_all (s : State) (i : Instr) (count len : Nat) (shape : Option (Nat × Nat)) :
    (s.startLoop i count len shape).All (Quiet s) := by
  unfold State.startLoop
  dsimp only
  refine Act.All.ite (fun _ => trivial) fun _ => Act.All.ite (fun _ => Quiet.refl s) fun _ => ?_
  cases shape with
  | none => exact Quiet.modMe _ _ fun _ => rfl
  | some p => exact Quiet.trans (Quiet.modMe _ _ fun _ => by rfl) (Quiet.modMe _ _ fun _ => by rfl)

theorem jumpReg_quiet (r : Nat) (ends : Bool) : (jumpReg r ends).Quiet := fun s =>
  Act.All.ite (fun _ => trivial) fun _ => Quiet.refl s


theorem quietWord_brkl (h : Hdr) (p : BitVec 3) (n : BitVec 1) : QuietWord (.brkl h p n) := by
  refine QuietWord.act (fun _ => rfl) fun s => ?_
  refine Act.All.ite (fun _ => Quiet.refl s) fun _ => Act.All.ite (fun _ => ?_) fun _ => ?_
  · exact Quiet.modMe _ _ fun _ => rfl
  · exact Quiet.modMe _ _ fun _ => rfl

theorem quietWord_tail (h : Hdr) : QuietWord (.tail h) := by
  refine QuietWord.act (fun _ => rfl) fun s => ?_
  exact Act.All.ite (fun _ => Quiet.refl s) fun _ => Act.All.ite (fun _ => Quiet.refl s) fun _ =>
    Act.All.ite (fun _ => Quiet.refl s) fun _ => Quiet.refl s

theorem quietWord_await (h : Hdr) (f : BitVec 5) : QuietWord (.await h f) := by
  refine QuietWord.act (fun _ => rfl) fun s => ?_
  refine Act.All.ite (fun _ => ?_) fun _ => Quiet.refl s
  refine Quiet.trans ?_ (quiet_traceClu ..)
  refine (quiet_hand s (.flag s.cur.core s.cur.ctx f.toNat) (.clu s.cur)).trans ?_
  exact Quiet.modCtx _ _ _ fun _ => ⟨rfl, rfl, rfl⟩

theorem quietWord_postg (h : Hdr) (f a : BitVec 5) : QuietWord (.postg h f a) := by
  refine QuietWord.act (fun _ => rfl) fun s => guarded_all ?_
  dsimp only
  split
  · trivial
  split
  · exact Quiet.refl s
  · next t e =>
    refine (quiet_release e).trans ((quiet_hand t (.clu t.cur) (.post t.postgNext)).trans ?_)
    exact quiet_postg _ _ _

theorem quietWord_bar (h : Hdr) (n : BitVec 4) : QuietWord (.bar h n) := by
  refine QuietWord.act (fun _ => rfl) (fun s => guarded_all (Act.All.ite (fun _ => Quiet.refl s) fun _ => Act.All.ite (fun _ => Quiet.refl s) fun _ => ?_))
  split
  · exact Quiet.refl s
  · next t e =>
    refine (quiet_release e).trans (Quiet.trans ?_ (quiet_barrierCheck ..))
    exact Quiet.trans (Quiet.modMe _ _ fun _ => by rfl) (Quiet.modDie _ _ _ fun _ => by rfl)

theorem quietWord_fence (h : Hdr) (c o : BitVec 2) : QuietWord (.fence h c o) := by
  refine QuietWord.act (fun _ => rfl) fun s => ?_
  have acq : Quiet s (if o.getLsbD 0 then s.acquireReads s.cur c.toNat else s) :=
    Quiet.ite (quiet_acquireReads ..) (Quiet.refl s)
  refine Act.All.ite (fun _ => Quiet.refl s) fun _ => Act.All.ite (fun _ => ?_) fun _ => acq
  refine Act.All.ite (fun _ => Quiet.refl s) fun _ => ?_
  split
  · exact Quiet.refl s
  · next t e => exact acq.trans ((quiet_release e).trans (quiet_releaseFence ..))

/-- R26 for the words of SC: results land later; flags, barriers and messages take effect at the end of the cc. -/
theorem quietWord_sc (i : Instr) (hu : i.unit? = some .sc) : QuietWord i := by
  cases i with
  | nop => exact QuietWord.act (fun _ => rfl) (fun s => Quiet.refl s)
  | add | sub | mul | mulhs | mulhn | divs | divn | rems | remn | and | or | xor | andn | shl | shr | sha | rol | min | max
  | minn | maxn | clz | popc | bfx | bfi | addi | shli | shri | shai | andi | li | lih | mov | cmov | cmpeq | cmpne | cmplt
  | cmple | cmpltn | cmplen | pand | por | pxor | rds => exact QuietWord.of (fun _ => rfl) (compute_quiet _ _ _)
  | br | jmp => exact QuietWord.act (fun _ => rfl) (fun s => Quiet.refl s)
  | jmpr | ret => exact QuietWord.of (fun _ => rfl) (jumpReg_quiet _ _)
  | call => exact QuietWord.act (fun _ => rfl) (fun s => quiet_later s _ _)
  | loop | loopi | loopp => exact QuietWord.act (fun _ => rfl) (fun s => startLoop_all s _ _ _ _)
  | brkl => exact quietWord_brkl ..
  | endStream => exact QuietWord.act (fun _ => rfl) (fun s => Quiet.refl s)
  | tail => exact quietWord_tail ..
  | post =>
    refine QuietWord.act (fun _ => rfl) fun s => ?_
    exact (quiet_hand s _ _).trans (Quiet.modCtx _ _ _ fun _ => ⟨rfl, rfl, rfl⟩)
  | await => exact quietWord_await ..
  | postg => exact quietWord_postg ..
  | bar => exact quietWord_bar ..
  | fence => exact quietWord_fence ..
  | wrs | seed | view => exact QuietWord.act (fun _ => rfl) (fun s => Act.All.ite (fun _ => trivial) fun _ => quiet_laterN s _ _)
  | setrm => exact QuietWord.act (fun _ => rfl) (fun s => quiet_laterN s _ _)
  | mark =>
    refine QuietWord.act (fun _ => rfl) fun s => withMark_all fun b => ?_
    exact Act.All.ite (fun _ => trivial) fun _ => quiet_traceClu s _ _ _
  | markq =>
    refine QuietWord.act (fun _ => rfl) fun s => withMark_all fun b => ?_
    exact (quiet_traceClu s _ _ _).trans (quiet_later _ _ _)
  | trap => exact QuietWord.act (fun _ => rfl) (fun s => trivial)
  | bkpt =>
    exact QuietWord.act (fun _ => rfl) (fun s => Act.All.ite (fun _ => Quiet.modCtx _ _ _ fun _ => ⟨rfl, rfl, rfl⟩) fun _ => trivial)
  | _ => cases hu

/-! The CK unit. -/

theorem quiet_acquireRows (s : State) (rows : List QRow) : Quiet s (s.acquireRows rows) :=
  Quiet.foldl _ (fun t _ => quiet_hand t _ _) rows s

/-- A source that is there pops its rows, and marks CIR for poison. -/
theorem quiet_source {s t : State} {o : VOp} {w : Nat} {g : List Nat} (e : s.source o w = some (t, g)) : Quiet s t := by
  unfold State.source at e
  split at e
  · cases e; exact Quiet.refl s
  · split at e
    · cases e
    · next rows rest _ =>
      cases e
      refine (quiet_acquireRows s rows).trans ?_
      exact Quiet.modCtx _ _ _ fun x => by unfold Ctx.setCir; split <;> exact ⟨rfl, rfl, rfl⟩

theorem ckSource_all {s : State} {a : BitVec 5} {f : State → Nat → Act} (hf : ∀ t v, Quiet s t → (f t v).All (Quiet s)) :
    (s.ckSource a f).All (Quiet s) := by
  unfold State.ckSource
  split
  · split
    · exact Quiet.refl s
    · split
      · exact Quiet.refl s
      · next t g e => exact hf t _ (quiet_source e)
  · split
    · exact Quiet.refl s
    · exact hf s _ (Quiet.refl s)

/-- R26 for the words of CK. -/
theorem quietWord_ck (i : Instr) (hu : i.unit? = some .ck) : QuietWord i := by
  cases i with
  | sigclr | provclr => exact QuietWord.of (fun _ => rfl) (compute_quiet _ _ _)
  | sigfold => exact QuietWord.act (fun _ => rfl) fun s => ckSource_all fun t v q => q.trans (quiet_later t _ _)
  | csacc =>
    refine QuietWord.act (fun _ => rfl) fun s => ?_
    dsimp only
    split
    · trivial
    · exact Act.All.ite (fun _ => trivial) fun _ => ckSource_all fun t v q => q.trans (quiet_later t _ _)
  | cschk => exact QuietWord.act (fun _ => rfl) fun s => Act.All.ite (fun _ => quiet_later s _ _) fun _ => trivial
  | chkerr =>
    refine QuietWord.act (fun _ => rfl) fun s => Act.All.ite (fun _ => Quiet.refl s) fun _ => Act.All.ite (fun _ => Quiet.refl s)
      fun _ => Act.All.ite (fun _ => trivial) fun _ => ?_
    exact Quiet.modCtx _ _ _ fun _ => ⟨rfl, rfl, rfl⟩
  | provrd =>
    exact QuietWord.act (fun _ => rfl) fun s => Act.All.ite (fun _ => trivial) fun _ => Act.All.ite (fun _ => quiet_later s _ _)
      fun _ => quiet_later s _ _
  | _ => cases hu

/-! The MX unit. -/

theorem quiet_pushMx (s : State) (i : Instr) (ta tb fmt : Word) : Quiet s (s.pushMx i ta tb fmt) := by
  unfold State.pushMx
  exact Quiet.modCore _ _ _ fun _ => ⟨rfl, rfl, rfl⟩

theorem quiet_countSr (s : State) (code : BitVec 2) : Quiet s (s.countSr code) :=
  Quiet.ite ((quiet_perfMe s 23).trans (Quiet.modMe _ _ fun _ => by rfl)) (Quiet.refl s)

theorem mxPop_all (s : State) (i : Instr) (acc : Nat) (ta tb : Word) (fmtOk addrOk : Word → Bool) (rounds : Bool) :
    (s.mxPop i acc ta tb fmtOk addrOk rounds).All (Quiet s) := by
  unfold State.mxPop
  refine Act.All.ite (fun _ => Quiet.refl s) fun _ => ?_
  split
  · trivial
  · next w rest _ =>
    refine Act.All.ite (fun _ => trivial) fun _ => Act.All.ite (fun _ => trivial) fun _ => Act.All.ite (fun _ => trivial) fun _ => ?_
    have pop : Quiet s ((s.pushMx i ta tb w).modMyCtx fun x => { x with fmtq := rest, popped := x.popped + 1 }) :=
      (quiet_pushMx s i ta tb w).trans (Quiet.modCtx _ _ _ fun _ => ⟨rfl, rfl, rfl⟩)
    exact pop.trans (Quiet.ite (quiet_countSr ..) (Quiet.refl _))

/-- R26 for the words of MX: they push commands. -/
theorem quietWord_mx (i : Instr) (hu : i.unit? = some .mx) : QuietWord i := by
  cases i with
  | mma | mmas | mldacc | mstacc => exact QuietWord.act (fun _ => rfl) fun s => mxPop_all s _ _ _ _ _ _ _
  | mzero =>
    exact QuietWord.act (fun _ => rfl) fun s => Act.All.ite (fun _ => Quiet.refl s) fun _ => Act.All.ite (fun _ => trivial)
      fun _ => quiet_pushMx s _ _ _ _
  | mckrd =>
    refine QuietWord.act (fun _ => rfl) fun s => Act.All.ite (fun _ => trivial) fun _ => Act.All.ite (fun _ => Quiet.refl s)
      fun _ => Quiet.trans ?_ (quiet_laterN ..)
    exact Quiet.of_same rfl rfl rfl
  | mdrain =>
    exact QuietWord.act (fun _ => rfl) fun s => Act.All.ite (fun _ => Quiet.refl s) fun _ => quiet_pushMx s _ _ _ _
  | _ => cases hu

/-! The EN unit. -/

theorem quiet_pushEn (s : State) (q : EnQueue) (i : Instr) (d a b b1 : Word) : Quiet s (s.pushEn q i d a b b1) := by
  unfold State.pushEn
  refine Quiet.modCore _ _ _ fun _ => ?_
  cases q <;> exact ⟨rfl, rfl, rfl⟩

theorem enWord_quiet (q : EnQueue) (i : Instr) (reads : List Nat) (d a b b1 : State → Word) (bad : State → Option Nat) :
    (enWord q i reads d a b b1 bad).Quiet := by
  intro s
  unfold enWord mxMeaning
  dsimp only
  split
  · trivial
  · exact Act.All.ite (fun _ => Quiet.refl s) fun _ => quiet_pushEn s _ _ _ _ _ _

theorem copyWord_quiet (i : Instr) (t a b : BitVec 5) : (copyWord i t a b).Quiet := fun s =>
  Act.All.ite (fun _ => Quiet.refl s) fun _ => Act.All.ite (fun _ => Quiet.refl s) fun _ =>
    (quiet_pushEn s .copy i 0 (sval a s) (sval b s) 0).trans (Quiet.modCtx _ _ _ fun _ => ⟨rfl, rfl, rfl⟩)

theorem quietWord_eres (h : Hdr) (d : BitVec 5) (f : BitVec 2) : QuietWord (.eres h d f) := by
  refine QuietWord.act (fun _ => rfl) fun s => ?_
  dsimp only
  split
  · exact Quiet.refl s
  · next e r _ =>
    refine Act.All.ite (fun _ => trivial) fun _ => Quiet.trans (Quiet.trans ?_ (quiet_teach ..)) (quiet_later ..)
    exact Quiet.modCtx _ _ _ fun _ => by split <;> exact ⟨rfl, rfl, rfl⟩

/-- R26 for the words of EN: they push commands, and read tokens and results. -/
theorem quietWord_en (i : Instr) (hu : i.unit? = some .en) : QuietWord i := by
  cases i with
  | fmtpush =>
    refine QuietWord.act (fun _ => rfl) fun s => Act.All.ite (fun _ => Quiet.refl s) fun _ => ?_
    exact Quiet.modCtx _ _ _ fun _ => ⟨rfl, rfl, rfl⟩
  | cpy | cpyl => exact QuietWord.of (fun _ => rfl) (copyWord_quiet _ _ _ _)
  | cpyw =>
    exact QuietWord.act (fun _ => rfl) fun s => Act.All.ite (fun _ => Quiet.refl s) fun _ => Act.All.ite (fun _ => trivial)
      fun _ => quiet_hand s _ _
  | cpyq =>
    exact QuietWord.act (fun _ => rfl) fun s => Act.All.ite (fun _ => quiet_later s _ _) fun _ => Act.All.ite (fun _ => trivial)
      fun _ => (quiet_hand s _ _).trans (quiet_later _ _ _)
  | rput | rget | ratom | rfence | cred | cbcast | taskq | launch | almld | almclr | cbld =>
    exact QuietWord.of (fun _ => rfl) (enWord_quiet _ _ _ _ _ _ _ _)
  | eres => exact quietWord_eres ..
  | _ => cases hu

/-- Settles O56: every word of the four units is quiet. -/
theorem scalarCheckEngineWordsChangeNoRegisterAtOnce : Obligations.ScalarCheckEngineWordsChangeNoRegisterAtOnce := by
  intro s t i hu e
  have q : Quiet s t := by
    obtain hu | hu | hu | hu := hu
    · exact (quietWord_sc i hu).exec e
    · exact (quietWord_ck i hu).exec e
    · exact (quietWord_en i hu).exec e
    · exact (quietWord_mx i hu).exec e
  exact ⟨q.keepsRegs, q.keepsBytes⟩

end Sys2Proof.Machine
end

section
/-! SUPPORT. What the words of the VE unit leave unchanged in the sc in which they are executed (R26). -/

namespace Sys2Proof.Machine

/-! Sources and destinations of VE words. -/

theorem quiet_sources : ∀ (l : List (VOp × Nat)) {s t : State} {gs : List (List Nat)}, s.sources l = some (t, gs) → Quiet s t := by
  intro l
  induction l with
  | nil => intro s t gs e; cases e; exact Quiet.refl s
  | cons e r ih =>
    obtain ⟨o, w⟩ := e
    intro s t gs e
    unfold State.sources at e
    split at e
    · cases e
    · next u g hu =>
      obtain ⟨⟨v, gs'⟩, hv, he⟩ := Option.map_eq_some_iff.1 e
      cases he
      exact (quiet_source hu).trans (ih hv)

theorem quiet_writeGroup (s : State) (d : VOp) (f : Fmt) (w : Nat) (es : List (Option Nat)) :
    Quiet s (s.writeGroup d f w es).1 := by
  unfold State.writeGroup
  cases d with
  | reg n => exact Quiet.refl s
  | que q => exact Quiet.modCtx _ _ _ fun _ => ⟨rfl, rfl, rfl⟩

theorem vecRun_all (s : State) (cls : Nat) (srcs : List (VOp × Nat)) (dst : VOp) (td : Fmt) (wd : Nat) (code : BitVec 2)
    (f : List (List Nat) → List (Option Nat) × Nat) : (s.vecRun cls srcs dst td wd code f).All (Quiet s) := by
  unfold State.vecRun
  refine Act.All.ite (fun _ => trivial) fun _ => Act.All.ite (fun _ => Quiet.refl s) fun _ => Act.All.ite (fun _ => Quiet.refl s)
    fun _ => ?_
  split
  · exact Quiet.refl s
  · next t gs e =>
    exact (quiet_sources srcs e).trans ((quiet_writeGroup t dst td wd _).trans ((quiet_countSr ..).trans (quiet_later ..)))

theorem oneReg_all (s : State) (cls : Nat) (md : Option ModF) (srcs : List VOp) (dst : VOp) (td : Fmt)
    (f : List Nat → Nat → Nat) : (s.oneReg cls md srcs dst td f).All (Quiet s) := vecRun_all ..

theorem VSpec.mean_quiet (v : VSpec) (md : Option ModF) (d : BitVec 5) : (v.mean md d).Quiet := by
  intro s
  show (v.act md d s).All (Quiet s)
  unfold VSpec.act
  dsimp only
  split
  · trivial
  split
  · trivial
  exact Act.All.ite (fun _ => trivial) fun _ => vecRun_all ..

theorem maskAct_all (cls : Nat) (md : Option ModF) (k : BitVec 3) (a b : BitVec 5) (ok : Fmt → Bool) (f : Fmt → Nat → Nat → Bool)
    (s : State) : (maskAct cls md k a b ok f s).All (Quiet s) := by
  unfold maskAct
  dsimp only
  split
  · trivial
  refine Act.All.ite (fun _ => trivial) fun _ => Act.All.ite (fun _ => Quiet.refl s) fun _ => ?_
  split
  · exact Quiet.refl s
  · next t gs e => exact (quiet_sources _ e).trans (quiet_later ..)

theorem maskMeaning_quiet (reads : List Loc) (cls : Nat) (md : Option ModF) (k : BitVec 3) (a b : BitVec 5) (ok : Fmt → Bool)
    (f : Fmt → Nat → Nat → Bool) : (meaning reads (maskAct cls md k a b ok f)).Quiet := maskAct_all cls md k a b ok f

theorem splat_all (s : State) (cls : Nat) (md : Option ModF) (d : BitVec 5) (v : Nat) : (s.splat cls md d v).All (Quiet s) := by
  unfold State.splat
  split
  · trivial
  · exact oneReg_all ..

theorem pair_all {s : State} {d a b : BitVec 5} {f : Fmt → Act} (hf : ∀ t, (f t).All (Quiet s)) : (s.pair d a b f).All (Quiet s) := by
  unfold State.pair
  split
  · trivial
  · exact Act.All.ite (fun _ => hf _) fun _ => trivial

theorem reduceWord_quiet (op : Nat) (md : Option ModF) (d a : BitVec 5) : (reduceWord op md d a).Quiet := by
  intro s
  unfold reduceWord
  rw [meaning_act]
  split
  · trivial
  split
  · trivial
  exact Act.All.ite (fun _ => trivial) fun _ => vecRun_all ..

theorem tileSum_quiet (row : Bool) (md : Option ModF) (d : BitVec 5) : (tileSum row md d).Quiet := by
  intro s
  unfold tileSum
  rw [meaning_act]
  dsimp only
  split
  · trivial
  split
  · trivial
  exact Act.All.ite (fun _ => trivial) fun _ => Act.All.ite (fun _ => Quiet.refl s) fun _ => vecRun_all ..

theorem maskWord_quiet (reads : List Loc) (d : BitVec 3) (f : Cluster → Nat) : (maskWord reads d f).Quiet :=
  compute_quiet _ _ _

/-! Words of VE with acts of their own. -/

theorem quietWord_vperm (h : Hdr) (md : Option ModF) (d a b : BitVec 5) : QuietWord (.vperm h md d a b) := by
  refine QuietWord.act (fun _ => rfl) fun s => ?_
  dsimp only
  split
  · trivial
  · split
    · exact Act.All.ite (fun _ => trivial) fun _ => vecRun_all ..
    · trivial

theorem quietWord_vext (h : Hdr) (md : Option ModF) (d a b : BitVec 5) : QuietWord (.vext h md d a b) := by
  refine QuietWord.act (fun _ => rfl) fun s => ?_
  dsimp only
  split
  · trivial
  refine Act.All.ite (fun _ => Quiet.refl s) fun _ => ?_
  split
  · exact Quiet.refl s
  · next t g e => exact (quiet_source e).trans (quiet_later ..)

theorem quietWord_idot4 (h : Hdr) (md : Option ModF) (d a b : BitVec 5) : QuietWord (.idot4 h md d a b) := by
  refine QuietWord.act (fun _ => rfl) fun s => ?_
  dsimp only
  split
  · trivial
  split
  · trivial
  exact Act.All.ite (fun _ => trivial) fun _ => vecRun_all ..

theorem quietWord_commit (h : Hdr) (t : BitVec 5) : QuietWord (.commit h t) := by
  refine QuietWord.act (fun _ => rfl) fun s => ?_
  dsimp only
  split
  · exact Act.All.ite (fun _ => Quiet.refl s) fun _ => trivial
  · next i l _ =>
    have free : Quiet s (s.modMyCore fun c => { c with land := tblErase c.land i }) := Quiet.modCore _ _ _ fun _ => ⟨rfl, rfl, rfl⟩
    exact Act.All.ite (fun _ => Quiet.refl s) fun _ => Act.All.ite (fun _ => free) fun _ => Act.All.ite (fun _ => free)
      fun _ => free.trans ((quiet_teach ..).trans (quiet_laterN ..))

/-- R26 for the words of VE: element-wise words, compares, moves, reductions, tile words, mask words and landing slots. -/
theorem quietWord_ve (i : Instr) (hu : i.unit? = some .ve) : QuietWord i := by
  cases i with
  | fadd | fsub | fmul | fma | fms | fnma | fdiv | fsqrt | fcvt | fmin | fmax | fabs | fneg | fclass | frcp | frsq | fexp2 | flog2
  | ftanh | fsigm | fsin | fcos | iadd | isub | imul | imulh | imad | imin | imax | iand | ior | ixor | ishl | ishr | isha | iadds =>
    exact QuietWord.of (fun _ => rfl) (VSpec.mean_quiet _ _ _)
  | fcmpeq | fcmplt | fcmple | icmpeq | icmplt | icmpltn | tcmplt =>
    exact QuietWord.of (fun _ => rfl) (maskMeaning_quiet _ _ _ _ _ _ _ _)
  | idot4 => exact quietWord_idot4 ..
  | vmov =>
    refine QuietWord.act (fun _ => rfl) fun s => ?_
    split
    · trivial
    split
    · trivial
    exact oneReg_all ..
  | vbcast | vli => exact QuietWord.act (fun _ => rfl) fun s => splat_all s _ _ _ _
  | vperm => exact quietWord_vperm ..
  | vshuf | vsel => exact QuietWord.act (fun _ => rfl) fun s => pair_all fun t => oneReg_all s _ _ _ _ _ _
  | vext => exact quietWord_vext ..
  | vins =>
    refine QuietWord.act (fun _ => rfl) fun s => ?_
    dsimp only
    split
    · trivial
    exact vecRun_all ..
  | vrsum | vrmax | vrmin => exact QuietWord.of (fun _ => rfl) (reduceWord_quiet _ _ _ _)
  | vrowsum | vcolsum => exact QuietWord.of (fun _ => rfl) (tileSum_quiet _ _ _)
  | vtrans =>
    refine QuietWord.act (fun _ => rfl) fun s => ?_
    dsimp only
    split
    · trivial
    exact Act.All.ite (fun _ => trivial) fun _ => Act.All.ite (fun _ => Quiet.refl s) fun _ => quiet_later ..
  | kand | kor | kxor | knot => exact QuietWord.of (fun _ => rfl) (maskWord_quiet _ _ _)
  | kpopc => exact QuietWord.of (fun _ => rfl) (compute_quiet _ _ _)
  | vwin => exact QuietWord.act (fun _ => rfl) fun s => Act.All.ite (fun _ => trivial) fun _ => quiet_laterN s _ _
  | commit => exact quietWord_commit ..
  | _ => cases hu

end Sys2Proof.Machine
end

section
/-! SUPPORT. What the words of the AC unit leave unchanged in the sc in which they are executed (R26, R233): their own
stores, and those that they find before them, change memories, and an atomic before them gives its cluster its value. -/

namespace Sys2Proof.Machine

/-- From s on, no frame store, no view, flag or barrier count has changed, and no register but those of clusters that had
an atomic in flight; memories are canonical if they were. -/
structure AcKeeps (s t : State) : Prop where
  regs : ∀ k, s.atomicOf k = false → (t.clu k).regs = (s.clu k).regs
  views : ∀ k, (t.ctxOf k).views = (s.ctxOf k).views
  flags : ∀ k, (t.ctxOf k).flags = (s.ctxOf k).flags
  counts : ∀ d, (t.die d).bcnt = (s.die d).bcnt
  frame : ∀ n, (t.core n).frame = (s.core n).frame
  wf : s.memWf = true → t.memWf = true

/-- The same, with no atomic in flight but of those clusters. -/
structure AcLive (s t : State) : Prop where
  keeps : AcKeeps s t
  atoms : ∀ e ∈ t.accs, e.2.atomic = true → s.atomicOf e.2.who = true

namespace AcKeeps
variable {s t u : State}

theorem refl (s : State) : AcKeeps s s := ⟨fun _ _ => rfl, fun _ => rfl, fun _ => rfl, fun _ => rfl, fun _ => rfl, id⟩

theorem quiet (a : AcKeeps s t) (q : Quiet t u) : AcKeeps s u where
  regs k hk := (q.regs k).trans (a.regs k hk)
  views k := (q.views k).trans (a.views k)
  flags k := (q.flags k).trans (a.flags k)
  counts d := (q.counts d).trans (a.counts d)
  frame n := (q.frame n).trans (a.frame n)
  wf w := q.wf (a.wf w)

/-- A change that leaves contexts, frame stores and dies, and memories canonical. -/
theorem same (a : AcKeeps s t) (hx : ∀ n, (u.core n).ctxs = (t.core n).ctxs) (hf : ∀ n, (u.core n).frame = (t.core n).frame)
    (hd : u.dies = t.dies) (hw : t.memWf = true → u.memWf = true) : AcKeeps s u := by
  have ctx (k : Who) : u.ctxOf k = t.ctxOf k := congrArg (tblGet Ctx.reset · k.ctx) (hx k.core)
  exact ⟨fun k hk => (congrArg (fun x => (Ctx.clu x k.clu).regs) (ctx k)).trans (a.regs k hk),
    fun k => (congrArg Ctx.views (ctx k)).trans (a.views k), fun k => (congrArg Ctx.flags (ctx k)).trans (a.flags k),
    fun d => (congrArg (fun l => (tblGet Die.reset l d).bcnt) hd).trans (a.counts d), fun n => (hf n).trans (a.frame n),
    fun w => hw (a.wf w)⟩

theorem outside (a : AcKeeps s t) (hc : u.cores = t.cores) (hd : u.dies = t.dies) (hw : t.memWf = true → u.memWf = true) :
    AcKeeps s u :=
  a.same (fun n => congrArg (fun c => (tblGet Core.reset c n).ctxs) hc) (fun n => congrArg (fun c => (tblGet Core.reset c n).frame) hc)
    hd hw

theorem settled (a : AcKeeps s t) : s.KeepsSettledRegs t where
  regs k hk := Cluster.sameRegs_of _ _ (a.regs k hk)
  views k n := by unfold Ctx.view; rw [a.views]
  flags k n := by unfold Ctx.flag; rw [a.flags]
  barriers d n := by unfold Die.barCount; rw [a.counts]

end AcKeeps

/-- An atomic in flight names its cluster among those with one. -/
theorem atomicOf_of_mem {s : State} {e : Nat × Acc} (h : e ∈ s.accs) (ha : e.2.atomic = true) : s.atomicOf e.2.who = true := by
  obtain ⟨i, a⟩ := e
  refine List.any_eq_true.2 ⟨(i, a), h, ?_⟩
  simp only [decide_true, Bool.true_and]
  exact ha

theorem AcLive.refl (s : State) : AcLive s s := ⟨AcKeeps.refl s, fun _ h ha => atomicOf_of_mem h ha⟩

theorem performs_acLive (s : State) : Performs (fun k => s.atomicOf k = true) (AcLive s) where
  mild m a := ⟨a.keeps.quiet m.quiet, by rw [m.accs]; exact a.atoms⟩
  atoms a := a.atoms
  accs l hl a := ⟨a.keeps.outside rfl rfl (memWf_of_same _ _ rfl rfl), hl⟩
  read sa tag a := ⟨a.keeps.outside (memBlind_cores.sysRead ..) (memBlind_dies.sysRead ..) (sysRead_wf _ _ _),
    by rw [memBlind_accs.sysRead]; exact a.atoms⟩
  write sa mask data pois tag a := ⟨a.keeps.outside (memBlind_cores.sysWrite ..) (memBlind_dies.sysWrite ..) (sysWrite_wf _ _ _ _ _ _),
    by rw [memBlind_accs.sysWrite]; exact a.atoms⟩
  words sa n tag a := ⟨a.keeps.outside (memBlind_cores.shaWords ..) (memBlind_dies.shaWords ..) (performs_wf.words _ _ _),
    by rw [memBlind_accs.shaWords]; exact a.atoms⟩
  host a n v h := ⟨h.keeps.outside rfl rfl (performs_wf.host _ _ _), h.atoms⟩
  spm n ad mask data pois a := ⟨a.keeps.same (spmWrite_coreFld Core.ctxs (fun _ _ _ => rfl) _ n ad mask data pois)
    (spmWrite_coreFld Core.frame (fun _ _ _ => rfl) _ n ad mask data pois) rfl (spmWrite_wf _ _ _ _ _ _), a.atoms⟩
  spmRead n ad tag a := ⟨a.keeps.same (spmRead_coreFld Core.ctxs (fun _ _ _ => rfl) _ n ad tag)
    (spmRead_coreFld Core.frame (fun _ _ _ => rfl) _ n ad tag) (spmRead_fld State.dies (fun _ _ => rfl) (fun _ _ _ _ => rfl) ..)
    (spmRead_wf _ _ _ _), by rw [spmRead_fld State.accs (fun _ _ => rfl) (fun _ _ _ _ => rfl)]; exact a.atoms⟩
  returns k sd v hk a := by
    refine ⟨⟨fun j hj => ?_, fun j => ?_, fun j => ?_, a.keeps.counts, fun n => ?_, fun w => memWf_modClu _ _ _ (a.keeps.wf w)⟩, a.atoms⟩
    · have ne : j ≠ k := fun e => by rw [e, hk] at hj; cases hj
      rw [clu_modClu_other _ _ _ _ ne]
      exact a.keeps.regs j hj
    · exact (ctxFld_modClu Ctx.views (fun _ _ _ => rfl) _ _ _ j).trans (a.keeps.views j)
    · exact (ctxFld_modClu Ctx.flags (fun _ _ _ => rfl) _ _ _ j).trans (a.keeps.flags j)
    · exact (coreFld_modCtx Core.frame (fun _ _ _ => rfl) _ k _ n).trans (a.keeps.frame n)

/-- A quiet step that leaves the accesses in flight. -/
theorem AcLive.quiet {s t u : State} (a : AcLive s t) (q : Quiet t u) (h : u.accs = t.accs) : AcLive s u :=
  ⟨a.keeps.quiet q, by rw [h]; exact a.atoms⟩

/-! Rows of the scratchpad. -/

theorem quiet_wakeCore (s : State) (n : Nat) : Quiet s (s.wakeCore n) := by
  unfold State.wakeCore
  split
  · exact Quiet.refl s
  · exact Quiet.modCore _ _ _ fun _ => ⟨rfl, rfl, rfl⟩
  · exact Quiet.modCore _ _ _ fun _ => ⟨rfl, rfl, rfl⟩

theorem AcLive.windowWakes {s t : State} (a : AcLive s t) (n : Nat) (win : Bool) : AcLive s (t.windowWakes n win) := by
  unfold State.windowWakes
  split
  · exact a.quiet (quiet_wakeCore t n) (wakeCore_fld State.accs (fun _ _ _ _ => rfl) t n)
  · exact a

theorem AcLive.sawOld {s t : State} (a : AcLive s t) (n : Nat) (e : OldRow) : AcLive s (t.sawOld n e) := by
  unfold State.sawOld
  split
  · exact a
  · generalize hu : t.modCore n _ = u
    have hq : Quiet t u := hu ▸ Quiet.modCore t n _ fun _ => ⟨rfl, rfl, rfl⟩
    have ha : u.accs = t.accs := by rw [← hu]; rfl
    refine a.quiet (hq.trans ?_) ((spmEvents_fld State.accs (fun _ _ => rfl) ..).trans ha)
    exact Quiet.of_same (spmEvents_fld State.cores (fun _ _ => rfl) ..) (spmEvents_fld State.dies (fun _ _ => rfl) ..)
      (spmEvents_fld State.mem (fun _ _ => rfl) ..)

section
variable {s : State}

theorem atWindow_all {t : State} {a : Word} {checked : Bool} {act : Act} (ht : AcLive s t) (ha : act.All (AcKeeps s)) :
    (t.atWindow a checked act).All (AcKeeps s) := by
  unfold State.atWindow
  split
  · next n _ =>
    exact Act.All.ite (fun _ => ht.keeps.quiet (quiet_wakeCore t n)) fun _ => Act.All.ite (fun _ => ht.keeps) fun _ => ha
  · exact ha

theorem storeWindow_all {t : State} {a : Word} {checked : Bool} {act : Act} (ht : AcLive s t) (ha : act.All (AcKeeps s)) :
    (t.storeWindow a checked act).All (AcKeeps s) := Act.All.ite (fun _ => ha) fun _ => atWindow_all ht ha

theorem spmGet_all {t : State} {a : Word} {checked : Bool} {f : State → Nat → Nat → Nat → Act} (ht : AcLive s t)
    (hf : ∀ u d p late, AcLive s u → (f u d p late).All (AcKeeps s)) : (t.spmGet a checked f).All (AcKeeps s) := by
  have p := performs_acLive s
  unfold State.spmGet
  split
  · trivial
  · next n win _ =>
    dsimp only
    refine atWindow_all ht ?_
    have h1 := ht.windowWakes n win
    generalize t.windowWakes n win = t1 at h1 ⊢
    have h2 := p.known (.loadCell _ t1.cur (2 ^ 64 + spmKey n a.toNat))
      (p.performOlder t1.accNext t1.cur.core (2 ^ 64 + spmKey n a.toNat) h1)
    generalize State.loadCell (t1.performOlder _ _ _) t1.cur _ = t2 at h2 ⊢
    split
    · trivial
    · next u hu =>
      have h3 : AcLive s u := by
        split at hu
        · exact p.mild (.plain hu) h2
        · cases hu; exact h2
      have h4 : AcLive s (if win then { u with free := u.free + 1 } else u) := by
        split
        · exact p.mild (s := u) (.of_same rfl rfl rfl rfl rfl rfl) h3
        · exact h3
      generalize (if win then { u with free := u.free + 1 } else u : State) = v at h4 ⊢
      split
      · exact hf _ _ _ _ (h4.sawOld n _)
      · exact hf _ _ _ _ (p.spmRead n _ _ h4)

theorem addAcc_live {t : State} {a : Acc} (ht : AcLive s t) (ha : a.atomic = false) : AcLive s (t.addAcc a) := by
  have p := performs_acLive s
  exact p.mild (s := { t with accs := tblPut t.accs t.accNext a }) (.of_same rfl rfl rfl rfl rfl rfl)
    (p.putAcc t.accNext a (fun h => by rw [ha] at h; cases h) ht)

theorem spmStore_live {t : State} (ht : AcLive s t) (n addr data : Nat) : AcLive s (t.spmStore n addr data) := by
  have p := performs_acLive s
  unfold State.spmStore
  exact p.spm _ _ _ _ _ (p.mild (.modCore _ _ _ fun _ => ⟨rfl, rfl, rfl, rfl, rfl⟩) ht)

theorem freeLock_same (c : Core) (addr : Nat) : (c.freeLock addr).ctxs = c.ctxs ∧ (c.freeLock addr).frame = c.frame ∧
    (c.freeLock addr).spm = c.spm ∧ (c.freeLock addr).power = c.power ∧ (c.freeLock addr).eng = c.eng := ⟨rfl, rfl, rfl, rfl, rfl⟩

theorem storeSpm_all {t : State} {a : Word} {checked unlock : Bool} {data : Nat} {bins : List (Nat × Nat)} {f : State → Act}
    (ht : AcLive s t) (hf : ∀ u, AcLive s u → (f u).All (AcKeeps s)) : (t.storeSpm a checked unlock data bins f).All (AcKeeps s) := by
  have p := performs_acLive s
  unfold State.storeSpm
  split
  · trivial
  · next n win _ =>
    dsimp only
    split
    · trivial
    split
    · have h1 : AcLive s (if checked then t.settleRow t.cur.core (spmKey n a.toNat) (2 ^ 64 + spmKey n a.toNat) else t) := by
        split
        · exact p.settleRow _ _ _ ht
        · exact ht
      have h2 := h1.windowWakes n true
      generalize State.windowWakes _ n true = u at h2 ⊢
      exact Act.All.ite (fun _ => trivial) fun _ => hf _ (addAcc_live (p.known (.afterFences ..) h2) rfl)
    · split
      · trivial
      · next u hu =>
        have h1 : AcLive s u := by
          split at hu
          · exact p.plainStore hu ht
          · cases hu; exact ht
        have h2 := p.known (.storeCell _ u.cur (2 ^ 64 + spmKey n a.toNat))
          (p.performOlder u.accNext u.cur.core (2 ^ 64 + spmKey n a.toNat) h1)
        have h3 := p.mild (.histWord _ n bins) (spmStore_live h2 n (a.toNat % 2 ^ 20) data)
        refine hf _ ?_
        split
        · exact p.mild (.modCore _ _ _ fun c => freeLock_same c _) h3
        · exact h3

theorem loadQueue_all {t : State} {q n : Nat} {a b : BitVec 5} {checked : Bool} {cir0 : Nat → Nat} {g : Nat → List Nat}
    (ht : AcLive s t) : (t.loadQueue q n a b checked cir0 g).All (AcKeeps s) := by
  unfold State.loadQueue
  refine Act.All.ite (fun _ => ht.keeps) fun _ => spmGet_all ht fun u d p late hu => ?_
  have hq : Quiet u (u.reserveLq u.cur q n).1 := Quiet.modCtx _ _ _ fun _ => ⟨rfl, rfl, rfl⟩
  exact hu.keeps.quiet (hq.trans ((quiet_laterBy ..).trans (quiet_later ..)))

end

theorem popStore_quiet {s t : State} {q n : Nat} {rows : List Nat} (e : s.popStore q n = some (t, rows)) :
    Quiet s t ∧ t.accs = s.accs := by
  unfold State.popStore at e
  split at e
  · cases e
  · next l rest _ =>
    cases e
    have hk : KnownOnly s (s.acquireRows l) := .foldl _ (fun t _ => .hand t _ _) l s
    exact ⟨hk.quiet.trans (Quiet.modCtx _ _ _ fun _ => ⟨rfl, rfl, rfl⟩), hk.fld State.accs fun _ _ => rfl⟩

theorem AcLive.popStore {s t u : State} {q n : Nat} {rows : List Nat} (a : AcLive s t) (e : t.popStore q n = some (u, rows)) :
    AcLive s u := a.quiet (popStore_quiet e).1 (popStore_quiet e).2

/-- Stores that pass the order point stay what they are. -/
theorem passStores_accs (s : State) (k : Who) (P : Acc → Prop) (hP : ∀ a, P a → P { a with passed := true })
    (h : ∀ e ∈ s.accs, P e.2) : ∀ e ∈ (s.passStores k).accs, P e.2 := by
  unfold State.passStores
  dsimp only
  split
  · intro e he
    obtain ⟨⟨j, b⟩, hb, rfl⟩ := List.mem_map.1 he
    dsimp only
    split
    · exact hP b (h _ hb)
    · exact h _ hb
  · exact h

theorem AcLive.release {s t u : State} {k : Who} {scope : Nat} (a : AcLive s t) (e : t.release k scope = some u) : AcLive s u := by
  refine ⟨a.keeps.quiet (quiet_release e), ?_⟩
  unfold State.release at e
  split at e
  · cases e
  split at e
  · cases e; exact a.atoms
  · cases e
    rw [closeRows_fld State.accs (fun _ _ => rfl) (fun _ _ => rfl)]
    exact passStores_accs t k (fun b => b.atomic = true → s.atomicOf b.who = true) (fun _ h => h) a.atoms

/-- A word whose every outcome is one that AC may leave. -/
def AcWord (i : Instr) : Prop := ∃ (h : Hdr) (m : Meaning), (∀ s, (m.act s).All (AcKeeps s)) ∧ ∀ s, exec i s = runWord i h m s

theorem AcWord.act {i : Instr} {h : Hdr} {reads : List Loc} {sig : SigBy} {f : State → Act}
    (e : ∀ s, exec i s = runWord i h ⟨reads, sig, f⟩ s) (q : ∀ s, AcLive s s → (f s).All (AcKeeps s)) : AcWord i :=
  ⟨h, ⟨reads, sig, f⟩, fun s => q s (AcLive.refl s), e⟩

theorem AcWord.of_quiet {i : Instr} (q : QuietWord i) : AcWord i := by
  obtain ⟨h, m, hm, e⟩ := q
  exact ⟨h, m, fun s => (hm s).mono fun _ q => (AcKeeps.refl s).quiet q, e⟩

theorem AcKeeps.taken {s : State} (h : Hdr) {t : State} (a : AcKeeps (s.taken h) t) : AcKeeps s t where
  regs k hk := by
    have e : (s.taken h).atomicOf k = s.atomicOf k := by unfold State.atomicOf; rw [taken_accs]
    exact (a.regs k (e.trans hk)).trans ((quiet_taken s h).regs k)
  views k := (a.views k).trans ((quiet_taken s h).views k)
  flags k := (a.flags k).trans ((quiet_taken s h).flags k)
  counts d := (a.counts d).trans ((quiet_taken s h).counts d)
  frame n := (a.frame n).trans ((quiet_taken s h).frame n)
  wf w := a.wf ((quiet_taken s h).wf w)

theorem AcWord.exec {i : Instr} (q : AcWord i) {s t : State} (e : exec i s = .next t) : AcKeeps s t := by
  obtain ⟨h, m, hm, he⟩ := q
  rw [he] at e
  exact runWord_keeps AcKeeps.quiet e (AcKeeps.refl s) ((hm _).mono fun _ a => a.taken h)

/-! The scratchpad words. -/

theorem also_all {P : State → Prop} {f : State → State} {a : Act} (h : a.All P) (hf : ∀ s, P s → P (f s)) : (a.also f).All P := by
  cases a with
  | done s n => exact hf s h
  | fault | faultIn | stall => exact h

theorem acWord_stqx (h : Hdr) (md : Option ModF) (r : BitVec 2) (c : BitVec 3) (q : BitVec 2) (a : BitVec 5) (p e : BitVec 1)
    (hist : BitVec 3) : AcWord (.stqx h md r c q a p e hist) := by
  refine AcWord.act (fun _ => rfl) fun s hs => ?_
  dsimp only
  split
  · exact hs.keeps
  · next t rows ht =>
    refine storeWindow_all hs (storeSpm_all (hs.popStore ht) fun u hu => ?_)
    exact hu.keeps.quiet ((quiet_countSr ..).trans ((quiet_laterN ..).trans (quiet_later ..)))

theorem AcLive.performUnlocks {s t : State} (a : AcLive s t) (n addr : Nat) : AcLive s (t.performUnlocks n addr) :=
  (performs_acLive s).performUnlocks n addr a

theorem acWord_ldl (h : Hdr) (q : BitVec 2) (a b : BitVec 5) : AcWord (.ldl h q a b) := by
  refine AcWord.act (fun _ => rfl) fun s hs => ?_
  dsimp only
  split
  · trivial
  · next n win _ =>
    refine atWindow_all hs ?_
    have h1 := (hs.windowWakes n win).performUnlocks n (s.me.areg a.toNat).toNat
    generalize State.performUnlocks _ _ _ = t at h1 ⊢
    split
    · exact Act.All.ite (fun _ => loadQueue_all h1) fun _ => h1.keeps
    · have hq : (t.loadQueue q.toNat 1 a b false (fun _ => 0) fun d => [d]).All (AcKeeps s) := loadQueue_all h1
      split
      · next u nx e =>
        rw [e] at hq
        refine AcKeeps.quiet hq ((quiet_hand u (.lock n (lockKey (s.me.areg a.toNat).toNat)) (.clu u.cur)).trans ?_)
        exact Quiet.modCore _ _ _ fun _ => ⟨rfl, rfl, rfl⟩
      · exact hq

theorem acWord_stu (h : Hdr) (q : BitVec 2) (a b : BitVec 5) : AcWord (.stu h q a b) := by
  refine AcWord.act (fun _ => rfl) fun s hs => ?_
  dsimp only
  split
  · trivial
  · next n win _ =>
    refine Act.All.ite (fun _ => trivial) fun _ => storeWindow_all hs ?_
    split
    · exact hs.keeps
    · next t ht =>
      split
      · exact hs.keeps
      · next u rows hu =>
        refine storeSpm_all ((performs_acLive s).known (.hand ..) ((hs.release ht).popStore hu)) fun v hv => ?_
        exact hv.keeps.quiet (quiet_later ..)

/-! Global words. -/

section
variable {s : State}

theorem translateAc_quiet {t u : State} {va : Word} (e : t.translateAc va = .wait u) : Quiet t u := by
  unfold State.translateAc at e
  dsimp only at e
  split at e
  · cases e
  split at e
  · cases e
  split at e
  · cases e
  · cases e
    exact (Quiet.ite (Quiet.refl t) (quiet_perf ..)).trans (Quiet.modMe _ _ fun _ => by rfl)

theorem withAddr_all {t : State} {va : Word} {f : Nat → Bool → Act} (ht : AcLive s t) (hf : ∀ sa w, (f sa w).All (AcKeeps s)) :
    (t.withAddr va f).All (AcKeeps s) := by
  unfold State.withAddr
  split
  · trivial
  · next u e => exact ht.keeps.quiet (translateAc_quiet e)
  · exact hf _ _

theorem perfCtx_live {t : State} (ev : Nat) (ht : AcLive s t) : AcLive s (t.perfCtx ev) := (performs_acLive s).mild (.perf ..) ht

theorem shaCheck_live {t u : State} {sa : Nat} {store : Bool} (e : t.shaCheck sa store = some u) (ht : AcLive s t) : AcLive s u := by
  have p := performs_acLive s
  unfold State.shaCheck at e
  split at e
  · split at e
    · exact p.plainStore e ht
    · exact p.mild (.plain e) ht
  · cases e; exact ht

theorem serveSlot_live {t : State} (i : Nat) (a : Acc) (f : Fill) (n : Nat) (ht : AcLive s t) : AcLive s (t.serveSlot i a f n) := by
  have p := performs_acLive s
  have h1 := p.performOlder i a.who.core a.place ht
  unfold State.serveSlot
  dsimp only
  split
  · exact p.putAcc i _ (fun h => nomatch h) h1
  · exact p.serveDirect _ _ _ _ h1

theorem globalLoad_all {t : State} {h : Hdr} {md : Option ModF} {q code : Nat} {a b : BitVec 5} (ht : AcLive s t) :
    (t.globalLoad h md q code a b).All (AcKeeps s) := by
  have p := performs_acLive s
  unfold State.globalLoad
  dsimp only
  refine Act.All.ite (fun _ => ht.keeps) fun _ => withAddr_all ht fun sa w => ?_
  split
  · trivial
  · next u hu =>
    have h1 : AcLive s (u.reserveLq u.cur q (loadRows code)).1 :=
      p.mild (.modCtx _ _ _ fun _ => ⟨rfl, rfl, rfl, rfl⟩) (shaCheck_live hu ht)
    have fin (x : State) (res : List Res) (hx : AcKeeps s x) :
        AcKeeps s ((if code = 8 then x else x.countSr (effCode md 0)).later 0 res) :=
      hx.quiet ((Quiet.ite (Quiet.refl x) (quiet_countSr ..)).trans (quiet_later ..))
    have own (x : State) (hx : AcLive s x) : AcKeeps s (if h.sig = 0 then x else
        x.modMe fun c => { c with sigs := c.sigs ++ [(c.sc, h.sig, c.sc)] }) :=
      hx.keeps.quiet (Quiet.ite (Quiet.refl x) (Quiet.modMe _ _ fun _ => by rfl))
    refine fin _ _ ?_
    split
    · refine iteInduction (motive := AcKeeps s) (fun _ => ?_) fun _ => ?_
      · refine (serveSlot_live _ _ _ _ (addAcc_live (p.mild (.modCore _ _ _ fun _ => ?_) (p.mild (.perf ..) h1)) rfl)).keeps
        exact ⟨rfl, rfl, rfl, rfl, rfl⟩
      · refine (addAcc_live (p.mild (.modCore _ _ _ fun _ => ?_) (p.mild (.perf ..) h1)) rfl).keeps
        exact ⟨rfl, rfl, rfl, rfl, rfl⟩
    split
    · exact own _ (addAcc_live (p.read _ _ (p.known (.loadCell ..) (perfCtx_live 17 h1))) rfl)
    · exact own _ (addAcc_live (perfCtx_live 17 h1) rfl)

theorem globalStore_all {t u : State} {va : Word} {data : Nat} {f : State → Act} (ht : AcLive s t) (hu : AcKeeps s u)
    (hf : ∀ v, AcLive s v → (f v).All (AcKeeps s)) : (t.globalStore va data u f).All (AcKeeps s) := by
  have p := performs_acLive s
  have sign (v : State) (hv : AcLive s v) (tk : Task) (row : Nat) : (f (v.signStore tk row 64 data)).All (AcKeeps s) :=
    hf _ (p.signStore _ _ _ _ hv)
  unfold State.globalStore
  refine withAddr_all ht fun sa w => ?_
  dsimp only
  split
  · trivial
  split
  · split
    · next v hv => exact sign _ (p.contain hv ht) ..
    · trivial
    · exact hu
  · split
    · trivial
    · next v hv =>
      have h1 := perfCtx_live 17 (shaCheck_live hv ht)
      split
      · exact sign _ (p.write _ _ _ _ _ (p.known (.storeCell ..) h1)) ..
      · exact sign _ (addAcc_live (p.known (.afterFences ..) h1) rfl) ..

theorem keepQueues_all {t : State} {a : Act} (h : a.All (AcKeeps s)) : (keepQueues t a).All (AcKeeps s) := by
  unfold keepQueues
  split
  · exact AcKeeps.quiet h (Quiet.modCtx _ _ _ fun _ => ⟨rfl, rfl, rfl⟩)
  · exact h

/-- The access of an atomic that blocks its cluster. -/
theorem quiet_starts (t : State) (a : Acc) : Quiet t ((t.addAcc a).modMe fun c => { c with blocked := true }) := by
  have h : Quiet t (t.addAcc a) := Quiet.of_same rfl rfl rfl
  exact h.trans (Quiet.modMe _ _ fun _ => rfl)

theorem atomic_all {t : State} {z : BitVec 1} {ord scp : BitVec 2} {va : Word} {op : Nat} {v new : Word} {sd : Nat}
    (ht : AcLive s t) : (t.atomic z ord scp va op v new sd).All (AcKeeps s) := by
  have p := performs_acLive s
  unfold State.atomic
  refine Act.All.ite (fun _ => trivial) fun _ => withAddr_all ht fun sa w => ?_
  dsimp only
  refine Act.All.ite (fun _ => trivial) fun _ => Act.All.ite (fun _ => trivial) fun _ => ?_
  split
  · exact ht.keeps
  · next u hu =>
    have h1 : AcLive s u := by
      split at hu
      · exact ht.release hu
      · cases hu; exact ht
    have h2 : AcLive s (if ord.getLsbD 1 then u.hand (.clu u.cur) (.acc u.accNext scp.toNat) else u) := by
      split
      · exact p.known (.hand ..) h1
      · exact h1
    generalize (if ord.getLsbD 1 then u.hand (.clu u.cur) (.acc u.accNext scp.toNat) else u) = v at h2 ⊢
    have h3 := perfCtx_live 17 (p.known (.afterFences v v.cur v.accNext) h2)
    exact h3.keeps.quiet (quiet_starts _ _)

end

/-- R26 and R233 for the words of AC. -/
theorem acWord (i : Instr) (hu : i.unit? = some .ac) : AcWord i := by
  cases i with
  | aadd | aaddi | asub | amov | ali | abase | ainc | mbput | mbget =>
    exact AcWord.of_quiet (QuietWord.of (fun _ => rfl) (compute_quiet _ _ _))
  | amode =>
    exact AcWord.of_quiet (QuietWord.act (fun _ => rfl) fun s => Act.All.ite (fun _ => trivial) fun _ => quiet_later s _ _)
  | ldq | ldb => exact AcWord.act (fun _ => rfl) fun s hs => loadQueue_all hs
  | ldqx =>
    refine AcWord.act (fun _ => rfl) fun s hs => also_all (loadQueue_all hs) fun t ht => ?_
    exact ht.quiet (quiet_countSr ..)
  | lds | ldm =>
    exact AcWord.act (fun _ => rfl) fun s hs => spmGet_all hs fun u _ _ _ hu => hu.keeps.quiet ((quiet_laterBy ..).trans (quiet_later ..))
  | stq =>
    refine AcWord.act (fun _ => rfl) fun s hs => ?_
    split
    · exact hs.keeps
    · next t rows ht =>
      exact storeWindow_all hs (storeSpm_all (hs.popStore ht) fun u hu => hu.keeps.quiet (quiet_later ..))
  | stqx => exact acWord_stqx ..
  | stm =>
    exact AcWord.act (fun _ => rfl) fun s hs => storeWindow_all hs (storeSpm_all hs fun u hu => hu.keeps.quiet (quiet_later ..))
  | rmerge =>
    refine AcWord.of_quiet (QuietWord.act (fun _ => rfl) fun s => Act.All.ite (fun _ => Quiet.refl s) fun _ => ?_)
    refine Quiet.trans ?_ (quiet_later ..)
    exact Quiet.modCtx _ _ _ fun _ => ⟨rfl, rfl, rfl⟩
  | ldl => exact acWord_ldl ..
  | stu => exact acWord_stu ..
  | ldg | ldgx => exact AcWord.act (fun _ => rfl) fun s hs => globalLoad_all hs
  | stg =>
    refine AcWord.act (fun _ => rfl) fun s hs => ?_
    split
    · exact hs.keeps
    · next t rows ht =>
      exact keepQueues_all (globalStore_all (hs.popStore ht) hs.keeps fun u hu => hu.keeps.quiet (quiet_later ..))
  | stgx =>
    refine AcWord.act (fun _ => rfl) fun s hs => ?_
    dsimp only
    split
    · exact hs.keeps
    · next t rows ht =>
      exact keepQueues_all (globalStore_all (hs.popStore ht) hs.keeps fun u hu =>
        hu.keeps.quiet ((quiet_countSr ..).trans ((quiet_laterN ..).trans (quiet_later ..))))
  | pfg =>
    refine AcWord.act (fun _ => rfl) fun s hs => ?_
    dsimp only
    split
    · next t e => exact hs.keeps.quiet (translateAc_quiet e)
    · refine hs.keeps.quiet (Quiet.trans ?_ (quiet_later ..))
      exact Quiet.modCore _ _ _ fun _ => ⟨rfl, rfl, rfl⟩
  | atomg | casg => exact AcWord.act (fun _ => rfl) fun s hs => atomic_all hs
  | _ => cases hu

/-- Settles O57: the words of VE are quiet, those of AC keep what AC keeps. -/
theorem vectorAndAddressWordsChangeNoRegisterAtOnce : Obligations.VectorAndAddressWordsChangeNoRegisterAtOnce := by
  intro s t i e
  refine ⟨fun hu => ?_, fun hu => ?_⟩
  · have q := (quietWord_ve i hu).exec e
    exact ⟨q.keepsRegs, q.keepsBytes⟩
  · have a := (acWord i hu).exec e
    exact ⟨a.settled, fun n x => congrArg (Mem.read · x) (a.frame n)⟩

end Sys2Proof.Machine
end

section
/-! SUPPORT. Memories keep their canonical form (log 51): the landing of results, the events by which what words have
started comes about, and the end of a cc. -/

namespace Sys2Proof.Machine

/-! The calculus: updates outside the memories, folds, and outcomes. -/

section
variable {s t : State}

/-- A state with the memory and the cores of one whose memories are canonical. -/
theorem wf_with (w : s.memWf = true) (hm : t.mem = s.mem) (hc : t.cores = s.cores) : t.memWf = true := memWf_of_same s t hm hc w

theorem wf_modCore (n : Nat) (f : Core → Core) (w : s.memWf = true) (hf : ∀ c, (f c).frame = c.frame ∧ (f c).spm = c.spm) :
    (s.modCore n f).memWf = true := memWf_modCore_same s n f w (hf _).1 (hf _).2

theorem wf_ite {c : Prop} [Decidable c] (hs : c → s.memWf = true) (ht : ¬ c → t.memWf = true) :
    (if c then s else t).memWf = true := by
  split
  · exact hs ‹_›
  · exact ht ‹_›

theorem wf_foldl {α : Type} (f : State → α → State) (l : List α) (hf : ∀ s, ∀ e ∈ l, s.memWf = true → (f s e).memWf = true)
    (w : s.memWf = true) : (l.foldl f s).memWf = true := foldl_keeps (P := fun s => s.memWf = true) f l hf s w

theorem wf_known {kn : List (Nat × Party)} (w : s.memWf = true) : ({ s with known := kn } : State).memWf = true := wf_with w rfl rfl

theorem wf_knownOnly (k : KnownOnly s t) (w : s.memWf = true) : t.memWf = true := k.quiet.wf w

theorem wf_cores (f : Nat × Core → Nat × Core) (hf : ∀ e, (f e).2.frame = e.2.frame ∧ (f e).2.spm = e.2.spm) (w : s.memWf = true)
    (hm : t.mem = s.mem) (hc : t.cores = s.cores.map f) : t.memWf = true := by
  rw [memWf_iff] at w ⊢
  rw [hm, hc]
  refine ⟨w.1, fun _ h => ?_⟩
  obtain ⟨e, he, rfl⟩ := List.mem_map.1 h
  rw [(hf e).1, (hf e).2]
  exact w.2 e he

end

/-- Every next state of an outcome has canonical memories. -/
def OutWf (o : Host.Outcome State Fault Refusal) : Prop := ∀ t, o = .next t → t.memWf = true

namespace OutWf
theorem next {t : State} (w : t.memWf = true) : OutWf (.next t) := fun _ e => by cases e; exact w
theorem fault (f : Fault) : OutWf (.fault f) := fun _ e => by cases e
theorem refused (r : Refusal) : OutWf (.refused r) := fun _ e => by cases e
end OutWf

/-! Results that land (R26). -/

section
variable {s : State}

theorem setSpecial_wf (k : Who) (n : Nat) (v : Word) (w : s.memWf = true) : (s.setSpecial k n v).memWf = true := by
  unfold State.setSpecial
  iterate 5
    split
    · exact memWf_modClu _ _ _ w
  split
  · exact (quiet_barrierCheck ..).wf w
  · exact w

theorem land_wf (k : Who) (r : Res) (w : s.memWf = true) : (State.land k s r).memWf = true := by
  cases r with
  | scal | pred | areg | mode | base | inc | mbuf | mask | sig | inv => exact memWf_modClu _ _ _ w
  | view | cir | prov => exact memWf_modCtx _ _ _ w
  | lrow | srow => exact memWf_modCtx _ _ _ ((quiet_hand ..).wf w)
  | spec => exact setSpecial_wf _ _ _ w
  | frame => exact memWf_modCore _ _ _ w ⟨Mem.writeN_wf _ _ _ _ (core_wf s _ w).1, (core_wf s _ w).2⟩

theorem landBy_wf (k : Who) (n : Nat) (w : s.memWf = true) : (s.landBy k n).memWf = true := by
  unfold State.landBy
  refine wf_ite (fun _ => w) fun _ => wf_foldl _ _ (fun s f _ h => ?_) (memWf_modClu _ _ _ w)
  exact wf_foldl _ _ (fun s r _ h => land_wf k r h) h

theorem landDue_wf (k : Who) (w : s.memWf = true) : (s.landDue k).memWf = true := landBy_wf k _ w

theorem landNext_wf (k : Who) (w : s.memWf = true) : (s.landNext k).memWf = true := by
  unfold State.landNext
  refine wf_ite (fun _ => w) fun _ => wf_foldl _ _ (fun s f _ h => ?_) (memWf_modClu _ _ _ w)
  exact wf_foldl _ _ (fun s r _ h => memWf_modClu _ _ _ (land_wf k r h)) h

/-! Tokens and waits. -/

theorem handToks_wf (k : Who) (q a b : Nat) (w : s.memWf = true) : (s.handToks k q a b).memWf = true :=
  wf_foldl _ _ (fun _ _ _ h => (quiet_hand ..).wf h) w

theorem pushTokens_wf (k : Who) (due : List (BitVec 2)) (w : s.memWf = true) : (s.pushTokens k due).memWf = true :=
  wf_foldl _ _ (fun _ _ _ h => handToks_wf _ _ _ _ h) (memWf_modCtx _ _ _ w)

theorem pushDue_wf (k : Who) (w : s.memWf = true) : (s.pushDue k).memWf = true :=
  wf_ite (fun _ => w) fun _ => pushTokens_wf k _ (memWf_modClu _ _ _ w)

theorem beginSc_wf (k : Who) (w : s.memWf = true) : (s.beginSc k).memWf = true := by
  have h : ∀ u : State, u.memWf = true → ((u.landDue k).perfMe 1).memWf = true := fun u hu => (quiet_perfMe ..).wf (landDue_wf k hu)
  unfold State.beginSc
  refine wf_ite (fun _ => (quiet_traceClu ..).wf (h _ ?_)) fun _ => h _ ?_
  all_goals exact memWf_modClu _ _ _ (wf_with w rfl rfl)

theorem countStall_wf (k : Who) (w : s.memWf = true) : (s.countStall k).memWf = true := by
  unfold State.countStall
  dsimp only
  split
  · exact w
  · next x _ =>
    refine wf_ite (fun _ => w) fun _ => memWf_modClu _ _ _ ?_
    have h : (match x.event with | some e => s.perf k.core e k.ctx (some k.clu) 1 | none => s).memWf = true := by
      split
      · exact (quiet_perf ..).wf w
      · exact w
    exact wf_ite (fun _ => (quiet_perf ..).wf h) fun _ => h

theorem badWord_wf (code len : Nat) (h : Hdr) (w : s.memWf = true) : (s.badWord code len h).memWf = true := by
  unfold State.badWord
  dsimp only
  split
  · exact (quiet_stallOn ..).wf w
  · refine wf_ite (fun _ => wf_ite (fun _ => (quiet_stallOn ..).wf w) fun _ => (quiet_retireAt ..).wf w) fun _ => ?_
    split
    · exact (quiet_retireAt ..).wf w
    · exact (quiet_precise ..).wf w

theorem trapCluster_wf (k : Who) (w : s.memWf = true) : (s.trapCluster k).memWf = true := by
  unfold State.trapCluster
  refine memWf_modClu _ _ _ ?_
  split
  · exact w
  · exact w

/-! Reads of the hub, markers (R129, R337). -/

theorem walk_wf (p va : Nat) (w : s.memWf = true) : (s.walk p va).1.memWf = true := performs_wf.reads.walk p va w

theorem hubRows_wf (p : Nat) : ∀ (n : Nat) {s : State} (va : Nat), s.memWf = true → (hubRows p n s va).1.memWf = true
  | 0, _, _, w => w
  | n + 1, s, va, w => by
    have h := walk_wf p va w
    unfold hubRows
    generalize s.walk p va = r at h ⊢
    split
    · exact h
    · next u b z sa wr =>
      dsimp only
      split
      · exact h
      · next hd =>
        have h2 := sysRead_wf u ((u.hubOverlay p va).getD (sa + (va - b))) 0 h
        generalize u.sysRead _ 0 = q at h2 ⊢
        have h3 := hubRows_wf p n (va + 64) h2
        split
        · next e => rw [e] at h3; exact h3
        · next e => rw [e] at h3; exact h3

theorem hubRead_wf (p va n : Nat) (w : s.memWf = true) : (s.hubRead p va n).1.memWf = true := hubRows_wf p _ _ w

theorem modLaunch_wf (l : Nat) (f : Launch → Launch) (w : s.memWf = true) : (s.modLaunch l f).memWf = true := by
  unfold State.modLaunch
  split
  · exact w
  · exact wf_with w rfl rfl

theorem modDep_wf (p : Nat) (tid : Word) (f : Dep → Dep) (w : s.memWf = true) : (s.modDep p tid f).memWf = true := wf_with w rfl rfl
theorem modInst_wf (t : Task) (f : Inst → Inst) (w : s.memWf = true) : (s.modInst t f).memWf = true := wf_with w rfl rfl
theorem modTq_wf (q : Nat) (f : TaskQ → TaskQ) (w : s.memWf = true) : (s.modTq q f).memWf = true := wf_with w rfl rfl

theorem fireLaunch_wf (i : Nat) (w : s.memWf = true) : (s.fireLaunch i).memWf = true := by
  unfold State.fireLaunch
  split
  · exact w
  · next l _ =>
    dsimp only
    refine wf_ite (fun _ => w) fun _ => modLaunch_wf _ _ ?_
    refine List.foldlRecOn (motive := fun r : State × List AEnt => r.1.memWf = true) _ _ w fun r h e _ => ?_
    obtain ⟨u, out⟩ := r
    obtain ⟨e, old⟩ := e
    dsimp only
    split
    · exact hubRead_wf _ _ _ h
    · exact h

theorem markAsk_wf {n : Nat} {q b : Bool} {t : State} (e : s.markAsk n q = some (b, t)) (w : s.memWf = true) : t.memWf = true := by
  have arrived : (if s.myTask.cls ≠ 0 then (s.modLaunch s.myTask.launch fun l => l.arrive n).modDep s.myTask.part
      s.myTask.tid (fun e => { e with marks := n :: e.marks }) else s.modLaunch s.myTask.launch fun l => l.arrive n).memWf = true :=
    wf_ite (fun _ => modDep_wf _ _ _ (modLaunch_wf _ _ w)) fun _ => modLaunch_wf _ _ w
  unfold State.markAsk at e
  dsimp only at e
  split at e
  · cases e
  · next l _ =>
    generalize (s.myTask.cls ≠ 0 && _ : Bool) = seen at e
    split at e
    · cases e
    split at e
    · cases e; exact w
    · cases e; exact arrived

theorem answerMark_wf (k : Who) (w : s.memWf = true) : (s.answerMark k).memWf = true := by
  have ask (n : Nat) (q : Bool) : (match State.markAsk { s with cur := k } n q with
      | none => s.modClu k fun c => { c with answer := some 1 }
      | some (ok, s) => s.modClu k fun c => { c with answer := some (if ok then 1 else 0) }).memWf = true := by
    split
    · exact memWf_modClu _ _ _ w
    · next e => exact memWf_modClu _ _ _ (markAsk_wf e (wf_with w rfl rfl))
  unfold State.answerMark
  dsimp only
  split
  · split
    · exact ask _ _
    · exact ask _ _
    · exact w
  · exact w

end

end Sys2Proof.Machine
end

section
/-! SUPPORT. Memories keep their canonical form (log 51): events of delivery, stops, and the end of a cc. -/

namespace Sys2Proof.Machine

section
variable {s : State}

theorem wakeCore_wf (n : Nat) (w : s.memWf = true) : (s.wakeCore n).memWf = true := (quiet_wakeCore s n).wf w
theorem perf_wf (n ev x : Nat) (u : Option Clu) (b : Nat) (w : s.memWf = true) : (s.perf n ev x u b).memWf = true :=
  (quiet_perf ..).wf w
theorem interrupt_wf (v : Nat) (w : s.memWf = true) : (s.interrupt v).memWf = true := by
  unfold State.interrupt
  exact wf_ite (fun _ => wf_with w rfl rfl) fun _ => wf_with w rfl rfl
theorem manageInt_wf (c : Cause) (w : s.memWf = true) : (s.manageInt c).memWf = true := interrupt_wf 0 (wf_with w rfl rfl)
theorem errEvent_wf (e : ErrEvt) (w : s.memWf = true) : (s.errEvent e).memWf = true := wf_with w rfl rfl
theorem keepAccs_wf (f : Nat × Acc → Bool) (w : s.memWf = true) : (s.keepAccs f).memWf = true := by
  unfold State.keepAccs
  exact wf_ite (fun _ => w) fun _ => wf_with w rfl rfl
theorem forget_wf (f : Party → Bool) (w : s.memWf = true) : (s.forget f).memWf = true := wf_knownOnly (.forget s f) w
theorem hand_wf (p q : Party) (w : s.memWf = true) : (s.hand p q).memWf = true := wf_knownOnly (.hand s p q) w
theorem teach_wf (l : List Nat) (p : Party) (w : s.memWf = true) : (s.teach l p).memWf = true := wf_knownOnly (.teach s l p) w
theorem meetAll_wf (l : List Who) (w : s.memWf = true) : (s.meetAll l).memWf = true := by
  obtain ⟨kn, e⟩ := meetAll_eq s l
  rw [e]
  exact wf_known w
theorem closeRows_wf (n : Nat) (w : s.memWf = true) : (s.closeRows n).memWf = true := (quiet_closeRows s n).wf w
theorem release_wf {t : State} {k : Who} {scope : Nat} (e : s.release k scope = some t) (w : s.memWf = true) : t.memWf = true :=
  (quiet_release e).wf w
theorem translate_wf (n : Nat) (t : Task) (va : Nat) (w : s.memWf = true) : (s.translate n t va).1.memWf = true :=
  performs_wf.translate n t va w
theorem walkFill_wf (n x p va : Nat) (w : s.memWf = true) : (s.walkFill n x p va).1.memWf = true := performs_wf.walkFill n x p va w
theorem faultTask_wf (k : Who) (f : FaultInfo) (w : s.memWf = true) : (s.faultTask k f).memWf = true := (Mild.faultTask s k f).quiet.wf w
theorem faultGone_wf (k : Who) (t : Task) (f : FaultInfo) (w : s.memWf = true) : (s.faultGone k t f).memWf = true :=
  (Mild.faultGone s k t f).quiet.wf w
theorem faultLate_wf (k : Who) (t : Task) (f : FaultInfo) (w : s.memWf = true) : (s.faultLate k t f).memWf = true :=
  (Mild.faultLate s k t f).quiet.wf w
theorem taskFault_wf (k : Who) (unit code : Nat) (w : s.memWf = true) : (s.taskFault k unit code).memWf = true :=
  (quiet_taskFault ..).wf w
theorem raiseLine_wf (p code : Nat) (k : Who) (unit : Nat) (w : s.memWf = true) : (s.raiseLine p code k unit).memWf = true :=
  (quiet_raiseLine ..).wf w
theorem haltCluster_wf (k : Who) (w : s.memWf = true) : (s.haltCluster k).memWf = true := (quiet_haltCluster ..).wf w
theorem dropAcc_wf (i : Nat) (w : s.memWf = true) : (s.dropAcc i).memWf = true := performs_wf.dropAcc i w
theorem deliver_wf (i : Nat) (a : Acc) (q : Nat) (rows : List (Nat × Nat × Nat)) (cir : Nat) (w : s.memWf = true) :
    (s.deliver i a q rows cir).memWf = true := performs_wf.deliver i a q rows cir w
theorem sysWriteN_wf (sa n v tag : Nat) (w : s.memWf = true) : (s.sysWriteN sa n v tag).memWf = true := by
  unfold State.sysWriteN
  exact sysWrite_wf _ _ _ _ _ _ w
theorem sysReadN_wf (sa n tag : Nat) (w : s.memWf = true) : (s.sysReadN sa n tag).1.memWf = true := by
  have h := sysRead_wf s sa tag w
  unfold State.sysReadN
  exact h

theorem pushNow_wf (k : Who) (sig : BitVec 2) (past : List Nat) (w : s.memWf = true) : (s.pushNow k sig past).memWf = true := by
  unfold State.pushNow
  exact wf_ite (fun _ => w) fun _ => wf_foldl _ _ (fun _ _ _ h => teach_wf _ _ h) (memWf_modCtx _ _ _ w)

/-! Events of delivery (R92, R122, R199, R208, R217, R228, R229, R233). -/

theorem postgDelivery_wf (i : Nat) (w : s.memWf = true) : OutWf (execPostgDelivery i s) := by
  unfold execPostgDelivery
  split
  · exact .next w
  · next n f l who _ =>
    have h := wakeCore_wf n w
    generalize s.wakeCore n = t at h ⊢
    dsimp only
    split
    · exact .next h
    · split
      · exact .next ((memWf_modDie ..).trans (wf_with h rfl rfl))
      · refine OutWf.next (forget_wf _ (wf_foldl _ _ (fun u x _ hu => ?_) ?_))
        · exact memWf_modCtx _ _ _ (hand_wf _ _ hu)
        · exact wf_with h rfl rfl

theorem fillLine_same (c : Core) (key : Nat) (l : List Byte) : (c.fillLine key l).frame = c.frame ∧ (c.fillLine key l).spm = c.spm :=
  ⟨rfl, rfl⟩

theorem instructionFetch_wf (k : Who) (w : s.memWf = true) : OutWf (execInstructionFetch k s) := by
  unfold execInstructionFetch
  split
  · exact .next w
  · next va _ =>
    have h := translate_wf k.core (s.taskOf k) (va / 64 * 64) w
    dsimp only
    generalize s.translate k.core (s.taskOf k) (va / 64 * 64) = r at h ⊢
    split
    · exact .next h
    · next u sa x =>
      split
      · exact .next h
      · exact .next (memWf_modCtx _ _ _ (wf_modCore _ _ (sysRead_wf _ _ _ h) fun c => fillLine_same c _ _))

theorem pageWalk_wf (n va : Nat) (w : s.memWf = true) : OutWf (execPageWalk n va s) := by
  unfold execPageWalk
  split
  · exact .next w
  · next x _ =>
    have h := walkFill_wf n x (s.taskOf ⟨n, x, .a⟩).part va w
    dsimp only
    generalize s.walkFill n x _ va = r at h ⊢
    split
    · exact .next h
    · exact .next (wf_modCore _ _ h fun _ => ⟨rfl, rfl⟩)

theorem serveSlot_wf (i : Nat) (a : Acc) (f : Fill) (t : Nat) (w : s.memWf = true) : (s.serveSlot i a f t).memWf = true := by
  have h := performs_wf.performOlder i a.who.core a.place w
  unfold State.serveSlot
  exact wf_ite (fun _ => wf_with h rfl rfl) fun _ => performs_wf.serveDirect _ _ _ _ h

theorem serveDue_wf (i : Nat) (w : s.memWf = true) : (s.serveDue i).memWf = true := by
  unfold State.serveDue
  split
  · exact w
  · split
    · exact wf_ite (fun _ => serveSlot_wf _ _ _ _ w) fun _ => w
    · exact w

theorem sigNow_wf (k : Who) (sig : BitVec 2) (iss : Nat) (w : s.memWf = true) : (s.sigNow k sig iss).memWf = true :=
  (Mild.sigNow s k sig iss).quiet.wf w

theorem rowEnd_wf (i : Nat) (w : s.memWf = true) : (s.rowEnd i).memWf = true := by
  unfold State.rowEnd
  split
  · exact w
  · split
    · exact wf_ite (fun _ => w) fun _ => wf_ite (fun _ => wf_with w rfl rfl) fun _ =>
        wf_ite (fun _ => sigNow_wf _ _ _ (wf_with w rfl rfl)) fun _ => w
    · exact w

theorem rowDue_wf (i : Nat) (w : s.memWf = true) : (s.rowDue i).memWf = true := by
  unfold State.rowDue
  split
  · exact w
  · split
    · exact wf_ite (fun _ => deliver_wf _ _ _ _ _ w) fun _ => w
    · exact w

theorem loadRowFill_wf (i : Nat) (w : s.memWf = true) : OutWf (execLoadRowFill i s) := by
  unfold execLoadRowFill
  split
  · exact .next w
  · split
    · split
      · exact .next w
      · exact .next (performs_wf.fillLoad _ _ _ w)
    · exact .next (deliver_wf _ _ _ _ _ w)
    · exact .next w

theorem globalStorePerform_wf (i : Nat) (w : s.memWf = true) : OutWf (execGlobalStorePerform i s) := by
  unfold execGlobalStorePerform
  split
  · exact .next w
  · split
    · split
      · exact .next w
      · exact .next (performs_wf.performStore _ _ _ w)
    · exact .next w

theorem dieWindowStorePerform_wf (i : Nat) (w : s.memWf = true) : OutWf (execDieWindowStorePerform i s) := by
  unfold execDieWindowStorePerform
  split
  · exact .next w
  · split
    · next n addr d u _ =>
      have h := wakeCore_wf n w
      dsimp only
      split
      · exact .next h
      · exact .next (performs_wf.performWin _ _ _ _ _ _ h)
    · exact .next w

theorem atomicPerform_wf (i : Nat) (w : s.memWf = true) : OutWf (execAtomicPerform i s) := by
  unfold execAtomicPerform
  split
  · exact .next w
  · split
    · split
      · exact .next w
      · exact .next (performs_wf.performAtomic _ _ _ _ _ _ _ trivial w)
    · split
      · exact .next w
      · exact .next (performs_wf.returnAtomic _ _ _ _ trivial (dropAcc_wf _ w))
    · exact .next w

/-! Stops of engines and of contexts (R372, R385, R386). -/

theorem stopEngine_wf (n unit kind : Nat) (tid addr : Word) (cseq fidx stat : Nat) (w : s.memWf = true) :
    (s.stopEngine n unit kind tid addr cseq fidx stat).memWf = true := by
  unfold State.stopEngine
  exact wf_ite (fun _ => wf_modCore _ _ w fun _ => ⟨rfl, rfl⟩) fun _ => w

theorem pauseEngines_wf (k : Who) (w : s.memWf = true) : (s.pauseEngines k).memWf = true := by
  unfold State.pauseEngines
  dsimp only
  have mx : (match (s.core k.core).mxRun with
      | some r => if r.cmd.ctx = k.ctx then s.stopEngine k.core 4 5 (s.taskOf k).tid 0 r.cmd.cseq 0 0 else s
      | none => s).memWf = true := by
    split
    · exact wf_ite (fun _ => stopEngine_wf _ _ _ _ _ _ _ _ w) fun _ => w
    · exact w
  have cp (u : State) (hu : u.memWf = true) (o : Option (Nat × CpRun)) : (match o with
      | some (_, r) => u.stopEngine k.core 5 5 (s.taskOf k).tid r.addr (s.ctxOf k).popped (if r.stat = 0 then r.next else r.fidx) r.stat
      | none => u).memWf = true := by
    split
    · exact stopEngine_wf _ _ _ _ _ _ _ _ hu
    · exact hu
  have rm (u : State) (hu : u.memWf = true) (o : Option RmRun) : (match o with
      | some r => u.stopEngine k.core 6 5 (s.taskOf k).tid r.addr (s.ctxOf k).popped 0 r.stat
      | none => u).memWf = true := by
    split
    · exact stopEngine_wf _ _ _ _ _ _ _ _ hu
    · exact hu
  exact rm _ (cp _ mx _) _

end

end Sys2Proof.Machine
end

section
/-! SUPPORT. Memories keep their canonical form (log 51): debug stops (R385, R386) and the end of a cc. -/

namespace Sys2Proof.Machine

section
variable {s : State}

/-! Debug stops (R385, R386). -/

theorem unland_wf (k : Who) (e : Flight × Nat) (w : s.memWf = true) : (s.unland k e).memWf = true := by
  unfold State.unland
  dsimp only
  split
  · refine wf_ite (fun _ => w) fun _ => memWf_modClu _ _ _ (memWf_modCore _ _ _ w ⟨Mem.writeN_wf _ _ _ _ ?_, ?_⟩)
    · exact (core_wf s _ w).1
    · exact (core_wf s _ w).2
  · exact wf_ite (fun _ => memWf_modClu _ _ _ (memWf_modCtx _ _ _ w)) fun _ => w
  · exact wf_ite (fun _ => memWf_modClu _ _ _ (memWf_modCtx _ _ _ w)) fun _ => w
  · exact w

theorem unlandAll_wf (k : Who) (w : s.memWf = true) : (s.unlandAll k).memWf = true := by
  unfold State.unlandAll
  exact wf_foldl _ _ (fun u x _ h => memWf_modClu _ _ _ (wf_foldl _ _ (fun _ _ _ h => unland_wf _ _ h) h)) w

theorem debugStop_wf (k : Who) (cc : Nat) (w : s.memWf = true) : (s.debugStop k cc).memWf = true := by
  unfold State.debugStop
  refine memWf_modCtx _ _ _ (pauseEngines_wf _ (wf_foldl _ _ (fun u x _ h => ?_) (unlandAll_wf _ w)))
  exact memWf_modClu _ _ _ h

/-! The end of a cc, of its contexts and cores. -/

theorem endPosts_wf (k : Who) (w : s.memWf = true) : (s.endPosts k).memWf = true := by
  unfold State.endPosts
  dsimp only
  have h : (((s.ctxOf k).fclears).foldl (fun s f => k.clusters.foldl (fun s u => s.hand (.flagIn k.core k.ctx f) (.clu u)) s)
      s).memWf = true := wf_foldl _ _ (fun _ _ _ h => wf_foldl _ _ (fun _ _ _ h => hand_wf _ _ h) h) w
  exact wf_ite (fun _ => forget_wf _ h) fun _ => wf_known (forget_wf _ h)

theorem endCtx_wf (k : Who) (w : s.memWf = true) : (s.endCtx k).memWf = true := by
  have h : ((k.clusters.foldl State.pushDue (s.modCtx k fun x => { x with cirNew := 0 })).endPosts k).memWf = true :=
    endPosts_wf k (wf_foldl _ _ (fun _ _ _ h => pushDue_wf _ h) (memWf_modCtx _ _ _ w))
  unfold State.endCtx
  exact wf_ite (fun _ => debugStop_wf _ _ (memWf_modCtx _ _ _ h)) fun _ => memWf_modCtx _ _ _ h

theorem startCtx_wf (k : Who) (w : s.memWf = true) : (s.startCtx k).memWf = true := by
  unfold State.startCtx
  exact wf_ite (fun _ => w) fun _ => wf_foldl _ _ (fun _ _ _ h => wf_ite (fun _ => h) fun _ => landNext_wf _ h) w

theorem startBars_wf (k : Who) (w : s.memWf = true) : (s.startBars k).memWf = true :=
  wf_foldl _ _ (fun _ _ _ h => wf_ite (fun _ => memWf_modClu _ _ _ h) fun _ => h) w

theorem endMarks_wf (w : s.memWf = true) : s.endMarks.memWf = true :=
  wf_foldl _ _ (fun _ _ _ h => fireLaunch_wf _ h) (wf_foldl _ _ (fun _ _ _ h => wf_foldl _ _ (fun _ _ _ h => answerMark_wf _ h) h) w)

theorem logEvent_wf (e : ErrEvt) (w : s.memWf = true) : (s.logEvent e).memWf = true := by
  unfold State.logEvent
  dsimp only
  split
  · exact wf_with w rfl rfl
  · exact wf_with w rfl rfl

theorem endErrors_wf (w : s.memWf = true) : s.endErrors.memWf = true :=
  wf_ite (fun _ => w) fun _ => wf_foldl _ _ (fun _ _ _ h => logEvent_wf _ h) (wf_with w rfl rfl)

theorem countWatch_wf (w : s.memWf = true) : s.countWatch.memWf = true := wf_with w rfl rfl

theorem expire_wf (e : Dep) (i : Inst) (w : s.memWf = true) : (s.expire e i).memWf = true :=
  wf_ite (fun _ => faultLate_wf _ _ _ w) fun _ => modInst_wf _ _ (faultLate_wf _ _ _ w)

theorem endWatch_wf (w : s.memWf = true) : s.endWatch.memWf = true :=
  wf_foldl _ _ (fun _ _ _ h => wf_foldl _ _ (fun _ _ _ h => wf_ite (fun _ => expire_wf _ _ h) fun _ => h) h) w

theorem countLosses_wf (n : Nat) (w : s.memWf = true) : (s.countLosses n).memWf = true := by
  unfold State.countLosses
  exact wf_ite (fun _ => perf_wf _ _ _ _ _ (wf_with w rfl rfl)) fun _ => w

theorem endCore_wf (n : Nat) (w : s.memWf = true) : (s.endCore n).memWf = true := by
  unfold State.endCore
  dsimp only
  refine wf_ite (fun _ => w) fun _ => ?_
  have h := countLosses_wf n (perf_wf n 0 0 none 1 w)
  generalize (s.perf n 0 0 none 1).countLosses n = t at h ⊢
  refine wf_modCore _ _ (wf_foldl _ _ (fun _ _ _ h => wf_ite (fun _ => perf_wf _ _ _ _ _ h) fun _ => h) ?_) fun c => ?_
  · exact wf_ite (fun _ => perf_wf _ _ _ _ _ h) fun _ => h
  · split
    · exact ⟨rfl, rfl⟩
    · exact ⟨rfl, rfl⟩

theorem endDies_wf (w : s.memWf = true) : s.endDies.memWf = true :=
  wf_foldl _ _ (fun _ _ _ h => wf_ite (fun _ => h) fun _ => wf_with h rfl rfl) w

theorem directs_wf (f : State → Nat → State) (hf : ∀ (t : State) i, t.memWf = true → (f t i).memWf = true) (w : s.memWf = true) :
    (s.directs f).memWf = true := by
  unfold State.directs
  refine wf_foldl _ _ (fun u i _ h => ?_) w
  split
  · exact wf_ite (fun _ => h) fun _ => hf _ _ h
  · exact h

theorem endDirect_wf (w : s.memWf = true) : s.endDirect.memWf = true :=
  directs_wf _ (fun _ i h => rowEnd_wf i h) (directs_wf _ (fun _ i h => serveDue_wf i h) w)

theorem startCc_wf (w : s.memWf = true) : s.startCc.memWf = true :=
  wf_foldl _ _ (fun _ _ _ h => startBars_wf _ h)
    (directs_wf _ (fun _ i h => rowDue_wf i h) (wf_foldl _ _ (fun _ _ _ h => startCtx_wf _ h) w))

theorem setScore_wf (k v : Nat) (w : s.memWf = true) : (s.setScore k v).memWf = true := by
  unfold State.setScore
  exact wf_ite (fun _ => manageInt_wf _ (wf_with w rfl rfl)) fun _ => wf_with w rfl rfl

theorem endScores_wf (w : s.memWf = true) : s.endScores.memWf = true := by
  unfold State.endScores
  refine wf_with (wf_foldl _ _ (fun _ _ _ h => setScore_wf _ _ h) w) rfl rfl

theorem endCc_wf (w : s.memWf = true) : s.endCc.memWf = true := by
  have h1 := endMarks_wf (wf_foldl State.endCtx s.ticking (fun _ _ _ h => endCtx_wf _ h) w)
  unfold State.endCc
  generalize (s.ticking.foldl State.endCtx s).endMarks = t at h1 ⊢
  have h2 := wf_foldl State.endCore (t.cores.map Prod.fst) (fun _ _ _ h => endCore_wf _ h) h1
  have h3 := endScores_wf (endWatch_wf (countWatch_wf (endDies_wf h2)))
  dsimp only
  generalize ((t.cores.map Prod.fst).foldl State.endCore t).endDies.countWatch.endWatch.endScores = u at h3 ⊢
  have h4 : State.memWf { u with parts := u.parts.map fun e => (e.1, Part.takeCause e.2), tqs := u.tqs.map TaskQ.adopt } = true :=
    wf_with h3 rfl rfl
  exact wf_with (endErrors_wf h4) rfl rfl

end

end Sys2Proof.Machine
end

section
/-! SUPPORT. Memories keep their canonical form (log 51): the copy engine (R288 to R300, R343). -/

namespace Sys2Proof.Machine

section
variable {s : State}

/-! What every engine does for a command. -/

theorem modOwner_wf (n : Nat) (e : EnCmd) (f : Ctx → Ctx) (w : s.memWf = true) : (s.modOwner n e f).memWf = true :=
  wf_ite (fun _ => memWf_modCtx _ _ _ w) fun _ => wf_modCore _ _ w fun _ => ⟨rfl, rfl⟩

theorem cmdPush_wf (n : Nat) (e : EnCmd) (w : s.memWf = true) : (s.cmdPush n e).memWf = true :=
  wf_ite (fun _ => pushNow_wf _ _ _ w) fun _ => w

theorem traceCmd_wf (n unit : Nat) (e : EnCmd) (stat tok : Nat) (w : s.memWf = true) : (s.traceCmd n unit e stat tok).memWf = true :=
  wf_ite (fun _ => (quiet_traceRec ..).wf w) fun _ => w

theorem addAcc_wf (a : Acc) (w : s.memWf = true) : (s.addAcc a).memWf = true := wf_with w rfl rfl

theorem reserveLq_wf (k : Who) (q n : Nat) (w : s.memWf = true) : (s.reserveLq k q n).1.memWf = true := memWf_modCtx _ _ _ w

/-! The rows of a source (R297 to R299). -/

/-- Memories are canonical. -/
abbrev Canonical (t : State) : Prop := t.memWf = true

theorem EngRow.keeps_ok {P : State → Prop} {t : State} {d q : Nat} : (EngRow.ok t d q).Keeps P ↔ P t := Iff.rfl

theorem cpSource_go_wf (n : Nat) (r : CpRun) (space row : Nat) (w : s.memWf = true) :
    (State.cpSource.go s n r space row).Keeps Canonical := by
  have hg := performs_wf.globRow n r.cmd.task row true w
  unfold State.cpSource.go
  split
  · exact performs_wf.spmRow _ _ _ _ w
  · generalize s.globRow n r.cmd.task row = o at hg
    cases o with
    | peer u sa =>
      dsimp only
      split
      · exact hg
      · exact hg
      · exact hg
    | ok | fail => exact hg
    | wait => trivial

theorem cpSource_wf (n : Nat) (r : CpRun) (space row : Nat) (cache : Option (Nat × Nat × Nat)) (w : s.memWf = true) :
    (s.cpSource n r space row cache).Keeps Canonical := by
  unfold State.cpSource
  split
  · split
    · exact w
    · exact cpSource_go_wf _ _ _ _ w
  · exact cpSource_go_wf _ _ _ _ w

theorem cpSource2_wf (n : Nat) (r : CpRun) (space lo hi : Nat) (cache : Option (Nat × Nat × Nat)) (w : s.memWf = true) :
    (s.cpSource2 n r space lo hi cache).Keeps Canonical := by
  have h1 := cpSource_wf n r space lo cache w
  unfold State.cpSource2
  generalize s.cpSource n r space lo cache = o at h1
  cases o with
  | ok u d q =>
    have h2 := cpSource_wf n r space hi none (s := u) h1
    dsimp only
    generalize u.cpSource n r space hi none = o' at h2
    split
    · exact h1
    · cases o' with
      | ok => exact EngRow.keeps_ok.2 (EngRow.keeps_ok.1 h2)
      | fail | peer => exact h2
      | wait => trivial
  | fail | peer => exact h1
  | wait => trivial

theorem askPeer_wf (n id : Nat) (r : CpRun) (sa : Nat) (w : s.memWf = true) : (s.askPeer n id r sa).memWf = true := by
  unfold State.askPeer
  exact wf_ite (fun _ => w) fun _ => wf_modCore _ _ (addAcc_wf _ w) fun _ => ⟨rfl, rfl⟩

/-! Row groups (R298). -/

/-- The states that a row group under way can leave are canonical. -/
def Gathered.Keeps : Gathered → Prop
  | .ok g => g.s.memWf = true
  | .fail s _ _ _ _ => s.memWf = true
  | .wait s => s.memWf = true
  | .hold => True

theorem gather_wf (n id : Nat) (r : CpRun) (h : Shape) (key : Int × Int) : ∀ (m : Nat) (g : Gather), g.s.memWf = true →
    (gather n id r h key m g).Keeps
  | 0, _, w => w
  | m + 1, g, w => by
    have hs := cpSource2_wf n r h.sspace ((bytesAt h.sspace h.sswz (h.srcBit g.n / 8).toNat (Nat.max 1 (cpWidth h.sfmt / 8))).headD 0 / 64 * 64)
      ((bytesAt h.sspace h.sswz (h.srcBit g.n / 8).toNat (Nat.max 1 (cpWidth h.sfmt / 8))).getLastD 0 / 64 * 64) g.cache w
    unfold gather
    extract_lets
    split
    · exact w
    split
    · exact w
    split
    · exact w
    revert hs
    generalize g.s.cpSource2 .. = o
    intro hs
    cases o with
    | fail => exact hs
    | peer => exact askPeer_wf _ _ _ _ hs
    | wait => trivial
    | ok u d q =>
      dsimp only
      split
      · exact hs
      · exact gather_wf n id r h key m _ hs

theorem modRun_wf (n id : Nat) (f : CpRun → CpRun) (w : s.memWf = true) : (s.modRun n id f).memWf = true := by
  refine wf_modCore _ _ w fun c => ?_
  split
  · exact ⟨rfl, rfl⟩
  · exact ⟨rfl, rfl⟩

theorem cpFail_wf (n id total code : Nat) (eng : Bool) (fidx addr : Nat) (w : s.memWf = true) :
    (s.cpFail n id total code eng fidx addr).memWf = true := modRun_wf _ _ _ w

theorem cpDone_wf (n id : Nat) (e : EnCmd) (g : Gather) (wrote : Nat) (w : s.memWf = true) : (s.cpDone n id e g wrote).memWf = true := by
  unfold State.cpDone
  refine modRun_wf _ _ _ (perf_wf _ _ _ _ _ (wf_foldl _ _ (fun u x _ h => ?_) w))
  exact wf_ite (fun _ => performs_wf.signStore _ _ _ _ h) fun _ => h

theorem putWords_wf (n : Nat) : ∀ (rows : List DstRow) (s : State) (l : List DstRow) (k : Nat), s.memWf = true →
    ∀ r ∈ State.putWords n rows s l k, r.1.memWf = true
  | [], s, l, k, w => fun r e => by cases e; exact w
  | (row, m, d, q) :: rest, s, l, k, w => by
    have hp := performs_wf.spmPut n (64 * row) (wordMask m) d q true w
    unfold State.putWords
    extract_lets
    split
    · exact putWords_wf n rest s _ _ w
    · generalize s.spmPut .. = o at hp
      cases o with
      | ok u => exact putWords_wf n rest u _ _ hp
      | fail | wait | peer => exact fun _ e => nomatch e

theorem cpWriteSpm_wf (n id : Nat) (r : CpRun) (h : Shape) (g : Gather) (w : s.memWf = true) (wg : g.s.memWf = true) :
    (s.cpWriteSpm n id r h g).memWf = true := by
  unfold State.cpWriteSpm
  extract_lets rows t
  have ht : t.memWf = true := wf_foldl _ _ (fun _ _ _ h => performs_wf.settleRow _ _ _ h) wg
  split
  · exact w
  split
  · exact cpFail_wf _ _ _ _ _ _ _ ht
  · split
    · exact w
    · next e => exact modRun_wf _ _ _ (cpDone_wf _ _ _ _ _ (putWords_wf n rows t [] 0 ht _ e))

theorem cpWriteQueue_wf (n id : Nat) (r : CpRun) (h : Shape) (g : Gather) (wg : g.s.memWf = true) :
    (State.cpWriteQueue n id r h g).memWf = true := by
  unfold State.cpWriteQueue
  exact cpDone_wf _ _ _ _ _ (wf_ite (fun _ => wf_foldl _ _ (fun _ _ _ h => memWf_modCtx _ _ _ h) wg) fun _ => wg)

theorem cpWriteLand_wf (n id : Nat) (r : CpRun) (g : Gather) (wg : g.s.memWf = true) : (State.cpWriteLand n id r g).memWf = true := by
  unfold State.cpWriteLand
  extract_lets e t
  refine cpDone_wf _ _ _ _ _ ?_
  dsimp only [t]
  split
  · exact wg
  · refine wf_ite (fun _ => wg) fun _ => wf_modCore _ _ wg fun c => ?_
    split
    · exact ⟨rfl, rfl⟩
    · exact ⟨rfl, rfl⟩

theorem cpOld_wf (n : Nat) (r : CpRun) (sa : Nat) (w : s.memWf = true) : (s.cpOld n r sa).Keeps Canonical := by
  unfold State.cpOld
  extract_lets t
  split
  · split
    · exact w
    · exact w
    · exact w
  · have hu : (s.performOlder s.accNext n (sa / 64)).memWf = true := performs_wf.performOlder _ _ _ w
    dsimp only
    split
    · trivial
    · exact EngRow.keeps_ok.2 (sysRead_wf _ sa t.tag hu)

theorem cpWriteGlobal_wf (n id : Nat) (r : CpRun) (h : Shape) (g : Gather) (w : s.memWf = true) (wg : g.s.memWf = true) :
    (s.cpWriteGlobal n id r h g).memWf = true := by
  have ht := translate_wf n r.cmd.task (64 * (g.rows.headD (0, 0, 0, 0)).1) wg
  unfold State.cpWriteGlobal
  extract_lets e t
  generalize g.rows.headD (0, 0, 0, 0) = row at ht
  obtain ⟨row, m, d, q⟩ := row
  dsimp only at ht ⊢
  generalize g.s.translate n t (64 * row) = tr at ht
  obtain ⟨u, o⟩ := tr
  cases o with
  | none => exact cpFail_wf _ _ _ _ _ _ _ ht
  | some o =>
    obtain ⟨sa0, b⟩ := o
    dsimp only at ht ⊢
    split
    · exact cpFail_wf _ _ _ _ _ _ _ ht
    · generalize byteMask m = bm, touchMask m = tm
      have ho : EngRow.Keeps Canonical (if bm = tm then .ok u 0 0 else u.cpOld n r (sa0 / 64 * 64)) := by
        split
        · exact ht
        · exact cpOld_wf _ _ _ ht
      generalize (if bm = tm then EngRow.ok u 0 0 else u.cpOld n r (sa0 / 64 * 64)) = o at ho
      cases o with
      | peer => exact askPeer_wf _ _ _ _ ho
      | wait => exact w
      | fail => exact cpFail_wf _ _ _ _ _ _ _ ho
      | ok v old kept =>
        have hv : v.memWf = true := ho
        have hp (x y : Nat) {o : EngWrite} (e : v.globPut n t (64 * row) (sa0 / 64 * 64) tm x y = o) : o.Keeps Canonical :=
          e ▸ performs_wf.globPut _ _ _ _ _ _ _ _ hv
        dsimp only
        split
        · next e => exact cpDone_wf _ _ _ _ _ (hp _ _ e)
        · next e => exact cpFail_wf _ _ _ _ _ _ _ (hp _ _ e)
        · exact w
        · next e => exact modRun_wf _ _ _ (cpDone_wf _ _ _ _ _ (addAcc_wf _ (hp _ _ e)))

theorem cpWrite_wf (n id : Nat) (r : CpRun) (h : Shape) (g : Gather) (w : s.memWf = true) (wg : g.s.memWf = true) :
    (s.cpWrite n id r h g).memWf = true := by
  unfold State.cpWrite
  exact wf_ite (fun _ => cpWriteSpm_wf _ _ _ _ _ w wg) fun _ => wf_ite (fun _ => cpWriteQueue_wf _ _ _ _ _ wg) fun _ =>
    wf_ite (fun _ => cpWriteLand_wf _ _ _ _ wg) fun _ => cpWriteGlobal_wf _ _ _ _ _ w wg

theorem cpGroup_wf (n id : Nat) (w : s.memWf = true) : (s.cpGroup n id).memWf = true := by
  unfold State.cpGroup
  split
  · exact w
  split
  · exact w
  · next r _ _ h _ =>
    refine wf_ite (fun _ => w) fun _ => ?_
    have hg := gather_wf n id r h (h.dstRows r.next) (h.count - r.next) ⟨s, none, r.next, [], [], 0⟩ w
    generalize gather .. = o at hg
    cases o with
    | wait => exact hg
    | hold => exact w
    | fail => exact cpFail_wf _ _ _ _ _ _ _ hg
    | ok => exact cpWrite_wf _ _ _ _ _ w hg

/-! The start and the end of a command (R288, R289, R343). -/

theorem cpAdd_wf (n : Nat) (r : CpRun) (w : s.memWf = true) : (s.cpAdd n r).memWf = true := wf_modCore _ _ w fun _ => ⟨rfl, rfl⟩

theorem cpStartCb_wf (n : Nat) (e : EnCmd) (w : s.memWf = true) : (s.cpStartCb n e).memWf = true := by
  have h := performs_wf.localRows n e.task 12 e.a.toNat w
  unfold State.cpStartCb
  refine wf_ite (fun _ => cpAdd_wf _ _ w) fun _ => ?_
  generalize s.localRows .. = o at h
  cases o with
  | wait => exact w
  | fail | ok => exact cpAdd_wf _ _ h

theorem cpStartCopy_wf (n : Nat) (e : EnCmd) (land : Bool) (w : s.memWf = true) : (s.cpStartCopy n e land).memWf = true := by
  have h := performs_wf.localRows n e.task 4 e.a.toNat w
  have take (o : Option Nat) (l : Core → Land) (r : CpRun) (u : State) (hu : u.memWf = true) :
      ((match o with
        | none => u
        | some k => u.modCore n fun c => { c with land := tblPut c.land k (l c), age := c.age + 1 }).cpAdd n r).memWf = true := by
    refine cpAdd_wf _ _ ?_
    cases o with
    | none => exact hu
    | some k => exact wf_modCore _ _ hu fun _ => ⟨rfl, rfl⟩
  unfold State.cpStartCopy
  -- the parser is hidden, so that no check of a step evaluates it
  obtain ⟨parse, hparse⟩ : ∃ p, p = parseShape := ⟨_, rfl⟩
  rw [← hparse]
  clear hparse
  dsimp only
  generalize (if (land && s.inCtx n e) = true then _ else _ : Option Nat) = slot
  split
  · exact w
  split
  · exact take slot _ _ _ w
  · generalize s.localRows .. = o at h
    cases o with
    | wait => exact w
    | fail => exact take slot _ _ _ h
    | ok u d q =>
      dsimp only
      generalize parse d land e.b = o
      cases o with
      | none => exact take slot _ _ _ h
      | some sh =>
        dsimp only
        generalize (if sh.dspace = 2 then _ else _ : Nat) = k
        split
        · exact w
        · refine take slot _ _ _ ?_
          split
          · exact reserveLq_wf _ _ _ h
          · exact h

theorem cpStart_wf (n : Nat) (w : s.memWf = true) : (s.cpStart n).memWf = true := by
  unfold State.cpStart
  extract_lets c
  split
  · exact w
  · next e rest _ =>
    refine wf_ite (fun _ => w) fun _ => ?_
    extract_lets t
    have ht : t.memWf = true := by
      dsimp only [t]
      split
      · exact cpStartCopy_wf _ _ _ w
      · exact cpStartCopy_wf _ _ _ w
      · exact cpStartCb_wf _ _ w
    exact wf_ite (fun _ => w) fun _ => wf_modCore _ _ ht fun _ => ⟨rfl, rfl⟩

theorem cpComplete_wf (n id : Nat) (w : s.memWf = true) : (s.cpComplete n id).memWf = true := by
  unfold State.cpComplete
  split
  · exact w
  · next r _ =>
    extract_lets e s1 s2 s3 s4 s5 s6
    have h2 : s2.memWf = true := modOwner_wf _ _ _ (wf_modCore _ _ w fun _ => ⟨rfl, rfl⟩)
    have h3 : s3.memWf = true := by
      dsimp only [s3]
      split
      · exact wf_ite (fun _ => teach_wf _ _ h2) fun _ => h2
      · exact h2
    have h4 : s4.memWf = true := wf_ite (fun _ => wf_modCore _ _ h3 fun _ => ⟨rfl, rfl⟩) fun _ => h3
    have h5 : s5.memWf = true := by
      dsimp only [s5]
      split
      · exact h4
      · refine wf_modCore _ _ h4 fun c => ?_
        split
        · exact ⟨rfl, rfl⟩
        · split
          · exact ⟨rfl, rfl⟩
          · exact ⟨rfl, rfl⟩
    have h6 : s6.memWf = true := by
      dsimp only [s6]
      split
      · exact h5
      · exact wf_ite (fun _ => memWf_modCtx _ _ _ h5) fun _ => h5
    exact wf_ite (fun _ => w) fun _ => traceCmd_wf _ _ _ _ _ (perf_wf _ _ _ _ _ (cmdPush_wf _ _ h6))

end

end Sys2Proof.Machine
end

section
/-! SUPPORT. Memories keep their canonical form (log 51): the hub's checks and queues (R314 to R326), the dependence table
and dispatch (R16 to R19, R328 to R332). -/

namespace Sys2Proof.Machine

section
variable {s : State}

theorem modPart_wf (p : Nat) (f : Part → Part) (w : s.memWf = true) : (s.modPart p f).memWf = true := wf_with w rfl rfl
theorem modDie_wf (d : Nat) (f : Die → Die) (w : s.memWf = true) : (s.modDie d f).memWf = true := wf_with w rfl rfl

/-! The hub's checks (R87, R318 to R321). -/

theorem kernelEntry_wf (p k : Nat) (w : s.memWf = true) : (s.kernelEntry p k).1.memWf = true := by
  unfold State.kernelEntry
  extract_lets a
  split
  · exact w
  · have h := sysRead_wf s a 0 w
    generalize s.sysRead a 0 = r at h
    obtain ⟨u, row, _⟩ := r
    dsimp only at h ⊢
    split
    · exact h
    · exact h

theorem imageCheck_wf (p k : Nat) (w : s.memWf = true) : (s.imageCheck p k).1.memWf = true := by
  have h0 := kernelEntry_wf p k w
  unfold State.imageCheck
  generalize s.kernelEntry p k = r at h0
  obtain ⟨u, o⟩ := r
  cases o with
  | none => exact h0
  | some o =>
    obtain ⟨img, size, frame, sys⟩ := o
    have h1 := hubRead_wf p img 256 (s := u) h0
    dsimp only
    generalize u.hubRead p img 256 = r at h1
    obtain ⟨u, o⟩ := r
    cases o with
    | none => exact h1
    | some h =>
      dsimp only
      split
      · exact h1
      · have h2 := hubRead_wf p (img + byteFld h 0x7C 4) (16 * byteFld h 0x80 4) (s := u) h1
        generalize u.hubRead p (img + byteFld h 0x7C 4) (16 * byteFld h 0x80 4) = r at h2
        obtain ⟨u, o⟩ := r
        cases o with
        | none => exact h2
        | some d =>
          dsimp only
          split
          · exact h2
          · have h3 := hubRead_wf p (img + (snapOf h img size frame sys).almOff) (32 * (snapOf h img size frame sys).almCnt) (s := u) h2
            generalize u.hubRead p (img + (snapOf h img size frame sys).almOff) (32 * (snapOf h img size frame sys).almCnt) = r at h3
            obtain ⟨u, o⟩ := r
            cases o with
            | none => exact h3
            | some a =>
              dsimp only
              split
              · exact h3
              · split
                · exact h3
                · split
                  · exact h3
                  · exact h3

/-! Task queues (R314, R415) and launches (R321, R322, R325). -/

theorem enqueue_wf {q : Nat} {r : TRec} {t : State} (e : s.enqueue q r = some t) (w : s.memWf = true) : t.memWf = true := by
  unfold State.enqueue at e
  extract_lets tq at e
  split at e
  · cases e
    exact modTq_wf _ _ w
  · split at e
    · cases e
      exact modTq_wf _ _ (sysWrite_wf _ _ _ _ _ _ w)
    · cases e

theorem dequeue_wf (q : Nat) (w : s.memWf = true) : (s.dequeue q).memWf = true := by
  unfold State.dequeue
  extract_lets tq
  split
  · exact modTq_wf _ _ w
  · have h := sysRead_wf s (tq.base + 64 * (tq.rh % tq.rs)) 0 w
    exact modTq_wf _ _ h

theorem judge_wf (p r : Nat) (host : Bool) (w : s.memWf = true) : (s.judge p r host).1.memWf = true := by
  have h := imageCheck_wf p (recKidx r) w
  unfold State.judge
  split
  · exact w
  · generalize s.imageCheck p (recKidx r) = o at h
    obtain ⟨u, o⟩ := o
    cases o with
    | error => exact h
    | ok o =>
      dsimp only
      split
      · exact h
      · exact h

theorem addLaunch_wf (p r : Nat) (lq : Option (Nat × Nat)) (x : Snap) (al : List AEnt) (w : s.memWf = true) :
    (s.addLaunch p r lq x al).memWf = true := fireLaunch_wf _ (wf_with w rfl rfl)

theorem walkNext_wf (n : Nat) (w : s.memWf = true) : (s.walkNext n).memWf = true := by
  unfold State.walkNext
  split
  · exact w
  · refine wf_ite (fun _ => w) fun _ => ?_
    split
    · exact w
    · next e => exact wf_with (modLaunch_wf n _ (enqueue_wf e w)) rfl rfl

/-- The states that the check of a record from TASKQ can leave. -/
theorem taskRecord_wf (t : Task) (q d : Nat) (w : s.memWf = true) : (s.taskRecord t q d).1.memWf = true ∧
    ∀ u tid, (s.taskRecord t q d).2 = some (.ok (u, tid)) → u.memWf = true := by
  have h := imageCheck_wf t.part (bitsN d 0 12) w
  unfold State.taskRecord
  split
  · exact ⟨w, fun _ _ e => nomatch e⟩
  · next l _ =>
    split
    · exact ⟨w, fun _ _ e => nomatch e⟩
    · generalize s.imageCheck t.part (bitsN d 0 12) = o at h
      obtain ⟨u, o⟩ := o
      cases o with
      | error => exact ⟨h, fun _ _ e => nomatch e⟩
      | ok o =>
        dsimp only
        split
        · exact ⟨h, fun _ _ e => nomatch e⟩
        · next hq =>
          refine ⟨h, fun _ _ e => ?_⟩
          cases e
          exact modLaunch_wf _ _ (enqueue_wf hq h)

/-! The dependence table (R17, R328, R330). -/

theorem chosen_wf (base : Nat) (cands : List (Nat × Nat)) (l q : Nat) (w : s.memWf = true) : (s.chosen base cands l q).memWf = true :=
  wf_with w rfl rfl

theorem tileMapped_wf (p : Nat) : ∀ (n : Nat) (s : State) (va : Nat), s.memWf = true → (State.tileMapped p n s va).1.memWf = true
  | 0, _, _, w => w
  | n + 1, s, va, w => by
    have h := walk_wf p va w
    unfold State.tileMapped
    generalize s.walk p va = r at h
    obtain ⟨u, o⟩ := r
    cases o with
    | none => exact tileMapped_wf p n u _ h
    | some => exact h

theorem leafTooLarge_wf (p tile k : Nat) (w : s.memWf = true) : (s.leafTooLarge p tile k).1.memWf = true := by
  have h := walk_wf p tile w
  unfold State.leafTooLarge
  generalize s.walk p tile = r at h
  obtain ⟨u, o⟩ := r
  cases o with
  | none => exact h
  | some => exact h

theorem newBlock_wf (p held : Nat) (t : Nat × Nat) (w : s.memWf = true) : (s.newBlock p held t).1.memWf = true := by
  have h := tileMapped_wf p (2 ^ t.2) s t.1 w
  unfold State.newBlock
  split
  · exact w
  · generalize State.tileMapped p (2 ^ t.2) s t.1 = r at h
    obtain ⟨u, b⟩ := r
    cases b with
    | false => exact h
    | true =>
      have h2 := leafTooLarge_wf p t.1 t.2 (s := u) h
      dsimp only
      generalize u.leafTooLarge p t.1 t.2 = r at h2
      obtain ⟨u, b⟩ := r
      cases b with
      | true => exact h2
      | false =>
        dsimp only
        split
        · exact h2
        · exact modPart_wf _ _ h2

theorem rename_wf (p : Nat) (tid : Word) (order : Nat) (t : Nat × Nat) (w : s.memWf = true) :
    (s.rename p tid order t).1.memWf = true := by
  have h := newBlock_wf p (s.renames p) t w
  unfold State.rename
  generalize s.newBlock p (s.renames p) t = r at h
  obtain ⟨u, o⟩ := r
  cases o with
  | none => exact h
  | some => exact modPart_wf _ _ h

theorem enter_wf (p q : Nat) (r : TRec) (w : s.memWf = true) : (s.enter p q r).memWf = true := by
  unfold State.enter
  extract_lets order prev raw
  generalize hf : (r.writes.foldl _ _ : State × List (Nat × Nat × Option Nat) × List Word) = a
  suffices ha : a.1.memWf = true from wf_with ha rfl rfl
  rw [← hf]
  refine List.foldlRecOn (motive := fun a : State × List (Nat × Nat × Option Nat) × List Word => a.1.memWf = true) _ _ w
    fun a h e _ => ?_
  obtain ⟨u, ren, conf⟩ := a
  have h2 := rename_wf p r.tid order e (s := u) h
  dsimp only
  split
  · exact h
  · generalize u.rename p r.tid order e = o at h2
    obtain ⟨v, o⟩ := o
    cases o with
    | none => exact h2
    | some => exact h2

theorem taskEntry_wf (p q : Nat) (w : s.memWf = true) : OutWf (execTaskEntry p q s) := by
  unfold execTaskEntry
  extract_lets cands
  split
  · split
    · exact .next w
    · exact .next (enter_wf _ _ _ (dequeue_wf _ (chosen_wf _ _ _ _ w)))
  · exact .next w

/-! Dispatch (R18, R19, R132, R327, R379). -/

theorem autoSlots_wf (n : Nat) (w : s.memWf = true) : (s.autoSlots n).memWf = true := by
  refine wf_modCore _ _ w fun c => ?_
  split
  · exact ⟨rfl, rfl⟩
  · exact ⟨rfl, rfl⟩

theorem startTask_wf (e : Dep) (no : Nat) (pl : Place) (w : s.memWf = true) : (s.startTask e no pl).memWf = true := by
  have h := core_wf s pl.core w
  unfold State.startTask
  extract_lets r t f s1 u
  have hu : u.memWf = true := autoSlots_wf _ (memWf_modCore _ _ _ w ⟨Mem.filter_wf _ _ h.1, h.2⟩)
  exact wf_ite (fun _ => (quiet_traceRec ..).wf hu) fun _ => hu

theorem moreBlocks_wf (e : Dep) (w : s.memWf = true) : (s.moreBlocks e).1.memWf = true := by
  unfold State.moreBlocks
  refine List.foldlRecOn (motive := fun a : State × List (Nat × Nat) => a.1.memWf = true) _ _ w fun a h t _ => ?_
  obtain ⟨u, l⟩ := a
  have h2 := newBlock_wf e.part (u.renames e.part + l.length) t (s := u) h
  dsimp only
  generalize u.newBlock e.part (u.renames e.part + l.length) t = o at h2
  split
  · exact h2
  · exact h2

theorem newInstance_wf (e0 : Dep) (pl : Place) (w : s.memWf = true) : (s.newInstance e0 pl).memWf = true := by
  unfold State.newInstance
  split
  · exact w
  · next e _ =>
    have h : (if e.nextInst = 0 then (s, e.ren.filterMap fun (b, _, x) => x.map fun a => (b, a)) else s.moreBlocks e).1.memWf = true := by
      split
      · exact w
      · exact moreBlocks_wf e w
    exact startTask_wf _ _ _ (wakeCore_wf _ (modDep_wf _ _ _ h))

theorem noteFallback_wf (e : Dep) (k n : Nat) (w : s.memWf = true) : (s.noteFallback e k n).memWf = true :=
  wf_ite (fun _ => w) fun _ => modDie_wf _ _ w

theorem dispatch_wf (tid : Word) (places : List Place) (w : s.memWf = true) : OutWf (execDispatch tid places s) := by
  unfold execDispatch
  extract_lets l cands
  split
  · exact .next w
  · next lv q _ =>
    split
    · exact .next w
    · next e _ =>
      split
      · exact .next w
      split
      · exact .next (wf_foldl _ _ (fun _ _ _ h => wakeCore_wf _ h) w)
      · have h := chosen_wf 0 cands lv q w
        refine .next (wf_foldl _ _ (fun _ _ _ h => newInstance_wf _ _ h) ?_)
        split
        · exact noteFallback_wf _ _ _ h
        · exact h

end

end Sys2Proof.Machine
end

section
/-! SUPPORT. Memories keep their canonical form (log 51): how a task leaves (R20, R21, R186, R331) and the launch queues
(R376, R377). -/

namespace Sys2Proof.Machine

section
variable {s : State}

/-! The end of a task (R20, R21, R120, R185). -/

theorem blame_wf (i : Inst) (n : Nat) (w : s.memWf = true) : (s.blame i n).memWf = true := wf_with w rfl rfl

theorem landAll_wf (k : Who) (w : s.memWf = true) : (s.landAll k).memWf = true := by
  unfold State.landAll
  exact wf_foldl _ _ (fun _ _ _ h => memWf_modClu _ _ _ (wf_foldl _ _ (fun _ _ _ h => wf_foldl _ _ (fun _ _ _ h => land_wf _ _ h) h) h)) w

theorem freeCtx_wf (k : Who) (w : s.memWf = true) : (s.freeCtx k).memWf = true := by
  have h := forget_wf (Party.ofCtx k.core k.ctx) w
  unfold State.freeCtx
  generalize s.forget (Party.ofCtx k.core k.ctx) = u at h
  refine autoSlots_wf _ (wf_modCore _ _ (wf_cores (s := u)
    (fun (n, c) => (n, { c with locks := c.locks.filter fun e => e.2 ≠ (k.core, k.ctx) })) (fun _ => ⟨rfl, rfl⟩) h rfl rfl)
    fun _ => ⟨rfl, rfl⟩)

theorem freeDue_wf (n x : Nat) (w : s.memWf = true) : (s.freeDue n x).memWf = true := by
  unfold State.freeDue
  extract_lets k c all
  split
  · exact w
  · refine wf_ite (fun _ => w) fun _ => wf_ite (fun _ => w) fun _ => ?_
    exact wf_modCore _ _ (freeCtx_wf _ (wf_foldl _ _ (fun _ _ _ h => hand_wf _ _ h) (landAll_wf _ w))) fun _ => ⟨rfl, rfl⟩

theorem discard_wf (e : Dep) (i : Inst) (w : s.memWf = true) : (s.discard e i).memWf = true := wf_with w rfl rfl
theorem commit_wf (e : Dep) (l : List (Nat × Nat)) (w : s.memWf = true) : (s.commit e l).memWf = true := wf_with w rfl rfl
theorem taskDone_wf (e : Dep) (w : s.memWf = true) : (s.taskDone e).memWf = true :=
  modLaunch_wf _ _ (wf_with (t := s.leave e.part e.rcd.tid) w rfl rfl)

theorem settle_wf (p : Nat) (tid : Word) (w : s.memWf = true) : (s.settle p tid).memWf = true := by
  unfold State.settle
  split
  · exact w
  · exact wf_ite (fun _ => modDep_wf _ _ _ w) fun _ => w

theorem retireInst_wf (t : Task) (sigs : List Nat) (w : s.memWf = true) : (s.retireInst t sigs).memWf = true := by
  unfold State.retireInst
  split
  · exact w
  · extract_lets d u
    have hu : u.memWf = true := wf_ite (fun _ => (quiet_traceRec ..).wf w) fun _ => w
    exact wf_ite (fun _ => taskDone_wf _ (commit_wf _ _ hu)) fun _ => settle_wf _ _ (modDep_wf _ _ _ hu)

theorem retireWith_wf (k : Who) (t : Task) (x : Ctx) (sigs : List Nat) (fault : FaultInfo → State) (free : State → State)
    (hf : ∀ f, (fault f).memWf = true) (hfree : ∀ u : State, u.memWf = true → (free u).memWf = true) (w : s.memWf = true) :
    (s.retireWith k t x sigs fault free).memWf = true := by
  unfold State.retireWith
  split
  · exact hf _
  · exact retireInst_wf _ _ (hfree _ (closeRows_wf _ w))

theorem taskRetirement_wf (n x : Nat) (w : s.memWf = true) : OutWf (execTaskRetirement n x s) := by
  unfold execTaskRetirement
  extract_lets k c halted byEnd
  generalize byEnd = o
  cases o with
  | some t =>
    have h := landAll_wf k w
    exact .next (retireWith_wf _ _ _ _ _ _ (fun _ => faultTask_wf _ _ h) (fun _ hu => freeCtx_wf _ hu) h)
  | none =>
    dsimp only
    split
    · exact .next w
    · exact .next (retireWith_wf _ _ _ _ _ _ (fun _ => faultGone_wf _ _ _ w) (fun _ hu => wf_modCore _ _ hu fun _ => ⟨rfl, rfl⟩) w)

/-! Vigil (R186, R247, R378). -/

theorem releaseRows_wf (e : Dep) (i : Inst) (w : s.memWf = true) : (s.releaseRows e i).memWf = true := by
  unfold State.releaseRows
  refine modInst_wf _ _ (wf_foldl _ _ (fun u r _ h => ?_) w)
  exact wf_ite (fun _ => performs_wf.known (.wipeCell ..) (sysWrite_wf _ _ _ _ _ _ h)) fun _ => addAcc_wf _ h

theorem vigilRelease_wf (e : Dep) (i : Inst) (w : s.memWf = true) : (s.vigilRelease e i).memWf = true :=
  taskDone_wf _ (commit_wf _ _ (wf_foldl _ _ (fun _ _ _ h => discard_wf _ _ h) (closeRows_wf _ w)))

theorem vigilUnresolved_wf (e : Dep) (w : s.memWf = true) : (s.vigilUnresolved e).memWf = true :=
  taskDone_wf _ (modLaunch_wf _ _ (modPart_wf _ _ (wf_foldl _ _ (fun _ _ _ h => discard_wf _ _ h) w)))

theorem vigilDecision_wf (tid : Word) (place : Option Place) (w : s.memWf = true) : OutWf (execVigilDecision tid place s) := by
  unfold execVigilDecision
  split
  · exact .next w
  · next e _ =>
    split
    · next i l n _ =>
      have h := releaseRows_wf e i w
      extract_lets u
      split
      · exact .next h
      · exact .next (wf_foldl _ _ (fun _ _ _ h => blame_wf _ _ h) (vigilRelease_wf _ _ h))
    · split
      · exact .next w
      · exact .next (vigilUnresolved_wf _ w)
    · split
      · exact .next w
      · extract_lets used u
        split
        · exact .next w
        split
        · exact .next (wakeCore_wf _ w)
        · exact .next (newInstance_wf _ _ (noteFallback_wf _ _ _ (wf_foldl _ _ (fun _ _ _ h => discard_wf _ _ h) w)))

/-! The fold of overlays (R331). -/

theorem tlbDrop_wf (bad : TlbE → Bool) (w : s.memWf = true) : (s.tlbDrop bad).memWf = true :=
  wf_cores (s := s) (fun (n, c) => (n, { c with tlb := c.tlb.filter fun e => !bad e, walkBad := c.walkBad.filter fun (p, v) => !bad ⟨p, 65536 * v, 65536, 0, false⟩ }))
    (fun _ => ⟨rfl, rfl⟩) w rfl rfl

theorem walkLeaf_wf (p va : Nat) (w : s.memWf = true) : (s.walkLeaf p va).1.memWf = true := walk_wf p va w

theorem setLeaf_wf (ea sa : Nat) (w : s.memWf = true) : (s.setLeaf ea sa).memWf = true := by
  have h := sysReadN_wf ea 8 0 w
  unfold State.setLeaf
  generalize s.sysReadN ea 8 0 = r at h
  exact sysWriteN_wf _ _ _ _ h

theorem foldPage_wf (p : Nat) (o : Overlay) (blk i : Nat) (w : s.memWf = true) : (State.foldPage p o blk s i).memWf = true := by
  have h := walkLeaf_wf p (o.tile + 65536 * i) w
  unfold State.foldPage
  extract_lets va
  generalize s.walkLeaf p va = r at h
  obtain ⟨u, r⟩ := r
  cases r with
  | none => exact modPart_wf _ _ h
  | some r => exact wf_ite (fun _ => h) fun _ => modPart_wf _ _ (setLeaf_wf _ _ h)

theorem overlayFold_wf (p i : Nat) (w : s.memWf = true) : OutWf (execOverlayFold p i s) := by
  unfold execOverlayFold
  split
  · exact .next w
  · next o _ =>
    split
    · exact .next w
    · extract_lets u
      have hu : u.memWf = true := by
        dsimp only [u]
        split
        · exact w
        · exact tlbDrop_wf _ (wf_foldl _ _ (fun _ _ _ h => foldPage_wf _ _ _ _ h) w)
      exact .next (modPart_wf _ _ hu)

/-! Launch queues (R376, R377). -/

theorem sysRows_wf : ∀ (n : Nat) (s : State) (sa : Nat), s.memWf = true → (sysRows n s sa).1.memWf = true
  | 0, _, _, w => w
  | n + 1, s, sa, w => by
    have h := sysRead_wf s sa 0 w
    unfold sysRows
    generalize s.sysRead sa 0 = r at h
    have h2 := sysRows_wf n r.1 (sa + 64) h
    dsimp only
    generalize sysRows n r.1 (sa + 64) = r at h2
    exact h2

theorem sysBlock_wf (sa n : Nat) (w : s.memWf = true) : (s.sysBlock sa n).1.memWf = true := by
  have h := sysRows_wf ((sa % 64 + n + 63) / 64) s (sa / 64 * 64) w
  unfold State.sysBlock
  exact h

theorem modLq_wf (p q : Nat) (f : LaunchQ → LaunchQ) (w : s.memWf = true) : (s.modLq p q f).memWf = true := modPart_wf _ _ w

theorem putCompletion_wf (p q ltag status off : Nat) (w : s.memWf = true) : (s.putCompletion p q ltag status off).memWf = true := by
  unfold State.putCompletion
  exact interrupt_wf _ (modLq_wf _ _ _ (sysWriteN_wf _ _ _ _ w))

theorem completionHeadWrite_wf (p q ch : Nat) (w : s.memWf = true) : OutWf (execCompletionHeadWrite p q ch s) := by
  unfold execCompletionHeadWrite
  extract_lets l
  split
  · exact .next (errEvent_wf _ w)
  · exact .next (modLq_wf _ _ _ w)

theorem launchAcceptance_wf (p q : Nat) (w : s.memWf = true) : OutWf (execLaunchAcceptance p q s) := by
  unfold execLaunchAcceptance
  extract_lets l
  split
  · exact .next w
  split
  · exact .next (manageInt_wf _ (modLq_wf _ _ _ w))
  split
  · exact .next w
  · have h := sysBlock_wf (l.base + l.h) 128 w
    generalize s.sysBlock (l.base + l.h) 128 = b at h
    obtain ⟨u, r⟩ := b
    have h2 := judge_wf p r true (s := u) h
    dsimp only
    generalize u.judge p r true = o at h2
    obtain ⟨v, o⟩ := o
    cases o with
    | wait => exact .next h
    | reject => exact .next (putCompletion_wf _ _ _ _ _ (modLq_wf _ _ _ h2))
    | accept => exact .next (modLq_wf _ _ _ (modLq_wf _ _ _ (addLaunch_wf _ _ _ _ _ h2)))

theorem endLaunch_wf (n : Nat) (l : Launch) (status : Nat) (report : Bool) (w : s.memWf = true) :
    (s.endLaunch n l status report).memWf = true := by
  unfold State.endLaunch
  extract_lets u
  have hu : u.memWf = true := wf_with w rfl rfl
  split
  · exact hu
  · exact wf_ite (fun _ => putCompletion_wf _ _ _ _ _ (modLq_wf _ _ _ hu)) fun _ => modLq_wf _ _ _ hu

theorem launchCompletion_wf (n : Nat) (w : s.memWf = true) : OutWf (execLaunchCompletion n s) := by
  unfold execLaunchCompletion
  split
  · exact .next w
  · split
    · exact .next w
    · exact .next (endLaunch_wf _ _ _ _ w)

theorem almanacRelease_wf (n : Nat) (w : s.memWf = true) : OutWf (execAlmanacRelease n s) := by
  unfold execAlmanacRelease
  split
  · exact .next w
  · split
    · exact .next w
    · exact .next (modLaunch_wf _ _ (wf_with w rfl rfl))

end

end Sys2Proof.Machine
end

section
/-! SUPPORT. Memories keep their canonical form (log 51): the tier engine (R337, R338, R411). -/

namespace Sys2Proof.Machine

section
variable {s : State}

theorem setEnt_wf (n i : Nat) (st : AStat) (w : s.memWf = true) : (s.setEnt n i st).memWf = true := modLaunch_wf _ _ w

theorem failEnt_wf (n i : Nat) (w : s.memWf = true) : (s.failEnt n i).memWf = true := errEvent_wf _ (setEnt_wf _ _ _ w)

theorem pagesAt_wf (p k lv : Nat) : ∀ (n : Nat) (s : State) (va : Nat), s.memWf = true → (State.pagesAt p k lv n s va).1.memWf = true
  | 0, _, _, w => w
  | n + 1, s, va, w => by
    have h := walk_wf p va w
    unfold State.pagesAt
    generalize s.walk p va = r at h
    obtain ⟨u, r⟩ := r
    cases r with
    | none => exact h
    | some r =>
      dsimp only
      split
      · exact pagesAt_wf p k lv n u _ h
      · exact h

theorem tileAt_wf (p : Nat) (t : Nat × Nat) (lv : Nat) (w : s.memWf = true) : (s.tileAt p t lv).1.memWf = true :=
  pagesAt_wf _ _ _ _ _ _ w

/-! Moves of tiles (R338). -/

theorem redirect_wf (old size new : Nat) (w : s.memWf = true) : (s.redirect old size new).memWf = true := wf_with w rfl rfl

theorem copyPage_wf : ∀ (n : Nat) (s : State) (a b : Nat), s.memWf = true → (copyPage n s a b).memWf = true
  | 0, _, _, _, w => w
  | n + 1, s, a, b, w => by
    have h := sysRead_wf s a 0 w
    unfold copyPage
    generalize s.sysRead a 0 = r at h
    exact copyPage_wf n _ _ _ (sysWrite_wf _ _ _ _ _ _ h)

theorem movePage_wf (p : Nat) (t : Nat × Nat) (dst : Nat) (copy : Bool) (i : Nat) (w : s.memWf = true) :
    (State.movePage p t dst copy s i).memWf = true := by
  have h := walkLeaf_wf p (t.1 + 65536 * i) w
  unfold State.movePage
  extract_lets va
  generalize s.walkLeaf p va = r at h
  obtain ⟨u, r⟩ := r
  cases r with
  | none => exact h
  | some r => exact wf_ite (fun _ => h) fun _ => redirect_wf _ _ _ (setLeaf_wf _ _ (wf_ite (fun _ => copyPage_wf _ _ _ _ h) fun _ => h))

theorem moveTile_wf (p : Nat) (t : Nat × Nat) (dst : Nat) (copy : Bool) (w : s.memWf = true) : (s.moveTile p t dst copy).memWf = true :=
  tlbDrop_wf _ (wf_foldl _ _ (fun _ _ _ h => movePage_wf _ _ _ _ _ h) w)

/-! Copies that a shape record describes. -/

theorem tierAddr_wf (p va : Nat) (w : s.memWf = true) : (s.tierAddr p va).1.memWf = true := by
  have h := walk_wf p va w
  unfold State.tierAddr
  generalize s.walk p va = r at h
  obtain ⟨u, r⟩ := r
  cases r with
  | none => exact h
  | some => exact h

theorem bitAt_wf (p : Nat) (bit : Int) (lv : Nat) (w : s.memWf = true) : (s.bitAt p bit lv).1.memWf = true := by
  have h := tierAddr_wf p (bit / 8).toNat w
  unfold State.bitAt
  split
  · exact w
  · generalize s.tierAddr p (bit / 8).toNat = r at h
    obtain ⟨u, r⟩ := r
    cases r with
    | none => exact h
    | some => exact h

theorem sidesAt_wf (p : Nat) (h : Shape) (e : AEnt) : ∀ (n : Nat) (s : State) (i : Nat), s.memWf = true →
    (State.sidesAt p h e n s i).1.memWf = true
  | 0, _, _, w => w
  | n + 1, s, i, w => by
    have h1 := bitAt_wf p (h.srcBit i) (lvOf e.lvFrom) w
    unfold State.sidesAt
    generalize s.bitAt p (h.srcBit i) (lvOf e.lvFrom) = r at h1
    obtain ⟨u, b⟩ := r
    cases b with
    | false => exact h1
    | true =>
      have h2 := bitAt_wf p (h.dstBit i) (lvOf e.lvTo) (s := u) h1
      dsimp only
      generalize u.bitAt p (h.dstBit i) (lvOf e.lvTo) = r at h2
      obtain ⟨u, b⟩ := r
      cases b with
      | false => exact h2
      | true => exact sidesAt_wf p h e n u _ h2

theorem tierShape_wf (l : Launch) (e : AEnt) (w : s.memWf = true) : (s.tierShape l e).1.memWf = true := by
  unfold State.tierShape
  generalize (e.read.bind fun d => parseShape d false 0) = o
  cases o with
  | none => exact w
  | some h =>
    have hs := sidesAt_wf l.part h e h.count s 0 w
    dsimp only
    split
    · exact w
    · generalize State.sidesAt l.part h e h.count s 0 = r at hs
      obtain ⟨u, b⟩ := r
      cases b with
      | false => exact hs
      | true => exact hs

/-- The states that a row group of the tier engine can leave are canonical. -/
def TierKeeps : Except State TierG → Prop
  | .ok g => g.s.memWf = true
  | .error s => s.memWf = true

theorem tierGather_wf (p : Nat) (h : Shape) (row : Int) : ∀ (m : Nat) (g : TierG), g.s.memWf = true → TierKeeps (tierGather p h row m g)
  | 0, _, w => w
  | m + 1, g, w => by
    have ha := tierAddr_wf p (h.srcBit g.n / 8).toNat w
    unfold tierGather
    extract_lets wd v db sb
    split
    · exact w
    · generalize g.s.tierAddr p (sb / 8).toNat = r at ha
      obtain ⟨u, r⟩ := r
      cases r with
      | none => exact ha
      | some r =>
        have hr := sysRead_wf u r.1 0 ha
        dsimp only
        generalize u.sysRead r.1 0 = q at hr
        exact tierGather_wf p h row m _ hr

theorem tierGroup_wf (l : Launch) (h : Shape) (next : Nat) (w : s.memWf = true) : (s.tierGroup l h next).1.memWf = true := by
  have hg := tierGather_wf l.part h (h.dstBit next / 512) (h.count - next) ⟨s, next, 0, 0, 0⟩ w
  unfold State.tierGroup
  extract_lets row va
  generalize tierGather l.part h row (h.count - next) ⟨s, next, 0, 0, 0⟩ = o at hg
  cases o with
  | error => exact hg
  | ok g =>
    have ha := tierAddr_wf l.part va (s := g.s) hg
    dsimp only
    generalize g.s.tierAddr l.part va = r at ha
    obtain ⟨u, r⟩ := r
    cases r with
    | none => exact ha
    | some r =>
      obtain ⟨sa, b⟩ := r
      dsimp only
      split
      · exact ha
      · generalize byteMask g.mask = bm, touchMask g.mask = tm
        have hr : (if bm = tm then (u, 0, 0) else u.sysRead sa 0).1.memWf = true := by
          split
          · exact ha
          · exact sysRead_wf _ _ _ ha
        generalize (if bm = tm then (u, 0, 0) else u.sysRead sa 0) = r at hr
        exact performs_wf.known (.wipeCell ..) (sysWrite_wf _ _ _ _ _ _ hr)

/-! Actions (R338, R411). -/

theorem tierStep_wf (n i action : Nat) (act : State → Launch → AEnt → State) (moves : State → Launch → AEnt → Bool)
    (hact : ∀ (u : State) l e, u.memWf = true → (act u l e).memWf = true) (w : s.memWf = true) :
    (s.tierStep n i action act moves).memWf = true := by
  unfold State.tierStep
  split
  · exact w
  split
  · exact w
  · next l _ _ e _ =>
    refine wf_ite (fun _ => w) fun _ => ?_
    split
    · refine wf_ite (fun _ => w) fun _ => wf_ite (fun _ => ?_) fun _ => ?_
      · have h := tierShape_wf l e w
        generalize s.tierShape l e = r at h
        obtain ⟨u, r⟩ := r
        cases r with
        | none => exact failEnt_wf _ _ h
        | some => exact wf_ite (fun _ => setEnt_wf _ _ _ h) fun _ => setEnt_wf _ _ _ (hact _ _ _ h)
      · have h := tileAt_wf l.part e.tile (lvOf e.lvFrom) w
        exact wf_ite (fun _ => failEnt_wf _ _ h) fun _ => setEnt_wf _ _ _ (hact _ _ _ h)
    · next h next _ =>
      refine wf_ite (fun _ => w) fun _ => ?_
      have hg := tierGroup_wf l h next w
      generalize s.tierGroup l h next = r at hg
      obtain ⟨u, r⟩ := r
      cases r with
      | none => exact failEnt_wf _ _ hg
      | some => exact setEnt_wf _ _ _ hg
    · exact w

theorem fetch_wf (n i : Nat) (w : s.memWf = true) : OutWf (execFetch n i s) :=
  .next (tierStep_wf _ _ _ _ _ (fun _ _ _ h => moveTile_wf _ _ _ _ h) w)

theorem evict_wf (n i : Nat) (w : s.memWf = true) : OutWf (execEvict n i s) :=
  .next (tierStep_wf _ _ _ _ _ (fun _ _ _ h => wf_ite (fun _ => h) fun _ => moveTile_wf _ _ _ _ h) w)

theorem pin_wf (n i : Nat) (w : s.memWf = true) : OutWf (execPin n i s) :=
  .next (tierStep_wf _ _ _ _ _ (fun _ _ _ h => wf_with h rfl rfl) w)

theorem drop_wf (n i : Nat) (w : s.memWf = true) : OutWf (execDrop n i s) := by
  refine .next (tierStep_wf _ _ _ _ _ (fun u l e h => ?_) w)
  exact wf_ite (fun _ => wf_with h rfl rfl) fun _ => moveTile_wf _ _ _ _ (wf_with h rfl rfl)

theorem almanacActionFinish_wf (n i : Nat) (w : s.memWf = true) : OutWf (execAlmanacActionFinish n i s) := by
  unfold execAlmanacActionFinish
  split
  · exact .next w
  · split
    · exact .next (setEnt_wf _ _ _ w)
    · split
      · exact .next (setEnt_wf _ _ _ w)
      · exact .next w
    · exact .next w

end

end Sys2Proof.Machine
end

section
/-! SUPPORT. Memories keep their canonical form (log 51): the Etteoc fabric (R303 to R306, R418 to R420). -/

namespace Sys2Proof.Machine

section
variable {s : State}

theorem modPort_wf (p : Nat) (f : Port → Port) (w : s.memWf = true) : (s.modPort p f).memWf = true := wf_with w rfl rfl

theorem modRm_wf (n i : Nat) (f : RmRun → RmRun) (w : s.memWf = true) : (s.modRm n i f).memWf = true :=
  wf_modCore _ _ w fun _ => ⟨rfl, rfl⟩

theorem wipeCell_wf (place mask : Nat) (w : s.memWf = true) : (s.wipeCell place mask).memWf = true := performs_wf.known (.wipeCell ..) w

/-! Operations of packets (R306, R308, R309). -/

theorem opPlain_wf {by_ : Option (Nat × Nat)} {sa : Nat} {store : Bool} {t : State} (e : s.opPlain by_ sa store = some t)
    (w : s.memWf = true) : t.memWf = true := by
  unfold State.opPlain at e
  split at e
  · cases e
    exact w
  · exact performs_wf.shaPlain e (performs_wf.performOlder _ _ _ w)

theorem opWrite_wf (by_ : Option (Nat × Nat)) (base v : Nat) : ∀ (l : List (Nat × Nat)) (s : State), s.memWf = true →
    (State.opWrite by_ base v l s).1.memWf = true
  | [], _, w => w
  | (x, k) :: r, s, w => by
    unfold State.opWrite
    split
    · exact w
    · next e => exact opWrite_wf by_ base v r _ (wipeCell_wf _ _ (sysWriteN_wf _ _ _ _ (opPlain_wf e w)))

theorem opRead_wf (by_ : Option (Nat × Nat)) : ∀ (l : List (Nat × Nat)) (s : State), s.memWf = true →
    (State.opRead by_ l s).1.memWf = true
  | [], _, w => w
  | (x, k) :: r, s, w => by
    unfold State.opRead
    split
    · exact w
    · next u e =>
      have h := sysReadN_wf x k (opTag by_) (opPlain_wf e w)
      generalize u.sysReadN x k (opTag by_) = q at h
      have h2 := opRead_wf by_ r q.1 h
      dsimp only
      generalize State.opRead by_ r q.1 = q2 at h2
      exact h2

theorem joinColl_wf (c : Contribution) (w : s.memWf = true) : (s.joinColl c).1.memWf = true := by
  unfold State.joinColl
  split
  · exact wf_with w rfl rfl
  · exact wf_with w rfl rfl

theorem dropColls_wf (w : s.memWf = true) : s.dropColls.memWf = true := wf_with w rfl rfl

theorem performOp_wf (by_ : Option (Nat × Nat)) (op : PacketOp) (w : s.memWf = true) : (s.performOp by_ op).1.memWf = true := by
  unfold State.performOp
  extract_lets ok
  cases op with
  | write a l =>
    dsimp only
    split
    · exact w
    · exact opWrite_wf _ _ _ _ _ w
  | put a m d p =>
    dsimp only
    split
    · exact w
    · exact wipeCell_wf _ _ (sysWrite_wf _ _ _ _ _ _ w)
  | read a len =>
    dsimp only
    split
    · exact w
    · exact opRead_wf _ _ _ w
  | atom op wide a v new =>
    dsimp only
    generalize (if wide = true then 8 else 4 : Nat) = n
    split
    · exact w
    · cases by_ with
      | none =>
        dsimp only
        split
        · exact w
        · exact performs_wf.atomicAt _ _ _ _ _ _ w
      | some c =>
        have h := performs_wf.performOlder s.accNext c.1 (a / n * n / 64) w
        dsimp only
        split
        · exact h
        · exact performs_wf.atomicAt _ _ _ _ _ _ h
  | coll c => exact dropColls_wf (joinColl_wf _ w)

/-! Windows (R306, R419). -/

theorem drainWindow_wf (by_ : Option (Nat × Nat)) (key : Nat) : ∀ (n : Nat) (s : State) (l : List Ack), s.memWf = true →
    (drainWindow by_ key n s l).1.memWf = true
  | 0, _, _, w => w
  | n + 1, s, l, w => by
    unfold drainWindow
    extract_lets wd
    split
    · exact w
    · next p _ =>
      have h := performOp_wf by_ p.op w
      generalize s.performOp by_ p.op = r at h
      exact drainWindow_wf by_ key n _ _ (wf_with (s := r.1) h rfl rfl)

theorem discardPacket_wf (pk : Packet) (w : s.memWf = true) : (s.discardPacket pk).memWf = true := errEvent_wf _ w

/-- The state that comes with an answer is canonical. -/
def FstWf {α : Type} (r : State × α) : Prop := r.1.memWf = true

theorem receive_wf (by_ : Option (Nat × Nat)) (pk : Packet) (w : s.memWf = true) : (s.receive by_ pk).1.memWf = true := by
  have h := performOp_wf by_ pk.op w
  have hd := discardPacket_wf pk w
  suffices hr : FstWf (s.receive by_ pk) from hr
  unfold State.receive
  split
  · exact hd
  · extract_lets key wd d
    split
    · split
      · generalize s.performOp by_ pk.op = r at h
        split
        split
        · exact h
        · exact w
      · exact hd
    · split
      · exact hd
      · exact drainWindow_wf _ _ _ _ _ (wf_with w rfl rfl)

/-! The end of remote commands (R290, R311, R420). -/

theorem pushRes_wf (n : Nat) (e : EnCmd) (coll : Bool) (r : FElem) (w : s.memWf = true) : (s.pushRes n e coll r).memWf = true :=
  modOwner_wf _ _ _ w

theorem rmPush_wf (n : Nat) (e : EnCmd) (v : Word) (stat : Nat) (addr : Word) (pois eng : Bool) (w : s.memWf = true) :
    (s.rmPush n e v stat addr pois eng).memWf = true := by
  have h := pushRes_wf n e false { v := v, stat := stat, addr := addr, eng := eng, past := e.past } w
  unfold State.rmPush
  exact traceCmd_wf _ _ _ _ _ (perf_wf _ _ _ _ _ (cmdPush_wf _ _ (wf_ite (fun _ => modOwner_wf _ _ _ h) fun _ => h)))

theorem putPieces_wf {n : Nat} {t : Task} {l : List (Nat × List Byte)} {r : State × Nat × Nat × Bool} (e : State.putPieces n t l s = some r)
    (w : s.memWf = true) : r.1.memWf = true := by
  have h := performs_wf.putPieces n t l w
  rw [e] at h
  exact h

theorem rmRest_wf {n i : Nat} {r : RmRun} {t : State} (e : s.rmRest n i r = some t) (w : s.memWf = true) : t.memWf = true := by
  unfold State.rmRest at e
  extract_lets c set at e
  have hset : ∀ (l : List RmRun) (u : State), u.memWf = true → (set l u).memWf = true := fun l u hu =>
    wf_modCore _ _ hu fun _ => ⟨rfl, rfl⟩
  split at e
  · cases e
    exact hset _ _ w
  · split at e
    · split at e
      · cases e
        exact hset _ _ w
      · cases e
    · extract_lets l at e
      split at e
      · cases e
      · obtain ⟨q, hq, rfl⟩ := Option.map_eq_some_iff.1 e
        have h := putPieces_wf hq w
        exact hset _ _ (wf_ite (fun _ => modOwner_wf _ _ _ h) fun _ => h)

theorem rmComplete_wf {n i : Nat} {t : State} (e : s.rmComplete n i = some t) (w : s.memWf = true) : t.memWf = true := by
  unfold State.rmComplete at e
  extract_lets c at e
  split at e
  · cases e
  · next r _ =>
    extract_lets m at e
    have hdrop (u : State) (hu : u.memWf = true) : (u.modCore n fun c => { c with rmRun := c.rmRun.eraseIdx i }).memWf = true :=
      wf_modCore _ _ hu fun _ => ⟨rfl, rfl⟩
    split at e
    · exact rmRest_wf e w
    split at e
    · cases e
    dsimp only at e
    split at e
    · split at e
      · cases e
        exact rmPush_wf _ _ _ _ _ _ _ (hdrop _ w)
      · split at e
        · cases e
        · next hp =>
          cases e
          exact rmPush_wf _ _ _ _ _ _ _ (wf_modCore _ _ (putPieces_wf hp w) fun _ => ⟨rfl, rfl⟩)
    · cases e
      exact rmPush_wf _ _ _ _ _ _ _ (hdrop _ (closeRows_wf _ w))
    · cases e
      exact rmPush_wf _ _ _ _ _ _ _ (hdrop _ w)

theorem rmFinish_wf (n : Nat) : ∀ (m : Nat) (s : State), s.memWf = true → (State.rmFinish n m s).memWf = true
  | 0, _, w => w
  | m + 1, s, w => by
    unfold State.rmFinish
    split
    · exact w
    · next e =>
      obtain ⟨i, _, hi⟩ := List.exists_of_findSome?_eq_some e
      exact rmFinish_wf n m _ (rmComplete_wf hi w)

theorem rmSweep_wf (n : Nat) (w : s.memWf = true) : (s.rmSweep n).memWf = true := rmFinish_wf _ _ _ w

/-! Acknowledgements (R304, R418). -/

theorem accAnswer_wf (i : Nat) (bytes : List Byte) (st : Nat) (w : s.memWf = true) : (s.accAnswer i bytes st).memWf = true := by
  unfold State.accAnswer
  split
  · exact w
  · next a _ =>
    extract_lets d p bad fault
    have hf : (fault s).memWf = true := wf_ite (fun _ => faultLate_wf _ _ _ (dropAcc_wf _ w)) fun _ => dropAcc_wf _ w
    split
    · exact wf_ite (fun _ => hf) fun _ => deliver_wf _ _ _ _ _ (performs_wf.known (.loadCell ..) w)
    · exact modRun_wf _ _ _ (dropAcc_wf _ w)
    · exact modRun_wf _ _ _ (dropAcc_wf _ (wf_ite (fun _ => w) fun _ => wipeCell_wf _ _ w))
    · exact wf_ite (fun _ => hf) fun _ => dropAcc_wf _ (wipeCell_wf _ _ w)
    · exact wf_ite (fun _ => hf) fun _ => dropAcc_wf _ (performs_wf.known (.setCell ..) w)

theorem takeAck_wf (ak : Ack) (w : s.memWf = true) : (s.takeAck ak).memWf = true := by
  unfold State.takeAck
  split
  · exact w
  · next x _ =>
    have h (l : List Sent) : (State.modPort { s with unacked := l } x.pk.port fun p => { p with flits := p.flits - opFlits x.pk.op }).memWf = true :=
      modPort_wf _ _ (wf_with w rfl rfl)
    extract_lets u v
    have hv : v.memWf = true := h _
    split
    · exact accAnswer_wf _ _ _ hv
    · exact rmSweep_wf _ (wf_modCore _ _ hv fun _ => ⟨rfl, rfl⟩)

theorem sendPacket_wf (n tag dst cls route port : Nat) (op : PacketOp) (acc : Option Nat) (w : s.memWf = true) :
    (s.sendPacket n tag dst cls route port op acc).memWf = true := by
  unfold State.sendPacket
  have hr (u : State) (pk : Packet) (hu : u.memWf = true) := receive_wf (some (n, tag)) pk hu
  -- what the destination makes of a packet is hidden, so that no check of a step evaluates it
  generalize State.receive = receive at hr ⊢
  extract_lets q pk u v
  have hv : v.memWf = true := modPort_wf _ _ (wf_with (t := u) w rfl rfl)
  refine wf_ite (fun _ => ?_) fun _ => hv
  have h := hr v pk hv
  generalize receive v (some (n, tag)) pk = r at h ⊢
  obtain ⟨u', l⟩ := r
  exact wf_foldl State.takeAck l (fun _ _ _ h => takeAck_wf _ h) h

/-! Offers, routes and lanes (R303, R305, R400). -/

theorem loseMember_wf (no d : Nat) (w : s.memWf = true) : (s.loseMember no d).memWf = true := dropColls_wf (wf_with w rfl rfl)

theorem offerGone_wf (n : Nat) (o : Offer) (seq : Nat) (w : s.memWf = true) : (s.offerGone n o seq).memWf = true := by
  unfold State.offerGone
  extract_lets u
  have hu : u.memWf = true := wf_with w rfl rfl
  split
  · exact wf_with hu rfl rfl
  · exact modRm_wf _ _ _ hu
  · exact wf_modCore _ _ hu fun _ => ⟨rfl, rfl⟩

theorem offerLost_wf (n : Nat) (o : Offer) (w : s.memWf = true) : (s.offerLost n o).memWf = true := by
  unfold State.offerLost
  split
  · exact accAnswer_wf _ _ _ w
  · exact rmSweep_wf _ (modRm_wf _ _ _ w)
  · split
    · exact w
    · exact loseMember_wf _ _ (offerGone_wf _ _ _ w)

theorem sendOffer_wf {n : Nat} {o : Offer} {t : State} (e : s.sendOffer n o = some t) (w : s.memWf = true) : t.memWf = true := by
  unfold State.sendOffer at e
  split at e
  · cases e
  · cases e
    exact offerLost_wf _ _ w
  · split at e
    · cases e
    · cases e
      exact sendPacket_wf _ _ _ _ _ _ _ _ (offerGone_wf _ _ _ w)

theorem packetSend_wf (n : Nat) (w : s.memWf = true) : OutWf (execPacketSend n s) := by
  unfold execPacketSend
  split
  · exact .next w
  · split
    · next e =>
      obtain ⟨o, _, ho⟩ := List.exists_of_findSome?_eq_some e
      exact .next (sendOffer_wf ho w)
    · exact .next w

theorem arrive_wf (pk : Packet) (w : s.memWf = true) : (s.arrive pk).memWf = true := by
  unfold State.arrive
  exact wf_ite (fun _ => discardPacket_wf _ w) fun _ => wf_with (receive_wf none pk w) rfl rfl

theorem loseSent_wf (pk : Packet) (w : s.memWf = true) : (s.loseSent pk).memWf = true := by
  unfold State.loseSent
  split
  · split
    · exact loseMember_wf _ _ w
    · exact w
  · exact w

theorem failSent_wf (x : Sent) (w : s.memWf = true) : (s.failSent x).memWf = true := by
  unfold State.failSent
  extract_lets u v
  have hv : v.memWf = true := modPort_wf _ _ (wf_with (t := u) w rfl rfl)
  split
  · exact accAnswer_wf _ _ _ hv
  · exact rmSweep_wf _ (wf_modCore _ _ (loseSent_wf _ hv) fun _ => ⟨rfl, rfl⟩)

theorem replay_wf (x : Sent) (w : s.memWf = true) : (s.replay x).memWf = true := by
  unfold State.replay
  split
  · exact failSent_wf _ w
  · next i r _ =>
    extract_lets u
    have hu : u.memWf = true := modPort_wf _ _ (modPort_wf _ _ w)
    exact wf_with hu rfl rfl

theorem failRoute_wf (i : Nat) (w : s.memWf = true) : (s.failRoute i).memWf = true := by
  unfold State.failRoute
  split
  · exact w
  · exact wf_ite (fun _ => w) fun _ => wf_foldl _ _ (fun _ _ _ h => replay_wf _ h) (errEvent_wf _ (wf_with w rfl rfl))

theorem takeSpare_wf (p lane : Nat) (w : s.memWf = true) : (s.takeSpare p lane).memWf = true := by
  unfold State.takeSpare
  split
  · exact wf_with w rfl rfl
  · exact w

theorem laneLoss_wf (p lane : Nat) (w : s.memWf = true) : OutWf (execLaneLoss p lane s) := by
  unfold execLaneLoss
  split
  · exact .next (wf_foldl _ _ (fun _ _ _ h => failRoute_wf _ h) (errEvent_wf _ w))
  · exact .next (errEvent_wf _ (takeSpare_wf _ _ (modPort_wf _ _ w)))

end

end Sys2Proof.Machine
end

section
/-! SUPPORT. Memories keep their canonical form (log 51): the remote engine (R308 to R315, R340, R341) and the collective
engine (R312, R313). -/

namespace Sys2Proof.Machine

section
variable {s : State}

/-! Reads of bytes at local addresses. -/

/-- The state that a read in parts leaves is canonical. -/
def ReadKeeps (o : Option (State × List Byte × Bool × Nat × Nat)) : Prop := ∀ r ∈ o, r.1.memWf = true

theorem readLocal_wf (chk : Bool) (n : Nat) (t : Task) : ∀ (l : List (Nat × Nat)) (s : State), s.memWf = true →
    ReadKeeps (readLocal chk n t l s)
  | [], _, w => fun _ e => by cases e; exact w
  | (a, k) :: rest, s, w => by
    have h := performs_wf.localRow n t a chk w
    unfold readLocal
    generalize s.localRow n t a chk = o at h ⊢
    cases o with
    | wait => exact fun _ e => nomatch e
    | fail | peer => exact fun _ e => by cases e; exact h
    | ok u d p =>
      have hr := readLocal_wf chk n t rest u h
      dsimp only
      generalize readLocal chk n t rest u = q at hr ⊢
      intro r e
      obtain ⟨x, hx, rfl⟩ := Option.map_eq_some_iff.1 e
      exact hr x hx

/-! The start of a remote command (R288). -/

/-- The state that a start leaves is canonical. -/
def RmStart.Keeps : RmStart → Prop
  | .wait s => s.memWf = true
  | .run s _ => s.memWf = true

theorem startRput_wf (n : Nat) (e : EnCmd) (w : s.memWf = true) : (s.startRput n e).Keeps := by
  have hb := performs_wf.badLocal n e.task e.a.toNat e.d.toNat w
  unfold State.startRput
  extract_lets len b
  split
  · exact w
  split
  · exact w
  · generalize s.badLocal n e.task e.a.toNat len = r at hb ⊢
    obtain ⟨u, o⟩ := r
    cases o with
    | some => exact hb
    | none =>
      have hr := readLocal_wf true n e.task (partsOf e.a.toNat len) u hb
      dsimp only
      generalize readLocal true n e.task (partsOf e.a.toNat len) u = q at hr ⊢
      cases q with
      | none => exact hb
      | some q => exact hr q rfl

theorem startRget_wf (n : Nat) (e : EnCmd) (w : s.memWf = true) : (s.startRget n e).Keeps := by
  have hb := performs_wf.badLocal n e.task e.a.toNat e.d.toNat w
  unfold State.startRget
  extract_lets len a b
  split
  · exact w
  split
  · exact w
  · generalize s.badLocal n e.task a len = r at hb ⊢
    obtain ⟨u, o⟩ := r
    cases o with
    | some => exact hb
    | none =>
      dsimp only
      split
      · exact hb
      · exact hb

theorem startRatom_wf (e : EnCmd) (z : BitVec 1) (o : BitVec 3) (w : s.memWf = true) : (s.startRatom e z o).Keeps := by
  unfold State.startRatom
  extract_lets n a
  split
  · exact w
  · exact w

theorem startTaskq_wf (n : Nat) (e : EnCmd) (w : s.memWf = true) : (s.startTaskq n e).Keeps := by
  have h := performs_wf.localRow n e.task (e.a.toNat / 64 * 64) true w
  unfold State.startTaskq
  generalize s.localRow n e.task (e.a.toNat / 64 * 64) = o at h ⊢
  cases o with
  | wait => exact w
  | fail | peer => exact h
  | ok u d p =>
    have ht := taskRecord_wf e.task e.b.toNat d (s := u) h
    dsimp only
    generalize u.taskRecord e.task e.b.toNat d = r at ht ⊢
    obtain ⟨v, o⟩ := r
    match o with
    | none => exact w
    | some (.error _) => exact ht.1
    | some (.ok (x, tid)) => exact ht.2 x tid rfl

theorem startLaunch_wf (n : Nat) (e : EnCmd) (w : s.memWf = true) : (s.startLaunch n e).Keeps := by
  have h := performs_wf.localRows n e.task 2 e.a.toNat (closeRows_wf n w)
  unfold State.startLaunch
  split
  · exact w
  split
  · exact w
  · generalize (s.closeRows n).localRows n e.task 2 e.a.toNat = o at h ⊢
    cases o with
    | wait => exact w
    | fail => exact h
    | ok u d p =>
      have hj := judge_wf e.task.part d false (s := u) h
      dsimp only
      generalize u.judge e.task.part d false = r at hj ⊢
      obtain ⟨v, o⟩ := r
      cases o with
      | wait => exact w
      | reject => exact hj
      | accept => exact addLaunch_wf _ _ _ _ _ hj

theorem startAlmld_wf (n : Nat) (e : EnCmd) (w : s.memWf = true) : (s.startAlmld n e).Keeps := by
  have h := performs_wf.localRows n e.task ((e.b.toNat + 1) / 2) e.a.toNat w
  unfold State.startAlmld
  extract_lets cnt
  split
  · exact w
  · generalize s.localRows n e.task ((cnt + 1) / 2) e.a.toNat = o at h ⊢
    cases o with
    | wait => exact w
    | fail => exact h
    | ok u d p =>
      dsimp only
      generalize almEntries cnt d = x, u.launch? e.task.launch = y
      split
      · split
        · exact h
        · exact fireLaunch_wf _ (modLaunch_wf _ _ h)
      · exact h

theorem startAlmclr_wf (e : EnCmd) (w : s.memWf = true) : (s.startAlmclr e).Keeps := by
  unfold State.startAlmclr
  split
  · exact w
  · exact modLaunch_wf _ _ w

theorem startRm_wf (n : Nat) (e : EnCmd) (w : s.memWf = true) : (s.startRm n e).Keeps := by
  unfold State.startRm
  split
  · exact startRput_wf _ _ w
  · exact startRget_wf _ _ w
  · exact startRatom_wf _ _ _ w
  · exact w
  · exact startTaskq_wf _ _ w
  · exact startLaunch_wf _ _ w
  · exact startAlmld_wf _ _ w
  · exact startAlmclr_wf _ w

theorem rmHead_wf (n : Nat) (w : s.memWf = true) : (s.rmHead n).memWf = true := by
  unfold State.rmHead
  split
  · exact w
  · next e rest _ =>
    refine wf_ite (fun _ => w) fun _ => ?_
    have h := startRm_wf n e w
    generalize s.startRm n e = o at h ⊢
    cases o with
    | wait => exact h
    | run => exact rmSweep_wf _ (wf_modCore _ _ h fun _ => ⟨rfl, rfl⟩)

theorem taskEnqueue_wf (q : Nat) (w : s.memWf = true) : OutWf (execTaskEnqueue q s) := by
  unfold execTaskEnqueue
  split
  · exact .next (walkNext_wf _ w)
  · generalize s.cores.find? _ = o
    cases o with
    | some => exact .next (rmHead_wf _ (rmSweep_wf _ w))
    | none => exact .next w

/-! The collective engine (R312, R313). -/

theorem colPush_wf (n : Nat) (e : EnCmd) (v : Word) (stat : Nat) (addr : Word) (w : s.memWf = true) : (s.colPush n e v stat addr).memWf = true :=
  cmdPush_wf _ _ (pushRes_wf _ _ _ _ w)

/-- The state that a contribution leaves is canonical. -/
def ColStart.Keeps : ColStart → Prop
  | .ok s _ _ => s.memWf = true
  | .fail s _ _ => s.memWf = true
  | .wait => True

theorem colParts_wf (n : Nat) (e : EnCmd) (src dst : Nat) (w : s.memWf = true) : (s.colParts n e src dst).Keeps := by
  unfold State.colParts
  extract_lets len sends check
  have hcheck (u : State) (on : Bool) (v : Nat) (hu : u.memWf = true) : (check u on v).1.memWf = true := by
    dsimp only [check]
    split
    · exact performs_wf.badLocal _ _ _ _ hu
    · exact hu
  have h1 := hcheck s sends src w
  generalize check s sends src = r at h1 ⊢
  obtain ⟨u, o⟩ := r
  cases o with
  | some => exact h1
  | none =>
    have h2 := hcheck u (u.receives e) dst h1
    dsimp only
    generalize check u (u.receives e) dst = r at h2 ⊢
    obtain ⟨u, o⟩ := r
    cases o with
    | some => exact h2
    | none =>
      dsimp only
      split
      · exact h2
      · have hr (l : List (Nat × Nat)) := readLocal_wf false n e.task l u h2
        generalize readLocal false n e.task = rd at hr ⊢
        split
        · trivial
        · next v l bad st ad e =>
          have hv : v.memWf = true := hr _ _ e
          split
          · exact hv
          · exact wf_ite (fun _ => modOwner_wf _ _ _ hv) fun _ => hv

theorem contribute_wf (n : Nat) (e : EnCmd) (w : s.memWf = true) : (s.contribute n e).Keeps := by
  have h := performs_wf.localRow n e.task e.a.toNat false w
  unfold State.contribute
  split
  · exact w
  · generalize s.localRow n e.task e.a.toNat false = o at h ⊢
    cases o with
    | wait => trivial
    | fail | peer => exact h
    | ok u d p =>
      dsimp only
      split
      · exact h
      · exact colParts_wf _ _ _ _ h

theorem colHand_wf (n : Nat) (w : s.memWf = true) : (s.colHand n).memWf = true := by
  unfold State.colHand
  extract_lets c
  split
  · exact w
  · next e rest _ =>
    refine wf_ite (fun _ => w) fun _ => ?_
    have h := contribute_wf n e w
    dsimp only
    generalize s.contribute n e = o at h ⊢
    cases o with
    | wait => exact w
    | fail => exact wf_modCore _ _ h fun _ => ⟨rfl, rfl⟩
    | ok u e' own => exact wf_modCore _ _ (joinColl_wf own (s := u) h) fun _ => ⟨rfl, rfl⟩

theorem colDrop_wf (n : Nat) (r : CoRun) (w : s.memWf = true) : (s.colDrop n r).memWf = true := by
  unfold State.colDrop
  extract_lets u
  have hu : u.memWf = true := wf_modCore _ _ w fun _ => ⟨rfl, rfl⟩
  exact wf_ite (fun _ => hu) fun _ => dropColls_wf (wf_with hu rfl rfl)

theorem putLocal_wf {chk : Bool} {n : Nat} {t : Task} {base v : Nat} {l : List (Nat × Nat)} {r : State × Nat × Nat × Bool}
    (e : State.putLocal chk n t base v l s = some r) (w : s.memWf = true) : r.1.memWf = true := by
  have h := performs_wf.putLocal chk n t base v l w
  rw [e] at h
  exact h

theorem colFinish_wf (n : Nat) (w : s.memWf = true) : (s.colFinish n).memWf = true := by
  unfold State.colFinish
  extract_lets ready
  split
  · exact w
  · next r _ =>
    extract_lets e
    split
    · exact colPush_wf _ _ _ _ _ (colDrop_wf _ _ w)
    · split
      · exact w
      · exact colPush_wf _ _ _ _ _ (colDrop_wf _ _ w)
      · refine wf_ite (fun _ => colPush_wf _ _ _ _ _ (colDrop_wf _ _ w)) fun _ => ?_
        split
        · exact w
        · next hp =>
          have h := putLocal_wf hp w
          exact wf_ite (fun _ => colPush_wf _ _ _ _ _ (colDrop_wf _ _ h)) fun _ =>
            colPush_wf _ _ _ _ _ (modOwner_wf _ _ _ (colDrop_wf _ _ h))

end

end Sys2Proof.Machine
end

section
/-! SUPPORT. Memories keep their canonical form (log 51): saved context images (R381 to R387, R390). -/

namespace Sys2Proof.Machine

section
variable {s : State}

/-! Rows of an image. -/

theorem imgRow_wf (at_ : ImgAt) (i : Nat) (w : s.memWf = true) : (s.imgRow at_ i).1.memWf = true := by
  cases at_ with
  | sys a =>
    have h := sysRead_wf s (a + 64 * i) 0 w
    exact h
  | loc n t a =>
    unfold State.imgRow
    dsimp only
    split
    · exact spmRead_wf _ _ _ _ w
    · have h := translate_wf n t (a + 64 * i) w
      generalize s.translate n t (a + 64 * i) = r at h ⊢
      obtain ⟨u, o⟩ := r
      cases o with
      | none => exact h
      | some o => exact sysRead_wf u o.1 t.tag h

theorem imgPut_wf (at_ : ImgAt) (i row : Nat) (w : s.memWf = true) : (s.imgPut at_ i row).memWf = true := by
  cases at_ with
  | sys a => exact sysWrite_wf _ _ _ _ _ _ w
  | loc n t a =>
    unfold State.imgPut
    dsimp only
    split
    · exact spmWrite_wf _ _ _ _ _ _ w
    · have h := translate_wf n t (a + 64 * i) w
      generalize s.translate n t (a + 64 * i) = r at h ⊢
      obtain ⟨u, o⟩ := r
      cases o with
      | none => exact h
      | some o => exact sysWrite_wf _ _ _ _ _ _ h

theorem imgRows_wf (at_ : ImgAt) : ∀ (n : Nat) (s : State) (i : Nat), s.memWf = true → (imgRows at_ n s i).1.memWf = true
  | 0, _, _, w => w
  | n + 1, s, i, w => by
    have h := imgRow_wf at_ i w
    unfold imgRows
    generalize s.imgRow at_ i = r at h ⊢
    have h2 := imgRows_wf at_ n r.1 (i + 1) h
    dsimp only
    generalize imgRows at_ n r.1 (i + 1) = r at h2 ⊢
    exact h2

theorem putImage_wf (at_ : ImgAt) (v : Nat) (w : s.memWf = true) : (s.putImage at_ v).memWf = true := by
  unfold State.putImage
  exact wf_foldl _ _ (fun _ _ _ h => imgPut_wf _ _ _ h) w

theorem imgFault_wf (n : Nat) (t : Task) (a : Nat) (write : Bool) (w : s.memWf = true) : (s.imgFault n t a write).1.memWf = true :=
  performs_wf.imgFault n t a write w

theorem imgSettle_wf (n : Nat) (t : Task) (a : Nat) (w : s.memWf = true) : (s.imgSettle n t a).1.memWf = true :=
  performs_wf.imgSettle n t a w

/-! Writing an image (R382, R385). -/

theorem writeImage_wf (k : Who) (at_ : ImgAt) (w : s.memWf = true) : (s.writeImage k at_).memWf = true := by
  unfold State.writeImage
  dsimp only
  split
  · exact w
  · refine putImage_wf _ _ (wf_with (keepAccs_wf _ (wf_foldl _ _ (fun _ _ _ h => memWf_modClu _ _ _ h) w)) rfl rfl)

/-! Putting an image back (R383, R387, R390). -/

theorem putBack_wf (k : Who) (taken : Tbl Nat) (e : DumpEntry) (w : s.memWf = true) : (State.putBack k (s, taken) e).1.memWf = true := by
  have fly (j : Who) (f : Cluster → Cluster) : (s.modClu j f).memWf = true := memWf_modClu _ _ _ w
  unfold State.putBack
  dsimp only
  split
  · exact fly _ _
  · exact fly _ _
  · exact fly _ _
  · split
    · split
      · exact fly _ _
      · exact w
    · split
      · exact w
      · split
        · exact addAcc_wf _ w
        · exact fly _ _
  · exact fly _ _
  · exact fly _ _
  · exact fly _ _
  · exact w

theorem putDump_wf (k : Who) (l : List DumpEntry) (w : s.memWf = true) : (s.putDump k l).memWf = true := by
  unfold State.putDump
  refine List.foldlRecOn (motive := fun r : State × Tbl Nat => r.1.memWf = true) _ _ w fun r h e _ => ?_
  exact putBack_wf (s := r.1) k r.2 e h

theorem putLands_same (c : Core) (x v : Nat) (l : List Land) : (c.putLands x v l).frame = c.frame ∧ (c.putLands x v l).spm = c.spm := by
  unfold Core.putLands
  exact List.foldlRecOn (motive := fun d : Core => d.frame = c.frame ∧ d.spm = c.spm) _ _ ⟨rfl, rfl⟩ fun _ h _ _ => h

theorem placeImage_wf (n x fo v : Nat) (b : Saved) (t : Task) (w : s.memWf = true) : (s.placeImage n x fo v b t).memWf = true := by
  unfold State.placeImage
  refine autoSlots_wf _ (modInst_wf _ _ (putDump_wf _ _ (memWf_modCore _ _ _ w ?_)))
  dsimp only
  rw [(putLands_same ..).1, (putLands_same ..).2]
  exact ⟨Mem.writeN_wf _ _ _ _ (Mem.filter_wf _ _ (core_wf s n w).1), (core_wf s n w).2⟩

theorem loadImage_wf (n : Nat) (at_ : ImgAt) (w : s.memWf = true) : (s.loadImage n at_).1.memWf = true := by
  have h := imgRows_wf at_ 3072 s 0 w
  suffices hr : FstWf (s.loadImage n at_) from hr
  unfold State.loadImage
  generalize imgRows at_ 3072 s 0 = r at h ⊢
  obtain ⟨u, v⟩ := r
  have hu (x : Nat) : FstWf (u, x) := h
  dsimp only
  split
  · exact hu _
  split
  · exact hu _
  split
  · exact hu _
  split
  · split
    · exact hu _
    split
    · exact hu _
    · split
      · exact hu _
      · exact placeImage_wf _ _ _ _ _ _ h
  · exact hu _

/-! The events of saving (R381, R382, R385). -/

theorem landRows_wf (k : Who) (w : s.memWf = true) : (s.landRows k).memWf = true := by
  unfold State.landRows
  refine wf_foldl _ _ (fun u j _ h => ?_) w
  exact wf_ite (fun _ => wf_foldl _ _ (fun _ _ _ h => wf_foldl _ _ (fun _ _ _ h => land_wf _ _ h) h) (memWf_modClu _ _ _ h)) fun _ => h

theorem preemptionTrap_wf (k : Who) (w : s.memWf = true) : OutWf (execPreemptionTrap k s) := by
  unfold execPreemptionTrap
  split
  · exact .next (trapCluster_wf _ w)
  · exact .next w

theorem savedImageWrite_wf (n x : Nat) (w : s.memWf = true) : OutWf (execSavedImageWrite n x s) := by
  unfold execSavedImageWrite
  extract_lets k
  split
  · exact .next w
  · split
    · exact .next w
    · have h := landRows_wf k w
      dsimp only
      split
      · exact .next h
      · split
        · exact .next h
        · next e => exact .next (memWf_modClu _ _ _ (freeCtx_wf _ (closeRows_wf _ (writeImage_wf _ _ (release_wf e h)))))

theorem stopAreaWrite_wf (n x : Nat) (w : s.memWf = true) : OutWf (execStopAreaWrite n x s) := by
  unfold execStopAreaWrite
  extract_lets k c coming
  split
  · exact .next w
  · exact .next (memWf_modCtx _ _ _ (writeImage_wf _ _ w))

theorem answerSave_wf (n x : Nat) (d : Word) (w : s.memWf = true) : (s.answerSave n x d).memWf = true := by
  unfold State.answerSave
  split
  · exact w
  · exact memWf_modClu _ _ _ w

theorem inject_wf (k : Who) (w : s.memWf = true) : (s.inject k).1.memWf = true := by
  have h (at_ : ImgAt) (n : Nat) (t : State) (i : Nat) (ht : t.memWf = true) : FstWf (imgRows at_ n t i) := imgRows_wf _ _ _ _ ht
  suffices hr : FstWf (s.inject k) from hr
  -- the rows of the image and its dump are hidden, so that no check of a step evaluates them
  generalize hf : State.inject = f
  delta State.inject at hf
  generalize imgRows = rows at h hf
  generalize imgDump = dump at hf
  subst hf
  dsimp -zeta -iota -proj only
  replace h := h (.sys (s.stopAddr k)) 1024 s 0 w
  generalize rows (.sys (s.stopAddr k)) 1024 s 0 = r at h ⊢
  obtain ⟨u, v⟩ := r
  dsimp only
  split
  · exact h
  · exact putDump_wf _ _ h

theorem resumeOk_wf : ∀ (l : List Who) (s : State), s.memWf = true → (resumeOk l s).1.memWf = true
  | [], _, w => w
  | k :: l, s, w => by
    have h := imgRows_wf (.sys (s.stopAddr k)) 2 s 0 w
    unfold resumeOk
    generalize imgRows (.sys (s.stopAddr k)) 2 s 0 = r at h ⊢
    obtain ⟨u, v⟩ := r
    dsimp only
    split
    · exact h
    · exact iteInduction (motive := FstWf) (fun _ => resumeOk_wf l u h) fun _ => h

theorem shiftRows_wf (k : Who) (w : s.memWf = true) : (s.shiftRows k).memWf = true := wf_with w rfl rfl

theorem resumeCtx_wf (k : Who) (w : s.memWf = true) : (s.resumeCtx k).memWf = true := by
  have h (at_ : ImgAt) (n : Nat) (t : State) (i : Nat) (ht : t.memWf = true) : FstWf (imgRows at_ n t i) := imgRows_wf _ _ _ _ ht
  -- the rows of the image are hidden, so that no check of a step evaluates them
  generalize hf : State.resumeCtx = f
  delta State.resumeCtx at hf
  generalize imgRows = rows at h hf
  generalize bitsN = bits at hf
  subst hf
  dsimp -zeta -iota -proj only
  extract_lets +onlyGivenNames cur u
  replace h := h (.sys (u.stopAddr k)) 3072 u 0 (shiftRows_wf k w)
  generalize rows (.sys (u.stopAddr k)) 3072 u 0 = r at h ⊢
  split
  next v _ =>
  replace h : v.memWf = true := h
  split
  · next b t _ _ =>
    refine memWf_modCore _ _ _ h ?_
    extract_lets old m held lands c
    have hc := core_wf v k.core h
    have hf : (c.unpause t.tid).frame = m := rfl
    have hs : (c.unpause t.tid).spm = (v.core k.core).spm := rfl
    have ho : Mem.wf old = true := Mem.filter_wf _ _ hc.1
    have hm : m.wf = true := Mem.writeN_wf _ _ _ _ ho
    clear_value c m
    exact ⟨(congrArg Mem.wf hf).trans hm, (congrArg Mem.wf hs).trans hc.2⟩
  · exact h

end

end Sys2Proof.Machine
end

section
/-! SUPPORT. Memories keep their canonical form (log 51): the SY words (R333, R335, R356, R389 to R395). -/

namespace Sys2Proof.Machine

section
variable {s : State}

/-- A word whose every outcome leaves memories canonical. -/
def CanonicalWord (i : Instr) : Prop :=
  ∃ (h : Hdr) (m : Meaning), (∀ s : State, s.memWf = true → (m.act s).All Canonical) ∧ ∀ s, exec i s = runWord i h m s

theorem CanonicalWord.act {i : Instr} {h : Hdr} {reads : List Loc} {sig : SigBy} {f : State → Act}
    (e : ∀ s, exec i s = runWord i h ⟨reads, sig, f⟩ s) (q : ∀ s : State, s.memWf = true → (f s).All Canonical) : CanonicalWord i :=
  ⟨h, ⟨reads, sig, f⟩, q, e⟩

theorem CanonicalWord.exec {i : Instr} (q : CanonicalWord i) {t : State} (e : exec i s = .next t) (w : s.memWf = true) : t.memWf = true := by
  obtain ⟨h, m, hm, he⟩ := q
  rw [he] at e
  exact runWord_keeps (P := Canonical) (fun hu q => q.wf hu) e w (hm _ ((quiet_taken s h).wf w))

/-! How an SY word ends or waits (R389). -/

theorem syDone_all (d : BitVec 5) (v : Nat) (w : s.memWf = true) : (syDone d v s).All Canonical := (quiet_laterN ..).wf w

theorem syAsk_all (v : Option Word) (w : s.memWf = true) : (syAsk v s).All Canonical := memWf_modMe _ _ w

theorem wakeFirst_all (n : Nat) (f : State → Act) (w : s.memWf = true) (hf : ∀ t : State, t.memWf = true → (f t).All Canonical) :
    (s.wakeFirst n f).All Canonical := Act.All.ite (fun _ => wakeCore_wf _ w) fun _ => hf _ (wakeCore_wf _ w)

/-! What SY words do to the machine. -/

theorem tlbClear_wf (p : Nat) (all : Bool) (va : Nat) (w : s.memWf = true) : (s.tlbClear p all va).memWf = true :=
  wf_cores (s := s.tlbDrop (tlbHit p all va)) (fun (n, c) => (n, { c with walkBad := c.walkBad.filter fun e => e.1 ≠ p })) (fun _ => ⟨rfl, rfl⟩)
    (tlbDrop_wf _ w) rfl rfl

theorem resetTasks_wf (p : Nat) (w : s.memWf = true) : (s.resetTasks p).memWf = true := by
  unfold State.resetTasks
  refine wf_with (wf_foldl _ _ (fun u e _ h => ?_) w) rfl rfl
  exact modPart_wf _ _ (modPart_wf _ _ (wf_foldl _ _ (fun _ _ _ h => discard_wf _ _ h) h))

theorem resetUnits_wf (p : Nat) (w : s.memWf = true) : (s.resetUnits p).memWf = true := by
  unfold State.resetUnits
  extract_lets ds zero clear
  refine wf_cores (s := s) _ (fun e => ?_) w rfl rfl
  dsimp only
  split
  · exact ⟨rfl, rfl⟩
  · exact ⟨rfl, rfl⟩

theorem resetLaunches_wf (p : Nat) (w : s.memWf = true) : (s.resetLaunches p).memWf = true :=
  wf_foldl _ _ (fun _ _ _ h => endLaunch_wf _ _ _ _ h) w

theorem resetArea_wf (p : Nat) (w : s.memWf = true) : (s.resetArea p).memWf = true :=
  memWf_mem s _ rfl (Mem.filter_wf _ _ ((memWf_iff s).1 w).1) w

theorem resetPart_wf (p : Nat) (w : s.memWf = true) : (s.resetPart p).memWf = true :=
  modPart_wf _ _ (forget_wf _ (resetArea_wf _ (resetLaunches_wf _ (resetUnits_wf _ (resetTasks_wf _ w)))))

theorem bindSpare_wf (u : UnitDesc) (b : Nat) (w : s.memWf = true) : (s.bindSpare u b).1.memWf = true := by
  unfold State.bindSpare
  split
  · exact w
  split
  · exact w
  · split
    · exact w
    · generalize s.spareKey u = key
      obtain ⟨key, own⟩ := key
      dsimp only
      split
      · exact wf_with w rfl rfl
      · exact wf_with w rfl rfl

theorem injectBits_wf (j : Inject) (b : Nat) (w : s.memWf = true) : (s.injectBits j b).memWf = true := by
  have hc := core_wf s j.core w
  have hm := ((memWf_iff s).1 w).1
  unfold State.injectBits
  generalize j.flip = dx
  obtain ⟨d, x⟩ := dx
  dsimp only
  split
  · exact memWf_modCore _ _ _ w ⟨Mem.writeN_wf _ _ _ _ hc.1, hc.2⟩
  split
  · exact memWf_modCore _ _ _ w ⟨hc.1, Mem.writeN_wf _ _ _ _ hc.2⟩
  split
  · exact memWf_mem s _ rfl (Mem.writeN_wf _ _ _ _ hm) w
  · exact wf_with w rfl rfl

/-! The words. -/

theorem canonicalWord_slotw (h : Hdr) (d a : BitVec 5) : CanonicalWord (.slotw h d a) := by
  refine CanonicalWord.act (fun _ => rfl) fun s w => ?_
  refine Act.All.ite (fun _ => trivial) fun _ => Act.All.ite (fun _ => Act.All.ite (fun _ => w) fun _ => w) fun _ => ?_
  exact syAsk_all _ (wf_modCore _ _ w fun _ => ⟨rfl, rfl⟩)

theorem canonicalWord_tlbinv (h : Hdr) (a b : BitVec 5) : CanonicalWord (.tlbinv h a b) := by
  refine CanonicalWord.act (fun _ => rfl) fun s w => ?_
  refine Act.All.ite (fun _ => trivial) fun _ => ?_
  split
  · exact Act.All.ite (fun _ => w) fun _ => w
  · split
    · exact w
    · next e => exact syAsk_all _ (tlbClear_wf _ _ _ (release_wf e w))

theorem canonicalWord_ctxsave (h : Hdr) (d a b : BitVec 5) : CanonicalWord (.ctxsave h d a b) := by
  refine CanonicalWord.act (fun _ => rfl) fun s w => ?_
  extract_lets u at_ k x
  refine Act.All.ite (fun _ => trivial) fun _ => Act.All.ite (fun _ => ?_) fun _ => Act.All.ite (fun _ => syDone_all _ _ w) fun _ =>
    Act.All.ite (fun _ => syDone_all _ _ w) fun _ => ?_
  · split
    · exact syDone_all _ _ w
    · exact Act.All.ite (fun _ => syDone_all _ _ w) fun _ => Act.All.ite (fun _ => syDone_all _ _ w) fun _ => w
  · have hi := imgFault_wf s.cur.core s.myTask at_ true w
    generalize s.imgFault s.cur.core s.myTask at_ true = r at hi ⊢
    obtain ⟨v, o⟩ := r
    cases o with
    | some => exact hi
    | none => exact syAsk_all _ (memWf_modCtx _ _ _ hi)

theorem canonicalWord_ctxload (h : Hdr) (d a b : BitVec 5) : CanonicalWord (.ctxload h d a b) := by
  refine CanonicalWord.act (fun _ => rfl) fun s w => ?_
  extract_lets u at_ n
  refine Act.All.ite (fun _ => trivial) fun _ => Act.All.ite (fun _ => syDone_all _ _ w) fun _ => ?_
  have hi := imgFault_wf s.cur.core s.myTask at_ false w
  generalize s.imgFault s.cur.core s.myTask at_ false = r at hi ⊢
  obtain ⟨v, o⟩ := r
  cases o with
  | some => exact hi
  | none =>
    refine wakeFirst_all _ _ hi fun t ht => ?_
    have hs := imgSettle_wf t.cur.core t.myTask at_ ht
    generalize t.imgSettle t.cur.core t.myTask at_ = r at hs ⊢
    obtain ⟨v, o⟩ := r
    cases o with
    | false => exact hs
    | true =>
      have hl := loadImage_wf n (.loc v.cur.core v.myTask at_) (s := v) hs
      dsimp only
      generalize v.loadImage n (.loc v.cur.core v.myTask at_) = r at hl ⊢
      exact syDone_all _ _ hl

theorem canonicalWord_inject (h : Hdr) (d a : BitVec 5) : CanonicalWord (.inject h d a) := by
  have hi (s : State) (k : Who) (w : s.memWf = true) : FstWf (s.inject k) := inject_wf k w
  refine CanonicalWord.act (fun _ => rfl) fun s w => ?_
  extract_lets u k x
  -- what the dump comes to is hidden, so that no check of a step evaluates it
  generalize State.inject = inject at hi ⊢
  refine Act.All.ite (fun _ => trivial) fun _ => Act.All.ite (fun _ => syDone_all _ _ w) fun _ =>
    Act.All.ite (fun _ => syDone_all _ _ w) fun _ => Act.All.ite (fun _ => w) fun _ => ?_
  replace hi := hi s k w
  generalize inject s k = r at hi ⊢
  obtain ⟨t, v⟩ := r
  exact syDone_all d v (s := t) hi

theorem canonicalWord_haltp (h : Hdr) (d a : BitVec 5) : CanonicalWord (.haltp h d a) := by
  refine CanonicalWord.act (fun _ => rfl) fun s w => ?_
  extract_lets v p x
  refine Act.All.ite (fun _ => trivial) fun _ => Act.All.ite (fun _ => syDone_all _ _ w) fun _ => Act.All.ite (fun _ => ?_) fun _ => ?_
  · exact Act.All.ite (fun _ => syDone_all _ _ w) fun _ => Act.All.ite (fun _ => w) fun _ => syAsk_all _ (raiseLine_wf _ _ _ _ w)
  · exact Act.All.ite (fun _ => Act.All.ite (fun _ => syDone_all _ _ w) fun _ => w) fun _ => syAsk_all _ (modPart_wf _ _ w)

theorem canonicalWord_resumep (h : Hdr) (d a : BitVec 5) : CanonicalWord (.resumep h d a) := by
  refine CanonicalWord.act (fun _ => rfl) fun s w => ?_
  extract_lets v p x l
  refine Act.All.ite (fun _ => trivial) fun _ => Act.All.ite (fun _ => syDone_all _ _ w) fun _ => Act.All.ite (fun _ => ?_) fun _ => ?_
  · refine Act.All.ite (fun _ => syDone_all _ _ w) fun _ => ?_
    refine Act.All.ite (fun _ => w) fun _ => ?_
    have hr := resumeOk_wf l s w
    generalize resumeOk l s = r at hr ⊢
    obtain ⟨u, ok⟩ := r
    exact Act.All.ite (fun _ => syDone_all _ _ (wf_foldl State.resumeCtx l (fun _ _ _ h => resumeCtx_wf _ h) hr)) fun _ => syDone_all _ _ hr
  · exact Act.All.ite (fun _ => Act.All.ite (fun _ => w) fun _ => syDone_all _ _ (resetPart_wf _ w)) fun _ =>
      Act.All.ite (fun _ => syDone_all _ _ w) fun _ => syAsk_all _ (modPart_wf _ _ (resetTasks_wf _ w))

theorem canonicalWord_gate (h : Hdr) (d a : BitVec 5) : CanonicalWord (.gate h d a) := by
  refine CanonicalWord.act (fun _ => rfl) fun s w => ?_
  extract_lets u n c off going
  refine Act.All.ite (fun _ => trivial) fun _ => Act.All.ite (fun _ => syDone_all _ _ w) fun _ => Act.All.ite (fun _ => ?_) fun _ =>
    Act.All.ite (fun _ => syDone_all _ _ w) fun _ => Act.All.ite (fun _ => syDone_all _ _ w) fun _ => ?_
  · exact Act.All.ite (fun _ => syDone_all _ _ w) fun _ => Act.All.ite (fun _ => w) fun _ => syDone_all _ _ w
  · exact syAsk_all _ (wf_modCore _ _ w fun _ => ⟨rfl, rfl⟩)

theorem canonicalWord_wdset (h : Hdr) (a b : BitVec 5) : CanonicalWord (.wdset h a b) := by
  refine CanonicalWord.act (fun _ => rfl) fun s w => ?_
  refine Act.All.ite (fun _ => trivial) fun _ => Act.All.ite (fun _ => Act.All.ite (fun _ => w) fun _ => w) fun _ => ?_
  exact syAsk_all _ (wf_foldl _ _ (fun _ _ _ h => modTq_wf _ _ h) w)

theorem canonicalWord_retire (h : Hdr) (d a : BitVec 5) : CanonicalWord (.retire h d a) := by
  refine CanonicalWord.act (fun _ => rfl) fun s w => ?_
  extract_lets v u used
  exact Act.All.ite (fun _ => trivial) fun _ => Act.All.ite (fun _ => syDone_all _ _ w) fun _ => syDone_all _ _ (wf_with w rfl rfl)

theorem canonicalWord_spare (h : Hdr) (d a b : BitVec 5) : CanonicalWord (.spare h d a b) := by
  refine CanonicalWord.act (fun _ => rfl) fun s w => ?_
  exact Act.All.ite (fun _ => trivial) fun _ => syDone_all _ _ (bindSpare_wf _ _ w)

/-- Every word of SY leaves memories canonical. -/
theorem canonicalWord_sy (i : Instr) (hu : i.unit? = some .sy) : CanonicalWord i := by
  cases i with
  | slotw => exact canonicalWord_slotw ..
  | tlbinv => exact canonicalWord_tlbinv ..
  | ctxsave => exact canonicalWord_ctxsave ..
  | ctxload => exact canonicalWord_ctxload ..
  | stoprd => exact CanonicalWord.act (fun _ => rfl) fun s w => Act.All.ite (fun _ => trivial) fun _ => syDone_all _ _ w
  | inject => exact canonicalWord_inject ..
  | haltp => exact canonicalWord_haltp ..
  | resumep => exact canonicalWord_resumep ..
  | gate => exact canonicalWord_gate ..
  | wake => exact CanonicalWord.act (fun _ => rfl) fun s w => Act.All.ite (fun _ => trivial) fun _ => wakeCore_wf _ w
  | retire => exact canonicalWord_retire ..
  | spare => exact canonicalWord_spare ..
  | wdset => exact canonicalWord_wdset ..
  | errinj => exact CanonicalWord.act (fun _ => rfl) fun s w => Act.All.ite (fun _ => trivial) fun _ => injectBits_wf _ _ w
  | _ => cases hu

end

end Sys2Proof.Machine
end

section
/-! SUPPORT. Memories keep their canonical form (log 51): halts, stops, power and clocks (R355, R368 to R374, R388, R406,
R408). -/

namespace Sys2Proof.Machine

section
variable {s : State}

theorem haltCtx_wf (k : Who) (w : s.memWf = true) : (s.haltCtx k).memWf = true :=
  memWf_modCtx _ _ _ (wf_foldl _ _ (fun _ _ _ h => haltCluster_wf _ h) w)

theorem haltVigil_wf (p d : Nat) (w : s.memWf = true) : (s.haltVigil p d).memWf = true := wf_with w rfl rfl

theorem answerHalt_wf (p : Nat) (w : s.memWf = true) : (s.answerHalt p).memWf = true := by
  unfold State.answerHalt
  exact wf_foldl _ _ (fun _ _ _ h => memWf_modClu _ _ _ h) w

theorem checkHalted_wf (p : Nat) (w : s.memWf = true) : (s.checkHalted p).memWf = true := by
  unfold State.checkHalted
  exact wf_ite (fun _ => manageInt_wf _ (modPart_wf _ _ (answerHalt_wf _ w))) fun _ => w

theorem haltDie_wf (p d : Nat) (w : s.memWf = true) : (s.haltDie p d).memWf = true := by
  unfold State.haltDie
  extract_lets u v x
  have hv : v.memWf = true := wf_foldl _ _ (fun _ _ _ h => haltCtx_wf _ h) (modDie_wf _ _ w)
  refine checkHalted_wf _ (haltVigil_wf _ _ (wf_cores (s := v) _ (fun e => ?_) hv rfl rfl))
  dsimp only
  split
  · exact ⟨rfl, rfl⟩
  · exact ⟨rfl, rfl⟩

theorem stopDie_wf (p d : Nat) (w : s.memWf = true) : (s.stopDie p d).memWf = true :=
  modPart_wf _ _ (wf_foldl _ _ (fun _ _ _ h => debugStop_wf _ _ h) w)

theorem haltLineArrival_wf (p : Nat) (die : Option Nat) (w : s.memWf = true) : OutWf (execHaltLineArrival p die s) := by
  unfold execHaltLineArrival
  extract_lets x
  split
  · split
    · exact .next (checkHalted_wf _ (modPart_wf _ _ w))
    · exact .next w
  · next d =>
    extract_lets u
    have hu : u.memWf = true := wf_ite (fun _ => stopDie_wf _ _ w) fun _ => w
    split
    · exact .next (haltDie_wf _ _ hu)
    · exact .next hu

theorem watchdogExpiry_wf (n x : Nat) (w : s.memWf = true) : OutWf (execWatchdogExpiry n x s) := by
  refine .next (wf_foldl _ _ (fun _ _ _ h => wf_foldl _ _ (fun _ _ _ h => ?_) h) w)
  exact wf_ite (fun _ => expire_wf _ _ h) fun _ => h

/-! Engines that stop (R369, R370). -/

theorem stopMatrix_wf (n : Nat) (w : s.memWf = true) : (s.stopMatrix n).memWf = true := by
  unfold State.stopMatrix
  split
  · exact w
  · exact wf_ite (fun _ => wf_modCore _ _ (stopEngine_wf _ _ _ _ _ _ _ _ w) fun _ => ⟨rfl, rfl⟩) fun _ => w

theorem stopCopy_wf (n : Nat) (w : s.memWf = true) : (s.stopCopy n).memWf = true := by
  unfold State.stopCopy
  dsimp only
  split
  · exact w
  · exact wf_modCore _ _ (stopEngine_wf _ _ _ _ _ _ _ _ w) fun _ => ⟨rfl, rfl⟩

theorem stopRemote_wf (n : Nat) (w : s.memWf = true) : (s.stopRemote n).memWf = true := by
  unfold State.stopRemote
  extract_lets keep u v
  have hu : u.memWf = true := by
    dsimp only [u]
    split
    · exact w
    · exact stopEngine_wf _ _ _ _ _ _ _ _ w
  exact wf_modCore _ _ (wf_foldl _ _ (fun _ _ _ h => colDrop_wf _ _ h) hu) fun _ => ⟨rfl, rfl⟩

theorem stopTracker_wf (n : Nat) (w : s.memWf = true) : (s.stopTracker n).memWf = true := by
  unfold State.stopTracker
  refine wf_ite (fun _ => w) fun _ => wf_foldl _ _ (fun _ _ _ h => checkHalted_wf _ h) ?_
  refine wf_modCore _ _ (wf_foldl _ _ (fun _ _ _ h => modDep_wf _ _ _ h) (keepAccs_wf _ w)) fun _ => ⟨rfl, rfl⟩

theorem engineStop_wf (n unit : Nat) (w : s.memWf = true) : OutWf (execEngineStop n unit s) := by
  unfold execEngineStop
  split
  · exact .next (stopMatrix_wf _ w)
  split
  · exact .next (stopTracker_wf _ (stopCopy_wf _ w))
  · exact .next (stopRemote_wf _ w)

theorem flushCmds_wf (k : Who) (w : s.memWf = true) : (s.flushCmds k).memWf = true := wf_modCore _ _ w fun _ => ⟨rfl, rfl⟩
theorem withdraw_wf (k : Who) (w : s.memWf = true) : (s.withdraw k).memWf = true := modDie_wf _ _ w

theorem contextRemoval_wf (n x : Nat) (w : s.memWf = true) : OutWf (execContextRemoval n x s) := by
  unfold execContextRemoval
  extract_lets k t halted u v
  split
  · exact .next w
  · have hv : v.memWf = true := freeCtx_wf _ (answerSave_wf _ _ _ (closeRows_wf _ (withdraw_wf _ (flushCmds_wf _ (landAll_wf _ w)))))
    clear_value v
    split
    · exact .next (checkHalted_wf _ (modDep_wf _ _ _ hv))
    · split
      · exact .next hv
      · next e _ =>
        have hd (o : Option Inst) : (match o with | some i => v.discard e i | none => v).memWf = true := by
          split
          · exact discard_wf _ _ hv
          · exact hv
        exact .next (settle_wf _ _ (hd _))

/-! Power and clocks (R388, R406, R408). -/

theorem powerGateCommit_wf (n : Nat) (w : s.memWf = true) : OutWf (execPowerGateCommit n s) := by
  unfold execPowerGateCommit
  split
  · extract_lets l
    split
    · exact .next w
    · refine .next (wf_foldl _ _ (fun _ _ _ h => memWf_modClu _ _ _ h) ?_)
      exact wf_modCore _ _ (modDie_wf _ _ w) fun _ => ⟨rfl, rfl⟩
  · exact .next w

theorem powerUp_wf (n : Nat) (w : s.memWf = true) : OutWf (execPowerUp n s) := by
  unfold execPowerUp
  extract_lets off
  split
  · exact .next (wf_modCore _ _ w fun _ => ⟨rfl, rfl⟩)
  · exact .next w

theorem clockSkip_wf (d : Nat) (w : s.memWf = true) : OutWf (execClockSkip d s) := by
  unfold execClockSkip
  split
  · exact .next w
  · exact .next (wf_ite (fun _ => wf_with w rfl rfl) fun _ => manageInt_wf _ (wf_with w rfl rfl))

theorem thermalTrip_wf (island : Nat) (w : s.memWf = true) : OutWf (execThermalTrip island s) := by
  unfold execThermalTrip
  exact .next (manageInt_wf _ (wf_foldl _ _ (fun _ _ _ h => modDie_wf _ _ h) (wf_foldl _ _ (fun _ _ _ h => raiseLine_wf _ _ _ _ h) w)))

theorem hubTakeover_wf (w : s.memWf = true) : OutWf (execHubTakeover s) := by
  unfold execHubTakeover
  split
  · exact .next (manageInt_wf _ (wf_with w rfl rfl))
  · exact .next w

end

end Sys2Proof.Machine
end

section
/-! SUPPORT. Memories keep their canonical form (log 51): what the host, firmware and the package do (R397 to R405, R212,
R213, R215). -/

namespace Sys2Proof.Machine

/-! Memories as ascending lists. -/

theorem Mem.wf_iff (m : Mem) : m.wf = true ↔ m.Pairwise (fun a b => a.1 < b.1) ∧ ∀ e ∈ m, e.2 ≠ unlistedByte := by
  induction m with
  | nil => exact ⟨fun _ => ⟨.nil, fun _ h => nomatch h⟩, fun _ => rfl⟩
  | cons x l ih =>
    cases l with
    | nil => simp [Mem.wf]
    | cons y r =>
      obtain ⟨a, b⟩ := x
      obtain ⟨a', b'⟩ := y
      rw [Mem.wf, Bool.and_eq_true, Bool.and_eq_true, ih, bne_iff_ne, decide_eq_true_iff, List.pairwise_cons (a := (a, b)),
        List.forall_mem_cons (a := (a, b))]
      refine ⟨fun ⟨⟨hb, hlt⟩, hp, hv⟩ => ⟨⟨fun e he => ?_, hp⟩, hb, hv⟩, fun ⟨⟨ha, hp⟩, hb, hv⟩ => ⟨⟨hb, ha _ List.mem_cons_self⟩, hp, hv⟩⟩
      rcases List.mem_cons.1 he with rfl | he
      · exact hlt
      · exact Nat.lt_trans hlt ((List.pairwise_cons.1 hp).1 e he)

/-- Two memories of which one lies below the other make one. -/
theorem Mem.append_wf {l r : Mem} (hl : l.wf = true) (hr : r.wf = true) (h : ∀ a ∈ l, ∀ b ∈ r, a.1 < b.1) : Mem.wf (l ++ r) = true := by
  rw [Mem.wf_iff] at hl hr ⊢
  refine ⟨List.pairwise_append.2 ⟨hl.1, hr.1, h⟩, fun e he => ?_⟩
  rcases List.mem_append.1 he with he | he
  · exact hl.2 e he
  · exact hr.2 e he

/-- A memory that lies from an address on, moved. -/
theorem Mem.shift_wf {l : Mem} (old new : Nat) (hl : l.wf = true) (h : ∀ a ∈ l, old ≤ a.1) :
    Mem.wf (l.map fun e => (e.1 - old + new, e.2)) = true := by
  rw [Mem.wf_iff] at hl ⊢
  refine ⟨List.pairwise_map.2 (hl.1.imp_of_mem fun {a b} ha hb hab => ?_), fun e he => ?_⟩
  · have := h a ha
    dsimp only
    omega
  · obtain ⟨x, hx, rfl⟩ := List.mem_map.1 he
    exact hl.2 x hx

section
variable {s t : State}

/-! Registers of the management window (R398). -/

theorem zeroRange_wf (a len : Nat) (w : s.memWf = true) : (s.zeroRange a len).memWf = true :=
  memWf_mem s _ rfl (Mem.filter_wf _ _ ((memWf_iff s).1 w).1) w

theorem otherCopy_wf (f : ConfigRecord → ConfigRecord) (w : s.memWf = true) : (s.otherCopy f).memWf = true :=
  wf_ite (fun _ => wf_with w rfl rfl) fun _ => wf_with w rfl rfl

theorem some_wf {u : State} (e : some u = some t) (w : u.memWf = true) : t.memWf = true := Option.some.inj e ▸ w

theorem if_some_wf {c : Prop} [Decidable c] {u : State} (e : (if c then some u else none) = some t) (w : u.memWf = true) :
    t.memWf = true := by
  split at e
  · exact some_wf e w
  · cases e

theorem if_none_wf {c : Prop} [Decidable c] {u : State} (e : (if c then none else some u) = some t) (w : u.memWf = true) :
    t.memWf = true := by
  split at e
  · cases e
  · exact some_wf e w

theorem manage_wf {r : MgmtReg} (e : s.manage r = some t) (w : s.memWf = true) : t.memWf = true := by
  cases r with
  | partition => exact if_some_wf e (modPart_wf _ _ w)
  | poolRange => exact if_none_wf e (modPart_wf _ _ w)
  | launchQueue => exact if_some_wf e (modLq_wf _ _ _ w)
  | completionRing => exact if_some_wf e (zeroRange_wf _ _ (modLq_wf _ _ _ w))
  | taskQueue | hold | watchdogLimit => exact if_some_wf e (modTq_wf _ _ w)
  | debugEnable => exact if_none_wf e (modPart_wf _ _ w)
  | stopArea => exact some_wf e (modPart_wf _ _ w)
  | traceSetup => exact if_some_wf e (modPart_wf _ _ w)
  | traceRing => exact if_some_wf e (modDie_wf _ _ w)
  | perfCounter | perfOverflowClear => exact if_some_wf e (wf_modCore _ _ w fun _ => ⟨rfl, rfl⟩)
  | thresholds | erasure | extWindow | group | route | routeTimeout | maskVector | powerBudget | activationWidth =>
    exact if_some_wf e (wf_with w rfl rfl)
  | swapThreshold | swapWindow | scrubRate => exact some_wf e (wf_with w rfl rfl)
  | spareUnit v b =>
    have hb := bindSpare_wf (unitDesc v) b.toNat w
    unfold State.manage at e
    dsimp only at e
    split at e
    · cases e
    · split at e
      · next hs => rw [hs] at hb; exact some_wf e hb
      · cases e
  | configWrite => exact some_wf e (otherCopy_wf _ w)
  | configCommit => exact some_wf e (wf_with (otherCopy_wf _ w) rfl rfl)

theorem manageOr_wf (r : MgmtReg) (w : s.memWf = true) : (s.manageOr r).memWf = true := by
  unfold State.manageOr
  cases e : s.manage r with
  | none => exact wf_with w rfl rfl
  | some u => exact manage_wf e w

theorem faultLogTailWrite_wf (log n : Nat) (w : s.memWf = true) : OutWf (execFaultLogTailWrite log n s) := by
  unfold execFaultLogTailWrite
  extract_lets l k
  split
  · exact .next w
  · exact .next (wf_with w rfl rfl)

theorem traceRingReadIndex_wf (d index : Nat) (w : s.memWf = true) : OutWf (execTraceRingReadIndex d index s) := by
  unfold execTraceRingReadIndex
  extract_lets x
  split
  · exact .next (modDie_wf _ _ w)
  · exact .next w

theorem pcselWrite_wf (n i : Nat) (v : Word) (w : s.memWf = true) : OutWf (execPcselWrite n i v s) := by
  unfold execPcselWrite
  split
  · exact .next (wf_modCore _ _ w fun _ => ⟨rfl, rfl⟩)
  · exact .next (wf_with w rfl rfl)

theorem vectorUnmask_wf (v : Nat) (w : s.memWf = true) : OutWf (execVectorUnmask v s) := by
  unfold execVectorUnmask
  extract_lets u
  split
  · exact .next (wf_with w rfl rfl)
  · exact .next (wf_with w rfl rfl)

theorem managementWrite_wf (host : Bool) (r : MgmtReg) (w : s.memWf = true) : OutWf (execManagementWrite host r s) := by
  unfold execManagementWrite
  split
  · exact .next (errEvent_wf _ w)
  · exact .next (manageOr_wf _ w)

/-! Staged start (R402 to R405). -/

theorem powerOnReset_wf (form : BitVec 2) (boot dbg : Bool) : OutWf (execPowerOnReset form boot dbg s) := by
  unfold execPowerOnReset
  extract_lets r
  have hr : r.memWf = true := wf_with reset_wf rfl rfl
  split
  · exact .next (manageInt_wf _ (wf_with hr rfl rfl))
  · exact .next (wf_with hr rfl rfl)

theorem bootTables_wf (w : s.memWf = true) : s.bootTables.memWf = true := by
  unfold State.bootTables
  exact wf_foldl _ _ (fun _ _ _ h => sysWriteN_wf _ _ _ _ h) (sysWriteN_wf _ _ _ _ w)

theorem stage0_wf (w : s.memWf = true) : OutWf (execStage0 s) := by
  unfold execStage0
  refine iteInduction (motive := OutWf) (fun _ => .next w) fun _ => ?_
  have hb := bootTables_wf (zeroRange_wf 0 (2 ^ 32) w)
  generalize (s.zeroRange 0 (2 ^ 32)).bootTables = u at hb ⊢
  generalize blocksOf 64 bootPool (2 ^ 30) = blocks
  extract_lets _ x y z
  have hx : x.memWf = true := modPart_wf _ _ hb
  clear_value x
  have hy : y.memWf = true := modLq_wf _ _ _ hx
  clear_value y
  have hz : z.memWf = true := wf_foldl _ _ (fun u q _ h => modTq_wf (s := u) q _ h) hy
  clear_value z
  exact .next (manageInt_wf _ (wf_with hz rfl rfl))

theorem stage1_wf (fw : FirmwareStart) (w : s.memWf = true) : OutWf (execStage1 fw s) := by
  unfold execStage1
  refine iteInduction (motive := OutWf) (fun _ => .next w) fun _ => ?_
  cases s.record? with
  | none => exact .next w
  | some c => exact iteInduction (motive := OutWf) (fun _ => .next w) fun _ => .next (manageInt_wf _ (wf_with w rfl rfl))

theorem stage2_wf (w : s.memWf = true) : OutWf (execStage2 s) := by
  unfold execStage2
  split
  · exact .next w
  · refine .next (manageInt_wf _ (wf_with (wf_foldl _ _ (fun _ _ _ h => manageOr_wf _ h) ?_) rfl rfl))
    exact zeroRange_wf _ _ (zeroRange_wf _ _ w)

theorem renumber_wf (dev : Nat) (hd : dev < 1024) (w : s.memWf = true) : (s.renumber dev).memWf = true := by
  have hm := ((memWf_iff s).1 w).1
  refine memWf_mem s _ rfl (Mem.append_wf (Mem.shift_wf _ _ (Mem.filter_wf _ _ hm) fun a ha => ?_) (Mem.filter_wf _ _ hm) fun a ha b hb => ?_) w
  · have h := (List.mem_filter.1 ha).2
    simp only [Bool.and_eq_true, decide_eq_true_eq] at h
    exact h.1
  · obtain ⟨x, hx, rfl⟩ := List.mem_map.1 ha
    have h := (List.mem_filter.1 hx).2
    have h2 := (List.mem_filter.1 hb).2
    simp only [Bool.and_eq_true, decide_eq_true_eq] at h h2
    dsimp only
    omega

theorem stage3_wf (dev : Nat) (links : Bool) (w : s.memWf = true) : OutWf (execStage3 dev links s) := by
  unfold execStage3
  split
  · exact .next w
  · next h =>
    have hd : dev < 1024 := by
      simp only [Bool.or_eq_true, decide_eq_true_eq, not_or, Nat.not_le] at h
      exact h.1.2
    exact .next (manageInt_wf _ (wf_with (renumber_wf dev hd w) rfl rfl))

/-! Upkeep of memories (R212, R213, R215, R360) and host traffic (R397, R401). -/

theorem rowSwap_wf (bank a b : Nat) (w : s.memWf = true) : OutWf (execRowSwap bank a b s) := by
  unfold execRowSwap
  extract_lets t at_ put t' ch st
  refine iteInduction (motive := OutWf) (fun _ => .next w) fun _ => ?_
  exact iteInduction (motive := OutWf) (fun _ => .next (errEvent_wf _ (wf_with w rfl rfl))) fun _ => .next (wf_with w rfl rfl)

theorem shaEvents_wf (kind tag : Nat) (l : List (Nat × BitVec 7 × Bool)) (w : s.memWf = true) : (s.shaEvents kind tag l).memWf = true :=
  wf_with w (shaEvents_same ..).1 (shaEvents_same ..).2

theorem scrub_wf (word : Nat) (w : s.memWf = true) : OutWf (execScrub word s) := by
  unfold execScrub
  extract_lets sa
  have h := eccRead_wf 1 s.mem s.shaSyn sa ((memWf_iff s).1 w).1
  generalize eccRead 1 s.mem s.shaSyn sa = r at h ⊢
  exact .next (shaEvents_wf _ _ _ (memWf_mem s _ rfl h w))

theorem correctedLineRewrite_wf (line : Nat) (w : s.memWf = true) : OutWf (execCorrectedLineRewrite line s) := by
  unfold execCorrectedLineRewrite
  split
  · extract_lets u
    split
    · exact .next (wf_with w rfl rfl)
    · exact .next (wf_with w rfl rfl)
  · exact .next w

theorem traceDrain_wf (d : Nat) (w : s.memWf = true) : OutWf (execTraceDrain d s) := by
  unfold execTraceDrain
  extract_lets x
  split
  · exact .next w
  · split
    · exact .next w
    · exact .next (modDie_wf _ _ (sysWriteN_wf _ _ _ _ w))

theorem rdmaWrite_wf (a : Nat) (bytes : List Byte) (w : s.memWf = true) : OutWf (execRdmaWrite a bytes s) := by
  unfold execRdmaWrite
  split
  · exact .next w
  split
  · exact .next (wf_with w rfl rfl)
  · exact .next (performOp_wf _ _ w)

theorem rdmaPart_wf (a n : Nat) (w : s.memWf = true) : (s.rdmaPart a n).1.memWf = true := by
  unfold State.rdmaPart
  refine iteInduction (motive := FstWf) (fun _ => ?_) fun _ => ?_
  · exact wf_ite (fun _ => hbmEvent_wf _ _ _ _ _ (sysRead_wf s _ 0 w)) fun _ => sysRead_wf s _ 0 w
  · exact shaEvents_wf _ _ _ (performs_wf.words _ _ _ w)

theorem rdmaRead_wf (a len : Nat) (w : s.memWf = true) : OutWf (execRdmaRead a len s) := by
  unfold execRdmaRead
  split
  · exact .next w
  split
  · exact .next (wf_with w rfl rfl)
  · have h := List.foldlRecOn (motive := fun r : State × Bool => r.1.memWf = true) (partsOf a len)
      (fun (r : State × Bool) p => ((r.1.rdmaPart p.1 p.2).1, r.2 || (r.1.rdmaPart p.1 p.2).2)) (b := (s, false)) w
      fun r h p _ => rdmaPart_wf p.1 p.2 h
    exact .next (wf_ite (fun _ => wf_with h rfl rfl) fun _ => h)

theorem request_wf {r : MailboxReq} (e : s.request r = some t) (w : s.memWf = true) : t.memWf = true := by
  cases r with
  | kernelEntry => exact if_none_wf e (sysWriteN_wf _ _ _ _ w)
  | loadImage => exact if_none_wf e (performOp_wf _ _ w)
  | policy r =>
    unfold State.request at e
    dsimp only at e
    split at e
    · cases e
    · exact manage_wf e w
  | queuePair => exact if_none_wf e (wf_with w rfl rfl)
  | firmware => exact if_some_wf e (wf_with w rfl rfl)

theorem mailboxRequest_wf (m : MailboxMsg) (w : s.memWf = true) : OutWf (execMailboxRequest m s) := by
  unfold execMailboxRequest
  split
  · exact .next w
  · split
    · next e => exact .next (interrupt_wf _ (wf_with (request_wf e w) rfl rfl))
    · exact .next (interrupt_wf _ (wf_with w rfl rfl))

end

end Sys2Proof.Machine
end

section
/-! SUPPORT. Memories keep their canonical form (log 51): the matrix engine (R272, R273, R278 to R281). -/

namespace Sys2Proof.Machine

section
variable {s t : State}

/-! Operand rows (R232, R251, R252). -/

theorem plain_wf {n key : Nat} {store eng : Bool} (e : s.plain n key store eng = some t) (w : s.memWf = true) : t.memWf = true :=
  (Mild.plain e).quiet.wf w

theorem engRead_wf (n tag : Nat) : ∀ (m : Nat) {s t : State} {a d p : Nat}, State.engRead n tag m s a = .ok t d p →
    s.memWf = true → t.memWf = true
  | 0, _, _, _, _, _, e, w => by cases e; exact w
  | m + 1, s, t, a, d, p, e, w => by
    have ih := @engRead_wf n tag m
    rw [State.engRead] at e
    split at e
    · cases e
    · next u hu =>
      have hr := spmRead_wf u n a tag (plain_wf hu (performs_wf.engTouch n a false w))
      dsimp only at e
      split at e
      · cases e
      · next h =>
        cases e
        exact ih h hr

theorem engRegions_wf (n tag : Nat) : ∀ (l : List ((Nat × Nat) × Nat)) {s t : State} {ds ds' : List Nat} {b b' : Bool} {a : Nat},
    State.engRegions n tag l s ds b = (some (t, ds', b'), a) → s.memWf = true → t.memWf = true
  | [], _, _, _, _, _, _, _, e, w => by cases e; exact w
  | (r, keep) :: l, s, t, ds, ds', b, b', a, e, w => by
    rw [State.engRegions] at e
    split at e
    · cases e
    · next h => exact engRegions_wf n tag l e (engRead_wf _ _ _ h w)

/-! Faults and the start of a command (R272, R274). -/

theorem mxFault_wf (n : Nat) (c : MxCmd) (code addr : Nat) (w : s.memWf = true) : (s.mxFault n c code addr).memWf = true := by
  unfold State.mxFault
  exact taskFault_wf _ _ _ ((quiet_traceRec ..).wf (memWf_modCtx _ _ _ (wf_modCore _ _ w fun _ => ⟨rfl, rfl⟩)))

theorem mxStart_wf (n : Nat) (w : s.memWf = true) : (s.mxStart n).memWf = true := by
  unfold State.mxStart
  dsimp only
  refine wf_ite (fun _ => w) fun _ => ?_
  cases takeFirst (s.mxAlive n) (s.core n).mxq with
  | none => exact w
  | some cr =>
    obtain ⟨c, rest⟩ := cr
    refine wf_ite (fun _ => w) fun _ => ?_
    have hu : (s.modCore n fun k => { k with mxq := rest }).memWf = true := wf_modCore _ _ w fun _ => ⟨rfl, rfl⟩
    generalize (s.modCore n fun k => { k with mxq := rest }) = u at hu ⊢
    split
    · exact mxFault_wf _ _ _ _ hu
    · next h => exact wf_modCore _ _ (engRegions_wf _ _ _ h hu) fun _ => ⟨rfl, rfl⟩

/-! What a command writes (R182, R278 to R281). -/

theorem numProv_wf (n : Nat) (c : MxCmd) (kinds : List Nat) (w : s.memWf = true) : (s.numProv n c kinds).memWf = true := by
  unfold State.numProv
  refine wf_ite (fun _ => w) fun _ => ?_
  cases firstKind kinds 0 with
  | none => exact w
  | some e => exact memWf_modCtx _ _ _ w

theorem mxPut_wf (k : Who) (off len v : Nat) (w : s.memWf = true) : (s.mxPut k off len v).memWf = true := by
  unfold State.mxPut
  obtain ⟨hf, hs⟩ := core_wf s k.core w
  exact memWf_modClu _ _ _ (memWf_modCore s _ _ w ⟨Mem.writeN_wf len _ _ v hf, hs⟩)

theorem mxMma_wf (n : Nat) (r : MxRun) (w : s.memWf = true) : (s.mxMma n r).memWf = true := by
  unfold State.mxMma
  exact numProv_wf _ _ _ (memWf_modCtx _ _ _ (mxPut_wf _ _ _ _ w))

theorem mxLoad_wf (n : Nat) (r : MxRun) (w : s.memWf = true) : (s.mxLoad n r).memWf = true := by
  unfold State.mxLoad
  exact memWf_modCtx _ _ _ (mxPut_wf _ _ _ _ w)

theorem mxZero_wf (n : Nat) (c : MxCmd) (w : s.memWf = true) : (s.mxZero n c).memWf = true := by
  unfold State.mxZero
  exact memWf_modCtx _ _ _ (mxPut_wf _ _ _ _ w)

theorem mxStoreRows_wf (n : Nat) (k : Who) : ∀ (l : List (Nat × Nat)) {s : State} (a : Nat), s.memWf = true →
    (State.mxStoreRows n k l s a).1.memWf = true
  | [], _, _, w => w
  | (row, cir) :: l, s, a, w => by
    rw [State.mxStoreRows]
    split
    · exact w
    · next hu =>
      exact mxStoreRows_wf n k l _
        (memWf_modCtx _ _ _ (wipeCell_wf _ _ (spmWrite_wf _ _ _ _ _ _ (performs_wf.plainStore hu (performs_wf.engTouch n a true w)))))

theorem mxStore_wf (n : Nat) (c : MxCmd) (w : s.memWf = true) : (s.mxStore n c).1.memWf = true := by
  suffices h : FstWf (s.mxStore n c) from h
  unfold State.mxStore
  extract_lets k x cf vs ks
  split
  · exact mxFault_wf _ _ _ _ (memWf_modCtx _ _ _ w)
  · generalize hr : State.mxStoreRows n k _ s c.ta.toNat = r
    have hr : r.1.memWf = true := hr ▸ mxStoreRows_wf n k _ _ w
    obtain ⟨u, o⟩ := r
    cases o with
    | none => exact numProv_wf _ _ _ hr
    | some a => exact mxFault_wf _ _ _ _ hr

theorem mxEffect_wf (n : Nat) (r : MxRun) (w : s.memWf = true) : (s.mxEffect n r).memWf = true := by
  unfold State.mxEffect
  split
  · exact mxMma_wf _ _ w
  · exact mxMma_wf _ _ w
  · exact mxLoad_wf _ _ w
  · exact w

/-! The release flag and the end of a command (R272, R273). -/

theorem mxRelease_wf (n : Nat) (w : s.memWf = true) : (s.mxRelease n).memWf = true := by
  unfold State.mxRelease
  cases (s.core n).mxRun with
  | none => exact w
  | some r =>
    exact wf_ite (fun _ => w) fun _ =>
      memWf_modCtx _ _ _ (wf_modCore _ _ (teach_wf _ _ (mxEffect_wf _ _ w)) fun _ => ⟨rfl, rfl⟩)

theorem mxEnd_wf (n : Nat) (c : MxCmd) (w : s.memWf = true) : (s.mxEnd n c).memWf = true := by
  have h := perf_wf n 11 c.ctx none 1 (pushNow_wf (c.who n) c.hdr.sig c.past (wf_modCore (s := s) n (fun x => { x with mxRun := none }) w fun _ => ⟨rfl, rfl⟩))
  unfold State.mxEnd
  exact wf_ite (fun _ => (quiet_traceRec ..).wf h) fun _ => h

theorem mxFinish_wf (n : Nat) (r : MxRun) (w : s.memWf = true) : (s.mxFinish n r).memWf = true :=
  wf_ite (fun _ => w) fun _ => wf_ite (fun _ => mxRelease_wf _ w) fun _ => mxEffect_wf _ _ w

theorem mxComplete_wf (n : Nat) (w : s.memWf = true) : (s.mxComplete n).memWf = true := by
  unfold State.mxComplete
  cases (s.core n).mxRun with
  | none => exact w
  | some r =>
    refine wf_ite (fun _ => w) fun _ => ?_
    split
    · exact mxEnd_wf _ _ (mxFinish_wf _ _ w)
    · exact mxEnd_wf _ _ (mxFinish_wf _ _ w)
    · exact mxEnd_wf _ _ (mxFinish_wf _ _ w)
    · exact mxEnd_wf _ _ (mxZero_wf _ _ w)
    · refine wf_ite (fun _ => w) fun _ => ?_
      have hs := mxStore_wf n r.cmd w
      generalize s.mxStore n r.cmd = p at hs ⊢
      obtain ⟨u, b⟩ := p
      cases b with
      | true => exact mxEnd_wf _ _ hs
      | false => exact hs
    · exact mxEnd_wf _ _ w

theorem mxReleaseEvent_wf (n : Nat) (w : s.memWf = true) : (s.mxReleaseEvent n).memWf = true := by
  unfold State.mxReleaseEvent
  cases (s.core n).mxRun with
  | none => exact w
  | some r => exact wf_ite (fun _ => w) fun _ => mxRelease_wf _ w

end

end Sys2Proof.Machine
end

section
/-! SUPPORT. Memories keep their canonical form (log 51): every instruction word, and every step of the device but its
cycles. -/

namespace Sys2Proof.Machine

section
variable {s : State}

/-- A word of any unit leaves memories canonical. -/
theorem execWord_wf {i : Instr} {u : UnitId} (hu : i.unit? = some u) (w : s.memWf = true) : OutWf (exec i s) := by
  intro t e
  cases u with
  | sc => exact ((quietWord_sc i hu).exec e).wf w
  | ac => exact ((acWord i hu).exec e).wf w
  | ve => exact ((quietWord_ve i hu).exec e).wf w
  | mx => exact ((quietWord_mx i hu).exec e).wf w
  | en => exact ((quietWord_en i hu).exec e).wf w
  | ck => exact ((quietWord_ck i hu).exec e).wf w
  | sy => exact (canonicalWord_sy i hu).exec e w

/-- An event of the device, its host or its links leaves memories canonical. -/
theorem execEvent_wf {i : Instr} (hi : i.unit? = none) (w : s.memWf = true) : OutWf (exec i s) := by
  cases i with
  | postgDelivery i => exact postgDelivery_wf i w
  | resultVisible k => exact .next (landDue_wf k w)
  | heldTokenPush k => exact iteInduction (motive := OutWf) (fun _ => .next w) fun _ => .next (pushTokens_wf k _ w)
  | instructionFetch k => exact instructionFetch_wf k w
  | pageWalk n va => exact pageWalk_wf n va w
  | directPathServe i => exact .next (serveDue_wf i w)
  | loadRowFill i => exact loadRowFill_wf i w
  | globalStorePerform i => exact globalStorePerform_wf i w
  | dieWindowStorePerform i => exact dieWindowStorePerform_wf i w
  | atomicPerform i => exact atomicPerform_wf i w
  | copyStart n => exact .next (cpStart_wf n w)
  | copyRowGroup n r => exact .next (cpGroup_wf n r w)
  | copyComplete n r => exact .next (cpComplete_wf n r w)
  | matrixCommandStart n => exact .next (mxStart_wf n w)
  | ringStageRelease n => exact .next (mxReleaseEvent_wf n w)
  | matrixCommandComplete n => exact .next (mxComplete_wf n w)
  | remoteCommandStart n => exact .next (rmHead_wf n (rmSweep_wf n w))
  | packetSend n => exact packetSend_wf n w
  | packetReceive pk => exact iteInduction (motive := OutWf) (fun _ => .next w) fun _ => .next (arrive_wf pk w)
  | acknowledgement ak => exact .next (takeAck_wf ak w)
  | routeTimeout r => exact iteInduction (motive := OutWf) (fun _ => .next (failRoute_wf r w)) fun _ => .next w
  | routeFailure r => exact .next (failRoute_wf r w)
  | laneLoss p l => exact laneLoss_wf p l w
  | collectiveContribution pk => exact iteInduction (motive := OutWf) (fun _ => .next (arrive_wf pk w)) fun _ => .next w
  | collectiveComplete n => exact .next (colFinish_wf n (colHand_wf n w))
  | walkerTaskCreate n => exact .next (walkNext_wf n w)
  | taskEnqueue q => exact taskEnqueue_wf q w
  | taskEntry p q => exact taskEntry_wf p q w
  | dispatch tid places => exact dispatch_wf tid places w
  | contextFree n x => exact .next (freeDue_wf n x w)
  | taskRetirement n x => exact taskRetirement_wf n x w
  | vigilDecision tid place => exact vigilDecision_wf tid place w
  | overlayFold p i => exact overlayFold_wf p i w
  | fetch n i => exact fetch_wf n i w
  | evict n i => exact evict_wf n i w
  | pin n i => exact pin_wf n i w
  | drop n i => exact drop_wf n i w
  | almanacActionFinish n i => exact almanacActionFinish_wf n i w
  | almanacRelease n => exact almanacRelease_wf n w
  | launchCompletion n => exact launchCompletion_wf n w
  | launchQueueDoorbell p q tail => exact .next (modLq_wf p q _ w)
  | launchAcceptance p q => exact launchAcceptance_wf p q w
  | launchQueueHeadWrite p q head => exact .next (modLq_wf p q _ w)
  | completionHeadWrite p q ch => exact completionHeadWrite_wf p q ch w
  | faultLogTailWrite log n => exact faultLogTailWrite_wf log n w
  | histogramClear n => exact .next (wf_modCore n _ w fun _ => ⟨rfl, rfl⟩)
  | traceRingReadIndex d index => exact traceRingReadIndex_wf d index w
  | holdWrite q hold => exact .next (modTq_wf q _ w)
  | pcselWrite n i v => exact pcselWrite_wf n i v w
  | scoreWrite u v => exact .next (wf_with w rfl rfl)
  | vectorUnmask v => exact vectorUnmask_wf v w
  | managementWrite host r => exact managementWrite_wf host r w
  | watchdogExpiry n x => exact watchdogExpiry_wf n x w
  | haltLineArrival p d => exact haltLineArrival_wf p d w
  | engineStop n unit => exact engineStop_wf n unit w
  | contextRemoval n x => exact contextRemoval_wf n x w
  | preemptionTrap k => exact preemptionTrap_wf k w
  | savedImageWrite n x => exact savedImageWrite_wf n x w
  | stopAreaWrite n x => exact stopAreaWrite_wf n x w
  | powerGateCommit n => exact powerGateCommit_wf n w
  | powerUp n => exact powerUp_wf n w
  | clockSkip d => exact clockSkip_wf d w
  | thermalTrip island => exact thermalTrip_wf island w
  | hubTakeover => exact hubTakeover_wf w
  | powerOnReset form boot dbg => exact powerOnReset_wf form boot dbg
  | stage0 => exact stage0_wf w
  | stage1 fw => exact stage1_wf fw w
  | stage2 => exact stage2_wf w
  | stage3 dev links => exact stage3_wf dev links w
  | rowSwap bank a b => exact rowSwap_wf bank a b w
  | scrub word => exact scrub_wf word w
  | correctedLineRewrite line => exact correctedLineRewrite_wf line w
  | traceDrain d => exact traceDrain_wf d w
  | rdmaWrite a bytes => exact rdmaWrite_wf a bytes w
  | rdmaRead a len => exact rdmaRead_wf a len w
  | mailboxRequest m => exact mailboxRequest_wf m w
  | frameCheckFailure port => exact .next (errEvent_wf _ w)
  | _ => cases hi

theorem exec_wf (i : Instr) (w : s.memWf = true) : OutWf (exec i s) := by
  cases hu : i.unit? with
  | none => exact execEvent_wf hu w
  | some u => exact execWord_wf hu w

end

end Sys2Proof.Machine
end

section
/-! SUPPORT. Memories keep their canonical form (log 51): schedule cycles (R25, R26, R63), positions of a cc (R24, R92), the end
of a cc, and every step. -/

namespace Sys2Proof.Machine

section
variable {s t : State}

namespace OutWf

/-- What a schedule cycle gives, gone on with. -/
theorem andThen {o : Host.Outcome State Fault Refusal} {f : State → Host.Outcome State Fault Refusal} (h : OutWf o)
    (hf : ∀ u : State, u.memWf = true → OutWf (f u)) : OutWf (Machine.andThen o f) := by
  cases o with
  | next u => exact hf u (h u rfl)
  | fault e => exact .fault e
  | refused r => exact .refused r

end OutWf

/-! A schedule cycle (R25, R26, R63, R103). -/

theorem runNext_wf (k : Who) (w : s.memWf = true) : OutWf (s.runNext k) := by
  unfold State.runNext
  cases s.nextGroup k with
  | miss va => exact .next (memWf_modCtx _ _ _ w)
  | bad code len h => exact .next (badWord_wf code len h w)
  | ok i => exact exec_wf i w

theorem drainLoop_wf (k : Who) (w : s.memWf = true) : (s.drainLoop k).memWf = true := by
  have h (b : Bool) : (if b then s.modClu k Cluster.reenter else s).memWf = true := wf_ite (fun _ => memWf_modClu _ _ _ w) fun _ => w
  unfold State.drainLoop
  exact wf_ite (fun _ => h _) fun _ => memWf_modClu _ _ _ (h _)

theorem runSc_wf (k : Who) (w : s.memWf = true) : OutWf (s.runSc k) := by
  have hb := beginSc_wf k w
  unfold State.runSc
  refine iteInduction (motive := OutWf) (fun _ => .next w) fun _ => ?_
  dsimp only
  generalize s.beginSc k = b at hb ⊢
  refine iteInduction (motive := OutWf) (fun _ => .next hb) fun _ => iteInduction (motive := OutWf) (fun _ => ?_) fun _ => ?_
  · exact .next (memWf_modMe _ _ (wf_ite (fun _ => (quiet_perfMe ..).wf hb) fun _ => hb))
  · have hd := drainLoop_wf k hb
    generalize b.drainLoop k = d at hd ⊢
    refine iteInduction (motive := OutWf) (fun _ => .next (memWf_modMe _ _ hd)) fun _ => ?_
    have hn := runNext_wf k hd
    generalize d.runNext k = o at hn ⊢
    cases o with
    | next u => exact .next (countStall_wf k (hn u rfl))
    | fault e => exact .fault e
    | refused r => exact .refused r

theorem presents_wf (k : Who) (w : s.memWf = true) : (s.presents k).memWf = true := by
  have hn := runNext_wf (s := { s with cur := k }) k (wf_with w rfl rfl)
  unfold State.presents
  refine wf_ite (fun _ => w) fun _ => ?_
  generalize State.runNext { s with cur := k } k = o at hn ⊢
  cases o with
  | next u => exact wf_ite (fun _ => w) fun _ => hn u rfl
  | fault | refused => exact w

/-! Positions of a cc (R24, R25, R92). -/

theorem syncStart_wf (k : Who) (w : s.memWf = true) : (s.syncStart k).memWf = true := memWf_modCtx _ _ _ (meetAll_wf _ w)

theorem anyReady_wf (n pos : Nat) (skip : Option Nat) (w : s.memWf = true) : OutWf (s.anyReady n pos skip) := by
  have h := wf_foldl (fun s x => if some x = skip then s else s.presents ⟨n, x, Clu.at pos⟩) (List.range 4)
    (fun _ _ _ h => wf_ite (fun _ => h) fun _ => presents_wf _ h) w
  unfold State.anyReady
  dsimp only
  generalize (List.range 4).foldl _ s = u at h ⊢
  split
  · exact .next h
  · refine iteInduction (motive := OutWf) (fun _ => ?_) fun _ => ?_
    · exact runSc_wf _ (syncStart_wf _ (wf_modCore _ _ h fun _ => ⟨rfl, rfl⟩))
    · exact runSc_wf _ (wf_modCore _ _ h fun _ => ⟨rfl, rfl⟩)

theorem freezeMissing_wf (n : Nat) (w : s.memWf = true) : (s.freezeMissing n).memWf = true := by
  unfold State.freezeMissing
  refine wf_foldl _ _ (fun u x _ h => wf_ite (fun _ => ?_) fun _ => h) w
  split
  · exact memWf_modCtx _ _ _ h
  · exact h

theorem position_wf (n pos : Nat) (w : s.memWf = true) : OutWf (s.position n pos) := by
  have h : (if pos = 0 then s.freezeMissing n else s).memWf = true := wf_ite (fun _ => freezeMissing_wf n w) fun _ => w
  unfold State.position
  refine iteInduction (motive := OutWf) (fun _ => .next w) fun _ => ?_
  dsimp only
  generalize (if pos = 0 then s.freezeMissing n else s) = u at h ⊢
  generalize (List.range 4).find? _ = group
  refine iteInduction (motive := OutWf) (fun _ => ?_) fun _ => ?_
  · refine iteInduction (motive := OutWf) (fun _ => runSc_wf _ h) fun _ => ?_
    refine iteInduction (motive := OutWf) (fun _ => runSc_wf _ (syncStart_wf _ h)) fun _ => ?_
    cases group with
    | none =>
      exact iteInduction (motive := OutWf) (fun _ => (runSc_wf _ h).andThen fun v hv => anyReady_wf _ _ _ hv) fun _ => runSc_wf _ h
    | some x => exact (runSc_wf _ h).andThen fun v hv => runSc_wf _ hv
  · cases group with
    | none => exact anyReady_wf _ _ _ h
    | some x => exact runSc_wf _ h

/-! The end of a cc (R120, R192, R207, R217, R381, R418). -/

theorem endTraps_wf (k : Who) (w : s.memWf = true) : (s.endTraps k).memWf = true := by
  unfold State.endTraps
  refine wf_ite (fun _ => wf_foldl _ _ (fun u k _ h => ?_) w) fun _ => w
  have hp : (if u.trapsNow k then u else u.presents k).memWf = true := wf_ite (fun _ => h) fun _ => presents_wf k h
  exact wf_ite (fun _ => trapCluster_wf k hp) fun _ => hp

theorem endLate_wf (k : Who) (w : s.memWf = true) : (s.endLate k).memWf = true := by
  unfold State.endLate
  refine wf_ite (fun _ => w) fun _ => ?_
  cases s.nextGroup k with
  | ok i =>
    have he := exec_wf i (s := ({ s with cur := k } : State).modClu k fun c => { c with barGo := true })
      (memWf_modClu _ _ _ (wf_with w rfl rfl))
    dsimp only
    generalize exec i _ = o at he ⊢
    cases o with
    | next u => exact memWf_modClu _ _ _ (he u rfl)
    | fault | refused => exact w
  | bad | miss => exact w

theorem finishCc_wf (w : s.memWf = true) : s.finishCc.memWf = true := by
  have h1 := wf_foldl (fun s k => (Who.clusters k).foldl State.endLate s) s.ticking
    (fun _ k _ h => wf_foldl State.endLate k.clusters (fun _ c _ h => endLate_wf c h) h) (endDirect_wf w)
  have h2 := wf_foldl State.endTraps s.ticking (fun _ k _ h => endTraps_wf k h) (endCc_wf h1)
  have h3 := wf_foldl (fun (s : State) (k : Who) => s.freeDue k.core k.ctx) s.ticking (fun _ k _ h => freeDue_wf k.core k.ctx h) h2
  exact wf_with h3 rfl rfl

theorem nextCc_wf (w : s.memWf = true) : s.nextCc.memWf = true := by
  have h1 : State.memWf { s with cores := s.cores.map fun e => (e.1, { e.2 with spmSeen := [] }) } = true :=
    wf_cores (fun e => (e.1, { e.2 with spmSeen := [] })) (fun _ => ⟨rfl, rfl⟩) w rfl rfl
  have h := startCc_wf h1
  unfold State.nextCc
  dsimp only
  generalize State.startCc _ = u at h ⊢
  split
  · exact wf_ite (fun _ => wf_with h rfl rfl) fun _ => finishCc_wf h
  · exact finishCc_wf h

theorem nextScan_wf (w : s.memWf = true) : s.nextScan.memWf = true := by
  unfold State.nextScan
  refine wf_ite (fun _ => wf_with w rfl rfl) fun _ => ?_
  split
  · exact wf_with w rfl rfl
  · exact finishCc_wf w

/-! Steps (logs 4 and 5). -/

theorem agents_wf (w : s.memWf = true) : OutWf s.agents := by
  unfold State.agents
  cases s.agenda with
  | nil =>
    have hf : State.memWf { s with free := s.free + 1 } = true := wf_with w rfl rfl
    dsimp only
    cases Config.freeAgent s.free with
    | none => exact .next (nextCc_wf hf)
    | some i => exact iteInduction (motive := OutWf) (fun _ => .next (nextCc_wf hf)) fun _ => exec_wf i hf
  | cons i r =>
    have ha : State.memWf { s with agenda := r } = true := wf_with w rfl rfl
    exact iteInduction (motive := OutWf) (fun _ => .next (nextCc_wf ha)) fun _ => exec_wf i ha

theorem step_wf (w : s.memWf = true) : OutWf (step s) := by
  unfold step
  exact iteInduction (motive := OutWf) (fun _ => (position_wf _ _ w).andThen fun u h => .next (nextScan_wf h)) fun _ => agents_wf w

end

/-- Settles O53: every operation of a step leaves memories canonical, so the step does. -/
theorem everyStepKeepsMemoriesCanonical : Obligations.EveryStepKeepsMemoriesCanonical := fun _ t w e => step_wf w t e

end Sys2Proof.Machine
end
